-- ==== Sys2Proof/Word.lean ====
section
/-! DEFINITION. The word types of the model: the bit vectors the spec's layouts are made of. -/

namespace Sys2Proof

abbrev Byte := BitVec 8
abbrev W8 := BitVec 8
abbrev W16 := BitVec 16
abbrev W20 := BitVec 20
abbrev W32 := BitVec 32
abbrev W48 := BitVec 48
abbrev W64 := BitVec 64
abbrev W256 := BitVec 256
abbrev W512 := BitVec 512

end Sys2Proof
end

