-- ==== Sys2Proof/Syntax.lean ====
section
/-! DEFINITION. The commands of the block: one constructor of `Instr` for each row of spec/opcode_table.json, with the
operands that reach the device from outside it: the fields of a command slot, an entry read from a ring, a packet, a flit,
a frame, a sensor reading, or the number of the object an event concerns. What the device would read by DMA from the
host's memory is an operand too, because that memory lies outside the block (log entry 3). -/

namespace Sys2Proof

/-- Where a Wisia command came from: a function's command ring (R39), or the helm bus (R369), which runs it as PF0. -/
inductive Origin where
  | ring (fn : Nat)
  | helm (src : W48) (seq : W16)
deriving DecidableEq, Repr

/-- One Wisia command as the device reads it: the fields of the 64-byte slot of Table 2-5, and the bytes of the indirect
parameter buffer (`none`: the device cannot read the buffer, R40). The opcode is the row's. -/
structure Cmd where
  origin   : Origin
  tag      : W16
  length   : W16
  function : W8
  indirect : Bool
  quiet    : Bool
  /-- Slot bits [63:58], [127:64] and [510:448], all RSVD. -/
  rsvd     : BitVec 133
  params   : BitVec 320
  buffer   : Option (List Byte)
deriving DecidableEq, Repr

/-- A command slot as a scan of the command ring finds it, with the indirect buffer it points to. -/
structure SlotRead where
  slot   : W512
  buffer : Option (List Byte)
deriving DecidableEq, Repr

/-- A register of a function's PCI Express configuration space that the spec names (R33, R60, R61, Table 3-1). `barSize`: what sizing BAR
`n` shows. -/
inductive CfgReg where
  | relaxedOrdering | atomicRequester | maxPayload | maxReadRequest | aspmL1 | ariEnable
  | linkRate | linkWidth | flitMode | aspmSupport | l1ExitLatency | laneMargining | maxPayloadSupported | tenBitTags | fourteenBitTags
  | noSnoop | flrCapable | aerCapable | totalVfs | firstVfOffset | vfStride | vfEnable | numVfs | translationServices
  | barSize (n : Nat)
deriving DecidableEq, Repr

/-- Where a host access to a register of a function goes: to an offset in BAR0 or BAR2, to configuration space, or to a register of a clocked
island that no data path reaches (R442). -/
inductive HostPlace where
  | bar0 (offset : Nat)
  | bar2 (offset : Nat)
  | config (reg : CfgReg)
  | control (island : Nat)
deriving DecidableEq, Repr

/-- A trained PCIe link: its width, its rate in tenths of GT/s, and whether the partner supports flit mode at lower rates (Table 3-1). -/
structure PcieTrained where
  width       : Nat
  rate        : Nat
  partnerFlit : Bool
deriving DecidableEq, Repr

/-- The entries a scan reads from a submission ring, from its consumer position on. -/
structure RingRead where
  ring    : Nat
  entries : List W512
deriving DecidableEq, Repr

/-- What a re-read finds: entries of a submission ring from its consumer position on, or slots of the command ring from `CMD_CONSUMED` on
(R39, R76). -/
inductive Reread where
  | entries (l : List W512)
  | commands (slots : List SlotRead)
deriving DecidableEq, Repr

/-- The value of `CQ_HEAD` of completion ring `cq`, as the device reads it from the header block (Table 3-6). -/
structure HeadRead where
  cq   : Nat
  head : W32
deriving DecidableEq, Repr

/-- A stream of work (R107): a queue pair, an operator stream of a function, a collective group, a request stream of
a spur port (R226), or an attention request of a pool. -/
inductive StreamId where
  | qp (n : Nat)
  | oper (fn stream : Nat)
  | coll (slot : Nat)
  | request (port stream : Nat)
  | attn (pool rec : Nat)
deriving DecidableEq, Repr

/-- An EHT base header, Table 5-1. -/
structure EhtHeader where
  version  : BitVec 4
  pathTag  : BitVec 4
  pktOp    : W8
  first    : Bool
  last     : Bool
  ackReq   : Bool
  solicited : Bool
  immPresent : Bool
  isSealed : Bool
  retx     : Bool
  rsvd0    : BitVec 9
  destQp   : W20
  rsvd1    : BitVec 12
  srcQp    : W20
  rsvd2    : BitVec 12
  seq      : W32
  msgNum   : W32
  recvNum  : W32
  msgOffset : W32
  msgLengthM1 : W32
  rkey     : W32
  msgDva   : W64
  txStamp  : W64
deriving DecidableEq, Repr

/-- What the outer headers of an arriving EHT datagram showed (R119, R174), and the address that it came from: on the fabric, where there
are none, bits [11:0] are the source device, and `admitted` is the mark of its flits (Table 8-2). -/
structure Envelope where
  ipOptions     : Bool
  ipv6ExtHeader : Bool
  fragment      : Bool
  badUdpChecksum : Bool
  ce            : Bool
  ipv6          : Bool
  source        : BitVec 128
  admitted      : Bool
deriving DecidableEq, Repr

/-- The seal block of a sealed packet, Table 14-2. -/
structure SealBlock where
  keyPhase  : Bool
  unitLast  : Bool
  rsvd0     : W8
  unitIndex : BitVec 22
  unitCtr   : W64
  rsvd1     : W32
  tag       : BitVec 128
deriving DecidableEq, Repr

/-- An arriving EHT packet: the port it arrived on (numbered as Table 7-4 numbers ports), its envelope, header, extension
headers (Table 5-3), seal block, payload and trailer. -/
structure RxPacket where
  port      : Nat
  env       : Envelope
  hdr       : EhtHeader
  immediate : Option W32
  atomic    : Option (W64 × W64)
  sealBlock : Option SealBlock
  payload   : List Byte
  crc       : W32
deriving DecidableEq, Repr

/-- `ACK` body, Table 6-2; `sack` lists the ranges [start, end). -/
structure AckBody where
  echoStamp  : W64
  recvStamp  : W64
  echoSeq    : W32
  ownRetired : W32
  echoPath   : BitVec 4
  stateLost  : Bool
  rsvd0      : BitVec 3
  ceCount    : W8
  rsvd1      : BitVec 12
  sackCount  : BitVec 4
  sack       : List (W32 × W32)
deriving DecidableEq, Repr

/-- `NAK` body, Table 6-3. -/
structure NakBody where
  reason     : W8
  rsvd       : BitVec 24
  nakSeq     : W32
  nakMsg     : W32
  ownRetired : W32
deriving DecidableEq, Repr

/-- `READ_REPAIR` body, Table 6-4. -/
structure RepairBody where
  rsvd   : BitVec 28
  count  : BitVec 4
  ranges : List (W32 × W32)
deriving DecidableEq, Repr

/-- An IFL flit: the header of Table 8-2 and its 128 bytes of payload. `spoiled`: on arrival, it overlaps a codeword that FEC could not
correct (R203). -/
structure Flit where
  destDev   : BitVec 12
  destPort  : BitVec 4
  epoch     : Bool
  slotClass : Bool
  deflectCount : BitVec 4
  turned    : Bool
  slotClaim : Bool
  type      : W8
  srcDev    : BitVec 12
  srcPort   : BitVec 4
  tc        : BitVec 3
  admitted  : Bool
  pathTag   : BitVec 4
  reversed  : Bool
  srcSpur   : Bool
  claimerPos : BitVec 6
  chunkSeq  : BitVec 24
  flitIndex : W8
  sigFrag   : W16
  hdrCrc    : W16
  payload   : List Byte
  spoiled   : Bool
deriving DecidableEq, Repr

/-- What training of a fabric port finds (Table 8-1): which of its four lanes trained, what the partner stated in the
identity exchange, and the smallest of the 16 probe round trips less the partner's turnaround, in ns. -/
structure TrainInfo where
  lanes       : BitVec 4
  partnerDev  : BitVec 12
  partnerPort : BitVec 4
  partnerRole : Nat
  partnerPilot : Bool
  wakeNeeded  : Nat
  wakeTolerated : Nat
  probeNs     : Nat
deriving DecidableEq, Repr

/-- A chunk of a collective: the inbound or outbound stream (leg and direction of R254) and its number. -/
structure ChunkId where
  leg  : Nat
  west : Bool
  num  : Nat
deriving DecidableEq, Repr

/-- The IP and UDP fields of a received frame that classification reads (Table 13-2); `dst` is numbered as `ADDR` of `eht.addr` is. -/
structure UdpInfo where
  ipv6    : Bool
  dst     : BitVec 128
  dstPort : W16
  ecn     : BitVec 2
deriving DecidableEq, Repr

/-- What RS(544,514) FEC found in the codewords that a frame overlaps and in those since the frame before (R351): corrected codewords,
uncorrectable codewords that the frame overlaps, and corrected symbols. -/
structure FecCount where
  corrected : Nat
  bad       : Nat
  symbols   : Nat
deriving DecidableEq, Repr

/-- A received Ethernet frame. A MAC address is numbered with its first octet highest. `length` counts from the destination address through
the FCS (R354), and `body` is the frame up to the FCS. -/
structure EthFrame where
  dst       : W48
  src       : W48
  vlanPcp   : Option (BitVec 3)
  dscp      : BitVec 6
  etherType : W16
  udp       : Option UdpInfo
  length    : Nat
  fcsOk     : Bool
  fec       : FecCount
  body      : List Byte
deriving DecidableEq, Repr

/-- A helm frame from the bus, Table 13-6: the sender, `HELM_KIND`, `HELM_SEQ`, and the slot it carries. `length` counts the frame from the
destination address through the FCS. -/
structure HelmFrame where
  src    : W48
  kind   : W16
  seq    : W16
  slot   : W512
  length : Nat
deriving DecidableEq, Repr

/-- What the rail sense measured over the 1 µs window that ends at a tick (R408), in mW: the fixed group, the mesh, the
reduction engines, each shoal, the tarn group; and the predicted rail currents per group are formed from these. -/
structure PowerMeas where
  fixed     : Nat
  mesh      : Nat
  reduction : Nat
  shoals    : List Nat
  tarn      : Nat
  /-- Nine rail powers in mW, in the order of `RAIL_DW` of Table 15-4. -/
  rails     : List Nat
  /-- Highest of the 50 µs means that end in this window, and the mean of the last 1 ms, in mW. -/
  mean50us  : Nat
  mean1ms   : Nat
deriving DecidableEq, Repr

/-- Phases of Table 15-2. -/
inductive Phase where
  | transfer | reduction | attention | ingest | idle
deriving DecidableEq, Repr

/-- A block group whose power the sextant controller sets (Table 15-1). -/
inductive Group where
  | mesh | reduction | shoal (n : Nat) | tarn
deriving DecidableEq, Repr

/-- What one group did in the 100 µs window that ends: its mean power in mW, its activity in units of 1/65,536, the share
of its active time in each phase (transfer, reduction, attention, ingest) in the same units, and the phase mix of the work
that is running or accepted at the window's end (all zero: none). -/
structure GroupWindow where
  group    : Group
  powerMw  : Nat
  activity : Nat
  mix      : List Nat
  ahead    : List Nat
deriving DecidableEq, Repr

/-- What the sextant controller reads at a window's end (R413). -/
structure WindowMeas where
  fixedMw    : Nat
  journalMw  : Nat
  groups     : List GroupWindow
  /-- Shoal-rail current per active unit measured for each operation class, in mA. -/
  unitMa     : List (Nat × Nat)
  /-- Handshake rate the predicted demand needs, in 10^6 cycles per second (R418). -/
  neededRate : Nat
  /-- Control-core load in percent (Table 15-3). -/
  controlLoad : Nat
deriving DecidableEq, Repr

/-- The two supplies that droop detectors watch (R420). -/
inductive Supply where
  | vddCore | vddIsl
deriving DecidableEq, Repr

/-- A part whose delay margin fell below its limit at the hourly measurement (R417): a shoal, a core or an island. -/
inductive AgedPart where
  | shoal (n : Nat) | core (n : Nat) | island (n : Nat)
deriving DecidableEq, Repr

/-- One measurement of R417: the part, whether its margin is below its limit, and for a shoal whether its rate at 0.68 V
and 105 °C would stay at or above 1.25 G cycles/s at the present floor and with the floor raised by 20 mV. -/
structure MarginReport where
  part      : AgedPart
  belowLimit : Bool
  okAtFloor : Bool
  okAtRaisedFloor : Bool
deriving DecidableEq, Repr

/-- A word that patrol scrub found correctable (R339): its place, and whether a write arrived since the scrub read it. -/
structure ScrubHit where
  channel : Nat
  bank    : Nat
  row     : Nat
  tpa     : Nat
  word    : List Byte
  overwritten : Bool
deriving DecidableEq, Repr

/-- The targets of a mapping (Table 4-1). -/
inductive Target where
  | host | tarn | spur
deriving DecidableEq, Repr

/-- An entry of the host copy of a translation table as a rebuild reads it (R91, R92): where it stands in host memory, and its eight bytes
(Table 4-1). Entries that no operand gives are zero. -/
structure HostEntry where
  hpa   : Nat
  entry : W64
deriving DecidableEq, Repr

/-- The straps of Table 17-2. -/
structure Straps where
  level1Sel  : Bool
  profileSel : BitVec 2
  bootRecovery : Bool
deriving DecidableEq, Repr

/-- A self-test failure as the tests find it (Table 17-5): what failed, the unit of its block that it marks (Table 17-7), and whether a
spare can take it. Units: of block 0x04 a lane, or 64 + the port whose cipher lane it is; of block 0x05 a lane, or 32 + the port; of block
0x09 0 a fathom, 1 a 64 KiB unit of the context cache. -/
structure TestResult where
  test     : W8
  block    : W8
  inst     : W16
  address  : W64
  bit      : W16
  measured : W32
  unit     : Nat
  spare    : Bool
deriving DecidableEq, Repr

/-- The commands of the block. -/
inductive Instr where
  /-- DEV_QUERY (R48). -/
  | devQuery (c : Cmd)
  /-- DEV_PROFILE (R58). -/
  | devProfile (c : Cmd)
  /-- PROFILE_TAKES_EFFECT (R58). -/
  | profileTakesEffect
  /-- DEV_TIME (R48). -/
  | devTime (c : Cmd)
  /-- DEV_RESET (R48). -/
  | devReset (c : Cmd)
  /-- DEV_PPS (R490). -/
  | devPps (c : Cmd)
  /-- FN_QUERY (R48). -/
  | fnQuery (c : Cmd)
  /-- FN_STOP (R51). -/
  | fnStop (c : Cmd)
  /-- FN_STOP_QUIESCED (R51). -/
  | fnStopQuiesced (fn : Nat)
  /-- FN_START (R53). -/
  | fnStart (c : Cmd) (found : List RingRead)
  /-- FN_RESET (R81). -/
  | fnReset (c : Cmd) (heads : List HeadRead)
  /-- FN_RESET_COMPLETE (R81). -/
  | fnResetComplete (fn : Nat)
  /-- FN_ATTACH (R87). -/
  | fnAttach (c : Cmd)
  /-- FN_LEVEL (R57). -/
  | fnLevel (c : Cmd)
  /-- FN_RETAIN (R88). -/
  | fnRetain (c : Cmd)
  /-- MR_SPACE (R105). -/
  | mrSpace (c : Cmd)
  /-- MR_REGISTER (R97). -/
  | mrRegister (c : Cmd)
  /-- MR_DEREGISTER (R104). -/
  | mrDeregister (c : Cmd)
  /-- MR_DEREGISTER_DONE (R104). -/
  | mrDeregisterDone (key : W32)
  /-- MR_REKEY (R96). -/
  | mrRekey (c : Cmd)
  /-- MR_QUERY (R104). -/
  | mrQuery (c : Cmd)
  /-- MR_MAP (R100). -/
  | mrMap (c : Cmd)
  /-- MR_UNMAP (R99). -/
  | mrUnmap (c : Cmd)
  /-- MR_SYNC (R102). -/
  | mrSync (c : Cmd)
  /-- MR_SYNC_DONE (R102). -/
  | mrSyncDone (fn : Nat)
  /-- MR_FAULT_REPLY (R112). -/
  | mrFaultReply (c : Cmd)
  /-- MR_BAR4_OPEN (R116). -/
  | mrBar4Open (c : Cmd)
  /-- MR_BAR4_CLOSE (R104). -/
  | mrBar4Close (c : Cmd)
  /-- MR_SPUR_GRANT (R101). -/
  | mrSpurGrant (c : Cmd)
  /-- SPUR_REVOKE_DONE (R101). -/
  | spurRevokeDone (fn : Nat)
  /-- QP_CREATE (R127). -/
  | qpCreate (c : Cmd)
  /-- QP_CONNECT (R128). -/
  | qpConnect (c : Cmd)
  /-- QP_QUERY (R127). -/
  | qpQuery (c : Cmd)
  /-- QP_RESET (R128). -/
  | qpReset (c : Cmd)
  /-- QP_RESET_DONE (R128). -/
  | qpResetDone (qp : Nat)
  /-- QP_DESTROY (R128). -/
  | qpDestroy (c : Cmd)
  /-- QP_DESTROY_DONE (R128). -/
  | qpDestroyDone (qp : Nat)
  /-- QP_ADMIT (R192). -/
  | qpAdmit (c : Cmd)
  /-- QP_RELEASE (R172). -/
  | qpRelease (c : Cmd)
  /-- QP_ADMIT_QUERY (R190). -/
  | qpAdmitQuery (c : Cmd)
  /-- SRQ_CREATE (R129). -/
  | srqCreate (c : Cmd)
  /-- SRQ_DESTROY (R127). -/
  | srqDestroy (c : Cmd)
  /-- EHT_PORT (R119). -/
  | ehtPort (c : Cmd)
  /-- EHT_ADDR (R127). -/
  | ehtAddr (c : Cmd)
  /-- RING_SQ_CREATE (R64). -/
  | ringSqCreate (c : Cmd)
  /-- RING_CQ_CREATE (R64). -/
  | ringCqCreate (c : Cmd)
  /-- RING_SCHED (R79). -/
  | ringSched (c : Cmd)
  /-- RING_MODERATE (R63). -/
  | ringModerate (c : Cmd)
  /-- RING_DESTROY (R65). -/
  | ringDestroy (c : Cmd)
  /-- RING_RETRY (R76). -/
  | ringRetry (c : Cmd)
  /-- RING_QUOTA (R62). -/
  | ringQuota (c : Cmd)
  /-- HOST_WATCHDOG (R85). -/
  | hostWatchdog (c : Cmd)
  /-- CC_CLASS (R186). -/
  | ccClass (c : Cmd)
  /-- QOS_SHARE (R180). -/
  | qosShare (c : Cmd)
  /-- SCHED_TC (R179). -/
  | schedTc (c : Cmd)
  /-- SCHED_QP (R179). -/
  | schedQp (c : Cmd)
  /-- SHAPER_SET (R183). -/
  | shaperSet (c : Cmd)
  /-- POLICER_SET (R184). -/
  | policerSet (c : Cmd)
  /-- SND_RING (R188). -/
  | sndRing (c : Cmd)
  /-- SND_ADD (R189). -/
  | sndAdd (c : Cmd)
  /-- SND_REMOVE (R190). -/
  | sndRemove (c : Cmd)
  /-- CNT_READ (R372). -/
  | cntRead (c : Cmd)
  /-- CNT_NOTIFY (R371). -/
  | cntNotify (c : Cmd)
  /-- ETH_PORT_SET (R348). -/
  | ethPortSet (c : Cmd)
  /-- ETH_PORT_QUERY (R373). -/
  | ethPortQuery (c : Cmd)
  /-- ETH_PFC (R359). -/
  | ethPfc (c : Cmd)
  /-- ETH_FRAMES (R360). -/
  | ethFrames (c : Cmd)
  /-- ETH_FRAME_SEND (R361). -/
  | ethFrameSend (c : Cmd)
  /-- ETH_MCAST (R355). -/
  | ethMcast (c : Cmd)
  /-- HELM_SET (R369). -/
  | helmSet (c : Cmd)
  /-- HELM_QUERY (R369). -/
  | helmQuery (c : Cmd)
  /-- COLL_SETUP (R232). -/
  | collSetup (c : Cmd)
  /-- FATHOM_RESERVATION_GRANT (R255). -/
  | fathomReservationGrant
  /-- COLL_SETUP_READY (R234): the exchange has brought these records, by ascending fabric number. -/
  | collSetupReady (slot : Nat) (records : List W64)
  /-- COLL_SETUP_TIMEOUT (R257). -/
  | collSetupTimeout (slot : Nat)
  /-- COLL_TEARDOWN (R276). -/
  | collTeardown (c : Cmd)
  /-- COLL_TEARDOWN_DONE (R276). -/
  | collTeardownDone (slot : Nat)
  /-- COLL_QUERY (R276). -/
  | collQuery (c : Cmd)
  /-- COLL_ABORT_CMD (R271). -/
  | collAbortCmd (c : Cmd)
  /-- KV_POOL_CREATE (R279). -/
  | kvPoolCreate (c : Cmd)
  /-- KV_POOL_DESTROY (R305). -/
  | kvPoolDestroy (c : Cmd)
  /-- KV_POOL_DESTROY_DONE (R305). -/
  | kvPoolDestroyDone (pool : Nat)
  /-- KV_POOL_QUERY (R305). -/
  | kvPoolQuery (c : Cmd)
  /-- KV_SEAL (R284). -/
  | kvSeal (c : Cmd)
  /-- KV_SEAL_DONE (R284). -/
  | kvSealDone (pool user : Nat)
  /-- KV_USER_RESET (R305). -/
  | kvUserReset (c : Cmd)
  /-- KV_USER_PIN (R285). -/
  | kvUserPin (c : Cmd)
  /-- KV_USER_PIN_DONE (R285). -/
  | kvUserPinDone (pool user : Nat)
  /-- KV_USER_UNPIN (R286). -/
  | kvUserUnpin (c : Cmd)
  /-- KV_USER_UNPIN_DONE (R286). -/
  | kvUserUnpinDone (pool user : Nat)
  /-- KV_PARTNER (R292). -/
  | kvPartner (c : Cmd)
  /-- PWR_GRANT (R406). -/
  | pwrGrant (c : Cmd)
  /-- PWR_FALLBACK (R407). -/
  | pwrFallback (c : Cmd)
  /-- PWR_QUERY (R427). -/
  | pwrQuery (c : Cmd)
  /-- PWR_LEARN (R415). -/
  | pwrLearn (c : Cmd)
  /-- SEC_IDENTITY (R395). -/
  | secIdentity (c : Cmd)
  /-- SEC_ATTEST (R396). -/
  | secAttest (c : Cmd)
  /-- SEC_KEM_OFFER (R379). -/
  | secKemOffer (c : Cmd)
  /-- SEC_KEM_ACCEPT (R379). -/
  | secKemAccept (c : Cmd)
  /-- SEC_KEM_FINISH (R379). -/
  | secKemFinish (c : Cmd)
  /-- SEC_ACCORD_DROP (R380). -/
  | secAccordDrop (c : Cmd)
  /-- SEC_QP_SEAL (R382). -/
  | secQpSeal (c : Cmd)
  /-- SEC_QP_REKEY (R383). -/
  | secQpRekey (c : Cmd)
  /-- SEC_QP_QUERY (R403). -/
  | secQpQuery (c : Cmd)
  /-- SEC_FW_BEGIN (R399). -/
  | secFwBegin (c : Cmd)
  /-- SEC_FW_CHUNK (R399). -/
  | secFwChunk (c : Cmd)
  /-- SEC_FW_COMMIT (R399). -/
  | secFwCommit (c : Cmd)
  /-- SEC_FW_COMMIT_DONE (R399). -/
  | secFwCommitDone
  /-- SEC_SELFTEST (R400). -/
  | secSelftest (c : Cmd)
  /-- SEC_SELFTEST_DONE (R401). -/
  | secSelftestDone (failing : W64)
  /-- SEC_ZEROIZE (R402). -/
  | secZeroize (c : Cmd)
  /-- SEC_ZEROIZE_DONE (R402). -/
  | secZeroizeDone
  /-- SEC_OFFICER (R375). -/
  | secOfficer (c : Cmd)
  /-- SEC_LOGIN (R375). -/
  | secLogin (c : Cmd)
  /-- FAB_IDENT (R200). -/
  | fabIdent (c : Cmd)
  /-- FAB_PORT_SET (R199). -/
  | fabPortSet (c : Cmd)
  /-- FAB_PORT_QUERY (R230). -/
  | fabPortQuery (c : Cmd)
  /-- FAB_RING_QUERY (R230). -/
  | fabRingQuery (c : Cmd)
  /-- SPUR_STREAM (R226). -/
  | spurStream (c : Cmd)
  /-- ROUTE_WRITE (R218). -/
  | routeWrite (c : Cmd)
  /-- ROUTE_ARM (R217). -/
  | routeArm (c : Cmd)
  /-- ROUTE_DISARM (R218). -/
  | routeDisarm (c : Cmd)
  /-- ROUTE_COMMIT (R217). -/
  | routeCommit (c : Cmd)
  /-- ROUTE_QUERY (R230). -/
  | routeQuery (c : Cmd)
  /-- ROUTE_DRAIN (R220). -/
  | routeDrain (c : Cmd)
  /-- DIAG_RESULTS (R465). -/
  | diagResults (c : Cmd)
  /-- DIAG_SELFTEST (R465). -/
  | diagSelftest (c : Cmd)
  /-- DIAG_INVENTORY (R465). -/
  | diagInventory (c : Cmd)
  /-- DIAG_LOOPBACK (R466). -/
  | diagLoopback (c : Cmd)
  /-- DIAG_LOOPBACK_DONE (R466). -/
  | diagLoopbackDone (bits worstErrors : W64) (worstLane : W8)
  /-- FAULT_QUERY (R477). -/
  | faultQuery (c : Cmd)
  /-- FAULT_ACK (R470). -/
  | faultAck (c : Cmd)
  /-- CHANNEL_ENABLE (R36). -/
  | channelEnable (fn : Nat) (value : W32)
  /-- CHANNEL_DISABLE (R36). -/
  | channelDisable (fn : Nat) (value : W32)
  /-- CHANNEL_DOWN_COMPLETE (R36). -/
  | channelDownComplete (fn : Nat)
  /-- CMD_DOORBELL (R39). -/
  | cmdDoorbell (fn : Nat) (slots : List SlotRead) (fqHead : Option W32)
  /-- REPLY_HEAD_WRITE (R44). -/
  | replyHeadWrite (fn : Nat) (value : W32) (slots : List SlotRead)
  /-- REGISTER_WRITE (R36): a write of a value with a width in bits; without a value, a read. -/
  | registerWrite (fn : Nat) (place : HostPlace) (width : Nat) (value : Option W64)
  /-- SQ_DOORBELL (R75). -/
  | sqDoorbell (fn offset width : Nat) (value : W64) (entries : List W512) (head : Option W32)
  /-- SQ_DOORBELL_LEVEL1 (R77). -/
  | sqDoorbellLevel1 (fn offset width : Nat) (value : W64) (entries : List W512) (head : Option W32)
  /-- RING_REREAD (R76): of a submission ring, or of the command ring as ring 0. -/
  | ringReread (fn ring : Nat) (found : Reread)
  /-- ENTRY_ACCEPT (R21). -/
  | entryAccept (fn ring : Nat)
  /-- JOURNAL_BACKPRESSURE_RELEASE (R17). -/
  | journalBackpressureRelease (pair : Nat)
  /-- NOP (R68). -/
  | nop (rec : Nat)
  /-- WORK_WRITE (R131). -/
  | workWrite (rec : Nat)
  /-- WORK_WRITE_IMM (R131). -/
  | workWriteImm (rec : Nat)
  /-- WORK_READ (R131). -/
  | workRead (rec : Nat)
  /-- WORK_SEND (R131). -/
  | workSend (rec : Nat)
  /-- WORK_ATOMIC_FADD (R133). -/
  | workAtomicFadd (rec : Nat)
  /-- WORK_ATOMIC_CSWAP (R133). -/
  | workAtomicCswap (rec : Nat)
  /-- WORK_FLUSH (R141). -/
  | workFlush (rec : Nat)
  /-- WORK_FENCE (R134). -/
  | workFence (rec : Nat)
  /-- POST_RECEIVE (R129). -/
  | postReceive (rec : Nat)
  /-- POST_COLLECTIVE (R242). -/
  | postCollective (rec : Nat)
  /-- ATTENTION_REQUEST (R287). -/
  | attentionRequest (rec : Nat) (query : List Byte)
  /-- SHOAL_OPERATOR (R313). -/
  | shoalOperator (rec : Nat) (fetched : List Byte)
  /-- TILE_START (R322). -/
  | tileStart (rec : Nat) (fetched : List Byte)
  /-- TRANSLATION_MISS_WALK (R107). -/
  | translationMissWalk (stream : StreamId) (dva : W64)
  /-- MISS_SLOT_GRANT (R108). -/
  | missSlotGrant
  /-- FQ_HEAD_REREAD (R114). -/
  | fqHeadReread (fn : Nat) (head : W32)
  /-- BAR4_READ (R117). -/
  | bar4Read (fn : Nat) (offset len : Nat)
  /-- BAR4_WRITE (R116). -/
  | bar4Write (fn : Nat) (offset : Nat) (bytes : List Byte)
  /-- PACKET_TRANSMIT (R179). -/
  | packetTransmit (port : Nat) (fetched : List Byte)
  /-- PKT_WRITE (R150). -/
  | pktWrite (p : RxPacket)
  /-- PKT_WRITE_IMM (R138). -/
  | pktWriteImm (p : RxPacket)
  /-- PKT_READ_REQ (R132). -/
  | pktReadReq (p : RxPacket)
  /-- PKT_READ_RESP (R135). -/
  | pktReadResp (p : RxPacket)
  /-- PKT_SEND (R138). -/
  | pktSend (p : RxPacket)
  /-- PKT_ATOMIC_FADD (R157). -/
  | pktAtomicFadd (p : RxPacket) (prior : W64)
  /-- PKT_ATOMIC_CSWAP (R157). -/
  | pktAtomicCswap (p : RxPacket) (prior : W64)
  /-- PKT_ATOMIC_RESP (R159). -/
  | pktAtomicResp (p : RxPacket)
  /-- PKT_FLUSH (R141). -/
  | pktFlush (p : RxPacket)
  /-- PKT_ACK (R159). -/
  | pktAck (p : RxPacket) (body : AckBody)
  /-- PKT_NAK (R158). -/
  | pktNak (p : RxPacket) (body : NakBody)
  /-- PKT_READ_REPAIR (R156). -/
  | pktReadRepair (p : RxPacket) (body : RepairBody)
  /-- MOD_TIME_EXPIRY (R63). -/
  | modTimeExpiry (fn cq : Nat)
  /-- ACK_COALESCE_TIMER (R148). -/
  | ackCoalesceTimer (qp : Nat)
  /-- RETRANSMIT_TIMEOUT (R154). -/
  | retransmitTimeout (qp : Nat)
  /-- RNR_RESEND (R139). -/
  | rnrResend (qp : Nat)
  /-- FAULT_WAIT_RESEND (R150). -/
  | faultWaitResend (qp : Nat)
  /-- SILENCE_LIMIT (R155). -/
  | silenceLimit (qp : Nat)
  /-- NO_PATH_TIMEOUT (R142). -/
  | noPathTimeout (qp : Nat)
  /-- PEER_SILENT (R472). -/
  | peerSilent (stream : StreamId)
  /-- CC_EPOCH_END (R175). -/
  | ccEpochEnd (qp : Nat)
  /-- ADMISSION_RECHECK (R32). -/
  | admissionRecheck
  /-- COPY_ACK_DEADLINE (R196). -/
  | copyAckDeadline (qp : Nat) (seq : W32)
  /-- SHAPER_REFILL (R183). -/
  | shaperRefill
  /-- POLICER_REFILL (R184). -/
  | policerRefill
  /-- SOUNDING_SAMPLE (R187). -/
  | soundingSample (kind : Nat) (queueId : W20) (head : Option W32)
  /-- CQ_HEAD_POLL (R163). -/
  | cqHeadPoll (fn cq : Nat) (head : W32)
  /-- RETENTION_EXPIRY (R88). -/
  | retentionExpiry (fn : Nat)
  /-- HOST_WATCHDOG_EXPIRY (R85). -/
  | hostWatchdogExpiry (fn : Nat) (heads : List HeadRead)
  /-- FLR (R81). -/
  | flr (fn : Nat) (heads : List HeadRead)
  /-- VF_ENABLE (R84). -/
  | vfEnable (numVfs : Nat)
  /-- VF_DISABLE (R84). -/
  | vfDisable
  /-- PERST_N_ASSERT (R85). -/
  | perstNAssert (widthNs : Nat)
  /-- PERST_N_RELEASE (R455). -/
  | perstNRelease
  /-- DL_DOWN (R85). -/
  | dlDown
  /-- HOT_RESET (R85). -/
  | hotReset (secondaryBus : Bool)
  /-- CROSSING_READY (R438). -/
  | crossingReady (island : Nat)
  /-- CROSSING_SYNC (R438). -/
  | crossingSync (island : Nat)
  /-- PCIE_REFCLK_LOSS (R432). -/
  | pcieRefclkLoss
  /-- PCIE_REFCLK_RETURN (R432). -/
  | pcieRefclkReturn
  /-- L1_ENTRY (R61). -/
  | l1Entry
  /-- ISLAND_CLOCK_STOP (R38). -/
  | islandClockStop (island : Nat)
  /-- ISLAND_WAKE (R441). -/
  | islandWake (island : Nat)
  /-- RING_FLIT_ARRIVE (R209). -/
  | ringFlitArrive (port slot : Nat) (f : Flit)
  /-- SLOT_CLAIM (R211). -/
  | slotClaim (port slot : Nat) (f : Flit)
  /-- REASSEMBLY_TIMEOUT (R207). -/
  | reassemblyTimeout (src tag : Nat)
  /-- FLIT_MARKER (R219). -/
  | flitMarker (port : Nat) (f : Flit)
  /-- FLIT_RING_STATUS (R222). -/
  | flitRingStatus (port : Nat) (f : Flit)
  /-- BEARING_DRAIN_END (R217). -/
  | bearingDrainEnd
  /-- FABRIC_PORT_TRAINED (R201). -/
  | fabricPortTrained (port : Nat) (t : TrainInfo)
  /-- FABRIC_TRAINING_RETRY (R201). -/
  | fabricTrainingRetry (port : Nat)
  /-- FABRIC_PORT_LOST (R204). -/
  | fabricPortLost (port : Nat)
  /-- SPUR_CMD (R344). -/
  | spurCmd (port : Nat) (f : Flit)
  /-- SPUR_DATA (R225). -/
  | spurData (port : Nat) (f : Flit)
  /-- SPUR_COMMIT (R345). -/
  | spurCommit (port : Nat) (f : Flit)
  /-- SPUR_ACCESS_TIMEOUT (R225). -/
  | spurAccessTimeout (port tag : Nat)
  /-- STREAM_REQ (R226). -/
  | streamReq (port : Nat) (f : Flit)
  /-- STREAM_CPL_ACK (R226). -/
  | streamCplAck (port : Nat) (f : Flit)
  /-- STREAM_RESEND (R226). -/
  | streamResend (port stream : Nat)
  /-- KV_QUERY (R291). -/
  | kvQuery (port : Nat) (f : Flit)
  /-- KV_QUERY_FALLBACK (R291). -/
  | kvQueryFallback (rec : Nat) (fetched : List Byte)
  /-- APPEND_SEAL (R284). -/
  | appendSeal (rec : Nat)
  /-- HOLD_RELEASE (R302). -/
  | holdRelease
  /-- RAMP_WAVE (R303). -/
  | rampWave
  /-- SPUR_IDLE_ENTRY (R228). -/
  | spurIdleEntry (port : Nat)
  /-- SPUR_WAKE (R228). -/
  | spurWake (port : Nat)
  /-- PILOT_NARROW (R229). -/
  | pilotNarrow (port : Nat)
  /-- PILOT_WIDEN (R229). -/
  | pilotWiden (port : Nat)
  /-- COLL_DATA (R254). -/
  | collData (port : Nat) (f : Flit)
  /-- COLL_TAIL (R260). -/
  | collTail (port : Nat) (f : Flit)
  /-- COLL_ACK (R262). -/
  | collAck (port : Nat) (f : Flit)
  /-- COLL_AGREE (R246). -/
  | collAgree (port : Nat) (f : Flit)
  /-- COLL_ABORT (R271). -/
  | collAbort (port : Nat) (f : Flit)
  /-- REDUCTION_PASS_DONE (R252). -/
  | reductionPassDone (engine : Nat) (residueOk : Bool)
  /-- COLL_CHUNK_TIMER (R262). -/
  | collChunkTimer (slot : Nat) (chunk : ChunkId)
  /-- COLL_MEMBER_TIMEOUT (R270). -/
  | collMemberTimeout (slot : Nat) (chunk : ChunkId)
  /-- ETH_FRAME_RX (R355). -/
  | ethFrameRx (link : Nat) (f : EthFrame) (head : Option W32)
  /-- PFC_FRAME_RX (R358). -/
  | pfcFrameRx (link : Nat) (enable : W8) (times : List W16)
  /-- PFC_REFRESH (R358). -/
  | pfcRefresh (link : Nat)
  /-- PFC_PAUSE_EXPIRE (R358). -/
  | pfcPauseExpire (link tc : Nat)
  /-- ETH_LINK_DOWN (R352). -/
  | ethLinkDown (link : Nat)
  /-- ETH_LINK_UP (R352). -/
  | ethLinkUp (link : Nat)
  /-- LINK_EVENT_DEFERRED_WRITE (R360). -/
  | linkEventDeferredWrite (head : W32)
  /-- LLDP_SEND (R363). -/
  | lldpSend
  /-- LPI_ENTRY (R364). -/
  | lpiEntry (link : Nat)
  /-- LPI_WAKE (R364). -/
  | lpiWake (link : Nat)
  /-- HELM_COMMAND (R369). -/
  | helmCommand (f : HelmFrame)
  /-- HELM_BACKOFF_EXPIRY (R367). -/
  | helmBackoffExpiry (collided late : Bool)
  /-- ENFORCEMENT_TICK (R409). -/
  | enforcementTick (m : PowerMeas)
  /-- SEXTANT_DIVISION (R413). -/
  | sextantDivision (w : WindowMeas)
  /-- GRANT_EXPIRY (R407). -/
  | grantExpiry
  /-- SENSOR_SAMPLE (R423). -/
  | sensorSample (readings : List Int)
  /-- THERMTRIP (R426). -/
  | thermtrip (sensor : Nat) (reading : Int)
  /-- THERMAL_WINDOW (R424). -/
  | thermalWindow
  /-- DROOP_DETECT (R420). -/
  | droopDetect (supply : Supply) (site : Nat) (mv : Nat)
  /-- DROOP_RECOVERY (R420). -/
  | droopRecovery (supply : Supply)
  /-- DROOP_LONG (R421). -/
  | droopLong (supply : Supply)
  /-- DEFERRED_FREQ_CHANGE (R422). -/
  | deferredFreqChange
  /-- AGEING_MONITOR (R417). -/
  | ageingMonitor (report : List MarginReport)
  /-- DRBG_RESEED (R376). -/
  | drbgReseed (entropy : BitVec 384)
  /-- MASK_RESEED (R377). -/
  | maskReseed (lane : Nat)
  /-- LANE_KAT (R400). -/
  | laneKat (lane : Nat) (passed : Bool)
  /-- PERIODIC_SELFTEST (R400). -/
  | periodicSelftest (failing : W64)
  /-- OFFER_EXPIRY (R380). -/
  | offerExpiry (offer : W64)
  /-- OFFICER_SESSION_EXPIRY (R375). -/
  | officerSessionExpiry
  /-- UNIT_ZEROS_COMMITTED (R392). -/
  | unitZerosCommitted (qp : Nat) (own : Bool) (msg : W32) (unit : Nat)
  /-- REFRESH (R339). -/
  | refresh (tarn : Nat)
  /-- PATROL_SCRUB (R339). -/
  | patrolScrub (tarn : Nat) (corrected : List ScrubHit)
  /-- UNCORRECTABLE_ERROR (R338). -/
  | uncorrectableError (tpa : Nat)
  /-- ROW_REPAIR_DONE (R340). -/
  | rowRepairDone (tarn channel bank row : Nat)
  /-- CHANNEL_LOST (R341). -/
  | channelLost (tarn channel : Nat)
  /-- INTERLEAVE_REFORMED (R342). -/
  | interleaveReformed
  /-- JOURNAL_REMIRRORED (R166). -/
  | journalRemirrored (tarn channel : Nat)
  /-- TABLE_REBUILT (R92). -/
  | tableRebuilt (fn : Nat) (host : List HostEntry)
  /-- TARN_LOST (R471). -/
  | tarnLost (tarn : Nat)
  /-- CHANNEL_POWER_DOWN (R347). -/
  | channelPowerDown (tarn channel : Nat)
  /-- FAULT_PENDING_WRITE (R468). -/
  | faultPendingWrite (fn : Nat) (head : W32)
  /-- AGG_WINDOW_BOUNDARY (R473). -/
  | aggWindowBoundary
  /-- AGG_ENTRY_CLOSE (R474). -/
  | aggEntryClose
  /-- FW_HEARTBEAT_TICK (R37). -/
  | fwHeartbeatTick
  /-- FW_WATCHDOG_EXPIRY (R452). -/
  | fwWatchdogExpiry
  /-- FW_RESTART_COMPLETE (R452). -/
  | fwRestartComplete (verified : Bool)
  /-- POWER_ON_RELEASE (R445). -/
  | powerOnRelease (straps : Straps) (selftest : List TestResult) (clocksOk suppliesOk : Bool)
  /-- RAIL_OUT_OF_TOLERANCE (R445). -/
  | railOutOfTolerance (rail : Nat)
  /-- REFCLK_ABSENT_TIMEOUT (R446). -/
  | refclkAbsentTimeout
  /-- START_COMPLETE (R453). -/
  | startComplete (imageOk : Bool) (crypto : W64)
  /-- DEVICE_RESET_TAKES_EFFECT (R454). -/
  | deviceResetTakesEffect (straps : Straps) (selftest : List TestResult) (clocksOk suppliesOk : Bool)
  /-- RESTART_COMPLETE (R451). -/
  | restartComplete (imageOk : Bool) (crypto : W64)
  /-- PPS_EDGE (R490). -/
  | ppsEdge (highNs : Nat)
  /-- TRST_N_ASSERT (R494). -/
  | trstNAssert
  /-- LOSS_OF_ONE_SHOAL (R304). -/
  | lossOfOneShoal (shoal : Nat)
  /-- LOSS_OF_ONE_CONTROL_CORE (R20). -/
  | lossOfOneControlCore (core : Nat)
  /-- CORE_SET_RESTORED (R27). -/
  | coreSetRestored
  /-- REFERENCES_PRESENT (R446). -/
  | referencesPresent
  /-- PCIE_LINK_RETRAINED (R85). -/
  | pcieLinkRetrained (link : PcieTrained)
  /-- L1_EXIT (R61). -/
  | l1Exit
  /-- UNIT_AT_REST (R303). -/
  | unitAtRest (shoal unit : Nat)
  /-- HEALTH_TEST_FAILURE (R376). -/
  | healthTestFailure (proportion : Bool)
  /-- PARTNER_LPI_ENTRY (R364). -/
  | partnerLpiEntry (link : Nat)
  /-- PARTNER_LPI_EXIT (R364). -/
  | partnerLpiExit (link : Nat)
  /-- TRST_N_RELEASE (R494). -/
  | trstNRelease
  /-- TCK_EDGE (R494). -/
  | tckEdge (tms tdi : Bool)
deriving DecidableEq, Repr

end Sys2Proof
end

