-- ==== Sys2Proof/WellFormed.lean ====
section
/-! DEFINITION. Well-formed commands: every operand that numbers a thing names one that the spec gives the device (Tables 1-1 to 1-3, 2-5, 8-2,
15-1), and every operand that carries bytes has a length that its carrier allows. A meaning does not rest on it: a command that names nothing
the device has is answered, or changes nothing. -/

namespace Sys2Proof

/-- PF0 is 0, VF n is n in [1, 255] (R4). -/
def fnOk (n : Nat) : Bool := decide (n < 256)
/-- Ring numbers have 16 bits. -/
def ringOk (n : Nat) : Bool := decide (n < 65536)
/-- Queue-pair numbers have 20 bits. -/
def qpOk (n : Nat) : Bool := decide (n < 2 ^ 20)
/-- 32 `PORT_ID`s of Ethernet links (R349). -/
def linkOk (n : Nat) : Bool := decide (n < 32)
/-- 16 fabric ports (R199). -/
def portOk (n : Nat) : Bool := decide (n < 16)
/-- Ethernet links, then fabric ports from 32 on. -/
def anyPortOk (n : Nat) : Bool := decide (n < 48)
/-- 64 request streams of a spur port (R226). -/
def streamOk (n : Nat) : Bool := decide (n < 64)
/-- Traffic classes (Table 7-1). -/
def tcOk (n : Nat) : Bool := decide (n < 8)
/-- Islands of Table 1-2. -/
def islandOk (n : Nat) : Bool := decide (n < 18)
def tarnOk (n : Nat) : Bool := decide (n < 4)
/-- Channels of a tarn (R334). -/
def channelOk (n : Nat) : Bool := decide (n < 64)
/-- Tarn physical addresses (Table 1-3): 256 GiB. -/
def tpaOk (n : Nat) : Bool := decide (n < 2 ^ 38)
/-- Journal mirror pairs (R16). -/
def pairOk (n : Nat) : Bool := decide (n < 2)
/-- Rails of Table 15-1. -/
def railOk (n : Nat) : Bool := decide (n < 9)
/-- Temperature sensors (R423). -/
def sensorOk (n : Nat) : Bool := decide (n < 48)
def shoalOk (n : Nat) : Bool := decide (n < 16)
def coreOk (n : Nat) : Bool := decide (n < 12)
/-- Reduction engines (Table 1-1). -/
def engineOk (n : Nat) : Bool := decide (n < 8)
/-- AES-GCM lanes (R374). -/
def laneOk (n : Nat) : Bool := decide (n < 20)
/-- BAR0 of PF0 has 1 MiB, that of a VF 128 KiB (Table 2-1). -/
def bar0Ok (fn offset : Nat) : Bool := decide (offset < if fn = 0 then 2 ^ 20 else 2 ^ 17)
/-- BAR2 has 64 KiB (Table 2-1); a function has six BARs. -/
def placeOk (a : HostPlace) : Bool :=
  match a with
  | .bar0 offset => decide (offset < 2 ^ 20)
  | .bar2 offset => decide (offset < 2 ^ 16)
  | .config (.barSize n) => decide (n < 6)
  | .config _ => true
  | .control island => islandOk island
/-- A flit's payload is 128 bytes (R205). -/
def flitOk (f : Flit) : Bool := f.payload.length == 128
/-- A packet carries at most one `MTU` (R122). -/
def packetOk (p : RxPacket) : Bool := anyPortOk p.port && decide (p.payload.length ≤ 4096)
/-- A frame is no shorter than its addresses, type, wrapper and FCS. -/
def helmOk (f : HelmFrame) : Bool := decide (26 ≤ f.length)
/-- One reading for each sensor. -/
def readingsOk (l : List Int) : Bool := l.length == 48
/-- Block instances are numbered in 16 bits (Table 17-6). -/
def resultsOk (l : List TestResult) : Bool := l.all fun r => decide (r.unit < 65536)
/-- A command of a function that exists, with a buffer that `LENGTH` can state (Table 2-5). -/
def cmdOk (c : Cmd) : Bool :=
  (match c.origin with | .ring fn => fnOk fn | .helm _ _ => true) &&
  (match c.buffer with | some b => decide (b.length ≤ 65535) | none => true)

/-- The command is well formed. -/
def wellFormed (i : Instr) : Bool :=
  match i with
  | .devQuery c => cmdOk c
  | .devProfile c => cmdOk c
  | .profileTakesEffect => true
  | .devTime c => cmdOk c
  | .devReset c => cmdOk c
  | .devPps c => cmdOk c
  | .fnQuery c => cmdOk c
  | .fnStop c => cmdOk c
  | .fnStopQuiesced fn => fnOk fn
  | .fnStart c _ => cmdOk c
  | .fnReset c _ => cmdOk c
  | .fnResetComplete fn => fnOk fn
  | .fnAttach c => cmdOk c
  | .fnLevel c => cmdOk c
  | .fnRetain c => cmdOk c
  | .mrSpace c => cmdOk c
  | .mrRegister c => cmdOk c
  | .mrDeregister c => cmdOk c
  | .mrDeregisterDone _ => true
  | .mrRekey c => cmdOk c
  | .mrQuery c => cmdOk c
  | .mrMap c => cmdOk c
  | .mrUnmap c => cmdOk c
  | .mrSync c => cmdOk c
  | .mrSyncDone fn => fnOk fn
  | .mrFaultReply c => cmdOk c
  | .mrBar4Open c => cmdOk c
  | .mrBar4Close c => cmdOk c
  | .mrSpurGrant c => cmdOk c
  | .spurRevokeDone fn => fnOk fn
  | .qpCreate c => cmdOk c
  | .qpConnect c => cmdOk c
  | .qpQuery c => cmdOk c
  | .qpReset c => cmdOk c
  | .qpResetDone qp => qpOk qp
  | .qpDestroy c => cmdOk c
  | .qpDestroyDone qp => qpOk qp
  | .qpAdmit c => cmdOk c
  | .qpRelease c => cmdOk c
  | .qpAdmitQuery c => cmdOk c
  | .srqCreate c => cmdOk c
  | .srqDestroy c => cmdOk c
  | .ehtPort c => cmdOk c
  | .ehtAddr c => cmdOk c
  | .ringSqCreate c => cmdOk c
  | .ringCqCreate c => cmdOk c
  | .ringSched c => cmdOk c
  | .ringModerate c => cmdOk c
  | .ringDestroy c => cmdOk c
  | .ringRetry c => cmdOk c
  | .ringQuota c => cmdOk c
  | .hostWatchdog c => cmdOk c
  | .ccClass c => cmdOk c
  | .qosShare c => cmdOk c
  | .schedTc c => cmdOk c
  | .schedQp c => cmdOk c
  | .shaperSet c => cmdOk c
  | .policerSet c => cmdOk c
  | .sndRing c => cmdOk c
  | .sndAdd c => cmdOk c
  | .sndRemove c => cmdOk c
  | .cntRead c => cmdOk c
  | .cntNotify c => cmdOk c
  | .ethPortSet c => cmdOk c
  | .ethPortQuery c => cmdOk c
  | .ethPfc c => cmdOk c
  | .ethFrames c => cmdOk c
  | .ethFrameSend c => cmdOk c
  | .ethMcast c => cmdOk c
  | .helmSet c => cmdOk c
  | .helmQuery c => cmdOk c
  | .collSetup c => cmdOk c
  | .fathomReservationGrant => true
  | .collSetupReady _ _ => true
  | .collSetupTimeout _ => true
  | .collTeardown c => cmdOk c
  | .collTeardownDone _ => true
  | .collQuery c => cmdOk c
  | .collAbortCmd c => cmdOk c
  | .kvPoolCreate c => cmdOk c
  | .kvPoolDestroy c => cmdOk c
  | .kvPoolDestroyDone _ => true
  | .kvPoolQuery c => cmdOk c
  | .kvSeal c => cmdOk c
  | .kvSealDone _ _ => true
  | .kvUserReset c => cmdOk c
  | .kvUserPin c => cmdOk c
  | .kvUserPinDone _ _ => true
  | .kvUserUnpin c => cmdOk c
  | .kvUserUnpinDone _ _ => true
  | .kvPartner c => cmdOk c
  | .pwrGrant c => cmdOk c
  | .pwrFallback c => cmdOk c
  | .pwrQuery c => cmdOk c
  | .pwrLearn c => cmdOk c
  | .secIdentity c => cmdOk c
  | .secAttest c => cmdOk c
  | .secKemOffer c => cmdOk c
  | .secKemAccept c => cmdOk c
  | .secKemFinish c => cmdOk c
  | .secAccordDrop c => cmdOk c
  | .secQpSeal c => cmdOk c
  | .secQpRekey c => cmdOk c
  | .secQpQuery c => cmdOk c
  | .secFwBegin c => cmdOk c
  | .secFwChunk c => cmdOk c
  | .secFwCommit c => cmdOk c
  | .secFwCommitDone => true
  | .secSelftest c => cmdOk c
  | .secSelftestDone _ => true
  | .secZeroize c => cmdOk c
  | .secZeroizeDone => true
  | .secOfficer c => cmdOk c
  | .secLogin c => cmdOk c
  | .fabIdent c => cmdOk c
  | .fabPortSet c => cmdOk c
  | .fabPortQuery c => cmdOk c
  | .fabRingQuery c => cmdOk c
  | .spurStream c => cmdOk c
  | .routeWrite c => cmdOk c
  | .routeArm c => cmdOk c
  | .routeDisarm c => cmdOk c
  | .routeCommit c => cmdOk c
  | .routeQuery c => cmdOk c
  | .routeDrain c => cmdOk c
  | .diagResults c => cmdOk c
  | .diagSelftest c => cmdOk c
  | .diagInventory c => cmdOk c
  | .diagLoopback c => cmdOk c
  | .diagLoopbackDone _ _ _ => true
  | .faultQuery c => cmdOk c
  | .faultAck c => cmdOk c
  | .channelEnable fn _ => fnOk fn
  | .channelDisable fn _ => fnOk fn
  | .channelDownComplete fn => fnOk fn
  | .cmdDoorbell fn _ _ => fnOk fn
  | .replyHeadWrite fn _ _ => fnOk fn
  | .registerWrite fn place _ _ => fnOk fn && placeOk place
  | .sqDoorbell fn offset _ _ _ _ => fnOk fn && bar0Ok fn offset
  | .sqDoorbellLevel1 fn offset _ _ _ _ => fnOk fn && bar0Ok fn offset
  | .ringReread fn ring found => fnOk fn && ringOk ring && (match found with | .entries _ => true | .commands _ => ring == 0)
  | .entryAccept fn ring => fnOk fn && ringOk ring
  | .journalBackpressureRelease pair => pairOk pair
  | .nop _ => true
  | .workWrite _ => true
  | .workWriteImm _ => true
  | .workRead _ => true
  | .workSend _ => true
  | .workAtomicFadd _ => true
  | .workAtomicCswap _ => true
  | .workFlush _ => true
  | .workFence _ => true
  | .postReceive _ => true
  | .postCollective _ => true
  | .attentionRequest _ _ => true
  | .shoalOperator _ _ => true
  | .tileStart _ _ => true
  | .translationMissWalk _ _ => true
  | .missSlotGrant => true
  | .fqHeadReread fn _ => fnOk fn
  | .bar4Read fn _ _ => fnOk fn
  | .bar4Write fn _ _ => fnOk fn
  | .packetTransmit port _ => anyPortOk port
  | .pktWrite p => packetOk p
  | .pktWriteImm p => packetOk p
  | .pktReadReq p => packetOk p
  | .pktReadResp p => packetOk p
  | .pktSend p => packetOk p
  | .pktAtomicFadd p _ => packetOk p
  | .pktAtomicCswap p _ => packetOk p
  | .pktAtomicResp p => packetOk p
  | .pktFlush p => packetOk p
  | .pktAck p _ => packetOk p
  | .pktNak p _ => packetOk p
  | .pktReadRepair p _ => packetOk p
  | .modTimeExpiry fn cq => fnOk fn && ringOk cq
  | .ackCoalesceTimer qp => qpOk qp
  | .retransmitTimeout qp => qpOk qp
  | .rnrResend qp => qpOk qp
  | .faultWaitResend qp => qpOk qp
  | .silenceLimit qp => qpOk qp
  | .noPathTimeout qp => qpOk qp
  | .peerSilent _ => true
  | .ccEpochEnd qp => qpOk qp
  | .admissionRecheck => true
  | .copyAckDeadline qp _ => qpOk qp
  | .shaperRefill => true
  | .policerRefill => true
  | .soundingSample _ _ _ => true
  | .cqHeadPoll fn cq _ => fnOk fn && ringOk cq
  | .retentionExpiry fn => fnOk fn
  | .hostWatchdogExpiry fn _ => fnOk fn
  | .flr fn _ => fnOk fn
  | .vfEnable _ => true
  | .vfDisable => true
  | .perstNAssert _ => true
  | .perstNRelease => true
  | .dlDown => true
  | .hotReset _ => true
  | .crossingReady island => islandOk island
  | .crossingSync island => islandOk island
  | .pcieRefclkLoss => true
  | .pcieRefclkReturn => true
  | .l1Entry => true
  | .islandClockStop island => islandOk island
  | .islandWake island => islandOk island
  | .ringFlitArrive port _ f => portOk port && flitOk f
  | .slotClaim port _ f => portOk port && flitOk f
  | .reassemblyTimeout _ _ => true
  | .flitMarker port f => portOk port && flitOk f
  | .flitRingStatus port f => portOk port && flitOk f
  | .bearingDrainEnd => true
  | .fabricPortTrained port _ => portOk port
  | .fabricTrainingRetry port => portOk port
  | .fabricPortLost port => portOk port
  | .spurCmd port f => portOk port && flitOk f
  | .spurData port f => portOk port && flitOk f
  | .spurCommit port f => portOk port && flitOk f
  | .spurAccessTimeout port _ => portOk port
  | .streamReq port f => portOk port && flitOk f
  | .streamCplAck port f => portOk port && flitOk f
  | .streamResend port stream => portOk port && streamOk stream
  | .kvQuery port f => portOk port && flitOk f
  | .kvQueryFallback _ _ => true
  | .appendSeal _ => true
  | .holdRelease => true
  | .rampWave => true
  | .spurIdleEntry port => portOk port
  | .spurWake port => portOk port
  | .pilotNarrow port => portOk port
  | .pilotWiden port => portOk port
  | .collData port f => portOk port && flitOk f
  | .collTail port f => portOk port && flitOk f
  | .collAck port f => portOk port && flitOk f
  | .collAgree port f => portOk port && flitOk f
  | .collAbort port f => portOk port && flitOk f
  | .reductionPassDone engine _ => engineOk engine
  | .collChunkTimer _ _ => true
  | .collMemberTimeout _ _ => true
  | .ethFrameRx link _ _ => linkOk link
  | .pfcFrameRx link _ _ => linkOk link
  | .pfcRefresh link => linkOk link
  | .pfcPauseExpire link tc => linkOk link && tcOk tc
  | .ethLinkDown link => linkOk link
  | .ethLinkUp link => linkOk link
  | .linkEventDeferredWrite _ => true
  | .lldpSend => true
  | .lpiEntry link => linkOk link
  | .lpiWake link => linkOk link
  | .helmCommand f => helmOk f
  | .helmBackoffExpiry _ _ => true
  | .enforcementTick _ => true
  | .sextantDivision _ => true
  | .grantExpiry => true
  | .sensorSample readings => readingsOk readings
  | .thermtrip sensor _ => sensorOk sensor
  | .thermalWindow => true
  | .droopDetect _ _ _ => true
  | .droopRecovery _ => true
  | .droopLong _ => true
  | .deferredFreqChange => true
  | .ageingMonitor _ => true
  | .drbgReseed _ => true
  | .maskReseed lane => laneOk lane
  | .laneKat lane _ => laneOk lane
  | .periodicSelftest _ => true
  | .offerExpiry _ => true
  | .officerSessionExpiry => true
  | .unitZerosCommitted qp _ _ _ => qpOk qp
  | .refresh tarn => tarnOk tarn
  | .patrolScrub tarn _ => tarnOk tarn
  | .uncorrectableError tpa => tpaOk tpa
  | .rowRepairDone tarn channel _ _ => tarnOk tarn && channelOk channel
  | .channelLost tarn channel => tarnOk tarn && channelOk channel
  | .interleaveReformed => true
  | .journalRemirrored tarn channel => tarnOk tarn && channelOk channel
  | .tableRebuilt fn _ => fnOk fn
  | .tarnLost tarn => tarnOk tarn
  | .channelPowerDown tarn channel => tarnOk tarn && channelOk channel
  | .faultPendingWrite fn _ => fnOk fn
  | .aggWindowBoundary => true
  | .aggEntryClose => true
  | .fwHeartbeatTick => true
  | .fwWatchdogExpiry => true
  | .fwRestartComplete _ => true
  | .powerOnRelease _ selftest _ _ => resultsOk selftest
  | .railOutOfTolerance rail => railOk rail
  | .refclkAbsentTimeout => true
  | .startComplete _ _ => true
  | .deviceResetTakesEffect _ selftest _ _ => resultsOk selftest
  | .restartComplete _ _ => true
  | .ppsEdge _ => true
  | .trstNAssert => true
  | .lossOfOneShoal shoal => shoalOk shoal
  | .lossOfOneControlCore core => coreOk core
  | .coreSetRestored => true
  | .referencesPresent => true
  | .pcieLinkRetrained link => decide (link.width ≤ 16)
  | .l1Exit => true
  | .unitAtRest shoal _ => shoalOk shoal
  | .healthTestFailure _ => true
  | .partnerLpiEntry link => linkOk link
  | .partnerLpiExit link => linkOk link
  | .trstNRelease => true
  | .tckEdge _ _ => true

end Sys2Proof
end

