-- ==== Sys2Proof/Decode.lean ====
section
/-! DEFINITION. Commands from words. The opcode table gives no row any bits: its rows are commands and events that reach the device through
registers, rings, links and pins, so no word spells one. Command slots are read in Machine/Operands.lean, packets in Machine/Deliver.lean. -/

namespace Sys2Proof

/-- The command that a word spells by the table's bits: none, for no row has bits. -/
def decodeTableWord (_nbits _w : Nat) : Option Instr := none

end Sys2Proof
end

