-- ==== Sys2Proof/Config.lean ====
section
/-! DEFINITION. What an implementation fixes and the spec leaves open: free values, each an opaque constant without a body,
so that a statement proved here holds whatever the value is (log entry 2). -/

namespace Sys2Proof.Config

/-- `FW_VERSION` of the running image (Table 2-9); the spec states no version. -/
opaque fwVersion : BitVec 32

/-- The n-th value that the device draws where the spec names a fresh value and not its bits: attach tokens (Table 2-8),
nonces, offer numbers. -/
opaque freeWord : Nat → BitVec 64

/-- Whether the peer queue pair at an address runs at level 1 (R56); the spec does not say how the device learns it. -/
opaque peerLevel1 : BitVec 128 → BitVec 32 → Bool

/-- Latency in ns of a fabric link that does not end at this device, by its device at its western end and its axis; the spec
does not say how the device learns it (R192, R208). -/
opaque linkLatency : Nat → Nat → Nat

/-- The positions at which ring `line` of an axis has devices, bit by bit: the spec does not say how a device learns them before a bearing
is ACTIVE (R208, log entry 28). -/
opaque ringMembers : Nat → Nat → BitVec 64

/-- The wake time in ns that this device states when a spur port trains, which the spec does not give (R228). -/
opaque wakeNs : Nat

/-- Entries of the reassembly store for packets on the fabric, one flit each; the spec gives no size (R207). -/
opaque reasmEntries : Nat

/-- Where the scale byte of an MX block stands in the source or destination of a collective: after the elements, or before them.
The spec stores scales where the owning structure names, and names no place for collectives (R307, log entry 31). -/
opaque mxScaleLast : Bool

/-! ### Functions of the attention operator whose rounding the spec does not give (R295, log entry 40), on FP32 codes -/

/-- exp. -/
opaque fpExp : BitVec 32 → BitVec 32

/-- tanh. -/
opaque fpTanh : BitVec 32 → BitVec 32

/-- m_h = 2^(-8(h+1)/`Q_HEADS`), where the exponent is not whole: head, heads. -/
opaque alibiSlope : Nat → Nat → BitVec 32

/-! ### Cryptography, uninterpreted (log entry 8) -/

/-- The seal key of one direction (R381, Table 14-1): from the accord secret, the label, the sender's `SERIAL`, and the
sending and receiving queue pairs. -/
opaque sealKey : BitVec 256 → BitVec 32 → BitVec 64 → BitVec 20 → BitVec 20 → BitVec 288

/-- Byte `i` of the AES-256-GCM keystream of a unit under a key and `UNIT_CTR` (R386). -/
opaque gcmStream : BitVec 288 → BitVec 64 → Nat → BitVec 8

/-- The GCM tag of a unit: key, `UNIT_CTR`, additional data, ciphertext (R386). -/
opaque gcmTag : BitVec 288 → BitVec 64 → List (BitVec 8) → List (BitVec 8) → BitVec 128

/-- The fused MAC address of the helm bus (R369). -/
opaque helmMac : BitVec 48

/-- The fused device `SERIAL` (Table 14-3). -/
opaque serial : BitVec 64

/-- SHAKE256 of a byte string: its first 64 bytes, of which the 256-bit digests take 32 (R395, R396). -/
opaque shake256 : List (BitVec 8) → BitVec 512

/-- The Falcon-1024 public key of the device's identity, and the identity authority's signature over its record (Table 14-3). -/
opaque identityKey : BitVec 14344
opaque authoritySig : BitVec 10240

/-- The identity signature over bytes, made with the randomness of the n-th draw. -/
opaque sign : Nat → List (BitVec 8) → BitVec 10240

/-- A Falcon-1024 signature verifies: public key, message, signature. -/
opaque falconOk : List (BitVec 8) → List (BitVec 8) → List (BitVec 8) → Bool

/-- The authority signature of an identity record chains to the Umlyn root (R395). -/
opaque identityOk : List (BitVec 8) → Bool

/-- ML-KEM-1024: the encapsulation key made from a draw, whether its pairwise consistency test passes, the ciphertext and the secret that
encapsulation with a draw gives, and the secret that decapsulation with the key of a draw gives. -/
opaque kemKey : Nat → BitVec 12544
opaque kemPairOk : Nat → Bool
opaque kemCipher : BitVec 12544 → Nat → BitVec 12544
opaque kemSecret : BitVec 12544 → Nat → BitVec 256
opaque kemOpen : Nat → BitVec 12544 → BitVec 256

/-- The firmware image that the device left manufacture with, and the digest of its boot ROM (R396). -/
opaque factoryImage : List (BitVec 8)
opaque romDigest : BitVec 512

/-- An image's certificate and signature verify, and its security version (R397). -/
opaque imageOk : List (BitVec 8) → Bool
opaque imageVersion : List (BitVec 8) → BitVec 32

/-! ### Power (log entry 49) -/

/-- Fused learned demand of a group in a phase at full activity, in mW (R415): phase, group. -/
opaque fusedDemand : Nat → Nat → Nat

/-- Fused current of an operation class per active unit, in mA. -/
opaque fusedUnitMa : Nat → Nat

/-- Power that the mesh, and the tarns, need to carry admitted flows of a total rate in MB/s, at the floor corner, in mW (R413). -/
opaque admittedMesh : Nat → Nat
opaque admittedTarn : Nat → Nat

/-- Percent of a group's power that a rail carries (Table 15-1): group 1 reduction, 2 shoals on `VDD_CORE`; group 3 tarns on `VDD_ISL` and 4
tarns on `VDD_TARN`. -/
opaque railShare : Nat → Nat

/-- Power that a demand takes at a setpoint in mV, in mW (R418). -/
opaque powerAt : Nat → Nat → Nat

/-! ### JTAG (log entry 50) -/

/-- The IDCODE, and the instruction register's codes of IDCODE, SAMPLE and the result-log read. -/
opaque idcode : BitVec 32
opaque irIdcode : BitVec 8
opaque irSample : BitVec 8
opaque irResultLog : BitVec 8

/-- Cells of the boundary register, and what SAMPLE captures in a cell with the n-th draw. -/
opaque boundaryLen : Nat
opaque boundaryCell : Nat → Nat → Bool

end Sys2Proof.Config
end

