-- ==== Sys2Proof/Machine/Bits.lean ====
section
/-! DEFINITION. Bit fields, byte orders and check codes, as the spec's layouts use them. -/

namespace Sys2Proof.Machine

/-- Bits [lo+w-1 : lo] of a number. -/
def bits (v lo w : Nat) : Nat := v / 2 ^ lo % 2 ^ w

/-- Bit `i` of a number. -/
def bit (v i : Nat) : Bool := v / 2 ^ i % 2 == 1

/-- A flag as a one-bit field. -/
def flag (b : Bool) : Nat := if b then 1 else 0

/-- A structure built from fields (lowest bit, width, value), each cut to its width. -/
def pack (fields : List (Nat × Nat × Nat)) : Nat :=
  (fields.map fun f => f.2.2 % 2 ^ f.2.1 * 2 ^ f.1).sum

/-- Two's complement of `i` in `w` bits. -/
def twos (i : Int) (w : Nat) : Nat := (i % (2 ^ w : Int)).toNat

/-- `n` bytes of a number, little-endian (R6). -/
def leBytes (n v : Nat) : List Byte := (List.range n).map fun i => BitVec.ofNat 8 (v / 2 ^ (8 * i))

/-- The number that little-endian bytes spell. -/
def ofLe : List Byte → Nat
  | [] => 0
  | b :: rest => b.toNat + 256 * ofLe rest

/-- `n` bytes of a number in network byte order (R6). -/
def beBytes (n v : Nat) : List Byte := (leBytes n v).reverse

/-- The number that bytes in network order spell. -/
def ofBe (l : List Byte) : Nat := ofLe l.reverse

/-- `n` bytes from offset `off`; bytes beyond the end read as zero. -/
def slice (l : List Byte) (off n : Nat) : List Byte :=
  let got := (l.drop off).take n
  got ++ List.replicate (n - got.length) 0

/-- Smallest multiple of `p` above `t`. -/
def nextMultiple (t p : Nat) : Nat := (t / p + 1) * p

/-- ⌈a / b⌉. -/
def ceilDiv (a b : Nat) : Nat := (a + b - 1) / b

/-- One bit of a shift-left check register of `w` bits with polynomial `poly`. -/
def crcStepL (w poly : Nat) (r : Nat) : Nat :=
  let r2 := r * 2
  if r2 / 2 ^ w = 0 then r2 else (r2 % 2 ^ w) ^^^ poly

/-- One byte of a check code, most significant bit first. -/
def crcByteL (w poly : Nat) (r : Nat) (b : Byte) : Nat :=
  Nat.repeat (crcStepL w poly) 8 (r ^^^ (b.toNat * 2 ^ (w - 8)))

/-- A check code taken most significant bit first. -/
def crcL (w poly init : Nat) (l : List Byte) : Nat := l.foldl (crcByteL w poly) init

/-- One bit of a shift-right check register with reflected polynomial `poly`. -/
def crcStepR (poly : Nat) (r : Nat) : Nat := if r % 2 = 1 then (r / 2) ^^^ poly else r / 2

/-- One byte of a reflected check code. -/
def crcByteR (poly : Nat) (r : Nat) (b : Byte) : Nat := Nat.repeat (crcStepR poly) 8 (r ^^^ b.toNat)

/-- CRC-32C (R125, R260): reflected polynomial 0x82F63B78, initial value and final exclusive-or of all ones (log entry
12). -/
def crc32c (l : List Byte) : W32 := BitVec.ofNat 32 (l.foldl (crcByteR 0x82F63B78) 0xFFFFFFFF ^^^ 0xFFFFFFFF)

/-- CRC-16 of journal records (R161): polynomial 0x1021, initial value 0xFFFF. -/
def crc16 (l : List Byte) : W16 := BitVec.ofNat 16 (crcL 16 0x1021 0xFFFF l)

/-- Remove the first element that satisfies `p`. -/
def dropFirst {α : Type} (p : α → Bool) : List α → List α
  | [] => []
  | a :: rest => if p a then rest else a :: dropFirst p rest

/-- The smallest of a list. -/
def minNat (l : List Nat) (d : Nat) : Nat := l.foldl min (l.headD d)

end Sys2Proof.Machine
end

