-- ==== Sys2Proof/Machine/State.lean ====
section
/-! DEFINITION. The state of the device as plain data: every register, table, queue, buffer, counter, mode and pin that
the spec names, chapter by chapter, the queue of waiting commands, and the state right after reset. Objects that are
numbered (functions, rings, queue pairs, regions ...) stand in tables keyed by their number. -/

namespace Sys2Proof.Machine

/-- A table keyed by number, ascending and without repeats (`tabSet` keeps it so). -/
abbrev Tab (α : Type) := List (Nat × α)

/-! ### Chapter 0 and 2: the device and the command channel -/

/-- Status codes, Table 0-3 (R10). -/
inductive Status where
  | ok | accepted
  | invalidOpcode | invalidParam | noResource | notPermitted | functionStopped | busy | levelUnsupported
  | keyInvalid | keyStale | accessDenied | translationFault | bounds
  | remoteUnreachable | retryExhausted | flushed | rnrExhausted | admissionDenied | deadlineMissed
  | collMismatch | collNores | collCheck | collAborted
  | bearingBusy | fabricPartition
  | authFail | keySpent | length | cryptoSelftest
  | cacheMiss | operatorFormat
deriving DecidableEq, Repr

/-- Operating profiles (Table 0-2 gives their codes). -/
inductive Profile where
  | balanced | latency | efficiency
deriving DecidableEq, Repr

/-- The device's life (chapter 17): in device reset, starting, in ROM recovery, running, held in the boot ROM for want of a
reference (R446), in a firmware restart (R452), or stopped by a thermal trip (R426). -/
inductive Life where
  | inReset | starting | waitingRefs | romRecovery | running | fwRestart | restarting | tripped
deriving DecidableEq, Repr

/-- What a start was (`RESULT2` [3:0] of `diag.results`, Table 17-9). -/
inductive StartKind where
  | cold | railsHeld | selftest
deriving DecidableEq, Repr

/-- `CHANNEL_STATE` of one function while the device itself is neither resetting nor in ROM recovery (Table 2-3). -/
inductive ChanState where
  | down | ready | fault
deriving DecidableEq, Repr

/-- `FUNCTION_STATE`, Table 2-3. -/
inductive FnMode where
  | disabled | stopped | running | stopping | resetting | held
deriving DecidableEq, Repr

/-- The channel page and ring indices of one function (Tables 2-2 and 2-3). -/
structure Channel where
  mode        : ChanState
  cmdBase     : W64
  replyBase   : W64
  ringSizes   : W32
  replyVector : W16
  enable      : Bool
  replyHead   : W16
  /-- Index of the next reply entry the device writes. -/
  replyIndex  : W16
  /-- `CMD_CONSUMED`. -/
  consumed    : W16
  /-- 0 was written to `ENABLE`; the channel enters DOWN when every command read has its final reply (R36). -/
  disabling   : Bool
  /-- Reading stopped for want of reply entries (R44). -/
  starved     : Bool
  /-- A scan is under way: it has not read a slot that is not owned. When the latest doorbell came, the re-reads that are left, and when the
  next is due (R39, R76). -/
  scanning    : Bool
  doorbellAt  : Nat
  rereads     : Nat
  rereadAt    : Nat
deriving DecidableEq, Repr

/-- An MSI-X table entry: message address, data, and the Mask bit (R33). -/
structure MsixEntry where
  addr : W64
  data : W32
  mask : Bool
deriving DecidableEq, Repr

/-- A reply entry's fields, Table 2-6. -/
structure Reply where
  tag      : W16
  status   : Status
  opcode   : W16
  function : W8
  final    : Bool
  result0  : W64
  result1  : W64
  result2  : BitVec 56
deriving DecidableEq, Repr

/-- A run of consecutive pages of a function's DVA space with one target: its first DVA, its bytes, and where it leads. -/
structure Page where
  dva    : Nat
  len    : Nat
  target : Target
  port   : Nat
  addr   : Nat
deriving DecidableEq, Repr

/-- A staged change (R99): a mapping, or the removal of a range. -/
inductive Staged where
  | map (p : Page)
  | unmap (dva len : Nat)
deriving DecidableEq, Repr

/-- A spur window granted to a VF (R101). -/
structure Grant where
  port : Nat
  base : Nat
  len  : Nat
deriving DecidableEq, Repr

/-- What a command still owes (its owning chapter names the event that ends it). -/
inductive Deferral where
  | fnStop (fn : Nat)
  | attach (fn : Nat)
  | profile (p : Profile) (boundary : Nat)
  | mrDeregister (key : W32)
  | mrSync (fn : Nat) (epoch : W32) (freed : List Nat)
  | spurRevoke (fn : Nat) (epoch : W32) (grant : Grant) (pages : List Page) (staged : List Staged)
  | qpReset (qp : Nat)
  | qpDestroy (qp : Nat)
  | shaperSet (key : Nat) (rate depth : Nat)
  | policerSet (key : Nat) (cir pir cbs pbs : Nat)
  | frameSend (link : Nat) (tc : Nat) (since : Nat) (frame : List Byte)
  | collSetup (slot : Nat)
  | collTeardown (slot : Nat)
  | kvPoolDestroy (pool : Nat)
  | kvSeal (pool user first count blocks sealed : Nat)
  | kvPin (pool user : Nat)
  | kvUnpin (pool user : Nat)
  | fwCommit
  | selftest
  | zeroize
  | loopback (kind port mode : Nat) (ends : Nat)
  /-- `route.commit` of a generation that flipped at an instant: its markers have not all left (R219). -/
  | routeCommit (generation flipTime : Nat)
deriving DecidableEq, Repr

/-- A command that has been read and whose final reply is still owed. -/
structure Pending where
  origin   : Origin
  tag      : W16
  opcode   : W16
  function : W8
  quiet    : Bool
  /-- Its first reply (`ACCEPTED`) has been written. -/
  answered : Bool
  /-- The function whose reset holds its remaining replies (R54), if one began after it was read. -/
  heldFor  : Option Nat
  what     : Deferral
deriving DecidableEq, Repr

/-- A reply held under R54: the function whose `fn.attach` delivers it, its journal record, the channel that read the
command, and the entry. -/
structure HeldReply where
  fn       : Nat
  record   : Nat
  origin   : Origin
  quiet    : Bool
  reply    : Reply
deriving DecidableEq, Repr

/-! ### Chapter 3: functions, rings, the host link -/

/-- A submission ring. Indices count entries since creation (or the latest `fn.attach`); a wire index is taken modulo 2^16. -/
structure SubRing where
  base     : W64
  log2     : Nat
  weight   : Nat
  burst    : Nat
  cq       : Nat
  /-- Its accepted-word slot in the completion ring's header block. -/
  slot     : Nat
  accepted : Nat
  /-- Entries read as owned and not yet accepted, oldest first, at most 8 (R75). -/
  prefetched : List W512
  /-- Level 1: entries up to the latest `PRODUCER_INDEX` (R77). -/
  producer : Nat
  running  : Bool
  /-- Level 2: a scan is under way; it has not read an entry that is not owned yet (R75). -/
  scanning : Bool
  doorbellAt : Nat
  /-- Re-reads left, and when the next is due (R76). -/
  rereads  : Nat
  rereadAt : Nat
  /-- Entries accepted in the present round and in the present visit of weighted round robin (R79). -/
  roundTaken : Nat
  visitTaken : Nat
deriving DecidableEq, Repr

/-- A completion ring and its header block (Tables 3-6 to 3-8). -/
structure CplRing where
  base     : W64
  header   : W64
  log2     : Nat
  vector   : Option Nat
  modCount : Nat
  modTime  : Nat
  /-- W of R71. -/
  written  : Nat
  /-- `CQ_HEAD` as last read. -/
  head     : W32
  /-- A of R71. -/
  outstanding : Nat
  counted  : Nat
  firstCounted : Option Nat
  /-- Some bound submission ring is blocked by R71. -/
  blocked  : Bool
deriving DecidableEq, Repr

/-- One host-visible fault record before it is written (Tables 4-5 and 18-1 to 18-3). -/
inductive FaultBody where
  | translation (access kind : Nat) (dva pages streamId : Nat) (epoch : W32) (keyIndex : Nat)
  | event (severity : Nat) (aggregated closed : Bool) (stamp : Nat) (node : W16) (cause : W16) (subject : W32) (count : W32)
      (detail : BitVec 24)
  | lostRange (tpa : Bool) (base pages : Nat) (cause : W16)
  | sealFailure (zeroed : Bool) (base : Nat) (qp : Nat) (unitIndex : Nat) (msgNum : W32)
deriving DecidableEq, Repr

/-- The function's space as `mr.space` names it (R104), and its fault-queue partition (R113). -/
structure Space where
  root     : W64
  fqBase   : W64
  fqHeader : W64
  fqLog2   : Nat
  fqVector : Nat
  /-- Records written to this partition; `FQ_HEAD` as last read. -/
  written  : Nat
  head     : W32
  overflow : Bool
  overflowCount : W32
deriving DecidableEq, Repr

/-- A BAR4 window's binding (R116). -/
structure Window where
  index  : Nat
  gen    : W8
  offset : Nat
  canRead  : Bool
  canWrite : Bool
deriving DecidableEq, Repr

/-- The sounding ring (R188). -/
structure SoundRing where
  base    : W64
  header  : W64
  log2    : Nat
  vector  : Nat
  written : Nat
  head    : W32
  dropped : W32
  signalledAt : Option Nat
deriving DecidableEq, Repr

/-- A translation fault that waits to be written (R114); `full`: it has had to wait for space in its partition. -/
structure WaitingFault where
  suspId : Nat
  order  : Nat
  full   : Bool
  body   : FaultBody
deriving DecidableEq, Repr

/-- One function: PF0 is 0, VF n is n. -/
structure Function where
  mode      : FnMode
  level1    : Bool
  retention : Nat
  token     : Option W64
  /-- Start of the retention time; `attaching`: an `fn.attach` defers expiry (R88). -/
  heldSince : Option Nat
  /-- VF Enable was cleared by a conventional reset or an FLR of PF0 (R84). -/
  latent    : Bool
  /-- A VF whose VF Enable was cleared by an explicit write: it becomes DISABLED at step 8 of Table 3-10. -/
  disabling : Bool
  channel   : Channel
  /-- `CMD_CONSUMED` when the latest reset began (`RESULT1` of `fn.attach`). -/
  resetIndex : W16
  sqQuota   : Nat
  cqQuota   : Nat
  retryDelay : Nat
  retryCount : Nat
  watchdogMs : Nat
  watchdogAt : Option Nat
  /-- The function-wide mask of R81 step 4. -/
  masked    : Bool
  /-- The MSI-X table of BAR2; an entry that software has not written is `resetMsix`. -/
  msix      : Tab MsixEntry
  pendingBits : List Nat
  share     : Nat
  /-- Device Control: Enable Relaxed Ordering, AtomicOp Requester Enable, and the payload and read request limits in bytes. -/
  relaxedOrdering : Bool
  atomicRequester : Bool
  maxPayload  : Nat
  maxRead     : Nat
  sounding  : Option SoundRing
deriving DecidableEq, Repr

/-- The function's address space: `mr.space`, the epoch, the device copy of its table, staged changes, and what hangs on
them. -/
structure AddrSpace where
  space    : Option Space
  faultSeq : W32
  epoch    : W32
  pages    : List Page
  staged   : List Staged
  /-- Runs of tarn pages that are lost (R30): mapped, and not present in any epoch until they are mapped again. -/
  lost     : List Page
  grants   : List Grant
  windows  : Tab Window
  waiting  : List WaitingFault
deriving DecidableEq, Repr

/-! ### Chapter 4: regions and faults -/

/-- A memory region, registered or free; a free index keeps its last generation (R97). -/
structure Region where
  fn     : Nat
  live   : Bool
  gen    : W8
  dva    : Nat
  len    : Nat
  rights : W8
  freedAt : Nat
deriving DecidableEq, Repr

/-- A retired (index, generation) pair and when it was retired (R97). -/
structure Retired where
  index : Nat
  gen   : W8
  at_   : Nat
deriving DecidableEq, Repr

/-- A stream or a queue pair's placement suspended on a translation fault (R111), and the work it holds. `prior`: what an atomic
whose return buffer is not present has returned. -/
structure Suspension where
  fn       : Nat
  seq      : Option W32
  stream   : StreamId
  arriving : Bool
  work     : Nat
  /-- DVA and length of what the segment covers; of an operand of a shoal tile, every range of it (R109, R323). -/
  ranges   : List (Nat × Nat)
  access   : Nat
  keyIndex : Nat
  prior    : Option W64
deriving DecidableEq, Repr

/-- A miss slot in use (R108). -/
structure MissSlot where
  stream : StreamId
  reserved : Bool
deriving DecidableEq, Repr

/-! ### Chapters 5 and 6: queue pairs and the journal -/

inductive QpMode where
  | eht | roce
deriving DecidableEq, Repr

inductive QpPhase where
  | created | ready | error
deriving DecidableEq, Repr

inductive AddrKind where
  | ipv4 | ipv6 | fabric
deriving DecidableEq, Repr

/-- Settings of `qp.create` and `qp.connect` (Tables 5-4 and 6-12). -/
structure QpConf where
  fn       : Nat
  mode     : QpMode
  mtuLog2  : Nat
  paths    : Nat
  tc       : Nat
  rnrDelay : Nat
  rnrRetry : Nat
  useSrq   : Bool
  srq      : Nat
  peerQp   : W32
  addrKind : AddrKind
  hopLimit : W8
  portMask : W8
  peerAddr : BitVec 128
  nextHop  : W48
  localSeq : W32
  peerSeq  : W32
  connected : Bool
  /-- The peer runs at level 1 (R56). -/
  peerLevel1 : Bool
deriving DecidableEq, Repr

/-- The kinds of packet a sender transmits or has in flight. -/
inductive TxKind where
  | write | writeImm | readReq | send | fadd | cswap | flush | readResp | atomicResp | ack | nak | readRepair
deriving DecidableEq, Repr

/-- A source segment that has been translated and has not been sent whole (R109, R103): its DVAs, the epoch, and where they led then. -/
structure Seg where
  dva    : Nat
  len    : Nat
  epoch  : W32
  map    : List Page
deriving DecidableEq, Repr

/-- A packet to send or in flight: its number, message, place in the message, path, and retransmission state. `work` is the
journal record of the entry it belongs to, and `segs` the segments that its first transmission reads. -/
structure TxPacket where
  kind    : TxKind
  seq     : W32
  msg     : W32
  work    : Nat
  offset  : Nat
  bytes   : Nat
  /-- Bytes of its message. -/
  total   : Nat
  /-- Original path, instant and running number of the latest transmission, transmissions so far, and the counted ones. -/
  path    : Nat
  sentAt  : Nat
  order   : Nat
  sends   : Nat
  counted : Nat
  sacked  : Bool
  /-- Packets sent later on the same path that have been acknowledged (R154). -/
  passed  : Nat
  /-- It waits to be sent again. -/
  retx    : Bool
  /-- Path of the latest transmission; the instant at which it was queued; its deadline has been judged (R196). -/
  lastPath : Nat
  queuedAt : Nat
  late    : Bool
  /-- Key phase of its message (R383). -/
  phase   : Bool
  /-- Seal unit and the counter of its present attempt (R386, R387). -/
  unit    : Nat
  ctr     : Option Nat
  /-- For a `READ_RESP` or `ATOMIC_RESP`: the source key and DVA, or the prior value. -/
  key     : W32
  dva     : Nat
  value   : W64
  segs    : List Seg
deriving DecidableEq, Repr

/-- A message of the sending side: an accepted entry that sends packets. -/
structure TxMessage where
  work    : Nat
  msg     : W32
  firstSeq : W32
  packets : Nat
  /-- It takes a `RECV_NUM`. -/
  takes   : Bool
  recvNum : W32
  /-- Its `WORK_` row has run; bytes of it turned into packets so far. -/
  started : Bool
  built   : Nat
  /-- Segments that have been translated and hold bytes beyond `built`. -/
  tail    : List Seg
  /-- Read: response numbers committed locally, and the path each arrived on. -/
  got     : List (W32 × Nat)
  rnrTries : Nat
  rnrAt   : Option Nat
  /-- Read: response numbers named in counted repairs, once for each repair (R156). -/
  repairs : List W32
  repairAt : Nat
  /-- When its delivery bound starts to run (R194); it was accepted while a re-check of its flow's admission was due (R32). -/
  boundFrom : Nat
  exempt  : Bool
  /-- Key phase under which it is sealed (R383). -/
  phase   : Bool
  /-- It is sent again after a device reset: every packet has `RETX` = 1 (Table 6-14). -/
  replay  : Bool
deriving DecidableEq, Repr

/-- The sending side of a queue pair. -/
structure QpSend where
  nextSeq  : W32
  nextMsg  : W32
  nextRecv : W32
  ownRetired : W32
  /-- Latest cumulative point received from the peer. -/
  cumAcked : W32
  /-- Transport entries accepted in CREATED, in acceptance order (Table 5-5). -/
  waiting  : List Nat
  messages : List TxMessage
  queue    : List TxPacket
  flight   : List TxPacket
  /-- Responses sent to reads of the peer that it has not retired: number and bytes (R146, R176). -/
  responses : List (W32 × Nat)
  txOrder  : Nat
  faultWait : Option W32
  faultWaitAt : Nat
  lastHeard : Nat
  /-- `PEER_SILENT` has been reported for the present episode (R472). -/
  silent   : Bool
  noPathSince : Option Nat
  /-- Since when packets have been outstanding without a break (R155, R472). -/
  outSince : Option Nat
  srtt     : Rat
  rttvar   : Rat
  sampled  : Bool
  backoff  : Nat
deriving DecidableEq, Repr

/-- An inbound message of which some packet has arrived. -/
structure RxMessage where
  msg      : W32
  kind     : TxKind
  firstSeq : W32
  packets  : Nat
  len      : Nat
  dva      : Nat
  key      : W32
  buffer   : Option Nat
  imm      : Option W32
  complete : Bool
  solicited : Bool
deriving DecidableEq, Repr

/-- The stamps of an arrived packet that an `ACK` may echo (Table 6-2): its number, `TX_STAMP`, arrival, and path; it asked for an `ACK`. -/
structure Arrival where
  seq      : W32
  stamp    : W64
  at_      : W64
  path     : BitVec 4
  ackReq   : Bool
deriving DecidableEq, Repr

/-- A unit of a sealed message being received (R388). `landed`: it has authenticated, and settles once what it wrote to accelerators is
committed; `path` is that of its latest packet. -/
structure RxUnit where
  /-- The message is one of this side's own: a response to a request that it sent. -/
  own     : Bool
  msg     : W32
  unit    : Nat
  ctr     : W64
  phase   : Bool
  failed  : Bool
  fails   : Nat
  zeroing : Bool
  landed  : Bool
  path    : Nat
  tag     : Option (BitVec 128)
  /-- Packets placed in this attempt: number and ciphertext with its offset. -/
  seqs    : List W32
  data    : List (Nat × List Byte)
  aad     : List Byte
  dva     : Nat
  len     : Nat
deriving DecidableEq, Repr

/-- The receiving side of a queue pair (R147). -/
structure QpRecv where
  e        : W32
  settled  : List W32
  nextMsg  : W32
  claimed  : W32
  peerRetired : W32
  messages : List RxMessage
  /-- Own receive queue: unclaimed posted buffers with the `RECV_NUM` that takes each, and the next such number (R138). -/
  posted   : List (W32 × Nat)
  nextPost : W32
  /-- A `USE_SRQ` queue pair: claims made for messages that have not arrived, and the lowest `RECV_NUM` without a claim. -/
  reservedClaims : List (W32 × Nat)
  nextClaim : W32
  recordedNak : Option (W8 × W32 × W32)
  nakAt    : Nat
  /-- Placement is suspended (R111), and the packet whose pages were not present. -/
  suspended : Bool
  suspendedBy : Option EhtHeader
  newlySettled : Nat
  firstSettledAt : Option Nat
  /-- What the next `ACK` echoes, and the arrivals that have not settled. -/
  trigger  : Option Arrival
  arrived  : List Arrival
  /-- Flushes that wait for earlier numbers to settle (R141). -/
  flushes  : List W32
  ceCount  : Nat
  ackAt    : Nat
  dupAckAt : Nat
  /-- `OWN_RETIRED` in the latest `ACK` (R148). -/
  toldRetired : W32
  stateLost : Bool
  units    : List RxUnit
  /-- The flow that it acknowledges is admitted: the mark of the latest arrival (Table 8-2). -/
  peerAdmitted : Bool
deriving DecidableEq, Repr

/-- Congestion state of one path (R173, R177). -/
structure PathCc where
  base    : Option Int
  windows : List (Nat × Int)
  qmin    : Option Int
  weight  : Rat
  zeroEpochs : Nat
  lossTimer : Bool
  credit  : Rat
deriving DecidableEq, Repr

/-- Rate control of a queue pair (R175, R176). -/
structure QpCc where
  rate     : Rat
  /-- The class target of the epoch that runs (R186). -/
  target   : Nat
  epochAt  : Nat
  samples  : Nat
  qmin     : Option Int
  ce       : Nat
  settled  : Nat
  lossTimer : Bool
  minRtt   : List (Nat × Nat)
  paths    : Tab PathCc
  /-- Earliest instant at which the pacing at R lets the next packet leave. -/
  nextAt   : Rat
deriving DecidableEq, Repr

/-- An admission (R190 to R196). -/
structure Admission where
  number   : W32
  cls      : Nat
  lossBound : Nat
  pathMask : W16
  rate     : Nat
  burst    : Nat
  msgMax   : Nat
  netRtt   : Nat
  bound    : Nat
  withdrawn : Bool
  /-- Links and exits of the admitted fabric paths, numbered by `linkNum` and `exitNum`. -/
  links    : List Nat
  exits    : List Nat
  /-- Egress ports of the admitted paths (Table 7-4), and whether the tests of the LATENCY profile were applied (R58). -/
  ports    : List Nat
  latency  : Bool
deriving DecidableEq, Repr

/-- A send key of a sealed queue pair: its label, next unit counter, the end of the reserved block, and its use (R384,
R391). -/
structure SealKey where
  label    : W32
  ctr      : Nat
  reserved : Nat
  units    : Nat
  bytes    : Nat
  warnedUnits : Bool
  warnedBytes : Bool
deriving DecidableEq, Repr

/-- Sealing of a queue pair (R381 to R391). Keys are named by (accord, label, direction): the bits never leave the
boundary (R374). -/
structure QpSeal where
  accord   : Nat
  unitLog2 : Nat
  /-- Sending: key phase, key, the former key for messages accepted under it, and a label installed by step 0 and not yet
  used for sending (R383). -/
  phase    : Bool
  cur      : SealKey
  old      : Option SealKey
  pendingSend : Option W32
  /-- Receiving: phase and label in force, and the label of an open change. -/
  recvPhase : Bool
  recvLabel : W32
  recvNext : Option W32
  /-- Ciphertext accumulated for the tag of each open sending attempt, by unit counter. -/
  acc      : Tab (List Byte)
  failedUnits : Nat
deriving DecidableEq, Repr

structure Qp where
  conf  : QpConf
  phase : QpPhase
  send  : QpSend
  recv  : QpRecv
  cc    : QpCc
  weight : Nat
  admission : Option Admission
  violations : Nat
  violatedAt : Option Nat
  sealing : Option QpSeal
  /-- `qp.reset` or `qp.destroy` has answered `ACCEPTED`. -/
  ending : Option Bool
  /-- Packets dropped or ignored and counted (R150, R152). -/
  counted : Nat
deriving DecidableEq, Repr

structure Srq where
  fn      : Nat
  limit   : Nat
  vector  : Nat
  armed   : Bool
  buffers : List Nat
deriving DecidableEq, Repr

/-- A key that an entry names, as checks 1 and 2 of R95 saw it when the entry was accepted: its region, or none; a region of another
generation is `stale`. -/
structure KeyView where
  key    : W32
  region : Option Region
  stale  : Bool
deriving DecidableEq, Repr

/-- State of a `WORK`, `COLL_OP` or `CACHE_REQ` record (Tables 6-9, 9-9, 10-7). -/
inductive RecState where
  | accepted | active | claimed | writing | done | held
deriving DecidableEq, Repr

/-- Where a completion goes: a submission ring, or a request stream of a spur port (R226). -/
inductive Source where
  | ring (n : Nat)
  | request (port stream : Nat)
deriving DecidableEq, Repr

/-- A `WORK`, `COLL_OP` or `CACHE_REQ` record with the entry it holds. -/
structure Work where
  fn     : Nat
  source : Source
  index  : Nat
  entry  : W512
  state  : RecState
  status : Status
  result : W64
  imm    : Option W32
  /-- Completions written to its ring before this one (`CQ_COUNT`), once written. -/
  cqCount : Nat
  msgNum : W32
  claim  : Option (Nat × W32)
  /-- Journal record of its `COLL_DESC` or `CACHE_DESC`. -/
  desc   : Option Nat
  acceptedAt : Nat
  /-- Place in the order of acceptance over all rings and streams. -/
  order  : Nat
  /-- The keys that it names, as acceptance found them (R95). -/
  keys   : List KeyView
  /-- The peer asked for this completion without moderation delay (`SOLICITED` of the message that consumed it). -/
  solicited : Bool
  /-- Its processing has begun (its `WORK_*` row has run). -/
  begun  : Bool
  /-- Both copies of its record were lost, and that has been reported (R166): it is kept for its completion alone. -/
  lost   : Bool
  /-- An attention request: its user was pinned when it was accepted (R286, R288). -/
  pinned : Bool
deriving DecidableEq, Repr

/-- What `QP_PROGRESS` holds of a queue pair (Table 6-11). -/
structure Progress where
  baseMsg  : W32
  baseSeq  : W32
  baseRecv : W32
  cumSeq   : W32
  cumMsg   : W32
  claimed  : W32
  peerRetired : W32
  ownRetired : W32
  stamp    : Nat
deriving DecidableEq, Repr

/-- The journal's records (R161). -/
inductive JournalRec where
  | work (w : Work)
  | desc (kind : Nat) (body : BitVec 376)
  | atomicResult (qp : Nat) (seq msg : W32) (prior : W64)
  | qpConnect (qp : Nat) (conf : QpConf)
  | qpProgress (qp : Nat) (p : Progress)
  | collGroup (slot : Nat)
  | heldReply (fn : Nat)
deriving DecidableEq, Repr

/-! ### Chapter 7: scheduling -/

/-- The outer headers of an EHT datagram as the device builds them (R119). -/
structure Outer where
  ipv6    : Bool
  source  : BitVec 128
  dest    : BitVec 128
  nextHop : W48
  vlan    : Option Nat
  hop     : W8
  dscp    : Nat
  ecn     : Nat
  df      : Bool
  udpSource : Nat
  udpDest : Nat
  udpSum  : Nat
deriving DecidableEq, Repr

/-- What follows the base header of an EHT packet. -/
inductive WirePart where
  | data (imm : Option W32) (atomic : Option (W64 × W64)) (sb : Option SealBlock) (payload : List Byte)
  | ack (b : AckBody)
  | nak (b : NakBody)
  | repair (b : RepairBody)
deriving DecidableEq, Repr

/-- A flit that waits for a ring slot (R209, R211): the ring direction it must take, where that is fixed, and since when. -/
structure SlotWait where
  dir    : Option Nat
  since  : Nat
  flit   : Flit
deriving DecidableEq, Repr

/-- An EHT packet that is ready to leave: its outer headers, or for the fabric its destination device; its path tag, the admitted mark, and
what it says. `TX_STAMP` and what depends on it follow when it leaves. -/
structure EhtSend where
  outer    : Option Outer
  dest     : Nat
  tag      : Nat
  admitted : Bool
  hdr      : EhtHeader
  part     : WirePart
deriving DecidableEq, Repr

/-- What an egress port sends besides the packets that a queue pair holds in its own line: an acknowledgement, or a further copy of a packet;
flits for a ring; the flits of a `KV_RESULT`, after the last of which a request completes with a result (R291). -/
inductive EgressItem where
  | eht (e : EhtSend)
  | ring (l : List SlotWait)
  | spur (rec result : Nat) (l : List Flit)
deriving DecidableEq, Repr

/-- A unit that waits in the egress hierarchy of a port (R179): its class, function and stream (by `streamKey`), when it was queued, and its
wire bytes. -/
structure EgressUnit where
  port   : Nat
  tc     : Nat
  fn     : Nat
  stream : Nat
  since  : Nat
  len    : Nat
  item   : EgressItem
deriving DecidableEq, Repr

/-- A token bucket (R183): `rate` is bytes per 1 µs refill. A change waits for the next refill. -/
structure Shaper where
  rate   : Nat
  depth  : Nat
  tokens : Int
  change : Option (Nat × Nat)
deriving DecidableEq, Repr

/-- A two-rate three-colour policer (R184). -/
structure Policer where
  cir : Nat
  pir : Nat
  cbs : Nat
  pbs : Nat
  tc  : Int
  tp  : Int
  change : Option (Nat × Nat × Nat × Nat)
deriving DecidableEq, Repr

/-- Tags of one competitor of a weighted fair queue (R181). -/
structure WfqTag where
  start  : Rat
  finish : Rat
deriving DecidableEq, Repr

/-- A weighted fair queue: its virtual time and its competitors' tags. -/
structure Wfq where
  v    : Rat
  tags : Tab WfqTag
deriving DecidableEq, Repr

/-- Congestion parameters of a traffic class (Table 7-3); `rInitShift`: none is the default of the table. -/
structure ClassCc where
  targetFab : Nat
  targetEth : Nat
  rInitShift : Option Nat
deriving DecidableEq, Repr

/-- A sounded queue (R187). -/
structure Sounding where
  fn   : Nat
  kind : Nat
  id   : W20
  k    : Nat
  nextAt : Nat
deriving DecidableEq, Repr

structure Sched where
  classes : Tab ClassCc
  tcWeights : Tab (List Nat)
  shapers : Tab Shaper
  policers : Tab Policer
  soundings : List Sounding
  tcQueues : Tab Wfq
  fnQueues : Tab Wfq
  streamQueues : Tab Wfq
  acceptQueue : Wfq
  /-- Units that wait at an egress port, oldest first. -/
  units   : List EgressUnit
  nextAdmission : W32
  recheckAt : Option Nat
deriving DecidableEq, Repr

/-! ### Chapter 8: the fabric -/

inductive PortRole where
  | disabled | xEast | xWest | yEast | yWest | spur
deriving DecidableEq, Repr

/-- What the end of an outbound spur access lets go on: nothing, the settling of a packet number that was placed through
it (R147), that of a sealed unit (R388), the inbound access of another port that it serves, the commit of a read's response, the end of an
atomic whose return buffer it wrote, a collective of a group, or an attention request or operator. -/
inductive SpurCont where
  | none
  | settle (qp : Nat) (seq : W32)
  | unit (qp : Nat) (own : Bool) (msg : W32) (unit : Nat)
  | serve (port tag offset : Nat)
  | got (qp : Nat) (seq : W32) (path : Nat)
  | atomic (rec : Nat) (prior : W64)
  | coll (slot : Nat)
  | work (rec : Nat)
deriving DecidableEq, Repr

/-- An inbound or outbound spur access (R225). `map`: what its DVAs led to when an inbound access arrived (R344). `data`: what a
write carries, or a read has gathered; an inbound write counts its flits with it. `left` counts the outbound accesses that must
end before an inbound one is answered. -/
structure SpurAccess where
  write   : Bool
  address : Nat
  key     : W32
  len     : Nat
  inbound : Bool
  cont    : SpurCont
  map     : List Page
  data    : List Byte
  left    : Nat
  sentAt  : Nat
  fn      : Nat
  /-- The epoch of the function under which its segment was translated (R103). -/
  epoch   : W32
deriving DecidableEq, Repr

/-- A request stream of a spur port (R226). -/
structure ReqStream where
  fn       : Nat
  log2Cap  : Nat
  enabled  : Bool
  accepted : Nat
  /-- Entries received ahead of acceptance, by index. -/
  waiting  : Tab W512
  /-- Completions written, and consumed. -/
  written  : Nat
  consumed : Nat
  /-- Those written and not consumed, oldest first: the journal record, and when it was last sent (R226). -/
  unconsumed : List (Nat × Nat)
  outstanding : Nat
  ackAt    : Nat
  /-- Since when completions have been outstanding without a break, and whether the silence has been reported (R472). -/
  outSince : Option Nat
  silent   : Bool
  heldSince : Option Nat
deriving DecidableEq, Repr

structure FabPort where
  role     : PortRole
  pilot    : Bool
  wakeMax  : Nat
  active   : Bool
  lanes    : Nat
  latNs    : Nat
  partnerDev : Nat
  partnerPort : Nat
  partnerPilot : Bool
  wakeNs   : Nat
  mayIdle  : Bool
  isIdle   : Bool
  narrowed : Bool
  attempts : Nat
  lastFlit : Nat
  /-- When a flit last arrived (R472). -/
  heardAt  : Nat
  /-- Flits sent and received in 10 µs windows, by window number (R229). -/
  txLoad   : Tab Nat
  rxLoad   : Tab Nat
  partner  : Option Nat
  accesses : Tab SpurAccess
  streams  : Tab ReqStream
  nextTag  : Nat
  loopUntil : Option Nat
deriving DecidableEq, Repr

inductive BearingMode where
  | idle | armed | active | draining
deriving DecidableEq, Repr

/-- A bearing (Tables 8-4, 8-5). -/
structure Bearing where
  mode    : BearingMode
  entries : Tab W16
  generation : Nat
  linkUse : W8
  dateline : W8
  guarded : W8
  flippedAt : Nat
deriving DecidableEq, Repr

/-- A partial packet in the reassembly store (R207). -/
structure Partial where
  count   : Nat
  got     : List Nat
  bytes   : List (Nat × List Byte)
  firstAt : Nat
deriving DecidableEq, Repr

/-- A reservation at an exit (R215): ring input, exit (0 or 1 the turn buffer east or west, 2 the ejection buffer, 3 the reassembly store),
partition (0 admitted, 1 and 2 the classes 0 and 1), the slot of the deflected flit, and the entries that it needs: one, or those of a whole
packet (R207). -/
structure Reservation where
  port : Nat
  exit : Nat
  part : Nat
  slot : Nat
  need : Nat
deriving DecidableEq, Repr

structure RingInfo where
  slots   : Nat
  folded  : Bool
  foldA   : Nat
  foldB   : Nat
  foldsSeen : Nat
deriving DecidableEq, Repr

structure Fabric where
  ident    : Option Nat
  ports    : Tab FabPort
  bearingA : Bearing
  bearingB : Bearing
  drainNs  : Nat
  ringX    : RingInfo
  ringY    : RingInfo
  /-- Turn buffers, by 16 × input + 4 × exit + partition: the flits they hold, oldest first. -/
  exits    : Tab (List SlotWait)
  reservations : List Reservation
  /-- Flits that the ejection buffers hold, keyed in the same way (R214). -/
  ejectUse : Tab Nat
  /-- Flits and packets dropped and counted here (R203, R206, R212), and those of them whose `EPOCH` named an IDLE bearing (R217). -/
  dropped  : Nat
  stale    : Nat
  /-- The slot claimed here, by ring direction (R211). -/
  claims   : Tab Nat
  store    : Tab Partial
  reasmTags : Tab Nat
  /-- Flits of this device that wait to enter a ring, oldest first. -/
  inject   : List SlotWait
  /-- `MARKER` and `RING_STATUS` flits that wait for a slot, each for one ring direction, oldest first (R219). -/
  flood    : List SlotWait
  markersSeen : List Nat
  flipTime : Nat
  /-- Ring directions (0 X east, 1 X west, 2 Y east, 3 Y west) that end in a fold at this device (R222). -/
  ownFolds : BitVec 4
deriving DecidableEq, Repr

/-! ### Chapter 9: collectives -/

inductive GroupMode where
  | waiting | setup | ready | broken
deriving DecidableEq, Repr

/-- A chunk formed here (R254, R258): its stream and number, the member device it goes to, its bytes, and for a direct leg the
chunk index in its block and the ranks. Until `sent` it waits for credit; then it is held until it is acknowledged (R262). -/
structure HeldChunk where
  id     : ChunkId
  peer   : Nat
  bytes  : List Byte
  block  : Nat
  ranks  : Nat
  sent   : Bool
  sentAt : Nat
  firstAt : Nat
  timer  : Nat
deriving DecidableEq, Repr

/-- A chunk being received (R254, R263): its sender, its stream and its number modulo 4,096, the data flits and the tail that
have arrived, the signature fragments that they carried by `FLIT_INDEX` modulo 4 (R249), and how often its checks failed. -/
structure RxChunk where
  src    : Nat
  id     : ChunkId
  flits  : List (Nat × List Byte)
  tail   : Option (List Byte)
  frags  : Tab W16
  fails  : Nat
deriving DecidableEq, Repr

/-- Fields of a descriptor, Table 9-4; an item of a batch has the same (R243). -/
structure CollDesc where
  op     : Nat
  red    : Nat
  dt     : Nat
  wire   : Nat
  member : Nat
  inPlace : Bool
  count  : Nat
  root   : Nat
  scale  : Nat
  srcKey : Nat
  src    : Nat
  dstKey : Nat
  dst    : Nat
  auxKey : Nat
  aux    : Nat
  /-- The bits that every descriptor keeps RSVD are zero. -/
  clean  : Bool
  /-- Where the chunks of a batch of top-k lists begin, in pairs; of every other collective, none (R240, R243). -/
  cuts   : List Nat
deriving DecidableEq, Repr

/-- One item of a batch, or the whole of another collective (R243): its count, addresses and keys, and scale. -/
structure CollItem where
  count  : Nat
  src    : Nat
  srcKey : Nat
  dst    : Nat
  dstKey : Nat
  scale  : W32
deriving DecidableEq, Repr

/-- A chunk of counts that has arrived (R246): its sender, its number, the sender's signature, and its bytes. -/
structure CountChunk where
  src    : Nat
  num    : Nat
  sig    : W64
  bytes  : List Byte
deriving DecidableEq, Repr

/-- Bytes of a direct leg that wait for their place at a local rank (R264): source and destination rank, offset in their block, and whether
they came from another device. -/
structure DirectWait where
  src    : Nat
  dst    : Nat
  off    : Nat
  remote : Bool
  bytes  : List Byte
deriving DecidableEq, Repr

/-- A credit limit that arrived before its sequence was known here: the stream's key, the signature fragment, and the limit (R253). -/
structure EarlyLimit where
  key    : Nat
  frag   : W16
  limit  : Nat
deriving DecidableEq, Repr

/-- An agreement word that has arrived (R246). -/
structure AgreeWord where
  leg    : Nat
  src    : Nat
  sig    : W64
  mismatch : Bool
deriving DecidableEq, Repr

/-- An agreement word that has been sent and not acknowledged (R262, R270). -/
structure AgreeOut where
  leg    : Nat
  west   : Bool
  peer   : Nat
  sentAt : Nat
deriving DecidableEq, Repr

/-- One sequence of a group at this device: its entries by local member, those that are invalid, the count phase, and the data
legs. -/
structure CollRun where
  works    : Tab Nat
  invalid  : Tab Status
  signature : Option W64
  mismatch : Bool
  agreeIn  : List AgreeWord
  agreeOut : List AgreeOut
  sentUp   : Bool
  agreed   : Option Bool
  started  : Bool
  /-- What the sequence moves, once it has a signature; of a batch, what its items share, with the sum of their counts. -/
  desc     : Option CollDesc
  /-- Items of each local member, and its auxiliary region as read. -/
  items    : Tab (List CollItem)
  aux      : Tab (List Byte)
  /-- Next chunk numbers, east and west, for which local sources are to be read, and what has been read: contributions to the X legs in FP32,
and chunks that gather legs start with (R252). -/
  origEast : Nat
  origWest : Nat
  contrib  : Tab (List Byte)
  /-- Direct legs: next chunk for each member device, and arrived bytes that wait for a page (R111, R264). -/
  sentTo   : Tab Nat
  waits    : List DirectWait
  /-- Chunks whose local sources have been read (R272). -/
  read     : Nat
  /-- Own results of X reduce, waiting for their Y reduce chunk (R252). -/
  xres     : Tab (List Byte)
  /-- Final chunks that wait for MATCH (R248). -/
  writes   : List (Nat × List Byte)
  out      : List HeldChunk
  /-- Chunks taken: their sender and identity. -/
  taken    : List (Nat × ChunkId)
  /-- Duties of the data legs that are done. -/
  done     : Nat
  /-- `CREDIT_LIMIT` last granted, by stream, and the limit held, by stream or peer. -/
  granted  : Tab Nat
  limits   : Tab Nat
  /-- Chunks of counts as they arrive, and the counts exchanged (R265, R266): by source rank × 65,536 + destination rank. -/
  countIn  : List CountChunk
  counts   : Tab (List Nat)
  /-- Blocks of combine as they arrive, by the same key. -/
  blocks   : Tab (List Byte)
  writing  : Bool
  /-- Status with which the sequence has ended for every member that is not invalid. -/
  outcome  : Option Status
deriving DecidableEq, Repr

structure CollGroup where
  fn       : Nat
  id       : W32
  rowMask  : W64
  colMask  : W64
  tc       : Nat
  localMembers : Nat
  fathoms  : Nat
  spill    : Bool
  spilled  : Bool
  /-- Its fathoms, or its spill area, are taken (R255). -/
  reserved : Bool
  mode     : GroupMode
  timeoutAt : Option Nat
  /-- `LOCAL_MEMBERS` of every member device, by fabric number, once READY. -/
  devices  : Tab Nat
  /-- The setup exchange (R234): records that have arrived, by fabric number, and chunks that carry records on. -/
  records  : Tab W64
  setupOut : List HeldChunk
  /-- Chunks that are being received, and credit limits that came early. -/
  rx       : List RxChunk
  early    : List EarlyLimit
  /-- When a flit of the group last came from a device, and the devices whose silence has been reported (R472). -/
  heard    : Tab Nat
  silent   : List Nat
  /-- Next `COLL_SEQ` of each local member, and the next sequence to start. -/
  nextSeq  : List W32
  startSeq : W32
  runs     : Tab CollRun
  /-- Accepted entries that have not been taken up. -/
  waiting  : List Nat
  aborted  : List (W32 × Status)
  failed   : Nat
  tearing  : Bool
  order    : Nat
  /-- `COLL_GROUP` record. -/
  record   : Option Nat
deriving DecidableEq, Repr

/-- An engine pass in progress or waiting for an engine (R252, R261): the arrived chunk, residue mismatches so far, failed checks of the
chunk before it (R263), and the staging fathoms that it has borrowed (R256). -/
structure EnginePass where
  slot    : Nat
  seq     : W32
  chunk   : ChunkId
  arrived : List Byte
  residueFails : Nat
  checkFails : Nat
  borrowed : Nat
deriving DecidableEq, Repr

structure Collectives where
  groups   : Tab CollGroup
  /-- Reservable fathoms that are free, and bytes of spill area that groups have reserved. -/
  free     : Nat
  spillUsed : Nat
  nextOrder : Nat
  engines  : Tab EnginePass
  queue    : List EnginePass
deriving DecidableEq, Repr

/-! ### Chapter 10: the cache phase -/

structure Pool where
  fn       : Nat
  layers   : Nat
  qHeads   : Nat
  kvHeads  : Nat
  headDimLog2 : Nat
  format   : Nat
  summaryDim : Nat
  tc       : Nat
  maxBlocks : Nat
  maxUsers : Nat
  key      : W32
  dva      : Nat
  ending   : Bool
  misses   : Nat
deriving DecidableEq, Repr

/-- A pinned user (R285): `ready` once residency and translations are loaded; `ending` after `kv.user.unpin`. -/
structure Pin where
  pool : Nat
  user : Nat
  ready : Bool
  ending : Bool
deriving DecidableEq, Repr

/-- An attention request that has been accepted and not served (R290, R291, R300): its pool, user, layer and class, its place in
the order of acceptance, the flits of its inline query, and its query once it is whole. -/
structure AttnRun where
  work   : Nat
  pool   : Nat
  user   : Nat
  layer  : Nat
  dclass : Nat
  order  : Nat
  flits  : List (Nat × List Byte)
  query  : Option (List Byte)
deriving DecidableEq, Repr

/-- A block that an append has filled and that is to be sealed (R284). -/
structure SealDue where
  work   : Nat
  pool   : Nat
  user   : Nat
  layer  : Nat
  block  : Nat
deriving DecidableEq, Repr

structure Cache where
  pools   : Tab Pool
  /-- `SEALED_BLOCKS` by (pool × 4,096 + user) × 128 + layer. -/
  sealedBlocks : Tab Nat
  /-- Pinned users, the latest last, and their summaries resident in the shoals, by the key of `sealedBlocks` × 4,096 + block (R285). -/
  pins    : List Pin
  resident : Tab (List Byte)
  runs    : List AttnRun
  seals   : List SealDue
  /-- Results of requests of a stream whose completion is not consumed (R291, Table 10-9). -/
  results : Tab (List Byte)
  /-- The attention hold (R302): it is wanted; no grant covers it (R415); and the acceptance of the latest D0 request. -/
  hold    : Bool
  holdBarred : Bool
  lastD0  : Nat
  /-- Query flits that came ahead of their request's acceptance, by (64 × port + stream) × 65,536 + index. -/
  early   : Tab (List (Nat × List Byte))
  /-- Requests whose result is still being written to an accelerator, with their `RESULT`. -/
  finishing : Tab Nat
  /-- The user served last in class D1 and in class D2, as pool × 4,096 + user. -/
  turnD1  : Nat
  turnD2  : Nat
deriving DecidableEq, Repr

/-- The ramp limiter and the units (R303), by unit number 128 × shoal + unit: units that have left rest, those that have work, when the
others lost it, units that wait for a wave to start or to come to rest, the next wave, its period, and how many units left rest and came to rest
in the 1 µs window `window`. -/
structure Ramp where
  active  : List Nat
  working : List Nat
  idleSince : Tab Nat
  starting : List Nat
  resting : List Nat
  nextWave : Option Nat
  period  : Nat
  window  : Nat
  left    : Nat
  rested  : Nat
deriving DecidableEq, Repr

/-! ### Chapter 11: operators -/

/-- A running operator: its stream, its argument block, its row count and index list (R321), the accumulators of a `SCATTER_ADD` as FP32
codes, the next tile, how many tiles have written their output, and what Table 11-8 reports of the outputs. -/
structure OpRun where
  work   : Nat
  fn     : Nat
  stream : Nat
  args   : List Byte
  rows   : Nat
  indices : List Nat
  acc    : List W32
  next   : Nat
  done   : Nat
  saturated : Bool
  nanOut : Bool
deriving DecidableEq, Repr

/-! ### Chapter 12: tarns -/

/-- A word that a scrub has corrected (R340): its TPA, 32 × channel + bank with channels counted as 64 × tarn + channel, and its row. -/
structure Corrected where
  tpa  : Nat
  bank : Nat
  row  : Nat
deriving DecidableEq, Repr

/-- A row copy into a spare that is under way (R340): channel 64 × tarn + channel, and bank and row where a scrub found them. -/
structure RowRepair where
  channel : Nat
  place   : Option (Nat × Nat)
deriving DecidableEq, Repr

structure Tarns where
  /-- Bytes of tarn memory at TPAs, in canonical form (see `Memory.wf`). -/
  mem     : List Host.Cell
  /-- 64 KiB TPA pages allocated with `ALLOC`, and the function that holds each. -/
  alloc   : Tab Nat
  /-- Channels in use, by 64 × tarn + channel. -/
  usable  : W256
  /-- The interleaved area is being formed again (R342). -/
  reforming : Bool
  /-- Channels whose journal copy is not re-mirrored yet; tarns lost in service (R166, R471). -/
  remirror : List Nat
  tarnLost : BitVec 4
  /-- Journal words that gave an uncorrectable error, by tarn and journal index. -/
  unreadable : List (Nat × Nat)
  /-- Functions whose device table is to be built again (R92). -/
  rebuild : List Nat
  /-- Functions whose rebuilt table left `ALLOC` backing to be freed when the segments of epochs before the rebuilt one end (R92). -/
  freeing : List (Nat × W32)
  /-- Words that a scrub has corrected; rows being copied; spare rows used, by 32 × channel + bank (R340). -/
  scrubHits : List Corrected
  repairs : List RowRepair
  spares  : Tab Nat
  /-- Rows whose repair is soft, by 32 × channel + bank and row: the repair log (R340, R459, R460). -/
  softRows : List (Nat × Nat)
  /-- Corrected errors by channel (R337). -/
  corrected : Tab Nat
  /-- Channels in power-down, and when each channel was accessed last (R347). -/
  powerDown : List Nat
  accessed  : Tab Nat
  /-- The refresh period in force, in ms (R339). -/
  refreshMs : Nat
deriving DecidableEq, Repr

/-! ### Chapter 13: Ethernet and helm -/

/-- One breakout link, by `PORT_ID`. -/
structure Link where
  up       : Bool
  changedAt : Nat
  pfcEnable : W8
  xoff     : Nat
  headroom : Nat
  /-- Bytes of each priority in the receive buffer. -/
  occupancy : List Nat
  /-- Priorities for which a pause is held at the partner, and when its latest frame was sent (R358). -/
  pausing  : W8
  pauseSentAt : Nat
  /-- A traffic class held by a received pause: from when, and until when. -/
  pausedUntil : Tab (Nat × Nat)
  mcast    : List W48
  txLpi    : Bool
  rxLpi    : Bool
  txLpiAt  : Nat
  rxLpiAt  : Nat
  /-- The agreed wake time in ns (R364). -/
  wakeNs   : Option Nat
  idleSince : Nat
  counters : Tab W48
  halfCrossed : W64
deriving DecidableEq, Repr

structure EthPort where
  mode    : Nat
  medium  : Nat
  prioDscp : Bool
  lpiEnable : Bool
  wakeMax : Nat
  macBase : W48
  loopUntil : Option Nat
deriving DecidableEq, Repr

/-- A source address of a function on a port (`eht.addr`). -/
structure SrcAddr where
  kind : Nat
  vlan : Option Nat
  addr : BitVec 128
deriving DecidableEq, Repr

structure FrameRing where
  base    : W64
  header  : W64
  buf     : W64
  log2    : Nat
  copyLldp : Bool
  vector  : Nat
  written : Nat
  head    : W32
  signalledAt : Option Nat
  /-- Link events that wait for space, the latest of each link: kind, data and time. -/
  events  : Tab (Nat × W32 × Nat)
deriving DecidableEq, Repr

structure Ethernet where
  ports  : Tab EthPort
  links  : Tab Link
  ring   : Option FrameRing
  udpPort : W16
  addrs  : Tab SrcAddr
  cntVector : Option Nat
  cntSignalledAt : Option Nat
deriving DecidableEq, Repr

/-- The helm MAC. `waiting`: commands received while one has no reply yet (R369). `attempts`: collisions so far of the frame being sent
(R367). -/
structure Helm where
  allow   : List W48
  waiting : List HelmFrame
  attempts : Nat
  counters : Tab W48
  halfCrossed : W64
deriving DecidableEq, Repr

/-! ### Chapter 14: security -/

structure Accord where
  fn     : Nat
  peer   : W64
  secret : W256
deriving DecidableEq, Repr

/-- An open offer: when it was made, the draw that its decapsulation key came from (log entry 8), and the digest of its blob. -/
structure Offer where
  openedAt : Nat
  draw     : Nat
  digest   : W256
deriving DecidableEq, Repr

/-- A cipher lane (R377, R400): when its mask generator was reseeded, and when its known-answer test last ran. -/
structure Lane where
  maskAt  : Nat
  katAt   : Nat
deriving DecidableEq, Repr

/-- The security island. Of an image, `none` is the one the device left manufacture with. `failing`: bits of log entry 46. -/
structure Security where
  officer   : Option (List Byte)
  challenge : Option (W64 × W64)
  sessionAt : Option Nat
  offers    : Tab Offer
  nextOffer : Nat
  accords   : Tab Accord
  /-- The staging buffer: the size announced and the bytes so far (R399). -/
  staging   : Option (Nat × List Byte)
  stored    : Option (List Byte)
  /-- Power was lost while the image store was being written (R399). -/
  storeTorn : Bool
  running   : Option (List Byte)
  minVersion : W32
  errorState : Bool
  failing   : W64
  lanes     : Tab Lane
  drbgRequests : Nat
  drbgAt    : Nat
  seed      : BitVec 384
deriving DecidableEq, Repr

/-! ### Chapter 15: power -/

/-- Power allowances in mW: mesh, reduction engines, tarns, and each shoal. -/
structure Allowance where
  mesh      : Rat
  reduction : Rat
  tarn      : Rat
  shoals    : List Rat
deriving DecidableEq, Repr

/-- The sextant controller and the enforcement loop. `division`: the allowances of the current division; `enforced`: those in force; `wanted`:
the predicted demand. `setpoint`: in mV, in force; `target`: where it is going. `demand`: learned demand in mW by 20 × phase + group, and
`unitMa` the learned current of each operation class; what is not listed has its fused default. -/
structure Power where
  grantW    : Nat
  grantSeq  : W32
  validUntil : Option Nat
  fallback  : Nat
  thermal   : Nat
  frozen    : Bool
  setpoint  : Nat
  target    : Nat
  floor     : Nat
  /-- When the latest setpoint frame was sent (R487). -/
  framedAt  : Nat
  division  : Allowance
  enforced  : Allowance
  /-- Admitted reserve of the mesh and of the tarns, in mW (R413). -/
  reserveMesh : Rat
  reserveTarn : Rat
  fixedMw   : Rat
  demand    : Tab Rat
  unitMa    : Tab Rat
  meas      : PowerMeas
  peak50    : Nat
deriving DecidableEq, Repr

structure Thermal where
  /-- The 48 junction sensors, in 1/16 °C (log entry 45), and the hottest Tj of the window that runs. -/
  readings  : List Int
  windowMax : Option Int
  /-- The sensor by which the device lies outside its operating conditions, and the peak since then (R425). -/
  hotSensor : Option Nat
  peak      : Int
  /-- `THERMTRIP_N` is asserted (R426). -/
  tripped   : Bool
deriving DecidableEq, Repr

/-- Droops of the two supplies (R420 to R422): since when one lasts, whether it has been reported, and when the supply last recovered. -/
structure Droop where
  coreSince : Option Nat
  islSince  : Option Nat
  coreLong  : Bool
  islLong   : Bool
  coreRecovered : Option Nat
  islRecovered : Option Nat
  events    : W32
  deferred  : W32
  throttles : W32
  holdEnds  : W32
  /-- Frequency changes that wait (R422): a setpoint in mV, a control-core clock in MHz. -/
  pendingSetpoint : Option Nat
  pendingClock : Option Nat
  coreClock : Nat
deriving DecidableEq, Repr

/-- Ceilings (R416, R417): of each shoal in 10 M cycles/s, of each core and island in 25 MHz; the phase mix of the last window (Table 15-4); and
the `pwr.learn` actions that wait for the window's end. -/
structure Ceilings where
  shoals  : List Nat
  cores   : List Nat
  islands : List Nat
  phaseMix : List Nat
  learn   : List Nat
deriving DecidableEq, Repr

/-! ### What the device sends out -/

/-- One thing the device puts on its pins or links. `hostWrite` writes the low `nbits` bits of `value`, little-endian, at
`hpa` over function `fn`'s PCIe path; `relaxed` is the relaxed-ordering attribute (R60). `registerData` answers a
host's read of a register (R35). -/
inductive Output where
  | hostWrite (fn hpa : Nat) (relaxed : Bool) (nbits value : Nat)
  | hostBytes (fn hpa : Nat) (relaxed : Bool) (bytes : List Byte)
  | hostZeroRead (fn : Nat)
  | hostAtomic (fn hpa : Nat) (swap : Bool) (operand compare : W64)
  | msix (fn vector : Nat) (addr : W64) (data : W32)
  | registerData (fn width : Nat) (value : Nat)
  | bar4Data (fn : Nat) (bytes : List Byte)
  | spurAtomic (port addr : Nat) (swap : Bool) (operand compare : W64)
  | eht (port : Nat) (outer : Outer) (hdr : EhtHeader) (part : WirePart) (crc : W32)
  | flit (port : Nat) (f : Flit)
  | frame (link : Nat) (tc : Nat) (bytes : List Byte) (stamp : Nat)
  | pfc (link : Nat) (enable : W8) (times : List W16)
  | lldp (link : Nat)
  | helmReply (dst : W48) (seq : W16) (entry : Nat)
  | helmResult (dst : W48) (seq : W16) (total offset : Nat) (nbits value : Nat)
  | vid (word : BitVec 24)
  | tdo (bit : Bool)
deriving DecidableEq, Repr

/-! ### Chapters 16, 17, 18, 19 -/

inductive CrossMode where
  | down | sync | up | flush
deriving DecidableEq, Repr

/-- A control-path access that waits in a crossing for the island's clock (R442): the function that made it; `posted`: a write. -/
structure ControlAccess where
  fn     : Nat
  posted : Bool
deriving DecidableEq, Repr

structure Inventory where
  shoals  : W16
  cores   : BitVec 12
  tarns   : BitVec 4
  fabricLanes : W64
  ethLanes : W32
  engines : W8
  movers  : W32
  fathoms : Nat
  helm    : Bool
  cacheBytes : Nat
  sensors : W48
deriving DecidableEq, Repr

/-- A self-test result record, Table 17-6. -/
structure ResultRec where
  test    : W8
  block   : W8
  inst    : W16
  outcome : Nat
  inService : Bool
  bit     : W16
  address : W64
  measured : W32
  vddMv   : W16
  tj      : W16
  stamp   : Nat
deriving DecidableEq, Repr

structure StartInfo where
  kind    : StartKind
  ran     : Bool
  clocks  : Bool
  supplies : Bool
  fused   : Bool
  duration : Nat
  found   : Nat
  log     : List ResultRec
  fuseEntries : Nat
  failed  : Bool
deriving DecidableEq, Repr

/-- An aggregate entry (R473); `node` is 0xFFFE for an overflow entry (R475). -/
structure AggEntry where
  fn      : Nat
  node    : W16
  cause   : W16
  severity : Nat
  subject : W32
  detail  : BitVec 24
  count   : Nat
  firstAt : Nat
  lastAt  : Nat
  raised  : Bool
  closing : Bool
  /-- Partitions that an unwritten record of the entry waits for, and when it arose. -/
  owed    : List Nat
  order   : Nat
deriving DecidableEq, Repr

/-- A record in the pending store (R468): the partitions it waits for (two for a VF's severity-3 report, R467), its
`FUNCTION` field, its body, and its place in the order in which records arose. -/
structure PendingRec where
  parts     : List Nat
  function  : Nat
  order     : Nat
  body      : FaultBody
deriving DecidableEq, Repr

structure Faults where
  store   : List PendingRec
  dropped : Tab Nat
  agg     : List AggEntry
  nextOrder : Nat
  /-- Unacknowledged severity-3 records of PF0's partition: `FAULT_SEQ` there and `FUNCTION` (R470). -/
  unacked : List (W32 × Nat)
  /-- Conditions 0 to 3 of Table 18-5; condition 4 is that a severity-3 record is not acknowledged. -/
  alert   : BitVec 4
deriving DecidableEq, Repr

/-- JTAG TAP states of IEEE 1149.1. -/
inductive Tap where
  | reset | idle | selDr | capDr | shDr | ex1Dr | paDr | ex2Dr | upDr | selIr | capIr | shIr | ex1Ir | paIr | ex2Ir | upIr
deriving DecidableEq, Repr

inductive JtagOp where
  | bypass | idcode | sample | resultLog | other
deriving DecidableEq, Repr

structure Jtag where
  trst  : Bool
  tap   : Tap
  ir    : W8
  op    : JtagOp
  dr    : List Bool
  tdo   : Bool
deriving DecidableEq, Repr

/-- The PCIe link and PF0's SR-IOV registers. `rate`: in units of 0.1 GT/s; `flit`: flit mode (Table 3-1). -/
structure Pcie where
  linkUp  : Bool
  width   : Nat
  rate    : Nat
  flit    : Bool
  ari     : Bool
  perst   : Bool
  refclk  : Bool
  oscillator : Bool
  aspmL1  : Bool
  inL1    : Bool
  vfEnable : Bool
  numVfs  : Nat
  trainBy : Option Nat
deriving DecidableEq, Repr


/-- An entry of a crossing's queue (R434): what it carries, its ready bit, which announces it once it is written whole, and its taken bit,
which lets the sender change it. -/
structure CrossEntry where
  item  : Output
  ready : Bool
  taken : Bool
deriving DecidableEq, Repr

/-- A queue of a crossing: at most 32 entries, oldest first, and the pointers of the side that writes it and of the side that reads it
(R434, R438). -/
structure CrossQueue where
  entries : List CrossEntry
  writePtr : Nat
  readPtr  : Nat
deriving DecidableEq, Repr

/-- The crossing of an island (Table 16-3): its state, its levels (R438) and its two queues. -/
structure Crossing where
  mode    : CrossMode
  /-- The island holds `RESET_NOTIFY`, or `READY`, raised; `SYNC_REQ` and `SYNC_ACK` are raised both ways. -/
  notify  : Bool
  ready   : Bool
  syncReq : Bool
  syncAck : Bool
  /-- A data-path agent raises wake (R441). -/
  wake    : Bool
  toIsland : CrossQueue
  toMesh   : CrossQueue
  /-- Entries that wait on the mesh side for a place in the queue. -/
  held    : List Output
  /-- Control-path accesses that wait in the crossing, at most 4, and those that wait behind them in the mesh (R442). -/
  control : List ControlAccess
  behind  : List ControlAccess
deriving DecidableEq, Repr

/-- `CLOCK_STATUS` (Table 2-4), since when bits of it have read 0, the islands whose clocks have stopped (R38), and the crossings. -/
structure Clocks where
  status  : BitVec 18
  zeroSince : Tab Nat
  stopped : BitVec 18
  crossings : Tab Crossing
deriving DecidableEq, Repr

/-- The instant of the latest occurrence of each periodic event: 1 µs shaper and policer refills (R183, R184), 1 ms
heartbeat (R37), 1 µs enforcement tick (R409), 100 µs division (R413), 10 µs sensor sample (R423), 100 µs thermal window
(R424), hourly margin measurement (R417), 24 h self-tests (R400), 100 µs aggregation boundary (R473, R474), 30 s LLDP
(R363). -/
structure Ticks where
  shaper    : Nat
  policer   : Nat
  heartbeat : Nat
  enforce   : Nat
  division  : Nat
  sample    : Nat
  thermal   : Nat
  ageing    : Nat
  selftest  : Nat
  aggUpdate : Nat
  aggClose  : Nat
  lldp      : Nat
deriving DecidableEq, Repr

structure Device where
  life    : Life
  now     : Nat
  level1Strap : Bool
  profile : Profile
  bootRecovery : Bool
  heartbeat : W16
  ticks   : Ticks
  lastLiveness : Nat
  resetDue : Option (Nat × StartKind)
  refsPresent : Bool
  ppsLatest : Nat
  ppsPrev : Nat
  ppsCount : Nat
  ppsEdgeAt : Option Nat
  coreLostAt : Option Nat
  inventory : Inventory
  /-- Names the next free value to draw: `Config` functions are applied to it (log entry 2). -/
  fresh   : Nat
  /-- Entries accepted so far, over all rings and streams. -/
  accepts : Nat
deriving DecidableEq, Repr

/-! ### The whole machine -/

structure State where
  dev      : Device
  pcie     : Pcie
  clocks   : Clocks
  fns      : Tab Function
  spaces   : Tab AddrSpace
  sqs      : Tab SubRing
  cqs      : Tab CplRing
  commands : List Pending
  heldReplies : List HeldReply
  regions  : Tab Region
  retired  : List Retired
  suspended : Tab Suspension
  missSlots : List MissSlot
  missWait : List StreamId
  journal  : Tab JournalRec
  qps      : Tab Qp
  srqs     : Tab Srq
  sched    : Sched
  fabric   : Fabric
  coll     : Collectives
  cache    : Cache
  ramp     : Ramp
  opers    : List OpRun
  tarns    : Tarns
  eth      : Ethernet
  helm     : Helm
  sec      : Security
  power    : Power
  thermal  : Thermal
  droop    : Droop
  ceilings : Ceilings
  start    : StartInfo
  faults   : Faults
  jtag     : Jtag
  /-- What the device has sent, oldest first, and when the host link last carried something (R61). -/
  out      : List Output
  hostAt   : Nat
  /-- Commands that wait, first in, first out. -/
  pending  : List Instr
deriving DecidableEq, Repr

/-! ### New objects -/

/-- The channel page of a function that has just been enabled or reset: DOWN, every register at zero (Tables 2-2, 2-3). -/
def freshChannel : Channel :=
  { mode := .down, cmdBase := 0, replyBase := 0, ringSizes := 0, replyVector := 0, enable := false, replyHead := 0, replyIndex := 0,
    consumed := 0, disabling := false, starved := false, scanning := false, doorbellAt := 0, rereads := 0, rereadAt := 0 }

/-- A function that has just been enabled: STOPPED, with its level as the strap says, retention of 30 s, a quota of 256 rings of each kind,
and the default retry and share (Table 2-11, R62, R76, R88, R180). -/
def freshFunction (level1 : Bool) : Function :=
  { mode := .stopped, level1 := level1, retention := 30, token := none, heldSince := none, latent := false, disabling := false,
    channel := freshChannel, resetIndex := 0, sqQuota := 256, cqQuota := 256, retryDelay := 2, retryCount := 4, watchdogMs := 0,
    watchdogAt := none, masked := false, msix := [], pendingBits := [], share := 100, relaxedOrdering := true, atomicRequester := false,
    maxPayload := 128, maxRead := 512, sounding := none }

/-- An MSI-X table entry after reset: PCI Express masks it (log entry 10). -/
def resetMsix : MsixEntry := { addr := 0, data := 0, mask := true }

/-- The address space of such a function: nothing mapped, epoch 0. -/
def freshSpace : AddrSpace :=
  { space := none, faultSeq := 0, epoch := 0, pages := [], staged := [], lost := [], grants := [], windows := [], waiting := [] }

/-! ### Reset -/

/-- An Ethernet link at reset: down, every counter 0. -/
def freshLink : Link :=
  { up := false, changedAt := 0, pfcEnable := 0, xoff := 0, headroom := 0, occupancy := List.replicate 8 0, pausing := 0, pauseSentAt := 0,
    pausedUntil := [], mcast := [], txLpi := false, rxLpi := false, txLpiAt := 0, rxLpiAt := 0, wakeNs := none, idleSince := 0,
    counters := [], halfCrossed := 0 }

/-- An Ethernet port at reset: `MODE` 0, the default wake time of Table 13-8. -/
def freshEthPort : EthPort :=
  { mode := 0, medium := 0, prioDscp := false, lpiEnable := false, wakeMax := 20, macBase := 0, loopUntil := none }

/-- A bearing at reset (Table 8-5). -/
def freshBearing : Bearing :=
  { mode := .idle, entries := [], generation := 0, linkUse := 0, dateline := 0, guarded := 0, flippedAt := 0 }

def freshRing : RingInfo := { slots := 0, folded := false, foldA := 0, foldB := 0, foldsSeen := 0 }

/-- The fabric at reset: no number, no port with a role, both bearings IDLE, `DRAIN_NS` at its default. -/
def freshFabric : Fabric :=
  { ident := none, ports := [], bearingA := freshBearing, bearingB := freshBearing, drainNs := 64000, ringX := freshRing, ringY := freshRing,
    exits := [], reservations := [], ejectUse := [], dropped := 0, stale := 0, claims := [], store := [], reasmTags := [], inject := [],
    flood := [], markersSeen := [],
    flipTime := 0, ownFolds := 0 }

def freshSched : Sched :=
  { classes := [], tcWeights := [], shapers := [], policers := [], soundings := [], tcQueues := [], fnQueues := [], streamQueues := [],
    acceptQueue := { v := 0, tags := [] }, units := [], nextAdmission := 0, recheckAt := none }

def freshColl : Collectives := { groups := [], free := 4032, spillUsed := 0, nextOrder := 0, engines := [], queue := [] }

def freshCache : Cache :=
  { pools := [], sealedBlocks := [], pins := [], resident := [], runs := [], seals := [], results := [], hold := false, holdBarred := false, lastD0 := 0,
    early := [], finishing := [], turnD1 := 0, turnD2 := 0 }

/-- Every unit is at rest. -/
def freshRamp : Ramp :=
  { active := [], working := [], idleSince := [], starting := [], resting := [], nextWave := none, period := 1000, window := 0, left := 0,
    rested := 0 }

def freshTarns : Tarns :=
  { mem := [], alloc := [], usable := BitVec.allOnes 256, reforming := false, remirror := [], tarnLost := 0, unreadable := [], rebuild := [],
    freeing := [], scrubHits := [], repairs := [], spares := [], softRows := [], corrected := [], powerDown := [], accessed := [], refreshMs := 32 }

def freshEth : Ethernet :=
  { ports := (List.range 4).map fun i => (i, freshEthPort), links := (List.range 32).map fun i => (i, freshLink), ring := none,
    udpPort := 49212, addrs := [], cntVector := none, cntSignalledAt := none }

def zeroAllowance : Allowance := { mesh := 0, reduction := 0, tarn := 0, shoals := List.replicate 16 0 }

def zeroMeas : PowerMeas :=
  { fixed := 0, mesh := 0, reduction := 0, shoals := List.replicate 16 0, tarn := 0, rails := List.replicate 9 0, mean50us := 0, mean1ms := 0 }

/-- No grant, the fallback budget of 400 W, the boot setpoint of 750 mV (Table 15-4, R418). -/
def freshPower : Power :=
  { grantW := 0, grantSeq := 0, validUntil := none, fallback := 400, thermal := 800, frozen := false, setpoint := 750, target := 750,
    floor := 705, framedAt := 0, division := zeroAllowance, enforced := zeroAllowance, reserveMesh := 0, reserveTarn := 0, fixedMw := 0,
    demand := [], unitMa := [], meas := zeroMeas, peak50 := 0 }

def freshDroop : Droop :=
  { coreSince := none, islSince := none, coreLong := false, islLong := false, coreRecovered := none, islRecovered := none, events := 0,
    deferred := 0, throttles := 0, holdEnds := 0, pendingSetpoint := none, pendingClock := none, coreClock := 2400 }

/-- Fused ceilings (R416; for the islands, the clocks of Table 16-2 in steps of 25 MHz: log entry 52). -/
def fusedCeilings : Ceilings :=
  { shoals := List.replicate 16 200, cores := List.replicate 12 96,
    islands := [80, 80, 63, 63, 63, 63, 63, 63, 63, 63, 50, 50, 50, 50, 96, 40, 5, 40], phaseMix := [0, 0, 0, 0, 65535], learn := [] }

def freshThermal : Thermal := { readings := List.replicate 48 0, windowMax := none, hotSensor := none, peak := 0, tripped := false }

/-- Everything usable (Table 0-1, Table 2-9). -/
def fullInventory : Inventory :=
  { shoals := BitVec.allOnes 16, cores := BitVec.allOnes 12, tarns := BitVec.allOnes 4, fabricLanes := BitVec.allOnes 64,
    ethLanes := BitVec.allOnes 32, engines := BitVec.allOnes 8, movers := BitVec.allOnes 32, fathoms := 4032, helm := true,
    cacheBytes := 50331648, sensors := BitVec.allOnes 48 }

/-- Lodestar time at which the state after reset stands: a cold start has just taken the longest it may (Table 17-3, log entry 1). -/
def resetTime : Nat := 428000000

def ticksAt (t : Nat) : Ticks :=
  { shaper := t, policer := t, heartbeat := t, enforce := t, division := t, sample := t, thermal := t, ageing := t, selftest := t,
    aggUpdate := t, aggClose := t, lldp := t }

def freshDevice : Device :=
  { life := .running, now := resetTime, level1Strap := false, profile := .balanced, bootRecovery := false, heartbeat := 0,
    ticks := ticksAt resetTime, lastLiveness := resetTime, resetDue := none, refsPresent := true, ppsLatest := 0, ppsPrev := 0,
    ppsCount := 0, ppsEdgeAt := none, coreLostAt := none, inventory := fullInventory, fresh := 0, accepts := 0 }

def freshPcie : Pcie :=
  { linkUp := true, width := 16, rate := 1280, flit := true, ari := false, perst := false, refclk := true, oscillator := false, aspmL1 := false, inL1 := false, vfEnable := false,
    numVfs := 0, trainBy := none }

def emptyQueue : CrossQueue := { entries := [], writePtr := 0, readPtr := 0 }

/-- A crossing that is UP with nothing in it. -/
def freshCrossing : Crossing :=
  { mode := .up, notify := false, ready := true, syncReq := true, syncAck := true, wake := false, toIsland := emptyQueue, toMesh := emptyQueue,
    held := [], control := [], behind := [] }

def freshClocks : Clocks :=
  { status := BitVec.allOnes 18, zeroSince := [], stopped := 0,
    crossings := (List.range 18).map fun i => (i, freshCrossing) }

def freshSecurity : Security :=
  { officer := none, challenge := none, sessionAt := none, offers := [], nextOffer := 0, accords := [], staging := none, stored := none, storeTorn := false,
    running := none, minVersion := Config.imageVersion Config.factoryImage, errorState := false, failing := 0,
    lanes := (List.range 20).map (fun i => (i, { maskAt := resetTime, katAt := resetTime })), drbgRequests := 0, drbgAt := resetTime,
    seed := 0 }

def freshStart : StartInfo :=
  { kind := .cold, ran := true, clocks := true, supplies := true, fused := false, duration := 430000, found := 0, log := [],
    fuseEntries := 0, failed := false }

def freshFaults : Faults := { store := [], dropped := [], agg := [], nextOrder := 0, unacked := [], alert := 0 }

/-- `TRST_N` is held low by its pull-down (R494). -/
def freshJtag : Jtag := { trst := true, tap := .reset, ir := 0, op := .idcode, dr := [], tdo := false }

/-- The device right after a cold start: PF0 STOPPED, every VF DISABLED, the channel DOWN (R453, Table 17-3 step 14). -/
def State.reset : State :=
  { dev := freshDevice, pcie := freshPcie, clocks := freshClocks, fns := [(0, freshFunction false)], spaces := [(0, freshSpace)], sqs := [],
    cqs := [], commands := [], heldReplies := [], regions := [], retired := [], suspended := [], missSlots := [], missWait := [],
    journal := [], qps := [], srqs := [], sched := freshSched, fabric := freshFabric, coll := freshColl, cache := freshCache,
    ramp := freshRamp, opers := [], tarns := freshTarns, eth := freshEth, helm := { allow := [], waiting := [], attempts := 0, counters := [], halfCrossed := 0 },
    sec := freshSecurity, power := freshPower, thermal := freshThermal, droop := freshDroop, ceilings := fusedCeilings, start := freshStart,
    faults := freshFaults, jtag := freshJtag, out := [], hostAt := resetTime, pending := [] }

/-! ### Stops -/

/-- Reasons for which the machine stops. -/
inductive Fault where
  /-- An event names a tarn physical address outside the 256 GiB of Table 1-3. Raised by UNCORRECTABLE_ERROR. Safe: no such
  address exists, and nothing follows from the stop. -/
  | noSuchTpa (tpa : Nat)
deriving DecidableEq, Repr

/-- Reasons for which a command has no meaning. -/
inductive Refusal where
  /-- The command has no meaning in this model yet. Raised by the dispatch alone. Safe: nothing is claimed of it. -/
  | notModelled (mnemonic : String)
deriving DecidableEq, Repr

end Sys2Proof.Machine
end

