-- ==== Sys2Proof/Machine/Tab.lean ====
section
/-! DEFINITION. Operations on tables keyed by number, and on lists used as queues. -/

namespace Sys2Proof.Machine

/-- The entry of key `k`. -/
def tabGet {α : Type} (t : Tab α) (k : Nat) : Option α :=
  match t with
  | [] => none
  | (j, a) :: rest => if j = k then some a else tabGet rest k

/-- `k` maps to `a`; ascending order and uniqueness are kept. -/
def tabSet {α : Type} (t : Tab α) (k : Nat) (a : α) : Tab α :=
  match t with
  | [] => [(k, a)]
  | (j, b) :: rest =>
    if k < j then (k, a) :: (j, b) :: rest
    else if k = j then (k, a) :: rest
    else (j, b) :: tabSet rest k a

/-- Key `k` is absent. -/
def tabErase {α : Type} (t : Tab α) (k : Nat) : Tab α := t.filter fun p => p.1 != k

/-- The entry of `k`, where there is one, becomes `f` of it. -/
def tabMod {α : Type} (t : Tab α) (k : Nat) (f : α → α) : Tab α :=
  t.map fun p => if p.1 = k then (p.1, f p.2) else p

/-- Every entry becomes `f` of its key and itself. -/
def tabMap {α : Type} (t : Tab α) (f : Nat → α → α) : Tab α := t.map fun p => (p.1, f p.1 p.2)

/-- The keys whose entries satisfy `f`. -/
def tabKeys {α : Type} (t : Tab α) (f : α → Bool) : List Nat := (t.filter fun p => f p.2).map Prod.fst

/-- How many entries satisfy `f`. -/
def tabCount {α : Type} (t : Tab α) (f : α → Bool) : Nat := (t.filter fun p => f p.2).length

/-- The lowest number not below `n` that is no key of an ascending table. -/
def tabFree {α : Type} (t : Tab α) (n : Nat) : Nat :=
  match t with
  | [] => n
  | (j, _) :: rest => if j < n then tabFree rest n else if j = n then tabFree rest (n + 1) else n

/-- Counter `k` of a table of counters (absent: 0) rises by `n`. -/
def tabAdd (t : Tab Nat) (k n : Nat) : Tab Nat := tabSet t k ((tabGet t k).getD 0 + n)

/-- A table is in order: keys strictly rise. -/
def tabOk {α : Type} : Tab α → Bool
  | [] => true
  | [_] => true
  | (j, _) :: (k, b) :: rest => j < k && tabOk ((k, b) :: rest)

/-- The number that names element `n` of object `o` in tables over pairs. -/
def pairKey (o n : Nat) : Nat := o * 65536 + n

/-- Ascending numbers without repeats. -/
def sortedNats (l : List Nat) : List Nat := (l.foldl (fun (t : Tab Unit) i => tabSet t i ()) []).map Prod.fst

end Sys2Proof.Machine
end

