-- ==== Sys2Proof/Machine/Flags.lean ====
section
/-! DEFINITION. The codes and status words of the device: status codes (Table 0-3), the fault causes of Table 18-4, and the
state words that software and the board read (Tables 2-3, 2-4 and 18-5). -/

namespace Sys2Proof.Machine

/-- Table 0-3 (R10). -/
def statusCode : Status → Nat
  | .ok => 0x0000 | .accepted => 0x0001
  | .invalidOpcode => 0x0101 | .invalidParam => 0x0102 | .noResource => 0x0103 | .notPermitted => 0x0104
  | .functionStopped => 0x0105 | .busy => 0x0106 | .levelUnsupported => 0x0107
  | .keyInvalid => 0x0201 | .keyStale => 0x0202 | .accessDenied => 0x0203 | .translationFault => 0x0204
  | .bounds => 0x0205
  | .remoteUnreachable => 0x0301 | .retryExhausted => 0x0302 | .flushed => 0x0303 | .rnrExhausted => 0x0304
  | .admissionDenied => 0x0305 | .deadlineMissed => 0x0306
  | .collMismatch => 0x0401 | .collNores => 0x0402 | .collCheck => 0x0403 | .collAborted => 0x0404
  | .bearingBusy => 0x0501 | .fabricPartition => 0x0502
  | .authFail => 0x0601 | .keySpent => 0x0602 | .length => 0x0603 | .cryptoSelftest => 0x0604
  | .cacheMiss => 0x0701 | .operatorFormat => 0x0702

/-- Profile codes, Table 0-2 and Table 2-8. -/
def profileCode : Profile → Nat
  | .balanced => 0 | .latency => 1 | .efficiency => 2

/-- `PROFILE_SEL` (Table 0-2). -/
def profileOfStrap (v : BitVec 2) : Profile :=
  if v = 1 then .latency else if v = 2 then .efficiency else .balanced

/-- `FUNCTION_STATE`, Table 2-3. -/
def fnModeCode : FnMode → Nat
  | .disabled => 0 | .stopped => 1 | .running => 2 | .stopping => 3 | .resetting => 4 | .held => 5

/-- `CHANNEL_STATE`, Table 2-3: the device's own state covers the channel's. -/
def chanStateCode (life : Life) (m : ChanState) : Nat :=
  match life with
  | .running | .fwRestart => (match m with | .down => 0 | .ready => 1 | .fault => 2)
  | .romRecovery => 4
  | _ => 3

/-- `CHANNEL_STATUS` of a function, Table 2-3. -/
def channelStatus (s : State) (fn : Nat) : Nat :=
  match tabGet s.fns fn with
  | none => 0
  | some f => pack [(0, 4, chanStateCode s.dev.life f.channel.mode), (4, 3, fnModeCode f.mode), (7, 1, flag f.level1),
      (8, 1, flag s.dev.level1Strap), (9, 2, profileCode s.dev.profile), (16, 16, f.channel.consumed.toNat),
      (32, 16, s.dev.heartbeat.toNat)]

/-- `CLOCK_STATUS`, Table 2-4. -/
def clockStatus (s : State) : Nat := s.clocks.status.toNat

/-- The causes of Table 18-4. -/
inductive Cause where
  | doorbellRange | tableRebuilt | admissionWithdrawn | networkViolation | journalLost | peerSilent | memberLost
  | trainingFailed | markerUnarmed | drainRaised | ringFolded | engineRetired | userUnpinned | holdEnded | bankNoSpare
  | channelLost | keyHalf | cryptoError | grantExpired | budgetShort | partRetired | droopLong | overTemperature
  | strapChanged | selftestSkipped | tarnLost | spurStreamHeld | rowLost | sealUnitFailed
deriving DecidableEq, Repr

/-- `CAUSE` values of Table 18-4. -/
def causeCode : Cause → Nat
  | .doorbellRange => 1 | .tableRebuilt => 2 | .admissionWithdrawn => 3 | .networkViolation => 4 | .journalLost => 5
  | .peerSilent => 6 | .memberLost => 7 | .trainingFailed => 8 | .markerUnarmed => 9 | .drainRaised => 0xA
  | .ringFolded => 0xB | .engineRetired => 0xC | .userUnpinned => 0xD | .holdEnded => 0xE | .bankNoSpare => 0xF
  | .channelLost => 0x10 | .keyHalf => 0x11 | .cryptoError => 0x12 | .grantExpired => 0x13 | .budgetShort => 0x14
  | .partRetired => 0x15 | .droopLong => 0x16 | .overTemperature => 0x17 | .strapChanged => 0x18
  | .selftestSkipped => 0x19 | .tarnLost => 0x1A | .spurStreamHeld => 0x1B | .rowLost => 0x1C | .sealUnitFailed => 0x1D

/-- The severity column of Table 18-4 (`SEAL_UNIT_FAILED` takes its record's own). -/
def causeSeverity : Cause → Nat
  | .doorbellRange | .tableRebuilt | .networkViolation | .peerSilent | .trainingFailed | .markerUnarmed | .drainRaised
  | .ringFolded | .holdEnded | .bankNoSpare | .keyHalf | .droopLong | .spurStreamHeld => 1
  | .admissionWithdrawn | .memberLost | .engineRetired | .userUnpinned | .grantExpired | .budgetShort | .partRetired
  | .strapChanged | .sealUnitFailed => 2
  | .journalLost | .channelLost | .cryptoError | .overTemperature | .selftestSkipped | .tarnLost | .rowLost => 3

/-- The Agg. column of Table 18-4. -/
def causeAggregated : Cause → Bool
  | .doorbellRange | .networkViolation | .peerSilent | .memberLost | .trainingFailed | .markerUnarmed | .budgetShort
  | .droopLong => true
  | _ => false

/-- Rights of R94: bits of `RIGHTS`. -/
def rightLocalRead : Nat := 0
def rightLocalWrite : Nat := 1
def rightRemoteRead : Nat := 2
def rightRemoteWrite : Nat := 3
def rightRemoteAtomic : Nat := 4
def rightCollTarget : Nat := 5

/-- `NAK` reasons, Table 6-5. -/
inductive NakReason where
  | rnr | qpNotReady | keyInvalid | keyStale | accessDenied | bounds | faultWait | translationFault | seqGap
deriving DecidableEq, Repr

def nakCode : NakReason → Nat
  | .rnr => 1 | .qpNotReady => 2 | .keyInvalid => 3 | .keyStale => 4 | .accessDenied => 5 | .bounds => 6
  | .faultWait => 7 | .translationFault => 8 | .seqGap => 9

def nakOfCode (n : Nat) : Option NakReason :=
  [NakReason.rnr, .qpNotReady, .keyInvalid, .keyStale, .accessDenied, .bounds, .faultWait, .translationFault,
    .seqGap].find? fun r => nakCode r == n

/-- The status with which the initiator completes an entry refused for a fatal reason (Table 6-5); none: not fatal. -/
def nakStatus : NakReason → Option Status
  | .qpNotReady => some .remoteUnreachable
  | .keyInvalid => some .keyInvalid
  | .keyStale => some .keyStale
  | .accessDenied => some .accessDenied
  | .bounds => some .bounds
  | .translationFault => some .translationFault
  | .rnr | .faultWait | .seqGap => none

/-- The reason that answers a key check that failed with this status. -/
def nakOfStatus : Status → NakReason
  | .keyInvalid => .keyInvalid
  | .keyStale => .keyStale
  | .accessDenied => .accessDenied
  | .translationFault => .translationFault
  | _ => .bounds

end Sys2Proof.Machine
end

