-- ==== Sys2Proof/Machine/Operands.lean ====
section
/-! DEFINITION. The forms operands take: the parameters of a Wisia command (Table 2-5, R40, R45) and the fields of a
submission entry (Tables 3-4, 5-6 to 5-8). -/

namespace Sys2Proof.Machine

/-! ### Command parameters -/

/-- Byte `i` of the command's parameters: zero at or beyond `LENGTH` (R45). -/
def paramByte (c : Cmd) (i : Nat) : Nat :=
  if i < c.length.toNat then
    if c.indirect then ((c.buffer.getD []).getD i 0).toNat else bits c.params.toNat (8 * i) 8
  else 0

/-- The little-endian parameter of `n` bytes at byte offset `off` (R48). -/
def param (c : Cmd) (off n : Nat) : Nat :=
  ((List.range n).map fun i => paramByte c (off + i) * 2 ^ (8 * i)).sum

/-- `n` parameter bytes from `off`. -/
def paramBytes (c : Cmd) (off n : Nat) : List Byte :=
  (List.range n).map fun i => BitVec.ofNat 8 (paramByte c (off + i))

/-- A command slot's fields (Table 2-5) as the device reads them. -/
def slotOpcode (w : W512) : Nat := bits w.toNat 0 16

def slotPhase (w : W512) : Bool := bit w.toNat 511

def slotCmd (origin : Origin) (w : W512) (buffer : Option (List Byte)) : Cmd :=
  { origin := origin, tag := BitVec.ofNat 16 (bits w.toNat 16 16), length := BitVec.ofNat 16 (bits w.toNat 32 16),
    function := BitVec.ofNat 8 (bits w.toNat 48 8), indirect := bit w.toNat 56, quiet := bit w.toNat 57,
    rsvd := BitVec.ofNat 133 (bits w.toNat 58 6 + bits w.toNat 64 64 * 2 ^ 6 + bits w.toNat 448 63 * 2 ^ 70),
    params := BitVec.ofNat 320 (bits w.toNat 128 320), buffer := buffer }

/-! ### Submission entries (Table 3-4) -/

def entryOp (e : W512) : Nat := bits e.toNat 0 8
def entryInline (e : W512) : Bool := bit e.toNat 8
def entrySolicited (e : W512) : Bool := bit e.toNat 9
def entryNoIntr (e : W512) : Bool := bit e.toNat 10
def entryContext (e : W512) : Nat := bits e.toNat 16 20
def entryUser (e : W512) : Nat := bits e.toNat 64 64
def entryPhase (e : W512) : Bool := bit e.toNat 511

/-- The RSVD bits common to every entry (Table 3-4). -/
def entryRsvdZero (e : W512) : Bool :=
  bits e.toNat 11 5 == 0 && bits e.toNat 36 28 == 0 && bits e.toNat 504 7 == 0

/-- Tables 5-6 and 5-8: key, DVA and length of the remote side, or of a posted buffer. -/
def entryKey (e : W512) : W32 := BitVec.ofNat 32 (bits e.toNat 128 32)
def entryDva (e : W512) : Nat := bits e.toNat 160 64
def entryLength (e : W512) : Nat := bits e.toNat 224 64
def entryImmediate (e : W512) : W32 := BitVec.ofNat 32 (bits e.toNat 288 32)
def entryLocalKey (e : W512) : W32 := BitVec.ofNat 32 (bits e.toNat 320 32)
def entryLocalDva (e : W512) : Nat := bits e.toNat 352 64

/-- The inline payload of an entry: its first `LENGTH` bytes from bit 320 (R130). -/
def entryPayload (e : W512) : List Byte := leBytes (entryLength e) (bits e.toNat 320 184)

/-- Table 5-7. -/
def atomicOperand (e : W512) : W64 := BitVec.ofNat 64 (bits e.toNat 224 64)
def atomicCompare (e : W512) : W64 := BitVec.ofNat 64 (bits e.toNat 288 64)
def atomicKey (e : W512) : W32 := BitVec.ofNat 32 (bits e.toNat 352 32)
def atomicDva (e : W512) : Nat := bits e.toNat 384 64
def atomicReturn (e : W512) : Bool := bit e.toNat 448

/-- Table 5-8. -/
def recvToSrq (e : W512) : Bool := bit e.toNat 288

/-- `WORK_OP` values of Table 3-5. -/
inductive WorkOp where
  | nop | write | writeImm | read | send | fadd | cswap | flush | fence | recv | coll | attention | operator
deriving DecidableEq, Repr

def workOpCode : WorkOp → Nat
  | .nop => 0 | .write => 1 | .writeImm => 2 | .read => 3 | .send => 4 | .fadd => 6 | .cswap => 7 | .flush => 8
  | .fence => 9 | .recv => 0x10 | .coll => 0x20 | .attention => 0x30 | .operator => 0x31

def workOpOf (n : Nat) : Option WorkOp :=
  [WorkOp.nop, .write, .writeImm, .read, .send, .fadd, .cswap, .flush, .fence, .recv, .coll, .attention,
    .operator].find? fun o => workOpCode o == n

/-- The `OP_BODY` bits that Tables 5-6 to 5-8, 10-2 and 11-3 mark RSVD for an operation are zero. Those of a collective
are judged under R242, because the entry then still takes part in the count phase. -/
def bodyRsvdZero (o : WorkOp) (e : W512) : Bool :=
  let z (lo w : Nat) : Bool := bits e.toNat lo w == 0
  match o with
  | .nop => true
  | .write | .read => z 288 32 && (entryInline e || z 416 88)
  | .writeImm => entryInline e || z 416 88
  | .send => z 128 96 && z 288 32 && (entryInline e || z 416 88)
  | .fadd => z 288 64 && z 449 55
  | .cswap => z 449 55
  | .flush | .fence => z 128 376
  | .recv => z 289 215
  | .coll => true
  | .attention => z 233 7 && z 482 22
  | .operator => z 158 2 && z 408 96

end Sys2Proof.Machine
end

