-- ==== Sys2Proof/Machine/Layouts.lean ====
section
/-! DEFINITION. The layouts of the structures that the device writes to host memory, each as the little-endian number its
table gives. -/

namespace Sys2Proof.Machine

/-- The owned phase of index `i` in a ring of 2^`k` entries: 1 on the first lap, inverted on each later one (R66). -/
def ownedPhase (i k : Nat) : Bool := i / 2 ^ k % 2 == 0

/-- Table 2-6. -/
def replyBits (r : Reply) (phase : Bool) : Nat :=
  pack [(0, 16, r.tag.toNat), (16, 16, statusCode r.status), (32, 16, r.opcode.toNat), (48, 8, r.function.toNat),
    (56, 1, flag r.final), (64, 64, r.result0.toNat), (128, 64, r.result1.toNat), (192, 56, r.result2.toNat),
    (255, 1, flag phase)]

/-- Number of enabled VFs. -/
def vfsEnabled (s : State) : Nat := (s.fns.filter fun p => p.1 != 0 && !p.2.latent && p.2.mode != .disabled).length

/-- Table 2-9, the `dev.query` record as issued by a function at level `level1`. -/
def devQueryBits (s : State) (level1 : Bool) : Nat :=
  pack [(0, 16, 0x0E12), (16, 8, 0xB0), (32, 32, Config.fwVersion.toNat), (64, 16, s.dev.inventory.shoals.toNat),
    (80, 12, s.dev.inventory.cores.toNat), (92, 4, s.dev.inventory.tarns.toNat), (128, 256, s.tarns.usable.toNat),
    (384, 64, s.dev.inventory.fabricLanes.toNat), (448, 32, s.dev.inventory.ethLanes.toNat),
    (480, 1, flag s.dev.level1Strap), (481, 2, profileCode s.dev.profile), (483, 1, flag level1),
    (512, 64, s.dev.now), (576, 8, vfsEnabled s)]

/-- One slot of a completion ring's header block, Table 3-6. -/
def acceptedWord (accepted ring : Nat) (valid : Bool) : Nat :=
  pack [(0, 16, accepted), (16, 16, ring), (32, 1, flag valid)]

/-- Table 3-7. -/
def cqeLevel2 (w : Work) (ring : Nat) (held phase : Bool) : Nat :=
  pack [(0, 16, statusCode w.status), (16, 16, w.index), (32, 16, ring), (48, 8, entryOp w.entry),
    (56, 1, flag w.imm.isSome), (57, 1, flag held), (64, 64, entryUser w.entry), (128, 64, w.result.toNat),
    (192, 32, (w.imm.getD 0).toNat), (255, 1, flag phase)]

/-- `RESULT_LOW` of Table 3-8 (R73). -/
def resultLow (w : Work) : Nat :=
  match w.imm with
  | some i => i.toNat
  | none =>
    if entryOp w.entry = 6 ∨ entryOp w.entry = 7 then (if w.status = .ok then 8 else 0)
    else if entryOp w.entry = 0x10 then bits w.result.toNat 0 33 % 2 ^ 32
    else w.result.toNat % 2 ^ 32

/-- The byte count of a completion is 2^32 (`LEN_2_32`, R73). -/
def len2to32 (w : Work) : Bool :=
  w.imm.isNone && entryOp w.entry != 6 && entryOp w.entry != 7 &&
    (if entryOp w.entry = 0x10 then bits w.result.toNat 0 33 else w.result.toNat) == 2 ^ 32

/-- Table 3-8. -/
def cqeLevel1 (w : Work) (ring : Nat) (held phase : Bool) : Nat :=
  pack [(0, 16, statusCode w.status), (16, 16, w.index), (32, 8, entryOp w.entry), (40, 1, flag w.imm.isSome),
    (41, 1, flag held), (42, 1, flag (len2to32 w)), (48, 16, ring), (64, 32, resultLow w), (96, 31, entryUser w.entry),
    (127, 1, flag phase)]

/-- The severity of a record (R467 to R469). -/
def bodySeverity : FaultBody → Nat
  | .translation .. => 1
  | .event severity .. => severity
  | .lostRange .. => 3
  | .sealFailure zeroed .. => if zeroed then 2 else 3

/-- A record of a fault-queue partition (Table 4-5, Tables 18-1 to 18-3). -/
def faultBits (body : FaultBody) (function seq : Nat) (deferred phase : Bool) : Nat :=
  let head := [(8, 8, function), (32, 32, seq), (248, 1, flag deferred), (255, 1, flag phase)]
  match body with
  | .translation access kind dva pages stream epoch key =>
    pack (head ++ [(0, 8, 1), (16, 2, access), (18, 3, kind), (64, 57, dva), (128, 32, pages), (160, 20, stream),
      (192, 32, epoch.toNat), (224, 24, key)])
  | .event severity agg closed stamp node cause subject count detail =>
    pack (head ++ [(0, 8, 2), (16, 2, severity), (18, 1, flag agg), (19, 1, flag closed), (64, 64, stamp),
      (128, 16, node.toNat), (144, 16, cause.toNat), (160, 32, subject.toNat), (192, 32, count.toNat),
      (224, 24, detail.toNat)])
  | .lostRange tpa base pages cause =>
    pack (head ++ [(0, 8, 3), (16, 2, 3), (18, 1, flag tpa), (64, 57, base), (128, 32, pages), (160, 16, cause.toNat)])
  | .sealFailure zeroed base qp unitIndex msg =>
    pack (head ++ [(0, 8, 4), (16, 2, if zeroed then 2 else 3), (18, 1, flag zeroed), (64, 57, base), (128, 20, qp),
      (148, 22, unitIndex), (170, 32, msg.toNat)])

/-- One record of `fn.attach` (R49). -/
def attachRecord (ring accepted : Nat) : Nat := pack [(0, 16, ring), (16, 16, accepted)]

/-! ### `ALERT_N` (R470, R476) -/

/-- Severity-3 records of PF0's partition that no `fault.ack` has named, those that wait to be written among them (R456, R470, log entry
110). -/
def unackedRecords (s : State) : Nat :=
  s.faults.unacked.length + (s.faults.store.filter fun r => bodySeverity r.body == 3 && r.parts.contains 0).length +
    (s.faults.agg.filter fun a => a.severity == 3 && !a.closing && a.owed.contains 0).length

/-- The conditions of Table 18-5; `ALERT_N` is asserted while any is set (R476). -/
def alertBits (s : State) : Nat := s.faults.alert.toNat + 16 * flag (unackedRecords s != 0)

/-- `ALERT_N` is asserted. -/
def alertAsserted (s : State) : Bool := alertBits s != 0

end Sys2Proof.Machine
end

