-- ==== Sys2Proof/Machine/Ops.lean ====
section
/-! DEFINITION. The named operations that the families share: time, output, interrupts, fault records, command replies,
journal records and completions. -/

namespace Sys2Proof.Machine

/-! ### Time, output, free values -/

/-- Lodestar time becomes at least `t` (log entry 5: the occurrence of a timed event is the passing of its instant). -/
def advanceTo (t : Nat) (s : State) : State := { s with dev := { s.dev with now := max s.dev.now t } }

/-- The host link carries it. -/
def onHostLink (o : Output) : Bool :=
  match o with
  | .hostWrite .. | .hostBytes .. | .hostZeroRead _ | .hostAtomic .. | .msix .. | .registerData .. | .bar4Data .. => true
  | _ => false

def emit (o : Output) (s : State) : State :=
  { s with out := s.out ++ [o], hostAt := if onHostLink o then s.dev.now else s.hostAt }

/-- The host link has carried an access of the host (R61). -/
def hearHost (s : State) : State := { s with hostAt := s.dev.now }

/-- Take the number that names the next free value (log entry 2). -/
def takeFresh (s : State) : State := { s with dev := { s.dev with fresh := s.dev.fresh + 1 } }

/-- The data path runs: the device is started, or in a firmware restart (R452). -/
def lit (s : State) : Bool := s.dev.life == .running || s.dev.life == .fwRestart

/-- What happens inside the device happens only while the data path runs (R449, R452, R454). -/
def whileLit (s : State) (k : Host.Outcome State Fault Refusal) : Host.Outcome State Fault Refusal := if lit s then k else .next s

/-! ### Functions -/

def fnGet (s : State) (fn : Nat) : Option Function := tabGet s.fns fn

def fnMod (fn : Nat) (f : Function → Function) (s : State) : State := { s with fns := tabMod s.fns fn f }

def chanMod (fn : Nat) (f : Channel → Channel) (s : State) : State :=
  fnMod fn (fun x => { x with channel := f x.channel }) s

def spaceMod (fn : Nat) (f : AddrSpace → AddrSpace) (s : State) : State :=
  { s with spaces := tabMod s.spaces fn f }

/-- A function's state; a function without an entry is DISABLED. -/
def fnModeOf (s : State) (fn : Nat) : FnMode :=
  match tabGet s.fns fn with
  | some f => f.mode
  | none => .disabled

/-- A function that commands may name: PF0, or a VF that is enabled and not latent (R46, R84). -/
def fnEnabled (s : State) (fn : Nat) : Bool :=
  match tabGet s.fns fn with
  | some f => f.mode != .disabled && !f.latent
  | none => false

/-- The device does no DMA to or from the function's host memory (R82). -/
def dmaBarred (s : State) (fn : Nat) : Bool :=
  match fnModeOf s fn with
  | .resetting | .held | .disabled => true
  | .stopped | .running | .stopping => false

/-- DMA to the host memory of a function, where it is not barred. -/
def emitHost (fn : Nat) (o : Output) (s : State) : State := if dmaBarred s fn then s else emit o s

def fnLevel1 (s : State) (fn : Nat) : Bool :=
  match tabGet s.fns fn with
  | some f => f.level1
  | none => false

/-! ### Interrupts -/

/-- Entry `v` of a function's MSI-X table. -/
def msixOf (f : Function) (v : Nat) : MsixEntry := (tabGet f.msix v).getD resetMsix

/-- Signal MSI-X vector `v` of a function: nothing while the function-wide mask holds (R81), a pending bit while the table
masks the vector, otherwise a message. -/
def signalVec (fn v : Nat) (s : State) : State :=
  match tabGet s.fns fn with
  | none => s
  | some f =>
    if f.masked then s
    else if (msixOf f v).mask then
      fnMod fn (fun x => { x with pendingBits := if x.pendingBits.contains v then x.pendingBits else x.pendingBits ++ [v] }) s
    else emit (.msix fn v (msixOf f v).addr (msixOf f v).data) s

/-! ### Fault records (chapters 4 and 18) -/

/-- The partition of `p` can take a record now (R113, R452, R468). -/
def partitionOpen (s : State) (p : Nat) : Bool :=
  match tabGet s.spaces p with
  | some a =>
    (match a.space with
     | some sp => (sp.written + 2 ^ 32 - sp.head.toNat) % 2 ^ 32 < 2 ^ sp.fqLog2
     | none => false) && s.dev.life == .running && !dmaBarred s p
  | none => false

/-- The partition has no space for a record (R113, R114). -/
def partitionFull (s : State) (p : Nat) : Bool :=
  match (tabGet s.spaces p).bind fun a => a.space with
  | some sp => decide (2 ^ sp.fqLog2 ≤ (sp.written + 2 ^ 32 - sp.head.toNat) % 2 ^ 32)
  | none => false

/-- Write one record to partition `p` (R113, R467, R470). -/
def writeRecord (p function : Nat) (body : FaultBody) (deferred : Bool) (s : State) : State :=
  match tabGet s.spaces p with
  | some a =>
    match a.space with
    | some sp =>
      let value := faultBits body function a.faultSeq.toNat deferred (ownedPhase sp.written sp.fqLog2)
      let s1 := emit (.hostWrite p (sp.fqBase.toNat + 32 * (sp.written % 2 ^ sp.fqLog2)) false 256 value) s
      let s2 := spaceMod p (fun x => { x with faultSeq := x.faultSeq + 1,
                                              space := x.space.map fun y => { y with written := y.written + 1 } }) s1
      let s3 := if p = 0 ∧ bodySeverity body = 3 then
          { s2 with faults := { s2.faults with unacked := s2.faults.unacked ++ [(a.faultSeq, function)] } } else s2
      signalVec p sp.fqVector s3
    | none => s
  | none => s

/-- A new place in the order in which records arise (R467). -/
def nextOrder (s : State) : State := { s with faults := { s.faults with nextOrder := s.faults.nextOrder + 1 } }

/-- The event body of an aggregate entry's next record (R473, R474). -/
def aggBody (a : AggEntry) (now : Nat) : FaultBody :=
  .event (if a.closing then 0 else a.severity) true a.closing (if a.closing then now else a.firstAt) a.node a.cause a.subject
    (BitVec.ofNat 32 a.count) a.detail

/-- What waits for partition `p`: a translation fault, a stored record, or an aggregate entry's record, with its place in
order. -/
inductive Waiter where
  | fault (w : WaitingFault)
  | stored (r : PendingRec)
  | agg (a : AggEntry)
deriving DecidableEq, Repr

def waiters (s : State) (p : Nat) : List (Nat × Waiter) :=
  (match tabGet s.spaces p with
   | some a => a.waiting.map fun w => (w.order, Waiter.fault w)
   | none => []) ++
  ((s.faults.store.filter fun r => r.parts.contains p).map fun r => (r.order, Waiter.stored r)) ++
  ((s.faults.agg.filter fun a => a.owed.contains p).map fun a => (a.order, Waiter.agg a))

def oldest (l : List (Nat × Waiter)) : Option (Nat × Waiter) :=
  match l with
  | [] => none
  | w :: rest =>
    match oldest rest with
    | none => some w
    | some v => if w.1 ≤ v.1 then some w else some v

/-- `OVERFLOW` and `OVERFLOW_COUNT` of partition `p` as they stand (Table 4-7). -/
def writeFqHeader (p : Nat) (s : State) : State :=
  match tabGet s.spaces p with
  | some a =>
    match a.space with
    | some sp => emitHost p (.hostWrite p (sp.fqHeader.toNat + 4) false 64
        (pack [(0, 1, flag sp.overflow), (32, 32, sp.overflowCount.toNat)])) s
    | none => s
  | none => s

/-- Take one waiting record of partition `p` out of its place and write it. -/
def writeWaiter (p : Nat) (w : Waiter) (s : State) : State :=
  match w with
  | .fault f =>
    let seq := (tabGet s.spaces p).map fun a => a.faultSeq
    let s1 := spaceMod p (fun a => { a with waiting := a.waiting.erase f }) s
    let s2 := { s1 with suspended := tabMod s1.suspended f.suspId fun x => { x with seq := seq } }
    let s3 := writeRecord p p f.body f.full s2
    match tabGet s3.spaces p with
    | some a =>
      if a.waiting.isEmpty then
        writeFqHeader p (spaceMod p (fun x => { x with space := x.space.map fun y => { y with overflow := false } }) s3)
      else s3
    | none => s3
  | .stored r =>
    let left := r.parts.erase p
    let store := if left.isEmpty then s.faults.store.erase r
      else s.faults.store.map fun q => if q = r then { q with parts := left } else q
    writeRecord p r.function r.body true { s with faults := { s.faults with store := store } }
  | .agg a =>
    let left := a.owed.erase p
    let b := { a with owed := left }
    let agg := if left.isEmpty ∧ a.closing then s.faults.agg.erase a
      else s.faults.agg.map fun q => if q = a then b else q
    writeRecord p a.fn (aggBody a s.dev.now) false { s with faults := { s.faults with agg := agg } }

/-- Write what waits for partition `p`, in order, while it has space; at most `n` records. -/
def pumpFuel (n : Nat) (p : Nat) (s : State) : State :=
  match n with
  | 0 => s
  | n + 1 =>
    if partitionOpen s p then
      match oldest (waiters s p) with
      | some w => pumpFuel n p (writeWaiter p w.2 s)
      | none => s
    else s

/-- Faults that wait in a full partition are counted there, `OVERFLOW` is set, and `FQ_VECTOR` signalled if it was 0 (R114). -/
def noteFull (p : Nat) (s : State) : State :=
  match tabGet s.spaces p with
  | none => s
  | some a =>
    let n := (a.waiting.filter fun w => !w.full).length
    match a.space with
    | none => s
    | some sp =>
      if n = 0 ∨ !partitionFull s p then s
      else
        let s1 := spaceMod p (fun x =>
          { x with waiting := x.waiting.map fun w => { w with full := true },
                   space := x.space.map fun y => { y with overflow := true, overflowCount := y.overflowCount + BitVec.ofNat 32 n } }) s
        let s2 := writeFqHeader p s1
        if sp.overflow then s2 else signalVec p sp.fqVector s2

/-- Write what waits for partition `p` while it has space; translation faults that are left then wait for space. -/
def pumpPartition (p : Nat) (s : State) : State := noteFull p (pumpFuel (waiters s p).length p s)

/-- `FQ_HEAD` of partition `p` has been read as `head`: what waits is written as space allows (R113, R114). -/
def readFqHead (p : Nat) (head : W32) (s : State) : State :=
  pumpPartition p (spaceMod p (fun a => { a with space := a.space.map fun sp => { sp with head := head } }) s)

/-- The node of this device, of an overflow entry, and of the device with fabric number `d` (Table 18-1). -/
def nodeSelf : W16 := 0xFFFF
def nodeOverflow : W16 := 0xFFFE
def nodeDevice (d : Nat) : W16 := BitVec.ofNat 16 d

/-- Count one report under key (`fn`, `node`, `cause`) of the aggregation (R473, R475); `parts`: the partitions that its
records go to. -/
def aggReport (parts : List Nat) (fn : Nat) (node cause : W16) (severity : Nat) (subject : W32) (detail : BitVec 24)
    (s : State) : State :=
  let live (a : AggEntry) (n : W16) : Bool := a.fn == fn && a.node == n && a.cause == cause && !a.closing
  let count (n : W16) (a : AggEntry) : AggEntry :=
    if live a n = true then
      { a with count := a.count + 1, raised := true, subject := subject, detail := detail, lastAt := s.dev.now }
    else a
  let raise (n : W16) : State := { s with faults := { s.faults with agg := s.faults.agg.map (count n) } }
  let openEntry (n : W16) : State :=
    let e : AggEntry :=
      { fn := fn, node := n, cause := cause, severity := severity, subject := subject, detail := detail, count := 1,
        firstAt := s.dev.now, lastAt := s.dev.now, raised := false, closing := false, owed := parts,
        order := s.faults.nextOrder }
    let s1 := nextOrder s
    parts.foldl (fun t p => pumpPartition p t) { s1 with faults := { s1.faults with agg := s1.faults.agg ++ [e] } }
  if s.faults.agg.any (live · node) then raise node
  else if (s.faults.agg.filter fun a => a.node != nodeOverflow).length < 1024 then openEntry node
  else if s.faults.agg.any (live · nodeOverflow) then raise nodeOverflow
  else openEntry nodeOverflow

/-- The node, cause, and severity that a stored record shows when it has to be aggregated (R468). -/
def overflowKey (body : FaultBody) : W16 × W16 × Nat :=
  match body with
  | .event severity _ _ _ node cause _ _ _ => (node, cause, severity)
  | .lostRange _ _ _ cause => (0xFFFF, cause, 3)
  | .sealFailure zeroed _ _ _ _ => (0xFFFF, 0x1D, if zeroed then 2 else 3)
  | .translation .. => (0xFFFF, 0, 1)

def countDropped (fn : Nat) (s : State) : State :=
  { s with faults := { s.faults with dropped := tabAdd s.faults.dropped fn 1 } }

/-- Put a record that cannot be written yet into the pending store (R468). -/
def storeRecord (parts : List Nat) (function : Nat) (body : FaultBody) (s : State) : State :=
  let s1 := nextOrder s
  let r : PendingRec := { parts := parts, function := function, order := s.faults.nextOrder, body := body }
  let put (store : List PendingRec) (t : State) : State := { t with faults := { t.faults with store := store ++ [r] } }
  if s.faults.store.length < 8192 then put s.faults.store s1
  else if bodySeverity body ≤ 1 then countDropped function s1
  else
    match s.faults.store.find? fun q => bodySeverity q.body ≤ 1 with
    | some q => countDropped q.function (put (s.faults.store.erase q) s1)
    | none =>
      let k := overflowKey body
      aggReport parts function k.1 k.2.1 k.2.2 0xFFFFFFFF 0 s

/-- A record arises for function `function`: it is written to each partition that can take it at once, and waits for the
others (R467, R468). -/
def postRecord (function : Nat) (body : FaultBody) (s : State) : State :=
  let parts := if bodySeverity body = 3 ∧ function ≠ 0 then [function, 0] else [function]
  let step (acc : State × List Nat) (p : Nat) : State × List Nat :=
    if partitionOpen acc.1 p && (waiters acc.1 p).isEmpty then (writeRecord p function body false acc.1, acc.2)
    else (acc.1, acc.2 ++ [p])
  let r := parts.foldl step (s, [])
  if r.2.isEmpty then r.1 else storeRecord r.2 function body r.1

/-- An event of Table 18-4. `fn` is the function of a function-scope cause, 0 for a device-scope one. -/
def raiseEvent (cause : Cause) (fn : Nat) (node : W16) (subject detail : Nat) (s : State) : State :=
  let c := BitVec.ofNat 16 (causeCode cause)
  if causeAggregated cause then
    aggReport [fn] fn node c (causeSeverity cause) (BitVec.ofNat 32 subject) (BitVec.ofNat 24 detail) s
  else
    postRecord fn (.event (causeSeverity cause) false false s.dev.now node c (BitVec.ofNat 32 subject) 1
      (BitVec.ofNat 24 detail)) s

/-- The record that closes a condition: severity 0, `CLOSED`, stamped with its end (Table 18-1, R470). -/
def closeEvent (cause : Cause) (fn : Nat) (subject detail : Nat) (s : State) : State :=
  postRecord fn (.event 0 false true s.dev.now nodeSelf (BitVec.ofNat 16 (causeCode cause)) (BitVec.ofNat 32 subject) 1
    (BitVec.ofNat 24 detail)) s

/-- Set or clear a condition of Table 18-5. -/
def setAlert (i : Nat) (b : Bool) (s : State) : State :=
  { s with faults := { s.faults with
      alert := BitVec.ofNat 4 (s.faults.alert.toNat - 2 ^ i * flag (bit s.faults.alert.toNat i) + 2 ^ i * flag b) } }

/-! ### Command replies (chapter 2) -/

/-- Write a reply entry to the channel of `fn` and signal its vector unless told not to (R41). -/
def writeReply (fn : Nat) (signal : Bool) (r : Reply) (s : State) : State :=
  match tabGet s.fns fn with
  | none => s
  | some f =>
    if f.channel.mode != .ready then s
    else
      let k := bits f.channel.ringSizes.toNat 8 5
      let i := f.channel.replyIndex.toNat
      let s1 := emit (.hostWrite fn (f.channel.replyBase.toNat + 32 * (i % 2 ^ k)) false 256 (replyBits r (ownedPhase i k))) s
      let s2 := chanMod fn (fun c => { c with replyIndex := c.replyIndex + 1 }) s1
      if signal then signalVec fn f.channel.replyVector.toNat s2 else s2

/-- The journal pair of a number (R16): 0 for tarns 0 and 1, 1 for tarns 2 and 3. -/
def pairOf (n : Nat) : Nat := n % 2

/-- Records per mirror pair (R16). -/
def pairRecords : Nat := 33554432

/-- Channel of a tarn that holds journal index `i` of a pair (R335): four consecutive records share one burst. -/
def journalChannel (i : Nat) : Nat := i / 4 % 64

/-- The lowest index not below `n` of a pair that no record uses, and that lies in no channel awaiting re-mirroring
(R161). -/
def freeIndex (s : State) (pair : Nat) (fuel n : Nat) : Option Nat :=
  match fuel with
  | 0 => none
  | fuel + 1 =>
    if n ≥ pairRecords then none
    else if (tabGet s.journal (2 * n + pair)).isSome
        || s.tarns.remirror.any (fun c => c / 128 == pair && c % 64 == journalChannel n) then
      freeIndex s pair fuel (n + 1)
    else some n

/-- A channel that is usable and whose tarn is (R342). -/
def channelUp (s : State) (c : Nat) : Bool := bit s.tarns.usable.toNat c && bit s.dev.inventory.tarns.toNat (c / 64)

/-- Channels in use, by 64 × tarn + channel. -/
def usableChannels (s : State) : List Nat := (List.range 256).filter (channelUp s)

/-- First byte beyond the interleaved area: 912 MiB for each usable channel (R342). -/
def areaEnd (s : State) : Nat := 912 * 2 ^ 20 * (usableChannels s).length

/-- Channels in the order in which R334 interleaves them. -/
def burstOrder : List Nat := (List.range 256).map fun g => 64 * (g % 4) + g / 4

/-- Where a byte of the interleaved area lies while every channel is usable (R334), and one of the reserved areas (R335): the channel, 64 ×
tarn + channel, and the offset in it. -/
def tarnPlace (tpa : Nat) : Nat × Nat :=
  if tpa < 0x3900000000 then (64 * (tpa / 256 % 4) + tpa / 1024 % 64, tpa / 65536 * 256 + tpa % 256)
  else
    let t := (tpa - 0x3900000000) / 0x1C0000000
    let r := (tpa - 0x3900000000) % 0x1C0000000
    (64 * t + r / 256 % 64, 912 * 2 ^ 20 + r / 16384 * 256 + r % 256)

/-- The channel that holds granule `g` of 256 bytes; the bursts of a lost channel lie in the surviving ones (R342). -/
def granuleChannel (s : State) (g : Nat) : Nat :=
  let c := (tarnPlace (256 * g)).1
  if 0x39000000 ≤ g || channelUp s c then c
  else
    let up := burstOrder.filter (channelUp s)
    let lost := burstOrder.filter fun x => !channelUp s x
    up.getD ((g / 256 * lost.length + lost.idxOf c) % up.length) c

/-- Channels that hold [`a`, `a` + `n`). -/
def channelsOf (s : State) (a n : Nat) : List Nat :=
  if n = 0 then [] else (List.range (min 256 ((a + n - 1) / 256 - a / 256 + 1))).map fun i => granuleChannel s (a / 256 + i)

/-- Channels are accessed now, and leave power-down (R347). -/
def touchChannels (l : List Nat) (s : State) : State :=
  { s with tarns := { s.tarns with powerDown := s.tarns.powerDown.filter (fun c => !l.contains c),
                                   accessed := l.foldl (fun t c => tabSet t c s.dev.now) s.tarns.accessed } }

/-- An access to [`a`, `a` + `n`) of tarn memory (R347). -/
def wakeRange (a n : Nat) (s : State) : State := touchChannels (channelsOf s a n) s

/-- An access to both copies of journal record `i` of a pair. -/
def wakeRecord (pair i : Nat) (s : State) : State :=
  touchChannels [128 * pair + journalChannel i, 128 * pair + 64 + journalChannel i] s

/-- Allocate and write a journal record in the pair of `n` (R16, R161); none when the pair is full (R17). -/
def journalPut (n : Nat) (r : JournalRec) (s : State) : Option (Nat × State) :=
  let pair := pairOf n
  match freeIndex s pair (64 * (s.journal.length + 64)) 0 with
  | none => none
  | some i => some (2 * i + pair, wakeRecord pair i { s with journal := tabSet s.journal (2 * i + pair) r })

def journalFree (rec : Nat) (s : State) : State := { s with journal := tabErase s.journal rec }

def workMod (rec : Nat) (f : Work → Work) (s : State) : State :=
  { s with journal := tabMod s.journal rec fun r => match r with | .work w => .work (f w) | r => r }

def workGet (s : State) (rec : Nat) : Option Work :=
  match tabGet s.journal rec with
  | some (.work w) => some w
  | _ => none

/-- The `WORK`, `COLL_OP` and `CACHE_REQ` records, with their identifiers. -/
def works (s : State) : List (Nat × Work) :=
  s.journal.filterMap fun p => match p.2 with | .work w => some (p.1, w) | _ => none

/-- Signal `CNT_VECTOR` of PF0, once per 100 µs window (R371): with its first crossing (log entry 109). -/
def signalCounters (s : State) : State :=
  match s.eth.cntVector with
  | some v =>
    if s.eth.cntSignalledAt.map (· / 100000) = some (s.dev.now / 100000) then s
    else signalVec 0 v { s with eth := { s.eth with cntSignalledAt := some s.dev.now } }
  | none => s

/-- Size class of a frame, 0 to 8 (Table 13-7). -/
def sizeClass (n : Nat) : Nat :=
  if n ≤ 64 then 0 else if n ≤ 127 then 1 else if n ≤ 255 then 2 else if n ≤ 511 then 3 else if n ≤ 1023 then 4
  else if n ≤ 1518 then 5 else if n ≤ 2047 then 6 else if n ≤ 4095 then 7 else 8

/-- Counter `i` of the helm MAC rises by `n` (R371). -/
def countHelm (i n : Nat) (s : State) : State :=
  let c := ((tabGet s.helm.counters i).getD 0).toNat
  let h := { s.helm with counters := tabSet s.helm.counters i (BitVec.ofNat 48 (c + n)) }
  if c < 2 ^ 47 ∧ 2 ^ 47 ≤ c + n then
    signalCounters { s with helm := { h with halfCrossed := h.halfCrossed ||| BitVec.ofNat 64 (2 ^ i) } }
  else { s with helm := h }

/-- Send a helm frame of `n` bytes; `kind`: 0 unicast, 1 multicast (R368). -/
def sendHelm (dst : W48) (n : Nat) (o : Output) (s : State) : State :=
  let m := max n 64
  let t := countHelm (39 + sizeClass m) 1 (countHelm (if bit dst.toNat 40 then 36 else 35) 1 (countHelm 34 m (countHelm 33 1 s)))
  emit o { t with helm := { t.helm with attempts := 0 } }

/-- The reply of a command: to its channel, to the helm bus, or held for `fn.attach` (R54). The order of held replies is
the order in which they arose. -/
def sendReply (origin : Origin) (quiet : Bool) (heldFor : Option Nat) (r : Reply) (s : State) : State :=
  match origin, heldFor with
  | .ring _, some fn =>
    match journalPut r.function.toNat (.heldReply fn) s with
    | some (rec, s1) =>
      { s1 with heldReplies := s1.heldReplies ++ [{ fn := fn, record := rec, origin := origin, quiet := quiet, reply := r }] }
    | none =>
      { s with heldReplies := s.heldReplies ++ [{ fn := fn, record := 2 * pairRecords, origin := origin, quiet := quiet,
                                                  reply := r }] }
  | .ring fn, none => writeReply fn (!quiet) r s
  | .helm src seq, _ => sendHelm src 86 (.helmReply src seq (replyBits r true)) s

/-- The final reply of a deferred command. -/
def answer (p : Pending) (status : Status) (r0 r1 r2 : Nat) (s : State) : State :=
  sendReply p.origin p.quiet p.heldFor
    { tag := p.tag, status := status, opcode := p.opcode, function := p.function, final := true,
      result0 := BitVec.ofNat 64 r0, result1 := BitVec.ofNat 64 r1, result2 := BitVec.ofNat 56 r2 } s

/-- Give every deferred command that `sel` selects its final reply, oldest first. -/
def finishCmds (sel : Deferral → Option (Status × Nat × Nat × Nat)) (s : State) : State :=
  s.commands.foldl (fun t p =>
    match sel p.what with
    | some r => answer p r.1 r.2.1 r.2.2.1 r.2.2.2 { t with commands := t.commands.erase p }
    | none => t) s

/-- A result record of a command at `hpa`, over the path of the function whose channel read it, or in helm result frames of up to
1,024 bytes (R370). -/
def writeResult (c : Cmd) (hpa nbits value : Nat) (s : State) : State :=
  match c.origin with
  | .ring fn => emit (.hostWrite fn hpa false nbits value) s
  | .helm src seq =>
    (List.range (ceilDiv nbits 8192)).foldl (fun t i =>
      let n := min 8192 (nbits - 8192 * i)
      sendHelm src (26 + n / 8) (.helmResult src seq (nbits / 8) (1024 * i) n (value / 2 ^ (8192 * i) % 2 ^ n)) t) s

/-! ### Completions (chapters 3 and 18) -/

def cqGet (s : State) (fn cq : Nat) : Option CplRing := tabGet s.cqs (pairKey fn cq)

def cqMod (key : Nat) (f : CplRing → CplRing) (s : State) : State := { s with cqs := tabMod s.cqs key f }

/-- Judge the moderation of completion ring `key` (R63): signal its vector when its counted completions reach `MOD_COUNT`
or `MOD_TIME` has passed since the first of them. -/
def judgeCq (key : Nat) (s : State) : State :=
  match tabGet s.cqs key with
  | none => s
  | some q =>
    match q.vector with
    | none => cqMod key (fun q => { q with counted := 0, firstCounted := none }) s
    | some v =>
      let due : Bool := match q.firstCounted with
        | some t => decide (s.dev.now ≥ t + 1000 * q.modTime)
        | none => false
      if q.counted > 0 ∧ (q.counted ≥ q.modCount ∨ due) then
        signalVec (key / 65536) v (cqMod key (fun q => { q with counted := 0, firstCounted := none }) s)
      else s

/-- One more completion that counts for interrupts, if it does (R63). A completion whose peer asked for it without
moderation delay is signalled at once (Table 3-4). -/
def countCq (key : Nat) (counts prompt : Bool) (s : State) : State :=
  if counts then
    let s1 := cqMod key (fun q => { q with counted := q.counted + 1, firstCounted := some (q.firstCounted.getD s.dev.now) }) s
    if prompt then
      match tabGet s1.cqs key with
      | some q =>
        (match q.vector with
         | some v => signalVec (key / 65536) v (cqMod key (fun q => { q with counted := 0, firstCounted := none }) s1)
         | none => judgeCq key s1)
      | none => s1
    else judgeCq key s1
  else s

/-- Write the completion of journal record `rec` to completion ring `key` (R72, R73); `held`: delivered by `fn.attach`. -/
def writeCqe (key ring : Nat) (held : Bool) (rec : Nat) (w : Work) (s : State) : State :=
  match tabGet s.cqs key with
  | none => s
  | some q =>
    let fn := key / 65536
    let slot := q.written % 2 ^ q.log2
    let phase := ownedPhase q.written q.log2
    let o := if fnLevel1 s fn then
        Output.hostWrite fn (q.base.toNat + 16 * slot) false 128 (cqeLevel1 w ring held phase)
      else Output.hostWrite fn (q.base.toNat + 32 * slot) false 256 (cqeLevel2 w ring held phase)
    let s1 := emit o s
    let s2 := cqMod key (fun q => { q with written := q.written + 1 }) s1
    workMod rec (fun w => { w with state := .done, cqCount := q.written % 2 ^ 32 }) s2

/-- The completion ring of a submission ring. -/
def cqOfRing (s : State) (ring : Nat) : Option Nat :=
  (tabGet s.sqs ring).map fun r => pairKey (ring / 65536) r.cq

end Sys2Proof.Machine
end

