-- ==== Sys2Proof/Machine/Memory.lean ====
section
/-! DEFINITION. Memory: the bytes of the tarns, memory keys (R95), translation (R90, R109, R110), and the placing and reading
of bytes at device virtual addresses. -/

namespace Sys2Proof.Machine

/-! ### Tarn memory as a list of cells -/

/-- What a byte of tarn memory reads as when nothing has written it (log entry 6). -/
def memDefault : Byte := 0

/-- The byte at a TPA. -/
def memRead (m : List Host.Cell) (a : Nat) : Byte :=
  match m with
  | [] => memDefault
  | (b, v) :: rest => if b = a then v else memRead rest a

/-- Write one byte, in canonical form. -/
def memWrite (m : List Host.Cell) (a : Nat) (v : Byte) : List Host.Cell :=
  match m with
  | [] => if v = memDefault then [] else [(a, v)]
  | (b, w) :: rest =>
    if a < b then (if v = memDefault then (b, w) :: rest else (a, v) :: (b, w) :: rest)
    else if a = b then (if v = memDefault then rest else (a, v) :: rest)
    else (b, w) :: memWrite rest a v

/-- Write consecutive bytes. -/
def memWriteList (m : List Host.Cell) (a : Nat) (l : List Byte) : List Host.Cell :=
  match l with
  | [] => m
  | v :: rest => memWriteList (memWrite m a v) (a + 1) rest

/-- Read `n` consecutive bytes. -/
def memReadList (m : List Host.Cell) (a n : Nat) : List Byte := (List.range n).map fun i => memRead m (a + i)

/-- Drop every listed byte of a set of addresses: they read as unwritten again. -/
def memForget (p : Nat → Bool) (m : List Host.Cell) : List Host.Cell := m.filter fun c => !p c.1

/-- The canonical form: addresses strictly rise, and no entry holds what an unlisted address reads as. -/
def Memory.wf (m : List Host.Cell) : Bool :=
  match m with
  | [] => true
  | (a, v) :: rest =>
    decide (v ≠ memDefault) && (match rest with | [] => true | (b, _) :: _ => decide (a < b)) && Memory.wf rest

def tarnMod (f : Tarns → Tarns) (s : State) : State := { s with tarns := f s.tarns }

/-! ### Keys (R93 to R95) -/

def keyIndex (k : W32) : Nat := bits k.toNat 0 24

def keyGen (k : W32) : Nat := bits k.toNat 24 8

def makeKey (index : Nat) (gen : W8) : W32 := BitVec.ofNat 32 (index + gen.toNat * 2 ^ 24)

/-- Checks 1 and 2 of R95. -/
def keyCheck12 (s : State) (fn : Nat) (key : W32) : Except Status Region :=
  match tabGet s.regions (keyIndex key) with
  | some r =>
    if r.live ∧ r.fn = fn then
      if r.gen.toNat = keyGen key then .ok r else .error .keyStale
    else .error .keyInvalid
  | none => .error .keyInvalid

/-- Checks 3 and 4 of R95 on the range [`dva`, `dva` + `len`). -/
def keyCheck34 (r : Region) (right dva len : Nat) : Option Status :=
  if !bit r.rights.toNat right then some .accessDenied
  else if r.dva ≤ dva ∧ dva + len ≤ r.dva + r.len then none
  else some .bounds

/-- Checks 1 to 4 of R95; none: they pass. -/
def keyCheck (s : State) (fn : Nat) (key : W32) (right dva len : Nat) : Option Status :=
  match keyCheck12 s fn key with
  | .error e => some e
  | .ok r => keyCheck34 r right dva len

/-! ### Translation -/

/-- The run that holds `dva`. -/
def runOf (l : List Page) (dva : Nat) : Option Page := l.find? fun p => p.dva ≤ dva && dva < p.dva + p.len

/-- The run of pages of a function's current epoch that holds `dva` (R90). -/
def pageOf (s : State) (fn dva : Nat) : Option Page :=
  match tabGet s.spaces fn with
  | some a => runOf a.pages dva
  | none => none

/-- The current epoch of a function (R102). -/
def epochOf (s : State) (fn : Nat) : W32 :=
  match tabGet s.spaces fn with
  | some a => a.epoch
  | none => 0

/-- Where a DVA leads in a list of runs: target, spur port, target address. -/
def leads (l : List Page) (dva : Nat) : Option (Target × Nat × Nat) :=
  (runOf l dva).map fun p => (p.target, p.port, p.addr + (dva - p.dva))

/-- Where a DVA leads in the current epoch. -/
def translate (s : State) (fn dva : Nat) : Option (Target × Nat × Nat) :=
  match tabGet s.spaces fn with
  | some a => leads a.pages dva
  | none => none

/-- The 4 KiB pages that the range [`dva`, `dva` + `len`) touches. -/
def pages4k (dva len : Nat) : List Nat :=
  if len = 0 then [] else (List.range ((dva + len - 1) / 4096 - dva / 4096 + 1)).map fun i => (dva / 4096 + i) * 4096

/-- The 4 KiB pages of a segment that are not present (R110), lowest first. -/
def missingPages (s : State) (fn dva len : Nat) : List Nat :=
  (pages4k dva len).filter fun p => (pageOf s fn p).isNone

/-- The 4 KiB pages of a segment of several ranges that are not present, lowest first (R323). -/
def missingIn (s : State) (fn : Nat) (ranges : List (Nat × Nat)) : List Nat :=
  sortedNats (ranges.flatMap fun p => missingPages s fn p.1 p.2)

/-- Some byte of the range lies in the function's host memory. -/
def touchesHost (s : State) (fn dva len : Nat) : Bool :=
  (pages4k dva len).any fun p =>
    match pageOf s fn p with
    | some q => q.target == Target.host
    | none => false

/-- The segments of a transfer from `src` to `dst`: it is split at every 64 KiB boundary of either DVA (R109). Each has its source, its
destination, and its length. -/
def segments (fuel src dst len : Nat) : List (Nat × Nat × Nat) :=
  match fuel with
  | 0 => []
  | fuel + 1 =>
    if len = 0 then []
    else
      let n := min len (min (65536 - src % 65536) (65536 - dst % 65536))
      (src, dst, n) :: segments fuel (src + n) (dst + n) (len - n)

/-- Pieces of a byte string that do not cross 4 KiB boundaries of the DVA. -/
def pieces (fuel dva : Nat) (l : List Byte) : List (Nat × List Byte) :=
  match fuel with
  | 0 => []
  | fuel + 1 =>
    if l.isEmpty then []
    else
      let n := 4096 - dva % 4096
      (dva, l.take n) :: pieces fuel (dva + n) (l.drop n)

/-- Bytes read at a DVA: from tarn memory, or, where the target is the host or an accelerator, the bytes that the DMA
fetched (log entry 3). -/
def readVia (s : State) (find : Nat → Option (Target × Nat × Nat)) (dva n : Nat) (fetched : List Byte) : List Byte :=
  (List.range n).map fun i =>
    match find (dva + i) with
    | some (.tarn, _, a) => memRead s.tarns.mem a
    | _ => fetched.getD i 0

/-- The same where the current epoch leads. -/
def readDva (s : State) (fn dva n : Nat) (fetched : List Byte) : List Byte := readVia s (translate s fn) dva n fetched

/-- An access to a range wakes the channels of its tarn pages (R347). -/
def wakeVia (find : Nat → Option (Target × Nat × Nat)) (dva n : Nat) (s : State) : State :=
  (pages4k dva n).foldl (fun t p =>
    match find (max p dva) with
    | some (.tarn, _, a) => wakeRange a (min (p + 4096) (dva + n) - max p dva) t
    | _ => t) s

/-- The same where the current epoch leads. -/
def wakeDva (fn dva n : Nat) (s : State) : State := wakeVia (translate s fn) dva n s

/-- Bytes that the device reads from memory outside it and that no operand brings: free values (log entry 3). -/
def drawBytes (n : Nat) (s : State) : List Byte × State :=
  ((List.range n).map fun i => BitVec.ofNat 8 (Config.freeWord (s.dev.fresh + i)).toNat,
   { s with dev := { s.dev with fresh := s.dev.fresh + n } })

/-- `n` bytes at a DVA of a function: tarn memory as it stands, other memory as free values. -/
def readAny (fn dva n : Nat) (s : State) : List Byte × State :=
  let r := drawBytes n s
  let inTarn (i : Nat) : Bool := match translate s fn (dva + i) with | some (.tarn, _, _) => true | _ => false
  let l := readDva s fn dva n r.1
  if (List.range n).all inTarn then (l, wakeDva fn dva n s) else (l, wakeDva fn dva n r.2)

/-! ### Faults of translation (R111 to R115) -/

/-- `STREAM_KIND` and `STREAM_ID` of a stream (Table 4-5). -/
def streamCode : StreamId → Nat × Nat
  | .qp n => (0, n)
  | .oper _ n => (1, n)
  | .coll n => (2, n)
  | .request p n => (1, 64 * p + n)
  | .attn pool _ => (1, pool)

/-- Write the fault record of suspension `id`, or let it wait for space in its partition (R113, R114). -/
def recordFault (fn id : Nat) (body : FaultBody) (s : State) : State :=
  match tabGet s.spaces fn with
  | none => s
  | some a =>
    if partitionOpen s fn && (waiters s fn).isEmpty then
      writeRecord fn fn body false { s with suspended := tabMod s.suspended id fun x => { x with seq := some a.faultSeq } }
    else
      noteFull fn (nextOrder (spaceMod fn (fun x =>
        { x with waiting := x.waiting ++ [{ suspId := id, order := s.faults.nextOrder, full := false, body := body }] }) s))

/-- A number for a new suspension: above those of every suspension and of every fault that waits for space. -/
def newSuspId (s : State) : Nat :=
  ((s.suspended.map Prod.fst ++ s.spaces.flatMap fun p => p.2.waiting.map fun w => w.suspId).filter (· < 2 ^ 40)).foldl max 0 + 1

/-- A segment of a stream meets pages that are not present: the stream is suspended and its fault recorded (R110, R111).
`kind`: `STREAM_KIND`. `access`: 0 read, 1 write, 2 atomic. -/
def suspendOn (fn : Nat) (stream : StreamId) (kind access work : Nat) (ranges : List (Nat × Nat)) (key : W32) (s : State) : State :=
  let missing := missingIn s fn ranges
  let id := newSuspId s
  let epoch := epochOf s fn
  let susp : Suspension := { fn := fn, seq := none, stream := stream, arriving := kind == 3, work := work,
                             ranges := ranges, access := access, keyIndex := keyIndex key, prior := none }
  let body : FaultBody := .translation access kind (missing.headD 0) missing.length (streamCode stream).2 epoch (keyIndex key)
  recordFault fn id body { s with suspended := tabSet s.suspended id susp }

/-- The same for a segment of one range. -/
def suspend (fn : Nat) (stream : StreamId) (kind access work dva len : Nat) (key : W32) (s : State) : State :=
  suspendOn fn stream kind access work [(dva, len)] key s

/-- The stream is held suspended on a fault (R111). -/
def isSuspended (s : State) (stream : StreamId) (arriving : Bool) : Bool :=
  s.suspended.any fun p => p.2.stream == stream && p.2.arriving == arriving

end Sys2Proof.Machine
end

