-- ==== Sys2Proof/Machine/FabricOps.lean ====
section
/-! DEFINITION. Flits (R205 to R207), spur accesses (R225), placing bytes at device virtual addresses, and the completion of
accepted work toward host rings and request streams. -/

namespace Sys2Proof.Machine

/-! ### Flits -/

/-- The first 14 bytes of a flit header, Table 8-2. -/
def flitHead (f : Flit) : List Byte :=
  beBytes 4 (pack [(20, 12, f.destDev.toNat), (16, 4, f.destPort.toNat), (15, 1, flag f.epoch), (14, 1, flag f.slotClass),
      (10, 4, f.deflectCount.toNat), (9, 1, flag f.turned), (8, 1, flag f.slotClaim), (0, 8, f.type.toNat)]) ++
  beBytes 4 (pack [(20, 12, f.srcDev.toNat), (16, 4, f.srcPort.toNat), (13, 3, f.tc.toNat), (12, 1, flag f.admitted),
      (8, 4, f.pathTag.toNat), (7, 1, flag f.reversed), (6, 1, flag f.srcSpur), (0, 6, f.claimerPos.toNat)]) ++
  beBytes 4 (pack [(8, 24, f.chunkSeq.toNat), (0, 8, f.flitIndex.toNat)]) ++ beBytes 2 f.sigFrag.toNat

/-- `HDR_CRC` of a header (R206). -/
def flitCrc (f : Flit) : W16 := crc16 (flitHead f)

/-- An arriving flit is sound: its header is good, and every codeword that it overlaps was corrected (R203, R206). -/
def flitSound (f : Flit) : Bool := f.hdrCrc == flitCrc f && !f.spoiled

/-- The header with its `HDR_CRC` recomputed (R206). -/
def stampFlit (f : Flit) : Flit := { f with hdrCrc := flitCrc f }

/-- A payload of 128 bytes: padded with zeros (R207). -/
def padPayload (l : List Byte) : List Byte := slice l 0 128

/-- An empty slot (R205). -/
def emptyFlit (claim : Bool) (pos : BitVec 6) : Flit :=
  stampFlit { destDev := 0, destPort := 0, epoch := false, slotClass := false, deflectCount := 0, turned := false,
              slotClaim := claim, type := 0, srcDev := 0, srcPort := 0, tc := 0, admitted := false, pathTag := 0,
              reversed := false, srcSpur := false, claimerPos := if claim then pos else 0, chunkSeq := 0, flitIndex := 0,
              sigFrag := 0, hdrCrc := 0, payload := List.replicate 128 0, spoiled := false }

/-- A flit formed here: type, destination, port there, `CHUNK_SEQ`, `FLIT_INDEX`, and payload. -/
def makeFlit (s : State) (type destDev destPort chunk index : Nat) (payload : List Byte) : Flit :=
  stampFlit { emptyFlit false 0 with
    destDev := BitVec.ofNat 12 destDev, destPort := BitVec.ofNat 4 destPort, type := BitVec.ofNat 8 type,
    srcDev := BitVec.ofNat 12 (s.fabric.ident.getD 0), chunkSeq := BitVec.ofNat 24 chunk,
    flitIndex := BitVec.ofNat 8 index, payload := padPayload payload }

def portMod (p : Nat) (f : FabPort → FabPort) (s : State) : State :=
  { s with fabric := { s.fabric with ports := tabMod s.fabric.ports p f } }

def portGet (s : State) (p : Nat) : Option FabPort := tabGet s.fabric.ports p

/-! ### Ethernet links (R349, R350) -/

/-- Breakout links of a port mode (Table 13-1). -/
def breakout (mode : Nat) : Nat :=
  match mode with
  | 1 => 1 | 2 => 2 | 3 => 4 | 4 => 8 | _ => 0

/-- MAC rate of a link in bit/ns (Table 13-1). -/
def linkRate (mode : Nat) : Nat := if breakout mode = 0 then 0 else 1600 / breakout mode

def portMode (s : State) (p : Nat) : Nat :=
  match tabGet s.eth.ports p with
  | some x => x.mode
  | none => 0

def linkMod (id : Nat) (f : Link → Link) (s : State) : State := { s with eth := { s.eth with links := tabMod s.eth.links id f } }

def linkUp (s : State) (id : Nat) : Bool :=
  match tabGet s.eth.links id with
  | some l => l.up
  | none => false

/-- The link exists in the mode of its port. -/
def configured (s : State) (id : Nat) : Bool := decide (id < 32 ∧ id % 8 < breakout (portMode s (id / 8)))

/-! ### Island clocks (R14, R38, R365, R441) -/

/-- Island `k` may be stopped (Table 1-2): an Ethernet port without a link that is out of low-power idle, a fabric group whose ports are all
disabled or idle, an unusable tarn. -/
def mayStop (s : State) (k : Nat) : Bool :=
  if 2 ≤ k ∧ k ≤ 5 then (s.eth.links.filter fun l => l.1 / 8 == k - 2 && configured s l.1).all fun l => l.2.txLpi && l.2.rxLpi
  else if 6 ≤ k ∧ k ≤ 9 then
    (List.range 4).all fun i =>
      match portGet s (4 * (k - 6) + i) with
      | some x => x.role == .disabled || x.isIdle
      | none => true
  else if 10 ≤ k ∧ k ≤ 13 then !bit s.dev.inventory.tarns.toNat (k - 10)
  else false

/-- Bit `k` of `CLOCK_STATUS` falls: the clock stops 100 µs later. -/
def dropClockBit (k : Nat) (s : State) : State :=
  { s with clocks := { s.clocks with status := s.clocks.status &&& ~~~ (BitVec.ofNat 18 (2 ^ k)),
                                     zeroSince := tabSet s.clocks.zeroSince k s.dev.now } }

def crossingMod (k : Nat) (f : Crossing → Crossing) (s : State) : State :=
  { s with clocks := { s.clocks with crossings := tabMod s.clocks.crossings k f } }

/-- An entry for a stopped island is held, and wake is raised (R441): it takes a place in the queue, or waits in the mesh for one (R434). -/
def holdEntry (k : Nat) (o : Output) (s : State) : State :=
  let put (q : CrossQueue) : CrossQueue :=
    { q with entries := q.entries ++ [{ item := o, ready := true, taken := false }], writePtr := (q.writePtr + 1) % 32 }
  crossingMod k (fun x =>
    if x.toIsland.entries.length < 32 then { x with wake := true, toIsland := put x.toIsland }
    else { x with wake := true, held := x.held ++ [o] }) s

/-- An entry crosses into island `k`: at once while its clock runs. -/
def crossTo (k : Nat) (o : Output) (s : State) : State := if bit s.clocks.stopped.toNat k then holdEntry k o s else emit o s

/-- Entries that waited for the island's clock cross in their order, each taken as it does. Control-path accesses that waited go on: posted
ones complete, and the others are discarded, with no late completion (R442). -/
def drainCrossing (k : Nat) (s : State) : State :=
  match tabGet s.clocks.crossings k with
  | none => s
  | some x =>
    let items := x.toIsland.entries.map CrossEntry.item ++ x.held
    let ptr := (x.toIsland.writePtr + x.held.length) % 32
    items.foldl (fun t o => emit o t) (crossingMod k (fun y =>
      { y with wake := false, toIsland := { entries := [], writePtr := ptr, readPtr := ptr }, held := [], control := [], behind := [] }) s)

/-- A control-path access to a register of island `k` (R442): it waits for a stopped island's clock in the crossing, or behind the four that
do. One that completes reads a value that the spec does not give (log entry 67). -/
def controlAccess (fn k : Nat) (posted : Bool) (s : State) : State :=
  let a : ControlAccess := { fn := fn, posted := posted }
  if 18 ≤ k then s
  else if bit s.clocks.stopped.toNat k then
    crossingMod k (fun x =>
      if x.control.length < 4 then { x with control := x.control ++ [a] } else { x with behind := x.behind ++ [a] }) s
  else if posted then s
  else emit (.registerData fn 32 ((Config.freeWord s.dev.fresh).toNat % 2 ^ 32)) (takeFresh s)

/-- The clock of island `k` runs, its bit says so, and what waited for it crosses. -/
def runClock (k : Nat) (s : State) : State :=
  drainCrossing k { s with clocks := { s.clocks with status := s.clocks.status ||| BitVec.ofNat 18 (2 ^ k),
                                                     stopped := s.clocks.stopped &&& ~~~ (BitVec.ofNat 18 (2 ^ k)),
                                                     zeroSince := tabErase s.clocks.zeroSince k } }

/-- What holds of island `k` has changed: its bit follows. -/
def settleClock (k : Nat) (s : State) : State :=
  if mayStop s k then (if bit s.clocks.status.toNat k then dropClockBit k s else s)
  else if bit s.clocks.status.toNat k then s else runClock k s

/-- What a crossing holds is gone, and its pointers are zero on both sides (Table 16-3). -/
def emptyCrossing (x : Crossing) : Crossing :=
  { x with wake := false, toIsland := emptyQueue, toMesh := emptyQueue, held := [], control := [], behind := [] }

/-- A crossing announces a reset of its island and flushes: entries are discarded, and requests toward the island fail (R438, R440). -/
def flushCrossing (k : Nat) (s : State) : State :=
  crossingMod k (fun x =>
    { emptyCrossing x with mode := if x.mode = .up ∨ x.mode = .flush then .flush else .down, notify := true, ready := false }) s

/-! ### Flits on a port -/

/-- One more flit in the 10 µs window of instant `now`; windows older than the last two are forgotten (R229). -/
def countLoad (now : Nat) (t : Tab Nat) : Tab Nat :=
  tabAdd (t.filter fun p => decide (now / 10000 ≤ p.1 + 3)) (now / 10000) 1

/-- Send a flit on a port: the port leaves idle signalling, and the instant of its latest flit is kept (R228). A flit for a stopped island
waits in the crossing (R441). -/
def sendFlit (p : Nat) (f : Flit) (s : State) : State :=
  let s1 := portMod p (fun x => { x with lastFlit := s.dev.now, isIdle := false, txLoad := countLoad s.dev.now x.txLoad })
    (crossTo (6 + p / 4) (.flit p f) s)
  if bit s.clocks.stopped.toNat (6 + p / 4) then s1 else settleClock (6 + p / 4) s1

/-- A flit has arrived on a port. -/
def hearFlit (p : Nat) (s : State) : State :=
  let calm (t : Tab ReqStream) : Tab ReqStream := tabMap t fun _ q => { q with silent := false }
  settleClock (6 + p / 4) (portMod p (fun x =>
    { x with lastFlit := s.dev.now, heardAt := s.dev.now, isIdle := false, rxLoad := countLoad s.dev.now x.rxLoad,
             streams := calm x.streams }) s)

def sendFlits (p : Nat) (l : List Flit) (s : State) : State := l.foldl (fun t f => sendFlit p f t) s

/-- Split bytes into flit payloads of 128 bytes, numbered from 0. -/
def chunks128 (fuel i : Nat) (l : List Byte) : List (Nat × List Byte) :=
  match fuel with
  | 0 => []
  | fuel + 1 => if l.isEmpty then [] else (i, l.take 128) :: chunks128 fuel (i + 1) (l.drop 128)

/-! ### Spur accesses (R225) -/

/-- Descriptor of Table 8-6. -/
def spurDescriptor (a : SpurAccess) : List Byte :=
  beBytes 4 (if a.write then 0x01000000 else 0x02000000) ++ beBytes 8 a.address ++ beBytes 4 a.key.toNat ++ beBytes 4 a.len

/-- The data flits of an access: `FLIT_INDEX` counts them modulo 256. -/
def spurDataFlits (s : State) (tag : Nat) (data : List Byte) : List Flit :=
  (chunks128 (data.length + 1) 0 data).map fun c => makeFlit s 0x41 0 0 tag c.1 c.2

/-- The flits of an access under a tag: the command, and the data of a write. -/
def spurFlits (s : State) (tag : Nat) (a : SpurAccess) : List Flit :=
  makeFlit s 0x40 0 0 tag 0 (spurDescriptor a) ::
    (if a.write then spurDataFlits s tag a.data else [])

def accessMod (p tag : Nat) (f : SpurAccess → SpurAccess) (s : State) : State :=
  portMod p (fun x => { x with accesses := tabMod x.accesses tag f }) s

/-- Outbound accesses take tags from 0x8000 up, so that they stay apart from the tags of the accelerator's own accesses
(log entry 16). -/
def outboundTag (x : FabPort) : Nat := 0x8000 + x.nextTag % 0x8000

/-- Start an access at the accelerator of spur port `p` on behalf of function `fn`. -/
def spurStart (p fn : Nat) (write : Bool) (address len : Nat) (data : List Byte) (cont : SpurCont) (s : State) : State :=
  match portGet s p with
  | none => s
  | some x =>
    let a : SpurAccess := { write := write, address := address, key := 0, len := len, inbound := false, cont := cont,
                            map := [], data := data, left := 0, sentAt := s.dev.now, fn := fn, epoch := epochOf s fn }
    let tag := outboundTag x
    let s1 := portMod p (fun x => { x with nextTag := x.nextTag + 1, accesses := tabSet x.accesses tag a }) s
    if x.active then sendFlits p (spurFlits s tag a) s1 else s1

/-! ### Placing bytes -/

/-- The relaxed-ordering attribute of writes of transferred data (R60). -/
def relaxedOf (s : State) (fn : Nat) : Bool :=
  match tabGet s.fns fn with
  | some f => f.relaxedOrdering
  | none => false

/-- Place the bytes of one piece: into tarn memory, as a posted write of the function's path, or as a spur write. -/
def placePiece (fn : Nat) (cont : SpurCont) (s : State) (piece : Nat × List Byte) : State :=
  match translate s fn piece.1 with
  | some (.tarn, _, a) => wakeRange a piece.2.length (tarnMod (fun t => { t with mem := memWriteList t.mem a piece.2 }) s)
  | some (.host, _, a) => if dmaBarred s fn then s else emit (.hostBytes fn a (relaxedOf s fn) piece.2) s
  | some (.spur, p, a) => spurStart p fn true a piece.2.length piece.2 cont s
  | none => s

/-- Place bytes at a DVA of a function, whatever mixture of targets its pages have (R89). -/
def placeAt (fn dva : Nat) (bytes : List Byte) (cont : SpurCont) (s : State) : State :=
  (pieces (bytes.length / 4096 + 2) dva bytes).foldl (placePiece fn cont) s

/-- How many spur writes the placing of a range starts. -/
def spurPieces (s : State) (fn dva : Nat) (bytes : List Byte) : Nat :=
  ((pieces (bytes.length / 4096 + 2) dva bytes).filter fun c =>
    match translate s fn c.1 with
    | some (.spur, _, _) => true
    | _ => false).length

/-- An access with this continuation is still under way. -/
def contOpen (s : State) (c : SpurCont) : Bool := s.fabric.ports.any fun p => p.2.accesses.any fun a => a.2.cont == c

/-! ### Completions -/

def streamMod (p n : Nat) (f : ReqStream → ReqStream) (s : State) : State :=
  portMod p (fun x => { x with streams := tabMod x.streams n f }) s

def streamGet (s : State) (p n : Nat) : Option ReqStream := (portGet s p).bind fun x => tabGet x.streams n

/-- The `STREAM_CPL` flit of a completion (R226): number `c`, in the layout of the function's level. -/
def streamCplFlit (s : State) (p n : Nat) (q : ReqStream) (c : Nat) (w : Work) : Flit :=
  let phase := ownedPhase c q.log2Cap
  let body := if fnLevel1 s q.fn then leBytes 16 (cqeLevel1 w (64 * p + n) false phase)
    else leBytes 32 (cqeLevel2 w (64 * p + n) false phase)
  makeFlit s 0x4A 0 0 (n * 65536 + c % 65536) 0 body

/-- The completion of record `rec` goes out on its request stream (R226, R227). -/
def completeStream (p n rec : Nat) (w : Work) (s : State) : State :=
  match streamGet s p n with
  | none => s
  | some q =>
    let s1 := streamMod p n (fun q => { q with written := q.written + 1, unconsumed := q.unconsumed ++ [(rec, s.dev.now)],
                                               outstanding := q.outstanding - 1, outSince := some (q.outSince.getD s.dev.now) }) s
    let s2 := workMod rec (fun w => { w with state := .done, cqCount := q.written % 2 ^ 32 }) s1
    match portGet s p with
    | some x => if x.active then sendFlit p (streamCplFlit s p n q q.written w) s2 else s2
    | none => s2

/-- The completion of record `rec` goes to its completion ring, or into the journal while the function is RESETTING or
HELD (R81 step 3). -/
def completeRing (ring rec : Nat) (w : Work) (s : State) : State :=
  match cqOfRing s ring with
  | none => s
  | some key =>
    let s1 := cqMod key (fun q => { q with outstanding := q.outstanding - 1 }) s
    if dmaBarred s (ring / 65536) then workMod rec (fun w => { w with state := .held }) s1
    else countCq key (!entryNoIntr w.entry) w.solicited (writeCqe key (ring % 65536) false rec w s1)

/-- An accepted entry ends: exactly one completion (R23). A record that has completed takes no further completion. -/
def complete (rec : Nat) (status : Status) (result : Nat) (imm : Option W32) (s : State) : State :=
  match workGet s rec with
  | none => s
  | some w =>
    if w.state = .done ∨ w.state = .held then s
    else
      let w1 := { w with status := status, result := BitVec.ofNat 64 result, imm := imm }
      let s1 := workMod rec (fun _ => w1) s
      match w.source with
      | .ring r => completeRing r rec w1 s1
      | .request p n => completeStream p n rec w1 s1

/-- Free a `WORK`, `COLL_OP` or `CACHE_REQ` record, and the descriptor record beside it (R163, R274, R304). -/
def freeWork (rec : Nat) (s0 : State) : State :=
  let s := { s0 with cache := { s0.cache with results := tabErase s0.cache.results rec } }
  match workGet s rec with
  | some w =>
    (match w.desc with
     | some d => journalFree d (journalFree rec s)
     | none => journalFree rec s)
  | none => s

/-- The traffic class of the pool of an attention request (R300). -/
def poolTc (s : State) (w : Work) : Nat := match tabGet s.cache.pools (entryContext w.entry) with | some q => q.tc | none => 0

/-- The result of an attention request as `KV_RESULT` flits, each with its port: alternately the two of a partner pair (R291, R292). Ports that
are not up send none. -/
def kvFlits (s : State) (p n rec : Nat) : List (Nat × Flit) :=
  match workGet s rec, tabGet s.cache.results rec, portGet s p with
  | some w, some bytes, some x =>
    let up (i : Nat) : Bool := match portGet s i with | some y => y.active | none => false
    ((chunks128 (bytes.length + 1) 0 bytes).map fun c =>
      (if c.1 % 2 = 1 then x.partner.getD p else p,
        stampFlit { makeFlit s 0x31 0 p (n * 65536 + w.index) c.1 c.2 with tc := BitVec.ofNat 3 (poolTc s w) })).filter fun q => up q.1
  | _, _, _ => []

/-- The flits of a result go out at once. -/
def sendKvResult (p n rec : Nat) (s : State) : State := (kvFlits s p n rec).foldl (fun t q => sendFlit q.1 q.2 t) s

/-- Several entries end with one status, in order. -/
def completeAll (recs : List Nat) (status : Status) (s : State) : State :=
  recs.foldl (fun t r => complete r status 0 none t) s

/-- The entry of a record has not completed. -/
def openWork (s : State) (rec : Nat) : Bool :=
  match workGet s rec with
  | some w => w.state != .done && w.state != .held
  | none => false

end Sys2Proof.Machine
end

