-- ==== Sys2Proof/Machine/Command.lean ====
section
/-! DEFINITION. How a Wisia command is read, judged and answered (R36, R39 to R47, R50, R54, R369): one shared operation for
every command row. A chapter gives each opcode its description and its effect. -/

namespace Sys2Proof.Machine

/-- Who may issue an opcode (the Issuer column; R50 step 4). `namesVf`: PF0 only, and `FUNCTION` must name a VF. `officer`:
PF0 in an officer session (R375). -/
inductive Issuer where
  | any | pf0 | namesVf | officer
deriving DecidableEq, Repr

/-- State class of an opcode (R47). -/
inductive ClassRule where
  | any | run | stop | held
deriving DecidableEq, Repr

/-- A list among the parameters: it begins at byte `off`, and holds as many elements of `size` bytes as the parameter of `countWidth` bytes at
`countAt` says; a width of 0: it runs to the end of the parameters. -/
structure ListParam where
  off        : Nat
  countAt    : Nat
  countWidth : Nat
  size       : Nat
deriving DecidableEq, Repr

/-- One row of an opcode table. `fields`: byte offset and width of each parameter; `listed`: the list among them. -/
structure CmdSpec where
  opcode : Nat
  issuer : Issuer
  cls    : ClassRule
  /-- Offered at level 2 only (R55). -/
  level2 : Bool := false
  /-- Runs in HELD (R47). -/
  inHeld : Bool := false
  /-- Served in ROM recovery (R398). -/
  rom    : Bool := false
  fields : List (Nat × Nat)
  listed : Option ListParam := none
deriving DecidableEq, Repr

/-- What an opcode's own checks and effect come to. -/
inductive CmdOut where
  /-- One reply, the final one. -/
  | done (s : State) (status : Status) (r0 r1 r2 : Nat)
  /-- `ACCEPTED` now, the final reply later. -/
  | deferred (s : State) (what : Deferral)
  /-- One reply, later. -/
  | later (s : State) (what : Deferral)

/-- The opcode fails and changes nothing. -/
def cmdFail (s : State) (st : Status) : CmdOut := .done s st 0 0 0

/-- The opcode succeeds with no result. -/
def cmdOk (s : State) : CmdOut := .done s .ok 0 0 0

/-- The function that issues the command: helm commands run as PF0 (R369). -/
def issuerOf (c : Cmd) : Nat :=
  match c.origin with
  | .ring fn => fn
  | .helm _ _ => 0

/-- The function that the command names; a helm command names PF0 (R369). -/
def namedOf (c : Cmd) : Nat :=
  match c.origin with
  | .ring _ => c.function.toNat
  | .helm _ _ => 0

def isHelm (c : Cmd) : Bool :=
  match c.origin with
  | .ring _ => false
  | .helm _ _ => true

/-- Byte `i` lies in the list. -/
def inList (sp : CmdSpec) (c : Cmd) (i : Nat) : Bool :=
  match sp.listed with
  | some l => decide (l.off ≤ i ∧ (l.countWidth = 0 ∨ i < l.off + param c l.countAt l.countWidth * l.size))
  | none => false

/-- A byte within `LENGTH` that no parameter covers is nonzero (R45). -/
def gapNonzero (sp : CmdSpec) (c : Cmd) : Bool :=
  (List.range c.length.toNat).any fun i =>
    !(sp.fields.any fun f => f.1 ≤ i && i < f.1 + f.2) && !inList sp c i && paramByte c i != 0

/-- The slot format of R45 and the indirect buffer of R40. -/
def formatBad (c : Cmd) : Bool :=
  c.rsvd != 0 ||
  (if c.indirect then
    c.length == 0 || bits c.params.toNat 0 6 != 0 ||
      (match c.buffer with | some b => decide (b.length < c.length.toNat) | none => true)
  else decide (c.length.toNat > 40))

/-- R47. -/
def classCheck (sp : CmdSpec) (mode : FnMode) : Option Status :=
  match sp.cls, mode with
  | .held, .held => none
  | .held, _ => some .busy
  | _, .held => if sp.inHeld then none else some .functionStopped
  | .any, _ => none
  | .run, .running => none
  | .run, .stopped => some .functionStopped
  | .run, _ => some .busy
  | .stop, .stopped => none
  | .stop, _ => some .busy

/-- An officer session is open (R375). -/
def officerSession (s : State) : Bool :=
  match s.sec.sessionAt with
  | some t => s.sec.officer.isSome && decide (s.dev.now < t + 600000000000)
  | none => false

/-- R50 step 4. -/
def issuerBad (sp : CmdSpec) (c : Cmd) (s : State) : Bool :=
  match sp.issuer with
  | .any => false
  | .pf0 => issuerOf c != 0
  | .namesVf => issuerOf c != 0 || namedOf c == 0
  | .officer => issuerOf c != 0 || !(officerSession s || s.dev.life == .romRecovery && sp.rom)

/-- Steps 1 to 6 of R50: the status of the first check that fails. -/
def cmdCheck (sp : CmdSpec) (c : Cmd) (s : State) : Option Status :=
  if formatBad c || gapNonzero sp c then some .invalidParam
  else if s.dev.life == .romRecovery && !sp.rom then some .invalidOpcode
  else if issuerOf c != 0 && namedOf c != issuerOf c then some .notPermitted
  else if !fnEnabled s (namedOf c) then some .invalidParam
  else if issuerBad sp c s then some .notPermitted
  else if sp.level2 && fnLevel1 s (namedOf c) then some .levelUnsupported
  else classCheck sp (fnModeOf s (namedOf c))

/-- Reply entries free in the ring of a channel (R44). -/
def replyFree (ch : Channel) : Nat :=
  2 ^ bits ch.ringSizes.toNat 8 5 - (ch.replyIndex - ch.replyHead).toNat

/-- Deferred final replies still owed to a channel, those that a reset holds among them: D of R44. -/
def owedTo (s : State) (fn : Nat) : Nat :=
  (s.commands.filter fun p => p.origin == Origin.ring fn).length + (s.heldReplies.filter fun r => r.origin == Origin.ring fn).length

/-- A command of this stream has been read and has no first reply (R42). -/
def unanswered (s : State) (o : Origin) : Bool :=
  s.commands.any fun p => !p.answered &&
    match o, p.origin with
    | .ring a, .ring b => a == b
    | .helm _ _, .helm _ _ => true
    | _, _ => false

/-- The device serves commands at all: it runs, or it is in ROM recovery and the channel is PF0's (R398, R452). -/
def serving (s : State) (fn : Nat) : Bool :=
  match s.dev.life with
  | .running => true
  | .romRecovery => fn == 0
  | _ => false

/-- The device reads the next command slot of a channel (R42, R44). -/
def readsCommands (s : State) (fn : Nat) : Bool :=
  serving s fn && !unanswered s (.ring fn) &&
  match tabGet s.fns fn with
  | some f => f.channel.mode == .ready && !f.channel.disabling && decide (2 + owedTo s fn ≤ replyFree f.channel)
  | none => false

/-- A helm command is accepted (R369). In ROM recovery every opcode is read, and those not served fail (R398, R479). -/
def helmAccepts (sp : CmdSpec) (c : Cmd) (src : W48) (s : State) : Bool :=
  (s.dev.life == .romRecovery || (s.dev.life == .running && (sp.opcode == 0x0103 || sp.opcode / 256 == 7))) &&
  !c.indirect && (s.helm.allow.isEmpty || s.helm.allow.contains src) && !unanswered s (.helm src 0)

/-- The command is taken up: its slot is consumed, or its helm frame accepted. -/
def takesCommand (sp : CmdSpec) (c : Cmd) (s : State) : Bool :=
  match c.origin with
  | .ring fn => readsCommands s fn
  | .helm src _ => helmAccepts sp c src s

/-- The command's slot has been read (`CMD_CONSUMED`, Table 2-3). -/
def consumeSlot (c : Cmd) (s : State) : State :=
  match c.origin with
  | .ring fn => chanMod fn (fun x => { x with consumed := x.consumed + 1, starved := false }) s
  | .helm _ _ => s

/-- A reply of a command that has just been read. -/
def replyNow (opcode : Nat) (c : Cmd) (status : Status) (final : Bool) (r0 r1 r2 : Nat) (s : State) : State :=
  sendReply c.origin c.quiet none
    { tag := c.tag, status := status, opcode := BitVec.ofNat 16 opcode, function := BitVec.ofNat 8 (namedOf c),
      final := final, result0 := BitVec.ofNat 64 r0, result1 := BitVec.ofNat 64 r1, result2 := BitVec.ofNat 56 r2 } s

/-- Keep a command that owes its final reply. -/
def keepPending (opcode : Nat) (c : Cmd) (answered : Bool) (what : Deferral) (s : State) : State :=
  { s with commands := s.commands ++
      [{ origin := c.origin, tag := c.tag, opcode := BitVec.ofNat 16 opcode, function := BitVec.ofNat 8 (namedOf c),
         quiet := c.quiet, answered := answered, heldFor := none, what := what }] }

/-- The reply or replies that an opcode's outcome calls for (R42). -/
def settleCmd (opcode : Nat) (c : Cmd) (o : CmdOut) : State :=
  match o with
  | .done s st r0 r1 r2 => replyNow opcode c st true r0 r1 r2 s
  | .deferred s what => keepPending opcode c true what (replyNow opcode c .accepted false 0 0 0 s)
  | .later s what => keepPending opcode c false what s

/-- Run a command that has been read: the checks of R50, then the opcode's own. -/
def judgeCmd (sp : CmdSpec) (own : Cmd → State → CmdOut) (c : Cmd) (s : State) : State :=
  settleCmd sp.opcode c
    (match cmdCheck sp c s with
     | some e => cmdFail s e
     | none => own c s)

/-- Read and run one command. A command that the device does not read leaves everything as it is; a channel that stops for
want of reply entries is remembered (R44). -/
def runCmd (sp : CmdSpec) (own : Cmd → State → CmdOut) (c : Cmd) (s : State) : State :=
  if takesCommand sp c s then judgeCmd sp own c (consumeSlot c s)
  else
    match c.origin with
    | .ring fn => chanMod fn (fun x => { x with starved := x.mode == .ready && decide (replyFree x < 2 + owedTo s fn) }) s
    | .helm _ _ => s

/-- A parameter as a truth value of an own check: fail with `INVALID_PARAM` unless it holds. -/
def needParam (ok : Bool) (s : State) (k : CmdOut) : CmdOut := if ok then k else cmdFail s .invalidParam

end Sys2Proof.Machine
end

