-- ==== Sys2Proof/Machine/Packet.lean ====
section
/-! DEFINITION. EHT packets on the wire: headers, bodies, the trailer, and the checks made before any queue-pair state is
looked at (R122 to R126, R149). -/

namespace Sys2Proof.Machine

/-- The number that `n` bytes at `off` spell in network order. -/
def beAt (l : List Byte) (off n : Nat) : Nat := ofBe (slice l off n)

/-- The ones' complement sum of 16-bit words. -/
def sum16 (l : List Byte) : Nat :=
  let s := ((List.range ((l.length + 1) / 2)).map fun i => beAt l (2 * i) 2).sum
  let s1 := s % 65536 + s / 65536
  s1 % 65536 + s1 / 65536

/-- `PKT_OP` values (Tables 5-2 and 6-1). -/
def pktOpCode : TxKind → Nat
  | .write => 1 | .writeImm => 2 | .readReq => 3 | .readResp => 4 | .send => 5 | .fadd => 6 | .cswap => 7
  | .atomicResp => 8 | .flush => 9 | .ack => 0x10 | .nak => 0x11 | .readRepair => 0x12

/-- The base header, Table 5-1, in network byte order. -/
def headerBytes (h : EhtHeader) : List Byte :=
  beBytes 4 (pack [(28, 4, h.version.toNat), (24, 4, h.pathTag.toNat), (16, 8, h.pktOp.toNat), (15, 1, flag h.first),
      (14, 1, flag h.last), (13, 1, flag h.ackReq), (12, 1, flag h.solicited), (11, 1, flag h.immPresent),
      (10, 1, flag h.isSealed), (9, 1, flag h.retx), (0, 9, h.rsvd0.toNat)]) ++
  beBytes 4 (h.destQp.toNat * 4096 + h.rsvd1.toNat) ++ beBytes 4 (h.srcQp.toNat * 4096 + h.rsvd2.toNat) ++
  beBytes 4 h.seq.toNat ++ beBytes 4 h.msgNum.toNat ++ beBytes 4 h.recvNum.toNat ++ beBytes 4 h.msgOffset.toNat ++
  beBytes 4 h.msgLengthM1.toNat ++ beBytes 4 h.rkey.toNat ++ beBytes 8 h.msgDva.toNat ++ beBytes 8 h.txStamp.toNat

/-- Extension headers, Table 5-3. -/
def extBytes (imm : Option W32) (atomic : Option (W64 × W64)) : List Byte :=
  (match imm with | some i => beBytes 4 i.toNat | none => []) ++
  (match atomic with | some a => beBytes 8 a.1.toNat ++ beBytes 8 a.2.toNat | none => [])

/-- The seal block, Table 14-2. -/
def sealBytes (b : SealBlock) : List Byte :=
  beBytes 4 (pack [(31, 1, flag b.keyPhase), (30, 1, flag b.unitLast), (22, 8, b.rsvd0.toNat), (0, 22, b.unitIndex.toNat)]) ++
  beBytes 8 b.unitCtr.toNat ++ beBytes 4 b.rsvd1.toNat ++ beBytes 16 b.tag.toNat

def sealPart (b : Option SealBlock) : List Byte := match b with | some x => sealBytes x | none => []

/-- Everything that the trailer covers (R125). -/
def packetBytes (h : EhtHeader) (imm : Option W32) (atomic : Option (W64 × W64)) (sb : Option SealBlock)
    (payload : List Byte) : List Byte :=
  headerBytes h ++ extBytes imm atomic ++ sealPart sb ++ payload

/-- `PKT_CRC` verifies (R125). -/
def crcOk (p : RxPacket) : Bool :=
  crc32c (packetBytes p.hdr p.immediate p.atomic p.sealBlock p.payload) == p.crc

/-- The outer headers of an arriving datagram are as R119 asks. -/
def envelopeOk (e : Envelope) : Bool := !(e.ipOptions || e.ipv6ExtHeader || e.fragment || e.badUdpChecksum)

/-- Every RSVD bit of the base header is zero. -/
def headerRsvdOk (h : EhtHeader) : Bool := h.rsvd0 == 0 && h.rsvd1 == 0 && h.rsvd2 == 0 && bits h.msgDva.toNat 57 7 == 0

/-- Message length in bytes that a header states; a zero-byte message carries 0 and no payload (Table 5-1). -/
def messageLen (h : EhtHeader) (payload : Nat) (carriesData : Bool) : Nat :=
  if carriesData && h.msgLengthM1 == 0 && payload == 0 then 0 else h.msgLengthM1.toNat + 1

/-- Packets of a message of `len` bytes (R122). -/
def packetCount (len mtu : Nat) : Nat := max 1 (ceilDiv len mtu)

/-- Bytes of the packet at an offset (R122). -/
def packetLen (len mtu off : Nat) : Nat := min mtu (len - off)

/-- The offset, payload length, and `FIRST`/`LAST` checks of R126 for a packet that carries data. -/
def shapeOk (h : EhtHeader) (mtu payload : Nat) : Bool :=
  let len := messageLen h payload true
  let off := h.msgOffset.toNat
  off % mtu == 0 && (decide (off < len) || (len == 0 && off == 0)) && payload == packetLen len mtu off &&
    h.first == (off == 0) && h.last == decide (len ≤ off + mtu)

/-- The kinds that carry data bytes. -/
def carriesData (k : TxKind) : Bool :=
  match k with
  | .write | .writeImm | .send | .readResp => true
  | _ => false

/-- The extension headers that `PKT_OP` and `IMM_PRESENT` require are those present (Table 5-2). DESIGN CHOICE (log entry 94): R126 names no
drop for an `IMM_PRESENT` that disagrees with `PKT_OP` or `LAST`; such a packet is treated as one of its drops. -/
def extOk (k : TxKind) (p : RxPacket) : Bool :=
  p.immediate.isSome == p.hdr.immPresent &&
  (match k with
   | .writeImm => p.hdr.immPresent == p.hdr.last
   | _ => !p.hdr.immPresent) &&
  (match k with
   | .fadd | .cswap | .atomicResp => p.atomic.isSome
   | _ => p.atomic.isNone)

/-- R119 and R126 as far as they need no queue pair (Table 6-6, order 1), for a data packet of kind `k`. -/
def packetWellFormed (k : TxKind) (p : RxPacket) : Bool :=
  envelopeOk p.env && p.hdr.version == 1 && headerRsvdOk p.hdr && p.hdr.pktOp.toNat == pktOpCode k && crcOk p &&
  extOk k p && p.hdr.isSealed == p.sealBlock.isSome &&
  (match p.sealBlock with | some b => b.rsvd0 == 0 && b.rsvd1 == 0 && (b.unitLast || b.tag == 0) | none => true)

/-- R126 with the queue pair's `MTU`. -/
def packetShapeOk (k : TxKind) (mtu : Nat) (p : RxPacket) : Bool :=
  if carriesData k then shapeOk p.hdr mtu p.payload.length
  else p.payload.isEmpty && p.hdr.first && p.hdr.last && p.hdr.msgOffset == 0

/-- The acknowledgement bodies (Tables 6-2 to 6-4) in network byte order. -/
def ackBytes (b : AckBody) : List Byte :=
  beBytes 8 b.echoStamp.toNat ++ beBytes 8 b.recvStamp.toNat ++ beBytes 4 b.echoSeq.toNat ++ beBytes 4 b.ownRetired.toNat ++
  beBytes 4 (pack [(28, 4, b.echoPath.toNat), (27, 1, flag b.stateLost), (24, 3, b.rsvd0.toNat), (16, 8, b.ceCount.toNat),
      (4, 12, b.rsvd1.toNat), (0, 4, b.sackCount.toNat)]) ++
  (b.sack.flatMap fun r => beBytes 4 r.1.toNat ++ beBytes 4 r.2.toNat)

def nakBytes (b : NakBody) : List Byte :=
  beBytes 4 (b.reason.toNat * 2 ^ 24 + b.rsvd.toNat) ++ beBytes 4 b.nakSeq.toNat ++ beBytes 4 b.nakMsg.toNat ++
  beBytes 4 b.ownRetired.toNat

def repairBytes (b : RepairBody) : List Byte :=
  beBytes 4 (b.rsvd.toNat * 16 + b.count.toNat) ++ (b.ranges.flatMap fun r => beBytes 4 r.1.toNat ++ beBytes 4 r.2.toNat)

/-- The checks of R149 on an arriving acknowledgement whose body is `body`. -/
def ackWellFormed (k : TxKind) (p : RxPacket) (body : List Byte) : Bool :=
  envelopeOk p.env && p.hdr.version == 1 && headerRsvdOk p.hdr && p.hdr.pktOp.toNat == pktOpCode k &&
  p.sealBlock.isNone && p.immediate.isNone && p.atomic.isNone && p.payload.isEmpty &&
  crc32c (headerBytes p.hdr ++ body) == p.crc

def ackBodyOk (b : AckBody) : Bool :=
  b.rsvd0 == 0 && b.rsvd1 == 0 && decide (b.sackCount.toNat ≤ 8) && b.sack.length == b.sackCount.toNat

def nakBodyOk (b : NakBody) : Bool := b.rsvd == 0 && (nakOfCode b.reason.toNat).isSome

def repairBodyOk (b : RepairBody) : Bool :=
  b.rsvd == 0 && decide (1 ≤ b.count.toNat ∧ b.count.toNat ≤ 8) && b.ranges.length == b.count.toNat

/-- Everything that the trailer of a packet covers (R125, R149). -/
def wireBytes (h : EhtHeader) (w : WirePart) : List Byte :=
  match w with
  | .data imm atomic sb payload => packetBytes h imm atomic sb payload
  | .ack b => headerBytes h ++ ackBytes b
  | .nak b => headerBytes h ++ nakBytes b
  | .repair b => headerBytes h ++ repairBytes b

/-- The UDP checksum of a datagram: computed for IPv6, zero for IPv4 (R119). -/
def udpSumOf (o : Outer) (payload : List Byte) : Nat :=
  let n := payload.length + 8
  let sum := sum16 (leBytes 16 o.source.toNat ++ leBytes 16 o.dest.toNat ++ beBytes 4 n ++ beBytes 4 17 ++ beBytes 2 o.udpSource ++
    beBytes 2 o.udpDest ++ beBytes 2 n ++ beBytes 2 0 ++ payload)
  if !o.ipv6 then 0 else if sum = 0xFFFF then 0xFFFF else 0xFFFF - sum

/-- x lies before y (R145). -/
def seqBefore (x y : W32) : Bool := decide (1 ≤ (y - x).toNat ∧ (y - x).toNat < 2 ^ 31)

/-- x lies before y, or is y. -/
def seqUpTo (x y : W32) : Bool := x == y || seqBefore x y

end Sys2Proof.Machine
end

