-- ==== Sys2Proof/Machine/QpOps.lean ====
section
/-! DEFINITION. Queue pairs: paths and ports, sending control packets, settling numbers, completing messages at the receiver,
and the move to ERROR (chapters 5 and 6). -/

namespace Sys2Proof.Machine

def qpGet (s : State) (n : Nat) : Option Qp := tabGet s.qps n

def qpMod (n : Nat) (f : Qp → Qp) (s : State) : State := { s with qps := tabMod s.qps n f }

def sendMod (n : Nat) (f : QpSend → QpSend) (s : State) : State := qpMod n (fun q => { q with send := f q.send }) s

def recvMod (n : Nat) (f : QpRecv → QpRecv) (s : State) : State := qpMod n (fun q => { q with recv := f q.recv }) s

def ccMod (n : Nat) (f : QpCc → QpCc) (s : State) : State := qpMod n (fun q => { q with cc := f q.cc }) s

/-- Two queue pairs lead to the same peer device: their peer addresses are one. -/
def samePeer (a b : Qp) : Bool :=
  a.conf.connected && b.conf.connected && a.conf.addrKind == b.conf.addrKind && a.conf.peerAddr == b.conf.peerAddr

/-- A packet of the peer of queue pair `n` has arrived (R155): every silence episode with that device ends (R472). -/
def hearPeer (n : Nat) (s : State) : State :=
  match qpGet s n with
  | none => s
  | some q =>
    { s with qps := tabMap s.qps fun k x =>
        if k = n then { x with send := { x.send with lastHeard := s.dev.now, silent := false } }
        else if samePeer x q then { x with send := { x.send with silent := false } }
        else x }

/-- When something last arrived from the peer device of a queue pair (R472). -/
def deviceHeard (s : State) (q : Qp) : Nat :=
  (s.qps.filter fun p => samePeer p.2 q).foldl (fun t p => max t p.2.send.lastHeard) q.send.lastHeard

/-! ### Ethernet links and counters (R349, R350, R371) -/

def linkGet (s : State) (id : Nat) : Option Link := tabGet s.eth.links id

/-- Counter `i` of a link rises by `n` (R371). -/
def countLink (id i n : Nat) (s : State) : State :=
  match tabGet s.eth.links id with
  | none => s
  | some l =>
    let c := ((tabGet l.counters i).getD 0).toNat
    let s1 := linkMod id (fun l => { l with counters := tabSet l.counters i (BitVec.ofNat 48 (c + n)) }) s
    if c < 2 ^ 47 ∧ 2 ^ 47 ≤ c + n then
      signalCounters (linkMod id (fun l => { l with halfCrossed := l.halfCrossed ||| BitVec.ofNat 64 (2 ^ i) }) s1)
    else s1

/-- The transmit direction leaves low-power idle. -/
def leaveTxLpi (link : Nat) (s : State) : State :=
  match linkGet s link with
  | some l =>
    if l.txLpi then
      settleClock (2 + link / 8) (linkMod link (fun l => { l with txLpi := false, idleSince := s.dev.now })
        (countLink link 57 (s.dev.now - l.txLpiAt) s))
    else s
  | none => s

/-- A frame of `n` bytes is sent on a link; `kind`: 0 unicast, 1 multicast, 2 broadcast, 3 MAC Control. -/
def countTx (id n kind : Nat) (s : State) : State :=
  linkMod id (fun l => { l with idleSince := s.dev.now })
    (countLink id (39 + sizeClass n) 1 (countLink id (35 + kind) 1 (countLink id 34 n (countLink id 33 1 s))))

/-- A packet dropped and counted where it arrived (R119, R126, Table 13-7 counter 23; on the fabric the device's count). -/
def countDrop (port : Nat) (s : State) : State :=
  if port < 32 then countLink port 23 1 s else { s with fabric := { s.fabric with dropped := s.fabric.dropped + 1 } }

/-- A packet dropped or ignored and counted against its queue pair (R150, R152). -/
def countQp (n : Nat) (s : State) : State := qpMod n (fun q => { q with counted := q.counted + 1 }) s

/-! ### Paths (R121, R350) -/

/-- The ports of `PORT_MASK`, from bit 0. -/
def maskPorts (m : W8) : List Nat := (List.range 4).filter fun i => bit m.toNat i

/-- The `PORT_ID` on which path `p` of a queue pair leaves. -/
def pathLink (s : State) (q : Qp) (p : Nat) : Option Nat :=
  let ports := maskPorts q.conf.portMask
  let k := ports.length
  if k = 0 then none
  else
    let port := ports.getD (p % k) 0
    let n := breakout (portMode s port)
    if n = 0 then none else some (8 * port + p / k % n)

/-- The active bearing, with the value of `EPOCH` that names it. -/
def activeBearing (s : State) : Option (Bool × Bearing) :=
  if s.fabric.bearingA.mode = .active then some (false, s.fabric.bearingA)
  else if s.fabric.bearingB.mode = .active then some (true, s.fabric.bearingB)
  else none

def bearingEntry (b : Bearing) (dest : Nat) : Nat := ((tabGet b.entries dest).getD 0).toNat

/-- Ring directions: 0 X east, 1 X west, 2 Y east, 3 Y west. The direction in which a flit with tag `tag` for `dest` enters
its first ring (R212). -/
def injectDirection (b : Bearing) (dest tag : Nat) : Option Nat :=
  let e := bearingEntry b dest
  if !bit e 15 then none
  else
    let yFirst := bit tag 2
    let order : Option Bool :=
      if bit e (if yFirst then 13 else 12) then some yFirst else if bit e (if yFirst then 12 else 13) then some (!yFirst) else none
    match order with
    | none => none
    | some y =>
      let west := bit tag 0
      let base := if y then 10 else 8
      if bit e (base + flag west) then some (2 * flag y + flag west)
      else if bit e (base + flag (!west)) then some (2 * flag y + flag (!west))
      else none

def peerDevice (q : Qp) : Nat := bits q.conf.peerAddr.toNat 0 12

def isFabric (q : Qp) : Bool := q.conf.addrKind == AddrKind.fabric

/-- `NODE` for the peer of a queue pair: its fabric number; for a peer on Ethernet, which has none, a value the spec leaves open, one
for each address (log entry 2). -/
def peerNode (q : Qp) : W16 :=
  if isFabric q then nodeDevice (peerDevice q) else BitVec.ofNat 16 (Config.freeWord (2 ^ 64 + q.conf.peerAddr.toNat)).toNat

/-- A path has a usable link (R142, R350). -/
def pathUsable (s : State) (q : Qp) (p : Nat) : Bool :=
  if isFabric q then
    match activeBearing s with
    | some (_, b) => (injectDirection b (peerDevice q) p).isSome
    | none => false
  else
    match pathLink s q p with
    | some l => linkUp s l
    | none => false

/-- Go-back-N with in-order placement over one path: level 1 at either end, or RoCEv2 (R56, R143, R144). -/
def goBackN (s : State) (q : Qp) : Bool := fnLevel1 s q.conf.fn || q.conf.peerLevel1 || q.conf.mode == .roce

def pathsOf (s : State) (q : Qp) : Nat := if goBackN s q then 1 else q.conf.paths

def mtuOf (q : Qp) : Nat := 2 ^ q.conf.mtuLog2

/-- The current admission of a queue pair (R172). -/
def admitted (q : Qp) : Option Admission := q.admission.filter fun a => !a.withdrawn

/-- The traffic class in which a queue pair is scheduled (R172); a withdrawn admission leaves it its own. -/
def effectiveTc (q : Qp) : Nat := if q.conf.tc ≥ 4 ∧ q.admission.isNone then 0 else q.conf.tc

/-! ### Putting packets on the wire -/

/-- Split a packet into flits for `dest` and queue them for injection (R120, R207). A destination that the active bearing
does not permit is dropped and counted (R212). -/
def injectPacket (dest tag tc : Nat) (adm : Bool) (bytes : List Byte) (s : State) : State :=
  let reasm := ((tabGet s.fabric.reasmTags dest).getD 0) % 2 ^ 18
  let parts := chunks128 (bytes.length + 1) 0 bytes
  let mk (c : Nat × List Byte) : SlotWait :=
    { dir := none, since := s.dev.now,
      flit := stampFlit { makeFlit s 0x10 dest 0 (reasm * 64 + parts.length) c.1 c.2 with
        tc := BitVec.ofNat 3 tc, admitted := adm, pathTag := BitVec.ofNat 4 tag } }
  let s1 := { s with fabric := { s.fabric with reasmTags := tabSet s.fabric.reasmTags dest (reasm + 1) } }
  match activeBearing s with
  | some (_, b) =>
    if (injectDirection b dest tag).isNone then { s1 with fabric := { s1.fabric with dropped := s1.fabric.dropped + parts.length } }
    else { s1 with fabric := { s1.fabric with inject := s1.fabric.inject ++ parts.map mk } }
  | none => { s1 with fabric := { s1.fabric with inject := s1.fabric.inject ++ parts.map mk } }

/-- UDP source port of a path to peer queue pair `peer` (R121). -/
def udpSource (peer : W32) (p : Nat) : Nat := 49152 + (peer.toNat % 2 ^ 20 * 16 + p) % 16384

/-- Where the source address of a function on a port stands (`eht.addr`). -/
def addrKey (fn port : Nat) : Nat := 4 * fn + port

/-- The outer headers of a datagram of function `fn` on a link (R119, R121): to `dest`, for peer queue pair `peer`. A function without an
address on the port sends from address 0 (log entry 97). -/
def outerOf (s : State) (fn link tc path : Nat) (ipv6 : Bool) (dest : BitVec 128) (nextHop : W48) (hop : W8) (peer : W32) (roce : Bool) : Outer :=
  let a := (tabGet s.eth.addrs (addrKey fn (link / 8))).filter fun a => a.kind == flag ipv6
  { ipv6 := ipv6, source := (a.map fun a => a.addr).getD 0, dest := dest, nextHop := nextHop, vlan := a.bind fun a => a.vlan, hop := hop,
    dscp := 8 * tc, ecn := 2, df := !ipv6, udpSource := udpSource peer path, udpDest := if roce then 4791 else s.eth.udpPort.toNat, udpSum := 0 }

/-- Bytes of a frame that carries an EHT packet of `n` bytes with its trailer: Ethernet header and FCS, IP and UDP headers. -/
def frameLen (o : Outer) (n : Nat) : Nat := 14 + 4 + 8 + n + (if o.ipv6 then 40 else 20) + (if o.vlan.isSome then 4 else 0)

/-- The packet leaves on `port` (R119, R120, R123, R125): a RoCEv2 packet carries no stamp (R144). -/
def sendNow (port tc : Nat) (e : EhtSend) (s : State) : State :=
  let roce := e.outer.any fun o => o.udpDest == 4791
  let h := { e.hdr with txStamp := if roce then 0 else BitVec.ofNat 64 s.dev.now }
  let b := wireBytes h e.part
  let whole := b ++ beBytes 4 (crc32c b).toNat
  match e.outer with
  | none => injectPacket e.dest e.tag tc e.admitted whole s
  | some o => countTx port (frameLen o whole.length) 0 (emit (.eht port { o with udpSum := udpSumOf o whole } h e.part (crc32c b)) s)

/-- Wire bytes of an EHT packet with nothing but a base header and `n` bytes: 56 beyond them (R191). -/
def ehtLen (w : WirePart) : Nat :=
  match w with
  | .data _ _ sb payload => payload.length + 56 + (if sb.isSome then 32 else 0)
  | .ack b => (ackBytes b).length + 56
  | .nak b => (nakBytes b).length + 56
  | .repair b => (repairBytes b).length + 56

/-- Numbers of the streams of a function in a weighted fair queue (R181): queue pairs by their own, collectives above them, then reply
streams by pool. -/
def streamKey : StreamId → Nat
  | .qp n => n
  | .coll slot => 2 ^ 20 + slot
  | .attn pool _ => 2 ^ 21 + pool
  | .oper _ n => 2 ^ 22 + n
  | .request p n => 2 ^ 23 + 64 * p + n

/-- A unit joins the egress hierarchy of its port (R179). -/
def queueUnit (u : EgressUnit) (s : State) : State := { s with sched := { s.sched with units := s.sched.units ++ [u] } }

/-- The wire bytes of a run of flits. -/
def flitBytes (l : List Flit) : Nat := 144 * l.length

/-- A result of a class that yields joins the reply streams of its ports, in its pool's class; the request completes behind its last flit
(R291, R300). -/
def queueKvResult (fn tc pool rec result : Nat) (l : List (Nat × Flit)) (s : State) : State :=
  ((l.map Prod.fst).eraseDups).foldl (fun t p =>
    let mine := (l.filter fun q => q.1 == p).map Prod.snd
    queueUnit { port := 32 + p, tc := tc, fn := fn, stream := streamKey (.attn pool rec), since := t.dev.now, len := flitBytes mine,
                item := .spur rec result mine } t) s

/-- A unit holds flits of the result of a request. -/
def holdsResult (rec : Nat) (u : EgressUnit) : Bool := match u.item with | .spur r _ _ => r == rec | _ => false

/-- Flits of a result have left, or are lost with their port: the request completes once none wait (R291). -/
def resultGone (rec result : Nat) (s : State) : State :=
  if s.sched.units.any (holdsResult rec) then s else complete rec .ok result none s

/-- The role of the ring port that a direction leaves on, and that port of this device. -/
def roleOfDir (d : Nat) : PortRole := match d with | 0 => .xEast | 1 => .xWest | 2 => .yEast | _ => .yWest

def ringPort (s : State) (d : Nat) : Option (Nat × FabPort) := s.fabric.ports.find? fun p => p.2.role == roleOfDir d

/-- A spur port is an endpoint of an admitted flow: its function maps memory behind the port (log entry 29). -/
def admittedEndpoint (s : State) (port : Nat) : Bool :=
  s.qps.any fun p => (p.2.admission.any fun a => !a.withdrawn) &&
    (match tabGet s.spaces p.2.conf.fn with
     | some a => a.pages.any fun r => r.target == .spur && r.port == port
     | none => false)

/-- A spur port that has become an endpoint of an admitted flow neither idles nor stays narrow (R228, R229). -/
def keepAwake (s : State) : State :=
  s.fabric.ports.foldl (fun t p =>
    if (p.2.isIdle || p.2.narrowed) && admittedEndpoint s p.1 then
      settleClock (6 + p.1 / 4) (portMod p.1 (fun x => { x with isIdle := false, narrowed := false }) t)
    else t) s

/-- The egress port of a flit for `dest` with tag `tag`, as Table 7-4 numbers it. -/
def fabricEgress (s : State) (dest tag : Nat) : Option Nat :=
  (activeBearing s).bind fun b => ((injectDirection b.2 dest tag).bind (ringPort s)).map fun p => 32 + p.1

/-- How queue pair `q` would send something on path `p` now: the egress port, and all but what it says; none while the path has no way out. -/
def wayOut (s : State) (q : Qp) (p tc : Nat) (adm : Bool) (h : EhtHeader) (w : WirePart) : Option (Nat × EhtSend) :=
  if isFabric q then
    (fabricEgress s (peerDevice q) p).map fun port =>
      (port, { outer := none, dest := peerDevice q, tag := p, admitted := adm, hdr := h, part := w })
  else
    (pathLink s q p).map fun l =>
      (l, { outer := some (outerOf s q.conf.fn l tc p (q.conf.addrKind == .ipv6) q.conf.peerAddr q.conf.nextHop q.conf.hopLimit q.conf.peerQp
              (q.conf.mode == .roce)), dest := 0, tag := p, admitted := adm, hdr := h, part := w })

/-- A packet number as it stands on the wire: a RoCEv2 peer has 24 bits of it (R144). -/
def wireSeq (q : Qp) (x : W32) : W32 := if q.conf.mode = .roce then x &&& 0xFFFFFF else x

/-- Queue a packet of queue pair `n` on path `p` for its egress port. -/
def sendWire (n : Nat) (q : Qp) (p tc : Nat) (adm : Bool) (h : EhtHeader) (w : WirePart) (s : State) : State :=
  match wayOut s q p tc adm h w with
  | some (port, e) =>
    queueUnit { port := port, tc := tc, fn := q.conf.fn, stream := streamKey (.qp n), since := s.dev.now, len := ehtLen w, item := .eht e } s
  | none => s

/-- The header of a packet that queue pair `n` sends now. -/
def baseHeader (s : State) (n : Nat) (q : Qp) (k : TxKind) (path : Nat) : EhtHeader :=
  { version := 1, pathTag := BitVec.ofNat 4 path, pktOp := BitVec.ofNat 8 (pktOpCode k), first := false, last := false,
    ackReq := false, solicited := false, immPresent := false, isSealed := false, retx := false, rsvd0 := 0,
    destQp := BitVec.ofNat 20 q.conf.peerQp.toNat, rsvd1 := 0, srcQp := BitVec.ofNat 20 n, rsvd2 := 0, seq := 0, msgNum := 0,
    recvNum := 0, msgOffset := 0, msgLengthM1 := 0, rkey := 0, msgDva := 0, txStamp := BitVec.ofNat 64 s.dev.now }

/-- What `QP_PROGRESS` would hold of a queue pair now (Table 6-11). Its oldest message has not retired, because every message is forgotten as
it completes; without one, the base is what comes next. -/
def progressOf (q : Qp) (now : Nat) : Progress :=
  let base := q.send.messages.head?
  let takers := (q.send.messages.filter fun m => m.takes).length
  { baseMsg := (base.map fun m => m.msg).getD q.send.nextMsg, baseSeq := (base.map fun m => m.firstSeq).getD q.send.nextSeq,
    baseRecv := q.send.nextRecv - BitVec.ofNat 32 takers, cumSeq := q.recv.e, cumMsg := q.recv.nextMsg, claimed := q.recv.claimed,
    peerRetired := q.recv.peerRetired, ownRetired := q.send.ownRetired, stamp := now }

/-- Commit `QP_PROGRESS` (R162, R164). -/
def commitProgress (n : Nat) (s : State) : State :=
  match qpGet s n with
  | none => s
  | some q =>
    { s with journal := tabMap s.journal fun _ r =>
        match r with
        | .qpProgress k _ => if k = n then .qpProgress k (progressOf q s.dev.now) else r
        | _ => r }

/-- The ranges of settled numbers above E, ascending, neither overlapping nor touching, at most `k` (Table 6-2). -/
def sackRanges (k fuel : Nat) (settled : List W32) (x : W32) (cur : Option W32) : List (W32 × W32) :=
  match fuel with
  | 0 => match cur with | some a => [(a, x)] | none => []
  | fuel + 1 =>
    if k = 0 then []
    else
      match settled.contains x, cur with
      | true, none => sackRanges k fuel settled (x + 1) (some x)
      | true, some a => sackRanges k fuel settled (x + 1) (some a)
      | false, some a => (a, x) :: sackRanges (k - 1) fuel settled (x + 1) none
      | false, none => sackRanges k fuel settled (x + 1) none

/-- The farthest settled number beyond E, as a distance. -/
def settledSpan (e : W32) (settled : List W32) : Nat := (settled.map fun x => (x - e).toNat + 1).foldl max 0

def isAdmitted (q : Qp) : Bool := (admitted q).isSome

/-- The class and the mark with which a queue pair acknowledges (R172): on the fabric those of the highest class for an admitted flow of the
peer, which its arriving flits show (R192, Table 8-2; log entry 98). -/
def ackMarks (q : Qp) : Nat × Bool := if isFabric q ∧ q.recv.peerAdmitted then (7, true) else (effectiveTc q, false)

/-- Send an `ACK` for queue pair `n` (R148, R149): progress is committed first (R162). -/
def sendAck (n : Nat) (s : State) : State :=
  match qpGet s n with
  | none => s
  | some q =>
    let r := q.recv
    let t := r.trigger.getD { seq := 0, stamp := 0, at_ := 0, path := 0, ackReq := false }
    let sack := if goBackN s q then [] else sackRanges 8 (settledSpan r.e r.settled + 1) r.settled r.e none
    let body : AckBody :=
      { echoStamp := t.stamp, recvStamp := t.at_, echoSeq := wireSeq q t.seq, ownRetired := wireSeq q q.send.ownRetired, echoPath := t.path,
        stateLost := r.stateLost, rsvd0 := 0, ceCount := BitVec.ofNat 8 (min r.ceCount 255), rsvd1 := 0,
        sackCount := BitVec.ofNat 4 sack.length, sack := sack }
    let h := { baseHeader s n q .ack t.path.toNat with seq := wireSeq q r.e, msgNum := r.nextMsg }
    let s1 := commitProgress n s
    let s2 := sendWire n q t.path.toNat (ackMarks q).1 (ackMarks q).2 h (.ack body) s1
    recvMod n (fun r => { r with newlySettled := 0, firstSettledAt := none, ceCount := 0, ackAt := s.dev.now, trigger := none,
                                 toldRetired := q.send.ownRetired, stateLost := false }) s2

/-- Send a `NAK` for queue pair `n` about packet (`seq`, `msg`) on `path` (R149). -/
def sendNak (n : Nat) (reason : NakReason) (seq msg : W32) (path : Nat) (s : State) : State :=
  match qpGet s n with
  | none => s
  | some q =>
    let body : NakBody := { reason := BitVec.ofNat 8 (nakCode reason), rsvd := 0, nakSeq := wireSeq q seq, nakMsg := msg,
                            ownRetired := wireSeq q q.send.ownRetired }
    let h := { baseHeader s n q .nak path with seq := wireSeq q q.recv.e, msgNum := q.recv.nextMsg }
    sendWire n q path (ackMarks q).1 (ackMarks q).2 h (.nak body) (commitProgress n s)

/-! ### Entries of a queue pair, and ERROR -/

/-- A `WORK_OP` of chapters 5 and 6. -/
def isTransport (op : Nat) : Bool := (1 ≤ op && op ≤ 9) || op == 0x10

/-- The entry belongs to queue pair `n`: its transport entries, its posted buffers, and the shared buffers that its messages
have claimed. -/
def ofQp (n : Nat) (w : Work) : Bool :=
  isTransport (entryOp w.entry) &&
    (if entryOp w.entry == 0x10 && recvToSrq w.entry then
      match w.claim with
      | some c => c.1 == n
      | none => false
    else entryContext w.entry == n)

def insertByOrder (p : Nat × Work) : List (Nat × Work) → List (Nat × Work)
  | [] => [p]
  | q :: rest => if p.2.order ≤ q.2.order then p :: q :: rest else q :: insertByOrder p rest

/-- Records in order of acceptance. -/
def byOrder (l : List (Nat × Work)) : List (Nat × Work) := l.foldr insertByOrder []

/-- The entries of a queue pair that have not completed, in acceptance order. -/
def qpOpen (s : State) (n : Nat) : List (Nat × Work) :=
  byOrder ((works s).filter fun p => ofQp n p.2 && p.2.state != .done && p.2.state != .held)

/-- Forget every suspension of a stream; `both`: local and arriving alike. -/
def unsuspend (stream : StreamId) (s : State) : State :=
  { s with suspended := s.suspended.filter fun p => p.2.stream != stream }

/-- Drop what a queue pair has in hand; its numbers and settled state stay. -/
def quietQp (n : Nat) (s : State) : State :=
  unsuspend (.qp n) (qpMod n (fun q =>
    { q with send := { q.send with queue := [], flight := [], messages := [], waiting := [], faultWait := none },
             recv := { q.recv with messages := [], posted := [], reservedClaims := [], suspended := false, suspendedBy := none, units := [],
                                   flushes := [], arrived := [] } }) s)

/-- The queue pair moves to ERROR: every other entry not yet completed completes `FLUSHED`, in acceptance order (Table 5-5).
Only a READY queue pair moves. -/
def qpToError (n : Nat) (s : State) : State :=
  match qpGet s n with
  | some q =>
    if q.phase = .ready then
      completeAll ((qpOpen s n).map Prod.fst) .flushed (quietQp n (qpMod n (fun q => { q with phase := .error }) s))
    else s
  | none => s

/-- An entry of a queue pair fails (Table 5-5). `result`: what `RESULT` holds. -/
def failEntry (n rec : Nat) (status : Status) (result : Nat) (s : State) : State :=
  qpToError n (complete rec status result none s)

/-! ### The receiving side -/

/-- The receive completion of a message at its buffer (R137, R138). -/
def completeReceive (n : Nat) (m : RxMessage) (s : State) : State :=
  match m.buffer with
  | none => s
  | some rec =>
    let s1 := workMod rec (fun w => { w with solicited := m.solicited }) s
    complete rec .ok (m.len + n * 2 ^ 33) m.imm s1

/-- Every number of the message is settled. -/
def messagePlaced (r : QpRecv) (m : RxMessage) : Bool :=
  (List.range m.packets).all fun i =>
    let x := m.firstSeq + BitVec.ofNat 32 i
    seqBefore x r.e || r.settled.contains x

/-- E advances over settled numbers, but not past the last number of a message that is not complete (R147), nor past a message that has been
refused for good (R158). -/
def advanceE (fuel : Nat) (r : QpRecv) : QpRecv :=
  match fuel with
  | 0 => r
  | fuel + 1 =>
    if r.recordedNak.isNone && r.settled.contains r.e &&
        !(r.messages.any fun m => !m.complete && m.firstSeq + BitVec.ofNat 32 m.packets - 1 == r.e) then
      advanceE fuel { r with e := r.e + 1, settled := r.settled.filter (· != r.e) }
    else r

/-- Complete messages in `MSG_NUM` order while the next one is placed (R137); E is committed past each before its completion (R162). -/
def finishMessages (fuel n : Nat) (s : State) : State :=
  match fuel with
  | 0 => s
  | fuel + 1 =>
    match qpGet s n with
    | none => s
    | some q =>
      match q.recv.messages.find? fun m => m.msg == q.recv.nextMsg && !m.complete with
      | none => s
      | some m =>
        if messagePlaced q.recv m then
          let s1 := recvMod n (fun r =>
            { r with nextMsg := r.nextMsg + 1,
                     messages := r.messages.map fun x => if x.msg = m.msg then { x with complete := true } else x }) s
          finishMessages fuel n (completeReceive n m (commitProgress n (recvMod n (fun r => advanceE r.settled.length r) s1)))
        else s

/-- Coalescing limits of R148 by profile (Table 6-18). -/
def ackLimit (s : State) : Nat := if s.dev.profile = .efficiency then 16 else 8

def ackDelay (s : State) : Nat := if s.dev.profile = .efficiency then 8000 else 4000

/-- Numbers become settled (R147): messages complete, E advances, and the `ACK` that they call for will echo the latest of them. -/
def settleNums (n : Nat) (nums : List W32) (s : State) : State :=
  let s1 := recvMod n (fun r =>
    let fresh := nums.filter fun x => !(r.settled.contains x) && !(seqBefore x r.e)
    let seen := r.arrived.find? fun a => fresh.contains a.seq
    { r with settled := r.settled ++ fresh, newlySettled := r.newlySettled + fresh.length,
             firstSettledAt := if fresh.isEmpty then r.firstSettledAt else some (r.firstSettledAt.getD s.dev.now),
             trigger := seen.orElse fun _ => r.trigger, arrived := r.arrived.filter fun a => !fresh.contains a.seq }) s
  let count := match qpGet s1 n with | some q => q.recv.messages.length | none => 0
  recvMod n (fun r =>
    let r1 := advanceE r.settled.length r
    { r1 with messages := r1.messages.filter fun m =>
        !(m.complete && seqBefore (m.firstSeq + BitVec.ofNat 32 m.packets - 1) r1.e) }) (finishMessages count n s1)

/-- A flush of the queue pair whose earlier numbers are all settled: every placement before it is committed (R141). -/
def readyFlush (r : QpRecv) : Option W32 :=
  r.flushes.find? fun x => (List.range (x - r.e).toNat).all fun i => r.settled.contains (r.e + BitVec.ofNat 32 i)

/-- Flushes that no longer wait settle, each behind a zero-length read on its function's path (R141). -/
def settleFlushes (fuel n : Nat) (s : State) : State :=
  match fuel with
  | 0 => s
  | fuel + 1 =>
    match qpGet s n with
    | none => s
    | some q =>
      match readyFlush q.recv with
      | none => s
      | some x =>
        settleFlushes fuel n (settleNums n [x] (emitHost q.conf.fn (.hostZeroRead q.conf.fn)
          (recvMod n (fun r => { r with flushes := r.flushes.filter (· != x) }) s)))

/-- Numbers become settled, with the flushes that waited for them, and an `ACK` goes out if one is due (R148): a packet among them asked for
it, or enough numbers are settled. -/
def settle (n : Nat) (nums : List W32) (s : State) : State :=
  match qpGet s n with
  | none => s
  | some q =>
    let s1 := settleFlushes q.recv.flushes.length n (settleNums n nums s)
    match qpGet s1 n with
    | some q1 =>
      if (q.recv.arrived.any fun a => a.ackReq && !q1.recv.arrived.contains a) || decide (q1.recv.newlySettled ≥ ackLimit s) then sendAck n s1
      else s1
    | none => s1

/-- Signal a shared receive queue whose unclaimed buffers lie below `LIMIT`, once until they have risen again (R129). -/
def judgeSrq (n : Nat) (s : State) : State :=
  match tabGet s.srqs n with
  | none => s
  | some q =>
    if q.limit = 0 then s
    else if q.buffers.length < q.limit then
      if q.armed then signalVec q.fn q.vector { s with srqs := tabMod s.srqs n fun x => { x with armed := false } } else s
    else { s with srqs := tabMod s.srqs n fun x => { x with armed := true } }

/-- The number of the first packet of the message of a packet (R135). -/
def firstSeqOf (h : EhtHeader) (mtu : Nat) : W32 := h.seq - BitVec.ofNat 32 (h.msgOffset.toNat / mtu)

/-- The numbers of the message of a packet that carries a number of the peer: of a read, its request. -/
def messageNums (h : EhtHeader) (mtu : Nat) : List W32 :=
  let data := h.pktOp.toNat == pktOpCode .write || h.pktOp.toNat == pktOpCode .writeImm || h.pktOp.toNat == pktOpCode .send
  if data then (List.range (packetCount (h.msgLengthM1.toNat + 1) mtu)).map fun i => firstSeqOf h mtu + BitVec.ofNat 32 i else [h.seq]

/-- A fatal refusal at the target (R158): the numbers of its message settle, though the cumulative point never passes it, nothing completes
there, the `NAK` is recorded and sent, and the queue pair moves to ERROR. -/
def refuseMessage (n : Nat) (reason : NakReason) (h : EhtHeader) (s : State) : State :=
  match qpGet s n with
  | none => s
  | some q =>
    let s1 := sendNak n reason h.seq h.msgNum h.pathTag.toNat s
    let nums := (messageNums h (mtuOf q)).filter fun x => !q.recv.settled.contains x
    recvMod n (fun r => { r with recordedNak := some (BitVec.ofNat 8 (nakCode reason), h.seq, h.msgNum), nakAt := s.dev.now,
                                 settled := r.settled ++ nums }) (qpToError n s1)

end Sys2Proof.Machine
end

