-- ==== Sys2Proof/Machine/Receive.lean ====
section
/-! DEFINITION. Arriving EHT data packets: classification (R150), key checks (R136), buffer claims (R138), placement (R135),
sealed units (R388, R392), atomics (R157) and read responses (R132, R156). -/

namespace Sys2Proof.Machine

/-! ### Sealed packets -/

/-- The key under which packets of a phase are opened; none: that phase is closed (R381, R383). -/
def openKey (s : State) (n : Nat) (q : Qp) (phase : Bool) : Option (BitVec 288) :=
  match q.sealing with
  | none => none
  | some z =>
    match tabGet s.sec.accords z.accord with
    | none => none
    | some a =>
      let label := if phase = z.recvPhase then some z.recvLabel else z.recvNext
      label.map fun l => Config.sealKey a.secret l a.peer (BitVec.ofNat 20 q.conf.peerQp.toNat) (BitVec.ofNat 20 n)

/-- Apply the keystream of a unit from byte `off` of the unit (R386). -/
def gcmXor (key : BitVec 288) (ctr : W64) (off : Nat) (l : List Byte) : List Byte :=
  l.zipIdx.map fun x => x.1 ^^^ Config.gcmStream key ctr (off + x.2)

/-- Additional data of a unit from a packet of it (R386), without the extension header. -/
def unitAad (h : EhtHeader) (unit : Nat) : List Byte :=
  [BitVec.ofNat 8 h.pktOp.toNat, 0, 0, 0] ++ slice (headerBytes h) 4 8 ++ slice (headerBytes h) 16 8 ++
  slice (headerBytes h) 28 16 ++ beBytes 4 unit

/-- Length of unit `u` of a message of `len` bytes (R386). -/
def unitLen (len log2 u : Nat) : Nat := min (2 ^ log2) (len - u * 2 ^ log2)

/-- Units of a message (R386). -/
def unitCount (len log2 : Nat) : Nat := max 1 (ceilDiv len (2 ^ log2))

/-- The ciphertext of a unit in offset order. -/
def unitText (data : List (Nat × List Byte)) (len : Nat) : List Byte :=
  (List.range len).map fun i =>
    match data.find? fun d => d.1 ≤ i && i < d.1 + d.2.length with
    | some d => d.2.getD (i - d.1) 0
    | none => 0

/-- The unit of a message; `own`: of a response to this side's own request. -/
def isUnit (own : Bool) (msg : W32) (unit : Nat) (u : RxUnit) : Bool := u.own == own && u.msg == msg && u.unit == unit

def unitMod (n : Nat) (own : Bool) (msg : W32) (unit : Nat) (f : RxUnit → RxUnit) (s : State) : State :=
  recvMod n (fun r => { r with units := r.units.map fun u => if isUnit own msg unit u then f u else u }) s

def findUnit (q : Qp) (own : Bool) (msg : W32) (unit : Nat) : Option RxUnit := q.recv.units.find? (isUnit own msg unit)

/-- A unit of the new phase has authenticated and none of the old phase is unsettled: the change of keys is closed
(R383). -/
def closeRekey (n : Nat) (phase : Bool) (s : State) : State :=
  match qpGet s n with
  | none => s
  | some q =>
    match q.sealing with
    | some z =>
      match z.recvNext with
      | some l =>
        if phase ≠ z.recvPhase ∧ !(q.recv.units.any fun u => u.phase == z.recvPhase) then
          qpMod n (fun q => { q with sealing := some { z with recvPhase := !z.recvPhase, recvLabel := l, recvNext := none } }) s
        else s
      | none => s
    | none => s

/-- The continuation of the accelerator writes of a unit. -/
def unitCont (n : Nat) (u : RxUnit) : SpurCont := .unit n u.own u.msg u.unit

/-- Judge a unit all of whose packets have been placed: settle it once what it wrote to accelerators is committed, or mark the attempt failed
and write zeros over its destination (R388, R392). -/
def judgeUnit (n fn : Nat) (q : Qp) (u : RxUnit) (landing : List W32 → State → State) (s : State) : State :=
  match openKey s n q u.phase, u.tag with
  | some key, some tag =>
    if Config.gcmTag key u.ctr u.aad (unitText u.data u.len) = tag then
      if contOpen s (unitCont n u) then unitMod n u.own u.msg u.unit (fun x => { x with landed := true }) s
      else
        let s1 := recvMod n (fun r => { r with units := r.units.filter fun x => !isUnit u.own u.msg u.unit x }) s
        closeRekey n u.phase (landing u.seqs s1)
    else
      let s1 := unitMod n u.own u.msg u.unit
        (fun x => { x with failed := true, zeroing := true, fails := x.fails + 1, seqs := [], data := [], tag := none }) s
      placeAt fn u.dva (List.replicate u.len 0) .none s1
  | _, _ => s

/-- An arriving sealed packet of a unit whose destination starts at `dva` (R388): `total` is the message length, `landing`
what the settling of the unit does. -/
def sealedArrive (n fn : Nat) (q : Qp) (p : RxPacket) (b : SealBlock) (dva total : Nat) (landing : List W32 → State → State)
    (s : State) : State :=
  match q.sealing with
  | none => countDrop p.port s
  | some z =>
    let u := p.hdr.msgOffset.toNat / 2 ^ z.unitLog2
    let len := if carriesData ((([TxKind.write, .writeImm, .readReq, .readResp, .send, .fadd, .cswap, .atomicResp,
        .flush].find? fun k => pktOpCode k == p.hdr.pktOp.toNat)).getD .flush) then unitLen total z.unitLog2 u else 0
    let need := packetCount len (mtuOf q)
    let own := p.hdr.pktOp.toNat == pktOpCode .readResp || p.hdr.pktOp.toNat == pktOpCode .atomicResp
    let off := p.hdr.msgOffset.toNat % 2 ^ z.unitLog2
    if b.unitIndex.toNat ≠ u then countQp n s
    else
      match openKey s n q b.keyPhase with
      | none => countQp n s
      | some key =>
        let fresh : RxUnit := { own := own, msg := p.hdr.msgNum, unit := u, ctr := b.unitCtr, phase := b.keyPhase, failed := false,
                                fails := 0, zeroing := false, landed := false, path := p.hdr.pathTag.toNat, tag := none, seqs := [], data := [], aad := [],
                                dva := dva + u * 2 ^ z.unitLog2, len := len }
        let stale : Bool := match findUnit q own p.hdr.msgNum u with
          | some x => decide (b.unitCtr.toNat < x.ctr.toNat) || (b.unitCtr == x.ctr && x.failed)
          | none => false
        if stale then countQp n s
        else
          let base : RxUnit := match findUnit q own p.hdr.msgNum u with
            | some x => if b.unitCtr = x.ctr then x else { fresh with fails := x.fails, zeroing := x.zeroing }
            | none => fresh
          let ext := extBytes p.immediate p.atomic
          let x : RxUnit :=
            { base with
              path := p.hdr.pathTag.toNat,
              tag := if b.unitLast then some b.tag else base.tag,
              seqs := if base.seqs.contains p.hdr.seq then base.seqs else base.seqs ++ [p.hdr.seq],
              data := (base.data.filter fun d => d.1 != off) ++ [(off, p.payload)],
              aad := if ext.isEmpty && !base.aad.isEmpty then base.aad else unitAad p.hdr u ++ ext }
          let s1 := recvMod n (fun r =>
            { r with units := (r.units.filter fun y => !isUnit own p.hdr.msgNum u y) ++ [x] }) s
          if x.zeroing && decide (0 < x.len) then s1
          else
            let s2 := placeAt fn (x.dva + off) (gcmXor key b.unitCtr off p.payload) (unitCont n x) s1
            if x.seqs.length ≥ need && x.tag.isSome then judgeUnit n fn q x landing s2 else s2

/-! ### Classification (Table 6-6) -/

/-- A packet of the peer has arrived: the silence of the peer ends (R155, R472), and its marks are kept (R174, Table 8-2). -/
def hear (n : Nat) (p : RxPacket) (s : State) : State :=
  recvMod n (fun r => { r with ceCount := r.ceCount + flag p.env.ce, peerAdmitted := p.env.admitted }) (hearPeer n s)

/-- The stamps of a packet that arrives now. -/
def arrivalOf (p : RxPacket) (s : State) : Arrival :=
  { seq := p.hdr.seq, stamp := p.hdr.txStamp, at_ := BitVec.ofNat 64 s.dev.now, path := p.hdr.pathTag, ackReq := p.hdr.ackReq }

/-- The stamps of a packet that has not settled are kept for the `ACK` that its settling calls for (Table 6-2). -/
def noteArrival (n : Nat) (p : RxPacket) (s : State) : State :=
  recvMod n (fun r => { r with arrived := r.arrived.filter (fun a => a.seq != p.hdr.seq) ++ [arrivalOf p s] }) s

/-- An `ACK` that packet `p` itself calls for. -/
def ackFor (n : Nat) (p : RxPacket) (s : State) : State := sendAck n (recvMod n (fun r => { r with trigger := some (arrivalOf p s) }) s)

/-- An `ACK` caused by a duplicate: at most once per 1 µs (R148). -/
def dupAck (n : Nat) (p : RxPacket) (s : State) : State :=
  match qpGet s n with
  | some q =>
    if s.dev.now < q.recv.dupAckAt + 1000 ∧ q.recv.dupAckAt ≠ 0 then s
    else recvMod n (fun r => { r with dupAckAt := s.dev.now }) (ackFor n p s)
  | none => s

/-- RTO_MIN of a queue pair (R153). -/
def rtoMin (q : Qp) : Nat := if isFabric q then 12000 else 60000

/-- A packet whose number a go-back-N receiver does not expect: dropped, and `NAK` `SEQ_GAP` at most once per `RTO_MIN`
(R170). -/
def gapNak (n : Nat) (q : Qp) (p : RxPacket) (s : State) : State :=
  let s1 := countQp n s
  if s.dev.now < q.recv.nakAt + rtoMin q ∧ q.recv.nakAt ≠ 0 then s1
  else recvMod n (fun r => { r with nakAt := s.dev.now }) (sendNak n .seqGap q.recv.e p.hdr.msgNum p.hdr.pathTag.toNat s1)

/-- A packet for a queue pair that does not exist, or that is not connected to the sender (order 2): the `NAK` goes back to where the packet
came from, on its path. DESIGN CHOICE (log entry 95): without a queue pair it states `SEQ`, `MSG_NUM` and `OWN_RETIRED` as 0, and leaves in
TC 0 with the address of PF0; its next hop and hop limit are free values. -/
def refuseUnknown (p : RxPacket) (s : State) : State :=
  let h := { p.hdr with pktOp := 0x11, destQp := p.hdr.srcQp, srcQp := p.hdr.destQp, first := false, last := false,
                        ackReq := false, solicited := false, immPresent := false, isSealed := false, retx := false, seq := 0,
                        msgNum := 0, recvNum := 0, msgOffset := 0, msgLengthM1 := 0, rkey := 0, msgDva := 0 }
  let part : WirePart := .nak { reason := BitVec.ofNat 8 (nakCode .qpNotReady), rsvd := 0, nakSeq := p.hdr.seq, nakMsg := p.hdr.msgNum,
                                ownRetired := 0 }
  let tag := p.hdr.pathTag.toNat
  let onFabric := decide (32 ≤ p.port)
  let dest := bits p.env.source.toNat 0 12
  let e : EhtSend :=
    { outer := if onFabric then none
        else some (outerOf s 0 p.port 0 tag p.env.ipv6 p.env.source (BitVec.ofNat 48 (Config.freeWord s.dev.fresh).toNat)
          (BitVec.ofNat 8 (Config.freeWord (s.dev.fresh + 1)).toNat) (BitVec.ofNat 32 p.hdr.srcQp.toNat) false),
      dest := dest, tag := tag, admitted := false, hdr := h, part := part }
  match if onFabric then fabricEgress s dest tag else some p.port with
  | some port =>
    queueUnit { port := port, tc := 0, fn := 0, stream := p.hdr.destQp.toNat, since := s.dev.now, len := ehtLen part, item := .eht e }
      (takeFresh (takeFresh s))
  | none => s

/-- The recorded fatal `NAK` is repeated, at most once per 12 µs; without one, `QP_NOT_READY` (order 4). -/
def repeatNak (n : Nat) (q : Qp) (p : RxPacket) (s : State) : State :=
  match q.recv.recordedNak with
  | some r =>
    if s.dev.now < q.recv.nakAt + 12000 then s
    else recvMod n (fun x => { x with nakAt := s.dev.now })
      (sendNak n ((nakOfCode r.1.toNat).getD .qpNotReady) r.2.1 r.2.2 p.hdr.pathTag.toNat s)
  | none => sendNak n .qpNotReady p.hdr.seq p.hdr.msgNum p.hdr.pathTag.toNat s

/-- The number nearest `e` whose low 24 bits are those of `x` (R144). -/
def widenPsn (e x : W32) : W32 :=
  let d := (x - e).toNat % 2 ^ 24
  if d < 2 ^ 23 then e + BitVec.ofNat 32 d else e - BitVec.ofNat 32 (2 ^ 24 - d)

/-- A packet of a RoCEv2 peer has a 24-bit number (R144). -/
def widenFor (q : Qp) (e : W32) (p : RxPacket) : RxPacket :=
  if q.conf.mode = .roce then { p with hdr := { p.hdr with seq := widenPsn e p.hdr.seq } } else p

/-- No queue pair gives the `MTU`: R126 fails a packet that no `MTU` of Table 5-4 suits (log entry 7). -/
def refuseOrDrop (k : TxKind) (p : RxPacket) (s : State) : State :=
  if [10, 11, 12, 13].any fun l => packetShapeOk k (2 ^ l) p then refuseUnknown p s else countDrop p.port s

/-- Orders 1 to 7 of Table 6-6 for a packet that carries a number of the peer's space. `dup`: what a duplicate calls for
beyond its `ACK`; `fresh`: what a new packet does. -/
def classify (k : TxKind) (p0 : RxPacket) (dup fresh : RxPacket → Nat → Qp → State → State) (s : State) : State :=
  let n := p0.hdr.destQp.toNat
  if !packetWellFormed k p0 then countDrop p0.port s
  else
    match qpGet s n with
    | none => refuseOrDrop k p0 s
    | some q =>
      let p := widenFor q q.recv.e p0
      if !packetShapeOk k (mtuOf q) p || p.hdr.isSealed != q.sealing.isSome then countDrop p.port s
      else if !(q.conf.connected && q.conf.peerQp.toNat == p.hdr.srcQp.toNat) then refuseUnknown p s
      else if q.sealing.isSome && s.sec.errorState then countQp n s
      else
        let s1 := hear n p s
        if seqBefore p.hdr.seq q.recv.e then dup p n q (dupAck n p s1)
        else if q.phase ≠ .ready then repeatNak n q p s1
        else if 16384 ≤ (p.hdr.seq - q.recv.e).toNat then ackFor n p (countQp n s1)
        else if q.recv.settled.contains p.hdr.seq then dup p n q (dupAck n p s1)
        else if goBackN s q && p.hdr.seq != q.recv.e then gapNak n q p s1
        else if q.recv.suspended then sendNak n .faultWait p.hdr.seq p.hdr.msgNum p.hdr.pathTag.toNat (countQp n s1)
        else fresh p n q (noteArrival n p s1)

/-- Nothing more to do for a duplicate. -/
def dupNothing (_ : RxPacket) (_ : Nat) (_ : Qp) (s : State) : State := s

/-! ### Messages and buffers -/

def findMessage (q : Qp) (msg : W32) : Option RxMessage := q.recv.messages.find? fun m => m.msg == msg

/-- The oldest unclaimed buffer of a shared receive queue is claimed for `recvNum` (R138). -/
def claimShared (n srq : Nat) (recvNum : W32) (s : State) : Option (Nat × State) :=
  match tabGet s.srqs srq with
  | some q =>
    match q.buffers with
    | rec :: rest =>
      some (rec, judgeSrq srq (workMod rec (fun w => { w with state := .claimed, claim := some (n, recvNum) })
        { s with srqs := tabMod s.srqs srq fun x => { x with buffers := rest } }))
    | [] => none
  | none => none

/-- Claim shared buffers for every smaller `RECV_NUM` without a claim, in order (R138, R139). -/
def claimEarlier (fuel n srq : Nat) (upTo : W32) (s : State) : State :=
  match fuel with
  | 0 => s
  | fuel + 1 =>
    match qpGet s n with
    | none => s
    | some q =>
      let r := q.recv.nextClaim
      if seqBefore r upTo then
        match claimShared n srq r s with
        | some (rec, s1) =>
          claimEarlier fuel n srq upTo
            (recvMod n (fun x => { x with nextClaim := r + 1, reservedClaims := x.reservedClaims ++ [(r, rec)] }) s1)
        | none => s
      else s

/-- Claim the buffer of message `msg` with `RECV_NUM` `recvNum` (R138): the record claimed, and the state after every claim
made. `need`: the bytes that must fit; a buffer that is too small stays unclaimed. -/
def claimBuffer (n : Nat) (q : Qp) (recvNum msg : W32) (need : Nat) (s : State) : State × Except NakReason Nat :=
  let fits (rec : Nat) : Bool := match workGet s rec with
    | some w => decide (need ≤ entryLength w.entry)
    | none => false
  let take (rec : Nat) (t : State) : State :=
    workMod rec (fun w => { w with state := .claimed, claim := some (n, msg) })
      (recvMod n (fun r => { r with claimed := r.claimed + 1 }) t)
  if !q.conf.useSrq then
    match q.recv.posted.find? fun x => x.1 == recvNum with
    | some x =>
      if fits x.2 then (recvMod n (fun r => { r with posted := r.posted.filter fun y => y.1 != recvNum }) (take x.2 s), .ok x.2)
      else (s, .error .bounds)
    | none => (s, .error .rnr)
  else
    match q.recv.reservedClaims.find? fun x => x.1 == recvNum with
    | some x =>
      if fits x.2 then
        (workMod x.2 (fun w => { w with claim := some (n, msg) })
          (recvMod n (fun r => { r with reservedClaims := r.reservedClaims.filter fun y => y.1 != recvNum }) s), .ok x.2)
      else (s, .error .bounds)
    | none =>
      let s1 := claimEarlier ((recvNum - q.recv.nextClaim).toNat + 1) n q.conf.srq recvNum s
      let ready : Bool := match qpGet s1 n with | some q1 => q1.recv.nextClaim == recvNum | none => false
      match tabGet s1.srqs q.conf.srq with
      | some srq =>
        match srq.buffers with
        | rec :: _ =>
          if !ready then (s1, .error .rnr)
          else if fits rec then
            match claimShared n q.conf.srq recvNum s1 with
            | some (rec, s2) =>
              (recvMod n (fun r => { r with nextClaim := recvNum + 1 })
                (workMod rec (fun w => { w with claim := some (n, msg) }) s2), .ok rec)
            | none => (s1, .error .rnr)
          else (s1, .error .bounds)
        | [] => (s1, .error .rnr)
      | none => (s1, .error .rnr)

/-- A key check refuses a packet: a stale key is answered and changes nothing at either end that a late copy could reach
(R95, R152; log entry 20); any other failure is fatal (R158). -/
def refuseKey (n : Nat) (e : Status) (h : EhtHeader) (s : State) : State :=
  if e = .keyStale then sendNak n .keyStale h.seq h.msgNum h.pathTag.toNat (countQp n s)
  else refuseMessage n (nakOfStatus e) h s

/-- A new message of which this packet is the first to arrive. -/
def newMessage (k : TxKind) (p : RxPacket) (mtu : Nat) (buffer : Option Nat) (dva : Nat) : RxMessage :=
  let len := messageLen p.hdr p.payload.length (carriesData k)
  { msg := p.hdr.msgNum, kind := k, firstSeq := firstSeqOf p.hdr mtu,
    packets := if carriesData k then packetCount len mtu else 1, len := len, dva := dva, key := p.hdr.rkey, buffer := buffer,
    imm := p.immediate, complete := false, solicited := p.hdr.solicited }

/-- Place one packet of a message at its destination, or suspend the placement of the queue pair (orders 12 and 13). A packet for host
memory that the device may not reach (R82) is not placed and not settled.
`base`: DVA of message byte 0 in the space of the queue pair's function. -/
def placePacket (n : Nat) (q : Qp) (p : RxPacket) (m : RxMessage) (key : W32) (s : State) : State :=
  let fn := q.conf.fn
  let at_ := m.dva + p.hdr.msgOffset.toNat
  let len := p.payload.length
  if dmaBarred s fn && touchesHost s fn at_ len then countQp n s
  else if !(missingPages s fn at_ len).isEmpty then
    if dmaBarred s fn then refuseMessage n .translationFault p.hdr s
    else
      let s1 := suspend fn (.qp n) 3 1 0 at_ len key (recvMod n (fun r => { r with suspended := true, suspendedBy := some p.hdr }) s)
      sendNak n .faultWait p.hdr.seq p.hdr.msgNum p.hdr.pathTag.toNat s1
  else
    match p.sealBlock with
    | some b => sealedArrive n fn q p b m.dva m.len (fun nums t => settle n nums t) s
    | none =>
      let s1 := placeAt fn at_ p.payload (.settle n p.hdr.seq) s
      if spurPieces s fn at_ p.payload = 0 then settle n [p.hdr.seq] s1 else s1

/-- Remember a message, and what later packets of it bring. -/
def keepMessage (n : Nat) (m : RxMessage) (p : RxPacket) (s : State) : State :=
  recvMod n (fun r =>
    if r.messages.any fun x => x.msg == m.msg then
      { r with messages := r.messages.map fun x =>
          if x.msg = m.msg then { x with imm := if p.immediate.isSome then p.immediate else x.imm,
                                         solicited := x.solicited || p.hdr.solicited } else x }
    else { r with messages := r.messages ++ [m] }) s

/-- A new packet of a message that names a key: `WRITE` and `WRITE_IMM` (orders 8 to 13). -/
def writeFresh (k : TxKind) (p : RxPacket) (n : Nat) (q : Qp) (s : State) : State :=
  match keyCheck12 s q.conf.fn p.hdr.rkey with
  | .error e => refuseKey n e p.hdr s
  | .ok region =>
    match findMessage q p.hdr.msgNum with
    | some m => placePacket n q p m p.hdr.rkey (keepMessage n m p s)
    | none =>
      let m0 := newMessage k p (mtuOf q) none p.hdr.msgDva.toNat
      match keyCheck34 region rightRemoteWrite m0.dva m0.len with
      | some e => refuseMessage n (nakOfStatus e) p.hdr s
      | none =>
        if k = .writeImm then
          match claimBuffer n q p.hdr.recvNum p.hdr.msgNum 0 s with
          | (s1, .ok rec) =>
            let m := { m0 with buffer := some rec }
            placePacket n q p m p.hdr.rkey (keepMessage n m p s1)
          | (s1, .error r) => sendNak n r p.hdr.seq p.hdr.msgNum p.hdr.pathTag.toNat s1
        else placePacket n q p m0 p.hdr.rkey (keepMessage n m0 p s)

/-- A new packet of a `SEND` (orders 11 to 13): its claimed buffer's first byte is its base. -/
def sendFresh (p : RxPacket) (n : Nat) (q : Qp) (s : State) : State :=
  match findMessage q p.hdr.msgNum with
  | some m => placePacket n q p m m.key (keepMessage n m p s)
  | none =>
    let m0 := newMessage .send p (mtuOf q) none 0
    match claimBuffer n q p.hdr.recvNum p.hdr.msgNum m0.len s with
    | (s1, .ok rec) =>
      match workGet s1 rec with
      | some w =>
        let m := { m0 with buffer := some rec, dva := entryDva w.entry, key := entryKey w.entry }
        placePacket n q p m m.key (keepMessage n m p s1)
      | none => s1
    | (s1, .error .bounds) => refuseMessage n .bounds p.hdr s1
    | (s1, .error r) => sendNak n r p.hdr.seq p.hdr.msgNum p.hdr.pathTag.toNat s1

/-! ### Atomics, flushes and reads at the target -/

/-- What must wait for the unit of a sealed request to authenticate (R389), or runs at once. -/
def whenOpened (n : Nat) (q : Qp) (p : RxPacket) (act : State → State) (s : State) : State :=
  match p.sealBlock with
  | some b => sealedArrive n q.conf.fn q p b 0 0 (fun _ t => act t) s
  | none => act s

/-- A packet about to be sent for the first time. -/
def newPacket (kind : TxKind) (seq msg : W32) (work offset bytes total : Nat) : TxPacket :=
  { kind := kind, seq := seq, msg := msg, work := work, offset := offset, bytes := bytes, total := total, path := 0, sentAt := 0,
    order := 0, sends := 0, counted := 0, sacked := false, passed := 0, retx := false, lastPath := 0, queuedAt := 0, late := false,
    phase := false, unit := 0, ctr := none, key := 0, dva := 0, value := 0, segs := [] }

/-- Put packets at the end of a queue pair's line. -/
def pushQueue (n : Nat) (l : List TxPacket) (s : State) : State :=
  sendMod n (fun q => { q with queue := q.queue ++ l.map fun x => { x with queuedAt := s.dev.now } }) s

/-- Seal unit of a byte offset (R386). -/
def unitOf (q : Qp) (off : Nat) : Nat :=
  match q.sealing with
  | some z => off / 2 ^ z.unitLog2
  | none => 0

/-- The key phase of packets that a queue pair starts to send now. -/
def sendPhase (q : Qp) : Bool :=
  match q.sealing with
  | some z => z.phase
  | none => false

/-- The `ATOMIC_RESP` of a request (R157). -/
def queueAtomicResp (n : Nat) (seq msg : W32) (prior : W64) (again : Bool) (s : State) : State :=
  match qpGet s n with
  | some q => pushQueue n [{ newPacket .atomicResp seq msg 0 0 0 0 with
      value := prior, sends := flag again, phase := sendPhase q }] s
  | none => s

/-- The recorded result of an atomic request. -/
def atomicResult (s : State) (n : Nat) (seq : W32) : Option W64 :=
  s.journal.findSome? fun p => match p.2 with
    | .atomicResult qp x _ v => if qp = n ∧ x = seq then some v else none
    | _ => none

/-- A duplicate atomic request is answered from its record (R157). -/
def dupAtomic (p : RxPacket) (n : Nat) (_ : Qp) (s : State) : State :=
  match atomicResult s n p.hdr.seq with
  | some v => queueAtomicResp n p.hdr.seq p.hdr.msgNum v true s
  | none => s

/-- Perform an atomic on the 8 bytes at `dva` (R133, R157): in tarn memory here, in host memory as a PCIe AtomicOp or as a
read and a write, in accelerator memory at the accelerator. `prior`: what the host or the accelerator returns. DESIGN CHOICE (log entry 99):
Table 8-6 has no code for it, so the request to the accelerator is an output of its own. -/
def performAtomic (fn : Nat) (swap : Bool) (operand compare : W64) (dva : Nat) (prior : W64) (s : State) : State × W64 :=
  let new (old : W64) : W64 := if swap then (if old = compare then operand else old) else old + operand
  match translate s fn dva with
  | some (.tarn, _, a) =>
    let old := BitVec.ofNat 64 (ofLe (memReadList s.tarns.mem a 8))
    (wakeRange a 8 (tarnMod (fun t => { t with mem := memWriteList t.mem a (leBytes 8 (new old).toNat) }) s), old)
  | some (.host, _, a) =>
    match tabGet s.fns fn with
    | some f =>
      if f.atomicRequester then (emitHost fn (.hostAtomic fn a swap operand compare) s, prior)
      else (emitHost fn (.hostBytes fn a false (leBytes 8 (new prior).toNat)) s, prior)
    | none => (s, prior)
  | some (.spur, p, a) => (emit (.spurAtomic p a swap operand compare) s, prior)
  | none => (s, prior)

/-- A new atomic request (orders 8 to 13, R157). -/
def atomicFresh (k : TxKind) (prior : W64) (p : RxPacket) (n : Nat) (q : Qp) (s : State) : State :=
  let dva := p.hdr.msgDva.toNat
  match keyCheck s q.conf.fn p.hdr.rkey rightRemoteAtomic dva 8 with
  | some e => refuseKey n e p.hdr s
  | none =>
    if dmaBarred s q.conf.fn && touchesHost s q.conf.fn dva 8 then countQp n s
    else if !(missingPages s q.conf.fn dva 8).isEmpty then
      if dmaBarred s q.conf.fn then refuseMessage n .translationFault p.hdr s
      else sendNak n .faultWait p.hdr.seq p.hdr.msgNum p.hdr.pathTag.toNat
        (suspend q.conf.fn (.qp n) 3 2 0 dva 8 p.hdr.rkey (recvMod n (fun r => { r with suspended := true, suspendedBy := some p.hdr }) s))
    else
      let a := p.atomic.getD (0, 0)
      whenOpened n q p (fun t =>
        let r := performAtomic q.conf.fn (k == .cswap) a.1 a.2 dva prior t
        match journalPut n (.atomicResult n p.hdr.seq p.hdr.msgNum r.2) r.1 with
        | some (_, t1) =>
          let t2 := queueAtomicResp n p.hdr.seq p.hdr.msgNum r.2 false t1
          settle n [p.hdr.seq] (keepMessage n (newMessage k p (mtuOf q) none dva) p t2)
        | none => t) s

/-- A new flush: it settles once every earlier placement is committed and a zero-length read has completed on the target
function's path (R141). -/
def flushFresh (p : RxPacket) (n : Nat) (q : Qp) (s : State) : State :=
  let hold (r : QpRecv) : QpRecv := { r with flushes := r.flushes.filter (· != p.hdr.seq) ++ [p.hdr.seq] }
  whenOpened n q p (fun t => settle n [] (keepMessage n (newMessage .flush p (mtuOf q) none 0) p (recvMod n hold t))) s

/-- Bytes that a `READ_REQ` asks for. Its header cannot tell a read of no byte from a read of one, so it asks for one
(R123, R132; log entry 21). -/
def readLen (h : EhtHeader) : Nat := h.msgLengthM1.toNat + 1

/-- A segment is translated: its epoch, and where its DVAs lead then (R103). -/
def takeSeg (s : State) (fn dva len : Nat) : Seg :=
  { dva := dva, len := len, epoch := epochOf s fn,
    map := match tabGet s.spaces fn with
      | some a => a.pages.filter fun p => decide (p.dva < dva + len ∧ dva < p.dva + p.len)
      | none => [] }

/-- The segments before the first that meets a missing page, and that one (R109, R110). -/
def readable (s : State) (fn : Nat) (l : List (Nat × Nat × Nat)) : List Seg × Option (Nat × Nat) :=
  match l with
  | [] => ([], none)
  | g :: rest =>
    if (missingPages s fn g.1 g.2.2).isEmpty then
      let r := readable s fn rest
      (takeSeg s fn g.1 g.2.2 :: r.1, r.2)
    else ([], some (g.1, g.2.2))

/-- Bytes of a run of segments. -/
def segBytes (l : List Seg) : Nat := (l.map fun g => g.len).sum

/-- The segments that reach into [`lo`, `hi`). -/
def segsIn (l : List Seg) (lo hi : Nat) : List Seg := l.filter fun g => decide (g.dva < hi ∧ lo < g.dva + g.len)

/-- The `READ_RESP` packets of a read numbered `seq` whose bytes lie in its first `upTo`, with the segments that they read (R132). -/
def readResponses (q : Qp) (h : EhtHeader) (again : Bool) (only : W32 → Bool) (upTo : Nat) (segs : List Seg) : List TxPacket :=
  let len := readLen h
  let mtu := mtuOf q
  let dva := h.msgDva.toNat
  (List.range (packetCount len mtu)).filterMap fun i =>
    let x := h.seq + 1 + BitVec.ofNat 32 i
    let n := packetLen len mtu (i * mtu)
    if only x && !seqBefore x q.recv.peerRetired && decide (i * mtu + n ≤ upTo) then
      some { newPacket .readResp x h.msgNum 0 (i * mtu) n len with
        key := h.rkey, dva := dva, sends := flag again, unit := unitOf q (i * mtu), phase := sendPhase q,
        segs := segsIn segs (dva + i * mtu) (dva + i * mtu + n) }
    else none

/-- The responses of a read are queued, up to the first segment that meets a missing page; that one suspends the placement of the queue pair
(R109 to R111, R132). -/
def serveRead (n : Nat) (q : Qp) (h : EhtHeader) (again : Bool) (only : W32 → Bool) (s : State) : State :=
  let fn := q.conf.fn
  let len := readLen h
  let r := readable s fn (segments (len / 65536 + 2) h.msgDva.toNat h.msgDva.toNat len)
  let s1 := pushQueue n (readResponses q h again only (segBytes r.1) r.1) s
  match r.2 with
  | none => s1
  | some g => suspend fn (.qp n) 3 0 0 g.1 g.2 h.rkey (recvMod n (fun x => { x with suspended := true, suspendedBy := some h }) s1)

/-- The source of a read cannot be read now: it lies in host memory that is barred, or has a missing page while the function is (R82). -/
def readBarred (s : State) (q : Qp) (h : EhtHeader) : Option Bool :=
  let fn := q.conf.fn
  if !dmaBarred s fn then none
  else if touchesHost s fn h.msgDva.toNat (readLen h) then some false
  else if !(missingPages s fn h.msgDva.toNat (readLen h)).isEmpty then some true
  else none

/-- A new `READ_REQ` (orders 8 to 13): key checks, then its responses are queued, and its number settles when all of them are. -/
def readFresh (p : RxPacket) (n : Nat) (q : Qp) (s : State) : State :=
  whenOpened n q p (fun t =>
    match keyCheck t q.conf.fn p.hdr.rkey rightRemoteRead p.hdr.msgDva.toNat (readLen p.hdr), readBarred t q p.hdr with
    | some e, _ => refuseKey n e p.hdr t
    | none, some true => refuseMessage n .translationFault p.hdr t
    | none, some false => countQp n t
    | none, none =>
      let t1 := serveRead n q p.hdr false (fun _ => true) t
      match qpGet t1 n with
      | some q1 =>
        if q1.recv.suspended then sendNak n .faultWait p.hdr.seq p.hdr.msgNum p.hdr.pathTag.toNat t1
        else settle n [p.hdr.seq] (keepMessage n (newMessage .readReq p (mtuOf q) none 0) p t1)
      | none => t1) s

/-- A duplicate `READ_REQ` has all its responses resent, read afresh and without key checks (Table 6-6 order 3, R156). -/
def dupRead (p : RxPacket) (n : Nat) (q : Qp) (s : State) : State :=
  if (readBarred s q p.hdr).isSome || q.recv.suspended then s else serveRead n q p.hdr true (fun _ => true) s

/-! ### The command rows of arriving packets that carry a number of the peer -/

/-- PKT_WRITE (R150). -/
def execPktWrite (p : RxPacket) (s : State) : Host.Outcome State Fault Refusal :=
  whileLit s <|
  .next (classify .write p dupNothing (writeFresh .write) s)

/-- PKT_WRITE_IMM (R138, R150). -/
def execPktWriteImm (p : RxPacket) (s : State) : Host.Outcome State Fault Refusal :=
  whileLit s <|
  .next (classify .writeImm p dupNothing (writeFresh .writeImm) s)

/-- PKT_SEND (R138, R150). -/
def execPktSend (p : RxPacket) (s : State) : Host.Outcome State Fault Refusal :=
  whileLit s <|
  .next (classify .send p dupNothing sendFresh s)

/-- PKT_READ_REQ (R132, R150). -/
def execPktReadReq (p : RxPacket) (s : State) : Host.Outcome State Fault Refusal :=
  whileLit s <|
  .next (classify .readReq p dupRead readFresh s)

/-- PKT_ATOMIC_FADD (R133, R157). -/
def execPktAtomicFadd (p : RxPacket) (prior : W64) (s : State) : Host.Outcome State Fault Refusal :=
  whileLit s <|
  .next (classify .fadd p dupAtomic (atomicFresh .fadd prior) s)

/-- PKT_ATOMIC_CSWAP (R133, R157). -/
def execPktAtomicCswap (p : RxPacket) (prior : W64) (s : State) : Host.Outcome State Fault Refusal :=
  whileLit s <|
  .next (classify .cswap p dupAtomic (atomicFresh .cswap prior) s)

/-- PKT_FLUSH (R141, R150). -/
def execPktFlush (p : RxPacket) (s : State) : Host.Outcome State Fault Refusal :=
  whileLit s <|
  .next (classify .flush p dupNothing flushFresh s)

end Sys2Proof.Machine
end

