-- ==== Sys2Proof/Machine/Sched.lean ====
section
/-! DEFINITION. Shapers, policers and weighted fair queues (R181, R183, R184), and what a queue pair may send now: windows,
pacing, paths (R146, R176, R177). -/

namespace Sys2Proof.Machine

/-! ### Weighted fair queues (R181) -/

/-- Competitors that have gone idle leave; those newly backlogged start at the virtual time. -/
def wfqRefresh (q : Wfq) (backlogged : List Nat) : Wfq :=
  let kept := q.tags.filter fun t => backlogged.contains t.1
  let v := match kept.map fun t => t.2.start with
    | [] => q.v
    | x :: rest => max q.v (rest.foldl min x)
  { v := v, tags := backlogged.foldl (fun t i =>
      match tabGet t i with
      | some _ => t
      | none => tabSet t i { start := v, finish := v }) kept }

/-- The next finish tag of competitor `i` for a unit of length `len` at weight `w`. -/
def wfqFinish (q : Wfq) (i len w : Nat) : Rat :=
  match tabGet q.tags i with
  | some t => t.start + (len : Rat) / (max w 1 : Nat)
  | none => q.v + (len : Rat) / (max w 1 : Nat)

/-- The competitor with the smallest next finish tag; ties go to the lower number. Candidates are (number, length, weight)
in ascending order. -/
def wfqPick (q : Wfq) (cands : List (Nat × Nat × Nat)) : Option Nat :=
  match cands with
  | [] => none
  | c :: rest =>
    some (rest.foldl (fun (best : Nat × Rat) d =>
      let f := wfqFinish q d.1 d.2.1 d.2.2
      if f < best.2 then (d.1, f) else best) (c.1, wfqFinish q c.1 c.2.1 c.2.2)).1

/-- Competitor `i` has sent a unit of length `len` at weight `w`. -/
def wfqServe (q : Wfq) (i len w : Nat) : Wfq :=
  let f := wfqFinish q i len w
  { q with tags := tabSet q.tags i { start := max q.v f, finish := f } }

def emptyWfq : Wfq := { v := 0, tags := [] }

/-! ### Token buckets (R183, R184) -/

/-- Where a shaper stands: kind 0 queue pair `a`, kind 1 function `a` at port `b`, kind 2 traffic class `a` at port `b`. -/
def shaperKey (kind a b : Nat) : Nat := (kind * 2 ^ 20 + a) * 64 + b

/-- A packet may start under the shaper: it is absent, has no rate, or its tokens are above zero. -/
def shaperOpen (s : State) (key : Nat) : Bool :=
  match tabGet s.sched.shapers key with
  | some h => h.rate == 0 || decide (0 < h.tokens)
  | none => true

/-- A packet of `n` bytes has started; a shaper that is not in force yet counts nothing. -/
def shaperTake (key n : Nat) (s : State) : State :=
  { s with sched := { s.sched with shapers := tabMod s.sched.shapers key fun h =>
      if h.rate = 0 then h else { h with tokens := h.tokens - n } } }

/-- `n` ≥ 1 refills of one shaper, 1 µs apart; a change that waits is made before the first (R183, R185). Rates are in MB/s, which are
bytes per µs. -/
def refillShaper (n : Nat) (h : Shaper) : Shaper :=
  let h1 := match h.change with
    | some c => { h with rate := c.1, depth := c.2, change := none }
    | none => h
  { h1 with tokens := min (h1.tokens + n * h1.rate) h1.depth }

def refillPolicer (n : Nat) (p : Policer) : Policer :=
  let p1 := match p.change with
    | some c => { p with cir := c.1, pir := c.2.1, cbs := c.2.2.1, pbs := c.2.2.2, change := none }
    | none => p
  { p1 with tc := min (p1.tc + n * p1.cir) p1.cbs, tp := min (p1.tp + n * p1.pir) p1.pbs }

/-- A shaper or policer without a rate is absent: `shaper.set` with `RATE` 0 and `policer.set` with `CIR` 0 remove it. -/
def dropAbsent (s : State) : State :=
  { s with sched := { s.sched with shapers := s.sched.shapers.filter fun h => h.2.rate != 0 || h.2.change.isSome,
                                   policers := s.sched.policers.filter fun p => p.2.cir != 0 || p.2.change.isSome } }

/-- The next `n` refills of every shaper, up to instant `t`; the `shaper.set`s that waited for the first are answered. -/
def refillShapers (n t : Nat) (s : State) : State :=
  if n = 0 then s
  else
    finishCmds (fun d => match d with | .shaperSet .. => some (.ok, 0, 0, 0) | _ => none)
      (dropAbsent { s with sched := { s.sched with shapers := tabMap s.sched.shapers fun _ h => refillShaper n h },
                           dev := { s.dev with ticks := { s.dev.ticks with shaper := t } } })

/-- The same of every policer (R184). -/
def refillPolicers (n t : Nat) (s : State) : State :=
  if n = 0 then s
  else
    finishCmds (fun d => match d with | .policerSet .. => some (.ok, 0, 0, 0) | _ => none)
      (dropAbsent { s with sched := { s.sched with policers := tabMap s.sched.policers fun _ p => refillPolicer n p },
                           dev := { s.dev with ticks := { s.dev.ticks with policer := t } } })

/-- The shaper refills whose instants have come. -/
def dueShapers (s : State) : State :=
  refillShapers (s.dev.now / 1000 - s.dev.ticks.shaper / 1000) (s.dev.now / 1000 * 1000) s

/-- The policer refills whose instants have come. -/
def duePolicers (s : State) : State :=
  refillPolicers (s.dev.now / 1000 - s.dev.ticks.policer / 1000) (s.dev.now / 1000 * 1000) s

/-- Refills whose instants have come are made before anything is judged at this instant or later (R9, R185). -/
def dueRefills (s : State) : State := duePolicers (dueShapers s)

/-- Colours of RFC 2698 in colour-blind mode (R184): 0 green, 1 yellow, 2 red. -/
def policerColour (p : Policer) (len : Nat) : Nat × Policer :=
  if p.tp < len then (2, p)
  else if p.tc < len then (1, { p with tp := p.tp - len })
  else (0, { p with tp := p.tp - len, tc := p.tc - len })

/-! ### Rates (R175, R176). Rates are in bytes per ns. -/

/-- The line rate of a fabric port (Table 7-7): 89.24 GB/s. -/
def fabricRate : Rat := 8924 / 100

/-- `R_MIN`: 1 Gbit/s. -/
def rMin : Rat := 1 / 8

/-- `R_MAX` of a queue pair. -/
def rMax (s : State) (q : Qp) : Rat :=
  if isFabric q then 2 * fabricRate
  else ((maskPorts q.conf.portMask).map fun p => if breakout (portMode s p) = 0 then (0 : Rat) else 200).sum

/-- The class target T (R186). -/
def ccTarget (s : State) (q : Qp) : Nat :=
  match tabGet s.sched.classes q.conf.tc with
  | some c => if isFabric q then c.targetFab else c.targetEth
  | none => if isFabric q then 1000 else 8000

/-- `R_INIT` (Table 7-3). -/
def rInit (s : State) (q : Qp) : Rat :=
  let n := match tabGet s.sched.classes q.conf.tc with
    | some c => c.rInitShift.getD (if isFabric q then 0 else 2)
    | none => if isFabric q then 0 else 2
  rMax s q / (2 ^ n : Nat)

/-- The smallest R153 sample of the last 16 ms, a window that is open at its end (R9, R176). -/
def minRtt (q : Qp) (now : Nat) : Option Nat :=
  match q.cc.minRtt.filter fun x => decide (now < x.1 + 16000000) with
  | [] => none
  | x :: rest => some (rest.foldl (fun m y => min m y.2) x.2)

/-- W: the limit on bytes in flight (R176). -/
def flightLimit (s : State) (q : Qp) : Rat :=
  max (mtuOf q : Rat) (q.cc.rate * (((minRtt q s.dev.now).getD 0 + q.cc.target : Nat) : Rat))

/-- Bytes in flight: of packets that are not acknowledged, and of responses that the requester has not retired (R146, R176). -/
def flightBytes (q : Qp) : Nat :=
  ((q.send.flight.filter fun p => !p.sacked).map fun p => p.bytes).sum + (q.send.responses.map fun x => x.2).sum

/-! ### Paths (R177, R178) -/

def pathCc (q : Qp) (p : Nat) : PathCc :=
  (tabGet q.cc.paths p).getD
    { base := none, windows := [], qmin := none, weight := 1, zeroEpochs := 0, lossTimer := false, credit := 0 }

/-- Paths on which the queue pair may send now, with their weights: the admitted paths in equal share (R178), otherwise its
usable paths at their weights. -/
def openPaths (s : State) (q : Qp) : List (Nat × Rat) :=
  match admitted q with
  | some a => ((List.range (pathsOf s q)).filter fun p => bit a.pathMask.toNat p && pathUsable s q p).map fun p => (p, 1)
  | none =>
    ((List.range (pathsOf s q)).filter fun p => pathUsable s q p && decide (0 < (pathCc q p).weight)).map fun p =>
      (p, (pathCc q p).weight)

/-- Smooth weighted round robin: the path whose credit, after each path has gained its weight, is largest; ties go to the
lower number (R177). -/
def pickPath (q : Qp) (paths : List (Nat × Rat)) : Option Nat :=
  match paths with
  | [] => none
  | c :: rest =>
    some (rest.foldl (fun (best : Nat × Rat) d =>
      let v := (pathCc q d.1).credit + d.2
      if best.2 < v then (d.1, v) else best) (c.1, (pathCc q c.1).credit + c.2)).1

/-- A path that is due its probe packet of the epoch: at weight 0, its eight epochs over (R177). -/
def probePath (s : State) (q : Qp) : Option Nat :=
  if (admitted q).isSome then none
  else (List.range (pathsOf s q)).find? fun p =>
    pathUsable s q p && (pathCc q p).weight == 0 && (pathCc q p).zeroEpochs == 0

/-- Credits after a path has been chosen; a path at weight 0 has had its probe of this epoch. -/
def chargePath (n : Nat) (paths : List (Nat × Rat)) (chosen : Nat) (s : State) : State :=
  let total := (paths.map Prod.snd).sum
  let charge (q : Qp) (t : Tab PathCc) (d : Nat × Rat) : Tab PathCc :=
    let c := pathCc q d.1
    tabSet t d.1 { c with credit := c.credit + d.2 - (if d.1 = chosen then total else 0) }
  qpMod n (fun q =>
    if paths.any fun d => d.1 == chosen then { q with cc := { q.cc with paths := paths.foldl (charge q) q.cc.paths } }
    else { q with cc := { q.cc with paths := tabSet q.cc.paths chosen { pathCc q chosen with zeroEpochs := 1 } } }) s

/-- The path of a retransmission: (p + k) mod `PATHS`, skipping paths of zero share or without a link (R154). -/
def retransmitPath (s : State) (q : Qp) (x : TxPacket) : Option Nat :=
  let k := pathsOf s q
  let ok := (openPaths s q).map Prod.fst
  ((List.range k).map fun i => (x.path + x.sends + i) % k).find? fun p => ok.contains p

/-! ### What a queue pair may send next -/

/-- Wire bytes of a packet: 56 beyond its data (R191), and its seal block. -/
def wireLen (q : Qp) (x : TxPacket) : Nat := x.bytes + 56 + (if q.sealing.isSome then 32 else 0)

/-- The packet answers a request of the peer. -/
def isReply (k : TxKind) : Bool :=
  match k with
  | .readResp | .atomicResp => true
  | _ => false

/-- The message of one of the queue pair's own packets. -/
def ownMessage (q : Qp) (x : TxPacket) : Option TxMessage :=
  if isReply x.kind then none else q.send.messages.find? fun m => m.work == x.work

/-- Windows of R146, and the hold of `FAULT_WAIT` (Table 6-5). A read request that goes out again (R156) may have been retired, and so may
a part of a message that is sent again in full after a device reset (Table 6-14). -/
def windowOpen (q : Qp) (x : TxPacket) : Bool :=
  match x.kind with
  | .readResp => decide ((x.seq - q.recv.peerRetired).toNat < 16384)
  | .atomicResp => true
  | _ =>
    decide (x.retx ∨ (x.seq - q.send.ownRetired).toNat < 16384 ∨
      (seqBefore x.seq q.send.ownRetired ∧ (ownMessage q x).any (fun m => m.replay) = true)) && (q.send.faultWait.isNone || x.retx)

/-- The message of the packet waits `RNR_DELAY` (R139). -/
def rnrHeld (q : Qp) (x : TxPacket) : Bool := (ownMessage q x).any fun m => m.rnrAt.isSome

/-- Where the bytes of a packet come from: a DVA, or none for those that its entry carries, and for a packet without any. -/
def sourceOf (s : State) (x : TxPacket) : Option Nat :=
  if !carriesData x.kind ∨ x.bytes = 0 then none
  else if x.kind = .readResp then some (x.dva + x.offset)
  else
    match workGet s x.work with
    | some w => if entryInline w.entry then none else some (entryLocalDva w.entry + x.offset)
    | none => none

/-- The packet reads its source afresh, in a translation of its own: it is sent again (R103, R154). -/
def rereads (s : State) (x : TxPacket) : Bool := x.segs.isEmpty && (sourceOf s x).isSome

/-- The packet may go: windows, receiver-not-ready, and a source that its queue pair may read. A queue pair in ERROR answers requests that it
has served before, and sends nothing else (Table 6-6). -/
def mayGo (s : State) (n : Nat) (q : Qp) (x : TxPacket) : Bool :=
  windowOpen q x && !rnrHeld q x && !(rereads s x && isSuspended s (.qp n) false) &&
  (match q.phase with
   | .ready => true
   | .error => isReply x.kind
   | .created => false)

/-- The packet that a queue pair sends next, if it may: packets that wait to be sent again come first. -/
def headPacket (s : State) (n : Nat) (q : Qp) : Option TxPacket :=
  match q.send.flight.find? fun p => p.retx && mayGo s n q p with
  | some p => some p
  | none => q.send.queue.find? (mayGo s n q)

/-- A message of the packet may send: its sealing is not held by the error state. -/
def cryptoOpen (s : State) (q : Qp) : Bool := !(q.sealing.isSome && s.sec.errorState)

/-- The egress port that a path leaves on, as Table 7-4 numbers it. -/
def egressPort (s : State) (q : Qp) (p : Nat) : Option Nat :=
  if isFabric q then fabricEgress s (peerDevice q) p else (pathLink s q p).filter fun l => linkUp s l

/-- The packet and path that queue pair `q` would send now, if its windows, pacing and shaper let it (R146, R176, R183). -/
def nextToSend (s : State) (n : Nat) (q : Qp) : Option (TxPacket × Nat) :=
  match headPacket s n q with
  | none => none
  | some x =>
    let path := if x.retx then retransmitPath s q x else (probePath s q).orElse fun _ => pickPath q (openPaths s q)
    let idle := q.send.flight.isEmpty && q.send.responses.isEmpty
    let cc := (admitted q).isSome ||
      (decide (q.cc.nextAt ≤ (s.dev.now : Rat)) &&
        (x.retx || decide (((flightBytes q + x.bytes : Nat) : Rat) ≤ flightLimit s q) || idle))
    if cc && shaperOpen s (shaperKey 0 n 0) && cryptoOpen s q then path.map fun p => (x, p) else none

end Sys2Proof.Machine
end

