-- ==== Sys2Proof/Machine/Accept.lean ====
section
/-! DEFINITION. Acceptance of submission entries (R16, R17, R21, R68, R71, R79, R80, R145, R180, R498), and the consumption
of completions (R163). -/

namespace Sys2Proof.Machine

/-! ### Consumption of completions -/

/-- A record in DONE whose completion a `CQ_HEAD` of `head` shows as consumed (R163). -/
def consumedBy (head : W32) (w : Work) : Bool :=
  w.state == .done && decide ((head - BitVec.ofNat 32 w.cqCount - 1).toNat < 2 ^ 31)

/-- `CQ_HEAD` of completion ring `key` has been read as `head`: consumed records are freed (R163), and the rings it blocked
may be served again when there is room (R71). -/
def readCqHead (key : Nat) (head : W32) (s : State) : State :=
  let mine (w : Work) : Bool := match w.source with
    | .ring r => cqOfRing s r == some key
    | .request _ _ => false
  let gone := ((works s).filter fun p => mine p.2 && consumedBy head p.2).map Prod.fst
  let s1 := gone.foldl (fun t rec => freeWork rec t) s
  cqMod key (fun q =>
    { q with head := head,
             blocked := q.blocked && decide ((q.written + 2 ^ 32 - head.toNat) % 2 ^ 32 + q.outstanding ≥ 2 ^ q.log2) }) s1

/-! ### Checks at acceptance -/

/-- The function owns the `CONTEXT` of the entry (R68). -/
def ownsContext (s : State) (fn : Nat) (o : WorkOp) (e : W512) : Bool :=
  let c := entryContext e
  let qpMine : Bool := match tabGet s.qps c with
    | some q => q.conf.fn == fn && q.ending != some true
    | none => false
  match o with
  | .nop | .operator => true
  | .recv =>
    if recvToSrq e then (match tabGet s.srqs c with | some q => q.fn == fn | none => false) else qpMine
  | .coll => (match tabGet s.coll.groups c with | some g => g.fn == fn | none => false)
  | .attention => (match tabGet s.cache.pools c with | some p => p.fn == fn && !p.ending | none => false)
  | .write | .writeImm | .read | .send | .fadd | .cswap | .flush | .fence => qpMine

/-- The four checks of R68, in their order. -/
def entryCheck (s : State) (fn : Nat) (e : W512) : Option Status :=
  match workOpOf (entryOp e) with
  | none => some .invalidOpcode
  | some o =>
    if (o = .attention ∨ o = .operator) ∧ fnLevel1 s fn then some .levelUnsupported
    else if !(entryRsvdZero e && bodyRsvdZero o e) then some .invalidParam
    else if !ownsContext s fn o e then some .notPermitted
    else none

/-- The local range of an entry and the right it needs: none where the entry names no local byte (R130). -/
def localRange (o : WorkOp) (e : W512) : Option (W32 × Nat × Nat × Nat) :=
  match o with
  | .write | .writeImm | .send =>
    if entryInline e || entryLength e == 0 then none
    else some (entryLocalKey e, rightLocalRead, entryLocalDva e, entryLength e)
  | .read => if entryLength e = 0 then none else some (entryLocalKey e, rightLocalWrite, entryLocalDva e, entryLength e)
  | .recv => if entryLength e = 0 then none else some (entryKey e, rightLocalWrite, entryDva e, entryLength e)
  | .fadd | .cswap => if atomicReturn e then some (atomicKey e, rightLocalWrite, atomicDva e, 8) else none
  | .nop | .flush | .fence | .coll | .attention | .operator => none

/-- The operation carries `LENGTH`. -/
def hasLength (o : WorkOp) : Bool :=
  match o with
  | .write | .writeImm | .read | .send | .recv => true
  | _ => false

/-- `INLINE` and length limits (R130, Table 5-13, R390). `q`: the queue pair, where the entry names one. -/
def lengthCheck (q : Option Qp) (o : WorkOp) (e : W512) : Option Status :=
  let isInlineOp := o == .write || o == .writeImm || o == .send
  let roce := match q with | some x => x.conf.mode == .roce | none => false
  let isSealed := match q with | some x => x.sealing.isSome | none => false
  if isSealed && hasLength o && decide (2 ^ 32 < entryLength e) then some .length
  else if entryInline e && !(isInlineOp && decide (entryLength e ≤ 23)) then some .invalidParam
  else if hasLength o && decide (2 ^ 32 < entryLength e) then some .invalidParam
  else if roce && hasLength o && o != .recv && decide (2 ^ 31 < entryLength e) then some .invalidParam
  else if roce && o == .flush then some .invalidParam
  else none

/-- Alignment of atomics (R133). -/
def alignCheck (o : WorkOp) (e : W512) : Option Status :=
  if (o = .fadd ∨ o = .cswap) ∧ (entryDva e % 8 ≠ 0 ∨ (atomicReturn e ∧ atomicDva e % 8 ≠ 0)) then some .invalidParam
  else none

/-- `MSG_MAX` of the current admission (R193) and a withdrawn one (R32). -/
def admissionCheck (q : Option Qp) (o : WorkOp) (e : W512) : Option Status :=
  match q with
  | none => none
  | some x =>
    match x.admission with
    | none => none
    | some a =>
      if a.withdrawn then some (if isFabric x then .fabricPartition else .admissionDenied)
      else if hasLength o && o != .recv && decide (a.msgMax < entryLength e) then some .admissionDenied
      else none

/-- The checks of R498 that follow R68, in the model's order (log entry 13): lengths, alignment, local keys, admission. -/
def transportCheck (s : State) (fn : Nat) (o : WorkOp) (e : W512) : Option Status :=
  let q := if o = .recv ∧ recvToSrq e then none else tabGet s.qps (entryContext e)
  match lengthCheck q o e with
  | some x => some x
  | none =>
    match alignCheck o e with
    | some x => some x
    | none =>
      match (localRange o e).bind fun r => keyCheck s fn r.1 r.2.1 r.2.2.1 r.2.2.2 with
      | some x => some x
      | none => admissionCheck q o e

/-! ### Numbers -/

/-- The operation sends packets. -/
def sendsPackets (o : WorkOp) : Bool :=
  match o with
  | .write | .writeImm | .read | .send | .fadd | .cswap | .flush => true
  | _ => false

/-- Sequence numbers that an entry takes (R122, R132, R145). -/
def seqCount (q : Qp) (o : WorkOp) (e : W512) : Nat :=
  match o with
  | .write | .writeImm | .send => packetCount (entryLength e) (mtuOf q)
  | .read => 1 + packetCount (entryLength e) (mtuOf q)
  | _ => 1

/-- Wire bytes of a message (R191). -/
def wireOf (q : Qp) (m : Nat) : Nat := m + 56 * packetCount m (mtuOf q)

/-- Wire bytes that messages accepted earlier have still to send. -/
def owedWire (s : State) (q : Qp) : Nat :=
  ((q.send.queue.filter fun x => !isReply x.kind).map (wireLen q)).sum +
  (q.send.messages.map fun m =>
    match workGet s m.work with
    | some w =>
      let len := match workOpOf (entryOp w.entry) with
        | some .write | some .writeImm | some .send => entryLength w.entry
        | _ => 0
      if !m.started then wireOf q len else if m.built < len then wireOf q (len - m.built) else 0
    | none => 0).sum

/-- The instant at which an admitted queue pair's shaper holds the tokens of a whole message, beyond those that earlier messages take: the
acceptance, or one of the refills that follow it (R183, R194). A bucket holds at most its depth. -/
def tokensAt (s : State) (n : Nat) (q : Qp) (wire : Nat) : Nat :=
  match admitted q, tabGet s.sched.shapers (shaperKey 0 n 0) with
  | some a, some h =>
    let need : Int := (((a.lossBound + 1) * owedWire s q + min ((a.lossBound + 1) * wire) h.depth : Nat) : Int)
    if need ≤ h.tokens ∨ h.rate = 0 then s.dev.now else (s.dev.now / 1000 + ceilDiv (need - h.tokens).toNat h.rate) * 1000
  | _, _ => s.dev.now

/-- Fix the message, sequence and receive numbers of an accepted entry, in acceptance order (R145). -/
def assignNumbers (n rec : Nat) (s : State) : State :=
  match qpGet s n, workGet s rec with
  | some q, some w =>
    match workOpOf (entryOp w.entry) with
    | none => s
    | some o =>
      if !sendsPackets o then s
      else
        let count := seqCount q o w.entry
        let takes := o = .send ∨ o = .writeImm
        let m : TxMessage :=
          { work := rec, msg := q.send.nextMsg, firstSeq := q.send.nextSeq, packets := count,
            takes := decide takes, recvNum := if takes then q.send.nextRecv else 0, started := false, built := 0, tail := [], got := [],
            rnrTries := 0, rnrAt := none, repairs := [], repairAt := 0, boundFrom := tokensAt s n q (wireOf q (entryLength w.entry)),
            exempt := s.sched.recheckAt.isSome,
            phase := (match q.sealing with | some z => z.phase | none => false), replay := false }
        workMod rec (fun w => { w with msgNum := q.send.nextMsg })
          (sendMod n (fun x =>
            { x with nextMsg := x.nextMsg + 1, nextSeq := x.nextSeq + BitVec.ofNat 32 count,
                     nextRecv := if takes then x.nextRecv + 1 else x.nextRecv, messages := x.messages ++ [m] }) s)
  | _, _ => s

/-- The open entries of a queue pair that send packets and have not sent any. -/
def unsentOf (s : State) (n : Nat) : List Nat :=
  ((qpOpen s n).filter fun p => p.2.state == .accepted &&
    (match workOpOf (entryOp p.2.entry) with | some o => sendsPackets o | none => false)).map Prod.fst

/-- Entries of a sealed queue pair that have sent nothing complete with `CRYPTO_SELFTEST` (R401): they are the last it has numbered, and
their numbers are free again. -/
def failUnsent (n : Nat) (s : State) : State :=
  let recs := unsentOf s n
  match qpGet s n with
  | none => s
  | some q =>
    let gone := q.send.messages.filter fun m => recs.contains m.work
    let takers := (recs.filter fun r => match workGet s r with
      | some w => entryOp w.entry == workOpCode .send || entryOp w.entry == workOpCode .writeImm
      | none => false).length
    let ownKind (k : TxKind) : Bool := match k with
      | .readResp | .atomicResp | .ack | .nak | .readRepair => false
      | _ => true
    let f (x : QpSend) : QpSend :=
      let kept := { x with messages := x.messages.filter (fun m => !recs.contains m.work), waiting := x.waiting.filter (fun r => !recs.contains r),
                           queue := x.queue.filter fun p => !(ownKind p.kind && recs.contains p.work) }
      match gone with
      | m :: _ => { kept with nextSeq := m.firstSeq, nextMsg := m.msg, nextRecv := x.nextRecv - BitVec.ofNat 32 takers }
      | [] => kept
    completeAll recs .cryptoSelftest (sendMod n f s)

/-- A transport entry that has passed its checks meets its queue pair (Table 5-5). Posting a buffer and running an entry are
steps of their own. -/
def joinQp (n rec : Nat) (o : WorkOp) (s : State) : State :=
  match qpGet s n with
  | none => s
  | some q =>
    match q.phase with
    | .error => complete rec .flushed 0 none s
    | .created => if o = .recv then s else sendMod n (fun x => { x with waiting := x.waiting ++ [rec] }) s
    | .ready => assignNumbers n rec s

/-- What acceptance does to the entry beyond recording it: the checks that the device makes then, and the entry's place. DESIGN CHOICE (log
entry 96): R498 does not list the refusal of a buffer that is posted to a `USE_SRQ` queue pair directly (R129), so it is taken as a failure that
moves a READY queue pair to ERROR; in every state the entry completes `INVALID_PARAM`. -/
def judgeEntry (fn rec : Nat) (e : W512) (s : State) : State :=
  match entryCheck s fn e with
  | some x => complete rec x 0 none s
  | none =>
    match workOpOf (entryOp e) with
    | none => s
    | some o =>
      if isTransport (entryOp e) then
        match transportCheck s fn o e with
        | some x => complete rec x 0 none s
        | none =>
          if o = .recv ∧ recvToSrq e then s
          else
            match qpGet s (entryContext e) with
            | some q =>
              if o = .recv ∧ q.conf.useSrq then failEntry (entryContext e) rec .invalidParam 0 s
              else if q.sealing.isSome && s.sec.errorState then failUnsent (entryContext e) (joinQp (entryContext e) rec o s)
              else joinQp (entryContext e) rec o s
            | none => s
      else s

/-! ### Acceptance itself -/

/-- The local keys that an entry names (R97). -/
def entryKeys (e : W512) : List W32 :=
  let k (lo : Nat) : W32 := BitVec.ofNat 32 (bits e.toNat lo 32)
  match workOpOf (entryOp e) with
  | some .write | some .writeImm | some .send => if entryInline e then [] else [entryLocalKey e]
  | some .read => [entryLocalKey e]
  | some .fadd | some .cswap => if atomicReturn e then [atomicKey e] else []
  | some .recv => [entryKey e]
  | some .coll => [k 236, k 325, k 414]
  | some .attention => [k 304, k 393]
  | some .operator => [k 316]
  | some .nop | some .flush | some .fence | none => []

/-- The key of the pool that an attention request names (R286). -/
def poolKeys (s : State) (e : W512) : List W32 :=
  if entryOp e = 0x30 then (match tabGet s.cache.pools (entryContext e) with | some p => [p.key] | none => []) else []

/-- A user of a pool is pinned, and `kv.user.unpin` has not ended that (R285, R286). -/
def userPinned (s : State) (pool user : Nat) : Bool :=
  s.cache.pins.any fun p => p.pool == pool && p.user == user && p.ready && !p.ending

/-- A key as acceptance finds it (R95). -/
def viewOf (s : State) (fn : Nat) (key : W32) : KeyView :=
  match keyCheck12 s fn key with
  | .ok r => { key := key, region := some r, stale := false }
  | .error .keyStale => { key := key, region := none, stale := true }
  | .error _ => { key := key, region := none, stale := false }

/-- Checks 1 to 4 of R95 on a key that accepted work names, as they came out at its acceptance. -/
def workKeyCheck (w : Work) (key : W32) (right dva len : Nat) : Option Status :=
  match w.keys.find? fun v => v.key == key with
  | some v => (match v.region with
    | some r => keyCheck34 r right dva len
    | none => if v.stale then some .keyStale else some .keyInvalid)
  | none => some .keyInvalid

/-- Checks 1 and 2 of R95 in the same way. -/
def workKeyLive (w : Work) (key : W32) : Option Status :=
  match w.keys.find? fun v => v.key == key with
  | some v => if v.region.isSome then none else if v.stale then some .keyStale else some .keyInvalid
  | none => some .keyInvalid

/-- The record that an entry takes: its `WORK`, `COLL_OP` or `CACHE_REQ`. -/
def newWork (fn : Nat) (source : Source) (index : Nat) (e : W512) (s : State) : Work :=
  { fn := fn, source := source, index := index % 65536, entry := e, state := .accepted, status := .ok, result := 0, imm := none,
    cqCount := 0, msgNum := 0, claim := none, desc := none, acceptedAt := s.dev.now, order := s.dev.accepts,
    keys := (entryKeys e ++ poolKeys s e).map (viewOf s fn), solicited := false, begun := false, lost := false,
    pinned := entryOp e == 0x30 && userPinned s (entryContext e) (bits e.toNat 136 16) }

/-- Commit the journal records of an entry in the pair that its `CONTEXT` names (R16, R21, R274, R304): the number of its
record, or none where the pair is full (R17). -/
def journalEntry (fn : Nat) (source : Source) (index : Nat) (e : W512) (s : State) : Option (Nat × State) :=
  match journalPut (entryContext e) (.work (newWork fn source index e s)) s with
  | none => none
  | some (rec, s1) =>
    let s2 := { s1 with dev := { s1.dev with accepts := s1.dev.accepts + 1 } }
    if entryOp e = 0x20 ∨ entryOp e = 0x30 then
      match journalPut (entryContext e)
          (.desc (if entryOp e = 0x20 then 0x9 else 0xD) (BitVec.ofNat 376 (bits e.toNat 128 376))) s2 with
      | none => none
      | some (d, s3) => some (rec, workMod rec (fun w => { w with desc := some d }) s3)
    else some (rec, s2)

/-- R71 holds a ring's entries back: its completion ring could not take their completions. -/
def ringBlocked (s : State) (r : SubRing) (fn : Nat) : Bool :=
  match cqGet s fn r.cq with
  | some q => decide ((q.written + 2 ^ 32 - q.head.toNat) % 2 ^ 32 + q.outstanding ≥ 2 ^ q.log2)
  | none => true

/-- The mirror pair of the ring's next entry has no free record (R17). -/
def journalFull (s : State) (e : W512) : Bool := (journalEntry 0 (.ring 0) 0 e s).isNone

/-- A ring whose next entry could be accepted now. -/
def ringEligible (s : State) (fn : Nat) (r : SubRing) : Bool :=
  r.running && !ringBlocked s r fn &&
  (match r.prefetched with
   | e :: _ => !journalFull s e
   | [] => false)

/-- The rings of a function. -/
def ringsOf (s : State) (fn : Nat) : List (Nat × SubRing) := s.sqs.filter fun p => p.1 / 65536 == fn

/-- Weighted round robin of R79 lets ring `ring` take its next entry: it has entries left in the round and in its visit, or
no other eligible ring of the function does. -/
def ringTurn (s : State) (fn ring : Nat) (r : SubRing) : Bool :=
  let others := (ringsOf s fn).filter fun p => p.1 != pairKey fn ring && ringEligible s fn p.2
  let left (x : SubRing) : Bool := decide (x.roundTaken < x.weight * x.burst)
  if left r then decide (r.visitTaken < r.burst) || !(others.any fun p => left p.2)
  else !(others.any fun p => left p.2)

/-- The function is the one that the acceptance scheduler serves (R79, R180). -/
def fnTurn (s : State) (fn : Nat) : Bool :=
  let backlog := ((s.fns.filter fun p =>
    p.2.mode == .running && (ringsOf s p.1).any fun r => ringEligible s p.1 r.2).map fun p => (p.1, 1, p.2.share))
  wfqPick (wfqRefresh s.sched.acceptQueue (backlog.map fun c => c.1)) backlog == some fn

/-- Charge the acceptance of one entry to the scheduler and to the round. -/
def chargeAccept (fn ring : Nat) (s : State) : State :=
  let backlog := (s.fns.filter fun p =>
    p.2.mode == .running && (ringsOf s p.1).any fun r => ringEligible s p.1 r.2).map Prod.fst
  let share := match fnGet s fn with | some f => f.share | none => 1
  let renew := match tabGet s.sqs (pairKey fn ring) with
    | some r => decide (r.roundTaken ≥ r.weight * r.burst)
    | none => false
  let step (k : Nat) (r : SubRing) : SubRing :=
    if k / 65536 ≠ fn then r
    else
      let r1 := if renew then { r with roundTaken := 0 } else r
      if k = pairKey fn ring then
        { r1 with roundTaken := r1.roundTaken + 1, visitTaken := if r1.visitTaken ≥ r1.burst then 1 else r1.visitTaken + 1 }
      else { r1 with visitTaken := 0 }
  { s with sqs := tabMap s.sqs step,
           sched := { s.sched with acceptQueue := wfqServe (wfqRefresh s.sched.acceptQueue backlog) fn 1 share } }

/-- The accepted index of a ring advances, and its word is written (R21, R70). -/
def advanceAccepted (fn ring : Nat) (s : State) : State :=
  match tabGet s.sqs (pairKey fn ring) with
  | none => s
  | some r =>
    let s1 := { s with sqs := tabMod s.sqs (pairKey fn ring) fun x =>
      { x with accepted := x.accepted + 1, prefetched := x.prefetched.drop 1 } }
    let s2 := cqMod (pairKey fn r.cq) (fun q => { q with outstanding := q.outstanding + 1 }) s1
    match cqGet s fn r.cq with
    | some q => emit (.hostWrite fn (q.header.toNat + 8 * r.slot) false 64 (acceptedWord ((r.accepted + 1) % 65536) ring true)) s2
    | none => s2

/-- Accept the next entry of a ring, or leave everything as it is where the entry cannot be accepted now; a ring blocked by
R71 is remembered. -/
def acceptNext (fn ring : Nat) (s : State) : State :=
  match tabGet s.sqs (pairKey fn ring) with
  | none => s
  | some r =>
    match r.prefetched with
    | [] => s
    | e :: _ =>
      if !lit s ∨ fnModeOf s fn ≠ .running ∨ !r.running then s
      else if ringBlocked s r fn then cqMod (pairKey fn r.cq) (fun q => { q with blocked := true }) s
      else if !(ringTurn s fn ring r && fnTurn s fn) then s
      else
        match journalEntry fn (.ring (pairKey fn ring)) r.accepted e s with
        | none => s
        | some (rec, s1) => judgeEntry fn rec e (advanceAccepted fn ring (chargeAccept fn ring s1))

/-- ENTRY_ACCEPT (R21). -/
def execEntryAccept (fn ring : Nat) (s : State) : Host.Outcome State Fault Refusal :=
  whileLit s <| .next (acceptNext fn ring s)

/-- Every ring that waits for a record of a pair takes its next entry, in ring order, while the pair has room. -/
def execJournalBackpressureRelease (pair : Nat) (s : State) : Host.Outcome State Fault Refusal :=
  whileLit s <|
  let waits (r : SubRing) : Bool := match r.prefetched with
    | e :: _ => pairOf (entryContext e) == pair
    | [] => false
  .next ((s.sqs.filter fun p => waits p.2).foldl (fun t p => acceptNext (p.1 / 65536) (p.1 % 65536) t) s)

/-- The entry of a record is of operation `o`, has not begun and has not completed. -/
def readyWork (s : State) (rec : Nat) (o : WorkOp) : Option Work :=
  match workGet s rec with
  | some w => if entryOp w.entry = workOpCode o ∧ !w.begun ∧ (w.state = .accepted) then some w else none
  | none => none

/-- NOP (R68): it completes `OK`. -/
def execNop (rec : Nat) (s : State) : Host.Outcome State Fault Refusal :=
  whileLit s <|
  match readyWork s rec .nop with
  | some _ => .next (complete rec .ok 0 none s)
  | none => .next s

/-- A posted buffer joins its queue; buffers join in posting order (R129, R138). -/
def joinReceive (rec : Nat) (w : Work) (s : State) : State :=
  let n := entryContext w.entry
  let toSrq := recvToSrq w.entry
  let earlier := (works s).any fun p => entryOp p.2.entry == 0x10 && recvToSrq p.2.entry == toSrq &&
    entryContext p.2.entry == n && !p.2.begun && p.2.state == .accepted && decide (p.2.order < w.order)
  if earlier then s
  else
    let s1 := workMod rec (fun x => { x with begun := true }) s
    if toSrq then judgeSrq n { s1 with srqs := tabMod s1.srqs n fun q => { q with buffers := q.buffers ++ [rec] } }
    else recvMod n (fun r => { r with posted := r.posted ++ [(r.nextPost, rec)], nextPost := r.nextPost + 1 }) s1

/-- POST_RECEIVE (R129). -/
def execPostReceive (rec : Nat) (s : State) : Host.Outcome State Fault Refusal :=
  whileLit s <|
  match readyWork s rec .recv with
  | some w => .next (joinReceive rec w s)
  | none => .next s

/-- CQ_HEAD_POLL (R163): the device reads `CQ_HEAD` of a completion ring. -/
def execCqHeadPoll (fn cq : Nat) (head : W32) (s : State) : Host.Outcome State Fault Refusal :=
  whileLit s <|
  if dmaBarred s fn then .next s else .next (readCqHead (pairKey fn cq) head s)

end Sys2Proof.Machine
end

