-- ==== Sys2Proof/Machine/Send.lean ====
section
/-! DEFINITION. The sending side of a queue pair: starting entries (R131, R134), reading their sources by segments (R109),
sealing (R384 to R391), and the release of packets by the egress scheduler (R179 to R183). -/

namespace Sys2Proof.Machine

/-! ### Messages -/

def messageOf (q : Qp) (rec : Nat) : Option TxMessage := q.send.messages.find? fun m => m.work == rec

def messageMod (n rec : Nat) (f : TxMessage → TxMessage) (s : State) : State :=
  sendMod n (fun q => { q with messages := q.messages.map fun m => if m.work = rec then f m else m }) s

/-- Key index, DVA and length of an entry's remote range (R134). -/
def remoteRange (o : WorkOp) (e : W512) : Option (Nat × Nat × Nat) :=
  match o with
  | .write | .writeImm | .read => some (keyIndex (entryKey e), entryDva e, entryLength e)
  | .fadd | .cswap => some (keyIndex (entryKey e), entryDva e, 8)
  | _ => none

def changesRemote (o : WorkOp) : Bool :=
  match o with
  | .write | .writeImm | .fadd | .cswap => true
  | _ => false

/-- Two ranges under one key share a byte. -/
def rangesMeet (a b : Nat × Nat × Nat) : Bool :=
  a.1 == b.1 && decide (max a.2.1 b.2.1 < min (a.2.1 + a.2.2) (b.2.1 + b.2.2))

/-- An earlier entry keeps a later one from starting (R134). -/
def conflicts (o : WorkOp) (e : W512) (earlier : W512) : Bool :=
  match workOpOf (entryOp earlier) with
  | some p =>
    p == .fence ||
    (match remoteRange o e, remoteRange p earlier with
     | some a, some b => (changesRemote o || changesRemote p) && rangesMeet a b
     | _, _ => false)
  | none => false

/-- The entries of a queue pair that were accepted before `w` and have not completed: those whose `CONTEXT` names it. -/
def earlierOpen (s : State) (n : Nat) (w : Work) : List (Nat × Work) :=
  (qpOpen s n).filter fun p => decide (p.2.order < w.order) && !(entryOp p.2.entry == 0x10 && recvToSrq p.2.entry)

/-- A stream that waits for a miss slot holds back its own later accesses (R108). -/
def stalled (s : State) (x : StreamId) : Bool := s.missWait.contains x

/-- An accepted entry may start now: its queue pair is READY and not switched out on a translation fault (R111) or waiting for a miss slot, it
has its numbers, and nothing earlier holds it. -/
def mayStart (s : State) (n : Nat) (q : Qp) (o : WorkOp) (rec : Nat) (w : Work) : Bool :=
  q.phase == .ready && !isSuspended s (.qp n) false && !stalled s (.qp n) && cryptoOpen s q &&
  (match messageOf q rec with
   | some m => !m.started
   | none => false) &&
  !((earlierOpen s n w).any fun p => conflicts o w.entry p.2.entry)

/-! ### Send keys (R384, R391) -/

def sendKeyOf (z : QpSeal) (phase : Bool) : SealKey := if phase = z.phase then z.cur else z.old.getD z.cur

def setSendKey (z : QpSeal) (phase : Bool) (k : SealKey) : QpSeal :=
  if phase = z.phase then { z with cur := k } else { z with old := some k }

/-- The key has room for a message of `units` units and `len` bytes (R391). -/
def keyRoom (k : SealKey) (units len : Nat) : Bool :=
  decide (k.units + units + 65536 ≤ 2 ^ 32) && decide (k.bytes + len + 2 ^ 32 ≤ 2 ^ 48)

/-- The key is used up. -/
def keySpent (k : SealKey) : Bool := decide (2 ^ 32 ≤ k.units) || decide (2 ^ 48 ≤ k.bytes)

/-- A message of `len` bytes may start under its key; a queue pair without sealing has no key. -/
def keyAllows (q : Qp) (phase : Bool) (len : Nat) : Bool :=
  match q.sealing with
  | some z => keyRoom (sendKeyOf z phase) (unitCount len z.unitLog2) len
  | none => true

/-- Take the next unit counter of a send key for a unit of `plain` bytes; the first time that either count reaches half of
its limit, a warning is raised (R384, R391). -/
def takeCtr (n fn : Nat) (z : QpSeal) (phase : Bool) (plain : Nat) (s : State) : Nat × State :=
  let k := sendKeyOf z phase
  let units := k.units + 1
  let bytes := k.bytes + plain
  let halfU := decide (2 ^ 31 ≤ units) && !k.warnedUnits
  let halfB := decide (2 ^ 47 ≤ bytes) && !k.warnedBytes
  let k1 := { k with ctr := k.ctr + 1, reserved := if k.ctr ≥ k.reserved then k.reserved + 65536 else k.reserved, units := units,
                     bytes := bytes, warnedUnits := k.warnedUnits || halfU, warnedBytes := k.warnedBytes || halfB }
  let s1 := qpMod n (fun q => { q with sealing := some (setSendKey z phase k1) }) s
  let s2 := if halfU then raiseEvent .keyHalf fn nodeSelf n 0 s1 else s1
  (k.ctr, if halfB then raiseEvent .keyHalf fn nodeSelf n 1 s2 else s2)

/-! ### Building the packets of an entry -/

/-- The packets of a message whose bytes lie within [`lo`, `hi`), with the segments that they read from `src` on. -/
def packetsBetween (q : Qp) (kind : TxKind) (m : TxMessage) (len lo hi src : Nat) (segs : List Seg) : List TxPacket :=
  (List.range (packetCount len (mtuOf q))).filterMap fun i =>
    let off := i * mtuOf q
    let b := packetLen len (mtuOf q) off
    if lo ≤ off ∧ off + b ≤ hi then
      some { newPacket kind (m.firstSeq + BitVec.ofNat 32 i) m.msg m.work off b len with
        unit := unitOf q off, phase := m.phase, segs := segsIn segs (src + off) (src + off + b) }
    else none

/-- Packets are cut on `MTU` boundaries: bytes of the packets that are whole within the first `n` bytes. -/
def wholePackets (mtu len n : Nat) : Nat := if n ≥ len then len else n / mtu * mtu

/-- The DVA by whose 64 KiB boundaries the destination splits a transfer: that of the entry, and of a send, whose destination its peer
chooses, none but its source. -/
def splitBy (kind : TxKind) (e : W512) : Nat := if kind = .send then entryLocalDva e else entryDva e

/-- Translate the source of a message from where it stands, queue the packets that can be formed, and suspend the queue pair at
the first segment that meets a missing page (R109 to R111, R115). -/
def buildData (n rec : Nat) (kind : TxKind) (s : State) : State :=
  match qpGet s n, workGet s rec with
  | some q, some w =>
    match messageOf q rec with
    | none => s
    | some m =>
      let e := w.entry
      let len := entryLength e
      let fn := q.conf.fn
      let src := entryLocalDva e
      let from_ := match m.tail.getLast? with | some g => g.dva + g.len - src | none => m.built
      let r := if entryInline e || len == 0 then ([], none)
        else readable s fn (segments (len / 65536 + 2) (src + from_) (splitBy kind e + from_) (len - from_))
      let reach := if entryInline e then len else from_ + segBytes r.1
      let upTo := wholePackets (mtuOf q) len reach
      let segs := m.tail ++ r.1
      let s1 := messageMod n rec
        (fun m => { m with started := true, built := upTo, tail := if upTo = len then [] else segsIn segs (src + upTo) (src + reach) })
        (pushQueue n (packetsBetween q kind m len m.built upTo src segs) s)
      match r.2 with
      | none => s1
      | some g =>
        if dmaBarred s fn then failEntry n rec .translationFault 0 s1
        else suspend fn (.qp n) 0 0 rec g.1 g.2 (entryLocalKey e) s1
  | _, _ => s

/-- Queue the one packet of a read, an atomic or a flush. -/
def buildOne (n rec : Nat) (kind : TxKind) (s : State) : State :=
  match qpGet s n with
  | none => s
  | some q =>
    match messageOf q rec, workGet s rec with
    | some m, some w =>
      let total := if kind = .readReq then entryLength w.entry else 0
      messageMod n rec (fun m => { m with started := true, repairAt := s.dev.now })
        (pushQueue n [{ newPacket kind m.firstSeq m.msg rec 0 0 total with phase := m.phase }] s)
    | _, _ => s

/-- What starting an entry builds. -/
def buildWork (n rec : Nat) (o : WorkOp) (s : State) : State :=
  match o with
  | .write => buildData n rec .write s
  | .writeImm => buildData n rec .writeImm s
  | .send => buildData n rec .send s
  | .read => buildOne n rec .readReq s
  | .fadd => buildOne n rec .fadd s
  | .cswap => buildOne n rec .cswap s
  | .flush => buildOne n rec .flush s
  | .nop | .fence | .recv | .coll | .attention | .operator => s

/-- The local range of an entry lies in host memory that the device may not reach (R82). -/
def hostBarred (s : State) (fn : Nat) (o : WorkOp) (e : W512) : Bool :=
  dmaBarred s fn && (match localRange o e with
    | some r => touchesHost s fn r.2.2.1 r.2.2.2
    | none => false)

/-- An accepted entry of a queue pair starts, if it may (R131, R134, R391). -/
def startEntry (o : WorkOp) (rec : Nat) (s : State) : State :=
  match readyWork s rec o with
  | none => s
  | some w =>
    let n := entryContext w.entry
    match qpGet s n with
    | none => s
    | some q =>
      if !mayStart s n q o rec w then s
      else
        let phase := match messageOf q rec with | some m => m.phase | none => false
        let s1 := workMod rec (fun w => { w with begun := true }) s
        if hostBarred s w.fn o w.entry then failEntry n rec .flushed 0 s1
        else if !keyAllows q phase (if o = .read then 0 else if hasLength o then entryLength w.entry else 0) then
          failEntry n rec .keySpent 0 s1
        else buildWork n rec o s1

/-- WORK_WRITE (R131). -/
def execWorkWrite (rec : Nat) (s : State) : Host.Outcome State Fault Refusal :=
  whileLit s <| .next (startEntry .write rec s)
/-- WORK_WRITE_IMM (R131). -/
def execWorkWriteImm (rec : Nat) (s : State) : Host.Outcome State Fault Refusal :=
  whileLit s <| .next (startEntry .writeImm rec s)
/-- WORK_READ (R131, R132). -/
def execWorkRead (rec : Nat) (s : State) : Host.Outcome State Fault Refusal :=
  whileLit s <| .next (startEntry .read rec s)
/-- WORK_SEND (R131). -/
def execWorkSend (rec : Nat) (s : State) : Host.Outcome State Fault Refusal :=
  whileLit s <| .next (startEntry .send rec s)
/-- WORK_ATOMIC_FADD (R133). -/
def execWorkAtomicFadd (rec : Nat) (s : State) : Host.Outcome State Fault Refusal :=
  whileLit s <| .next (startEntry .fadd rec s)
/-- WORK_ATOMIC_CSWAP (R133). -/
def execWorkAtomicCswap (rec : Nat) (s : State) : Host.Outcome State Fault Refusal :=
  whileLit s <| .next (startEntry .cswap rec s)
/-- WORK_FLUSH (R141). -/
def execWorkFlush (rec : Nat) (s : State) : Host.Outcome State Fault Refusal :=
  whileLit s <| .next (startEntry .flush rec s)

/-- WORK_FENCE (R131, R134): it completes when every entry of the queue pair accepted earlier has completed. -/
def execWorkFence (rec : Nat) (s : State) : Host.Outcome State Fault Refusal :=
  whileLit s <|
  match readyWork s rec .fence with
  | none => .next s
  | some w =>
    match qpGet s (entryContext w.entry) with
    | some q =>
      if q.phase == .ready && (earlierOpen s (entryContext w.entry) w).isEmpty then .next (complete rec .ok 0 none s) else .next s
    | none => .next s

/-! ### Transmission -/

/-- Where the DVAs of a packet lead: as its segments found, or where it reads afresh, as the current epoch does (R103). -/
def packetMap (s : State) (q : Qp) (x : TxPacket) (dva : Nat) : Option (Target × Nat × Nat) :=
  if x.segs.isEmpty then translate s q.conf.fn dva
  else (x.segs.find? fun g => decide (g.dva ≤ dva ∧ dva < g.dva + g.len)).bind fun g => leads g.map dva

/-- The data bytes of a packet: from the entry itself, or read at the DVA of its source. -/
def packetPayload (s : State) (q : Qp) (x : TxPacket) (fetched : List Byte) : List Byte :=
  match sourceOf s x with
  | some dva => readVia s (packetMap s q x) dva x.bytes fetched
  | none =>
    match workGet s x.work with
    | some w => if carriesData x.kind && entryInline w.entry then slice (entryPayload w.entry) x.offset x.bytes else []
    | none => []

/-- A sender asks for an acknowledgement without delay on the last packet of admitted flows, and of every message under
LATENCY (R169). -/
def wantsAck (s : State) (q : Qp) (last : Bool) : Bool := last && ((admitted q).isSome || s.dev.profile == .latency)

/-- The header of packet `x` as it leaves on path `p`. DESIGN CHOICE (log entry 100): bits [63:57] of a `REMOTE_DVA`, which no check of the
initiator names, do not leave: `MSG_DVA` has zeros there (Table 5-1). -/
def packetHeader (s : State) (n : Nat) (q : Qp) (x : TxPacket) (p : Nat) : EhtHeader :=
  let whole := !carriesData x.kind
  let last := whole || decide (x.total ≤ x.offset + x.bytes)
  let e := match workGet s x.work with | some w => w.entry | none => 0
  let m := q.send.messages.find? fun m => m.msg == x.msg
  let named := match x.kind with
    | .write | .writeImm | .readReq | .fadd | .cswap => true
    | _ => false
  let numbered := x.kind == .send || x.kind == .writeImm
  let own := !(x.kind == .readResp || x.kind == .atomicResp)
  { baseHeader s n q x.kind p with
    first := whole || x.offset == 0, last := last, ackReq := wantsAck s q last,
    solicited := own && entrySolicited e, immPresent := x.kind == .writeImm && last, isSealed := q.sealing.isSome,
    retx := decide (0 < x.sends) || (own && (match m with | some m => m.replay | none => false)), seq := wireSeq q x.seq, msgNum := x.msg,
    recvNum := if numbered then (match m with | some m => m.recvNum | none => 0) else 0,
    msgOffset := BitVec.ofNat 32 x.offset, msgLengthM1 := BitVec.ofNat 32 (x.total - 1),
    rkey := if named then entryKey e else 0, msgDva := if named then BitVec.ofNat 64 (bits (entryDva e) 0 57) else 0 }

/-- The extension headers of packet `x`. -/
def packetExt (s : State) (x : TxPacket) (last : Bool) : Option W32 × Option (W64 × W64) :=
  let e := match workGet s x.work with | some w => w.entry | none => 0
  match x.kind with
  | .writeImm => (if last then some (entryImmediate e) else none, none)
  | .fadd => (none, some (atomicOperand e, 0))
  | .cswap => (none, some (atomicOperand e, atomicCompare e))
  | .atomicResp => (none, some (x.value, 0))
  | _ => (none, none)

/-- The counter of the present sealing attempt of the packet's unit, if one is open: that of another packet of the unit. -/
def openCtr (q : Qp) (x : TxPacket) : Option Nat :=
  match x.ctr with
  | some c => some c
  | none => (q.send.flight.find? fun y => y.msg == x.msg && y.unit == x.unit && !y.retx && y.ctr.isSome &&
      (y.kind == x.kind)).bind fun y => y.ctr

/-- Keep the counter of an attempt with the packets of its unit that still wait. -/
def noteCtr (n : Nat) (x : TxPacket) (c : Nat) (s : State) : State :=
  let mark (y : TxPacket) : TxPacket :=
    if y.msg = x.msg ∧ y.unit = x.unit ∧ y.kind = x.kind ∧ y.ctr = none then { y with ctr := some c } else y
  sendMod n (fun q => { q with queue := q.queue.map mark, flight := q.flight.map fun y => if y.retx then mark y else y }) s

/-- Seal a packet (R385, R386): its seal block and ciphertext, and the state with the unit's ciphertext so far. -/
def sealPacket (n : Nat) (q : Qp) (z : QpSeal) (a : Accord) (x : TxPacket) (h : EhtHeader) (ext : List Byte)
    (payload : List Byte) (s : State) : SealBlock × List Byte × State :=
  let len := if carriesData x.kind then unitLen x.total z.unitLog2 x.unit else 0
  let c := match openCtr q x with
    | some c => (c, s)
    | none => takeCtr n q.conf.fn z x.phase len s
  let key := Config.sealKey a.secret (sendKeyOf z x.phase).label Config.serial (BitVec.ofNat 20 n) (BitVec.ofNat 20 q.conf.peerQp.toNat)
  let off := x.offset - x.unit * 2 ^ z.unitLog2
  let text := gcmXor key (BitVec.ofNat 64 c.1) off payload
  let last := !carriesData x.kind || decide (len ≤ off + x.bytes)
  let sofar := (tabGet z.acc c.1).getD [] ++ text
  let tag := Config.gcmTag key (BitVec.ofNat 64 c.1) (unitAad h x.unit ++ ext) sofar
  let s1 := qpMod n (fun q => { q with sealing := q.sealing.map fun y =>
    { y with acc := if last then tabErase y.acc c.1 else tabSet y.acc c.1 sofar } }) (noteCtr n x c.1 c.2)
  ({ keyPhase := x.phase, unitLast := last, rsvd0 := 0, unitIndex := BitVec.ofNat 22 x.unit, unitCtr := BitVec.ofNat 64 c.1,
     rsvd1 := 0, tag := if last then tag else 0 }, text, s1)

/-- A further copy of a packet joins the egress hierarchy of the port that its path leaves on (R193). -/
def queueCopy (n : Nat) (q : Qp) (tc : Nat) (h : EhtHeader) (w : WirePart) (s : State) (path : Nat) : State :=
  sendWire n q path tc (isAdmitted q) { h with pathTag := BitVec.ofNat 4 path } w s

/-- Put packet `x` on the wire on path `p` (R125, R193, R385). -/
def putPacket (n : Nat) (q : Qp) (x : TxPacket) (p : Nat) (copies : List Nat) (fetched : List Byte) (s0 : State) : State :=
  let s := match sourceOf s0 x with | some dva => wakeVia (packetMap s0 q x) dva x.bytes s0 | none => s0
  let payload := packetPayload s q x fetched
  let h := packetHeader s n q x p
  let ext := packetExt s x h.last
  let acc := q.sealing.bind fun z => (tabGet s.sec.accords z.accord).map fun a => (z, a)
  let w := match acc with
    | some za =>
      let r := sealPacket n q za.1 za.2 x h (extBytes ext.1 ext.2) payload s
      (WirePart.data ext.1 ext.2 (some r.1) r.2.1, r.2.2)
    | none => (WirePart.data ext.1 ext.2 none payload, s)
  let tc := effectiveTc q
  let s1 := match wayOut w.2 q p tc (isAdmitted q) h w.1 with
    | some out => sendNow out.1 tc out.2 w.2
    | none => w.2
  copies.foldl (queueCopy n q tc h w.1) s1

/-- Paths of the further copies of a packet: distinct admitted paths (R193). -/
def copyPaths (s : State) (q : Qp) (p : Nat) : List Nat :=
  match admitted q with
  | some a => if isFabric q then [] else (((openPaths s q).map Prod.fst).filter (· != p)).take a.lossBound
  | none => []

/-- The packet that is sent among those that wait. -/
def isPacket (x y : TxPacket) : Bool := y.kind == x.kind && y.seq == x.seq

/-- The packet has left: it waits for acknowledgement, or, for a response, for the requester to retire its number (R146, R147). -/
def afterSend (n : Nat) (x : TxPacket) (p : Nat) (s : State) : State :=
  let gone (q : QpSend) : QpSend := { q with queue := dropFirst (isPacket x) q.queue }
  match x.kind with
  | .readResp => settle n [x.seq] (sendMod n (fun q => { gone q with responses := q.responses ++ [(x.seq, x.bytes)] }) s)
  | .atomicResp | .ack | .nak | .readRepair => sendMod n gone s
  | .write | .writeImm | .readReq | .send | .fadd | .cswap | .flush =>
    let s1 := workMod x.work (fun w => { w with state := if w.state = .accepted then .active else w.state }) s
    sendMod n (fun q =>
      let ctr := ((if x.retx then q.flight else q.queue).find? (isPacket x)).bind fun y => y.ctr
      let y := { x with path := if x.sends = 0 then p else x.path, lastPath := p, sentAt := s.dev.now, order := q.txOrder,
                        sends := x.sends + 1, retx := false, ctr := ctr, segs := [] }
      { (if x.retx then q else gone q) with
        flight := if x.retx then q.flight.map fun z => if z.seq = x.seq then y else z else q.flight ++ [y],
        txOrder := q.txOrder + 1, outSince := some (q.outSince.getD s.dev.now) }) s1

/-- A message may not go on under a spent key (R391). -/
def spentMidMessage (q : Qp) (x : TxPacket) : Bool :=
  match q.sealing with
  | some z => (openCtr q x).isNone && keySpent (sendKeyOf z x.phase)
  | none => false

/-- The segment of a packet that reads its source afresh and meets a missing page there (R110). -/
def absentAgain (s : State) (q : Qp) (x : TxPacket) : Option (Nat × Nat) :=
  match sourceOf s x, rereads s x with
  | some dva, true =>
    let dst := match workGet s x.work with | some w => splitBy x.kind w.entry + x.offset | none => dva
    (readable s q.conf.fn (segments 3 dva dst x.bytes)).2
  | _, _ => none

/-- Release one packet of queue pair `n` on path `p`, or suspend the queue pair where a source that is read again is not present. -/
def releasePacket (n : Nat) (q : Qp) (x : TxPacket) (p : Nat) (fetched : List Byte) (s : State) : State :=
  if spentMidMessage q x then
    match workGet s x.work with
    | some _ => failEntry n x.work .keySpent 0 s
    | none => qpToError n s
  else
    match absentAgain s q x with
    | some g =>
      if dmaBarred s q.conf.fn then failEntry n x.work .translationFault 0 s
      else suspend q.conf.fn (.qp n) 0 0 x.work g.1 g.2 (match workGet s x.work with | some w => entryLocalKey w.entry | none => 0) s
    | none =>
      let copies := copyPaths s q p
      let wire := wireLen q x
      let s1 := if (admitted q).isSome then s
        else ccMod n (fun c => { c with nextAt := max c.nextAt s.dev.now + (wire : Rat) / (max c.rate rMin) }) s
      let s2 := shaperTake (shaperKey 0 n 0) (wire * (1 + copies.length)) s1
      afterSend n x p (chargePath n (openPaths s q) p (putPacket n q x p copies fetched s2))

/-! ### The egress hierarchy (R179, Table 7-2) -/

/-- A traffic class of an Ethernet link is held by a received pause (R358). -/
def tcPaused (s : State) (port tc : Nat) : Bool :=
  match tabGet s.eth.links port with
  | some l => (match tabGet l.pausedUntil tc with | some t => decide (s.dev.now < t.2) | none => false)
  | none => false

/-- A link in low-power idle sends nothing until it has woken (R364). -/
def linkAsleep (s : State) (port : Nat) : Bool :=
  match tabGet s.eth.links port with
  | some l => l.txLpi
  | none => false

/-- The oldest `eth.frame.send` of a link whose frame has not left (R361). -/
def pendingFrame (s : State) (link : Nat) : Option (Pending × Nat × List Byte) :=
  s.commands.findSome? fun p => match p.what with
    | .frameSend l tc _ frame => if l = link then some (p, tc, frame) else none
    | _ => none

/-- What a stream would send on a port: a packet of a queue pair's line on a path, a unit that waits at the port, or a management frame. -/
inductive CandWhat where
  | packet (qp : Nat) (x : TxPacket) (path : Nat)
  | unit (u : EgressUnit)
  | frame (p : Pending) (bytes : List Byte)
deriving DecidableEq, Repr

/-- A competitor's next unit: its traffic class, function, stream and length. -/
structure Cand where
  tc     : Nat
  fn     : Nat
  stream : Nat
  len    : Nat
  what   : CandWhat
deriving DecidableEq, Repr

/-- The number under which management frames compete as a stream of PF0. -/
def frameStream : Nat := 2 ^ 24

/-- Bytes of a management frame on the wire: padded to 60, and its FCS (R361). -/
def frameBytes (frame : List Byte) : Nat := max 60 frame.length + 4

/-- What streams could send on a port now. A stream's units go before the packets of its line. -/
def candidates (s : State) (port : Nat) : List Cand :=
  ((s.sched.units.filter fun u => u.port == port).map fun u =>
    { tc := u.tc, fn := u.fn, stream := u.stream, len := u.len, what := .unit u }) ++
  (s.qps.filterMap fun r =>
    match nextToSend s r.1 r.2 with
    | some (x, p) =>
      if egressPort s r.2 p = some port then
        some { tc := effectiveTc r.2, fn := r.2.conf.fn, stream := streamKey (.qp r.1), len := wireLen r.2 x, what := .packet r.1 x p }
      else none
    | none => none) ++
  (match pendingFrame s port with
   | some (p, tc, frame) => [{ tc := tc, fn := 0, stream := frameStream, len := frameBytes frame, what := .frame p frame }]
   | none => [])

/-- Queue pairs that have something to send on a port, whether or not it may go now. -/
def qpsWaiting (s : State) (port : Nat) : List (Nat × Qp) :=
  s.qps.filter fun r => (!r.2.send.queue.isEmpty || r.2.send.flight.any fun x => x.retx) &&
    (openPaths s r.2).any fun p => egressPort s r.2 p.1 == some port

/-- The streams with backlog at a port, as class, function and stream: what shapers, pauses and windows hold back counts too. -/
def backlog (s : State) (port : Nat) : List (Nat × Nat × Nat) :=
  ((candidates s port).map fun c => (c.tc, c.fn, c.stream)) ++
  (qpsWaiting s port).map fun r => (effectiveTc r.2, r.2.conf.fn, streamKey (.qp r.1))

/-- Shapers and pauses of a port let a unit of a class and function start (R183, R358). During a droop of `VDD_CORE` no data mover reads a
packet's source (R420). -/
def mayLeave (s : State) (port : Nat) (c : Cand) : Bool :=
  (decide (32 ≤ port) || linkUp s port) && !linkAsleep s port && !tcPaused s port c.tc &&
  shaperOpen s (shaperKey 1 c.fn port) && shaperOpen s (shaperKey 2 c.tc port) &&
  (match c.what with
   | .packet _ x _ => s.droop.coreSince.isNone || (sourceOf s x).isNone
   | .unit { item := .eht { part := .data .., .. }, .. } => true
   | .unit u => decide (2 ^ 20 ≤ u.stream) || shaperOpen s (shaperKey 0 u.stream 0)
   | _ => true)

def tcWeight (s : State) (port tc : Nat) : Nat := (((tabGet s.sched.tcWeights port).getD []).getD tc 1)

def fnShare (s : State) (fn : Nat) : Nat :=
  match fnGet s fn with
  | some f => f.share
  | none => 1

def streamWeight (s : State) (n : Nat) : Nat := match qpGet s n with | some q => q.weight | none => 1

/-- Where the weighted fair queue of a traffic class at a port, or of a function in it, stands. -/
def fnQueueKey (port tc : Nat) : Nat := port * 8 + tc
def streamQueueKey (port tc fn : Nat) : Nat := fnQueueKey port tc * 256 + fn

/-- The competitor of a weighted fair queue that is served next: each of `keys` would send what `next` says, at its weight (R181). -/
def pickNext (w : Wfq) (keys : List Nat) (next : Nat → Option Cand) (weight : Nat → Nat) : Option Cand :=
  let l := keys.filterMap fun k => (next k).map fun c => (k, c.len, weight k)
  (wfqPick w l).bind next

/-- The next unit of a function in a class of a port, of a class, and of the port: strict priority above TC 3, weighted fair queueing below
(Table 7-2). `all` is the backlog, `l` what may leave now. -/
def pickStream (s : State) (port tc fn : Nat) (all : List (Nat × Nat × Nat)) (l : List Cand) : Option Cand :=
  let mine := l.filter fun c => c.tc == tc && c.fn == fn
  let w := wfqRefresh ((tabGet s.sched.streamQueues (streamQueueKey port tc fn)).getD emptyWfq)
    (sortedNats ((all.filter fun b => b.1 == tc && b.2.1 == fn).map fun b => b.2.2))
  pickNext w (sortedNats (mine.map fun c => c.stream)) (fun k => mine.find? fun c => c.stream == k) (streamWeight s)

def pickFn (s : State) (port tc : Nat) (all : List (Nat × Nat × Nat)) (l : List Cand) : Option Cand :=
  let w := wfqRefresh ((tabGet s.sched.fnQueues (fnQueueKey port tc)).getD emptyWfq)
    (sortedNats ((all.filter fun b => b.1 == tc).map fun b => b.2.1))
  pickNext w (sortedNats ((l.filter fun c => c.tc == tc).map fun c => c.fn)) (fun f => pickStream s port tc f all l) (fnShare s)

def pickTc (s : State) (port : Nat) (all : List (Nat × Nat × Nat)) (l : List Cand) : Option Cand :=
  match [7, 6, 5, 4].find? fun t => l.any fun c => c.tc == t with
  | some t => pickFn s port t all l
  | none =>
    let w := wfqRefresh ((tabGet s.sched.tcQueues port).getD emptyWfq) (sortedNats ((all.map fun b => b.1).filter (· < 4)))
    pickNext w (sortedNats (l.map fun c => c.tc)) (fun t => pickFn s port t all l) (tcWeight s port)

/-- The weighted fair queues of a port follow its backlog: who has gone idle leaves, who has become backlogged starts at V (R181). -/
def followBacklog (port : Nat) (c : Cand) (s : State) : State :=
  let all := backlog s port
  let tcs := sortedNats ((all.map fun b => b.1).filter (· < 4))
  let fns := sortedNats ((all.filter fun b => b.1 == c.tc).map fun b => b.2.1)
  let streams := sortedNats ((all.filter fun b => b.1 == c.tc && b.2.1 == c.fn).map fun b => b.2.2)
  let at_ (t : Tab Wfq) (k : Nat) (l : List Nat) : Tab Wfq := tabSet t k (wfqRefresh ((tabGet t k).getD emptyWfq) l)
  { s with sched := { s.sched with tcQueues := at_ s.sched.tcQueues port tcs,
                                   fnQueues := at_ s.sched.fnQueues (fnQueueKey port c.tc) fns,
                                   streamQueues := at_ s.sched.streamQueues (streamQueueKey port c.tc c.fn) streams } }

/-- The three levels are charged with the unit that is sent (R181). -/
def chargeQueues (port : Nat) (c : Cand) (s : State) : State :=
  let serve (t : Tab Wfq) (k i w : Nat) : Tab Wfq := tabSet t k (wfqServe ((tabGet t k).getD emptyWfq) i c.len w)
  { s with sched := { s.sched with
      tcQueues := if c.tc < 4 then serve s.sched.tcQueues port c.tc (tcWeight s port c.tc) else s.sched.tcQueues,
      fnQueues := serve s.sched.fnQueues (fnQueueKey port c.tc) c.fn (fnShare s c.fn),
      streamQueues := serve s.sched.streamQueues (streamQueueKey port c.tc c.fn) c.stream (streamWeight s c.stream) } }

/-! ### Management frames (R361, R362) -/

/-- 0 unicast, 1 multicast, 2 broadcast, by the first octet of the destination and its bytes. -/
def castKind (frame : List Byte) : Nat :=
  if frame.take 6 = List.replicate 6 0xFF then 2 else if bit (frame.headD 0).toNat 0 then 1 else 0

/-- The frame leaves: padded to 60 bytes, with its FCS, in its traffic class; the reply brings its bytes and its egress stamp. -/
def sendFrame (link : Nat) (p : Pending) (tc : Nat) (frame : List Byte) (s : State) : State :=
  let padded := frame ++ List.replicate (60 - frame.length) 0
  let n := frameBytes frame
  answer p .ok n s.dev.now 0
    (countTx link n (castKind frame) (emit (.frame link tc padded s.dev.now) { s with commands := s.commands.erase p }))

/-- A unit leaves its port. An acknowledgement is charged to the shaper of its queue pair; a copy was, with the first (R193). -/
def sendUnit (u : EgressUnit) (s : State) : State :=
  let s1 := { s with sched := { s.sched with units := s.sched.units.erase u } }
  match u.item with
  | .eht e =>
    let s2 := match e.part with
      | .data .. => s1
      | .ack _ | .nak _ | .repair _ => shaperTake (shaperKey 0 u.stream 0) u.len s1
    sendNow u.port u.tc e s2
  | .ring l => { s1 with fabric := { s1.fabric with inject := s1.fabric.inject ++ l.map fun w => { w with since := s1.dev.now } } }
  | .spur rec result l => resultGone rec result (sendFlits (u.port - 32) l s1)

/-- The egress scheduler of a port releases one unit: class, function, stream (R179). -/
def transmitOn (port : Nat) (fetched : List Byte) (s : State) : State :=
  match pickTc s port (backlog s port) ((candidates s port).filter (mayLeave s port)) with
  | none => s
  | some c =>
    let s1 := chargeQueues port c (followBacklog port c s)
    let s2 := shaperTake (shaperKey 1 c.fn port) c.len (shaperTake (shaperKey 2 c.tc port) c.len s1)
    followBacklog port c
      (match c.what with
       | .packet n x p => (match qpGet s2 n with | some q => releasePacket n q x p fetched s2 | none => s2)
       | .unit u => sendUnit u s2
       | .frame p frame => sendFrame port p c.tc frame s2)

/-- PACKET_TRANSMIT (R179): `fetched` holds the bytes that the packet's source reads by DMA. -/
def execPacketTransmit (port : Nat) (fetched : List Byte) (s : State) : Host.Outcome State Fault Refusal :=
  whileLit s <| .next (transmitOn port fetched (dueRefills s))

end Sys2Proof.Machine
end

