-- ==== Sys2Proof/Machine/Acks.lean ====
section
/-! DEFINITION. Acknowledgements at the sender (R146, R152 to R159, R168, R170, R173), read responses and repairs (R156),
the timers of a queue pair, and its congestion epochs (R175, R177). -/

namespace Sys2Proof.Machine

/-! ### Loss -/

/-- Packets of a queue pair are to be sent again, uncounted. On a sealed queue pair every unsettled packet of their units
goes with them, under a fresh counter (R387). -/
def resendWhere (n : Nat) (sel : TxPacket → Bool) (s : State) : State :=
  sendMod n (fun q =>
    let hit := q.flight.filter fun x => sel x && !x.sacked
    { q with flight := q.flight.map fun x =>
        if x.sacked then x
        else if sel x then { x with retx := true, passed := 0, ctr := none }
        else if x.ctr.isSome && hit.any (fun y => y.msg == x.msg && y.unit == x.unit && y.kind == x.kind) then
          { x with retx := true, passed := 0, ctr := none }
        else x }) s

/-- A packet is not resent, and not counted, while `FAULT_WAIT` holds its queue pair or `RNR_DELAY` its message (Table 6-5, R139, R155). -/
def heldBack (q : Qp) (x : TxPacket) : Bool := q.send.faultWait.isSome || rnrHeld q x

/-- The packet numbered `seq` is taken as lost (R154, R155): it is sent again, and an eighth counted transmission ends its
message. A transmission counts when the peer has been heard since the one before it. -/
def losePacket (n : Nat) (seq : W32) (s : State) : State :=
  match qpGet s n with
  | none => s
  | some q =>
    match q.send.flight.find? fun x => x.seq == seq && !x.sacked && !x.retx && !heldBack q x with
    | none => s
    | some x =>
      let counts := decide (x.sentAt < q.send.lastHeard)
      if counts ∧ x.counted ≥ 7 then failEntry n x.work .retryExhausted 0 s
      else
        resendWhere n (fun y => y.seq == seq) (sendMod n (fun q => { q with flight := q.flight.map fun y =>
          if y.seq = seq then { y with counted := y.counted + flag counts } else y }) s)

/-- Several packets are taken as lost. -/
def loseAll (n : Nat) (l : List W32) (s : State) : State := l.foldl (fun t x => losePacket n x t) s

/-! ### Completion at the initiator (R159) -/

/-- A message's completion is late: after its bound, on an Ethernet flow that has recorded a violation since the message was
accepted (R196). The bound does not cover a message that was accepted before the re-check that an event called for (R32). -/
def missedDeadline (s : State) (q : Qp) (m : TxMessage) : Bool :=
  match admitted q, workGet s m.work with
  | some a, some w =>
    !isFabric q && !m.exempt && decide (m.boundFrom + a.bound < s.dev.now) &&
      (match q.violatedAt with | some t => decide (w.acceptedAt ≤ t) | none => false)
  | _, _ => false

/-- A message ends well: its entry completes, late or in time, and the message is forgotten. -/
def finishMessage (n : Nat) (m : TxMessage) (result : Nat) (s : State) : State :=
  match qpGet s n with
  | none => s
  | some q =>
    complete m.work (if missedDeadline s q m then .deadlineMissed else .ok) result none
      (sendMod n (fun x => { x with messages := x.messages.filter (fun y => y.work != m.work),
                                    flight := x.flight.filter fun y => !(y.work == m.work && y.kind == .readReq) }) s)

/-- Bytes that an entry's completion reports on success. -/
def okResult (s : State) (m : TxMessage) : Nat :=
  match workGet s m.work with
  | some w => (match workOpOf (entryOp w.entry) with
    | some o => if hasLength o then entryLength w.entry else 0
    | none => 0)
  | none => 0

/-- The cumulative point alone completes the message (Table 6-7). -/
def byCum (s : State) (m : TxMessage) : Bool :=
  match workGet s m.work with
  | some w => (match workOpOf (entryOp w.entry) with
    | some .write | some .writeImm | some .send | some .flush => true
    | _ => false)
  | none => false

/-- A number of the queue pair's own space may retire: it is no response of a read that is still missing (R146). -/
def retirable (s : State) (q : Qp) (x : W32) : Bool :=
  q.send.messages.all fun m =>
    let d := (x - m.firstSeq).toNat
    d == 0 || decide (m.packets ≤ d) || byCum s m || m.got.any fun g => g.1 == x

/-- `OWN_RETIRED` advances (R146). -/
def retire (fuel n : Nat) (s : State) : State :=
  match fuel with
  | 0 => s
  | fuel + 1 =>
    match qpGet s n with
    | some q =>
      if seqBefore q.send.ownRetired q.send.cumAcked && retirable s q q.send.ownRetired then
        retire fuel n (sendMod n (fun x => { x with ownRetired := x.ownRetired + 1 }) s)
      else s
    | none => s

def retireAll (n : Nat) (s : State) : State :=
  match qpGet s n with
  | some q => retire (q.send.cumAcked - q.send.ownRetired).toNat n s
  | none => s

/-- Packets are outstanding: in flight, or reads that still miss responses. -/
def outstanding (s : State) (q : Qp) : Bool :=
  q.send.flight.any (fun x => !x.sacked) || q.send.messages.any fun m => m.started && !byCum s m

/-- Acknowledged numbers: those before `cum`, and those in `ranges`. -/
def isAcked (cum : W32) (ranges : List (W32 × W32)) (x : W32) : Bool :=
  seqBefore x cum || ranges.any fun r => seqUpTo r.1 x && seqBefore x r.2

/-- Acknowledged packets leave the flight or are marked, those they overtook on their path count them (R154), the messages
passed by the cumulative point complete in `MSG_NUM` order (R159), and numbers retire (R146). The request of an open read stays, marked, so
that it can be resent (R156). -/
def applyCum (n : Nat) (cum0 : W32) (ranges : List (W32 × W32)) (s : State) : State :=
  match qpGet s n with
  | none => s
  | some q =>
    let cum := if seqUpTo cum0 q.send.nextSeq then cum0 else q.send.cumAcked
    let newly := q.send.flight.filter fun x => !x.sacked && isAcked cum ranges x.seq
    let s1 := sendMod n (fun x =>
      let flight := (x.flight.filter fun y => !seqBefore y.seq cum || y.kind == .readReq).map fun y =>
        if y.sacked then y
        else if isAcked cum ranges y.seq then { y with sacked := true, retx := false }
        else { y with passed := y.passed + (newly.filter fun z => z.lastPath == y.lastPath && decide (y.order < z.order)).length }
      { x with flight := flight, cumAcked := if seqBefore x.cumAcked cum then cum else x.cumAcked,
               faultWait := x.faultWait.filter fun f => !isAcked cum ranges f }) s
    let done := q.send.messages.filter fun m => byCum s m && m.started &&
      seqBefore (m.firstSeq + BitVec.ofNat 32 m.packets - 1) cum
    let s2 := done.foldl (fun t m => finishMessage n m (okResult s m) t) s1
    let s3 := retireAll n s2
    let s4 := match qpGet s3 n with
      | some q3 => if outstanding s3 q3 then s3 else sendMod n (fun x => { x with outSince := none }) s3
      | none => s3
    match qpGet s4 n with
    | some q4 => loseAll n ((q4.send.flight.filter fun x => !x.sacked && !x.retx && decide (3 ≤ x.passed)).map fun x => x.seq) s4
    | none => s4

/-- The peer's `OWN_RETIRED`: it frees the atomic results that it has passed (R157), and the responses it has passed are in flight, or wait,
no more (R146). -/
def peerRetires (n : Nat) (x : W32) (s : State) : State :=
  match qpGet s n with
  | none => s
  | some q =>
    if seqUpTo q.recv.peerRetired x then
      let gone := s.journal.filterMap fun p => match p.2 with
        | .atomicResult k y _ _ => if k = n ∧ seqBefore y x then some p.1 else none
        | _ => none
      let past (y : W32) : Bool := !seqBefore y x
      let s1 := sendMod n (fun y => { y with responses := y.responses.filter (fun p => past p.1),
                                             queue := y.queue.filter fun p => p.kind != .readResp || past p.seq }) s
      gone.foldl (fun t r => journalFree r t) (recvMod n (fun r => { r with peerRetired := x }) s1)
    else s

/-! ### Samples (R153, R173) -/

/-- RTO of a queue pair, in ns (R153): doubling goes up to 8 ms. -/
def rto (q : Qp) : Nat :=
  let base : Nat := if q.send.sampled then max (rtoMin q) ⌈q.send.srtt + 4 * q.send.rttvar⌉.toNat else 4 * rtoMin q
  max base (min 8000000 (base * 2 ^ q.send.backoff))

/-- A violation of the declared network profile of an Ethernet flow (R196). -/
def violate (n : Nat) (q : Qp) (a : Admission) (s : State) : State :=
  raiseEvent .networkViolation q.conf.fn (peerNode q) a.number.toNat n
    (qpMod n (fun x => { x with violations := x.violations + 1, violatedAt := some s.dev.now }) s)

/-- One round-trip sample. -/
def sampleRtt (n : Nat) (q : Qp) (rtt : Nat) (s : State) : State :=
  let r : Rat := rtt
  let s1 := sendMod n (fun x =>
    if x.sampled then
      { x with rttvar := x.rttvar * (3 / 4) + |x.srtt - r| / 4, srtt := x.srtt * (7 / 8) + r / 8, backoff := 0 }
    else { x with srtt := r, rttvar := r / 2, sampled := true, backoff := 0 }) s
  let s2 := ccMod n (fun c => { c with
    minRtt := (c.minRtt.filter fun x => decide (s.dev.now < x.1 + 16000000)) ++ [(s.dev.now, rtt)] }) s1
  match admitted q with
  | some a => if !isFabric q && decide (a.netRtt < rtt) then violate n q a s2 else s2
  | none => s2

/-- The signed difference of two stamps. -/
def stampDiff (a b : W64) : Int := (a - b).toInt

/-- One queueing-delay sample `d` of a path (R173). -/
def samplePath (now : Nat) (c : PathCc) (d : Int) : PathCc × Int :=
  let w := now / 1000000
  let old := c.windows.filter fun x => decide (w < x.1 + 16)
  let ws := match old.find? fun x => x.1 == w with
    | some x => old.map fun y => if y.1 = w then (w, min x.2 d) else y
    | none => old ++ [(w, d)]
  let base := ws.foldl (fun m x => min m x.2) d
  let q := max 0 (d - base)
  ({ c with base := some base, windows := ws, qmin := some (match c.qmin with | some m => min m q | none => q) }, q)

/-- What an acknowledgement says of congestion (R173, R174): its CE marks and what it newly settles, and, where it echoes a stamp, the delay of
its path. An admitted queue pair takes its round trips alone (R178). -/
def sampleCc (n : Nat) (q : Qp) (b : AckBody) (settled : Nat) (s : State) : State :=
  if (admitted q).isSome then s
  else
    ccMod n (fun c =>
      let c1 := { c with ce := c.ce + b.ceCount.toNat, settled := c.settled + settled }
      if b.echoStamp = 0 then c1
      else
        let p := b.echoPath.toNat
        let r := samplePath s.dev.now (pathCc q p) (stampDiff b.recvStamp b.echoStamp)
        { c1 with paths := tabSet c1.paths p r.1, samples := c1.samples + 1,
                  qmin := some (match c1.qmin with | some m => min m r.2 | none => r.2) }) s

/-- The round trip that an acknowledgement shows (R153): by the stamp it echoes, or, of a RoCEv2 peer, which echoes none, by the latest packet
that it acknowledges and that was sent once (R144). -/
def roundTrip (now : Nat) (q : Qp) (b : AckBody) (newly : List TxPacket) : Option Nat :=
  if q.conf.mode = .roce then ((newly.filter fun x => x.sends == 1).getLast?).map fun x => now - x.sentAt
  else if b.echoStamp = 0 then none
  else some (now - b.echoStamp.toNat)

/-! ### ACK and NAK -/

/-- Checks on an arriving acknowledgement (R149, R126, orders 1 and 2): the queue pair it is for. -/
def ackTarget (k : TxKind) (p : RxPacket) (body : List Byte) (bodyOk : Bool) (s : State) : Option (Nat × Qp) :=
  let n := p.hdr.destQp.toNat
  if ackWellFormed k p body && bodyOk then
    match qpGet s n with
    | some q => if q.conf.connected && q.conf.peerQp.toNat == p.hdr.srcQp.toNat then some (n, q) else none
    | none => none
  else none


/-- Something of the peer has arrived for queue pair `n`, with the marks that its datagram carried (R174). -/
def hearAck (n : Nat) (p : RxPacket) (s : State) : State :=
  recvMod n (fun r => { r with ceCount := r.ceCount + flag p.env.ce }) (hearPeer n s)

/-- PKT_ACK (R146, R153, R159, R168, R173). -/
def takeAck (p : RxPacket) (b : AckBody) (s : State) : State :=
  match ackTarget .ack p (ackBytes b) (ackBodyOk b) s with
  | none => countDrop p.port s
  | some (n, q) =>
    if q.phase ≠ .ready then hearAck n p s
    else
      let own (x : W32) : W32 := if q.conf.mode = .roce then widenPsn q.send.cumAcked x else x
      let cum := own p.hdr.seq
      let sack := b.sack.map fun r => (own r.1, own r.2)
      let s1 := peerRetires n (if q.conf.mode = .roce then widenPsn q.recv.e b.ownRetired else b.ownRetired) (hearAck n p s)
      let newly := q.send.flight.filter fun x => !x.sacked && isAcked cum sack x.seq
      let s2 := match roundTrip s.dev.now q b newly with
        | some t => sampleRtt n q t s1
        | none => s1
      let s3 := sampleCc n q b newly.length s2
      let s4 := if b.stateLost then
          resendWhere n (fun x => !seqBefore x.seq cum && q.send.flight.any fun y => y.seq == x.seq && y.sacked)
            (sendMod n (fun x => { x with flight := x.flight.map fun y => if seqBefore y.seq cum then y else { y with sacked := false } }) s3)
        else s3
      applyCum n cum sack s4

/-- PKT_ACK (R159). -/
def execPktAck (p : RxPacket) (b : AckBody) (s : State) : Host.Outcome State Fault Refusal :=
  whileLit s <| .next (takeAck p b s)

/-- The message to which a number that this side has sent and not retired belongs (R152): its packet is in flight, or the cumulative point has
passed it. -/
def sentMessage (s : State) (q : Qp) (x : W32) : Option TxMessage :=
  if seqBefore x q.send.ownRetired || !(seqBefore x q.send.cumAcked || q.send.flight.any fun y => y.seq == x) then none
  else q.send.messages.find? fun m => m.started &&
    (if byCum s m then decide ((x - m.firstSeq).toNat < m.packets) else m.firstSeq == x)

/-- Receiver not ready: the message waits `RNR_DELAY`, unless its resends are spent (R139). -/
def takeRnr (n : Nat) (q : Qp) (m : TxMessage) (s : State) : State :=
  if m.rnrAt.isSome then s
  else if m.rnrTries ≥ q.conf.rnrRetry then failEntry n m.work .rnrExhausted 0 s
  else messageMod n m.work (fun m => { m with rnrAt := some (s.dev.now + 1000 * q.conf.rnrDelay) }) s

/-- What the sender does on a refusal (Table 6-5). -/
def takeReason (n : Nat) (q : Qp) (r : NakReason) (x : W32) (m : TxMessage) (s : State) : State :=
  match r with
  | .rnr => takeRnr n q m s
  | .faultWait =>
    if q.send.faultWait.isSome then s
    else sendMod n (fun y => { y with faultWait := some x, faultWaitAt := s.dev.now + 1000 * q.conf.rnrDelay }) s
  | .seqGap =>
    if goBackN s q then
      losePacket n x (resendWhere n (fun y => y.seq != x && !seqBefore y.seq x) s)
    else s
  | .qpNotReady | .keyInvalid | .keyStale | .accessDenied | .bounds | .translationFault =>
    match nakStatus r with
    | some st => failEntry n m.work st 0 s
    | none => s

/-- PKT_NAK (R152, R158): one about a number that is not sent, or is retired, is ignored and counted. -/
def takeNak (p : RxPacket) (b : NakBody) (s : State) : State :=
  match ackTarget .nak p (nakBytes b) (nakBodyOk b) s with
  | none => countDrop p.port s
  | some (n, q) =>
    let s1 := hearAck n p s
    if q.phase ≠ .ready then s1
    else
      let own (x : W32) : W32 := if q.conf.mode = .roce then widenPsn q.send.cumAcked x else x
      match sentMessage s1 q (own b.nakSeq), nakOfCode b.reason.toNat with
      | some m, some r =>
        let s2 := applyCum n (own p.hdr.seq) [] (peerRetires n b.ownRetired s1)
        (match qpGet s2 n with
         | some q2 => if (messageOf q2 m.work).isSome then takeReason n q2 r (own b.nakSeq) m s2 else s2
         | none => s2)
      | _, _ => countQp n s1

/-- PKT_NAK (R158). -/
def execPktNak (p : RxPacket) (b : NakBody) (s : State) : Host.Outcome State Fault Refusal :=
  whileLit s <| .next (takeNak p b s)

/-! ### Read responses and repairs (R135, R156) -/

/-- The missing responses of a read that three later ones on one path have overtaken, and that no repair has named yet. -/
def overtaken (m : TxMessage) : List W32 :=
  (List.range (m.packets - 1)).filterMap fun i =>
    let x := m.firstSeq + 1 + BitVec.ofNat 32 i
    let later (p : Nat) : Nat := (m.got.filter fun g => g.2 == p && decide (i < (g.1 - m.firstSeq - 1).toNat)).length
    if m.got.any (fun g => g.1 == x) || m.repairs.contains x then none
    else if (m.got.map Prod.snd).any fun p => decide (3 ≤ later p) then some x else none

/-- Ascending numbers as ranges [start, end), at most `k`. -/
def rangesOf (k : Nat) (l : List W32) : List (W32 × W32) :=
  (l.foldl (fun (acc : List (W32 × W32)) x =>
    match acc with
    | r :: rest => if r.2 = x then (r.1, x + 1) :: rest else (x, x + 1) :: acc
    | [] => [(x, x + 1)]) []).reverse.take k

/-- Ask for missing responses again (R156, Table 6-4). A number named in seven counted repairs ends the read. -/
def sendRepair (n : Nat) (m : TxMessage) (missing : List W32) (s : State) : State :=
  match qpGet s n, workGet s m.work with
  | some q, some w =>
    let ranges := rangesOf 8 missing
    let named := missing.filter fun x => ranges.any fun r => seqUpTo r.1 x && seqBefore x r.2
    let counts := decide (m.repairAt < q.send.lastHeard)
    if named.isEmpty then s
    else if counts && named.any (fun x => decide (7 ≤ (m.repairs.filter (· == x)).length)) then
      failEntry n m.work .retryExhausted 0 s
    else
      let path := ((openPaths s q).map Prod.fst).headD 0
      let h := { baseHeader s n q .readRepair path with
        retx := true, seq := wireSeq q m.firstSeq, msgNum := m.msg, msgLengthM1 := BitVec.ofNat 32 (entryLength w.entry - 1),
        rkey := entryKey w.entry, msgDva := BitVec.ofNat 64 (bits (entryDva w.entry) 0 57) }
      let body : RepairBody := { rsvd := 0, count := BitVec.ofNat 4 ranges.length, ranges := ranges }
      sendWire n q path (effectiveTc q) (isAdmitted q) h (.repair body)
        (messageMod n m.work (fun m => { m with repairs := m.repairs ++ (if counts then named else []), repairAt := s.dev.now }) s)
  | _, _ => s

/-- Responses of a read have been committed locally. -/
def gotResponses (n rec : Nat) (nums : List W32) (path : Nat) (s : State) : State :=
  let s1 := messageMod n rec (fun m =>
    { m with got := m.got ++ (nums.filter fun x => !(m.got.any fun g => g.1 == x)).map fun x => (x, path) }) s
  match qpGet s1 n with
  | none => s1
  | some q =>
    match messageOf q rec with
    | none => s1
    | some m =>
      if m.got.length + 1 ≥ m.packets then retireAll n (finishMessage n m (okResult s1 m) s1)
      else retireAll n (sendRepair n m (overtaken m) s1)

/-- A new response of read `m`: placed at the read's local buffer (R135). -/
def placeResponse (n : Nat) (q : Qp) (m : TxMessage) (w : Work) (p : RxPacket) (s : State) : State :=
  let fn := q.conf.fn
  let len := entryLength w.entry
  let at_ := entryLocalDva w.entry + p.hdr.msgOffset.toNat
  let bytes := if len = 0 then [] else p.payload
  if !(missingPages s fn at_ bytes.length).isEmpty then
    if dmaBarred s fn then failEntry n m.work .translationFault 0 s
    else
      let s0 := recvMod n (fun r => { r with suspended := true, suspendedBy := some p.hdr }) s
      let s1 := suspend fn (.qp n) 3 1 m.work at_ bytes.length (entryLocalKey w.entry) s0
      sendNak n .faultWait p.hdr.seq p.hdr.msgNum p.hdr.pathTag.toNat s1
  else
    match p.sealBlock with
    | some b => sealedArrive n fn q p b (entryLocalDva w.entry) len (fun nums t => gotResponses n m.work nums p.hdr.pathTag.toNat t) s
    | none =>
      let s1 := placeAt fn at_ bytes (.got n p.hdr.seq p.hdr.pathTag.toNat) s
      if spurPieces s fn at_ bytes = 0 then gotResponses n m.work [p.hdr.seq] p.hdr.pathTag.toNat s1 else s1

/-- Orders 1, 2 and 4 of Table 6-6 for packets that carry a number of this side's own space; `k` goes on. -/
def ownSpace (kind : TxKind) (p : RxPacket) (k : RxPacket → Nat → Qp → State → State) (s : State) : State :=
  let n := p.hdr.destQp.toNat
  if !packetWellFormed kind p then countDrop p.port s
  else
    match qpGet s n with
    | none => refuseOrDrop kind p s
    | some q =>
      let p := widenFor q q.send.cumAcked p
      if !packetShapeOk kind (mtuOf q) p || p.hdr.isSealed != q.sealing.isSome then countDrop p.port s
      else if !(q.conf.connected && q.conf.peerQp.toNat == p.hdr.srcQp.toNat) then refuseUnknown p s
      else if q.sealing.isSome && s.sec.errorState then countQp n s
      else if q.phase ≠ .ready then repeatNak n q p (hearAck n p s)
      else k p n q (hearAck n p s)

/-- The open read or atomic of message number `msg`. -/
def openRequest (s : State) (q : Qp) (msg : W32) (o : WorkOp → Bool) : Option (TxMessage × Work) :=
  match q.send.messages.find? fun m => m.msg == msg && m.started with
  | some m =>
    (match workGet s m.work with
     | some w => (match workOpOf (entryOp w.entry) with
       | some x => if o x then some (m, w) else none
       | none => none)
     | none => none)
  | none => none

/-- A go-back-N queue pair takes responses in `SEQ` order alone: the next that the oldest open read misses (R143). -/
def nextResponse (s : State) (q : Qp) (m : TxMessage) (d : Nat) : Bool :=
  !goBackN s q || (d == m.got.length + 1 &&
    q.send.messages.all fun x => byCum s x || x.packets == 1 || !seqBefore x.firstSeq m.firstSeq)

/-- PKT_READ_RESP (R135, R156). -/
def takeReadResp (p : RxPacket) (n : Nat) (q : Qp) (s : State) : State :=
  match openRequest s q p.hdr.msgNum (· == .read) with
  | none => countQp n s
  | some (m, w) =>
    let d := (p.hdr.seq - m.firstSeq).toNat
    if d = 0 ∨ m.packets ≤ d ∨ m.got.any (fun g => g.1 == p.hdr.seq) = true ∨ p.hdr.msgOffset.toNat ≠ (d - 1) * mtuOf q then countQp n s
    else if !nextResponse s q m d then countQp n s
    else if q.recv.suspended then sendNak n .faultWait p.hdr.seq p.hdr.msgNum p.hdr.pathTag.toNat (countQp n s)
    else placeResponse n q m w p s

/-- PKT_READ_RESP (R135). -/
def execPktReadResp (p : RxPacket) (s : State) : Host.Outcome State Fault Refusal :=
  whileLit s <|
  .next (ownSpace .readResp p takeReadResp s)

/-- The prior value of an atomic is written to its return buffer, and the atomic ends when it is committed (R131). -/
def returnAtomic (n : Nat) (q : Qp) (m : TxMessage) (w : Work) (prior : W64) (s : State) : State :=
  let bytes := leBytes 8 prior.toNat
  let s1 := placeAt q.conf.fn (atomicDva w.entry) bytes (.atomic m.work prior) s
  if spurPieces s q.conf.fn (atomicDva w.entry) bytes = 0 then retireAll n (finishMessage n m prior.toNat s1) else s1

/-- The suspended placement of a queue pair keeps the value that its atomic `rec` has returned. -/
def keepPrior (n rec : Nat) (prior : W64) (s : State) : State :=
  { s with suspended := tabMap s.suspended fun _ x =>
      if x.arriving ∧ x.stream = .qp n ∧ x.work = rec then { x with prior := some prior } else x }

/-- An atomic has its prior value: with `RETURN` it is written to the return buffer first (R131). -/
def finishAtomic (n : Nat) (q : Qp) (m : TxMessage) (w : Work) (p : RxPacket) (prior : W64) (s : State) : State :=
  if !atomicReturn w.entry then retireAll n (finishMessage n m prior.toNat s)
  else
    let fn := q.conf.fn
    let dva := atomicDva w.entry
    if !(missingPages s fn dva 8).isEmpty then
      if dmaBarred s fn then failEntry n m.work .translationFault 0 s
      else
        let s0 := recvMod n (fun r => { r with suspended := true, suspendedBy := some p.hdr }) s
        let s1 := keepPrior n m.work prior (suspend fn (.qp n) 3 1 m.work dva 8 (atomicKey w.entry) s0)
        sendNak n .faultWait p.hdr.seq p.hdr.msgNum p.hdr.pathTag.toNat s1
    else returnAtomic n q m w prior s

/-- PKT_ATOMIC_RESP (R159). -/
def takeAtomicResp (p : RxPacket) (n : Nat) (q : Qp) (s : State) : State :=
  match openRequest s q p.hdr.msgNum (fun o => o == .fadd || o == .cswap) with
  | none => countQp n s
  | some (m, w) =>
    if p.hdr.seq ≠ m.firstSeq then countQp n s
    else if q.recv.suspended then sendNak n .faultWait p.hdr.seq p.hdr.msgNum p.hdr.pathTag.toNat (countQp n s)
    else
      let prior := (p.atomic.getD (0, 0)).1
      match p.sealBlock with
      | some b => sealedArrive n q.conf.fn q p b 0 0 (fun _ t => finishAtomic n q m w p prior t) s
      | none => finishAtomic n q m w p prior s

/-- PKT_ATOMIC_RESP (R159). -/
def execPktAtomicResp (p : RxPacket) (s : State) : Host.Outcome State Fault Refusal :=
  whileLit s <|
  .next (ownSpace .atomicResp p takeAtomicResp s)

/-- PKT_READ_REPAIR (R156): key checks 1 to 4 again, then each named response is sent again. -/
def takeRepair (p0 : RxPacket) (b : RepairBody) (s : State) : State :=
  match ackTarget .readRepair p0 (repairBytes b) (repairBodyOk b) s with
  | none => countDrop p0.port s
  | some (n, q) =>
    let p := widenFor q q.recv.e p0
    let s1 := hearAck n p s
    if q.phase ≠ .ready then repeatNak n q p s1
    else if q.recv.suspended then sendNak n .faultWait p.hdr.seq p.hdr.msgNum p.hdr.pathTag.toNat (countQp n s1)
    else
      match keyCheck s1 q.conf.fn p.hdr.rkey rightRemoteRead p.hdr.msgDva.toNat (readLen p.hdr), readBarred s1 q p.hdr with
      | some e, _ => refuseKey n e p.hdr s1
      | none, some true => refuseMessage n .translationFault p.hdr s1
      | none, some false => countQp n s1
      | none, none => serveRead n q p.hdr true (fun x => b.ranges.any fun r => seqUpTo r.1 x && seqBefore x r.2) s1

/-- PKT_READ_REPAIR (R156). -/
def execPktReadRepair (p : RxPacket) (b : RepairBody) (s : State) : Host.Outcome State Fault Refusal :=
  whileLit s <|
  .next (takeRepair p b s)

/-! ### Timers -/

/-- The request of an open read, once it has been acknowledged and is not waiting to go out again. -/
def askedRead (q : Qp) (m : TxMessage) : Option TxPacket :=
  q.send.flight.find? fun x => x.work == m.work && x.kind == .readReq && x.sacked && !x.retx

/-- Reads of which a response is missing, with their acknowledged requests. -/
def waitingReads (s : State) (q : Qp) : List (TxMessage × TxPacket) :=
  q.send.messages.filterMap fun m =>
    if m.started && !byCum s m && decide (2 ≤ m.packets) then (askedRead q m).map fun x => (m, x) else none

/-- When a read last asked for responses: by its request, or by a repair (R156). -/
def askedAt (m : TxMessage) (x : TxPacket) : Nat := if m.got.isEmpty then x.sentAt else max x.sentAt m.repairAt

/-- When the retransmission timer runs out: RTO after the oldest transmission that waits (R154, R156). -/
def timerDue (s : State) (q : Qp) : Option Nat :=
  let ts := ((q.send.flight.filter fun x => !x.sacked && !x.retx && !heldBack q x).map fun x => x.sentAt) ++
    ((waitingReads s q).filter fun r => !heldBack q r.2).map fun r => askedAt r.1 r.2
  match ts with
  | [] => none
  | t :: rest => some (rest.foldl min t + rto q)

/-- A read that misses responses: its request again if none has come, counted like any other packet (R155), otherwise a repair (R156). -/
def renewRead (n : Nat) (s : State) (r : TxMessage × TxPacket) : State :=
  let m := r.1
  if m.got.isEmpty then
    match qpGet s n with
    | some q =>
      let counts := decide (r.2.sentAt < q.send.lastHeard)
      if counts ∧ r.2.counted ≥ 7 then failEntry n m.work .retryExhausted 0 s
      else
        sendMod n (fun q => { q with flight := q.flight.map fun y =>
          if y.kind = .readReq ∧ y.work = m.work then { y with retx := true, counted := y.counted + flag counts } else y }) s
    | none => s
  else
    sendRepair n m ((List.range (m.packets - 1)).filterMap fun i =>
      let x := m.firstSeq + 1 + BitVec.ofNat 32 i
      if m.got.any fun g => g.1 == x then none else some x) s

/-- The timer of a queue pair expires (R153, R154): the expired packets are lost, their paths take note (R175, R177), and RTO
doubles. -/
def expireTimer (n : Nat) (s : State) : State :=
  match qpGet s n with
  | none => s
  | some q =>
    if q.phase ≠ .ready then s
    else
      match timerDue s q with
      | none => s
      | some t =>
        let s1 := advanceTo t s
        let old (at_ : Nat) : Bool := decide (at_ + rto q ≤ s1.dev.now)
        let lost := q.send.flight.filter fun x => !x.sacked && !x.retx && !heldBack q x && old x.sentAt
        let reads := (waitingReads s q).filter fun r => !heldBack q r.2 && old (askedAt r.1 r.2)
        let s2 := ccMod n (fun c => { c with lossTimer := c.lossTimer || !lost.isEmpty, paths := lost.foldl (fun t x =>
            let p := (tabGet t x.lastPath).getD (pathCc q x.lastPath)
            tabSet t x.lastPath { p with lossTimer := true }) c.paths })
          (sendMod n (fun x => { x with backoff := min (x.backoff + 1) 16 }) s1)
        reads.foldl (renewRead n) (loseAll n (lost.map fun x => x.seq) s2)

/-- RETRANSMIT_TIMEOUT (R154). -/
def execRetransmitTimeout (qp : Nat) (s : State) : Host.Outcome State Fault Refusal :=
  whileLit s <| .next (expireTimer qp s)

/-- When an `ACK` is due by time (R148): the coalescing delay after the first settled number, or 4 µs after the last `ACK` where
`OWN_RETIRED` has advanced since, whichever comes first. -/
def ackDue (s : State) (q : Qp) : Option Nat :=
  let a := q.recv.firstSettledAt.map fun t => t + ackDelay s
  let b := if q.send.ownRetired = q.recv.toldRetired then none else some (q.recv.ackAt + 4000)
  match a, b with
  | some x, some y => some (min x y)
  | some x, none => some x
  | none, y => y

/-- ACK_COALESCE_TIMER (R148). -/
def execAckCoalesceTimer (qp : Nat) (s : State) : Host.Outcome State Fault Refusal :=
  whileLit s <|
  match qpGet s qp with
  | none => .next s
  | some q =>
    if q.phase ≠ .ready then .next s
    else
      match ackDue s q with
      | some t => .next (sendAck qp (advanceTo t s))
      | none => .next s

/-- The message that is next to be sent again after receiver-not-ready. -/
def nextRnr (q : Qp) : Option TxMessage :=
  q.send.messages.foldl (fun best m =>
    match m.rnrAt, best with
    | some t, some b => if t < b.rnrAt.getD 0 then some m else some b
    | some _, none => some m
    | none, b => b) none

/-- RNR_RESEND (R139): the message goes out again from its first packet. -/
def execRnrResend (qp : Nat) (s : State) : Host.Outcome State Fault Refusal :=
  whileLit s <|
  match qpGet s qp with
  | none => .next s
  | some q =>
    match nextRnr q with
    | some m =>
      .next (resendWhere qp (fun x => x.work == m.work)
        (messageMod qp m.work (fun m => { m with rnrAt := none, rnrTries := m.rnrTries + 1 })
          (advanceTo (m.rnrAt.getD 0) s)))
    | none => .next s

/-- FAULT_WAIT_RESEND (R150, Table 6-5). -/
def execFaultWaitResend (qp : Nat) (s : State) : Host.Outcome State Fault Refusal :=
  whileLit s <|
  match qpGet s qp with
  | none => .next s
  | some q =>
    match q.send.faultWait with
    | some x =>
      let s1 := advanceTo q.send.faultWaitAt s
      .next (resendWhere qp (fun y => y.seq == x)
        (sendMod qp (fun y => { y with faultWaitAt := s1.dev.now + 1000 * q.conf.rnrDelay }) s1))
    | none => .next s

/-- The oldest message of a queue pair with packets outstanding. -/
def oldestOutstanding (s : State) (q : Qp) : Option TxMessage :=
  q.send.messages.find? fun m => m.started &&
    (!byCum s m || q.send.flight.any fun x => x.work == m.work && !x.sacked)

/-- Since when a queue pair with packets outstanding has heard nothing of its peer (R155). -/
def silentSince (s : State) (q : Qp) : Option Nat :=
  if outstanding s q then q.send.outSince.map fun t => max t q.send.lastHeard else none

/-- SILENCE_LIMIT (R155). -/
def execSilenceLimit (qp : Nat) (s : State) : Host.Outcome State Fault Refusal :=
  whileLit s <|
  match qpGet s qp with
  | none => .next s
  | some q =>
    match silentSince s q, oldestOutstanding s q with
    | some t, some m =>
      if q.phase = .ready then .next (failEntry qp m.work .retryExhausted 0 (advanceTo (t + 1000000000) s)) else .next s
    | _, _ => .next s

/-- Whether each queue pair still has a usable path, after links have changed (R142). -/
def judgePaths (s : State) : State :=
  { s with qps := tabMap s.qps fun _ q =>
      if (List.range (pathsOf s q)).any fun p => pathUsable s q p then { q with send := { q.send with noPathSince := none } }
      else { q with send := { q.send with noPathSince := some (q.send.noPathSince.getD s.dev.now) } } }

/-- NO_PATH_TIMEOUT (R142): 100 ms without a usable path. -/
def execNoPathTimeout (qp : Nat) (s : State) : Host.Outcome State Fault Refusal :=
  whileLit s <|
  match qpGet s qp with
  | none => .next s
  | some q =>
    match q.send.noPathSince, q.send.messages.head? with
    | some t, some m =>
      if q.phase = .ready then .next (failEntry qp m.work .remoteUnreachable 0 (advanceTo (t + 100000000) s)) else .next s
    | _, _ => .next s

/-- COPY_ACK_DEADLINE (R196): every copy of a packet is unacknowledged `NET_RTT_NS` + 8 µs after they were sent. -/
def execCopyAckDeadline (qp : Nat) (seq : W32) (s : State) : Host.Outcome State Fault Refusal :=
  whileLit s <|
  match qpGet s qp with
  | none => .next s
  | some q =>
    match admitted q, q.send.flight.find? fun x => x.seq == seq && !x.sacked && !x.late with
    | some a, some x =>
      if isFabric q then .next s
      else
        let s1 := sendMod qp (fun y => { y with flight := y.flight.map fun z => if z.seq = seq then { z with late := true } else z })
          (advanceTo (x.sentAt + a.netRtt + 8000) s)
        .next (violate qp q a s1)
    | _, _ => .next s

/-! ### Congestion epochs (R175, R177) -/

/-- `EPOCH_MIN` (Table 7-9). -/
def epochMin (s : State) : Nat := if s.dev.profile = .efficiency then 8000 else 4000

/-- The rate after an epoch (R175). -/
def nextRate (s : State) (q : Qp) : Rat :=
  let c := q.cc
  let t : Rat := q.cc.target
  let qm : Rat := (c.qmin.getD 0 : Int)
  let f : Rat := if c.settled = 0 then (if c.ce = 0 then 0 else 1) else min 1 ((c.ce : Rat) / c.settled)
  if c.samples = 0 then c.rate
  else if c.lossTimer then max rMin (c.rate / 2)
  else if t < qm ∨ 0 < f then
    let rd := if t < qm then c.rate * max (1 / 2) (1 - 4 / 5 * (qm - t) / qm) else c.rate
    max rMin (min rd (c.rate * (1 - f / 2)))
  else min (rMax s q) (c.rate + rMax s q / 1024)

/-- The weight of a path after an epoch (R177), without the rule for the last path. -/
def nextPath (t : Nat) (p : PathCc) : PathCc :=
  let fresh (w : Rat) (z : Nat) : PathCc := { p with weight := w, zeroEpochs := z, qmin := none, lossTimer := false }
  if p.lossTimer then fresh 0 8
  else
    match p.qmin with
    | none => if p.weight = 0 then fresh 0 (p.zeroEpochs - 1) else fresh p.weight 0
    | some q =>
      if p.zeroEpochs > 1 then fresh 0 (p.zeroEpochs - 1)
      else if q ≤ t then fresh 1 0
      else if q ≤ 8 * t then fresh ((t : Rat) / q) 0
      else fresh 0 8

/-- Weights of all paths after an epoch: where every path would be at 0, the one with the smallest delay keeps 1. -/
def nextPaths (s : State) (q : Qp) : Tab PathCc :=
  let all := (List.range (pathsOf s q)).map fun p => (p, pathCc q p)
  let moved := all.map fun p => (p.1, nextPath q.cc.target p.2)
  if moved.all fun p => p.2.weight == 0 then
    let best := all.foldl (fun (b : Option (Nat × Int)) p =>
      match p.2.qmin, b with
      | some d, some c => if d < c.2 then some (p.1, d) else b
      | some d, none => some (p.1, d)
      | none, _ => b) none
    let keep := (best.map Prod.fst).getD 0
    moved.map fun p => if p.1 = keep then (p.1, { p.2 with weight := 1, zeroEpochs := 0 }) else p
  else moved

/-- CC_EPOCH_END (R175, R177). -/
def execCcEpochEnd (qp : Nat) (s : State) : Host.Outcome State Fault Refusal :=
  whileLit s <|
  match qpGet s qp with
  | none => .next s
  | some q =>
    if q.phase ≠ .ready ∨ (admitted q).isSome then .next s
    else
      let len := max ⌈q.send.srtt⌉.toNat (epochMin s)
      let s1 := advanceTo (q.cc.epochAt + len) s
      .next (ccMod qp (fun c => { c with rate := nextRate s q, target := ccTarget s q, epochAt := s1.dev.now, samples := 0, qmin := none, ce := 0, settled := 0,
                                         lossTimer := false, paths := nextPaths s q }) s1)

/-- The settling of a unit that landed later than its last packet: of a message that arrives, or of the responses of a read. -/
def landUnit (n : Nat) (q : Qp) (u : RxUnit) (nums : List W32) (s : State) : State :=
  if u.own then
    match q.send.messages.find? fun m => m.msg == u.msg with
    | some m => gotResponses n m.work nums u.path s
    | none => s
  else settle n nums s

/-- A unit that has authenticated, and whose writes to accelerators are committed, settles (R388). -/
def closeUnit (n : Nat) (q : Qp) (u : RxUnit) (s : State) : State :=
  closeRekey n u.phase
    (landUnit n q u u.seqs (recvMod n (fun r => { r with units := r.units.filter fun x => !isUnit u.own u.msg u.unit x }) s))

end Sys2Proof.Machine
end

