-- ==== Sys2Proof/Machine/Rings.lean ====
section
/-! DEFINITION. Rings: the opcodes of Table 3-3 (R62 to R65), doorbells, scans and re-reads (R74 to R78), and moderation
(R63). -/

namespace Sys2Proof.Machine

/-! ### Scans -/

/-- The owned phase of the next entry that a scan of the ring reads. -/
def scanPhase (r : SubRing) : Bool := ownedPhase (r.accepted + r.prefetched.length) r.log2

/-- Take the owned entries that a scan reads, at most 8 held (R75). Whether the scan met an entry that is not owned. -/
def scanTake (r : SubRing) (l : List W512) : SubRing × Bool :=
  match l with
  | [] => (r, false)
  | e :: rest =>
    if r.prefetched.length ≥ 8 then (r, false)
    else if entryPhase e = scanPhase r then scanTake { r with prefetched := r.prefetched ++ [e] } rest
    else (r, true)

/-- Level 1: entries up to the producer index, whatever their phase, at most 8 held (R77). -/
def fetchTake (r : SubRing) (l : List W512) : SubRing :=
  match l with
  | [] => r
  | e :: rest =>
    if r.prefetched.length ≥ 8 ∨ r.accepted + r.prefetched.length ≥ r.producer then r
    else fetchTake { r with prefetched := r.prefetched ++ [e] } rest

/-- `RETRY_DELAY` of a function in ns, and its `RETRY_COUNT` (R65). -/
def retryOf (s : State) (fn : Nat) : Nat × Nat :=
  match fnGet s fn with
  | some f => (1000 * f.retryDelay, f.retryCount)
  | none => (2000, 4)

/-- A scan of ring `key` reads `l`. Ending on an entry that is not owned, read within `RETRY_DELAY` of the latest doorbell, arms the
re-reads: the first is due `RETRY_DELAY` after that read (R76, Table 3-9). -/
def scanRing (key : Nat) (l : List W512) (s : State) : State :=
  match tabGet s.sqs key with
  | none => s
  | some r =>
    let fn := key / 65536
    if !r.running ∨ fnModeOf s fn ≠ .running then s
    else if fnLevel1 s fn then { s with sqs := tabSet s.sqs key (fetchTake r l) }
    else
      let t := scanTake r l
      let rt := retryOf s fn
      let left := if t.2 ∧ s.dev.now ≤ r.doorbellAt + rt.1 then rt.2 else 0
      { s with sqs := tabSet s.sqs key { t.1 with rereads := left, rereadAt := s.dev.now + rt.1, scanning := !t.2 } }

/-- Any doorbell of a function restarts its watchdog (R85). -/
def touchWatchdog (fn : Nat) (s : State) : State :=
  fnMod fn (fun f => { f with watchdogAt := if f.watchdogMs = 0 ∨ f.mode ≠ .running then f.watchdogAt
                                            else some (s.dev.now + 1000000 * f.watchdogMs) }) s

/-- BAR0 offset of the doorbell of local submission ring `n` (R34). -/
def doorbellOffset (n : Nat) : Nat := 0x1000 + n / 512 * 0x1000 + n % 512 * 8

/-- The submission ring whose doorbell stands at a BAR0 offset: a VF has 16 doorbell pages, PF0 has 128 (R34). -/
def doorbellRing (fn offset : Nat) : Option Nat :=
  let n := (offset - 0x1000) / 8
  if offset = doorbellOffset n ∧ n < (if fn = 0 then 65536 else 8192) then some n else none

/-- A submission doorbell is one the function answers now: aligned 32-bit or 64-bit, RUNNING, and the ring exists (R52, R74,
R78). -/
def doorbellTaken (s : State) (fn ring width : Nat) : Bool :=
  (width == 32 || width == 64) && fnModeOf s fn == .running && lit s && (tabGet s.sqs (pairKey fn ring)).isSome

/-- `CQ_HEAD` of the ring's completion ring is read with every doorbell (R163). -/
def readHeadOf (fn ring : Nat) (head : Option W32) (s : State) : State :=
  match head, cqOfRing s (pairKey fn ring) with
  | some h, some key => readCqHead key h s
  | _, _ => s

/-- A level-2 doorbell of ring `ring` is answered with a scan that reads `entries` (R75). -/
def ringDoorbell (fn ring width : Nat) (entries : List W512) (head : Option W32) (s : State) : State :=
  let key := pairKey fn ring
  if doorbellTaken s fn ring width then
    readHeadOf fn ring head
      (scanRing key entries { s with sqs := tabMod s.sqs key fun r => { r with doorbellAt := s.dev.now, rereads := 0, scanning := true } })
  else s

/-- SQ_DOORBELL (R34, R75): a write of a data-less doorbell of a level-2 function; `entries` is what the scan reads. -/
def execSqDoorbell (fn offset width : Nat) (_ : W64) (entries : List W512) (head : Option W32) (s : State) :
    Host.Outcome State Fault Refusal :=
  whileLit s <|
  match doorbellRing fn offset with
  | none => .next (hearHost s)
  | some ring =>
    let s0 := touchWatchdog fn (hearHost s)
    if fnLevel1 s fn then .next s0 else .next (ringDoorbell fn ring width entries head s0)

/-- The entries of a ring, and where its consumer stands. -/
def producerOf (r : SubRing) (index : Nat) : Nat :=
  let at_ := r.accepted + r.prefetched.length
  at_ + (index + 65536 - at_ % 65536) % 65536

/-- A level-1 doorbell of ring `ring` that carries `value` (R77): one out of range or with a nonzero RSVD bit is ignored and reported. The
consumer of the range check is the next entry that the device would fetch, past those it has prefetched (DEDUCED, log entry 87). -/
def ringDoorbellLevel1 (fn ring width : Nat) (value : W64) (entries : List W512) (head : Option W32) (s : State) : State :=
  let key := pairKey fn ring
  match doorbellTaken s fn ring width, tabGet s.sqs key with
  | true, some r =>
    let index := bits value.toNat 0 16
    let rsvd := if width = 64 then value.toNat / 65536 else bits value.toNat 16 16
    let reach := (index + 65536 - (r.accepted + r.prefetched.length) % 65536) % 65536
    if rsvd ≠ 0 ∨ 2 ^ r.log2 < reach then raiseEvent .doorbellRange fn nodeSelf ring index s
    else
      readHeadOf fn ring head
        { s with sqs := tabSet s.sqs key (fetchTake { r with producer := producerOf r index, doorbellAt := s.dev.now } entries) }
  | _, _ => s

/-- SQ_DOORBELL_LEVEL1 (R34, R77): a write of the doorbell of a level-1 function, with `PRODUCER_INDEX`. -/
def execSqDoorbellLevel1 (fn offset width : Nat) (value : W64) (entries : List W512) (head : Option W32) (s : State) :
    Host.Outcome State Fault Refusal :=
  whileLit s <|
  match doorbellRing fn offset with
  | none => .next (hearHost s)
  | some ring =>
    let s0 := touchWatchdog fn (hearHost s)
    if fnLevel1 s fn then .next (ringDoorbellLevel1 fn ring width value entries head s0) else .next s0

/-- A submission ring is read again (R76): a scan under way goes on as entries are accepted (R75), or the not-owned entry is read again
every `RETRY_DELAY`. A ring whose scan has ended and whose re-reads are spent waits for its next doorbell. -/
def rereadRing (fn ring : Nat) (entries : List W512) (s : State) : State :=
  let key := pairKey fn ring
  match tabGet s.sqs key with
  | none => s
  | some r =>
    if !r.running ∨ fnModeOf s fn ≠ .running then s
    else if fnLevel1 s fn then scanRing key entries s
    else if r.rereads = 0 then (if r.scanning then scanRing key entries s else s)
    else
      let next (k : Nat) : State :=
        advanceTo r.rereadAt { s with sqs := tabMod s.sqs key fun x => { x with rereads := k, rereadAt := x.rereadAt + (retryOf s fn).1 } }
      match entries with
      | e :: _ => if entryPhase e = scanPhase r then scanRing key entries (next 0) else next (r.rereads - 1)
      | [] => next (r.rereads - 1)

/-! ### Moderation -/

/-- MOD_TIME_EXPIRY (R63). -/
def execModTimeExpiry (fn cq : Nat) (s : State) : Host.Outcome State Fault Refusal :=
  whileLit s <|
  match cqGet s fn cq with
  | some q =>
    match q.firstCounted with
    | some t => .next (judgeCq (pairKey fn cq) (advanceTo (t + 1000 * q.modTime) s))
    | none => .next s
  | none => .next s

/-! ### Opcodes of Table 3-3 -/

/-- PF0's ring quota: what the VF quotas leave (R62). -/
def quotaLeft (s : State) (of : Function → Nat) : Nat :=
  65536 - ((s.fns.filter fun p => p.1 != 0 && p.2.mode != .disabled).map fun p => of p.2).sum

def sqQuotaOf (s : State) (fn : Nat) : Nat :=
  if fn = 0 then quotaLeft s Function.sqQuota else match fnGet s fn with | some f => f.sqQuota | none => 0

def cqQuotaOf (s : State) (fn : Nat) : Nat :=
  if fn = 0 then quotaLeft s Function.cqQuota else match fnGet s fn with | some f => f.cqQuota | none => 0

/-- The lowest free local number among the keys of a function's rings. -/
def freeLocal {α : Type} (t : Tab α) (fn : Nat) : Nat :=
  tabFree ((t.filter fun p => p.1 / 65536 == fn).map fun p => (p.1 % 65536, p.2)) 0

def sizeOk (k : Nat) : Bool := decide (4 ≤ k ∧ k ≤ 16)

def boundTo (s : State) (fn cq : Nat) : List (Nat × SubRing) := (ringsOf s fn).filter fun p => p.2.cq == cq

def specRingSqCreate : CmdSpec :=
  { opcode := 0x0440, issuer := .any, cls := .any, fields := [(0, 8), (8, 1), (9, 1), (10, 1), (12, 2)] }

def doRingSqCreate (c : Cmd) (s : State) : CmdOut :=
  let fn := namedOf c
  let base := param c 0 8
  let k := param c 8 1
  let weight := param c 9 1
  let burst := param c 10 1
  let cq := param c 12 2
  if !(base % 4096 == 0 && sizeOk k && decide (1 ≤ weight) && decide (1 ≤ burst ∧ burst ≤ 64)) then cmdFail s .invalidParam
  else
    match cqGet s fn cq with
    | none => cmdFail s .invalidParam
    | some q =>
      let used := (boundTo s fn cq).map fun p => p.2.slot
      match (List.range 8).find? fun i => !used.contains i with
      | none => cmdFail s .noResource
      | some slot =>
        if ownedSqs0 s fn ≥ sqQuotaOf s fn ∨ s.sqs.length ≥ 65536 then cmdFail s .noResource
        else
          let n := freeLocal s.sqs fn
          let r : SubRing := { base := BitVec.ofNat 64 base, log2 := k, weight := weight, burst := burst, cq := cq, slot := slot,
                               accepted := 0, prefetched := [], producer := 0, running := fnModeOf s fn == .running,
                               scanning := false, doorbellAt := 0, rereads := 0, rereadAt := 0, roundTaken := 0, visitTaken := 0 }
          .done (emitHost fn (.hostWrite fn (q.header.toNat + 8 * slot) false 64 (acceptedWord 0 n true))
            { s with sqs := tabSet s.sqs (pairKey fn n) r }) .ok n slot 0
where ownedSqs0 (s : State) (fn : Nat) : Nat := (ringsOf s fn).length

/-- RING_SQ_CREATE (R64). -/
def execRingSqCreate (c : Cmd) (s : State) : Host.Outcome State Fault Refusal := .next (runCmd specRingSqCreate doRingSqCreate c s)

def vectorOk (v : Nat) : Bool := decide (v < 2048) || v == 0xFFFF

def vectorOf (v : Nat) : Option Nat := if v = 0xFFFF then none else some v

def specRingCqCreate : CmdSpec :=
  { opcode := 0x0441, issuer := .any, cls := .any, fields := [(0, 8), (8, 8), (16, 1), (18, 2), (20, 2), (22, 2)] }

def doRingCqCreate (c : Cmd) (s : State) : CmdOut :=
  let fn := namedOf c
  let ok := param c 0 8 % 4096 == 0 && param c 8 8 % 128 == 0 && sizeOk (param c 16 1) && vectorOk (param c 18 2) &&
    decide (1 ≤ param c 20 2 ∧ param c 20 2 ≤ 256) && decide (param c 22 2 ≤ 1023)
  if !ok then cmdFail s .invalidParam
  else if (s.cqs.filter fun p => p.1 / 65536 == fn).length ≥ cqQuotaOf s fn ∨ s.cqs.length ≥ 65536 then cmdFail s .noResource
  else
    let n := freeLocal s.cqs fn
    let q : CplRing := { base := BitVec.ofNat 64 (param c 0 8), header := BitVec.ofNat 64 (param c 8 8), log2 := param c 16 1,
                         vector := vectorOf (param c 18 2), modCount := param c 20 2, modTime := param c 22 2, written := 0, head := 0,
                         outstanding := 0, counted := 0, firstCounted := none, blocked := false }
    .done { s with cqs := tabSet s.cqs (pairKey fn n) q } .ok n 0 0

/-- RING_CQ_CREATE (R64). -/
def execRingCqCreate (c : Cmd) (s : State) : Host.Outcome State Fault Refusal := .next (runCmd specRingCqCreate doRingCqCreate c s)

def specRingSched : CmdSpec := { opcode := 0x0442, issuer := .any, cls := .any, fields := [(0, 2), (2, 1), (3, 1)] }

def doRingSched (c : Cmd) (s : State) : CmdOut :=
  let key := pairKey (namedOf c) (param c 0 2)
  needParam ((tabGet s.sqs key).isSome && decide (1 ≤ param c 2 1) && decide (1 ≤ param c 3 1 ∧ param c 3 1 ≤ 64)) s
    (cmdOk { s with sqs := tabMod s.sqs key fun r => { r with weight := param c 2 1, burst := param c 3 1 } })

/-- RING_SCHED (R79). -/
def execRingSched (c : Cmd) (s : State) : Host.Outcome State Fault Refusal := .next (runCmd specRingSched doRingSched c s)

def specRingModerate : CmdSpec := { opcode := 0x0443, issuer := .any, cls := .any, fields := [(0, 2), (2, 2), (4, 2), (6, 2)] }

/-- `ring.moderate` applies at its reply: what is already counted is judged at once under the new settings (R63). The judging
follows the reply, which the settled command writes; its effect is put after it by `execRingModerate`. -/
def doRingModerate (c : Cmd) (s : State) : CmdOut :=
  let key := pairKey (namedOf c) (param c 0 2)
  needParam ((tabGet s.cqs key).isSome && decide (1 ≤ param c 2 2 ∧ param c 2 2 ≤ 256) && decide (param c 4 2 ≤ 1023) &&
      vectorOk (param c 6 2)) s
    (cmdOk (cqMod key (fun q => { q with modCount := param c 2 2, modTime := param c 4 2, vector := vectorOf (param c 6 2) }) s))

/-- The opcode's own part ends with `OK`. -/
def cmdSucceeds (o : CmdOut) : Bool := match o with | .done _ .ok _ _ _ => true | _ => false

/-- RING_MODERATE (R63). -/
def execRingModerate (c : Cmd) (s : State) : Host.Outcome State Fault Refusal :=
  if takesCommand specRingModerate c s && (cmdCheck specRingModerate c (consumeSlot c s)).isNone &&
      cmdSucceeds (doRingModerate c (consumeSlot c s)) then
    .next (judgeCq (pairKey (namedOf c) (param c 0 2)) (runCmd specRingModerate doRingModerate c s))
  else .next (runCmd specRingModerate doRingModerate c s)

def specRingDestroy : CmdSpec := { opcode := 0x0444, issuer := .any, cls := .stop, fields := [(0, 1), (2, 2)] }

/-- Records of a ring that is gone end with it: those in DONE are freed. -/
def dropRingRecords (key : Nat) (s : State) : State :=
  ((works s).filter fun p => p.2.source == Source.ring key && p.2.state == .done).foldl (fun t p => freeWork p.1 t) s

def doRingDestroy (c : Cmd) (s : State) : CmdOut :=
  let fn := namedOf c
  let n := param c 2 2
  let key := pairKey fn n
  match param c 0 1 with
  | 0 =>
    match tabGet s.sqs key with
    | none => cmdFail s .invalidParam
    | some r =>
      let s1 := dropRingRecords key { s with sqs := tabErase s.sqs key }
      (match cqGet s fn r.cq with
       | some q => cmdOk (emit (.hostWrite fn (q.header.toNat + 8 * r.slot) false 64 (acceptedWord 0 0 false)) s1)
       | none => cmdOk s1)
  | 1 =>
    if (tabGet s.cqs key).isNone then cmdFail s .invalidParam
    else if !(boundTo s fn n).isEmpty then cmdFail s .busy
    else cmdOk { s with cqs := tabErase s.cqs key }
  | _ => cmdFail s .invalidParam

/-- RING_DESTROY (R65). -/
def execRingDestroy (c : Cmd) (s : State) : Host.Outcome State Fault Refusal := .next (runCmd specRingDestroy doRingDestroy c s)

def specRingRetry : CmdSpec := { opcode := 0x0445, issuer := .any, cls := .stop, fields := [(0, 1), (1, 1)] }

def doRingRetry (c : Cmd) (s : State) : CmdOut :=
  needParam (decide (1 ≤ param c 0 1 ∧ param c 0 1 ≤ 16) && decide (param c 1 1 ≤ 15)) s
    (cmdOk (fnMod (namedOf c) (fun f => { f with retryDelay := param c 0 1, retryCount := param c 1 1 }) s))

/-- RING_RETRY (R76). -/
def execRingRetry (c : Cmd) (s : State) : Host.Outcome State Fault Refusal := .next (runCmd specRingRetry doRingRetry c s)

def specRingQuota : CmdSpec := { opcode := 0x0446, issuer := .namesVf, cls := .any, fields := [(0, 2), (2, 2)] }

def doRingQuota (c : Cmd) (s : State) : CmdOut :=
  let fn := namedOf c
  let sq := param c 0 2
  let cq := param c 2 2
  let s1 := fnMod fn (fun f => { f with sqQuota := sq, cqQuota := cq }) s
  let nSq (f : Nat) : Nat := (ringsOf s f).length
  let nCq (f : Nat) : Nat := (s.cqs.filter fun p => p.1 / 65536 == f).length
  if sq > 8192 ∨ cq > 8192 then cmdFail s .invalidParam
  else if sq < nSq fn ∨ cq < nCq fn ∨ sqQuotaOf s1 0 < nSq 0 ∨ cqQuotaOf s1 0 < nCq 0 then cmdFail s .busy
  else cmdOk s1

/-- RING_QUOTA (R62). -/
def execRingQuota (c : Cmd) (s : State) : Host.Outcome State Fault Refusal := .next (runCmd specRingQuota doRingQuota c s)

def specHostWatchdog : CmdSpec := { opcode := 0x0447, issuer := .any, cls := .any, fields := [(0, 2)] }

def doHostWatchdog (c : Cmd) (s : State) : CmdOut :=
  let ms := param c 0 2
  needParam (decide (ms ≤ 10000)) s
    (cmdOk (fnMod (namedOf c) (fun f =>
      { f with watchdogMs := ms, watchdogAt := if ms = 0 ∨ f.mode ≠ .running then none else some (s.dev.now + 1000000 * ms) }) s))

/-- HOST_WATCHDOG (R85). -/
def execHostWatchdog (c : Cmd) (s : State) : Host.Outcome State Fault Refusal := .next (runCmd specHostWatchdog doHostWatchdog c s)

end Sys2Proof.Machine
end

