-- ==== Sys2Proof/Machine/Device.lean ====
section
/-! DEFINITION. The device and function-lifecycle opcodes (Table 2-8), the channel page (Table 2-2), and stop, start and
attach (R35, R36, R48, R49, R51, R53, R54, R57, R58, R87, R490). -/

namespace Sys2Proof.Machine

/-! ### dev.* -/

def specDevQuery : CmdSpec :=
  { opcode := 0x0101, issuer := .any, cls := .any, inHeld := true, rom := true, fields := [(0, 8), (8, 4)] }

def doDevQuery (c : Cmd) (s : State) : CmdOut :=
  needParam (isHelm c || (param c 0 8 % 64 == 0 && decide (128 ≤ param c 8 4))) s
    (.done (writeResult c (param c 0 8) 1024 (devQueryBits s (fnLevel1 s (issuerOf c))) s) .ok 128 0 0)

/-- DEV_QUERY (R48, Table 2-9). -/
def execDevQuery (c : Cmd) (s : State) : Host.Outcome State Fault Refusal := .next (runCmd specDevQuery doDevQuery c s)

def specDevProfile : CmdSpec := { opcode := 0x0102, issuer := .pf0, cls := .any, fields := [(0, 1)] }

def profileOfCode (n : Nat) : Option Profile :=
  match n with
  | 0 => some .balanced | 1 => some .latency | 2 => some .efficiency | _ => none

def doDevProfile (c : Cmd) (s : State) : CmdOut :=
  match profileOfCode (param c 0 1) with
  | some p => .later s (.profile p (nextMultiple s.dev.now 100000))
  | none => cmdFail s .invalidParam

/-- DEV_PROFILE (R58): the reply follows the boundary at which the profile changes. -/
def execDevProfile (c : Cmd) (s : State) : Host.Outcome State Fault Refusal := .next (runCmd specDevProfile doDevProfile c s)

def specDevTime : CmdSpec := { opcode := 0x0103, issuer := .any, cls := .any, inHeld := true, fields := [] }

/-- DEV_TIME (R48). -/
def execDevTime (c : Cmd) (s : State) : Host.Outcome State Fault Refusal :=
  .next (runCmd specDevTime (fun _ t => .done t .ok t.dev.now 0 0) c s)

def specDevReset : CmdSpec := { opcode := 0x0104, issuer := .pf0, cls := .any, fields := [(0, 1)] }

def doDevReset (c : Cmd) (s : State) : CmdOut :=
  needParam (param c 0 1 == 0) s (cmdOk { s with dev := { s.dev with resetDue := some (s.dev.now + 10000, .railsHeld) } })

/-- DEV_RESET (R48): the reset takes effect at least 10 µs after the reply. -/
def execDevReset (c : Cmd) (s : State) : Host.Outcome State Fault Refusal := .next (runCmd specDevReset doDevReset c s)

def specDevPps : CmdSpec := { opcode := 0x0105, issuer := .any, cls := .any, fields := [] }

/-- DEV_PPS (R490). -/
def execDevPps (c : Cmd) (s : State) : Host.Outcome State Fault Refusal :=
  .next (runCmd specDevPps (fun _ t => .done t .ok t.dev.ppsLatest t.dev.ppsPrev t.dev.ppsCount) c s)

/-- PPS_EDGE (R490): a rising edge that was high for `highNs`. Shorter pulses are filtered; an edge less than 100 ms after the
one before it is counted and not stamped. -/
def execPpsEdge (highNs : Nat) (s : State) : Host.Outcome State Fault Refusal :=
  if highNs < 20 then .next s
  else
    let near : Bool := match s.dev.ppsEdgeAt with
      | some t => decide (s.dev.now < t + 100000000)
      | none => false
    let d := { s.dev with ppsCount := s.dev.ppsCount + 1, ppsEdgeAt := some s.dev.now }
    .next { s with dev := if near then d else { d with ppsPrev := s.dev.ppsLatest, ppsLatest := s.dev.now } }

/-! ### fn.* -/

def specFnQuery : CmdSpec := { opcode := 0x0201, issuer := .any, cls := .any, inHeld := true, fields := [] }

def ownedSqs (s : State) (fn : Nat) : Nat := (s.sqs.filter fun p => p.1 / 65536 == fn).length
def ownedCqs (s : State) (fn : Nat) : Nat := (s.cqs.filter fun p => p.1 / 65536 == fn).length
def ownedQps (s : State) (fn : Nat) : Nat := tabCount s.qps fun q => q.conf.fn == fn

def doFnQuery (c : Cmd) (s : State) : CmdOut :=
  let fn := namedOf c
  match fnGet s fn with
  | some f =>
    .done s .ok (pack [(0, 3, fnModeCode f.mode), (3, 1, flag f.level1), (4, 17, ownedSqs s fn), (21, 17, ownedCqs s fn)])
      (ownedQps s fn) f.retention
  | none => cmdFail s .invalidParam

/-- FN_QUERY (R48). -/
def execFnQuery (c : Cmd) (s : State) : Host.Outcome State Fault Refusal := .next (runCmd specFnQuery doFnQuery c s)

/-- Every submission ring of a function stops; what it prefetched is discarded, and its re-reads are cancelled (R22, R78). DESIGN CHOICE (log
entry 86): a level-1 ring forgets `PRODUCER_INDEX`, so that after `fn.start` it fetches again with its next doorbell. -/
def stopRings (fn : Nat) (s : State) : State :=
  { s with sqs := tabMap s.sqs fun k r =>
      if k / 65536 = fn then { r with running := false, scanning := false, prefetched := [], rereads := 0, producer := r.accepted } else r }

def specFnStop : CmdSpec := { opcode := 0x0202, issuer := .any, cls := .run, fields := [] }

def doFnStop (c : Cmd) (s : State) : CmdOut :=
  let fn := namedOf c
  .deferred (stopRings fn (fnMod fn (fun f => { f with mode := .stopping, watchdogAt := none }) s)) (.fnStop fn)

/-- FN_STOP (R51). -/
def execFnStop (c : Cmd) (s : State) : Host.Outcome State Fault Refusal := .next (runCmd specFnStop doFnStop c s)

/-- The command is an `fn.stop` of function `fn`. -/
def isStopOf (fn : Nat) (p : Pending) : Bool :=
  match p.what with
  | .fnStop n => n == fn
  | _ => false

/-- Everything that R51 waits for: every accepted entry has its completion, and every command that precedes the `fn.stop` of
the function has its final reply. -/
def quiesced (s : State) (fn : Nat) : Bool :=
  ((works s).all fun p => p.2.fn != fn || p.2.state == .done || p.2.state == .held) &&
  ((s.commands.takeWhile fun p => !isStopOf fn p).all fun p => p.function.toNat != fn)

/-- FN_STOP_QUIESCED (R51). -/
def execFnStopQuiesced (fn : Nat) (s : State) : Host.Outcome State Fault Refusal :=
  whileLit s <|
  if fnModeOf s fn = .stopping ∧ quiesced s fn then
    .next (finishCmds (fun d => if d = .fnStop fn then some (.ok, 0, 0, 0) else none)
      (fnMod fn (fun f => { f with mode := .stopped }) s))
  else .next s

def specFnStart : CmdSpec := { opcode := 0x0203, issuer := .any, cls := .stop, fields := [] }

/-- `fn.start`: every ring is scanned from its accepted index as if its doorbell had been written; `found` is what the scans
read. -/
def doFnStart (found : List RingRead) (c : Cmd) (s : State) : CmdOut :=
  let fn := namedOf c
  let token := Config.freeWord s.dev.fresh
  let s1 := fnMod fn (fun f =>
    { f with mode := .running, token := some token,
             watchdogAt := if f.watchdogMs = 0 then none else some (s.dev.now + 1000000 * f.watchdogMs) }) (takeFresh s)
  let s2 := { s1 with sqs := tabMap s1.sqs fun k r =>
    if k / 65536 = fn then { r with running := true, scanning := true, doorbellAt := s.dev.now, rereads := 0 } else r }
  .done (found.foldl (fun t r => scanRing (pairKey fn r.ring) r.entries t) s2) .ok token.toNat 0 0

/-- FN_START (R53, Table 2-11). -/
def execFnStart (c : Cmd) (found : List RingRead) (s : State) : Host.Outcome State Fault Refusal :=
  .next (runCmd specFnStart (doFnStart found) c s)

/-! ### fn.attach (R49, R87) -/

def specFnAttach : CmdSpec := { opcode := 0x0205, issuer := .any, cls := .held, inHeld := true, fields := [(0, 8), (8, 8), (16, 4)] }

/-- The channel whose reply ring a held reply goes to. -/
def replyChannel (o : Origin) : Nat :=
  match o with
  | .ring fn => fn
  | .helm _ _ => 0

def channelReady (s : State) (fn : Nat) : Bool :=
  match fnGet s fn with
  | some f => f.channel.mode == .ready
  | none => false

/-- Step 1: one record of R49 for each submission ring, in ring order. -/
def attachRecords (fn hpa : Nat) (s : State) : State :=
  ((ringsOf s fn).zipIdx).foldl (fun t r =>
    emit (.hostWrite fn (hpa + 8 * r.2) false 64 (attachRecord (r.1.1 % 65536) (r.1.2.accepted % 65536))) t) s

/-- Step 2: every ring and partition of the function starts again from index 0 (R87, R115). -/
def rewindRings (fn : Nat) (s : State) : State :=
  let rewindSq (k : Nat) (r : SubRing) : SubRing :=
    if k / 65536 = fn then { r with accepted := 0, prefetched := [], producer := 0, scanning := false, rereads := 0, roundTaken := 0, visitTaken := 0 } else r
  let rewindCq (k : Nat) (q : CplRing) : CplRing :=
    if k / 65536 = fn then { q with written := 0, head := 0, blocked := false, counted := 0, firstCounted := none } else q
  let s1 := { s with sqs := tabMap s.sqs rewindSq, cqs := tabMap s.cqs rewindCq }
  let s2 := spaceMod fn (fun a =>
    { a with space := a.space.map fun x => { x with written := 0, head := 0, overflow := false } }) s1
  (ringsOf s2 fn).foldl (fun t r =>
    match cqGet t fn r.2.cq with
    | some q => emit (.hostWrite fn (q.header.toNat + 8 * r.2.slot) false 64 (acceptedWord 0 (r.1 % 65536) true)) t
    | none => t) s2

/-- Reply entries that a channel must hold for what `fn.attach` of `fn` writes there: the held replies, and its own two. -/
def repliesDue (s : State) (fn ch : Nat) (o : Origin) : Nat :=
  (s.heldReplies.filter fun r => r.fn == fn && replyChannel r.origin == ch).length + (if o = .ring ch then 2 else 0)

/-- A channel is READY and has room for the replies of the attach: a reply is never overwritten (R44). -/
def channelTakes (s : State) (fn ch : Nat) (o : Origin) : Bool :=
  match fnGet s ch with
  | some f => f.channel.mode == .ready && decide (repliesDue s fn ch o ≤ replyFree f.channel)
  | none => false

/-- Replies that commands of the function give after the attach are not held; one whose channel is not READY then stays held (log entry 88). -/
def releaseReplies (fn : Nat) (s : State) : State :=
  { s with commands := s.commands.map fun p =>
      if p.heldFor = some fn ∧ channelReady s (replyChannel p.origin) then { p with heldFor := none } else p }

/-- Step 3: the held command replies, each to the channel that read its command; `signal`: each signals as it is written, unless its command
was quiet. -/
def deliverReplies (signal : Bool) (fn : Nat) (s : State) : State :=
  (s.heldReplies.filter fun r => r.fn == fn).foldl (fun t r =>
    journalFree r.record
      (writeReply (replyChannel r.origin) (signal && !r.quiet) r.reply { t with heldReplies := t.heldReplies.erase r })) s

/-- The held completions of a function, in acceptance order. -/
def heldWorks (s : State) (fn : Nat) : List (Nat × Work) :=
  byOrder ((works s).filter fun p => p.2.fn == fn && p.2.state == .held)

/-- Step 4: the held completions, each with `HELD` = 1. -/
def deliverCompletions (fn : Nat) (s : State) : State :=
  (heldWorks s fn).foldl (fun t p =>
    match p.2.source with
    | .ring r => (match cqOfRing t r with | some key => writeCqe key (r % 65536) true p.1 p.2 t | none => t)
    | .request _ _ => t) s

/-- Step 5: the mask is lifted, and the signals that stand in for those it dropped are sent (log entry 17: channels first, then
completion rings, then shared receive queues). -/
def attachSignals (fn : Nat) (channels : List Nat) (rings : List Nat) (s : State) : State :=
  let s1 := fnMod fn (fun f => { f with masked := false }) s
  let s2 := channels.foldl (fun t n => match fnGet t n with
    | some f => signalVec n f.channel.replyVector.toNat t
    | none => t) s1
  let s3 := rings.foldl (fun t key => match tabGet t.cqs key with
    | some q => (match q.vector with | some v => signalVec fn v t | none => t)
    | none => t) s2
  (s3.srqs.filter fun p => p.2.fn == fn && p.2.limit != 0 && decide (p.2.buffers.length < p.2.limit)).foldl (fun t p =>
    signalVec fn p.2.vector { t with srqs := tabMod t.srqs p.1 fun x => { x with armed := false } }) s3

def doFnAttach (c : Cmd) (s : State) : CmdOut :=
  let fn := namedOf c
  match fnGet s fn with
  | none => cmdFail s .invalidParam
  | some f =>
    let held := s.heldReplies.filter fun r => r.fn == fn
    if f.token.map BitVec.toNat ≠ some (param c 0 8) then cmdFail s .notPermitted
    else if param c 16 4 < 8 * ownedSqs s fn then cmdFail s .invalidParam
    else if !(held.all fun r => channelTakes s fn (replyChannel r.origin) c.origin) then cmdFail s .busy
    else
      let rings := sortedNats ((heldWorks s fn).filterMap fun p => match p.2.source with | .ring r => cqOfRing s r | .request _ _ => none)
      let channels := sortedNats ((held.filter fun r => !r.quiet).map fun r => replyChannel r.origin)
      let s1 := replyNow 0x0205 c .accepted false 0 0 0 s
      let s2 := deliverCompletions fn (deliverReplies false fn (rewindRings fn (attachRecords fn (param c 8 8) s1)))
      let s3 := fnMod fn (fun x => { x with mode := .stopped, heldSince := none }) (attachSignals fn channels rings s2)
      .done (releaseReplies fn s3) .ok (ownedSqs s fn) f.resetIndex.toNat 0

/-- FN_ATTACH (R87): fault records that waited follow the final `OK`. -/
def execFnAttach (c : Cmd) (s : State) : Host.Outcome State Fault Refusal :=
  if takesCommand specFnAttach c s && (cmdCheck specFnAttach c (consumeSlot c s)).isNone &&
      cmdSucceeds (doFnAttach c (consumeSlot c s)) then
    .next (pumpPartition (namedOf c) (runCmd specFnAttach doFnAttach c s))
  else .next (runCmd specFnAttach doFnAttach c s)

def specFnLevel : CmdSpec := { opcode := 0x0206, issuer := .any, cls := .stop, fields := [(0, 1)] }

def doFnLevel (c : Cmd) (s : State) : CmdOut :=
  let fn := namedOf c
  let lv := param c 0 1
  if !(lv == 1 || lv == 2) then cmdFail s .invalidParam
  else if lv = 2 ∧ s.dev.level1Strap then cmdFail s .levelUnsupported
  else if ownedSqs s fn + ownedCqs s fn + ownedQps s fn ≠ 0 then cmdFail s .busy
  else .done (fnMod fn (fun f => { f with level1 := lv == 1 }) s) .ok (if fnLevel1 s fn then 1 else 2) 0 0

/-- FN_LEVEL (R57). -/
def execFnLevel (c : Cmd) (s : State) : Host.Outcome State Fault Refusal := .next (runCmd specFnLevel doFnLevel c s)

def specFnRetain : CmdSpec := { opcode := 0x0207, issuer := .any, cls := .any, fields := [(0, 2)] }

def doFnRetain (c : Cmd) (s : State) : CmdOut :=
  let n := param c 0 2
  let old := match fnGet s (namedOf c) with | some f => f.retention | none => 0
  needParam (decide (1 ≤ n ∧ n ≤ 600)) s (.done (fnMod (namedOf c) (fun f => { f with retention := n }) s) .ok old 0 0)

/-- FN_RETAIN (R88). -/
def execFnRetain (c : Cmd) (s : State) : Host.Outcome State Fault Refusal := .next (runCmd specFnRetain doFnRetain c s)

/-! ### The channel page -/

/-- `CHANNEL_STATE` of the function is DOWN, so that its settings take writes (R36); in ROM recovery PF0's channel is set up
in the same way. -/
def channelDown (s : State) (fn : Nat) : Bool :=
  match fnGet s fn with
  | some f =>
    f.channel.mode == .down && !f.latent && f.mode != .disabled &&
    (match s.dev.life with
     | .running | .fwRestart => true
     | .romRecovery => fn == 0
     | _ => false)
  | none => false

/-- The settings of a channel are valid (R36); `ctrl`: the value written to `CHANNEL_CTRL`. -/
def settingsValid (ch : Channel) (ctrl : Nat) : Bool :=
  let sizes := ch.ringSizes.toNat
  let k1 := bits sizes 0 5
  let k2 := bits sizes 8 5
  bits ctrl 1 15 == 0 && bits ctrl 27 5 == 0 && bits sizes 5 3 == 0 && bits sizes 13 19 == 0 &&
  bits ch.cmdBase.toNat 0 12 == 0 && bits ch.replyBase.toNat 0 12 == 0 &&
  decide (4 ≤ k1 ∧ k1 ≤ 12) && decide (4 ≤ k2 ∧ k2 ≤ 12)

/-- Replies still held though their function has been attached: they waited for its channel to be READY again (log entry 88). -/
def lateReplies (fn : Nat) (s : State) : State :=
  if channelReady s fn && !dmaBarred s fn then deliverReplies true fn (releaseReplies fn s) else s

/-- A write of 1 to `ENABLE` while DOWN (R36). -/
def enableChannel (fn ctrl : Nat) (s : State) : State :=
  if channelDown s fn then
    lateReplies fn (chanMod fn (fun ch =>
      let c1 := { ch with replyVector := BitVec.ofNat 16 (bits ctrl 16 11), enable := true }
      if settingsValid c1 ctrl then
        { c1 with mode := .ready, replyIndex := 0, consumed := 0, replyHead := 0, disabling := false, starved := false, scanning := false,
                  rereads := 0 }
      else { c1 with mode := .fault }) s)
  else s

/-- A write of 0 to `ENABLE`: from READY or FAULT the channel is on its way to DOWN; while DOWN only `REPLY_VECTOR` is
taken. -/
def disableChannel (fn ctrl : Nat) (s : State) : State :=
  if channelDown s fn then chanMod fn (fun ch => { ch with replyVector := BitVec.ofNat 16 (bits ctrl 16 11), enable := false }) s
  else chanMod fn (fun ch => if ch.mode = .down then ch else { ch with disabling := true, enable := false }) s

def writeCtrl (fn ctrl : Nat) (s : State) : State := if bit ctrl 0 then enableChannel fn ctrl s else disableChannel fn ctrl s

/-- CHANNEL_ENABLE (R36): `CHANNEL_CTRL` is written with `ENABLE` 1. -/
def execChannelEnable (fn : Nat) (value : W32) (s : State) : Host.Outcome State Fault Refusal :=
  if bit value.toNat 0 then .next (enableChannel fn value.toNat (hearHost s)) else .next s

/-- CHANNEL_DISABLE (R36): `CHANNEL_CTRL` is written with `ENABLE` 0. -/
def execChannelDisable (fn : Nat) (value : W32) (s : State) : Host.Outcome State Fault Refusal :=
  if bit value.toNat 0 then .next s else .next (disableChannel fn value.toNat (hearHost s))

/-- CHANNEL_DOWN_COMPLETE (R36): every command already read has written its final reply. -/
def execChannelDownComplete (fn : Nat) (s : State) : Host.Outcome State Fault Refusal :=
  match fnGet s fn with
  | some f =>
    if f.channel.disabling && owedTo s fn == 0 then
      .next (chanMod fn (fun ch => { ch with mode := .down, disabling := false, starved := false, scanning := false, rereads := 0 }) s)
    else .next s
  | none => .next s

/-- One half of a 64-bit register takes 32 bits. -/
def setHalf (old : W64) (high : Bool) (v : Nat) : W64 :=
  if high then BitVec.ofNat 64 (old.toNat % 2 ^ 32 + v * 2 ^ 32) else BitVec.ofNat 64 (old.toNat / 2 ^ 32 * 2 ^ 32 + v)

/-- A doorbell of the command ring starts a scan, or merges into the one under way, and restarts the re-reads (R39, R76). -/
def startScan (fn : Nat) (s : State) : State :=
  chanMod fn (fun ch => if ch.mode = .ready then { ch with scanning := true, doorbellAt := s.dev.now, rereads := 0 } else ch) s

/-- `REPLY_HEAD` takes a value; reading that had stopped for want of reply entries resumes as a doorbell would have it (R44). -/
def takeReplyHead (fn v : Nat) (s : State) : State :=
  let s1 := chanMod fn (fun ch => { ch with replyHead := BitVec.ofNat 16 (v % 65536) }) s
  match fnGet s1 fn with
  | some f =>
    if f.channel.starved && readsCommands s1 fn then startScan fn (chanMod fn (fun ch => { ch with starved := false }) s1) else s1
  | none => s1

/-- A 32-bit write that reaches the word at `off` of the channel page (Table 2-2). A scan that it starts reads its slots later
(`RING_REREAD`). -/
def writeWord (fn off v : Nat) (s : State) : State :=
  let set (f : Channel → Channel) : State := if channelDown s fn then chanMod fn f s else s
  match off with
  | 0x010 => set fun ch => { ch with cmdBase := setHalf ch.cmdBase false v }
  | 0x014 => set fun ch => { ch with cmdBase := setHalf ch.cmdBase true v }
  | 0x018 => set fun ch => { ch with replyBase := setHalf ch.replyBase false v }
  | 0x01C => set fun ch => { ch with replyBase := setHalf ch.replyBase true v }
  | 0x020 => set fun ch => { ch with ringSizes := BitVec.ofNat 32 v }
  | 0x024 => writeCtrl fn v s
  | 0x028 => takeReplyHead fn v s
  | 0x030 => startScan fn (touchWatchdog fn s)
  | _ => s

/-- A 64-bit write at `off`: a 64-bit register whole, or a 32-bit register and the next where that is adjacent (R35). DESIGN CHOICE (log entry
85): of `RING_SIZES` and `CHANNEL_CTRL` the first takes its value before the second acts. -/
def writeDouble (fn off v : Nat) (s : State) : State :=
  let lo := v % 2 ^ 32
  let hi := v / 2 ^ 32 % 2 ^ 32
  match off with
  | 0x010 | 0x018 | 0x020 => writeWord fn (off + 4) hi (writeWord fn off lo s)
  | 0x028 | 0x030 => writeWord fn off lo s
  | _ => s

/-- The word at `off` of the channel page as a 32-bit read samples it: zero where nothing is listed (R35), and at the write-only doorbell. -/
def pageWord (s : State) (fn off : Nat) : Nat :=
  match fnGet s fn with
  | none => 0
  | some f =>
    let half (v : Nat) : Nat := if off % 8 = 0 then v % 2 ^ 32 else v / 2 ^ 32
    match off with
    | 0x000 | 0x004 => half (channelStatus s fn)
    | 0x008 => clockStatus s
    | 0x010 | 0x014 => half f.channel.cmdBase.toNat
    | 0x018 | 0x01C => half f.channel.replyBase.toNat
    | 0x020 => f.channel.ringSizes.toNat
    | 0x024 => pack [(0, 1, flag f.channel.enable), (16, 11, f.channel.replyVector.toNat)]
    | 0x028 => f.channel.replyHead.toNat
    | _ => 0

/-- A 64-bit read at `off`: a 64-bit register whole, or a 32-bit register and the next where that is adjacent (R35). -/
def pageDouble (s : State) (fn off : Nat) : Nat :=
  match off with
  | 0x000 | 0x010 | 0x018 | 0x020 => pageWord s fn off + pageWord s fn (off + 4) * 2 ^ 32
  | _ => pageWord s fn off

/-- An access of 32 or 64 bits that is aligned; none: another (R35). -/
def alignedAccess (offset width : Nat) : Bool := (width == 32 && offset % 4 == 0) || (width == 64 && offset % 8 == 0)

/-- A write of BAR0: the channel page, or a doorbell, which starts its scan (R34, R35). -/
def writeBar0 (fn offset width : Nat) (v : W64) (s : State) : State :=
  match doorbellRing fn offset with
  | some ring =>
    let s0 := touchWatchdog fn s
    if fnLevel1 s fn then ringDoorbellLevel1 fn ring width v [] none s0 else ringDoorbell fn ring width [] none s0
  | none =>
    if !alignedAccess offset width then s
    else if width = 32 then writeWord fn offset (v.toNat % 2 ^ 32) s
    else writeDouble fn offset v.toNat s

/-- A read of BAR0 (R35): accesses of other widths, and other offsets, return zero. -/
def readBar0 (s : State) (fn offset width : Nat) : Nat :=
  if !alignedAccess offset width then 0 else if width = 32 then pageWord s fn offset else pageDouble s fn offset

/-! ### BAR2: the MSI-X table and the pending bits (R33) -/

/-- The word at `off` of BAR2: 2,048 entries of 16 bytes, then the pending-bit array at 0x8000. -/
def msixWord (f : Function) (off : Nat) : Nat :=
  let e := msixOf f (off / 16)
  if off < 0x8000 then
    match off % 16 / 4 with
    | 0 => e.addr.toNat % 2 ^ 32
    | 1 => e.addr.toNat / 2 ^ 32
    | 2 => e.data.toNat
    | _ => flag e.mask
  else if off < 0x8100 then ((List.range 32).map fun i => flag (f.pendingBits.contains (8 * (off - 0x8000) + i)) * 2 ^ i).sum
  else 0

/-- An entry of the table with one of its words replaced. -/
def setMsixWord (e : MsixEntry) (off v : Nat) : MsixEntry :=
  match off % 16 / 4 with
  | 0 => { e with addr := setHalf e.addr false v }
  | 1 => { e with addr := setHalf e.addr true v }
  | 2 => { e with data := BitVec.ofNat 32 v }
  | _ => { e with mask := bit v 0 }

/-- A vector that is pending and no longer masked sends its message. -/
def sendPending (fn v : Nat) (s : State) : State :=
  match fnGet s fn with
  | some f =>
    if f.pendingBits.contains v ∧ !(msixOf f v).mask ∧ !f.masked then
      signalVec fn v (fnMod fn (fun x => { x with pendingBits := x.pendingBits.filter (· != v) }) s)
    else s
  | none => s

/-- A 32-bit write at `off` of BAR2: the pending bits are read-only. -/
def writeMsixWord (fn off v : Nat) (s : State) : State :=
  if off < 0x8000 then
    sendPending fn (off / 16)
      (fnMod fn (fun f => { f with msix := tabSet f.msix (off / 16) (setMsixWord (msixOf f (off / 16)) off v) }) s)
  else s

def writeBar2 (fn offset width : Nat) (v : W64) (s : State) : State :=
  if !alignedAccess offset width then s
  else if width = 32 then writeMsixWord fn offset (v.toNat % 2 ^ 32) s
  else writeMsixWord fn (offset + 4) (v.toNat / 2 ^ 32) (writeMsixWord fn offset (v.toNat % 2 ^ 32) s)

def readBar2 (s : State) (fn offset width : Nat) : Nat :=
  match fnGet s fn with
  | none => 0
  | some f =>
    if !alignedAccess offset width then 0
    else if width = 32 then msixWord f offset else msixWord f offset + msixWord f (offset + 4) * 2 ^ 32

/-! ### Configuration space (Table 3-1) -/

/-- Size of BAR `n` of a function, Table 2-1: zero where the function has none. -/
def barSize (fn n : Nat) : Nat :=
  match n with
  | 0 => if fn = 0 then 2 ^ 20 else 2 ^ 17
  | 2 => 2 ^ 16
  | 4 => 2 ^ 38
  | _ => 0

/-- What a register of configuration space reads as. -/
def cfgRead (s : State) (fn : Nat) (f : Function) (r : CfgReg) : Nat :=
  match r with
  | .relaxedOrdering => flag f.relaxedOrdering
  | .atomicRequester => flag f.atomicRequester
  | .maxPayload => f.maxPayload
  | .maxReadRequest => f.maxRead
  | .aspmL1 => flag s.pcie.aspmL1
  | .ariEnable => flag s.pcie.ari
  | .linkRate => s.pcie.rate
  | .linkWidth => s.pcie.width
  | .flitMode => flag s.pcie.flit
  | .aspmSupport => 2
  | .l1ExitLatency => 3
  | .laneMargining => 1
  | .maxPayloadSupported => 512
  | .tenBitTags => 1
  | .fourteenBitTags => 0
  | .noSnoop => 0
  | .flrCapable => 1
  | .aerCapable => 1
  | .totalVfs => 255
  | .firstVfOffset => 1
  | .vfStride => 1
  | .vfEnable => flag s.pcie.vfEnable
  | .numVfs => s.pcie.numVfs
  | .translationServices => 0
  | .barSize n => barSize fn n

/-- A power of two from `lo` to `hi`. -/
def sizeIn (lo hi v : Nat) : Bool := (List.range 13).any fun i => v == 2 ^ i && decide (lo ≤ v ∧ v ≤ hi)

/-- A write of a register of configuration space: one that is read-only keeps its value, and so does one written with a value that Table 3-1
does not list. Link Control and ARI are PF0's. -/
def cfgWrite (fn : Nat) (r : CfgReg) (v : Nat) (s : State) : State :=
  match r with
  | .relaxedOrdering => fnMod fn (fun f => { f with relaxedOrdering := v != 0 }) s
  | .atomicRequester => fnMod fn (fun f => { f with atomicRequester := v != 0 }) s
  | .maxPayload => if sizeIn 128 512 v then fnMod fn (fun f => { f with maxPayload := v }) s else s
  | .maxReadRequest => if sizeIn 128 4096 v then fnMod fn (fun f => { f with maxRead := v }) s else s
  | .aspmL1 => if fn = 0 then { s with pcie := { s.pcie with aspmL1 := v != 0 } } else s
  | .ariEnable => if fn = 0 then { s with pcie := { s.pcie with ari := v != 0 } } else s
  | _ => s

/-! ### Host accesses -/

/-- The channel page of a function takes writes: not before a start completes (R455); in ROM recovery PF0's does (R398). -/
def pageOpen (s : State) (fn : Nat) : Bool := (lit s || (s.dev.life == .romRecovery && fn == 0)) && fnEnabled s fn

/-- A host access (R33 to R35, R442). A read is answered in every state of the device, by island 0, which is never stopped (R14). -/
def hostAccess (fn : Nat) (a : HostPlace) (width : Nat) (value : Option W64) (s : State) : State :=
  match a, value with
  | .bar0 offset, some v => if pageOpen s fn then writeBar0 fn offset width v s else s
  | .bar0 offset, none => emit (.registerData fn width (readBar0 s fn offset width)) s
  | .bar2 offset, some v => if fnEnabled s fn then writeBar2 fn offset width v s else s
  | .bar2 offset, none => emit (.registerData fn width (readBar2 s fn offset width)) s
  | .config r, some v => if fnEnabled s fn then cfgWrite fn r v.toNat s else s
  | .config r, none =>
    (match fnGet s fn with
     | some f => emit (.registerData fn 32 (cfgRead s fn f r)) s
     | none => s)
  | .control island, v => controlAccess fn island v.isSome s

/-- REGISTER_WRITE (R33 to R36, R442): a host access to a register that has no row of its own, or to any register by its address. -/
def execRegisterWrite (fn : Nat) (place : HostPlace) (width : Nat) (value : Option W64) (s : State) : Host.Outcome State Fault Refusal :=
  if fnEnabled s fn then .next (hostAccess fn place width value (hearHost s)) else .next s

end Sys2Proof.Machine
end

