-- ==== Sys2Proof/Machine/Qos.lean ====
section
/-! DEFINITION. Scheduling opcodes, refills and soundings (R179 to R190). -/

namespace Sys2Proof.Machine

def schedMod (f : Sched → Sched) (s : State) : State := { s with sched := f s.sched }

/-- Port numbers of Table 7-4: Ethernet breakout ports 0 to 31, fabric ports 32 to 47. -/
def egressPortOk (p : Nat) : Bool := decide (p < 48)

def specCcClass : CmdSpec := { opcode := 0x0450, issuer := .pf0, cls := .any, fields := [(0, 1), (4, 4), (8, 4), (12, 1)] }

def doCcClass (c : Cmd) (s : State) : CmdOut :=
  let range (v : Nat) : Bool := decide (250 ≤ v ∧ v ≤ 1000000)
  needParam (decide (param c 0 1 < 8) && range (param c 4 4) && range (param c 8 4) && decide (param c 12 1 ≤ 10)) s
    (let x : ClassCc := { targetFab := param c 4 4, targetEth := param c 8 4, rInitShift := some (param c 12 1) }
     cmdOk (schedMod (fun y => { y with classes := tabSet y.classes (param c 0 1) x }) s))

/-- CC_CLASS (R186). -/
def execCcClass (c : Cmd) (s : State) : Host.Outcome State Fault Refusal := .next (runCmd specCcClass doCcClass c s)

def specQosShare : CmdSpec := { opcode := 0x0451, issuer := .pf0, cls := .any, fields := [(0, 2)] }

def doQosShare (c : Cmd) (s : State) : CmdOut :=
  let v := param c 0 2
  needParam (decide (1 ≤ v ∧ v ≤ 10000)) s
    (.done (fnMod (namedOf c) (fun f => { f with share := v }) s) .ok (fnShare s (namedOf c)) 0 0)

/-- QOS_SHARE (R180). -/
def execQosShare (c : Cmd) (s : State) : Host.Outcome State Fault Refusal := .next (runCmd specQosShare doQosShare c s)

def specSchedTc : CmdSpec := { opcode := 0x0452, issuer := .pf0, cls := .any, fields := [(0, 1), (1, 4)] }

def doSchedTc (c : Cmd) (s : State) : CmdOut :=
  let w := (List.range 4).map fun i => param c (1 + i) 1
  needParam (egressPortOk (param c 0 1) && w.all fun x => decide (1 ≤ x)) s
    (cmdOk { s with sched := { s.sched with tcWeights := tabSet s.sched.tcWeights (param c 0 1) w } })

/-- SCHED_TC (R179). -/
def execSchedTc (c : Cmd) (s : State) : Host.Outcome State Fault Refusal := .next (runCmd specSchedTc doSchedTc c s)

/-- The function owns queue pair `n` (R127). -/
def ownsQp (s : State) (fn n : Nat) : Bool :=
  match qpGet s n with
  | some q => q.conf.fn == fn && q.ending != some true
  | none => false

def specSchedQp : CmdSpec := { opcode := 0x0453, issuer := .any, cls := .any, fields := [(0, 4), (4, 1)] }

def doSchedQp (c : Cmd) (s : State) : CmdOut :=
  needParam (ownsQp s (namedOf c) (param c 0 4) && decide (1 ≤ param c 4 1)) s
    (cmdOk (qpMod (param c 0 4) (fun q => { q with weight := param c 4 1 }) s))

/-- SCHED_QP (R179). -/
def execSchedQp (c : Cmd) (s : State) : Host.Outcome State Fault Refusal := .next (runCmd specSchedQp doSchedQp c s)

/-! ### Shapers and policers -/

def specShaperSet : CmdSpec :=
  { opcode := 0x0454, issuer := .any, cls := .any, fields := [(0, 1), (1, 1), (2, 1), (4, 4), (8, 4), (12, 4)] }

/-- The shaper that `shaper.set` names, or none: its parameters are out of range. -/
def shaperNamed (c : Cmd) (s : State) : Option Nat :=
  let target := param c 4 4
  match param c 0 1 with
  | 0 => if ownsQp s (namedOf c) target then some (shaperKey 0 target 0) else none
  | 1 => if egressPortOk (param c 1 1) && decide (target < 256) then some (shaperKey 1 target (param c 1 1)) else none
  | 2 => if egressPortOk (param c 1 1) && decide (param c 2 1 < 8) then some (shaperKey 2 (param c 2 1) (param c 1 1)) else none
  | _ => none

/-- Kinds 1 and 2, and kind 0 on an admitted queue pair, are open to PF0 only (Table 7-6). -/
def shaperNeedsPf0 (c : Cmd) (s : State) : Bool :=
  param c 0 1 == 1 || param c 0 1 == 2 ||
  (param c 0 1 == 0 && (match qpGet s (param c 4 4) with | some q => (admitted q).isSome | none => false))

def doShaperSet (c : Cmd) (s0 : State) : CmdOut :=
  let s := dueRefills s0
  match shaperNamed c s with
  | none => cmdFail s .invalidParam
  | some key =>
    if param c 12 4 < 9216 then cmdFail s .invalidParam
    else if shaperNeedsPf0 c s ∧ issuerOf c ≠ 0 then cmdFail s .notPermitted
    else
      let old : Shaper := (tabGet s.sched.shapers key).getD { rate := 0, depth := 0, tokens := 0, change := none }
      let new := { old with change := some (param c 8 4, param c 12 4) }
      .later (schedMod (fun y => { y with shapers := tabSet y.shapers key new }) s) (.shaperSet key (param c 8 4) (param c 12 4))

/-- SHAPER_SET (R183): it takes effect, and its reply follows, at the next refill. -/
def execShaperSet (c : Cmd) (s : State) : Host.Outcome State Fault Refusal := .next (runCmd specShaperSet doShaperSet c s)

/-- SHAPER_REFILL (R183, R185): the next refill instant comes; changes due are made first, then tokens are added. -/
def execShaperRefill (s : State) : Host.Outcome State Fault Refusal :=
  whileLit s <| .next (dueShapers (advanceTo (nextMultiple s.dev.ticks.shaper 1000) s))

def specPolicerSet : CmdSpec :=
  { opcode := 0x0455, issuer := .pf0, cls := .any, fields := [(0, 1), (1, 1), (4, 4), (8, 4), (12, 4), (16, 4)] }

/-- Where a policer stands: an Ethernet port (Table 7-4) and a class in [0, 4). -/
def policerKey (port tc : Nat) : Nat := port * 8 + tc

/-- A new policer's buckets are full, as RFC 2698 has them. -/
def doPolicerSet (c : Cmd) (s0 : State) : CmdOut :=
  let s := dueRefills s0
  let cir := param c 4 4
  let pir := param c 8 4
  let ok := decide (param c 0 1 < 32) && decide (param c 1 1 < 4) &&
    decide (cir ≤ pir) && decide (9216 ≤ param c 12 4) && decide (9216 ≤ param c 16 4)
  let key := policerKey (param c 0 1) (param c 1 1)
  let old : Policer := (tabGet s.sched.policers key).getD
    { cir := 0, pir := 0, cbs := 0, pbs := 0, tc := param c 12 4, tp := param c 16 4, change := none }
  let new := { old with change := some (cir, pir, param c 12 4, param c 16 4) }
  needParam ok s
    (.later (schedMod (fun y => { y with policers := tabSet y.policers key new }) s) (.policerSet key cir pir (param c 12 4) (param c 16 4)))

/-- POLICER_SET (R184). -/
def execPolicerSet (c : Cmd) (s : State) : Host.Outcome State Fault Refusal := .next (runCmd specPolicerSet doPolicerSet c s)

/-- POLICER_REFILL (R184). -/
def execPolicerRefill (s : State) : Host.Outcome State Fault Refusal :=
  whileLit s <| .next (duePolicers (advanceTo (nextMultiple s.dev.ticks.policer 1000) s))

/-! ### Soundings -/

def specSndRing : CmdSpec := { opcode := 0x0B01, issuer := .any, cls := .stop, fields := [(0, 8), (8, 8), (16, 1), (18, 2)] }

def doSndRing (c : Cmd) (s : State) : CmdOut :=
  let k := param c 16 1
  needParam (param c 0 8 % 4096 == 0 && param c 8 8 % 64 == 0 && sizeOk k && decide (param c 18 2 < 2048)) s
    (let r : SoundRing := { base := BitVec.ofNat 64 (param c 0 8), header := BitVec.ofNat 64 (param c 8 8), log2 := k,
                            vector := param c 18 2, written := 0, head := 0, dropped := 0, signalledAt := none }
     cmdOk (fnMod (namedOf c) (fun f => { f with sounding := some r }) s))

/-- SND_RING (R188). -/
def execSndRing (c : Cmd) (s : State) : Host.Outcome State Fault Refusal := .next (runCmd specSndRing doSndRing c s)

/-- The queue that a sounding names exists (Table 7-4). -/
def queueNamed (s : State) (kind id : Nat) : Bool :=
  match kind with
  | 0 => (qpGet s id).isSome
  | 1 => decide (id < 2 ^ 17) && (fnGet s (bits id 9 8)).isSome && egressPortOk (bits id 0 6)
  | 2 => decide (id < 2 ^ 9) && egressPortOk (bits id 0 6)
  | 3 => decide (id < 2 ^ 6) && egressPortOk id
  | _ => false

/-- A VF may sound only its own queue pairs and function-level queues (R189). -/
def queueOwned (s : State) (fn kind id : Nat) : Bool :=
  fn == 0 || (kind == 0 && ownsQp s fn id) || (kind == 1 && bits id 9 8 == fn)

def isSounding (fn kind id : Nat) (x : Sounding) : Bool := x.fn == fn && x.kind == kind && x.id.toNat == id

def specSndAdd : CmdSpec := { opcode := 0x0B02, issuer := .any, cls := .any, fields := [(0, 1), (1, 1), (4, 4)] }

def doSndAdd (c : Cmd) (s : State) : CmdOut :=
  let fn := namedOf c
  let kind := param c 0 1
  let k := param c 1 1
  let id := param c 4 4
  if kind > 3 ∨ k > 16 then cmdFail s .invalidParam
  else if !(fn == 0) && decide (2 ≤ kind) then cmdFail s .notPermitted
  else if !queueNamed s kind id then cmdFail s .invalidParam
  else if !queueOwned s fn kind id then cmdFail s (if kind = 0 then .invalidParam else .notPermitted)
  else
    let rest := s.sched.soundings.filter fun x => !isSounding fn kind id x
    let load : Rat := (rest.map fun x => (1 : Rat) / (2 ^ x.k : Nat)).sum + (1 : Rat) / (2 ^ k : Nat)
    if rest.length ≥ 4096 ∨ 64 < load then cmdFail s .noResource
    else
      let x : Sounding := { fn := fn, kind := kind, id := BitVec.ofNat 20 id, k := k, nextAt := nextMultiple s.dev.now (1000 * 2 ^ k) }
      cmdOk (schedMod (fun y => { y with soundings := rest ++ [x] }) s)

/-- SND_ADD (R189). -/
def execSndAdd (c : Cmd) (s : State) : Host.Outcome State Fault Refusal := .next (runCmd specSndAdd doSndAdd c s)

def specSndRemove : CmdSpec := { opcode := 0x0B03, issuer := .any, cls := .any, fields := [(0, 1), (4, 4)] }

def doSndRemove (c : Cmd) (s : State) : CmdOut :=
  let mine (x : Sounding) : Bool := isSounding (namedOf c) (param c 0 1) (param c 4 4) x
  needParam (s.sched.soundings.any mine) s
    (cmdOk { s with sched := { s.sched with soundings := s.sched.soundings.filter fun x => !mine x } })

/-- SND_REMOVE (R190). -/
def execSndRemove (c : Cmd) (s : State) : Host.Outcome State Fault Refusal := .next (runCmd specSndRemove doSndRemove c s)

/-- Something that waits in the egress hierarchy: its port, if its path has one, class, function, stream, bytes, and since when. -/
structure QueuedUnit where
  port   : Option Nat
  tc     : Nat
  fn     : Nat
  stream : Nat
  bytes  : Nat
  since  : Nat
deriving DecidableEq, Repr

/-- The egress port that a queue pair's next packet would take. -/
def queuedPort (s : State) (q : Qp) : Option Nat :=
  (pickPath q (openPaths s q)).bind fun p => egressPort s q p

/-- The packets in the line of a queue pair, and those that wait to be sent again. -/
def qpQueued (s : State) (n : Nat) (q : Qp) : List QueuedUnit :=
  (q.send.queue ++ q.send.flight.filter fun x => x.retx).map fun x =>
    { port := queuedPort s q, tc := effectiveTc q, fn := q.conf.fn, stream := streamKey (.qp n), bytes := wireLen q x, since := x.queuedAt }

/-- All that waits to leave: packets of queue pairs, units at the ports, and management frames. -/
def allQueued (s : State) : List QueuedUnit :=
  (s.qps.flatMap fun p => qpQueued s p.1 p.2) ++
  (s.sched.units.map fun u => { port := some u.port, tc := u.tc, fn := u.fn, stream := u.stream, bytes := u.len, since := u.since }) ++
  (s.commands.filterMap fun p => match p.what with
    | .frameSend link tc since frame =>
      some { port := some link, tc := tc, fn := 0, stream := frameStream, bytes := frameBytes frame, since := since }
    | _ => none)

/-- A unit stands in a sounded queue (Table 7-4). -/
def inQueue (kind id : Nat) (u : QueuedUnit) : Bool :=
  match kind with
  | 0 => u.stream == id
  | 1 => u.fn == bits id 9 8 && u.tc == bits id 6 3 && u.port == some (bits id 0 6)
  | 2 => u.tc == bits id 6 3 && u.port == some (bits id 0 6)
  | _ => u.port == some id

/-- Bytes queued and age of the oldest packet of a sounded queue (R187). -/
def soundQueue (s : State) (kind id : Nat) : Nat × Nat :=
  let l := (allQueued s).filter (inQueue kind id)
  ((l.map fun u => u.bytes).sum, match l.map fun u => u.since with | [] => 0 | t :: rest => s.dev.now - rest.foldl min t)

/-- The sounding record, Table 7-4. -/
def soundingBits (now kind id bytes age : Nat) (phase : Bool) : Nat :=
  pack [(0, 64, now), (64, 20, id), (84, 4, kind), (88, 16, min (bytes / 1024) 65535), (104, 23, min age 8388607), (127, 1, flag phase)]

/-- Write one sounding record, or drop it where the ring is full (R188). `period`: the shortest that the function sounds. -/
def writeSounding (fn kind id : Nat) (s : State) : State :=
  match (fnGet s fn).bind fun f => f.sounding with
  | none => s
  | some r =>
    if dmaBarred s fn then s
    else if 2 ^ r.log2 ≤ (r.written + 2 ^ 32 - r.head.toNat) % 2 ^ 32 then
      emit (.hostWrite fn (r.header.toNat + 4) false 32 (r.dropped + 1).toNat)
        (fnMod fn (fun f => { f with sounding := some { r with dropped := r.dropped + 1 } }) s)
    else
      let q := soundQueue s kind id
      let period := 1000 * 2 ^ ((s.sched.soundings.filter fun x => x.fn == fn).map fun x => x.k).foldl min 16
      let due := match r.signalledAt with | some t => decide (t / period ≠ s.dev.now / period) | none => true
      let s1 := emit (.hostWrite fn (r.base.toNat + 16 * (r.written % 2 ^ r.log2)) false 128
        (soundingBits s.dev.now kind id q.1 q.2 (ownedPhase r.written r.log2))) s
      let r1 := { r with written := r.written + 1, signalledAt := if due then some s.dev.now else r.signalledAt }
      let s2 := fnMod fn (fun f => { f with sounding := some r1 }) s1
      if due then signalVec fn r.vector s2 else s2

/-- The sounding of a queue whose next sample falls due first; of two functions' that fall due together, the earlier one set up. -/
def nextSounding (s : State) (kind : Nat) (id : W20) : Option Sounding :=
  match s.sched.soundings.filter fun x => x.kind == kind && x.id == id with
  | [] => none
  | x :: rest => some (rest.foldl (fun m y => if y.nextAt < m.nextAt then y else m) x)

/-- SOUNDING_SAMPLE (R187): the next sample of the queue falls due, behind the refills of its instant (R185). `head`: `SND_HEAD` of the ring
that takes it, where the device read it. -/
def execSoundingSample (kind : Nat) (queueId : W20) (head : Option W32) (s : State) : Host.Outcome State Fault Refusal :=
  whileLit s <|
  match nextSounding s kind queueId with
  | none => .next s
  | some x =>
    let s1 := dueRefills (advanceTo x.nextAt s)
    let s2 := match head with
      | some h => fnMod x.fn (fun f => { f with sounding := f.sounding.map fun r => { r with head := h } }) s1
      | none => s1
    let move (y : Sounding) : Sounding := if y = x then { y with nextAt := y.nextAt + 1000 * 2 ^ y.k } else y
    .next (schedMod (fun y => { y with soundings := y.soundings.map move }) (writeSounding x.fn kind queueId.toNat s2))

end Sys2Proof.Machine
end

