-- ==== Sys2Proof/Machine/Regions.lean ====
section
/-! DEFINITION. Regions, keys, mappings, epochs, miss slots and the BAR4 aperture (chapter 4, R30, R89 to R118, R333 to R336,
R342). -/

namespace Sys2Proof.Machine

/-! ### Runs of pages -/

/-- The parts of a run outside [`a`, `b`). -/
def cutRun (a b : Nat) (p : Page) : List Page :=
  if p.dva + p.len ≤ a ∨ b ≤ p.dva then [p]
  else
    (if p.dva < a then [{ p with len := a - p.dva }] else []) ++
    (if b < p.dva + p.len then [{ p with dva := b, len := p.dva + p.len - b, addr := p.addr + (b - p.dva) }] else [])

def cutRuns (a b : Nat) (l : List Page) : List Page := l.flatMap (cutRun a b)

/-- Insert a run by DVA. -/
def insertRun (p : Page) : List Page → List Page
  | [] => [p]
  | q :: rest => if p.dva < q.dva then p :: q :: rest else q :: insertRun p rest

/-- Commit one staged change to a list of runs (R99). -/
def applyStaged (l : List Page) (c : Staged) : List Page :=
  match c with
  | .map p => insertRun p (cutRuns p.dva (p.dva + p.len) l)
  | .unmap dva len => cutRuns dva (dva + len) l

/-- DVAs that a staged change names. -/
def stagedRange (c : Staged) : Nat × Nat :=
  match c with
  | .map p => (p.dva, p.len)
  | .unmap dva len => (dva, len)

/-- Epochs under which segments of a function that have not ended were translated (R102, R103): spur accesses under way, and sources that
have not been read whole. Every other segment begins and ends within one step. -/
def segmentEpochs (s : State) (fn : Nat) : List W32 :=
  (s.fabric.ports.flatMap fun p => (p.2.accesses.filter fun a => a.2.fn == fn).map fun a => a.2.epoch) ++
  (s.qps.filter fun q => q.2.conf.fn == fn).flatMap fun q =>
    ((q.2.send.queue.flatMap fun p => p.segs) ++ q.2.send.messages.flatMap fun m => m.tail).map fun g => g.epoch

/-- Epoch `a` comes before epoch `b`, modulo 2^32. -/
def epochBefore (a b : W32) : Bool := decide ((b - a - 1).toNat < 2 ^ 31)

/-- A segment of an epoch before `e` is still running (R102). -/
def segmentsOpen (s : State) (fn : Nat) (e : W32) : Bool := (segmentEpochs s fn).any fun x => epochBefore x e

/-- The commit instant of function `fn` (R102): staged changes become current and the epoch advances. A lost page is present again where it
is mapped anew, and there alone. -/
def commitEpoch (fn : Nat) (s : State) : State :=
  keepAwake (spaceMod fn (fun a =>
    { a with pages := a.staged.foldl applyStaged a.pages,
             lost := a.staged.foldl (fun l c => cutRuns (stagedRange c).1 ((stagedRange c).1 + (stagedRange c).2) l) a.lost,
             staged := [], epoch := a.epoch + 1 }) s)

/-- Runs of tarn pages that a function's committed or staged tables map, lost ones among them. -/
def tarnRuns (a : AddrSpace) : List Page :=
  (a.pages ++ a.lost ++ a.staged.filterMap fun c => match c with | .map p => some p | .unmap _ _ => none).filter fun p => p.target == .tarn

/-- Some run of the function covers the 64 KiB TPA page. -/
def mapsTpa (a : AddrSpace) (page : Nat) : Bool :=
  (tarnRuns a).any fun p => p.addr < (page + 1) * 65536 && page * 65536 < p.addr + p.len

/-- `ALLOC` backing of function `fn` that its tables do not map. -/
def unmappedBacking (s : State) (fn : Nat) : List Nat :=
  match tabGet s.spaces fn with
  | some a => ((s.tarns.alloc.filter fun p => p.2 == fn && !mapsTpa a p.1)).map Prod.fst
  | none => []

/-- Backing of function `fn` among `pages` that it still does not map is freed (R101). -/
def freeBacking (fn : Nat) (pages : List Nat) (s : State) : State :=
  let gone := (unmappedBacking s fn).filter fun p => pages.contains p
  tarnMod (fun t => { t with alloc := t.alloc.filter fun p => !gone.contains p.1 }) s

/-! ### mr.space and keys -/

/-- Entries of all partitions but that of `fn`. -/
def partitionTotal (s : State) (fn : Nat) : Nat :=
  ((s.spaces.filter fun p => p.1 != fn).map fun p => match p.2.space with | some x => 2 ^ x.fqLog2 | none => 0).sum

def specMrSpace : CmdSpec :=
  { opcode := 0x0301, issuer := .any, cls := .stop, fields := [(0, 8), (8, 8), (16, 8), (24, 1), (26, 2)] }

def doMrSpace (c : Cmd) (s : State) : CmdOut :=
  let fn := namedOf c
  let k := param c 24 1
  let ok := param c 0 8 % 4096 == 0 && param c 8 8 % 4096 == 0 && param c 16 8 % 64 == 0 && sizeOk k && decide (param c 26 2 < 2048)
  if !ok then cmdFail s .invalidParam
  else if 65536 < partitionTotal s fn + 2 ^ k then cmdFail s .noResource
  else
    let sp : Space := { root := BitVec.ofNat 64 (param c 0 8), fqBase := BitVec.ofNat 64 (param c 8 8),
                        fqHeader := BitVec.ofNat 64 (param c 16 8), fqLog2 := k, fqVector := param c 26 2, written := 0, head := 0,
                        overflow := false, overflowCount := 0 }
    let epoch := match tabGet s.spaces fn with | some a => a.epoch.toNat | none => 0
    let again (a : AddrSpace) : AddrSpace := { a with space := some sp, waiting := a.waiting.map fun w => { w with full := false } }
    .done (pumpPartition fn (spaceMod fn again s)) .ok epoch 0 0

/-- MR_SPACE (R105). -/
def execMrSpace (c : Cmd) (s : State) : Host.Outcome State Fault Refusal := .next (runCmd specMrSpace doMrSpace c s)

/-- The opcode needs `mr.space` first (Table 4-3). -/
def withSpace (c : Cmd) (s : State) (k : AddrSpace → CmdOut) : CmdOut :=
  match tabGet s.spaces (namedOf c) with
  | some a => if a.space.isSome then k a else cmdFail s .invalidParam
  | none => cmdFail s .invalidParam

/-- The generation after `gen` of an index (R93, R96). -/
def nextGen (index : Nat) (gen : W8) : W8 := if index = 0 ∧ gen = 255 then 1 else gen + 1

/-- Accepted work of the function still names the key: an entry, the operands of an operator, or a message that is arriving. -/
def keyInUse (s : State) (key : W32) : Bool :=
  ((works s).any fun p => p.2.state != .done && p.2.state != .held && (entryKeys p.2.entry).contains key) ||
  (s.opers.any fun o => (List.range 5).any fun i => ofLe (slice o.args (32 * i) 4) == key.toNat) ||
  (s.qps.any fun p => p.2.recv.messages.any fun m => !m.complete && m.key == key)

/-- The pair (index, generation) may not be issued yet (R97). -/
def inQuarantine (s : State) (index : Nat) (gen : W8) : Bool :=
  s.retired.any fun r => r.index == index && r.gen == gen &&
    (decide (s.dev.now < r.at_ + 100000000) || keyInUse s (makeKey index gen))

/-- Retire the pair of a key. -/
def retirePair (index : Nat) (gen : W8) (s : State) : State :=
  { s with retired := (s.retired.filter fun r => !(r.index == index && r.gen == gen)) ++ [{ index := index, gen := gen, at_ := s.dev.now }] }

def regionMod (i : Nat) (f : Region → Region) (s : State) : State := { s with regions := tabMod s.regions i f }

/-- The BAR4 windows bound to a key are unbound (R116). -/
def unbindKey (fn index : Nat) (gen : W8) (s : State) : State :=
  spaceMod fn (fun a => { a with windows := a.windows.filter fun w => !(w.2.index == index && w.2.gen == gen) }) s

/-- Some users are no longer pinned: their summaries leave the shoals (R285). -/
def dropPins (gone : Pin → Bool) (s : State) : State :=
  let ofUser (k : Nat) (p : Pin) : Bool := k / 2 ^ 19 == p.pool * 4096 + p.user
  { s with cache := { s.cache with
      pins := s.cache.pins.filter fun p => !gone p,
      resident := s.cache.resident.filter fun x => !((s.cache.pins.filter gone).any (ofUser x.1)) } }

/-- Users of the pools that a retired key names are unpinned (R286). -/
def unpinKey (key : W32) (s : State) : State :=
  let pools := tabKeys s.cache.pools fun p => p.key == key
  dropPins (fun p => pools.contains p.pool) s

/-- What follows the retiring of a key, whether by command or by a reset. -/
def retireKey (fn index : Nat) (gen : W8) (s : State) : State :=
  unpinKey (makeKey index gen) (unbindKey fn index gen (retirePair index gen s))

def specMrRegister : CmdSpec := { opcode := 0x0302, issuer := .any, cls := .any, fields := [(0, 8), (8, 8), (16, 1)] }

/-- `RIGHTS` is a legal set (R94). -/
def rightsOk (r : Nat) : Bool := decide (r < 64) && (bits r 3 3 == 0 || bit r rightLocalWrite)

/-- The free index that has been free the longest, of those out of quarantine: a never-used one, lowest first (log entry 22),
before the reused ones (R97). With it, the generation it takes. -/
def freeRegion (s : State) : Option (Nat × W8) :=
  let n := tabFree s.regions 0
  if n < 2 ^ 24 then some (n, if n = 0 then 1 else 0)
  else
    let ok := s.regions.filter fun p => !p.2.live && !inQuarantine s p.1 p.2.gen && !inQuarantine s p.1 (nextGen p.1 p.2.gen)
    match ok with
    | [] => none
    | x :: rest =>
      let y := rest.foldl (fun best p => if p.2.freedAt < best.2.freedAt then p else best) x
      some (y.1, nextGen y.1 y.2.gen)

def doMrRegister (c : Cmd) (s : State) : CmdOut :=
  withSpace c s fun _ =>
    let dva := param c 0 8
    let len := param c 8 8
    let r := param c 16 1
    if !(decide (1 ≤ len ∧ len ≤ 2 ^ 48) && decide (dva + len ≤ 2 ^ 57) && rightsOk r) then cmdFail s .invalidParam
    else
      match freeRegion s with
      | none => cmdFail s .noResource
      | some (i, g) =>
        let reg : Region := { fn := namedOf c, live := true, gen := g, dva := dva, len := len, rights := BitVec.ofNat 8 r, freedAt := 0 }
        .done { s with regions := tabSet s.regions i reg } .ok (makeKey i g).toNat 0 0

/-- MR_REGISTER (R97). -/
def execMrRegister (c : Cmd) (s : State) : Host.Outcome State Fault Refusal := .next (runCmd specMrRegister doMrRegister c s)

/-- A key parameter judged by checks 1 and 2 of R95 (R106). -/
def withKey (c : Cmd) (off : Nat) (s : State) (k : W32 → Region → CmdOut) : CmdOut :=
  withSpace c s fun _ =>
    let key := BitVec.ofNat 32 (param c off 4)
    match keyCheck12 s (namedOf c) key with
    | .error e => cmdFail s e
    | .ok r => k key r

def specMrDeregister : CmdSpec := { opcode := 0x0303, issuer := .any, cls := .any, fields := [(0, 4)] }

def doMrDeregister (c : Cmd) (s : State) : CmdOut :=
  withKey c 0 s fun key r =>
    .deferred (retireKey (namedOf c) (keyIndex key) r.gen
      (regionMod (keyIndex key) (fun x => { x with live := false, freedAt := s.dev.now }) s)) (.mrDeregister key)

/-- MR_DEREGISTER (R104). -/
def execMrDeregister (c : Cmd) (s : State) : Host.Outcome State Fault Refusal := .next (runCmd specMrDeregister doMrDeregister c s)

/-- MR_DEREGISTER_DONE (R104): no accepted work names the key. -/
def execMrDeregisterDone (key : W32) (s : State) : Host.Outcome State Fault Refusal :=
  whileLit s <|
  if keyInUse s key then .next s
  else .next (finishCmds (fun d => if d = .mrDeregister key then some (.ok, 0, 0, 0) else none) s)

def specMrRekey : CmdSpec := { opcode := 0x0304, issuer := .any, cls := .any, fields := [(0, 4)] }

def doMrRekey (c : Cmd) (s : State) : CmdOut :=
  withKey c 0 s fun key r =>
    let i := keyIndex key
    let g := nextGen i r.gen
    if inQuarantine s i g then cmdFail s .busy
    else .done (retireKey (namedOf c) i r.gen (regionMod i (fun x => { x with gen := g }) s)) .ok (makeKey i g).toNat 0 0

/-- MR_REKEY (R96). -/
def execMrRekey (c : Cmd) (s : State) : Host.Outcome State Fault Refusal := .next (runCmd specMrRekey doMrRekey c s)

def specMrQuery : CmdSpec := { opcode := 0x0305, issuer := .any, cls := .any, fields := [(0, 4)] }

def doMrQuery (c : Cmd) (s : State) : CmdOut :=
  withSpace c s fun _ =>
    match tabGet s.regions (param c 0 4) with
    | some r =>
      if r.live ∧ r.fn = namedOf c then
        .done s .ok (makeKey (param c 0 4) r.gen).toNat r.dva (r.len + bits r.rights.toNat 0 6 * 2 ^ 49)
      else cmdFail s .keyInvalid
    | none => cmdFail s .keyInvalid

/-- MR_QUERY (R104). -/
def execMrQuery (c : Cmd) (s : State) : Host.Outcome State Fault Refusal := .next (runCmd specMrQuery doMrQuery c s)

/-! ### mr.map, mr.unmap, mr.sync -/

/-- A mapping descriptor, Table 4-2, as its 256 bits. -/
structure MapDesc where
  dva   : Nat
  addr  : Nat
  pages : Nat
  size  : Nat
  target : Nat
  port  : Nat
  alloc : Bool
  rsvd  : Nat
deriving DecidableEq, Repr

def mapDesc (l : List Byte) : MapDesc :=
  let v := ofLe l
  let size := match bits v 160 2 with | 0 => 12 | 1 => 16 | 2 => 21 | _ => 30
  { dva := bits v 0 64, addr := bits v 64 64, pages := bits v 128 32, size := size, target := bits v 162 2, port := bits v 164 4,
    alloc := bit v 168, rsvd := bits v 169 87 }

def MapDesc.len (d : MapDesc) : Nat := d.pages * 2 ^ d.size

/-- [`lo`, `hi`) lies in the union of windows. -/
def coveredBy (fuel : Nat) (l : List Grant) (lo hi : Nat) : Bool :=
  if hi ≤ lo then true
  else
    match fuel, l.find? fun g => decide (g.base ≤ lo ∧ lo < g.base + g.len) with
    | fuel + 1, some g => coveredBy fuel l (g.base + g.len) hi
    | _, _ => false

/-- A spur range lies in the VF's grants (R101). -/
def granted (a : AddrSpace) (port addr len : Nat) : Bool :=
  coveredBy a.grants.length (a.grants.filter fun g => g.port == port) addr (addr + len)

/-- The first fault of a descriptor, want of memory apart (R100, R336). -/
def descFault (s : State) (fn : Nat) (a : AddrSpace) (d : MapDesc) : Option Status :=
  let tarn := d.target == 1
  let bad := d.rsvd != 0 || d.pages == 0 || d.target == 3 || d.dva % 2 ^ d.size != 0 || decide (2 ^ 57 < d.dva + d.len) ||
    (!d.alloc && d.addr % 2 ^ d.size != 0) || (d.target != 2 && d.port != 0) || (d.alloc && !tarn) || (tarn && d.size == 12) ||
    (tarn && !d.alloc && decide (areaEnd s < d.addr + d.len))
  if bad then some .invalidParam
  else if tarn && !d.alloc && fn != 0 then some .notPermitted
  else if d.target == 2 && fn != 0 && !granted a d.port d.addr d.len then some .notPermitted
  else none

/-- 64 KiB TPA pages that are allocated, or that some function's tables map. -/
def usedTpa (s : State) : List (Nat × Nat) :=
  (s.tarns.alloc.map fun p => (p.1 * 65536, 65536)) ++
  s.spaces.flatMap fun p => (tarnRuns p.2).map fun r => (r.addr, r.len)

/-- The lowest aligned free TPA run of `len` bytes in the interleaved area (log entry 23). -/
def findTpa (s : State) (align len : Nat) : Option Nat :=
  let used := usedTpa s
  let starts := sortedNats (0 :: used.map fun u => ceilDiv (u.1 + u.2) align * align)
  starts.find? fun a => decide (a + len ≤ areaEnd s) && used.all fun u => decide (u.1 + u.2 ≤ a ∨ a + len ≤ u.1)

def targetOf (n : Nat) : Target := if n = 1 then .tarn else if n = 2 then .spur else .host

/-- Stage the descriptors in list order; each that allocates draws its backing, and its TPA is written back to the buffer at
`hpa`. None: not enough free tarn memory. -/
def stageDescs (c : Cmd) (hpa i : Nat) (l : List MapDesc) (s : State) : Option State :=
  match l with
  | [] => some s
  | d :: rest =>
    let fn := namedOf c
    let run (addr : Nat) : Page := { dva := d.dva, len := d.len, target := targetOf d.target, port := d.port, addr := addr }
    let put (addr : Nat) (t : State) : State := spaceMod fn (fun a => { a with staged := a.staged ++ [.map (run addr)] }) t
    if d.alloc then
      match findTpa s (2 ^ d.size) d.len with
      | none => none
      | some t =>
        let pages := (List.range (d.len / 65536)).map fun j => t / 65536 + j
        let s1 := tarnMod (fun x => { x with alloc := pages.foldl (fun m p => tabSet m p fn) x.alloc }) (put t s)
        stageDescs c hpa (i + 1) rest (emit (.hostWrite (issuerOf c) (hpa + 32 * i + 8) false 64 t) s1)
    else stageDescs c hpa (i + 1) rest (put d.addr s)

def specMrMap : CmdSpec :=
  { opcode := 0x0306, issuer := .any, cls := .any, fields := [], listed := some { off := 0, countAt := 0, countWidth := 0, size := 32 } }

/-- DESIGN CHOICE (log entry 93): a list that names tarn memory while the area is being re-formed fails with `BUSY` before its descriptors are
judged. -/
def doMrMap (c : Cmd) (s : State) : CmdOut :=
  withSpace c s fun a =>
    let n := c.length.toNat
    if !c.indirect ∨ n % 32 ≠ 0 ∨ 32 * 2047 < n then cmdFail s .invalidParam
    else
      let l := (List.range (n / 32)).map fun i => mapDesc (paramBytes c (32 * i) 32)
      if s.tarns.reforming ∧ l.any fun d => d.target == 1 then cmdFail s .busy
      else
        match l.findSome? (descFault s (namedOf c) a) with
        | some e => cmdFail s e
        | none =>
          match stageDescs c (bits c.params.toNat 0 64) 0 l s with
          | some s1 => .done s1 .ok l.length 0 0
          | none => cmdFail s .noResource

/-- MR_MAP (R100). -/
def execMrMap (c : Cmd) (s : State) : Host.Outcome State Fault Refusal := .next (runCmd specMrMap doMrMap c s)

def specMrUnmap : CmdSpec := { opcode := 0x0307, issuer := .any, cls := .any, fields := [(0, 8), (8, 8)] }

def doMrUnmap (c : Cmd) (s : State) : CmdOut :=
  withSpace c s fun _ =>
    let dva := param c 0 8
    let len := param c 8 8
    needParam (dva % 4096 == 0 && len % 4096 == 0 && decide (dva + len ≤ 2 ^ 57)) s
      (cmdOk (spaceMod (namedOf c) (fun a => { a with staged := a.staged ++ [.unmap dva len] }) s))

/-- MR_UNMAP (R99). -/
def execMrUnmap (c : Cmd) (s : State) : Host.Outcome State Fault Refusal := .next (runCmd specMrUnmap doMrUnmap c s)

def specMrSync : CmdSpec := { opcode := 0x0308, issuer := .any, cls := .any, fields := [] }

def doMrSync (c : Cmd) (s : State) : CmdOut :=
  withSpace c s fun a =>
    let s1 := commitEpoch (namedOf c) s
    .deferred s1 (.mrSync (namedOf c) (a.epoch + 1) (unmappedBacking s1 (namedOf c)))

/-- MR_SYNC (R102). -/
def execMrSync (c : Cmd) (s : State) : Host.Outcome State Fault Refusal := .next (runCmd specMrSync doMrSync c s)

/-- An `mr.sync` of the function whose earlier segments have all ended: its reply. -/
def syncReply (s : State) (fn : Nat) (d : Deferral) : Option (Status × Nat × Nat × Nat) :=
  match d with
  | .mrSync n e _ => if n = fn ∧ segmentsOpen s fn e = false then some (.ok, e.toNat, 0, 0) else none
  | _ => none

/-- Backing that the function's `mr.sync`s leave: of those that are answered, or of those that are not. -/
def syncBacking (s : State) (fn : Nat) (answered : Bool) : List Nat :=
  s.commands.flatMap fun p =>
    match p.what with
    | .mrSync n _ pages => if n = fn ∧ (syncReply s fn p.what).isSome = answered then pages else []
    | _ => []

/-- MR_SYNC_DONE (R102): every segment of an earlier epoch has ended; backing that is no longer mapped is freed with the reply (R101), and what
a rebuilt table left likewise (R92). -/
def execMrSyncDone (fn : Nat) (s : State) : Host.Outcome State Fault Refusal :=
  whileLit s <|
  let rebuilt := s.tarns.freeing.any fun x => x.1 == fn && !segmentsOpen s fn x.2
  let kept := syncBacking s fn false
  let pages := syncBacking s fn true ++ (if rebuilt then (unmappedBacking s fn).filter fun p => !kept.contains p else [])
  let s1 := tarnMod (fun t => { t with freeing := t.freeing.filter fun x => !(x.1 == fn && !segmentsOpen s fn x.2) }) s
  .next (freeBacking fn pages (finishCmds (syncReply s fn) s1))

/-! ### Grants (R101) -/

def specMrSpurGrant : CmdSpec := { opcode := 0x030C, issuer := .namesVf, cls := .any, fields := [(0, 1), (8, 8), (16, 8)] }

/-- The parts of a run outside a revoked window. -/
def outsideWindow (g : Grant) (p : Page) : List Page :=
  if p.target = .spur ∧ p.port = g.port then
    (cutRun g.base (g.base + g.len) { p with dva := p.addr, addr := p.dva }).map fun q => { q with dva := q.addr, addr := q.dva }
  else [p]

/-- A staged mapping after a revocation: what lies in the window becomes the removal of its DVAs. -/
def revokeStaged (g : Grant) (c : Staged) : List Staged :=
  match c with
  | .map p => if outsideWindow g p = [p] then [.map p] else .unmap p.dva p.len :: (outsideWindow g p).map Staged.map
  | .unmap d n => [.unmap d n]

/-- Every spur page of the window becomes not present, committed and staged alike. -/
def revokeWindow (g : Grant) (a : AddrSpace) : AddrSpace :=
  { a with pages := a.pages.flatMap (outsideWindow g), grants := a.grants.filter (· != g), staged := a.staged.flatMap (revokeStaged g) }

/-- A run reaches into a spur window. -/
def inWindow (g : Grant) (p : Page) : Bool :=
  p.target == .spur && p.port == g.port && decide (p.addr < g.base + g.len ∧ g.base < p.addr + p.len)

/-- A revocation that was never answered has had no effect (R452): its runs come back where nothing else has been mapped since. -/
def undoRevoke (epoch : W32) (g : Grant) (pages : List Page) (staged : List Staged) (a : AddrSpace) : AddrSpace :=
  let back (l : List Page) (p : Page) : List Page :=
    let own (q : Page) : Bool := q.target == p.target && q.port == p.port && q.addr + p.dva == p.addr + q.dva
    if l.any fun q => !own q && decide (q.dva < p.dva + p.len ∧ p.dva < q.dva + q.len) then l
    else insertRun p (l.filter fun q => !(decide (p.dva ≤ q.dva ∧ q.dva < p.dva + p.len)))
  { a with pages := pages.foldl back a.pages, grants := a.grants ++ [g], staged := if a.staged.isEmpty then staged else a.staged,
           epoch := if a.epoch = epoch then epoch - 1 else a.epoch }

/-- DESIGN CHOICE (log entry 90): a revoke names its window by the `SPUR_PORT` and `BASE` of an existing grant; one that names none fails with
`INVALID_PARAM`. -/
def doMrSpurGrant (c : Cmd) (s : State) : CmdOut :=
  let fn := namedOf c
  let port := param c 0 1
  let base := param c 8 8
  let len := param c 16 8
  match tabGet s.spaces fn with
  | none => cmdFail s .invalidParam
  | some a =>
    if 16 ≤ port then cmdFail s .invalidParam
    else if len = 0 then
      match a.grants.find? fun g => g.port == port && g.base == base with
      | none => cmdFail s .invalidParam
      | some g =>
        .later (spaceMod fn (fun x => { revokeWindow g x with epoch := x.epoch + 1 }) s)
          (.spurRevoke fn (a.epoch + 1) g (a.pages.filter (inWindow g)) a.staged)
    else if 2 ^ 64 < base + len then cmdFail s .invalidParam
    else if 16 ≤ a.grants.length then cmdFail s .noResource
    else cmdOk (spaceMod fn (fun x => { x with grants := x.grants ++ [{ port := port, base := base, len := len }] }) s)

/-- MR_SPUR_GRANT (R101). -/
def execMrSpurGrant (c : Cmd) (s : State) : Host.Outcome State Fault Refusal := .next (runCmd specMrSpurGrant doMrSpurGrant c s)

/-- A revocation whose earlier segments have all ended: its reply. -/
def revokeReply (s : State) (fn : Nat) (d : Deferral) : Option (Status × Nat × Nat × Nat) :=
  match d with
  | .spurRevoke n e _ _ _ => if n = fn ∧ segmentsOpen s fn e = false then some (.ok, 0, 0, 0) else none
  | _ => none

/-- SPUR_REVOKE_DONE (R101). -/
def execSpurRevokeDone (fn : Nat) (s : State) : Host.Outcome State Fault Refusal :=
  whileLit s <| .next (finishCmds (revokeReply s fn) s)

/-! ### Miss slots (R107, R108) -/

/-- Slots that serve only streams in G0 to G3. -/
def reservedSlots (s : State) : Nat := if s.dev.profile = .latency then 64 else 32

/-- The stream is in a guaranteed class. -/
def guaranteed (s : State) (x : StreamId) : Bool :=
  match x with
  | .qp n => (match qpGet s n with | some q => (admitted q).isSome | none => false)
  | .coll n => (match tabGet s.coll.groups n with | some g => decide (4 ≤ g.tc) | none => false)
  | .attn n _ => (match tabGet s.cache.pools n with | some p => decide (4 ≤ p.tc) | none => false)
  | .oper _ _ | .request _ _ => false

/-- The stream may take a slot now, and whether its class is guaranteed: one of the 256, of which the others leave those that are
reserved, whatever profile they were taken under. -/
def slotFor (s : State) (x : StreamId) : Option Bool :=
  let mine := (s.missSlots.filter fun m => m.stream == x).length
  let others := (s.missSlots.filter fun m => !m.reserved).length
  if mine ≥ 16 ∨ s.missSlots.length ≥ 256 then none
  else if guaranteed s x then some true
  else if others < 256 - reservedSlots s then some false
  else none

/-- A miss of stream `x`: it takes a slot, or waits for one. -/
def takeSlot (x : StreamId) (s : State) : State :=
  match slotFor s x with
  | some r => { s with missSlots := s.missSlots ++ [{ stream := x, reserved := r }] }
  | none => { s with missWait := s.missWait ++ [x] }

/-- TRANSLATION_MISS_WALK (R107, R108): the walk reads the device copy alone and changes no mapping, whatever the DVA. -/
def execTranslationMissWalk (x : StreamId) (_ : W64) (s : State) : Host.Outcome State Fault Refusal :=
  whileLit s <| .next (takeSlot x s)

/-- The first waiting stream that may take a slot; it goes to the end of the line if it waits for more (R108). -/
def grantWaiting (s : State) : State :=
  match s.missWait.find? fun x => (slotFor s x).isSome with
  | some x =>
    let rest := dropFirst (· == x) s.missWait
    takeSlot x { s with missWait := (rest.filter (· != x)) ++ rest.filter (· == x) }
  | none => s

/-- FQ_HEAD_REREAD (R114). -/
def execFqHeadReread (fn : Nat) (head : W32) (s : State) : Host.Outcome State Fault Refusal :=
  whileLit s <|
  match tabGet s.spaces fn with
  | some a => if a.waiting.isEmpty || dmaBarred s fn then .next s else .next (readFqHead fn head s)
  | none => .next s

/-! ### BAR4 (R116 to R118) -/

def specMrBar4Open : CmdSpec := { opcode := 0x030A, issuer := .any, cls := .any, fields := [(0, 1), (4, 4), (8, 8), (16, 1)] }

def doMrBar4Open (c : Cmd) (s : State) : CmdOut :=
  withKey c 4 s fun key r =>
    let mode := param c 16 1
    if !(param c 8 8 % 65536 == 0 && decide (mode < 4)) then cmdFail s .invalidParam
    else if (bit mode 0 && !bit r.rights.toNat rightLocalRead) || (bit mode 1 && !bit r.rights.toNat rightLocalWrite) then
      cmdFail s .accessDenied
    else
      let w : Window := { index := keyIndex key, gen := r.gen, offset := param c 8 8, canRead := bit mode 0, canWrite := bit mode 1 }
      cmdOk (spaceMod (namedOf c) (fun a => { a with windows := tabSet a.windows (param c 0 1) w }) s)

/-- MR_BAR4_OPEN (R116). -/
def execMrBar4Open (c : Cmd) (s : State) : Host.Outcome State Fault Refusal := .next (runCmd specMrBar4Open doMrBar4Open c s)

def specMrBar4Close : CmdSpec := { opcode := 0x030B, issuer := .any, cls := .any, fields := [(0, 1)] }

def doMrBar4Close (c : Cmd) (s : State) : CmdOut :=
  withSpace c s fun _ => cmdOk (spaceMod (namedOf c) (fun a => { a with windows := tabErase a.windows (param c 0 1) }) s)

/-- MR_BAR4_CLOSE (R104): every BAR4 access already received has ended, because each ends within its own step. -/
def execMrBar4Close (c : Cmd) (s : State) : Host.Outcome State Fault Refusal := .next (runCmd specMrBar4Close doMrBar4Close c s)

/-- What a BAR4 access meets: the DVA it reaches, or why it is refused (DVA, missing pages, key index). DESIGN CHOICE (log entry 91): an access
that crosses the end of its 1 GiB window is refused, with no page counted. -/
def bar4Target (s : State) (fn offset len : Nat) (write : Bool) : Except (Nat × Nat × Nat) Nat :=
  match (tabGet s.spaces fn).bind fun a => tabGet a.windows (offset / 2 ^ 30) with
  | none => .error (0, 0, 0)
  | some w =>
    match tabGet s.regions w.index with
    | none => .error (0, 0, 0)
    | some r =>
      let dva := r.dva + w.offset + offset % 2 ^ 30
      let page := dva / 4096 * 4096
      let right := if write then w.canWrite && bit r.rights.toNat rightLocalWrite else w.canRead && bit r.rights.toNat rightLocalRead
      if r.dva + r.len < dva + len ∨ 2 ^ 30 < offset % 2 ^ 30 + len then .error (page, 0, w.index)
      else if !right then .error (page, 0, w.index)
      else if !(missingPages s fn dva len).isEmpty then .error (page, (missingPages s fn dva len).length, w.index)
      else if (pages4k dva len).any fun p => (pageOf s fn p).map (fun q => q.target) != some .tarn then .error (page, 0, w.index)
      else .ok dva

/-- The record of a refused BAR4 access: nothing is suspended, and none is written while the function is RESETTING or HELD. -/
def bar4Fault (fn offset : Nat) (write : Bool) (e : Nat × Nat × Nat) (s : State) : State :=
  if dmaBarred s fn then s
  else
    let epoch := epochOf s fn
    recordFault fn (2 ^ 40) (.translation (flag write) 4 e.1 e.2.1 (offset / 2 ^ 30) epoch e.2.2) s

/-- BAR4_READ (R117). -/
def execBar4Read (fn offset len : Nat) (s : State) : Host.Outcome State Fault Refusal :=
  whileLit s <|
  match bar4Target s fn offset len false with
  | .ok dva => .next (emit (.bar4Data fn (readDva s fn dva len [])) (wakeDva fn dva len (hearHost s)))
  | .error e => .next (bar4Fault fn offset false e (emit (.bar4Data fn (List.replicate len 0xFF)) (hearHost s)))

/-- BAR4_WRITE (R116, R117). -/
def execBar4Write (fn : Nat) (offset : Nat) (bytes : List Byte) (s : State) : Host.Outcome State Fault Refusal :=
  whileLit s <|
  match bar4Target s fn offset bytes.length true with
  | .ok dva => .next (placeAt fn dva bytes .none (hearHost s))
  | .error e => .next (bar4Fault fn offset true e (hearHost s))

end Sys2Proof.Machine
end

