-- ==== Sys2Proof/Machine/Qps.lean ====
section
/-! DEFINITION. Queue pairs and shared receive queues as commands make them (Tables 5-4 and 5-5, R127 to R129, R144, R162,
R391), and the addresses of Ethernet ports. -/

namespace Sys2Proof.Machine

/-! ### A new context -/

def newSend (seq : W32) (now : Nat) : QpSend :=
  { nextSeq := seq, nextMsg := 0, nextRecv := 0, ownRetired := seq, cumAcked := seq, waiting := [], messages := [], queue := [],
    flight := [], responses := [], txOrder := 0, faultWait := none, faultWaitAt := 0, lastHeard := now, silent := false, noPathSince := none,
    outSince := none, srtt := 0, rttvar := 0, sampled := false, backoff := 0 }

def newRecv (e own : W32) : QpRecv :=
  { e := e, settled := [], nextMsg := 0, claimed := 0, peerRetired := e, messages := [], posted := [], nextPost := 0,
    reservedClaims := [], nextClaim := 0, recordedNak := none, nakAt := 0, suspended := false, suspendedBy := none, newlySettled := 0,
    firstSettledAt := none, trigger := none, arrived := [], flushes := [], ceCount := 0, ackAt := 0, dupAckAt := 0, toldRetired := own, stateLost := false,
    units := [], peerAdmitted := false }

def newCc (rate : Rat) (target now : Nat) : QpCc :=
  { rate := rate, target := target, epochAt := now, samples := 0, qmin := none, ce := 0, settled := 0, lossTimer := false, minRtt := [], paths := [],
    nextAt := now }

/-- The function owns shared receive queue `n` (R127). -/
def ownsSrq (s : State) (fn n : Nat) : Bool :=
  match tabGet s.srqs n with
  | some q => q.fn == fn
  | none => false

/-! ### qp.create -/

def specQpCreate : CmdSpec :=
  { opcode := 0x0401, issuer := .any, cls := .any, fields := [(0, 1), (1, 1), (2, 1), (3, 1), (4, 2), (6, 1), (7, 1), (8, 2)] }

/-- The ranges of Table 5-4, and Table 5-13 for `MODE` 1. -/
def createOk (c : Cmd) (s : State) : Bool :=
  let mode := param c 0 1
  let mtu := param c 1 1
  let paths := param c 2 1
  let useSrq := bit (param c 7 1) 0
  decide (mode ≤ 1) && decide (10 ≤ mtu ∧ mtu ≤ (if mode = 1 then 12 else 13)) && decide (1 ≤ paths ∧ paths ≤ 16) &&
  (mode == 0 || paths == 1) && decide (param c 3 1 < 8) && decide (1 ≤ param c 4 2 ∧ param c 4 2 ≤ 1000) &&
  decide (param c 6 1 ≤ 7) && decide (param c 7 1 ≤ 1) && (!useSrq || ownsSrq s (namedOf c) (param c 8 2))

def newConf (c : Cmd) : QpConf :=
  { fn := namedOf c, mode := if param c 0 1 = 1 then .roce else .eht, mtuLog2 := param c 1 1, paths := param c 2 1,
    tc := param c 3 1, rnrDelay := param c 4 2, rnrRetry := param c 6 1, useSrq := bit (param c 7 1) 0, srq := param c 8 2,
    peerQp := 0, addrKind := .ipv4, hopLimit := 0, portMask := 0, peerAddr := 0, nextHop := 0, localSeq := 0, peerSeq := 0,
    connected := false, peerLevel1 := false }

def newQp (conf : QpConf) (now : Nat) : Qp :=
  { conf := conf, phase := .created, send := newSend 0 now, recv := newRecv 0 0, cc := newCc 0 0 now, weight := 1, admission := none,
    violations := 0, violatedAt := none, sealing := none, ending := none, counted := 0 }

/-- The lowest free number is taken (log entry 24). -/
def doQpCreate (c : Cmd) (s : State) : CmdOut :=
  let n := tabFree s.qps 0
  if !createOk c s then cmdFail s .invalidParam
  else if 2 ^ 20 ≤ n then cmdFail s .noResource
  else .done { s with qps := tabSet s.qps n (newQp (newConf c) s.dev.now) } .ok n 0 0

/-- QP_CREATE (R127, R128). -/
def execQpCreate (c : Cmd) (s : State) : Host.Outcome State Fault Refusal := .next (runCmd specQpCreate doQpCreate c s)

/-! ### qp.connect -/

def specQpConnect : CmdSpec :=
  { opcode := 0x0402, issuer := .any, cls := .any,
    fields := [(0, 4), (4, 4), (8, 4), (12, 1), (13, 1), (14, 1), (16, 16), (32, 6), (40, 4)] }

/-- The parameters fit the queue pair (Tables 5-4 and 5-13): fabric peers need an `MTU` of 4,096, RoCEv2 an Ethernet address and
24-bit sequence numbers, an Ethernet peer at least one port. -/
def connectOk (c : Cmd) (q : Qp) : Bool :=
  let kind := param c 12 1
  let roce := q.conf.mode == .roce
  c.indirect && decide (44 ≤ c.length.toNat) && decide (kind ≤ 2) && decide (param c 0 4 < 2 ^ 20) && decide (param c 14 1 < 16) &&
  (kind == 2 || param c 14 1 != 0) && (kind != 2 || (q.conf.mtuLog2 == 12 && !roce)) &&
  (!roce || (decide (param c 4 4 < 2 ^ 24) && decide (param c 8 4 < 2 ^ 24)))

/-- The send key is spent: no further message could start under it (R391). -/
def sendKeySpent (q : Qp) : Bool :=
  match q.sealing with
  | some z => !keyRoom z.cur 1 0
  | none => false

/-- The configuration of a connected queue pair. -/
def connectedConf (c : Cmd) (x : QpConf) : QpConf :=
  let kind := param c 12 1
  let addr : BitVec 128 := BitVec.ofNat 128 (param c 16 16)
  { x with peerQp := BitVec.ofNat 32 (param c 0 4), localSeq := BitVec.ofNat 32 (param c 4 4),
           peerSeq := BitVec.ofNat 32 (param c 8 4), addrKind := if kind = 0 then .ipv4 else if kind = 1 then .ipv6 else .fabric,
           hopLimit := BitVec.ofNat 8 (param c 13 1), portMask := BitVec.ofNat 8 (param c 14 1), peerAddr := addr,
           nextHop := BitVec.ofNat 48 (param c 32 6), connected := true,
           peerLevel1 := Config.peerLevel1 addr (BitVec.ofNat 32 (param c 0 4)) }

/-- A queue pair enters READY: sending starts at `LOCAL_SEQ`, receiving expects `PEER_SEQ`, and the waiting entries take their
numbers in acceptance order (Table 5-5). Buffers posted while it was CREATED stay posted. Where it has no usable path, the 100 ms of R142
start. -/
def enterReady (n : Nat) (conf : QpConf) (s : State) : State :=
  match qpGet s n with
  | none => s
  | some q =>
    let q1 := { q with conf := conf }
    let r0 := newRecv conf.peerSeq conf.localSeq
    let q2 : Qp :=
      { q1 with phase := .ready, send := newSend conf.localSeq s.dev.now, cc := newCc (rInit s q1) (ccTarget s q1) s.dev.now,
                recv := { r0 with posted := q.recv.posted, nextPost := q.recv.nextPost } }
    judgePaths (q.send.waiting.foldl (fun t rec => assignNumbers n rec t) (qpMod n (fun _ => q2) s))

/-- The progress of a queue pair that has just been connected. -/
def firstProgress (conf : QpConf) (now : Nat) : Progress :=
  { baseMsg := 0, baseSeq := conf.localSeq, baseRecv := 0, cumSeq := conf.peerSeq, cumMsg := 0, claimed := 0, peerRetired := conf.peerSeq,
    ownRetired := conf.localSeq, stamp := now }

/-- Commit the `QP_CONNECT` and `QP_PROGRESS` records of a queue pair (R161, R162). -/
def journalConnect (n : Nat) (conf : QpConf) (s : State) : Option State :=
  match journalPut n (.qpConnect n conf) s with
  | none => none
  | some (_, s1) => (journalPut n (.qpProgress n (firstProgress conf s.dev.now)) s1).map Prod.snd

/-- A queue pair that is being destroyed belongs to no one any more. -/
def usableQp (s : State) (fn n : Nat) : Option Qp :=
  match qpGet s n with
  | some q => if q.conf.fn = fn ∧ q.ending ≠ some true then some q else none
  | none => none

def doQpConnect (c : Cmd) (s : State) : CmdOut :=
  let n := param c 40 4
  match usableQp s (namedOf c) n with
  | none => cmdFail s .invalidParam
  | some q =>
    if !connectOk c q then cmdFail s .invalidParam
    else if q.phase ≠ .created then cmdFail s .busy
    else if sendKeySpent q then cmdFail s .keySpent
    else
      match journalConnect n (connectedConf c q.conf) s with
      | some s1 => cmdOk (enterReady n (connectedConf c q.conf) s1)
      | none => cmdFail s .noResource

/-- No record of the queue pair's mirror pair is free, so that the command cannot be answered yet (R17, R162; log entry 26). -/
def connectWaits (c : Cmd) (s : State) : Bool :=
  match qpGet s (param c 40 4) with
  | some q => (journalConnect (param c 40 4) (connectedConf c q.conf) s).isNone
  | none => false

def runQpConnect (c : Cmd) (s : State) : State := if connectWaits c s then s else runCmd specQpConnect doQpConnect c s

/-- QP_CONNECT (R128): it waits unread while its journal records have no place. -/
def execQpConnect (c : Cmd) (s : State) : Host.Outcome State Fault Refusal := .next (runQpConnect c s)

/-! ### qp.query -/

def specQpQuery : CmdSpec := { opcode := 0x0403, issuer := .any, cls := .any, fields := [(0, 4)] }

/-- The lowest number of a message that has not been sent yet; none: all of it has. -/
def unsentSeq (q : Qp) (m : TxMessage) : Option W32 :=
  if !m.started then some m.firstSeq
  else (q.send.queue.find? fun x => x.msg == m.msg && x.kind != .readResp && x.kind != .atomicResp).map fun x => x.seq

/-- Next `SEQ` and next `MSG_NUM` to send. -/
def nextToGo (q : Qp) : W32 × W32 :=
  match q.send.messages.find? fun m => (unsentSeq q m).isSome with
  | some m =>
    let x := (unsentSeq q m).getD m.firstSeq
    (x, if x = m.firstSeq then m.msg else m.msg + 1)
  | none => (q.send.nextSeq, q.send.nextMsg)

def qpPhaseCode (p : QpPhase) : Nat :=
  match p with
  | .created => 0 | .ready => 1 | .error => 2

def doQpQuery (c : Cmd) (s : State) : CmdOut :=
  match usableQp s (namedOf c) (param c 0 4) with
  | none => cmdFail s .invalidParam
  | some q => .done s .ok (qpPhaseCode q.phase) (wireSeq q (nextToGo q).1).toNat (nextToGo q).2.toNat

/-- QP_QUERY (R127). -/
def execQpQuery (c : Cmd) (s : State) : Host.Outcome State Fault Refusal := .next (runCmd specQpQuery doQpQuery c s)

/-! ### Admissions end (R172) -/

/-- Raise (or lower) the class shaper of a traffic class at a port (R179, R193). -/
def changeClassShaper (up : Bool) (tc rate burst : Nat) (s : State) (port : Nat) : State :=
  let key := shaperKey 2 tc port
  let old : Shaper := (tabGet s.sched.shapers key).getD { rate := 0, depth := 0, tokens := 0, change := none }
  let new : Shaper :=
    if up then { old with rate := old.rate + rate, depth := old.depth + burst }
    else { old with rate := old.rate - rate, depth := old.depth - burst, tokens := min old.tokens (old.depth - burst : Nat) }
  schedMod (fun y => { y with shapers := if new.rate = 0 then tabErase y.shapers key else tabSet y.shapers key new }) s

/-- Rate control starts afresh: what was sampled under an admission served the check of R196 alone (R178). -/
def freshEpoch (now target : Nat) (c : QpCc) : QpCc :=
  { c with target := target, epochAt := now, samples := 0, qmin := none, ce := 0, settled := 0, lossTimer := false,
           paths := tabMap c.paths fun _ p => { p with qmin := none, lossTimer := false } }

/-- Every admission of a queue pair ends: its shaper and its share of the class shapers are released. -/
def endAdmission (n : Nat) (s0 : State) : State :=
  let s := dueShapers s0
  match qpGet s n with
  | none => s
  | some q =>
    match q.admission with
    | none => s
    | some a =>
      let s1 := a.ports.foldl (changeClassShaper false q.conf.tc a.rate a.burst) s
      let s2 := schedMod (fun y => { y with shapers := tabErase y.shapers (shaperKey 0 n 0) }) s1
      qpMod n (fun x => { x with admission := none, cc := freshEpoch s.dev.now (ccTarget s q) x.cc }) s2

/-! ### qp.reset and qp.destroy -/

/-- The queue pair takes its leave: admissions end, and every entry not yet completed completes `FLUSHED` (Table 5-5). -/
def flushQp (n : Nat) (destroy : Bool) (s : State) : State :=
  let s1 := endAdmission n s
  completeAll ((qpOpen s1 n).map Prod.fst) .flushed
    (quietQp n (qpMod n (fun q => { q with phase := .error, ending := some destroy }) s1))

def specQpReset : CmdSpec := { opcode := 0x0404, issuer := .any, cls := .any, fields := [(0, 4)] }

def doQpReset (c : Cmd) (s : State) : CmdOut :=
  let n := param c 0 4
  match usableQp s (namedOf c) n with
  | none => cmdFail s .invalidParam
  | some _ => .deferred (flushQp n false s) (.qpReset n)

/-- QP_RESET (R128). -/
def execQpReset (c : Cmd) (s : State) : Host.Outcome State Fault Refusal := .next (runCmd specQpReset doQpReset c s)

/-- The journal records of a queue pair's connection are freed (R163). -/
def freeConnection (n : Nat) (s : State) : State :=
  let mine (r : JournalRec) : Bool :=
    match r with
    | .qpConnect m _ | .qpProgress m _ => m == n
    | .atomicResult m _ _ _ => m == n
    | _ => false
  { s with journal := s.journal.filter fun p => !mine p.2 }

/-- QP_RESET_DONE (R128): every entry has completed; the state is CREATED, and the sequence state is cleared. -/
def execQpResetDone (qp : Nat) (s : State) : Host.Outcome State Fault Refusal :=
  whileLit s <|
  match qpGet s qp with
  | some q =>
    if q.ending = some false ∧ (qpOpen s qp).isEmpty then
      let fresh := newQp { q.conf with connected := false } s.dev.now
      let s1 := qpMod qp (fun x => { fresh with weight := x.weight, violations := x.violations, sealing := x.sealing, counted := x.counted })
        (freeConnection qp s)
      .next (finishCmds (fun d => if d = .qpReset qp then some (.ok, 0, 0, 0) else none) s1)
    else .next s
  | none => .next s

def specQpDestroy : CmdSpec := { opcode := 0x0405, issuer := .any, cls := .any, fields := [(0, 4)] }

def doQpDestroy (c : Cmd) (s : State) : CmdOut :=
  let n := param c 0 4
  match usableQp s (namedOf c) n with
  | none => cmdFail s .invalidParam
  | some _ => .deferred (flushQp n true s) (.qpDestroy n)

/-- QP_DESTROY (R128). -/
def execQpDestroy (c : Cmd) (s : State) : Host.Outcome State Fault Refusal := .next (runCmd specQpDestroy doQpDestroy c s)

/-- The context is freed, with everything that hangs on its number. -/
def removeQp (n : Nat) (s : State) : State :=
  let s1 := freeConnection n s
  let s2 := schedMod (fun y => { y with shapers := tabErase y.shapers (shaperKey 0 n 0),
                                        soundings := y.soundings.filter fun x => !(x.kind == 0 && x.id.toNat == n) }) s1
  { s2 with qps := tabErase s2.qps n }

/-- QP_DESTROY_DONE (R128). A `qp.reset` that the destruction overtook ends with it. -/
def execQpDestroyDone (qp : Nat) (s : State) : Host.Outcome State Fault Refusal :=
  whileLit s <|
  match qpGet s qp with
  | some q =>
    if q.ending = some true ∧ (qpOpen s qp).isEmpty then
      .next (finishCmds (fun d => if d = .qpDestroy qp ∨ d = .qpReset qp then some (.ok, 0, 0, 0) else none) (removeQp qp s))
    else .next s
  | none => .next s

/-! ### srq.create and srq.destroy -/

def specSrqCreate : CmdSpec := { opcode := 0x0420, issuer := .any, cls := .any, fields := [(0, 4), (4, 2)] }

/-- The signal of a new shared receive queue is armed once its count has reached `LIMIT` (R129). -/
def doSrqCreate (c : Cmd) (s : State) : CmdOut :=
  let n := tabFree s.srqs 0
  if !decide (param c 4 2 < 2048) then cmdFail s .invalidParam
  else if 65536 ≤ n then cmdFail s .noResource
  else
    let q : Srq := { fn := namedOf c, limit := param c 0 4, vector := param c 4 2, armed := false, buffers := [] }
    .done { s with srqs := tabSet s.srqs n q } .ok n 0 0

/-- SRQ_CREATE (R129). -/
def execSrqCreate (c : Cmd) (s : State) : Host.Outcome State Fault Refusal := .next (runCmd specSrqCreate doSrqCreate c s)

def specSrqDestroy : CmdSpec := { opcode := 0x0421, issuer := .any, cls := .any, fields := [(0, 2)] }

/-- The buffers posted to a shared receive queue that have not completed, in acceptance order. -/
def srqOpen (s : State) (n : Nat) : List Nat :=
  (byOrder ((works s).filter fun p => entryOp p.2.entry == 0x10 && recvToSrq p.2.entry && entryContext p.2.entry == n &&
    p.2.state != .done && p.2.state != .held)).map Prod.fst

def doSrqDestroy (c : Cmd) (s : State) : CmdOut :=
  let n := param c 0 2
  if !ownsSrq s (namedOf c) n then cmdFail s .invalidParam
  else if s.qps.any fun p => p.2.conf.useSrq && p.2.conf.srq == n then cmdFail s .busy
  else
    let s1 := completeAll (srqOpen s n) .flushed s
    cmdOk { s1 with srqs := tabErase s1.srqs n }

/-- SRQ_DESTROY (R127). -/
def execSrqDestroy (c : Cmd) (s : State) : Host.Outcome State Fault Refusal := .next (runCmd specSrqDestroy doSrqDestroy c s)

/-! ### eht.port and eht.addr -/

def ethMod (f : Ethernet → Ethernet) (s : State) : State := { s with eth := f s.eth }

def specEhtPort : CmdSpec := { opcode := 0x0430, issuer := .pf0, cls := .any, fields := [(0, 2)] }

def doEhtPort (c : Cmd) (s : State) : CmdOut :=
  if param c 0 2 < 1024 then cmdFail s .invalidParam
  else if s.qps.any fun p => p.2.phase == .ready then cmdFail s .busy
  else cmdOk (ethMod (fun e => { e with udpPort := BitVec.ofNat 16 (param c 0 2) }) s)

/-- EHT_PORT (R119, R127). -/
def execEhtPort (c : Cmd) (s : State) : Host.Outcome State Fault Refusal := .next (runCmd specEhtPort doEhtPort c s)

def specEhtAddr : CmdSpec := { opcode := 0x0431, issuer := .pf0, cls := .any, fields := [(0, 1), (1, 1), (2, 2), (4, 16)] }

def doEhtAddr (c : Cmd) (s : State) : CmdOut :=
  let vlan := param c 2 2
  needParam (decide (param c 0 1 < 4) && decide (param c 1 1 ≤ 1) && (decide (vlan ≤ 4095) || vlan == 0xFFFF)) s
    (let a : SrcAddr := { kind := param c 1 1, vlan := if vlan = 0xFFFF then none else some vlan, addr := BitVec.ofNat 128 (param c 4 16) }
     cmdOk (ethMod (fun e => { e with addrs := tabSet e.addrs (addrKey (namedOf c) (param c 0 1)) a }) s))

/-- EHT_ADDR (R127). -/
def execEhtAddr (c : Cmd) (s : State) : Host.Outcome State Fault Refusal := .next (runCmd specEhtAddr doEhtAddr c s)

end Sys2Proof.Machine
end

