-- ==== Sys2Proof/Machine/Admission.lean ====
section
/-! DEFINITION. The geometry of the two rings a device lies on (R200, R208, R222), and the admission of guaranteed flows
(R190 to R197, R32). -/

namespace Sys2Proof.Machine

/-! ### Rings -/

/-- Position of a device on its ring of an axis: 0 its X ring (the column), 1 its Y ring (the row) (R200). -/
def posOf (axis dev : Nat) : Nat := if axis = 0 then dev % 64 else dev / 64

/-- Which ring of an axis a device lies on: the row of an X ring, the column of a Y ring. -/
def lineOf (axis dev : Nat) : Nat := if axis = 0 then dev / 64 else dev % 64

/-- The device at position `pos` of ring `line` of an axis. -/
def devAt (axis line pos : Nat) : Nat := if axis = 0 then line * 64 + pos else pos * 64 + line

def ownDev (s : State) : Nat := s.fabric.ident.getD 0

/-- The positions present on a ring: those of the devices that the bearing holds valid entries for, and this device's (log
entry 27). -/
def present (s : State) (b : Bearing) (axis line : Nat) : List Nat :=
  (List.range 64).filter fun p => devAt axis line p == ownDev s || bit (bearingEntry b (devAt axis line p)) 15

/-- The next position present, east or west of `p` (R200). -/
def nextPos (l : List Nat) (west : Bool) (p : Nat) : Nat :=
  if west then ((l.filter fun x => decide (x < p)).getLast?).getD (l.getLast?.getD p)
  else ((l.find? fun x => decide (p < x))).getD (l.headD p)

/-- A link of the fabric in one direction: the device it leaves, and 0 X east, 1 X west, 2 Y east, 3 Y west. -/
def linkNum (dev dir : Nat) : Nat := 4 * dev + dir

/-- The links from position `p` to position `goal` of a ring in a direction; none where the goal is not met. -/
def ringWalk (fuel : Nat) (l : List Nat) (axis line : Nat) (west : Bool) (p goal : Nat) : Option (List Nat) :=
  match fuel with
  | 0 => none
  | fuel + 1 =>
    let q := nextPos l west p
    let here := linkNum (devAt axis line p) (2 * axis + flag west)
    if q = goal then some [here] else (ringWalk fuel l axis line west q goal).map (here :: ·)

/-- An exit that a path uses: the device, the direction in which the flit arrives, and 0 or 1 for the turn buffer east or west,
2 for ejection (R213). -/
def exitNum (dev dir exit : Nat) : Nat := (4 * dev + dir) * 4 + exit

/-- A path through the fabric. -/
structure FabPath where
  links : List Nat
  exits : List Nat
  turns : Nat
deriving DecidableEq, Repr

/-- The path of a tag from this device to another, by the geometry of the torus (R121, R212). -/
def pathTo (s : State) (b : Bearing) (dest tag : Nat) : Option FabPath :=
  match injectDirection b dest tag with
  | none => none
  | some d =>
    let own := ownDev s
    let axis := d / 2
    let walk (ax line : Nat) (west : Bool) (a z : Nat) : Option (List Nat) :=
      ringWalk 64 (present s b ax line) ax line west a z
    match walk axis (lineOf axis own) (bit d 0) (posOf axis own) (posOf axis dest) with
    | none => none
    | some leg1 =>
      if posOf axis own = posOf axis dest then none
      else if lineOf axis own = lineOf axis dest then some { links := leg1, exits := [exitNum dest d 2], turns := 0 }
      else
        let axis2 := 1 - axis
        let corner := devAt axis (lineOf axis own) (posOf axis dest)
        let west2 := bit tag 1
        let d2 := 2 * axis2 + flag west2
        (walk axis2 (lineOf axis2 corner) west2 (posOf axis2 corner) (posOf axis2 dest)).map fun leg2 =>
          { links := leg1 ++ leg2, exits := [exitNum corner d (flag west2), exitNum dest d2 2], turns := 1 }

/-- The opposite direction on the same ring. -/
def opposite (d : Nat) : Nat := if d % 2 = 0 then d + 1 else d - 1

/-- `LAT_l` of a link: what training measured at an end that is this device, else a free value (log entry 27). -/
def linkLat (s : State) (b : Bearing) (link : Nat) : Nat :=
  let dev := link / 4
  let d := link % 4
  let axis := d / 2
  let line := lineOf axis dev
  let far := devAt axis line (nextPos (present s b axis line) (bit d 0) (posOf axis dev))
  let atPort (dir : Nat) : Option Nat := (ringPort s dir).bind fun p => if p.2.active then some p.2.latNs else none
  let west := if bit d 0 then far else dev
  let free := Config.linkLatency west axis
  if dev = ownDev s then (atPort d).getD free
  else if far = ownDev s then (atPort (opposite d)).getD free
  else free

/-- The eastward links of this device's ring of an axis. -/
def ringLinks (s : State) (b : Bearing) (axis : Nat) : List Nat :=
  let line := lineOf axis (ownDev s)
  (present s b axis line).map fun p => linkNum (devAt axis line p) (2 * axis)

def ringInfo (s : State) (axis : Nat) : RingInfo := if axis = 0 then s.fabric.ringX else s.fabric.ringY

/-- The eastward links that a folded ring still has: those outside the gap between its fold positions. Of the two arcs the
shorter is the gap; while one fold alone is known, the gap is the link beyond it (log entry 28). -/
def liveLinks (s : State) (b : Bearing) (axis : Nat) : List Nat :=
  let r := ringInfo s axis
  let line := lineOf axis (ownDev s)
  let l := present s b axis line
  let arc (a z : Nat) : List Nat := (ringWalk 64 l axis line false a z).getD []
  let all := ringLinks s b axis
  if !r.folded then all
  else if r.foldA = r.foldB then
    let gap := if bit s.fabric.ownFolds.toNat (2 * axis + 1) ∧ r.foldA = posOf axis (ownDev s) then nextPos l true r.foldA else r.foldA
    all.erase (linkNum (devAt axis line gap) (2 * axis))
  else
    let one := arc r.foldA r.foldB
    let two := arc r.foldB r.foldA
    if one.length ≤ two.length then all.filter fun k => !one.contains k else all.filter fun k => !two.contains k

/-- S of a ring (R208); a folded ring is one loop over its live links, there and back (R222). -/
def ringSlots (s : State) (b : Bearing) (axis : Nat) : Nat :=
  let total := ((liveLinks s b axis).map fun k => linkLat s b k + 60).sum
  ceilDiv (total * (if (ringInfo s axis).folded then 2 else 1) * 10000) 14344

/-- The lap of a ring in tenths of a ps, of which a slot takes 14,344 (R208). -/
def lapTenths (s : State) (axis : Nat) : Nat := (ringInfo s axis).slots * 14344

/-- The lap of a ring in whole ps. DESIGN CHOICE (log entry 102): the part of a ps counts as one. -/
def lapPs (s : State) (axis : Nat) : Nat := ceilDiv (lapTenths s axis) 10

/-- A ring is guarded: the active bearing marks it so and it is not folded (R210). -/
def guardedRing (s : State) (axis : Nat) : Bool :=
  match activeBearing s with
  | some (_, b) => bit b.guarded.toNat axis && !(ringInfo s axis).folded
  | none => false

/-! ### The tests of Table 7-8 -/

/-- A flow as the tests see it: its class, loss bound, rate and burst, its routes (each the list of links and exits of one
admitted path tag), and the profile of its tests. -/
structure Flow where
  qp       : Nat
  fabric   : Bool
  cls      : Nat
  lossBound : Nat
  rate     : Nat
  burst    : Nat
  routes   : List FabPath
  ports    : List Nat
  latency  : Bool
deriving DecidableEq, Repr

/-- U and H of Table 7-8. -/
def limitU (latency : Bool) : Rat := if latency then 2 / 5 else 1 / 2
def limitH (latency : Bool) : Rat := if latency then 3 / 4 else 9 / 10

/-- C of a fabric link in bytes per ns: none on an unguarded ring (R210). A ring of which this device is no part is judged by the
`GUARDED` setting alone. -/
def linkC (s : State) (link : Nat) : Rat :=
  let axis := link % 4 / 2
  let own := lineOf axis (link / 4) == lineOf axis (ownDev s)
  let ok : Bool := if own then guardedRing s axis
    else match activeBearing s with
      | some (_, b) => bit b.guarded.toNat axis
      | none => false
  if ok then fabricRate else 0

/-- C of an Ethernet egress port in bytes per ns (Table 7-7). -/
def portC (s : State) (port : Nat) : Rat := if linkUp s port then (linkRate (portMode s (port / 8)) : Rat) / 8 else 0

/-- Rates in MB/s as bytes per ns. -/
def perNs (mbs : Nat) : Rat := (mbs : Rat) / 1000

def usesLink (k : Nat) (f : Flow) : Bool := f.routes.any fun r => r.links.contains k
def usesExit (k : Nat) (f : Flow) : Bool := f.routes.any fun r => r.exits.contains k

/-- The bound D of a fabric path of flow `f` among `flows`, in ns (R192). `flows` holds `f` itself. -/
def pathBound (s : State) (b : Bearing) (flows : List Flow) (f : Flow) (r : FabPath) : Rat :=
  let hops := (r.links.map fun k => linkLat s b k + 60).sum
  let shared := flows.filter fun g => decide (g.cls ≤ f.cls) && r.links.any fun k => usesLink k g
  (350 + 250 + 2 * hops : Nat) + ((shared.map fun g => g.burst).sum : Nat) / fabricRate + (r.links.length * 144 : Nat) / fabricRate

/-- The tests of one fabric path of flow `f` (Table 7-8). -/
def fabricPathOk (s : State) (b : Bearing) (flows : List Flow) (f : Flow) (r : FabPath) : Bool :=
  (r.links.all fun k =>
    decide (perNs ((flows.filter (usesLink k)).map fun g => g.rate).sum ≤ limitU f.latency * linkC s k)) &&
  (r.exits.all fun k => decide (((flows.filter (usesExit k)).map fun g => ceilDiv g.burst 128).sum ≤ 1024)) &&
  decide (pathBound s b flows f r ≤ limitH f.latency * (if r.turns = 0 then 3000 else 6000))

/-- The device-side bound of an Ethernet flow at a port, in ns (Table 7-8). -/
def portBound (s : State) (flows : List Flow) (f : Flow) (port : Nat) : Rat :=
  let shared := flows.filter fun g => decide (g.cls ≤ f.cls) && g.ports.contains port
  (600 + 800 : Nat) + (((shared.map fun g => (g.lossBound + 1) * g.burst).sum + 9216 : Nat) : Rat) / portC s port

/-- The tests of an Ethernet flow at one of its egress ports. -/
def ethPortOk (s : State) (flows : List Flow) (f : Flow) (port : Nat) : Bool :=
  let all := flows.filter fun g => g.ports.contains port
  decide (0 < portC s port) &&
  decide (perNs ((all.map fun g => (g.lossBound + 1) * g.rate).sum) ≤ limitU f.latency * portC s port) &&
  decide (portBound s flows f port ≤ limitH f.latency * 8000)

/-- Every test of flow `f`, with `flows` (which holds it) on the device. -/
def flowOk (s : State) (flows : List Flow) (f : Flow) : Bool :=
  if f.fabric then
    match activeBearing s with
    | some (_, b) => !f.routes.isEmpty && f.routes.all fun r => fabricPathOk s b (flows.filter fun g => g.fabric) f r
    | none => false
  else !f.ports.isEmpty && f.ports.all fun p => ethPortOk s (flows.filter fun g => !g.fabric) f p

/-- The path tags of a mask. -/
def tagsOf (mask : Nat) : List Nat := (List.range 16).filter fun i => bit mask i

/-- The egress ports of a queue pair's tags, without repeats. -/
def portsOf (s : State) (q : Qp) (tags : List Nat) : List Nat := sortedNats (tags.filterMap fun t => egressPort s q t)

/-- A flow over the resources as they stand; none where a tag has no path any more. -/
def flowOf (s : State) (n : Nat) (q : Qp) (cls loss rate burst mask : Nat) (latency : Bool) : Option Flow :=
  let tags := tagsOf mask
  let base : Flow := { qp := n, fabric := isFabric q, cls := cls, lossBound := loss, rate := rate, burst := burst, routes := [],
                       ports := portsOf s q tags, latency := latency }
  if isFabric q then
    match activeBearing s with
    | some (_, b) =>
      let routes := tags.filterMap fun t => pathTo s b (peerDevice q) t
      if routes.length = tags.length then some { base with routes := routes } else none
    | none => none
  else
    -- A flow still fits while enough of its paths have a link for every copy (R193).
    let live := tags.filter fun t => (egressPort s q t).isSome
    if loss + 1 ≤ live.length then some base else none

/-- The flow of a queue pair's current admission. -/
def admittedFlow (s : State) (n : Nat) (q : Qp) : Option Flow :=
  (admitted q).bind fun a => flowOf s n q a.cls a.lossBound a.rate a.burst a.pathMask.toNat a.latency

/-- Every admitted flow of the device but that of queue pair `n`. A flow whose resources are gone counts for nothing until its
re-check. -/
def otherFlows (s : State) (n : Nat) : List Flow :=
  (s.qps.filter fun p => p.1 != n).filterMap fun p => admittedFlow s p.1 p.2

/-- Flow `f` may join: it passes, and so does every flow that shares a link, an exit or a port with it (R192). -/
def mayJoin (s : State) (f : Flow) : Bool :=
  let others := otherFlows s f.qp
  let all := f :: others
  let near (g : Flow) : Bool :=
    (g.routes.any fun r => r.links.any (fun k => usesLink k f) || r.exits.any (fun k => usesExit k f)) ||
    g.ports.any fun p => f.ports.contains p
  flowOk s all f && (others.filter near).all fun g => flowOk s all g

/-- The bound that the reply reports, in ns, rounded up (R192, R193). -/
def reportedBound (s : State) (f : Flow) (netRtt : Nat) : Nat :=
  if f.fabric then
    match activeBearing s with
    | some (_, b) => ((f.routes.map fun r => ⌈pathBound s b (f :: otherFlows s f.qp) f r⌉.toNat).foldl max 0)
    | none => 0
  else netRtt + 8000

/-! ### qp.admit, qp.release, qp.admit.query -/

def specQpAdmit : CmdSpec :=
  { opcode := 0x0410, issuer := .any, cls := .any,
    fields := [(0, 4), (4, 1), (5, 1), (6, 2), (8, 4), (12, 4), (16, 4), (20, 4)] }

/-- The conditions of R191, R195 and Table 7-6 on the parameters. The tags of `PATH_MASK` are paths of the queue pair, and there
are enough of them for every copy (log entry 25). -/
def admitOk (s : State) (c : Cmd) (q : Qp) : Bool :=
  let cls := param c 4 1
  let loss := param c 5 1
  let tags := tagsOf (param c 6 2)
  let fab := isFabric q
  q.phase == .ready && q.conf.mode == .eht && decide (cls ≤ 3) && q.conf.tc == 7 - cls && decide (loss ≤ 3) && (!fab || loss == 0) &&
  decide (loss + 1 ≤ tags.length) && (tags.all fun t => decide (t < pathsOf s q)) && decide (1 ≤ param c 8 4) &&
  (!fab || decide (param c 16 4 ≤ 65536)) && decide (wireOf q (param c 16 4) ≤ param c 12 4) &&
  (fab || decide (1000 ≤ param c 20 4 ∧ param c 20 4 ≤ 1000000000))

/-- A path of an admission would end at a spur port of a partner pair (R300; log entry 29). -/
def partnerPath (s : State) (fn : Nat) : Bool :=
  match tabGet s.spaces fn with
  | some a => a.pages.any fun r => r.target == .spur && (match portGet s r.port with | some x => x.partner.isSome | none => false)
  | none => false

/-- Grant an admission: the shaper of the queue pair and the class shapers at its ports (R193). Its links leave low-power idle (R364). -/
def grantAdmission (n : Nat) (a : Admission) (s : State) : State :=
  let s1 := endAdmission n s
  let shaper : Shaper := { rate := a.rate, depth := a.burst, tokens := 0, change := none }
  let s2 := schedMod (fun y => { y with shapers := tabSet y.shapers (shaperKey 0 n 0) shaper, nextAdmission := y.nextAdmission + 1 }) s1
  let tc := match qpGet s2 n with | some q => q.conf.tc | none => 0
  let s3 := a.ports.foldl (fun t l => leaveTxLpi l t) s2
  keepAwake (qpMod n (fun q => { q with admission := some a }) (a.ports.foldl (changeClassShaper true tc a.rate a.burst) s3))

def doQpAdmit (c : Cmd) (s : State) : CmdOut :=
  let n := param c 0 4
  match usableQp s (namedOf c) n with
  | none => cmdFail s .invalidParam
  | some q =>
    if !admitOk s c q then cmdFail s .invalidParam
    else
      let lat := s.dev.profile == .latency
      match flowOf s n q (param c 4 1) (param c 5 1) (param c 8 4) (param c 12 4) (param c 6 2) lat with
      | none => cmdFail s .admissionDenied
      | some f =>
        if !mayJoin s f ∨ partnerPath s q.conf.fn then cmdFail s .admissionDenied
        else
          let bound := reportedBound s f (param c 20 4)
          let a : Admission :=
            { number := s.sched.nextAdmission, cls := f.cls, lossBound := f.lossBound, pathMask := BitVec.ofNat 16 (param c 6 2),
              rate := f.rate, burst := f.burst, msgMax := param c 16 4, netRtt := param c 20 4, bound := bound, withdrawn := false,
              links := sortedNats (f.routes.flatMap fun r => r.links), exits := sortedNats (f.routes.flatMap fun r => r.exits),
              ports := f.ports, latency := lat }
          .done (grantAdmission n a s) .ok bound s.sched.nextAdmission.toNat 0

/-- QP_ADMIT (R192, R193, R195). -/
def execQpAdmit (c : Cmd) (s : State) : Host.Outcome State Fault Refusal := .next (runCmd specQpAdmit doQpAdmit c s)

def specQpRelease : CmdSpec := { opcode := 0x0411, issuer := .any, cls := .any, fields := [(0, 4)] }

def doQpRelease (c : Cmd) (s : State) : CmdOut :=
  match usableQp s (namedOf c) (param c 0 4) with
  | none => cmdFail s .invalidParam
  | some _ => cmdOk (endAdmission (param c 0 4) s)

/-- QP_RELEASE (R172). -/
def execQpRelease (c : Cmd) (s : State) : Host.Outcome State Fault Refusal := .next (runCmd specQpRelease doQpRelease c s)

def specQpAdmitQuery : CmdSpec := { opcode := 0x0412, issuer := .any, cls := .any, fields := [(0, 4)] }

def doQpAdmitQuery (c : Cmd) (s : State) : CmdOut :=
  match usableQp s (namedOf c) (param c 0 4) with
  | none => cmdFail s .invalidParam
  | some q =>
    match admitted q with
    | some a => .done s .ok (1 + 2 * a.cls) q.violations a.bound
    | none => .done s .ok 0 q.violations 0

/-- QP_ADMIT_QUERY (R190). -/
def execQpAdmitQuery (c : Cmd) (s : State) : Host.Outcome State Fault Refusal :=
  .next (runCmd specQpAdmitQuery doQpAdmitQuery c s)

/-! ### The re-check of R32 -/

/-- The admission of queue pair `n` is withdrawn, and a record names the flow. -/
def withdrawAdmission (n : Nat) (s : State) : State :=
  match qpGet s n with
  | none => s
  | some q =>
    match admitted q with
    | none => s
    | some a =>
      raiseEvent .admissionWithdrawn q.conf.fn nodeSelf a.number.toNat n
        (qpMod n (fun x => { x with admission := x.admission.map fun y => { y with withdrawn := true } }) s)

/-- Every admitted flow in turn: one that no longer fits the resources that survive is withdrawn. DESIGN CHOICE (log entry 103): R32 does not
say which of several flows goes that together no longer fit; they are judged in the order of their queue pairs' numbers, and one that has
been withdrawn counts no more for those judged later. -/
def recheckAll (s : State) : State :=
  s.qps.foldl (fun t p =>
    match qpGet t p.1 with
    | none => t
    | some q =>
      if (admitted q).isNone then t
      else
        match admittedFlow t p.1 q with
        | none => withdrawAdmission p.1 t
        | some f => if flowOk t (f :: otherFlows t p.1) f then t else withdrawAdmission p.1 t) s

/-- A resource of some path is gone: the re-check is due within 100 µs. -/
def wantRecheck (s : State) : State :=
  { s with sched := { s.sched with recheckAt := some (s.sched.recheckAt.getD (s.dev.now + 100000)) } }

/-- ADMISSION_RECHECK (R32). -/
def execAdmissionRecheck (s : State) : Host.Outcome State Fault Refusal :=
  whileLit s <|
  match s.sched.recheckAt with
  | some _ => .next (recheckAll (schedMod (fun y => { y with recheckAt := none }) s))
  | none => .next s

end Sys2Proof.Machine
end

