-- ==== Sys2Proof/Machine/Fabric.lean ====
section
/-! DEFINITION. Fabric ports, bearings, markers and folds (R199 to R204, R217 to R224, R228 to R230). -/

namespace Sys2Proof.Machine

def fabMod (f : Fabric → Fabric) (s : State) : State := { s with fabric := f s.fabric }

def isRingRole (r : PortRole) : Bool :=
  match r with
  | .xEast | .xWest | .yEast | .yWest => true
  | .disabled | .spur => false

def roleCode (r : PortRole) : Nat :=
  match r with
  | .disabled => 0 | .xEast => 1 | .xWest => 2 | .yEast => 3 | .yWest => 4 | .spur => 5

def roleOf (n : Nat) : PortRole :=
  match n with
  | 1 => .xEast | 2 => .xWest | 3 => .yEast | 4 => .yWest | 5 => .spur | _ => .disabled

/-- Direction of a ring role: 0 X east, 1 X west, 2 Y east, 3 Y west. -/
def dirOf (r : PortRole) : Nat :=
  match r with
  | .xWest => 1 | .yEast => 2 | .yWest => 3 | .xEast | .disabled | .spur => 0

/-- A port that nothing has set up. -/
def newPort (role : PortRole) : FabPort :=
  { role := role, pilot := false, wakeMax := 200, active := false, lanes := 0, latNs := 0, partnerDev := 0, partnerPort := 0,
    partnerPilot := false, wakeNs := 0, mayIdle := false, isIdle := false, narrowed := false, attempts := 0, lastFlit := 0, heardAt := 0,
    txLoad := [], rxLoad := [], partner := none, accesses := [], streams := [], nextTag := 0, loopUntil := none }

/-- The trained ring ports, with their directions. -/
def trainedRing (s : State) : List (Nat × Nat) :=
  s.fabric.ports.filterMap fun p => if isRingRole p.2.role && p.2.active then some (p.1, dirOf p.2.role) else none

/-! ### Forming and folding rings -/

def setRing (axis : Nat) (f : RingInfo → RingInfo) (s : State) : State :=
  fabMod (fun x => if axis = 0 then { x with ringX := f x.ringX } else { x with ringY := f x.ringY }) s

/-- `DRAIN_NS` is raised to four laps where a lap would break its lower limit (R220). -/
def raiseDrain (axis : Nat) (s : State) : State :=
  let need := ceilDiv (4 * lapTenths s axis) 10000
  if s.fabric.drainNs < need then
    raiseEvent .drainRaised 0 nodeSelf axis (need / 1000) (fabMod (fun x => { x with drainNs := need }) s)
  else s

/-- Who lies on a ring of this device: whom the ACTIVE bearing holds valid entries for; before one is ACTIVE, whom `Config.ringMembers` names
(log entry 28). -/
def ringBearing (s : State) (axis : Nat) : Bearing :=
  match activeBearing s with
  | some (_, b) => b
  | none =>
    let line := lineOf axis (ownDev s)
    let here := (List.range 64).filter fun p => bit (Config.ringMembers axis line).toNat p
    { freshBearing with entries := here.map fun p => (devAt axis line p, 0x8000) }

/-- A ring forms, folds or unfolds: its slot count is set (R208); reservations and claims, which name slots, are void (R215, log entry
56). -/
def formRing (axis : Nat) (s : State) : State :=
  let slots := ringSlots s (ringBearing s axis) axis
  raiseDrain axis (setRing axis (fun r => { r with slots := slots })
    (fabMod (fun x => { x with reservations := x.reservations.filter (fun r => r.port / 2 != axis),
                               claims := x.claims.filter fun p => p.1 / 2 != axis }) s))

/-- Both of the device's ports on a ring are up. -/
def bothUp (s : State) (axis : Nat) : Bool :=
  [2 * axis, 2 * axis + 1].all fun d => match ringPort s d with | some p => p.2.active | none => false

/-- A ring of which no slots are known forms as its ports train; training changes no ring that has formed (R224). -/
def formTrained (axis : Nat) (s : State) : State := if (ringInfo s axis).slots = 0 ∧ bothUp s axis then formRing axis s else s

/-- A `RING_STATUS` flit of a ring (Table 8-3): the count of folds seen, the fold positions, and whether the ring is folded. -/
def statusFlit (s : State) (axis : Nat) : Flit :=
  let r := ringInfo s axis
  makeFlit s 0x02 0 0 r.foldsSeen 0 (beBytes 4 (pack [(0, 6, r.foldA), (8, 6, r.foldB), (16, 1, flag r.folded)]))

/-- No slots leave in direction `d`: the ring ends there in a fold, or has not formed. -/
def slotless (s : State) (d : Nat) : Bool := bit s.fabric.ownFolds.toNat d || (ringInfo s (d / 2)).slots == 0

/-- A `MARKER` or `RING_STATUS` flit joins those that wait for a slot in its direction; where no slots leave, it crosses at once (R219). -/
def putFlood (f : Flit) (s : State) (p : Nat × Nat) : State :=
  if slotless s p.2 then sendFlit p.1 f s
  else fabMod (fun x => { x with flood := x.flood ++ [{ dir := some p.2, since := s.dev.now, flit := f }] }) s

/-- Send a flit on the trained ring ports of some directions. -/
def floodFlit (f : Flit) (dirs : List Nat) (s : State) : State :=
  ((trainedRing s).filter fun p => dirs.contains p.2).foldl (putFlood f) s

/-- `route.commit` is answered once the markers of its generation have left (Table 8-9). -/
def finishCommits (s : State) : State :=
  let waits (g : Nat) : Bool := s.fabric.flood.any fun w => w.flit.type == 0x01 && w.flit.chunkSeq.toNat == g
  finishCmds (fun d => match d with | .routeCommit g t => if waits g then none else some (.ok, t, 0, 0) | _ => none) s

/-- Flits that waited for a slot in a direction without any cross at once, where its port is up (R219, R222). -/
def crossFlood (s : State) : State :=
  let stuck (w : SlotWait) : Bool := w.dir.any (slotless s)
  let out := s.fabric.flood.filter stuck
  finishCommits (out.foldl (fun t w =>
      ((trainedRing t).filter fun p => w.dir == some p.2).foldl (fun u p => sendFlit p.1 w.flit u) t)
    (fabMod (fun x => { x with flood := x.flood.filter fun w => !stuck w }) s))

/-- The fold positions of a ring after position `p` is known to be one (log entry 28). -/
def addFold (p : Nat) (r : RingInfo) : RingInfo :=
  if !r.folded then { r with folded := true, foldA := p, foldB := p }
  else if r.foldA = p ∨ r.foldB = p then r
  else if r.foldA = r.foldB then { r with foldB := p }
  else r

/-- The ring ends in direction `d` at this device (R222). -/
def foldHere (d : Nat) (s : State) : State :=
  let axis := d / 2
  let p := posOf axis (ownDev s)
  if bit s.fabric.ownFolds.toNat d then s
  else
    let s1 := fabMod (fun x => { x with ownFolds := x.ownFolds ||| BitVec.ofNat 4 (2 ^ d) }) s
    let s2 := crossFlood (formRing axis (setRing axis (fun r => { addFold p r with foldsSeen := r.foldsSeen + 1 }) s1))
    let s3 := floodFlit (statusFlit s2 axis) [2 * axis, 2 * axis + 1] s2
    wantRecheck (raiseEvent .ringFolded 0 nodeSelf axis p s3)

/-- The ring is whole again at this device. -/
def unfoldRing (axis : Nat) (s : State) : State :=
  let r := ringInfo s axis
  let mask : BitVec 4 := if axis = 0 then 12 else 3
  let mine := bits s.fabric.ownFolds.toNat (2 * axis) 2 != 0
  let s1 := fabMod (fun x => { x with ownFolds := x.ownFolds &&& mask }) s
  let s2 := setRing axis (fun r => { r with folded := false, foldA := 0, foldB := 0 }) s1
  if mine then closeEvent .ringFolded 0 axis (posOf axis (ownDev s)) (formRing axis s2)
  else if r.folded then formRing axis s2 else s2

/-! ### Bearings -/

def bearingGet (s : State) (b : Bool) : Bearing := if b then s.fabric.bearingB else s.fabric.bearingA

def bearingMod (b : Bool) (f : Bearing → Bearing) (s : State) : State :=
  fabMod (fun x => if b then { x with bearingB := f x.bearingB } else { x with bearingA := f x.bearingA }) s

/-- What a bearing that has just become ACTIVE makes of a ring: ports that it excludes, or that are not up, are folds; a ring
with none of either is whole (R222, R224). A fold that stays is announced again, and leaves the ring as it is. `first`: no bearing was ACTIVE
before, so the ring forms with the members that this one names. -/
def applyLinkUse (use : W8) (axis : Nat) (first : Bool) (s : State) : State :=
  let dirs := [2 * axis, 2 * axis + 1]
  let up (d : Nat) : Bool := bit use.toNat d && (match ringPort s d with | some p => p.2.active | none => false)
  let any := dirs.any fun d => (ringPort s d).isSome
  let folds := if any then dirs.filter fun d => !up d else []
  let had (d : Nat) : Bool := bit s.fabric.ownFolds.toNat d
  let gone := dirs.filter fun d => had d && !folds.contains d
  let s1 := if folds.isEmpty then unfoldRing axis s
    else fabMod (fun x => { x with ownFolds := x.ownFolds &&& ~~~ (BitVec.ofNat 4 (gone.map fun d => 2 ^ d).sum) }) s
  let s2 := folds.foldl (fun t d => foldHere d t) s1
  let s3 := if folds.any had then floodFlit (statusFlit s2 axis) dirs s2 else s2
  if any ∧ (first ∨ (ringInfo s3 axis).slots = 0 ∨ (!folds.isEmpty ∧ !gone.isEmpty)) then formRing axis s3 else s3

/-- The flip of Table 8-5: the ARMED bearing becomes ACTIVE, an ACTIVE one DRAINING, the time is recorded, and a `MARKER` goes
out on every trained ring port. -/
def flipBearing (b : Bool) (s : State) : State :=
  let now := s.dev.now
  let first := (activeBearing s).isNone
  let drain (x : Bearing) : Bearing := if x.mode = .active then { x with mode := .draining, flippedAt := now } else x
  let s1 := bearingMod b (fun x => { x with mode := .active, flippedAt := now }) (bearingMod (!b) drain s)
  let x := bearingGet s1 b
  let s2 := fabMod (fun y => { y with flipTime := now, markersSeen := x.generation :: y.markersSeen }) s1
  let s3 := floodFlit (makeFlit s2 0x01 0 0 x.generation 0 []) [0, 1, 2, 3] s2
  judgePaths (wantRecheck (applyLinkUse x.linkUse 1 first (applyLinkUse x.linkUse 0 first s3)))

/-- The bearing that is ARMED with a generation. -/
def armedWith (s : State) (g : Nat) : Option Bool :=
  if s.fabric.bearingA.mode = .armed ∧ s.fabric.bearingA.generation = g then some false
  else if s.fabric.bearingB.mode = .armed ∧ s.fabric.bearingB.generation = g then some true
  else none

/-- A `MARKER` of generation `g` arrives on a port (Table 8-5, R219). -/
def takeMarker (port g : Nat) (f : Flit) (s : State) : State :=
  match armedWith s g with
  | some b => flipBearing b s
  | none =>
    if (activeBearing s).map (fun x => x.2.generation) = some g then s
    else
      let s1 := raiseEvent .markerUnarmed 0 nodeSelf g 0 s
      if s.fabric.markersSeen.contains g then s1
      else
        let onward := (trainedRing s).filter fun p => p.1 != port
        onward.foldl (putFlood f) (fabMod (fun x => { x with markersSeen := g :: x.markersSeen }) s1)

/-- A `RING_STATUS` flit arrives on a ring port (R222): the ring is folded from now on; news goes on in the same direction. -/
def takeStatus (port : Nat) (f : Flit) (s : State) : State :=
  match portGet s port with
  | none => s
  | some x =>
    let d := opposite (dirOf x.role)
    let axis := d / 2
    let w := ofBe (slice f.payload 0 4)
    if !bit w 16 then s
    else
      let r := ringInfo s axis
      let r1 := addFold (bits w 8 6) (addFold (bits w 0 6) r)
      let r2 := { r1 with foldsSeen := max r.foldsSeen f.chunkSeq.toNat }
      if r2 = r then s
      else wantRecheck (floodFlit f [d] (formRing axis (setRing axis (fun _ => r2) s)))

/-- A flit arrives sound on a ring port that is up (R203, R206). -/
def ringFlitGood (s : State) (port : Nat) (f : Flit) : Bool :=
  (match portGet s port with | some x => isRingRole x.role && x.active | none => false) && flitSound f

def dropFlit (s : State) : State := fabMod (fun x => { x with dropped := x.dropped + 1 }) s

/-- FLIT_MARKER (R219). -/
def execFlitMarker (port : Nat) (f : Flit) (s : State) : Host.Outcome State Fault Refusal :=
  whileLit s <|
  if ringFlitGood s port f ∧ f.type = 0x01 then .next (takeMarker port f.chunkSeq.toNat f (hearFlit port s))
  else .next (dropFlit s)

/-- FLIT_RING_STATUS (R222). -/
def execFlitRingStatus (port : Nat) (f : Flit) (s : State) : Host.Outcome State Fault Refusal :=
  whileLit s <|
  if ringFlitGood s port f ∧ f.type = 0x02 then .next (takeStatus port f (hearFlit port s))
  else .next (dropFlit s)

/-- BEARING_DRAIN_END (R217). -/
def execBearingDrainEnd (s : State) : Host.Outcome State Fault Refusal :=
  whileLit s <|
  let finish (b : Bool) (t : State) : State :=
    bearingMod b (fun x => { x with mode := .idle }) (advanceTo ((bearingGet t b).flippedAt + t.fabric.drainNs) t)
  if s.fabric.bearingA.mode = .draining then .next (finish false s)
  else if s.fabric.bearingB.mode = .draining then .next (finish true s)
  else .next s

/-! ### route.* (R217, R218, R220) -/

/-- `BEARING` names a bearing in the mode that the opcode needs (R218). -/
def withBearing (c : Cmd) (m : BearingMode) (s : State) (k : Bool → Bearing → CmdOut) : CmdOut :=
  if 1 < param c 0 1 then cmdFail s .invalidParam
  else
    let b := param c 0 1 == 1
    if (bearingGet s b).mode ≠ m then cmdFail s .bearingBusy else k b (bearingGet s b)

def specRouteWrite : CmdSpec :=
  { opcode := 0x0920, issuer := .pf0, cls := .any, fields := [(0, 1), (2, 2), (4, 2)],
    listed := some { off := 64, countAt := 4, countWidth := 2, size := 2 } }

def doRouteWrite (c : Cmd) (s : State) : CmdOut :=
  withBearing c .idle s fun b _ =>
    let first := param c 2 2
    let n := param c 4 2
    if !(c.indirect && decide (1 ≤ n ∧ first + n ≤ 4096 ∧ 64 + 2 * n ≤ c.length.toNat)) then cmdFail s .invalidParam
    else
      let write (x : Bearing) : Bearing :=
        { x with entries := (List.range n).foldl (fun t i => tabSet t (first + i) (BitVec.ofNat 16 (param c (64 + 2 * i) 2))) x.entries }
      cmdOk (bearingMod b write s)

/-- ROUTE_WRITE (R218). -/
def execRouteWrite (c : Cmd) (s : State) : Host.Outcome State Fault Refusal := .next (runCmd specRouteWrite doRouteWrite c s)

def specRouteArm : CmdSpec :=
  { opcode := 0x0921, issuer := .pf0, cls := .any, fields := [(0, 1), (4, 4), (8, 1), (9, 1), (10, 1)] }

/-- An entry holds no RSVD encoding (Table 8-4). -/
def entryLegal (e : Nat) : Bool := bits e 2 2 != 1 && bits e 6 2 != 1 && !bit e 14

/-- The entry of the device's own number ejects on every leg (R218). -/
def ejectsHere (e : Nat) : Bool := bit e 15 && bits e 0 8 == 0xAA

/-- The checks of R218 on a bearing. -/
def armOk (s : State) (b : Bearing) (use dateline : Nat) : Bool :=
  (b.entries.all fun e => entryLegal e.2.toNat) && s.fabric.ident.isSome && ejectsHere (bearingEntry b (ownDev s)) &&
  (List.range 4).all fun d => !bit dateline d || bit use d

def doRouteArm (c : Cmd) (s : State) : CmdOut :=
  withBearing c .idle s fun b x =>
    let g := param c 4 4
    let use := param c 8 1
    let dl := param c 9 1
    let gd := param c 10 1
    if !(decide (1 ≤ g ∧ g < 2 ^ 24) && decide (use < 16) && decide (dl < 16) && decide (gd < 4) && armOk s x use dl) then
      cmdFail s .invalidParam
    else
      cmdOk (bearingMod b (fun x =>
        { x with mode := .armed, generation := g, linkUse := BitVec.ofNat 8 use, dateline := BitVec.ofNat 8 dl, guarded := BitVec.ofNat 8 gd }) s)

/-- ROUTE_ARM (R217, R218). -/
def execRouteArm (c : Cmd) (s : State) : Host.Outcome State Fault Refusal := .next (runCmd specRouteArm doRouteArm c s)

def specRouteDisarm : CmdSpec := { opcode := 0x0922, issuer := .pf0, cls := .any, fields := [(0, 1)] }

def doRouteDisarm (c : Cmd) (s : State) : CmdOut :=
  withBearing c .armed s fun b _ => cmdOk (bearingMod b (fun x => { x with mode := .idle }) s)

/-- ROUTE_DISARM (R218). -/
def execRouteDisarm (c : Cmd) (s : State) : Host.Outcome State Fault Refusal := .next (runCmd specRouteDisarm doRouteDisarm c s)

def specRouteCommit : CmdSpec := { opcode := 0x0923, issuer := .pf0, cls := .any, fields := [(0, 4)] }

def doRouteCommit (c : Cmd) (s : State) : CmdOut :=
  match armedWith s (param c 0 4) with
  | none => cmdFail s .invalidParam
  | some b =>
    let s1 := flipBearing b s
    if s1.fabric.flood.any fun w => w.flit.type == 0x01 && w.flit.chunkSeq.toNat == param c 0 4 then
      .later s1 (.routeCommit (param c 0 4) s.dev.now)
    else .done s1 .ok s.dev.now 0 0

/-- ROUTE_COMMIT (R217). -/
def execRouteCommit (c : Cmd) (s : State) : Host.Outcome State Fault Refusal := .next (runCmd specRouteCommit doRouteCommit c s)

def bearingCode (m : BearingMode) : Nat :=
  match m with
  | .idle => 0 | .armed => 1 | .active => 2 | .draining => 3

def specRouteQuery : CmdSpec := { opcode := 0x0924, issuer := .pf0, cls := .any, fields := [] }

def doRouteQuery (_ : Cmd) (s : State) : CmdOut :=
  let a := s.fabric.bearingA
  let b := s.fabric.bearingB
  .done s .ok (bearingCode a.mode + 4 * bearingCode b.mode) (a.generation % 2 ^ 24 + b.generation % 2 ^ 24 * 2 ^ 32) s.fabric.flipTime

/-- ROUTE_QUERY (R230). -/
def execRouteQuery (c : Cmd) (s : State) : Host.Outcome State Fault Refusal := .next (runCmd specRouteQuery doRouteQuery c s)

def specRouteDrain : CmdSpec := { opcode := 0x0925, issuer := .pf0, cls := .any, fields := [(0, 4)] }

def doRouteDrain (c : Cmd) (s : State) : CmdOut :=
  let v := param c 0 4
  let low := max (4 * lapTenths s 0) (4 * lapTenths s 1)
  needParam (decide (low ≤ 10000 * v) && decide (v ≤ 1000000)) s (cmdOk (fabMod (fun x => { x with drainNs := v }) s))

/-- ROUTE_DRAIN (R220). -/
def execRouteDrain (c : Cmd) (s : State) : Host.Outcome State Fault Refusal := .next (runCmd specRouteDrain doRouteDrain c s)

/-! ### fab.* -/

def specFabIdent : CmdSpec := { opcode := 0x0901, issuer := .pf0, cls := .any, fields := [(0, 2)] }

def doFabIdent (c : Cmd) (s : State) : CmdOut :=
  if 4096 ≤ param c 0 2 then cmdFail s .invalidParam
  else if !(trainedRing s).isEmpty then cmdFail s .busy
  else cmdOk (fabMod (fun x => { x with ident := some (param c 0 2) }) s)

/-- FAB_IDENT (R200). -/
def execFabIdent (c : Cmd) (s : State) : Host.Outcome State Fault Refusal := .next (runCmd specFabIdent doFabIdent c s)

/-- A unit that waited at a spur port that has gone down: a request whose result it held ends without those flits. -/
def loseEgress (s : State) (u : EgressUnit) : State :=
  let s1 := { s with sched := { s.sched with units := s.sched.units.erase u } }
  match u.item with
  | .spur rec result _ => resultGone rec result s1
  | _ => s1

/-- A port goes down: it is lost, disabled, or given another role. A ring port folds its ring; the flows over it are re-checked
(R204, R222, R227). -/
def portDown (port : Nat) (s : State) : State :=
  match portGet s port with
  | none => s
  | some x =>
    if !x.active then s
    else
      let lost := s.sched.units.filter fun u => u.port == 32 + port
      let s0 := portMod port (fun y => { y with active := false, lanes := 0, isIdle := false, narrowed := false, attempts := 0 }) s
      let s1 := if isRingRole x.role then s0 else lost.foldl loseEgress s0
      let s2 := if isRingRole x.role then foldHere (dirOf x.role) s1
        else x.streams.foldl (fun t q =>
          if q.2.enabled then
            raiseEvent .spurStreamHeld q.2.fn nodeSelf (64 * port + q.1) q.2.unconsumed.length
              (streamMod port q.1 (fun y => { y with heldSince := some (y.heldSince.getD s.dev.now) }) t)
          else t) s1
      settleClock (6 + port / 4) (judgePaths (wantRecheck s2))

def specFabPortSet : CmdSpec := { opcode := 0x0902, issuer := .pf0, cls := .any, fields := [(0, 1), (1, 1), (2, 1), (4, 4)] }

/-- The checks of `fab.port.set`, in the order of its parameters (R50 step 7). A pilot port is a spur port (R229). -/
def portSetFault (c : Cmd) (s : State) : Option Status :=
  let port := param c 0 1
  let role := roleOf (param c 1 1)
  let old := (portGet s port).getD (newPort .disabled)
  let pilots := (s.fabric.ports.filter fun p => p.1 != port && p.2.pilot).length
  if 16 ≤ port ∨ 5 < param c 1 1 then some .invalidParam
  else if isRingRole old.role && old.active && role != .disabled && role != old.role then some .busy
  else if isRingRole role && s.fabric.ports.any (fun p => p.1 != port && p.2.role == role) then some .noResource
  else if 1 < param c 2 1 ∨ (param c 2 1 = 1 ∧ role ≠ .spur) then some .invalidParam
  else if param c 2 1 = 1 ∧ 4 ≤ pilots then some .noResource
  else if !decide (200 ≤ param c 4 4 ∧ param c 4 4 ≤ 10000) then some .invalidParam
  else none

/-- A port that has become a pilot does not idle, and one that is no pilot is not narrow (R229). -/
def settlePilot (x : FabPort) : FabPort := { x with isIdle := x.isIdle && !x.pilot, narrowed := x.narrowed && x.pilot }

def doFabPortSet (c : Cmd) (s : State) : CmdOut :=
  match portSetFault c s with
  | some e => cmdFail s e
  | none =>
    let port := param c 0 1
    let role := roleOf (param c 1 1)
    let old := (portGet s port).getD (newPort .disabled)
    let s1 := if role = old.role then s else portDown port s
    let base := (portGet s1 port).getD (newPort role)
    let new := settlePilot { base with role := role, pilot := param c 2 1 == 1, wakeMax := param c 4 4,
                                       attempts := if role = old.role then base.attempts else 0 }
    cmdOk (settleClock (6 + port / 4) (fabMod (fun x => { x with ports := tabSet x.ports port new }) s1))

/-- FAB_PORT_SET (R199). -/
def execFabPortSet (c : Cmd) (s : State) : Host.Outcome State Fault Refusal := .next (runCmd specFabPortSet doFabPortSet c s)

def specFabPortQuery : CmdSpec := { opcode := 0x0903, issuer := .pf0, cls := .any, fields := [(0, 1)] }

def doFabPortQuery (c : Cmd) (s : State) : CmdOut :=
  let x := (portGet s (param c 0 1)).getD (newPort .disabled)
  let lanes := if x.narrowed then 1 else x.lanes
  needParam (decide (param c 0 1 < 16)) s
    (.done s .ok (pack [(0, 3, roleCode x.role), (3, 3, lanes), (6, 1, flag x.active), (7, 1, flag x.isIdle), (8, 1, flag x.narrowed)])
      (pack [(0, 32, x.latNs), (32, 12, x.partnerDev), (44, 4, x.partnerPort)]) x.wakeNs)

/-- FAB_PORT_QUERY (R230). -/
def execFabPortQuery (c : Cmd) (s : State) : Host.Outcome State Fault Refusal := .next (runCmd specFabPortQuery doFabPortQuery c s)

def specFabRingQuery : CmdSpec := { opcode := 0x0904, issuer := .pf0, cls := .any, fields := [(0, 1)] }

def doFabRingQuery (c : Cmd) (s : State) : CmdOut :=
  let axis := param c 0 1
  let r := ringInfo s axis
  needParam (decide (axis < 2)) s
    (.done s .ok (pack [(0, 16, r.slots), (16, 1, flag r.folded), (17, 1, flag (guardedRing s axis))]) (lapPs s axis)
      (pack [(0, 6, r.foldA), (8, 6, r.foldB)]))

/-- FAB_RING_QUERY (R230). -/
def execFabRingQuery (c : Cmd) (s : State) : Host.Outcome State Fault Refusal := .next (runCmd specFabRingQuery doFabRingQuery c s)

/-! ### Training, loss, idle signalling and width -/

/-- The lanes that come up: all four for a ring port; four, two or one for a spur port (R201). -/
def lanesUp (role : PortRole) (trained : BitVec 4) : Nat :=
  let n := ((List.range 4).filter fun i => bit trained.toNat i).length
  if isRingRole role then (if n = 4 then 4 else 0)
  else if n = 4 then 4 else if 2 ≤ n then 2 else n

/-- The link partner of a ring port holds the opposite role of the same ring (R201). -/
def partnerFits (s : State) (x : FabPort) (t : TrainInfo) : Bool :=
  if isRingRole x.role then
    let axis := dirOf x.role / 2
    s.fabric.ident.isSome && t.partnerRole == roleCode (roleOfDir (opposite (dirOf x.role))) &&
      lineOf axis t.partnerDev.toNat == lineOf axis (ownDev s)
  else true

/-- Completions of a request stream that its accelerator has not consumed, those that `which` names, are sent again in order (R226, R227);
`withResults`: each after its `KV_RESULT` flits, as when a port has trained anew (Table 10-9). -/
def resendCompletions (withResults : Bool) (which : Nat × Nat → Bool) (port stream : Nat) (s : State) : State :=
  match streamGet s port stream with
  | none => s
  | some q =>
    (q.unconsumed.zipIdx).foldl (fun t p =>
      match workGet t p.1.1 with
      | some w =>
        if which p.1 then
          sendFlit port (streamCplFlit t port stream q (q.written - q.unconsumed.length + p.2) w)
            (if withResults then sendKvResult port stream p.1.1 t else t)
        else t
      | none => t)
    (streamMod port stream (fun y =>
      { y with unconsumed := y.unconsumed.map fun r => if which r then (r.1, s.dev.now) else r, heldSince := none }) s)

/-- FABRIC_PORT_TRAINED (R201, R202). -/
def execFabricPortTrained (port : Nat) (t : TrainInfo) (s : State) : Host.Outcome State Fault Refusal :=
  match portGet s port with
  | none => .next s
  | some x =>
    let lanes := lanesUp x.role t.lanes
    if x.role = .disabled ∨ x.active ∨ lanes = 0 ∨ !partnerFits s x t ∨ !(lit s || s.dev.life == .restarting) then .next s
    else
      let wake := max Config.wakeNs t.wakeNeeded
      let s1 := portMod port (fun y =>
        { y with active := true, lanes := lanes, latNs := ceilDiv t.probeNs 2, partnerDev := t.partnerDev.toNat,
                 partnerPort := t.partnerPort.toNat, partnerPilot := t.partnerPilot, wakeNs := wake,
                 mayIdle := decide (wake ≤ y.wakeMax ∧ wake ≤ t.wakeTolerated), isIdle := false, narrowed := false, attempts := 0,
                 lastFlit := s.dev.now, heardAt := s.dev.now }) s
      if isRingRole x.role then .next (judgePaths (formTrained (dirOf x.role / 2) s1))
      else .next (x.streams.foldl (fun u q => resendCompletions true (fun _ => true) port q.1 u) s1)

/-- FABRIC_TRAINING_RETRY (R201): 10 ms after a failed step. -/
def execFabricTrainingRetry (port : Nat) (s : State) : Host.Outcome State Fault Refusal :=
  match portGet s port with
  | none => .next s
  | some x =>
    if x.role = .disabled ∨ x.active then .next s
    else
      let s1 := portMod port (fun y => { y with attempts := y.attempts + 1 }) (advanceTo (s.dev.now + 10000000) s)
      if x.attempts + 1 = 3 then .next (raiseEvent .trainingFailed 0 nodeSelf port 3 s1) else .next s1

/-- FABRIC_PORT_LOST (R204); the ports are up before a restart has ended (R454). -/
def execFabricPortLost (port : Nat) (s : State) : Host.Outcome State Fault Refusal :=
  .next (if lit s ∨ s.dev.life = .restarting then portDown port s else s)

/-- Entry time of idle signalling (Table 8-7). -/
def idleEntry (p : Profile) : Option Nat :=
  match p with
  | .latency => none
  | .balanced => some 20000
  | .efficiency => some 2000

/-- SPUR_IDLE_ENTRY (R228). -/
def execSpurIdleEntry (port : Nat) (s : State) : Host.Outcome State Fault Refusal :=
  whileLit s <|
  match portGet s port, idleEntry s.dev.profile with
  | some x, some t =>
    if x.role = .spur ∧ x.active ∧ x.mayIdle ∧ !x.pilot ∧ !x.isIdle ∧ !admittedEndpoint s port then
      .next (settleClock (6 + port / 4) (portMod port (fun y => { y with isIdle := true }) (advanceTo (x.lastFlit + t) s)))
    else .next s
  | _, _ => .next s

/-- SPUR_WAKE (R228). -/
def execSpurWake (port : Nat) (s : State) : Host.Outcome State Fault Refusal :=
  whileLit s <|
  match portGet s port with
  | some x =>
    if x.isIdle then
      let s1 := advanceTo (s.dev.now + x.wakeNs) s
      .next (settleClock (6 + port / 4) (portMod port (fun y => { y with isIdle := false, lastFlit := s1.dev.now }) s1))
    else .next s
  | none => .next s

/-- Pilot narrowing threshold in percent of the four-lane capacity (Table 8-7). -/
def narrowPercent (p : Profile) : Option Nat :=
  match p with
  | .latency => none
  | .balanced => some 15
  | .efficiency => some 30

/-- The load of a direction stayed below the threshold in both of the last two 10 µs windows: 1,152 bits a flit, against 803.125
Gbit/s (R203, R229). -/
def loadLow (now percent : Nat) (t : Tab Nat) : Bool :=
  [1, 2].all fun k => decide (now / 10000 < k) || decide (((tabGet t (now / 10000 - k)).getD 0) * 1152 * 100 < percent * 8031250)

/-- PILOT_NARROW (R229). -/
def execPilotNarrow (port : Nat) (s : State) : Host.Outcome State Fault Refusal :=
  whileLit s <|
  match portGet s port, narrowPercent s.dev.profile with
  | some x, some p =>
    if x.role = .spur ∧ x.active ∧ x.pilot ∧ x.partnerPilot ∧ x.lanes = 4 ∧ !x.narrowed ∧ !admittedEndpoint s port ∧
        loadLow s.dev.now p x.txLoad ∧ loadLow s.dev.now p x.rxLoad then
      .next (portMod port (fun y => { y with narrowed := true }) s)
    else .next s
  | _, _ => .next s

/-- PILOT_WIDEN (R229): within 1.5 µs of demand. -/
def execPilotWiden (port : Nat) (s : State) : Host.Outcome State Fault Refusal :=
  whileLit s <|
  match portGet s port with
  | some x => if x.narrowed then .next (portMod port (fun y => { y with narrowed := false }) s) else .next s
  | none => .next s

end Sys2Proof.Machine
end

