-- ==== Sys2Proof/Machine/Numbers.lean ====
section
/-! DEFINITION. Number formats (R306 to R308), conversion between them (R309 to R312), and the arithmetic that the reduction
engines, the attention operator and the shoal operators share (R239, R241, R295, R318). A value is exact: a sign with a rational
magnitude, an infinity, or NaN. -/

namespace Sys2Proof.Machine

/-- A number as the device computes with it. -/
inductive Num where
  | nan
  | inf (neg : Bool)
  | fin (neg : Bool) (mag : Rat)
deriving DecidableEq, Repr

/-- The encodings that are not finite numbers: those of an IEEE format, the one NaN of E4M3, or none. -/
inductive Specials where
  | ieee | e4m3 | none
deriving DecidableEq, Repr

/-- One row of Table 11-1. -/
structure Fmt where
  width : Nat
  exp   : Nat
  man   : Nat
  bias  : Nat
  special : Specials
  nanCode : Nat
deriving DecidableEq, Repr

def fp32 : Fmt := { width := 32, exp := 8, man := 23, bias := 127, special := .ieee, nanCode := 0x7FC00000 }
def bf16 : Fmt := { width := 16, exp := 8, man := 7, bias := 127, special := .ieee, nanCode := 0x7FC0 }
def fp16 : Fmt := { width := 16, exp := 5, man := 10, bias := 15, special := .ieee, nanCode := 0x7E00 }
def fp8e4m3 : Fmt := { width := 8, exp := 4, man := 3, bias := 7, special := .e4m3, nanCode := 0x7F }
def fp8e5m2 : Fmt := { width := 8, exp := 5, man := 2, bias := 15, special := .ieee, nanCode := 0x7F }
def fp6e3m2 : Fmt := { width := 6, exp := 3, man := 2, bias := 3, special := .none, nanCode := 0 }
def fp6e2m3 : Fmt := { width := 6, exp := 2, man := 3, bias := 1, special := .none, nanCode := 0 }
def fp4e2m1 : Fmt := { width := 4, exp := 2, man := 1, bias := 1, special := .none, nanCode := 0 }

/-- The element format of a `DATA_TYPE` that is a float (Table 11-1). -/
def fmtOf (dt : Nat) : Option Fmt :=
  match dt with
  | 0 => some fp32 | 1 => some bf16 | 2 => some fp16 | 3 => some fp8e4m3 | 4 => some fp8e5m2 | 5 => some fp8e4m3
  | 6 => some fp8e5m2 | 7 => some fp6e3m2 | 8 => some fp6e2m3 | 9 => some fp4e2m1 | _ => none

/-- A `DATA_TYPE` whose elements share scales (R307). -/
def isMx (dt : Nat) : Bool := decide (5 ≤ dt ∧ dt ≤ 9)

/-- Width of an element in bits (Table 11-1). -/
def elemBits (dt : Nat) : Nat :=
  match fmtOf dt with
  | some f => f.width
  | none => 8

/-- 2^`e`. -/
def pow2 (e : Int) : Rat :=
  match e with
  | .ofNat n => ((2 ^ n : Nat) : Rat)
  | .negSucc n => mkRat 1 (2 ^ (n + 1))

/-- ⌊log2 q⌋ of a positive number. -/
def floorLog2 (q : Rat) : Int :=
  let e : Int := (Nat.log2 q.num.natAbs : Int) - (Nat.log2 q.den : Int)
  if pow2 e ≤ q then e else e - 1

/-- ⌈log2 q⌉ of a positive number. -/
def ceilLog2 (q : Rat) : Int := let e := floorLog2 q; if pow2 e = q then e else e + 1

/-- ⌊q⌋ of a number that is not negative. -/
def floorNat (q : Rat) : Nat := q.num.natAbs / q.den

/-- The nearest whole number, ties to even, of a number that is not negative (R309). -/
def rneNat (q : Rat) : Nat :=
  let n := floorNat q
  let r := q - (n : Rat)
  if r < 1 / 2 then n else if 1 / 2 < r then n + 1 else if n % 2 = 0 then n else n + 1

/-- The spacing of a format's values around a magnitude; subnormal values have that of the smallest normal (R306). -/
def quantum (f : Fmt) (mag : Rat) : Rat :=
  let e := if mag = 0 then 1 - (f.bias : Int) else max (floorLog2 mag) (1 - (f.bias : Int))
  pow2 (e - f.man)

/-- The largest finite value of a format (Table 11-1). -/
def maxFinite (f : Fmt) : Rat :=
  match f.special with
  | .ieee => (2 - pow2 (-(f.man : Int))) * pow2 ((2 ^ f.exp : Nat) - 2 - (f.bias : Int))
  | .e4m3 => 448
  | .none => (2 - pow2 (-(f.man : Int))) * pow2 ((2 ^ f.exp : Nat) - 1 - (f.bias : Int))

/-- The value of a code (R306). -/
def decodeNum (f : Fmt) (code : Nat) : Num :=
  let sign := bit code (f.width - 1)
  let e := bits code f.man f.exp
  let m := bits code 0 f.man
  let special := match f.special with
    | .ieee => e == 2 ^ f.exp - 1
    | .e4m3 => e == 15 && m == 7
    | .none => false
  if special then (if f.special = .ieee ∧ m = 0 then .inf sign else .nan)
  else if e = 0 then .fin sign ((m : Rat) * pow2 (1 - (f.bias : Int) - f.man))
  else .fin sign (((2 ^ f.man + m : Nat) : Rat) * pow2 ((e : Int) - f.bias - f.man))

/-- The code of a value that the format holds. -/
def encodeNum (f : Fmt) (x : Num) : Nat :=
  match x with
  | .nan => f.nanCode
  | .inf neg => flag neg * 2 ^ (f.width - 1) + (2 ^ f.exp - 1) * 2 ^ f.man
  | .fin neg mag =>
    let sign := flag neg * 2 ^ (f.width - 1)
    if mag = 0 then sign
    else
      let e := floorLog2 mag
      if e < 1 - (f.bias : Int) then sign + floorNat (mag / pow2 (1 - (f.bias : Int) - f.man))
      else sign + (e + f.bias).toNat * 2 ^ f.man + (floorNat (mag / pow2 (e - f.man)) - 2 ^ f.man)

/-- The generator of R311, for the element with linear index `n`. -/
def stochasticR (seed n : Nat) : Nat :=
  let w := 2 ^ 64
  let x0 := (seed * 2 ^ 32 + n) % w
  let x1 := x0 ^^^ (x0 / 2 ^ 33)
  let x2 := x1 * 0xFF51AFD7ED558CCD % w
  let x3 := x2 ^^^ (x2 / 2 ^ 33)
  let x4 := x3 * 0xC4CEB9FE1A85EC53 % w
  let x5 := x4 ^^^ (x4 / 2 ^ 33)
  x5 % 65536

/-- How a conversion rounds: to nearest even, or by the generator of R311 with its value for this element. -/
inductive Rounding where
  | nearest
  | stochastic (r : Nat)
deriving DecidableEq, Repr

/-- A magnitude rounded to a multiple of `q` (R309, R311). -/
def roundTo (m : Rounding) (q mag : Rat) : Rat :=
  match m with
  | .nearest => (rneNat (mag / q) : Rat) * q
  | .stochastic r =>
    let lo := floorNat (mag / q)
    let f := floorNat (65536 * (mag / q - (lo : Rat)))
    if mag / q = (lo : Rat) then mag else if r ≥ 65536 - f then ((lo + 1 : Nat) : Rat) * q else (lo : Rat) * q

/-- Convert to a float format: the value, and whether it was clamped (R309 to R311, Table 11-2). -/
def convertFlag (f : Fmt) (m : Rounding) (saturate : Bool) (x : Num) : Num × Bool :=
  match x with
  | .nan => (.nan, false)
  | .inf neg => (if f.special = .ieee then .inf neg else .nan, false)
  | .fin neg mag =>
    let v := roundTo m (quantum f mag) mag
    if v ≤ maxFinite f then (.fin neg v, false)
    else if saturate || f.special != .ieee then (.fin neg (maxFinite f), true)
    else (.inf neg, false)

def convert (f : Fmt) (saturate : Bool) (x : Num) : Num := (convertFlag f .nearest saturate x).1

/-- One rounding to FP32 within a computation. -/
def toFp32 (x : Num) : Num := convert fp32 false x

/-- Convert to INT8 (Table 11-2): the byte, whether it was clamped, and whether it was NaN. -/
def convertInt8 (m : Rounding) (x : Num) : Nat × Bool × Bool :=
  match x with
  | .nan => (0, false, true)
  | .inf neg => (twos (if neg then -127 else 127) 8, true, false)
  | .fin neg mag =>
    let v := floorNat (roundTo m 1 mag)
    let c := min v 127
    (twos (if neg then -(c : Int) else c) 8, decide (127 < v), false)

/-- The value of an INT8 byte. -/
def decodeInt8 (b : Nat) : Num := if b % 256 < 128 then .fin false (b % 256 : Nat) else .fin true ((256 - b % 256 : Nat) : Rat)

/-! ### Arithmetic -/

def numNeg : Num → Bool
  | .nan => false
  | .inf n => n
  | .fin n _ => n

/-- The exact product (R318). -/
def numMul (x y : Num) : Num :=
  match x, y with
  | .nan, _ => .nan
  | _, .nan => .nan
  | .inf a, .inf b => .inf (a != b)
  | .inf a, .fin b m => if m = 0 then .nan else .inf (a != b)
  | .fin a m, .inf b => if m = 0 then .nan else .inf (a != b)
  | .fin a m, .fin b n => .fin (a != b) (m * n)

def signed (neg : Bool) (mag : Rat) : Rat := if neg then -mag else mag

/-- The exact sum; a zero sum is -0 only where both addends are -0 or negative zeros (IEEE 754, round to nearest). -/
def numAdd (x y : Num) : Num :=
  match x, y with
  | .nan, _ => .nan
  | _, .nan => .nan
  | .inf a, .inf b => if a = b then .inf a else .nan
  | .inf a, .fin _ _ => .inf a
  | .fin _ _, .inf b => .inf b
  | .fin a m, .fin b n =>
    let r := signed a m + signed b n
    if r = 0 then .fin (a && b) 0 else if r < 0 then .fin true (-r) else .fin false r

/-- x < y for numbers that are not NaN; zeros of either sign are equal. -/
def numLt (x y : Num) : Bool :=
  match x, y with
  | .nan, _ => false
  | _, .nan => false
  | .inf a, .inf b => a && !b
  | .inf a, .fin _ _ => a
  | .fin _ _, .inf b => !b
  | .fin a m, .fin b n => decide (signed a m < signed b n)

/-- Larger of two (R241). -/
def numMax (x y : Num) : Num :=
  if x = .nan ∨ y = .nan then .nan else if numLt x y then y else if numLt y x then x else if numNeg x then y else x

/-- Smaller of two (R241). -/
def numMin (x y : Num) : Num :=
  if x = .nan ∨ y = .nan then .nan else if numLt x y then x else if numLt y x then y else if numNeg x then x else y

/-- Magnitude of a finite number; infinities and NaN have none. -/
def magOf : Num → Option Rat
  | .fin _ m => some m
  | _ => none

def isNan (x : Num) : Bool := x == .nan

/-- Multiply by a power of two exactly. -/
def numScale (s : Int) (x : Num) : Num := numMul x (.fin false (pow2 s))

/-- The exact sum of a list. -/
def sumExact (l : List Num) : Num :=
  match l with
  | [] => .fin false 0
  | x :: rest => rest.foldl numAdd x

/-- A dot product added into an FP32 accumulator as R318 does it: the products of each group of `size` pairs are formed and summed
exactly, the sum is rounded once, and added with one rounding. `single`: FP32 inputs, whose products are rounded first. -/
def dotInto (fuel size : Nat) (single : Bool) (acc : Num) (ps : List (Num × Num)) : Num :=
  match fuel with
  | 0 => acc
  | fuel + 1 =>
    if ps.isEmpty then acc
    else
      let products := (ps.take size).map fun p => if single then toFp32 (numMul p.1 p.2) else numMul p.1 p.2
      dotInto fuel size single (toFp32 (numAdd acc (toFp32 (sumExact products)))) (ps.drop size)

/-- A dot product from zero, in groups of 16. -/
def dot (single : Bool) (xs ys : List Num) : Num := dotInto (xs.length + 1) 16 single (.fin false 0) (xs.zip ys)

/-- The exact quotient; by zero: NaN for zero, else an infinity. -/
def numDiv (x y : Num) : Num :=
  match x, y with
  | .nan, _ => .nan
  | _, .nan => .nan
  | .inf _, .inf _ => .nan
  | .inf a, .fin b _ => .inf (a != b)
  | .fin a _, .inf b => .fin (a != b) 0
  | .fin a m, .fin b n => if n = 0 then (if m = 0 then .nan else .inf (a != b)) else .fin (a != b) (m / n)

def numSub (x y : Num) : Num :=
  match y with
  | .nan => .nan
  | .inf n => numAdd x (.inf (!n))
  | .fin n m => numAdd x (.fin (!n) m)

/-- The codes of FP32 values, and back. -/
def codeOf (x : Num) : BitVec 32 := BitVec.ofNat 32 (encodeNum fp32 x)
def ofCode (c : BitVec 32) : Num := decodeNum fp32 c.toNat

/-! ### MX blocks (R307, R312) -/

/-- The value of an element under a scale byte. -/
def mxValue (f : Fmt) (scale code : Nat) : Num := if scale = 255 then .nan else numScale ((scale : Int) - 127) (decodeNum f code)

/-- `s` of R312 for a block whose largest magnitude is `amax`. -/
def mxShift (f : Fmt) (amax : Rat) : Int := if amax = 0 then -127 else max (-127) (min 127 (ceilLog2 (amax / maxFinite f)))

/-- Form a block: its scale byte, its element codes, and whether it holds a NaN or an infinity (R312). The rounding is given
for each element by its place in the block. -/
def mxForm (f : Fmt) (m : Nat → Rounding) (xs : List Num) : Nat × List Nat × Bool :=
  if xs.any fun x => (magOf x).isNone then (255, xs.map fun _ => 0, true)
  else
    let amax := (xs.filterMap magOf).foldl max 0
    let s := mxShift f amax
    (s.toNat + 127 - (-s).toNat,
     (xs.zipIdx).map fun p => encodeNum f (convertFlag f (m p.2) true (numScale (-s) p.1)).1, false)

/-- Values rounded to an MX format in blocks of 32, as values again. -/
def mxRound (f : Fmt) (fuel : Nat) (xs : List Num) : List Num :=
  match fuel with
  | 0 => []
  | fuel + 1 =>
    if xs.isEmpty then []
    else
      let b := mxForm f (fun _ => .nearest) (xs.take 32)
      b.2.1.map (mxValue f b.1) ++ mxRound f fuel (xs.drop 32)

/-- Pack element codes of `w` bits, 32 elements or a multiple of 8 bits in all, into bytes (R307). -/
def packCodes (w : Nat) (codes : List Nat) : List Byte :=
  leBytes (codes.length * w / 8) ((codes.zipIdx.map fun p => p.1 % 2 ^ w * 2 ^ (w * p.2)).sum)

/-- Element `j` of packed bytes. -/
def unpackCode (w : Nat) (l : List Byte) (j : Nat) : Nat :=
  bits (ofLe ((l.drop (j * w / 8)).take 5)) (j * w % 8) w

end Sys2Proof.Machine
end

