-- ==== Sys2Proof/Machine/CollData.lean ====
section
/-! DEFINITION. What a collective moves and computes: descriptors (Table 9-4), the members of a group (R232, R233), blocks,
chunks and legs (R237, R250, R251), element codecs, and the reductions (R239 to R241). -/

namespace Sys2Proof.Machine

/-! ### Descriptors -/

/-- A descriptor from its 376 bits, bit 0 being entry bit 128. -/
def collDesc (v : Nat) : CollDesc :=
  let f (lo w : Nat) : Nat := bits v (lo - 128) w
  { op := f 128 8, red := f 136 4, dt := f 140 4, wire := f 144 2, member := f 146 4, inPlace := f 150 1 == 1, count := f 156 32,
    root := f 188 16, scale := f 204 32, srcKey := f 236 32, src := f 268 57, dstKey := f 325 32, dst := f 357 57,
    auxKey := f 414 32, aux := f 446 57, clean := f 151 5 == 0 && f 503 1 == 0, cuts := [] }

def entryDesc (e : W512) : CollDesc := collDesc (bits e.toNat 128 376)

/-- Reductions along the reduce legs: all-reduce, reduce-scatter, reduce. -/
def hasReduce (op : Nat) : Bool := op == 1 || op == 2 || op == 5

/-- Collectives with gather legs: all-reduce, all-gather, broadcast. -/
def hasGather (op : Nat) : Bool := op == 1 || op == 3 || op == 4

/-- Collectives over direct legs, and those of them that exchange counts. -/
def isDirect (op : Nat) : Bool := decide (6 ≤ op ∧ op ≤ 9)
def hasCounts (op : Nat) : Bool := decide (7 ≤ op ∧ op ≤ 9)

/-- R238 and R239: the combination of `RED_OP`, `DATA_TYPE`, and `WIRE`. -/
def typesOk (d : CollDesc) : Bool :=
  let known := decide (d.dt ≤ 10) || d.dt == 15
  let redOk :=
    if d.op = 2 then decide (1 ≤ d.red ∧ d.red ≤ 4)
    else if d.op = 1 ∨ d.op = 5 then decide (1 ≤ d.red ∧ d.red ≤ 5)
    else if d.op = 9 then d.red == 4
    else d.red == 0
  let typeOk := if d.red = 0 then true else if d.red = 5 then d.dt == 0 && d.wire == 0 && decide (d.count ≤ 2048)
    else decide (d.dt ≤ 9)
  known && redOk && typeOk && decide (d.wire < 3) && !(isMx d.dt && d.wire == 0)

/-- The fields of the MoE collectives in `SCALE` (R266): token bytes, experts of a member, experts of a token. -/
def moeToken (d : CollDesc) : Nat := 16 * bits d.scale 0 16
def moeExperts (d : CollDesc) : Nat := bits d.scale 16 8
def moeK (d : CollDesc) : Nat := bits d.scale 24 4 + 1

def moeOk (d : CollDesc) : Bool :=
  decide (1 ≤ bits d.scale 0 16 ∧ bits d.scale 0 16 ≤ 4096) && decide (1 ≤ moeExperts d) && bits d.scale 28 4 == 0

/-- Fields that Table 9-4 makes RSVD for this collective are zero, and `IN_PLACE` is allowed. `isRoot`: the member is the root. -/
def fieldsOk (d : CollDesc) (isRoot : Bool) : Bool :=
  let moe := d.op == 8 || d.op == 9
  d.clean &&
  !(d.inPlace && (d.op == 2 || d.op == 3 || decide (6 ≤ d.op ∧ d.op ≤ 9))) &&
  !(d.inPlace && (d.srcKey != 0 || d.src != 0)) &&
  (d.op == 4 || d.op == 5 || d.root == 0) &&
  (moe || d.red == 4 || d.scale == 0) &&
  (hasCounts d.op || d.op == 0x0F || (d.auxKey == 0 && d.aux == 0)) &&
  !(d.op == 5 && !isRoot && !d.inPlace && d.dstKey != 0) && (!moe || moeOk d)

/-! ### The members of a group (R232, R233) -/

def setBits (m : W64) : List Nat := (List.range 64).filter fun i => bit m.toNat i

def rowsOf (g : CollGroup) : List Nat := setBits g.rowMask
def colsOf (g : CollGroup) : List Nat := setBits g.colMask

/-- a and b of R233. -/
def numRows (g : CollGroup) : Nat := (rowsOf g).length
def numCols (g : CollGroup) : Nat := (colsOf g).length

/-- The device at row index `y` and column index `x`. -/
def devIndex (g : CollGroup) (y x : Nat) : Nat := (rowsOf g).getD y 0 * 64 + (colsOf g).getD x 0

def memberDevices (g : CollGroup) : List Nat := (rowsOf g).flatMap fun r => (colsOf g).map fun c => r * 64 + c

/-- Row index and column index of a device. -/
def rowIndex (g : CollGroup) (dev : Nat) : Nat := (rowsOf g).idxOf (dev / 64)
def colIndex (g : CollGroup) (dev : Nat) : Nat := (colsOf g).idxOf (dev % 64)

def isMemberDevice (g : CollGroup) (dev : Nat) : Bool := (memberDevices g).contains dev

/-- `LOCAL_MEMBERS` of a member device, once READY. -/
def membersAt (g : CollGroup) (dev : Nat) : Nat := (tabGet g.devices dev).getD 0

/-- n. -/
def memberCount (g : CollGroup) : Nat := (g.devices.map Prod.snd).sum

/-- The rank of local member 0 at a device. -/
def rankBase (g : CollGroup) (dev : Nat) : Nat := ((g.devices.filter fun p => decide (p.1 < dev)).map Prod.snd).sum

/-- The device that hosts a rank. -/
def deviceOfRank (g : CollGroup) (r : Nat) : Nat :=
  ((g.devices.find? fun p => decide (rankBase g p.1 ≤ r ∧ r < rankBase g p.1 + p.2)).map Prod.fst).getD 0

/-! ### Storage (R315 within one run of elements) -/

/-- Bytes of a 32-element block of an MX type: its elements and its scale (log entry 31). -/
def mxBlockBytes (dt : Nat) : Nat := 4 * elemBits dt + 1

/-- Bytes of `n` elements. -/
def bytesOf (dt n : Nat) : Nat := if isMx dt then n / 32 * mxBlockBytes dt else n * elemBits dt / 8

/-- The elements in a run of bytes. -/
def decodeElems (dt : Nat) (l : List Byte) : List Num :=
  match fmtOf dt with
  | none => l.map fun b => decodeInt8 b.toNat
  | some f =>
    if isMx dt then
      (List.range (l.length / mxBlockBytes dt)).flatMap fun i =>
        let blk := slice l (i * mxBlockBytes dt) (mxBlockBytes dt)
        let scale := (blk.getD (if Config.mxScaleLast then 4 * f.width else 0) 0).toNat
        let body := if Config.mxScaleLast then blk else blk.drop 1
        (List.range 32).map fun j => mxValue f scale (unpackCode f.width body j)
    else (List.range (l.length * 8 / f.width)).map fun i => decodeNum f (ofLe (slice l (i * f.width / 8) (f.width / 8)))

/-- The MX blocks of a run of values. -/
def encodeBlocks (f : Fmt) (fuel : Nat) (xs : List Num) : List Byte :=
  match fuel with
  | 0 => []
  | fuel + 1 =>
    if xs.isEmpty then []
    else
      let b := mxForm f (fun _ => .nearest) (xs.take 32)
      let codes := packCodes f.width b.2.1
      (if Config.mxScaleLast then codes ++ leBytes 1 b.1 else leBytes 1 b.1 ++ codes) ++ encodeBlocks f fuel (xs.drop 32)

/-- Values as a run of bytes of a `DATA_TYPE`, each converted with one rounding, saturating (R310). -/
def encodeElems (dt : Nat) (xs : List Num) : List Byte :=
  match fmtOf dt with
  | none => xs.map fun x => BitVec.ofNat 8 (convertInt8 .nearest x).1
  | some f =>
    if isMx dt then encodeBlocks f (xs.length / 32 + 1) xs
    else xs.flatMap fun x => leBytes (f.width / 8) (encodeNum f (convert f true x))

/-! ### Wire types, blocks, and chunks (R237, R239, R250) -/

/-- The `DATA_TYPE` code of the wire type. -/
def wireType (d : CollDesc) : Nat := match d.wire with | 1 => 0 | 2 => 1 | _ => d.dt

/-- The element type that chunks carry: the wire type on collectives that reduce, else the data as stored. -/
def chunkType (d : CollDesc) : Nat := if hasReduce d.op && d.red != 5 then wireType d else d.dt

/-- Elements of a chunk (R239, R240). -/
def chunkElems (d : CollDesc) : Nat :=
  if d.red = 5 then d.count
  else if isMx (chunkType d) then 16384 / mxBlockBytes d.dt * 32
  else 16384 / (elemBits (chunkType d) / 8)

/-- Bytes of `n` elements in a source or destination; the elements of a top-k merge are pairs (R240). -/
def memBytes (d : CollDesc) (n : Nat) : Nat := if d.red = 5 then 8 * n else bytesOf d.dt n

/-- Blocks of the data stream (Table 9-1). -/
def blockCount (d : CollDesc) (n : Nat) : Nat := if d.op = 2 ∨ d.op = 3 then n else 1

def chunksPerBlock (d : CollDesc) : Nat := if d.cuts.isEmpty then ceilDiv d.count (chunkElems d) else d.cuts.length

/-- Chunks of the whole stream: number k is chunk k mod (chunks of a block) of block k / (chunks of a block) (log entry 32). -/
def chunkTotal (d : CollDesc) (n : Nat) : Nat := blockCount d n * chunksPerBlock d

def chunkBlock (d : CollDesc) (k : Nat) : Nat := k / chunksPerBlock d
def chunkInBlock (d : CollDesc) (k : Nat) : Nat := k % chunksPerBlock d

/-- First element of chunk k in its block, and how many it has. -/
def chunkStart (d : CollDesc) (k : Nat) : Nat := if d.cuts.isEmpty then chunkInBlock d k * chunkElems d else d.cuts.getD (chunkInBlock d k) 0
def chunkLen (d : CollDesc) (k : Nat) : Nat :=
  if d.cuts.isEmpty then min (chunkElems d) (d.count - chunkStart d k) else d.cuts.getD (chunkInBlock d k + 1) d.count - chunkStart d k

/-- Where the chunks of a batch of top-k lists begin: an element that a merge works on is a whole list, so a chunk holds as many lists as fit
in 16,384 bytes (R239, R240; log entry 32). `used`: pairs of the chunk that is open. -/
def topCuts (used at_ : Nat) : List Nat → List Nat
  | [] => []
  | k :: rest => if used + k ≤ 2048 ∧ used ≠ 0 then topCuts (used + k) (at_ + k) rest else at_ :: topCuts k (at_ + k) rest

/-- Direction of chunk k (R250): true is west. -/
def chunkWest (g : CollGroup) (d : CollDesc) (k : Nat) : Bool :=
  if d.op = 1 then k / numCols g % 2 == 1 else chunkInBlock d k % 2 == 1

/-- Home of chunk k: row index and column index (R250). -/
def chunkHome (g : CollGroup) (d : CollDesc) (k : Nat) : Nat × Nat :=
  if d.op = 1 then (k / (2 * numCols g) % numRows g, k % numCols g)
  else
    let dev := deviceOfRank g (if d.op = 4 ∨ d.op = 5 then d.root else chunkBlock d k)
    (rowIndex g dev, colIndex g dev)

/-- Steps from index `home` to index `cur` on a ring of `len` member devices, in a direction. -/
def stepsFrom (west : Bool) (len home cur : Nat) : Nat := if west then (home + len - cur) % len else (cur + len - home) % len

/-- The index after `cur` in a direction. -/
def nextIndex (west : Bool) (len cur : Nat) : Nat := if west then (cur + len - 1) % len else (cur + 1) % len

/-- The place of a device on chunk k's reduce leg of an axis: 0 starts it, len - 1 ends it (R251). -/
def reducePos (west : Bool) (len home cur : Nat) : Nat := (stepsFrom west len home cur + len - 1) % len

/-- Pieces of elements [`start`, `start` + `len`) of a block over its items: the item, the first element in it, how many
(R243). -/
def itemPieces (items : List CollItem) (start len : Nat) : List (CollItem × Nat × Nat) :=
  match items with
  | [] => []
  | it :: rest =>
    if len = 0 then []
    else if it.count ≤ start then itemPieces rest (start - it.count) len
    else
      let n := min len (it.count - start)
      (it, start, n) :: itemPieces rest 0 (len - n)

/-! ### Reduction (R239 to R241) -/

/-- Combine values two at a time in an order that the spec leaves to arrival timing (section 9.9): every choice of the next pair
is a free value (log entry 33). -/
def combineAny (f : Num → Num → Num) (seed fuel : Nat) (xs : List Num) : Num :=
  match fuel with
  | 0 => xs.headD .nan
  | fuel + 1 =>
    match xs with
    | [] => .nan
    | [x] => x
    | [x, y] => f x y
    | _ =>
      let i := (Config.freeWord seed).toNat % xs.length
      let rest := xs.eraseIdx i
      let j := (Config.freeWord (seed + 1)).toNat % rest.length
      combineAny f (seed + 2) fuel (f (xs.getD i .nan) (rest.getD j .nan) :: rest.eraseIdx j)

/-- One addition of a reduction engine, in FP32 (R239, R310). -/
def engineAdd (x y : Num) : Num := convert fp32 true (numAdd x y)

def engineOp (red : Nat) : Num → Num → Num := match red with | 2 => numMax | 3 => numMin | _ => engineAdd

/-- Element-wise reduction of lists of one length. -/
def reduceLists (red seed : Nat) (ls : List (List Num)) : List Num :=
  let n := (ls.headD []).length
  (List.range n).map fun i => combineAny (engineOp red) seed ls.length (ls.map fun l => l.getD i .nan)

/-- A pair of a top-k list: index, value (R240). -/
def topPairs (l : List Byte) : List (Nat × Num) :=
  ((List.range (l.length / 8)).map fun i =>
    (ofLe (slice l (8 * i) 4), decodeNum fp32 (ofLe (slice l (8 * i + 4) 4)))).filter fun p => p.1 != 0xFFFFFFFF

/-- Rank by descending magnitude, then ascending index; NaN ranks above every number (log entry 34). -/
def topBefore (p q : Nat × Num) : Bool :=
  match p.2, q.2 with
  | .nan, .nan => decide (p.1 ≤ q.1)
  | .nan, _ => true
  | _, .nan => false
  | .inf _, .inf _ => decide (p.1 ≤ q.1)
  | .inf _, .fin _ _ => true
  | .fin _ _, .inf _ => false
  | .fin _ m, .fin _ n => decide (n < m) || (decide (m = n) && decide (p.1 ≤ q.1))

def topInsert (p : Nat × Num) : List (Nat × Num) → List (Nat × Num)
  | [] => [p]
  | q :: rest => if topBefore p q then p :: q :: rest else q :: topInsert p rest

/-- Merge top-k lists (R240). -/
def topMerge (k seed : Nat) (ls : List (List Byte)) : List Byte :=
  let all := ls.flatMap topPairs
  let idx := all.foldl (fun (t : Tab (List Num)) p => tabSet t p.1 (((tabGet t p.1).getD []) ++ [p.2])) []
  let summed := idx.map fun p => (p.1, combineAny engineAdd seed p.2.length p.2)
  let best := (summed.foldr topInsert []).take k
  let full := best ++ List.replicate (k - best.length) (0xFFFFFFFF, Num.fin false 0)
  full.flatMap fun p => leBytes 4 p.1 ++ leBytes 4 (encodeNum fp32 p.2)

/-- Merge chunks of top-k lists: `ks` are the lengths of the lists that each of them holds, one after another. -/
def mergeLists (seed : Nat) (ks : List Nat) (ls : List (List Byte)) : List Byte :=
  match ks with
  | [] => []
  | k :: rest => topMerge k seed (ls.map fun l => l.take (8 * k)) ++ mergeLists (seed + 64) rest (ls.map fun l => l.drop (8 * k))

/-- ⌈4 / e⌉ of R252: the fathoms of a contribution to an X leg. -/
def contribFathoms (d : CollDesc) : Nat := if d.red = 5 then 1 else ceilDiv 32 (elemBits (wireType d))

/-- A device's contribution to an X leg: its local members' chunks, in `DATA_TYPE`, summed in FP32 (R252). -/
def formContrib (d : CollDesc) (seed : Nat) (ks : List Nat) (locals : List (List Byte)) : List Byte :=
  if d.red = 5 then mergeLists seed ks locals else encodeElems 0 (reduceLists d.red seed (locals.map (decodeElems d.dt)))

/-- A contribution as the first device of a leg sends it: rounded to the wire type. -/
def roundContrib (d : CollDesc) (own : List Byte) : List Byte :=
  if d.red = 5 then own else encodeElems (wireType d) (decodeElems 0 own)

/-- An engine pass (R239, R252): an arriving chunk and the own contribution, whose elements are of type `ownType`, are combined in FP32 and
rounded once to the wire type. -/
def enginePass (d : CollDesc) (seed : Nat) (ks : List Nat) (ownType : Nat) (own arrived : List Byte) : List Byte :=
  if d.red = 5 then mergeLists seed ks [own, arrived]
  else encodeElems (wireType d) (reduceLists d.red seed [decodeElems ownType own, decodeElems (wireType d) arrived])

/-- The result as stored: converted to `DATA_TYPE`, with the scale of scaled sum in the same rounding (R239). -/
def finalBytes (d : CollDesc) (scale : W32) (l : List Byte) : List Byte :=
  if !hasReduce d.op || d.red == 5 then l
  else
    let xs := decodeElems (wireType d) l
    encodeElems d.dt (if d.red = 4 then xs.map fun x => numMul (decodeNum fp32 scale.toNat) x else xs)

/-! ### Signature (R245) -/

/-- CRC-64 of R245. -/
def crc64 (l : List Byte) : W64 := BitVec.ofNat 64 (crcL 64 0x42F0E1EBA9EA3693 0 l)

def signatureOf (d : CollDesc) (items : List CollItem) (groupId seq : W32) : W64 :=
  let count := if d.op = 0x0F then (crc32c (items.flatMap fun i => leBytes 4 i.count)).toNat else if hasCounts d.op then 0 else d.count
  crc64 (leBytes 1 d.op ++ leBytes 1 (d.red + 16 * d.dt) ++ leBytes 1 d.wire ++ leBytes 1 0 ++ leBytes 4 count ++
    leBytes 2 d.root ++ leBytes 2 0 ++ leBytes 4 groupId.toNat ++ leBytes 4 seq.toNat ++ leBytes 4 d.scale ++ leBytes 8 0)

/-- Signature bits [16m+15 : 16m] for flit index i (Table 8-2). -/
def sigFragment (sig : W64) (i : Nat) : Nat := bits sig.toNat (16 * (i % 4)) 16

end Sys2Proof.Machine
end

