-- ==== Sys2Proof/Machine/Coll.lean ====
section
/-! DEFINITION. The operations of collectives: the flits of a group, the end of a sequence and aborts (R236, R247, R271, R275), the data
legs and their fathoms (R250 to R258), the count phase (R245 to R249), and direct legs (R264 to R266). The commands and events that use
them are in CollCmds.lean. -/

namespace Sys2Proof.Machine

def collMod (f : Collectives → Collectives) (s : State) : State := { s with coll := f s.coll }

def groupGet (s : State) (slot : Nat) : Option CollGroup := tabGet s.coll.groups slot

/-- Bytes of spill area that a group takes (R256). -/
def spillBytes (fathoms : Nat) : Nat := fathoms * 16384 * 4

def groupMod (slot : Nat) (f : CollGroup → CollGroup) (s : State) : State :=
  collMod (fun c => { c with groups := tabMod c.groups slot f }) s

def runGet (s : State) (slot : Nat) (seq : W32) : Option CollRun := (groupGet s slot).bind fun g => tabGet g.runs seq.toNat

def runMod (slot : Nat) (seq : W32) (f : CollRun → CollRun) (s : State) : State :=
  groupMod slot (fun g => { g with runs := tabMod g.runs seq.toNat f }) s

/-- A sequence of which nothing is known yet. -/
def newRun : CollRun :=
  { works := [], invalid := [], signature := none, mismatch := false, agreeIn := [], agreeOut := [], sentUp := false,
    agreed := none, started := false, desc := none, items := [], aux := [], origEast := 0, origWest := 0, contrib := [], sentTo := [],
    waits := [], read := 0, xres := [], writes := [], out := [], taken := [], done := 0, granted := [], limits := [],
    countIn := [], counts := [], blocks := [], writing := false, outcome := none }

/-- The run of a sequence exists. -/
def openRun (slot : Nat) (seq : W32) (s : State) : State :=
  match runGet s slot seq with
  | some _ => s
  | none => groupMod slot (fun g => { g with runs := tabSet g.runs seq.toNat newRun }) s

/-- A run whose data are known, with its group and what it moves. -/
def runDesc (s : State) (slot : Nat) (seq : W32) : Option (CollGroup × CollRun × CollDesc) :=
  (groupGet s slot).bind fun g => (tabGet g.runs seq.toNat).bind fun r => r.desc.map fun d => (g, r, d)

/-- The stream of a group reads and writes nothing while it is suspended (R111) or waits for a miss slot (R108). -/
def collHeld (s : State) (slot : Nat) : Bool := isSuspended s (.coll slot) false || stalled s (.coll slot)

/-! ### Flits of a group -/

/-- Ring direction of a stream (R254): legs 0 and 3 run on the X ring, 1 and 2 on the Y ring. -/
def legDir (leg : Nat) (west : Bool) : Nat := (if leg = 0 ∨ leg = 3 then 0 else 2) + flag west

/-- The ring direction in which a flit of a stream enters; on direct legs the path tag decides. -/
def streamDir (s : State) (peer leg : Nat) (west : Bool) : Option Nat :=
  if leg ≤ 3 then some (legDir leg west)
  else if leg = 6 then some ((if lineOf 0 peer = lineOf 0 (ownDev s) then 0 else 2) + flag west)
  else none

/-- Flits of a group join its stream at the egress port of their direction (R179); where no port has it, they wait for a slot alone. -/
def queueFlits (slot : Nat) (dir : Option Nat) (l : List Flit) (s : State) : State :=
  let enters : Option Nat := dir.orElse fun _ =>
    (activeBearing s).bind fun b => l.head?.bind fun f => injectDirection b.2 f.destDev.toNat f.pathTag.toNat
  let waits := l.map fun f => ({ dir := dir, since := s.dev.now, flit := f } : SlotWait)
  match enters.bind (ringPort s), groupGet s slot with
  | some p, some g =>
    queueUnit { port := 32 + p.1, tc := g.tc, fn := g.fn, stream := streamKey (.coll slot), since := s.dev.now, len := flitBytes l,
                item := .ring waits } s
  | _, _ => { s with fabric := { s.fabric with inject := s.fabric.inject ++ waits } }

/-- A collective flit (Table 9-5): type, peer, stream, low `CHUNK_SEQ` bits, index, path tag, signature, payload. -/
def collFlit (s : State) (type peer leg : Nat) (west : Bool) (slot low index tc tag : Nat) (sig : W64) (body : List Byte) : Flit :=
  stampFlit { makeFlit s type peer (8 * flag west + leg) (slot * 4096 + low % 4096) index body with
    tc := BitVec.ofNat 3 tc, pathTag := BitVec.ofNat 4 tag, sigFrag := BitVec.ofNat 16 (sigFragment sig index) }

/-- The tail of a chunk, Table 9-6. -/
def tailBytes (h : HeldChunk) (seq : W32) (sig : W64) : List Byte :=
  beBytes 4 (crc32c h.bytes).toNat ++ beBytes 4 (h.bytes.length % 16384) ++ beBytes 4 seq.toNat ++ beBytes 4 h.id.num ++
    beBytes 8 sig.toNat ++ beBytes 4 h.block ++ beBytes 4 h.ranks

/-- The flits of a chunk: its data, then its tail (R254). -/
def chunkFlits (s : State) (g : CollGroup) (slot : Nat) (seq : W32) (sig : W64) (h : HeldChunk) : List Flit :=
  let tag := if h.id.leg = 4 then h.id.num % 8 else 0
  let mk (type i : Nat) (body : List Byte) : Flit := collFlit s type h.peer h.id.leg h.id.west slot h.id.num i g.tc tag sig body
  (chunks128 (h.bytes.length + 1) 0 h.bytes).map (fun c => mk 0x20 c.1 c.2) ++ [mk 0x21 0 (tailBytes h seq sig)]

/-- The signature that flits of a sequence carry. -/
def signatureAt (g : CollGroup) (seq : W32) : W64 := ((tabGet g.runs seq.toNat).bind fun r => r.signature).getD 0

/-- The ring direction in which a chunk enters its first ring. -/
def chunkDir (s : State) (h : HeldChunk) : Option Nat :=
  (streamDir s h.peer h.id.leg h.id.west).orElse fun _ =>
    (activeBearing s).bind fun b => injectDirection b.2 h.peer (if h.id.leg = 4 then h.id.num % 8 else 0)

/-- A fold that `RING_STATUS` has reported lies between this device and the position of `peer`, in direction `dir` (R222, R262). -/
def foldBetween (s : State) (dir peer : Nat) : Bool :=
  match activeBearing s with
  | none => false
  | some (_, b) =>
    let axis := dir / 2
    let line := lineOf axis (ownDev s)
    let a := posOf axis (ownDev s)
    let z := posOf axis peer
    let way := if bit dir 0 then ringWalk 64 (present s b axis line) axis line false z a
      else ringWalk 64 (present s b axis line) axis line false a z
    (ringInfo s axis).folded && (way.getD []).any fun k => !(liveLinks s b axis).contains k

/-- Send a chunk's flits; one that is sent `again` goes against its direction, round a fold on its way (R262). -/
def sendChunk (slot : Nat) (seq : W32) (again : Bool) (h : HeldChunk) (s : State) : State :=
  match groupGet s slot with
  | none => s
  | some g =>
    let dir :=
      match chunkDir s h with
      | some d => if again && foldBetween s d h.peer then some (opposite d) else streamDir s h.peer h.id.leg h.id.west
      | none => none
    queueFlits slot dir (chunkFlits s g slot seq (if h.id.leg = 6 then 0 else signatureAt g seq) h) s

/-- Send a `COLL_ACK` for a stream of the sequence with this signature (Tables 9-5, 9-6): against the stream's direction. -/
def sendCollAck (slot : Nat) (sig : W64) (peer : Nat) (id : ChunkId) (status num limit : Nat) (s : State) : State :=
  match groupGet s slot with
  | none => s
  | some g =>
    let body := beBytes 4 (status * 2 ^ 24) ++ beBytes 4 (num % 2 ^ 32) ++ beBytes 4 (limit % 2 ^ 32)
    queueFlits slot ((streamDir s peer id.leg id.west).map opposite)
      [collFlit s 0x22 peer id.leg id.west slot num 0 g.tc (if id.leg = 4 then num % 8 else 0) sig body] s

/-! ### Chunks on their way -/

/-- Key of a stream in the tables of limits; of a direct leg, its peer. -/
def limitKey (id : ChunkId) (peer : Nat) : Nat := if id.leg = 4 then 100 + peer else 2 * id.leg + flag id.west

/-- The sender may send chunk `h` now (R253, R264); counts and setup records need no credit. -/
def maySendChunk (r : CollRun) (h : HeldChunk) : Bool :=
  if h.id.leg ≥ 5 then true
  else decide (h.id.num < (tabGet r.limits (limitKey h.id h.peer)).getD (if h.id.leg = 4 then 4 else 0))

/-- Counts of an earlier sequence are on their way to a device: those of the next wait, so that a stream holds one at a time (log entry
36). -/
def countsBefore (s : State) (slot : Nat) (seq : W32) (peer : Nat) : Bool :=
  match groupGet s slot with
  | none => false
  | some g => g.runs.any fun p => decide ((BitVec.ofNat 32 p.1 - g.startSeq).toNat < (seq - g.startSeq).toNat) &&
      p.2.out.any fun h => h.id.leg == 5 && h.peer == peer

/-- Send every chunk that its credit allows (R253). -/
def flushChunks (slot : Nat) (seq : W32) (s : State) : State :=
  match runGet s slot seq with
  | none => s
  | some r =>
    let early (h : HeldChunk) : Bool := h.id.leg == 5 && countsBefore s slot seq h.peer
    let go := r.out.filter fun h => !h.sent && maySendChunk r h && !early h
    let mark (h : HeldChunk) : HeldChunk :=
      if go.contains h then { h with sent := true, sentAt := s.dev.now, firstAt := s.dev.now } else h
    go.foldl (fun t h => sendChunk slot seq false h t) (runMod slot seq (fun r => { r with out := r.out.map mark }) s)

/-- A chunk formed here. -/
def newChunk (id : ChunkId) (peer : Nat) (bytes : List Byte) (block ranks : Nat) : HeldChunk :=
  { id := id, peer := peer, bytes := bytes, block := block, ranks := ranks, sent := false, sentAt := 0, firstAt := 0, timer := 12000 }

/-- A chunk formed here joins its stream (R260 stamps its CRC as it is sent). -/
def putChunk (slot : Nat) (seq : W32) (id : ChunkId) (peer : Nat) (bytes : List Byte) (block ranks : Nat) (s : State) : State :=
  runMod slot seq (fun r => { r with out := r.out ++ [newChunk id peer bytes block ranks] }) s

/-- The next member device along a leg. -/
def legNext (g : CollGroup) (dev leg : Nat) (west : Bool) : Nat :=
  let y := rowIndex g dev
  let x := colIndex g dev
  if leg = 0 ∨ leg = 3 then devIndex g y (nextIndex west (numCols g) x) else devIndex g (nextIndex west (numRows g) y) x

/-- Send chunk `k` on along a leg. -/
def forwardChunk (slot : Nat) (seq : W32) (leg : Nat) (west : Bool) (k : Nat) (bytes : List Byte) (s : State) : State :=
  match groupGet s slot with
  | none => s
  | some g => putChunk slot seq { leg := leg, west := west, num := k } (legNext g (ownDev s) leg west) bytes 0 0 s

/-! ### Counts (R246, R265, R266) -/

/-- Words of 32 bits, little-endian. -/
def words (l : List Byte) : List Nat := (List.range (l.length / 4)).map fun i => ofLe (slice l (4 * i) 4)

/-- Counts from one local member to every rank: elements for all-to-all-v, tokens by expert for the MoE collectives. -/
def memberCounts (d : CollDesc) (n : Nat) (aux : List Byte) : List (List Nat) :=
  if d.op = 7 then ((words aux).take n).map fun c => [c]
  else
    let q := moeExperts d
    let routing := ((words aux).take (d.count * moeK d)).map fun w => w % 65536
    (List.range n).map fun t => (List.range q).map fun e => (routing.filter fun x => x == t * q + e).length

def countKey (src dst : Nat) : Nat := src * 65536 + dst

def countsOf (r : CollRun) (src dst : Nat) : List Nat := (tabGet r.counts (countKey src dst)).getD []

/-- The counts of every pair that this device sends from or receives at are known. -/
def countsComplete (g : CollGroup) (r : CollRun) (own : Nat) : Bool :=
  let base := rankBase g own
  (List.range g.localMembers).all fun m =>
    (List.range (memberCount g)).all fun x =>
      (tabGet r.counts (countKey (base + m) x)).isSome && (tabGet r.counts (countKey x (base + m))).isSome

/-! ### The end of a sequence -/

/-- Bytes that a successful collective writes to a member's destination (R275). -/
def resultBytes (g : CollGroup) (r : CollRun) (d : CollDesc) (rank : Nat) : Nat :=
  let n := memberCount g
  match d.op with
  | 3 | 6 => memBytes d (n * d.count)
  | 5 => if rank = d.root then memBytes d d.count else 0
  | 7 => bytesOf d.dt (((List.range n).map fun x => (countsOf r x rank).headD 0).sum)
  | 8 => ((List.range n).map fun x => (countsOf r x rank).sum).sum * moeToken d
  | 9 => d.count * moeToken d
  | _ => memBytes d d.count

/-- Complete every entry of a run with the sequence's status; an invalid member has its own (R247, R275). -/
def completeRun (slot : Nat) (seq : W32) (status : Status) (s : State) : State :=
  match groupGet s slot with
  | none => s
  | some g =>
    match tabGet g.runs seq.toNat with
    | none => s
    | some r =>
      let one (t : State) (p : Nat × Nat) : State :=
        let st := (tabGet r.invalid p.1).getD status
        let n := match r.desc with | some d => resultBytes g r d (rankBase g (ownDev s) + p.1) | none => 0
        complete p.2 st (if st = .ok then n else 2 ^ 63 * flag r.writing) none t
      r.works.foldl one (runMod slot seq (fun r => { r with works := [], outcome := some status }) s)

/-- A sequence has ended here: its run is dropped, its engine passes with it, and the next one may start; sequences aborted before
they were posted are stepped over. -/
def closeRun (slot : Nat) (s : State) : State :=
  match groupGet s slot with
  | none => s
  | some g =>
    let q := g.startSeq
    let s1 := collMod (fun c =>
      { c with engines := c.engines.filter (fun p => !(p.2.slot == slot && p.2.seq == q)),
               queue := c.queue.filter fun p => !(p.slot == slot && p.seq == q) }) s
    let ofIt (x : RxChunk) : Bool := match (tabGet g.runs q.toNat).bind fun r => r.signature with
      | some sig => x.frags.all fun f => f.2.toNat == sigFragment sig f.1
      | none => false
    groupMod slot (fun g => { g with startSeq := q + 1, runs := tabErase g.runs q.toNat, rx := g.rx.filter fun x => !ofIt x }) s1

/-! ### Aborts (R271) -/

/-- Flood a `COLL_ABORT` along the group's rings. -/
def floodAbort (slot : Nat) (seq : W32) (status : Status) (broken : Bool) (s : State) : State :=
  match groupGet s slot with
  | none => s
  | some g =>
    let own := ownDev s
    let body := beBytes 4 seq.toNat ++ beBytes 4 (statusCode status + 65536 * flag broken)
    let hop (leg : Nat) (west : Bool) (t : State) : State :=
      let peer := legNext g own leg west
      if peer = own then t
      else queueFlits slot (some (legDir leg west))
        [stampFlit { collFlit t 0x24 peer 0 false slot 0 0 g.tc 0 (signatureAt g seq) body with destPort := 0 }] t
    hop 1 true (hop 1 false (hop 0 true (hop 0 false s)))

/-- Nothing more of a sequence goes out or comes in (steps 2 and 3 of R271). -/
def quietRun (slot : Nat) (seq : W32) (s : State) : State :=
  let s1 := runMod slot seq (fun r =>
    { r with out := [], writes := [], xres := [], contrib := [], waits := [], countIn := [], blocks := [], agreeOut := [] }) s
  collMod (fun c =>
    { c with engines := c.engines.filter (fun p => !(p.2.slot == slot && p.2.seq == seq)),
             queue := c.queue.filter fun p => !(p.slot == slot && p.seq == seq) }) s1

/-- The sequence lies before `startSeq`: it has ended here. -/
def seqEnded (g : CollGroup) (seq : W32) : Bool := decide (1 ≤ (g.startSeq - seq).toNat ∧ (g.startSeq - seq).toNat < 2 ^ 31)

/-- End a sequence with a status, and break the group where `broken` (R271): every later sequence ends with it. -/
def abortSeq (slot : Nat) (seq : W32) (status : Status) (broken : Bool) (s : State) : State :=
  match groupGet s slot with
  | none => s
  | some g =>
    let s0 := if broken then groupMod slot (fun g => { g with mode := .broken }) s else s
    let s1 := if seqEnded g seq ∨ g.aborted.any (fun a => a.1 == seq) then s0
      else groupMod slot (fun g => { g with aborted := g.aborted ++ [(seq, status)] })
        (runMod slot seq (fun r => { r with outcome := some (r.outcome.getD status) }) (quietRun slot seq s0))
    if broken then
      ((g.runs.map Prod.fst).filter fun q => q != seq.toNat).foldl (fun t q =>
        runMod slot (BitVec.ofNat 32 q) (fun r => { r with outcome := some (r.outcome.getD .collAborted) })
          (quietRun slot (BitVec.ofNat 32 q) t)) s1
    else s1

/-- Start an abort here: it is flooded and takes effect (R271). -/
def startAbort (slot : Nat) (seq : W32) (status : Status) (broken : Bool) (s : State) : State :=
  abortSeq slot seq status broken (floodAbort slot seq status broken s)

/-- A member is lost (R270): the event, and the abort that breaks the group. -/
def loseMember (slot : Nat) (seq : W32) (peer : Nat) (s : State) : State :=
  match groupGet s slot with
  | none => s
  | some g => startAbort slot seq .collAborted true (raiseEvent .memberLost g.fn (nodeDevice peer) slot (seq.toNat % 2 ^ 24) s)

/-- Sequences in the order in which they start. -/
def insertSeq (start : W32) (q : Nat) : List Nat → List Nat
  | [] => [q]
  | x :: rest =>
    if (BitVec.ofNat 32 q - start).toNat ≤ (BitVec.ofNat 32 x - start).toNat then q :: x :: rest else x :: insertSeq start q rest

/-- Entries of a group that have been accepted and not begun, in the order of their acceptance. -/
def slotEntries (s : State) (slot : Nat) : List Nat :=
  (byOrder ((works s).filter fun p =>
    entryOp p.2.entry == 0x20 && entryContext p.2.entry == slot && !p.2.begun && p.2.state == .accepted)).map Prod.fst

/-- Return a group's reservation. -/
def unreserve (g : CollGroup) (c : Collectives) : Collectives :=
  if !g.reserved then c
  else if g.spilled then { c with spillUsed := c.spillUsed - spillBytes g.fathoms }
  else { c with free := c.free + g.fathoms }

/-- The slot is freed with its reservation and its journal record. -/
def dropGroup (slot : Nat) (s : State) : State :=
  match groupGet s slot with
  | none => s
  | some g =>
    let s1 := match g.record with | some r => journalFree r s | none => s
    collMod (fun c =>
      { unreserve g c with
        groups := tabErase c.groups slot,
        engines := c.engines.filter (fun p => p.2.slot != slot), queue := c.queue.filter fun p => p.slot != slot })
      (unsuspend (.coll slot) s1)

/-- `coll.setup` ends with a failing status: the slot is free again, and waiting entries complete with it (R235). -/
def failSetup (slot : Nat) (status : Status) (s : State) : State :=
  let waiting := match groupGet s slot with | some g => g.waiting | none => []
  let sel (d : Deferral) : Option (Status × Nat × Nat × Nat) := if d = .collSetup slot then some (status, 0, 0, 0) else none
  completeAll (waiting ++ slotEntries s slot) status (finishCmds sel (dropGroup slot s))

/-- Every collective of a broken group completes, in the order of sequences, and with `COLL_ABORTED` those that wait (R236, R271). One that
breaks before it is READY ends its `coll.setup` so (log entry 107). -/
def endBroken (slot : Nat) (s : State) : State :=
  match groupGet s slot with
  | none => s
  | some g =>
    let s1 := ((g.runs.map Prod.fst).foldr (insertSeq g.startSeq) []).foldl (fun t q =>
      let st := ((tabGet g.runs q).bind fun r => r.outcome).getD .collAborted
      completeRun slot (BitVec.ofNat 32 q) st t) s
    if g.devices.isEmpty ∧ !g.tearing then failSetup slot .collAborted s1
    else
      completeAll (g.waiting ++ slotEntries s slot) .collAborted
        (groupMod slot (fun g => { g with runs := [], waiting := [], rx := [], early := [], setupOut := [] }) (unsuspend (.coll slot) s1))

/-- A page of a member's range is not present: the group's stream is suspended (R110, R111), or the member is lost while its function may
not be reached (R82). `x`: the segment, and its key. -/
def collAbsent (slot : Nat) (seq : W32) (access rec : Nat) (x : Nat × Nat × Nat) (s : State) : State :=
  match groupGet s slot with
  | none => s
  | some g =>
    if dmaBarred s g.fn then loseMember slot seq (ownDev s) (complete rec .translationFault 0 none s)
    else suspend g.fn (.coll slot) 2 access rec x.1 x.2.1 (BitVec.ofNat 32 x.2.2) s

/-- The first segment of some ranges, each with its key, that meets a page that is not present (R109, R110). -/
def firstAbsent (s : State) (fn : Nat) (ranges : List (Nat × Nat × Nat)) : Option (Nat × Nat × Nat) :=
  ranges.findSome? fun x =>
    ((segments (x.2.1 / 65536 + 2) x.1 x.1 x.2.1).find? fun g => !(missingPages s fn g.1 g.2.2).isEmpty).map fun g => (g.1, g.2.2, x.2.2)

/-- The first of some members' ranges that meets one, with the member's record. -/
def firstHeld (s : State) (fn : Nat) (works : Tab Nat) (ranges : Nat → List (Nat × Nat × Nat)) (ms : List Nat) :
    Option (Nat × Nat × Nat × Nat) :=
  ms.findSome? fun m => (firstAbsent s fn (ranges m)).map fun x => ((tabGet works m).getD 0, x)

/-! ### Sources and destinations -/

/-- DVA ranges of chunk `k` in a member's source, with their keys. -/
def srcRanges (d : CollDesc) (items : List CollItem) (k : Nat) : List (Nat × Nat × Nat) :=
  (itemPieces items (chunkStart d k) (chunkLen d k)).map fun p =>
    (p.1.src + memBytes d ((if d.op = 2 then chunkBlock d k * p.1.count else 0) + p.2.1), memBytes d p.2.2, p.1.srcKey)

/-- Pieces of chunk `k` in a member's destination: the DVA, how many elements, and the item. -/
def dstPieces (d : CollDesc) (items : List CollItem) (k : Nat) : List (Nat × Nat × CollItem) :=
  (itemPieces items (chunkStart d k) (chunkLen d k)).map fun p =>
    (p.1.dst + memBytes d ((if d.op = 3 then chunkBlock d k * p.1.count else 0) + p.2.1), p.2.2, p.1)

/-- DVA ranges of chunk `k` in a member's destination, with their keys. -/
def dstRanges (d : CollDesc) (items : List CollItem) (k : Nat) : List (Nat × Nat × Nat) :=
  (dstPieces d items k).map fun p => (p.1, memBytes d p.2.1, p.2.2.dstKey)

/-- The lengths of the lists in chunk `k` of a top-k merge. -/
def listLens (d : CollDesc) (items : List CollItem) (k : Nat) : List Nat :=
  (itemPieces items (chunkStart d k) (chunkLen d k)).map fun p => p.2.2

/-- Items of a local member; of a collective that is no batch, the only one. -/
def itemsOf (r : CollRun) (m : Nat) : List CollItem := (tabGet r.items m).getD []
def itemOf1 (r : CollRun) (m : Nat) : CollItem :=
  (itemsOf r m).headD { count := 0, src := 0, srcKey := 0, dst := 0, dstKey := 0, scale := 0 }

/-- Read DVA ranges of a function, one after the other. -/
def readRanges (fn : Nat) (ranges : List (Nat × Nat × Nat)) (s : State) : List Byte × State :=
  ranges.foldl (fun acc r => let x := readAny fn r.1 r.2.1 acc.2; (acc.1 ++ x.1, x.2)) ([], s)

/-- Chunk `k` of some local members' sources. -/
def readLocals (g : CollGroup) (r : CollRun) (d : CollDesc) (k : Nat) (ms : List Nat) (s : State) : List (List Byte) × State :=
  ms.foldl (fun acc m => let x := readRanges g.fn (srcRanges d (itemsOf r m) k) acc.2; (acc.1 ++ [x.1], x.2)) ([], s)

/-- Local members to whose destination chunk `k` goes (Table 9-1). -/
def chunkOwners (g : CollGroup) (d : CollDesc) (own k : Nat) : List Nat :=
  let base := rankBase g own
  (List.range g.localMembers).filter fun m =>
    if d.op = 2 then base + m == chunkBlock d k else if d.op = 5 then base + m == d.root else true

/-- The records of a run reach WRITING (R274). -/
def markWriting (slot : Nat) (seq : W32) (s : State) : State :=
  match runGet s slot seq with
  | none => s
  | some r =>
    if r.writing then s
    else
      let f (w : Work) : Work := if w.state = .accepted then { w with state := .writing } else w
      r.works.foldl (fun t p => workMod p.2 f t) (runMod slot seq (fun r => { r with writing := true }) s)

/-- Write a chunk to one member's destination, converted as stored (R239). -/
def writeMember (slot : Nat) (g : CollGroup) (r : CollRun) (d : CollDesc) (k : Nat) (bytes : List Byte) (s : State) (m : Nat) :
    State :=
  let unit := if d.red = 5 then 8 else if isMx (chunkType d) then 0 else elemBits (chunkType d) / 8
  let size (n : Nat) : Nat := if unit = 0 then bytesOf (chunkType d) n else n * unit
  let step (acc : State × List Byte) (p : Nat × Nat × CollItem) : State × List Byte :=
    (placeAt g.fn p.1 (finalBytes d p.2.2.scale (acc.2.take (size p.2.1))) (.coll slot) acc.1, acc.2.drop (size p.2.1))
  ((dstPieces d (itemsOf r m) k).foldl step (s, bytes)).1

/-- Write the final chunks that wait, once MATCH is held (R248), until one meets a page that is not present (R110). -/
def writeFinals (fuel slot : Nat) (seq : W32) (s : State) : State :=
  match fuel with
  | 0 => s
  | fuel + 1 =>
    match runDesc s slot seq with
    | none => s
    | some (g, r, d) =>
      match r.writes with
      | [] => s
      | w :: rest =>
        if r.agreed ≠ some true ∨ collHeld s slot then s
        else
          let ms := (chunkOwners g d (ownDev s) w.1).filter fun m => (tabGet r.invalid m).isNone
          match firstHeld s g.fn r.works (fun m => dstRanges d (itemsOf r m) w.1) ms with
          | some x => collAbsent slot seq 1 x.1 x.2 s
          | none =>
            writeFinals fuel slot seq
              (ms.foldl (writeMember slot g r d w.1 w.2) (markWriting slot seq (runMod slot seq (fun r => { r with writes := rest }) s)))

/-- One more duty of the data legs is done. -/
def dutyDone (slot : Nat) (seq : W32) (n : Nat) (s : State) : State := runMod slot seq (fun r => { r with done := r.done + n }) s

/-- A final chunk is here: it waits to be written. -/
def keepFinal (slot : Nat) (seq : W32) (k : Nat) (bytes : List Byte) (s : State) : State :=
  runMod slot seq (fun r => { r with writes := r.writes ++ [(k, bytes)] }) s

/-! ### Legs (R251, R252) -/

/-- The home device has the full chunk `k`: it writes it, and the gather legs start here. -/
def homeFinal (slot : Nat) (seq : W32) (g : CollGroup) (d : CollDesc) (k : Nat) (bytes : List Byte) (s : State) : State :=
  let west := chunkWest g d k
  let s1 := keepFinal slot seq k bytes s
  if !hasGather d.op then s1
  else
    let s2 := dutyDone slot seq 1 s1
    let s3 := if numRows g > 1 then forwardChunk slot seq 2 west k bytes s2 else s2
    if numCols g > 1 then forwardChunk slot seq 3 west k bytes s3 else s3

/-- The row sum of chunk `k` is here, at the home column: Y reduce starts, waits for its chunk, or is skipped. -/
def endX (slot : Nat) (seq : W32) (g : CollGroup) (d : CollDesc) (k : Nat) (bytes : List Byte) (s : State) : State :=
  let west := chunkWest g d k
  let pos := reducePos west (numRows g) (chunkHome g d k).1 (rowIndex g (ownDev s))
  if numRows g = 1 then homeFinal slot seq g d k bytes (dutyDone slot seq 1 s)
  else if pos = 0 then forwardChunk slot seq 1 west k bytes (dutyDone slot seq 1 s)
  else runMod slot seq (fun r => { r with xres := tabSet r.xres k bytes }) s

/-- The output of this device's part of X reduce for chunk `k`. -/
def afterX (slot : Nat) (seq : W32) (g : CollGroup) (d : CollDesc) (k : Nat) (bytes : List Byte) (s : State) : State :=
  let s1 := dutyDone slot seq 1 s
  if (chunkHome g d k).2 = colIndex g (ownDev s) then endX slot seq g d k bytes s1
  else forwardChunk slot seq 0 (chunkWest g d k) k bytes s1

/-- The output of this device's part of Y reduce for chunk `k`, at a device after the leg's first. -/
def afterY (slot : Nat) (seq : W32) (g : CollGroup) (d : CollDesc) (k : Nat) (bytes : List Byte) (s : State) : State :=
  let s1 := dutyDone slot seq 1 (runMod slot seq (fun r => { r with xres := tabErase r.xres k }) s)
  if (chunkHome g d k).1 = rowIndex g (ownDev s) then homeFinal slot seq g d k bytes s1
  else forwardChunk slot seq 1 (chunkWest g d k) k bytes s1

/-- A gather-leg chunk has arrived: it is written here, forwarded to the leg's end, and starts X gather in the home column. -/
def takeGather (slot : Nat) (seq : W32) (g : CollGroup) (d : CollDesc) (leg k : Nat) (bytes : List Byte) (s : State) : State :=
  let own := ownDev s
  let west := chunkWest g d k
  let home := chunkHome g d k
  let s1 := dutyDone slot seq 1 (keepFinal slot seq k bytes s)
  if leg = 2 then
    let s2 := if stepsFrom west (numRows g) home.1 (rowIndex g own) + 1 < numRows g then forwardChunk slot seq 2 west k bytes s1 else s1
    if numCols g > 1 then forwardChunk slot seq 3 west k bytes s2 else s2
  else if stepsFrom west (numCols g) home.2 (colIndex g own) + 1 < numCols g then forwardChunk slot seq 3 west k bytes s1
  else s1

/-- This device starts chunk `k` by itself: the first device of its X reduce leg, or the home of a gather-only chunk. -/
def originates (g : CollGroup) (d : CollDesc) (own k : Nat) : Bool :=
  let home := chunkHome g d k
  if hasReduce d.op then reducePos (chunkWest g d k) (numCols g) home.2 (colIndex g own) == 0
  else home == (rowIndex g own, colIndex g own)

/-- The local members whose sources chunk `k` reads here: all of them on a reduce leg; the contributor of a gather leg (Table 9-1). -/
def readersOf (g : CollGroup) (d : CollDesc) (own k : Nat) : List Nat :=
  if hasReduce d.op then List.range g.localMembers else [(if d.op = 4 then d.root else chunkBlock d k) - rankBase g own]

/-- Member devices to which direct-leg chunks go, and this device. -/
def directChunk (d : CollDesc) : Nat := if d.op = 6 ∨ d.op = 7 then bytesOf d.dt (chunkElems d) else 16384

/-- Bytes of the block from rank `src` to rank `dst`. -/
def blockBytes (r : CollRun) (d : CollDesc) (src dst : Nat) : Nat :=
  match d.op with
  | 6 => bytesOf d.dt d.count
  | 7 => bytesOf d.dt ((countsOf r src dst).headD 0)
  | 8 => (countsOf r src dst).sum * moeToken d
  | _ => (countsOf r dst src).sum * moeToken d

/-- The chunks that go from this device's members to those of device `dev`, numbered in order of source rank, destination rank and place
(log entry 36): local member, destination rank, offset in the block, and length. -/
def directChunks (g : CollGroup) (r : CollRun) (d : CollDesc) (own dev : Nat) : List (Nat × Nat × Nat × Nat) :=
  let size := max 1 (directChunk d)
  (List.range g.localMembers).flatMap fun m => (List.range (membersAt g dev)).flatMap fun t =>
    let dst := rankBase g dev + t
    let n := blockBytes r d (rankBase g own + m) dst
    (List.range (ceilDiv n size)).map fun i => (m, dst, i * size, min size (n - i * size))

/-- Every direct-leg chunk has been read. -/
def directRead (g : CollGroup) (r : CollRun) (d : CollDesc) (own : Nat) : Bool :=
  (memberDevices g).all fun dev => decide ((directChunks g r d own dev).length ≤ (tabGet r.sentTo dev).getD 0)

/-- Every local source of a started sequence has been read in full (R272). -/
def sourcesRead (g : CollGroup) (r : CollRun) (own : Nat) : Bool :=
  match r.desc with
  | none => false
  | some d =>
    let total := chunkTotal d (memberCount g)
    let mine := if hasReduce d.op then total else ((List.range total).filter fun k => originates g d own k).length
    r.started && (if isDirect d.op then directRead g r d own else decide (mine ≤ r.read))

/-- Chunk `k` arrives at this device on a leg. -/
def arrivesOn (g : CollGroup) (d : CollDesc) (own leg k : Nat) : Bool :=
  let home := chunkHome g d k
  let y := rowIndex g own
  let x := colIndex g own
  let w := chunkWest g d k
  match leg with
  | 0 => hasReduce d.op && reducePos w (numCols g) home.2 x != 0
  | 1 => hasReduce d.op && home.2 == x && numRows g != 1 && reducePos w (numRows g) home.1 y != 0
  | 2 => hasGather d.op && home.2 == x && home.1 != y
  | 3 => hasGather d.op && home.2 != x
  | _ => false

/-! ### Fathoms and credits (R252, R253, R258) -/

/-- Fathoms of a group; in spill mode its area holds four times as much (R256). -/
def fathomsOf (g : CollGroup) : Nat := if g.spilled then 4 * g.fathoms else g.fathoms

def takenOn (g : CollGroup) (r : CollRun) (d : CollDesc) (leg k : Nat) : Bool :=
  r.taken.any fun t => t.2 == { leg := leg, west := chunkWest g d k, num := k }

/-- The limit that the upstream device of a leg has for chunks of chunk `k`'s direction lies above `k`. -/
def creditedOn (g : CollGroup) (r : CollRun) (d : CollDesc) (own leg k : Nat) : Bool :=
  arrivesOn g d own leg k && decide (k < (tabGet r.granted (2 * leg + flag (chunkWest g d k))).getD 0)

/-- Chunk `k` waits here to be acknowledged downstream or to be written. -/
def goesOut (r : CollRun) (k : Nat) : Bool := r.out.any (fun h => h.id.num == k && decide (h.id.leg ≤ 3)) || r.writes.any fun w => w.1 == k

/-- Fathoms in use (R258): of a contribution, with one for the chunk that will arrive; of a row sum, and of the Y reduce chunk credited
against it; of a gather-leg chunk from its credit; of an output until it is acknowledged downstream and written. -/
def fathomsUsed (g : CollGroup) (r : CollRun) (d : CollDesc) (own : Nat) : Nat :=
  let ks := List.range (chunkTotal d (memberCount g))
  let awaited (leg k : Nat) : Bool := creditedOn g r d own leg k && !takenOn g r d leg k
  r.contrib.length * (if hasReduce d.op then contribFathoms d + 1 else 1) + r.xres.length +
    (ks.filter fun k => (tabGet r.xres k).isSome && creditedOn g r d own 1 k).length +
    (ks.filter (awaited 2)).length + (ks.filter (awaited 3)).length + (ks.filter (goesOut r)).length

/-- Fathoms that are free. -/
def fathomsFree (g : CollGroup) (r : CollRun) (d : CollDesc) (own : Nat) : Nat := fathomsOf g - fathomsUsed g r d own

/-- Local sources of chunk `k` may be read ahead (R252). DESIGN CHOICE (log entry 104): the spec does not say how a group divides its fathoms
between contributions and arriving chunks; one stays free for each of the other six streams. -/
def roomToRead (g : CollGroup) (r : CollRun) (d : CollDesc) (own : Nat) : Bool :=
  decide ((if hasReduce d.op then contribFathoms d + 1 else 1) + 6 ≤ fathomsFree g r d own)

/-- Read chunk `k` here: the contribution to its X leg, or what its gather legs start with. -/
def readChunk (slot : Nat) (seq : W32) (g : CollGroup) (r : CollRun) (d : CollDesc) (k : Nat) (s : State) : State :=
  let ms := readersOf g d (ownDev s) k
  let x := readLocals g r d k ms s
  let seed := x.2.dev.fresh
  let lens := listLens d (itemsOf r (ms.headD 0)) k
  let bytes := if hasReduce d.op then formContrib d seed lens x.1 else x.1.headD []
  runMod slot seq (fun r => { r with contrib := tabSet r.contrib k bytes, read := r.read + 1 })
    { x.2 with dev := { x.2.dev with fresh := seed + 64 * (lens.length + 1) } }

/-- Read chunks of one direction in ascending number while there is room, until one meets a page that is not present (R110). -/
def readAhead (fuel : Nat) (west : Bool) (slot : Nat) (seq : W32) (s : State) : State :=
  match fuel with
  | 0 => s
  | fuel + 1 =>
    match runDesc s slot seq with
    | none => s
    | some (g, r, d) =>
      let k := if west then r.origWest else r.origEast
      let own := ownDev s
      let next (t : State) : State :=
        readAhead fuel west slot seq (runMod slot seq (fun r => if west then { r with origWest := k + 1 } else { r with origEast := k + 1 }) t)
      if chunkTotal d (memberCount g) ≤ k then s
      else if chunkWest g d k ≠ west ∨ !(hasReduce d.op || originates g d own k) then next s
      else if !roomToRead g r d own ∨ collHeld s slot then s
      else
        match firstHeld s g.fn r.works (fun m => srcRanges d (itemsOf r m) k) (readersOf g d own k) with
        | some x => collAbsent slot seq 0 x.1 x.2 s
        | none => next (readChunk slot seq g r d k s)

/-- Start chunk `k` here with what has been read of it. -/
def originate (slot : Nat) (seq : W32) (g : CollGroup) (d : CollDesc) (k : Nat) (bytes : List Byte) (s : State) : State :=
  let s1 := runMod slot seq (fun r => { r with contrib := tabErase r.contrib k }) s
  if hasReduce d.op then afterX slot seq g d k (roundContrib d bytes) s1 else homeFinal slot seq g d k bytes s1

/-- Starting chunk `k` would put a chunk on a stream that has no credit for it. -/
def originHeld (g : CollGroup) (r : CollRun) (d : CollDesc) (own k : Nat) : Bool :=
  let home := chunkHome g d k
  let west := chunkWest g d k
  let limit (leg : Nat) : Nat := (tabGet r.limits (2 * leg + flag west)).getD 0
  if hasReduce d.op then numCols g > 1 && home.2 != colIndex g own && decide (limit 0 ≤ k)
  else (numRows g > 1 && decide (limit 2 ≤ k)) || (numCols g > 1 && decide (limit 3 ≤ k))

/-- Start the chunks that legs begin with here, in ascending number, where there is credit. -/
def originateAll (slot : Nat) (seq : W32) (s : State) : State :=
  match runDesc s slot seq with
  | none => s
  | some (g, r, d) =>
    (r.contrib.filter fun p => originates g d (ownDev s) p.1 && !originHeld g r d (ownDev s) p.1).foldl
      (fun t p => originate slot seq g d p.1 p.2 t) s

/-- The credit of chunk `k` of an inbound stream has run out: its fathoms are free again. -/
def creditSpent (g : CollGroup) (r : CollRun) (d : CollDesc) (own leg k : Nat) : Bool :=
  let x := (tabGet r.xres k).isSome
  takenOn g r d leg k &&
  (match leg with
   | 0 => (tabGet r.contrib k).isNone && !x && !(if arrivesOn g d own 1 k then r.out.any fun h => h.id.num == k && h.id.leg == 0 else goesOut r k)
   | 1 => !x && !goesOut r k
   | _ => !goesOut r k)

/-- `CREDIT_LIMIT` of an inbound stream: at most ⌊`FATHOMS` / 8⌋ credits are unexpired (R258); on a reduce leg a chunk is granted only when the
own contribution to it is complete, and on any but X reduce only with a free fathom (R253). A suspended group grants none (R270). -/
def creditLimit (s : State) (slot : Nat) (g : CollGroup) (r : CollRun) (d : CollDesc) (leg : Nat) (west : Bool) : Nat :=
  let own := ownDev s
  let total := chunkTotal d (memberCount g)
  let now := (tabGet r.granted (2 * leg + flag west)).getD 0
  let ks := (List.range total).filter fun k => chunkWest g d k == west && arrivesOn g d own leg k
  let open_ := (ks.filter fun k => decide (k < now) && !creditSpent g r d own leg k).length
  let ahead := ks.filter fun k => decide (now ≤ k)
  let ready := ahead.takeWhile fun k =>
    match leg with
    | 0 => (tabGet r.contrib k).isSome
    | 1 => (tabGet r.xres k).isSome
    | _ => true
  let n := min ready.length (min (g.fathoms / 8 - open_) (if leg = 0 then ready.length else fathomsFree g r d own))
  if !r.started ∨ n = 0 ∨ collHeld s slot then now else ahead.getD n total

/-- The limit of an inbound stream as it stands now is the one granted. -/
def noteLimit (slot : Nat) (seq : W32) (id : ChunkId) (limit : Nat) (s : State) : State :=
  runMod slot seq (fun r => { r with granted := tabSet r.granted (2 * id.leg + flag id.west) limit }) s

/-- Tell the upstream device of an inbound stream a limit that has grown (log entry 35). -/
def grantStream (slot : Nat) (seq : W32) (s : State) (p : Nat × Bool) : State :=
  match runDesc s slot seq with
  | none => s
  | some (g, r, d) =>
    let limit := creditLimit s slot g r d p.1 p.2
    if (tabGet r.granted (2 * p.1 + flag p.2)).getD 0 < limit then
      let id : ChunkId := { leg := p.1, west := p.2, num := limit }
      sendCollAck slot (signatureAt g seq) (legNext g (ownDev s) p.1 (!p.2)) id 0 limit limit (noteLimit slot seq id limit s)
    else s

/-- Chunks of device `dev` that this one has taken on direct legs and placed, and its window of four (R264). -/
def directLimit (g : CollGroup) (r : CollRun) (dev : Nat) : Nat :=
  (r.taken.filter fun t => t.1 == dev && t.2.leg == 4).length + 4 - (r.waits.filter fun w => w.remote && deviceOfRank g w.src == dev).length

/-- Tell a sender of direct-leg chunks a window that has moved on behind chunks that waited for a page (log entry 35). -/
def grantDirect (slot : Nat) (seq : W32) (s : State) (dev : Nat) : State :=
  match runDesc s slot seq with
  | none => s
  | some (g, r, _) =>
    let limit := directLimit g r dev
    if (tabGet r.granted (100 + dev)).getD 4 < limit then
      sendCollAck slot (signatureAt g seq) dev { leg := 4, west := false, num := limit } 0 limit limit
        (runMod slot seq (fun r => { r with granted := tabSet r.granted (100 + dev) limit }) s)
    else s

/-- Tell every sender a limit that has grown. -/
def grantCredits (slot : Nat) (seq : W32) (s : State) : State :=
  match runDesc s slot seq with
  | none => s
  | some (g, r, d) =>
    if !r.started then s
    else if isDirect d.op then ((memberDevices g).filter fun x => x != ownDev s).foldl (grantDirect slot seq) s
    else ((List.range 8).map fun i => (i / 2, i % 2 == 1)).foldl (grantStream slot seq) s

/-! ### Direct legs (R264 to R266) -/

/-- Tokens before those of (source rank, expert) in dispatch layout at expert member `dst` (R266). -/
def layoutStart (g : CollGroup) (r : CollRun) (src dst e : Nat) : Nat :=
  let n := memberCount g
  let cnt (x e : Nat) : Nat := (countsOf r x dst).getD e 0
  (((List.range e).map fun f => ((List.range n).map fun x => cnt x f).sum).sum) + (((List.range src).map fun x => cnt x e).sum)

/-- Source ranges of the block that rank `src` (local member `m`) sends to rank `dst`. -/
def blockSource (g : CollGroup) (r : CollRun) (d : CollDesc) (m src dst : Nat) : List (Nat × Nat) :=
  let it := itemOf1 r m
  match d.op with
  | 6 => [(it.src + bytesOf d.dt (dst * d.count), bytesOf d.dt d.count)]
  | 7 =>
    let before := ((List.range dst).map fun t => (countsOf r src t).headD 0).sum
    [(it.src + bytesOf d.dt before, bytesOf d.dt ((countsOf r src dst).headD 0))]
  | 8 =>
    let routing := ((words ((tabGet r.aux m).getD [])).take (d.count * moeK d)).map fun w => w % 65536
    (List.range (moeExperts d)).flatMap fun e =>
      (routing.zipIdx.filter fun p => p.1 == dst * moeExperts d + e).map fun p => (it.src + p.2 / moeK d * moeToken d, moeToken d)
  | _ =>
    (List.range (moeExperts d)).map fun e =>
      (it.src + layoutStart g r dst src e * moeToken d, (countsOf r dst src).getD e 0 * moeToken d)

/-- Destination ranges of the block from rank `src` at rank `dst` (local member `m`). Combine gathers first. -/
def blockDest (g : CollGroup) (r : CollRun) (d : CollDesc) (m src dst : Nat) : List (Nat × Nat) :=
  let it := itemOf1 r m
  match d.op with
  | 6 => [(it.dst + bytesOf d.dt (src * d.count), bytesOf d.dt d.count)]
  | 7 =>
    let before := ((List.range src).map fun t => (countsOf r t dst).headD 0).sum
    [(it.dst + bytesOf d.dt before, bytesOf d.dt ((countsOf r src dst).headD 0))]
  | 8 =>
    (List.range (moeExperts d)).map fun e =>
      (it.dst + layoutStart g r src dst e * moeToken d, (countsOf r src dst).getD e 0 * moeToken d)
  | _ => []

/-- The part [`off`, `off` + `len`) of concatenated ranges. -/
def subRanges (ranges : List (Nat × Nat)) (off len : Nat) : List (Nat × Nat) :=
  match ranges with
  | [] => []
  | (a, n) :: rest =>
    if len = 0 then []
    else if n ≤ off then subRanges rest (off - n) len
    else let k := min len (n - off); (a + off, k) :: subRanges rest 0 (len - k)

/-- The same ranges under a key. -/
def underKey (key : Nat) (l : List (Nat × Nat)) : List (Nat × Nat × Nat) := l.map fun p => (p.1, p.2, key)

/-- Write bytes to concatenated ranges. -/
def writeRanges (fn slot : Nat) (ranges : List (Nat × Nat)) (bytes : List Byte) (s : State) : State :=
  (ranges.foldl (fun (acc : State × List Byte) p => (placeAt fn p.1 (acc.2.take p.2) (.coll slot) acc.1, acc.2.drop p.2)) (s, bytes)).1

/-- Overwrite bytes of a list from an offset, extending it with zeros. -/
def patchAt (l : List Byte) (off : Nat) (part : List Byte) : List Byte :=
  slice l 0 off ++ part ++ l.drop (off + part.length)

/-- The destination of `n` bytes of a direct leg at local rank `dst`: the member, and its ranges. -/
def directDest (g : CollGroup) (r : CollRun) (d : CollDesc) (own src dst off n : Nat) : Nat × List (Nat × Nat) :=
  let m := dst - rankBase g own
  (m, if (tabGet r.invalid m).isSome then [] else subRanges (blockDest g r d m src dst) off n)

/-- Bytes of a direct-leg chunk take their place at local rank `dst` (R264): in its destination, or among the blocks that combine
gathers. -/
def placeDirect (slot : Nat) (seq : W32) (g : CollGroup) (r : CollRun) (d : CollDesc) (src dst off : Nat) (bytes : List Byte)
    (s : State) : State :=
  if d.op = 9 then
    let put (t : Tab (List Byte)) : Tab (List Byte) :=
      tabSet t (countKey src dst) (patchAt ((tabGet t (countKey src dst)).getD []) off bytes)
    runMod slot seq (fun r => { r with blocks := put r.blocks }) s
  else
    let x := directDest g r d (ownDev s) src dst off bytes.length
    if x.2.isEmpty then s else writeRanges g.fn slot x.2 bytes (markWriting slot seq s)

/-- Bytes of direct legs that wait for their place take it in order, until one meets a page that is not present (R110). -/
def placeWaits (fuel slot : Nat) (seq : W32) (s : State) : State :=
  match fuel with
  | 0 => s
  | fuel + 1 =>
    match runDesc s slot seq with
    | none => s
    | some (g, r, d) =>
      match r.waits with
      | [] => s
      | w :: rest =>
        let x := directDest g r d (ownDev s) w.src w.dst w.off w.bytes.length
        if collHeld s slot then s
        else
          match firstAbsent s g.fn (underKey (itemOf1 r x.1).dstKey x.2) with
          | some a => collAbsent slot seq 1 ((tabGet r.works x.1).getD 0) a s
          | none =>
            placeWaits fuel slot seq (dutyDone slot seq (flag w.remote)
              (placeDirect slot seq g r d w.src w.dst w.off w.bytes (runMod slot seq (fun r => { r with waits := rest }) s)))

/-- Bytes of a direct leg are here for local rank `dst`. -/
def landDirect (slot : Nat) (seq : W32) (w : DirectWait) (s : State) : State :=
  let s1 := runMod slot seq (fun r => { r with waits := r.waits ++ [w] }) s
  placeWaits (match runGet s1 slot seq with | some r => r.waits.length | none => 0) slot seq s1

/-- The chunks of the block from a local rank: offset and bytes. -/
def blockChunks (fuel size off : Nat) (l : List Byte) : List (Nat × List Byte) :=
  match fuel with
  | 0 => []
  | fuel + 1 => if l.isEmpty ∨ size = 0 then [] else (off, l.take size) :: blockChunks fuel size (off + size) (l.drop size)

/-- The chunks for member device `dev` are read and leave while its window allows (R264); those of this device are copied. -/
def sendDirect (fuel slot : Nat) (seq : W32) (dev : Nat) (s : State) : State :=
  match fuel with
  | 0 => s
  | fuel + 1 =>
    match runDesc s slot seq with
    | none => s
    | some (g, r, d) =>
      let own := ownDev s
      let i := (tabGet r.sentTo dev).getD 0
      match (directChunks g r d own dev)[i]? with
      | none => s
      | some (m, dst, off, n) =>
        if (dev ≠ own ∧ (tabGet r.limits (100 + dev)).getD 4 ≤ i) ∨ collHeld s slot then s
        else
          let src := rankBase g own + m
          let ranges := underKey (itemOf1 r m).srcKey (subRanges (blockSource g r d m src dst) off n)
          match firstAbsent s g.fn ranges with
          | some a => collAbsent slot seq 0 ((tabGet r.works m).getD 0) a s
          | none =>
            let x := readRanges g.fn ranges (runMod slot seq (fun r => { r with sentTo := tabSet r.sentTo dev (i + 1) }) s)
            sendDirect fuel slot seq dev
              (if dev = own then landDirect slot seq { src := src, dst := dst, off := off, remote := false, bytes := x.1 } x.2
               else putChunk slot seq { leg := 4, west := i % 2 == 1, num := i } dev x.1 (off / max 1 (directChunk d))
                 (src % 65536 * 65536 + dst % 65536) x.2)

/-- The same for every member device. -/
def sendDirects (slot : Nat) (seq : W32) (s : State) : State :=
  match runDesc s slot seq with
  | none => s
  | some (g, r, d) =>
    if !r.started ∨ !isDirect d.op then s
    else (memberDevices g).foldl (fun t dev => sendDirect ((directChunks g r d (ownDev s) dev).length + 1) slot seq dev t) s

/-- Chunks that other devices send to this one on direct legs. -/
def directTotal (g : CollGroup) (r : CollRun) (d : CollDesc) (own : Nat) : Nat :=
  let base := rankBase g own
  ((List.range (memberCount g)).map fun src =>
    if base ≤ src ∧ src < base + g.localMembers then 0
    else ((List.range g.localMembers).map fun m => ceilDiv (blockBytes r d src (base + m)) (max 1 (directChunk d))).sum).sum

/-- The weighted sums of a combining member: token by token, in ascending order over its experts (R266). -/
def combineTokens (g : CollGroup) (r : CollRun) (d : CollDesc) (m rank : Nat) : List Byte :=
  let k := moeK d
  let q := moeExperts d
  let aux := (tabGet r.aux m).getD []
  let ws := words aux
  let routing := (ws.take (d.count * k)).map fun w => w % 65536
  let gate (i : Nat) : Num := decodeNum fp32 (ws.getD (d.count * k + i) 0)
  let output (i : Nat) : Option (List Num) :=
    let x := routing.getD i 0
    let em := x / q
    if memberCount g ≤ em then none
    else
      let before := ((List.range (x % q)).map fun e => (countsOf r rank em).getD e 0).sum
      let idx := ((routing.take i).filter fun y => y == x).length
      some (decodeElems d.dt (slice ((tabGet r.blocks (countKey em rank)).getD []) ((before + idx) * moeToken d) (moeToken d)))
  let weighted (i : Nat) : Option (List Num) := (output i).map fun l => l.map fun y => convert fp32 true (numMul (gate i) y)
  (List.range d.count).flatMap fun t =>
    let outs := (List.range k).filterMap fun j => weighted (t * k + j)
    match outs with
    | [] => List.replicate (moeToken d) 0
    | o :: rest => encodeElems d.dt (rest.foldl (fun acc l => List.zipWith engineAdd acc l) o)

/-- Auxiliary results (R265, R266): where they go, and their bytes: all-to-all-v's receive counts, dispatch's counts by expert. -/
def auxResult (s : State) (g : CollGroup) (r : CollRun) (d : CollDesc) (m : Nat) : Option ((Nat × Nat × Nat) × List Byte) :=
  let rank := rankBase g (ownDev s) + m
  let n := memberCount g
  let e := match (tabGet r.works m).bind (workGet s) with | some w => entryDesc w.entry | none => d
  let at_ (off : Nat) (l : List Byte) : Option ((Nat × Nat × Nat) × List Byte) := some ((e.aux + off, l.length, e.auxKey), l)
  match d.op with
  | 7 => at_ (4 * n) ((List.range n).flatMap fun x => leBytes 4 ((countsOf r x rank).headD 0))
  | 8 =>
    let per (e : Nat) : Nat := ((List.range n).map fun x => (countsOf r x rank).getD e 0).sum
    at_ (4 * d.count * moeK d) ((List.range (moeExperts d)).flatMap fun e => leBytes 4 (per e))
  | _ => none

def writeAux (slot : Nat) (seq : W32) (g : CollGroup) (r : CollRun) (d : CollDesc) (s : State) (m : Nat) : State :=
  match auxResult s g r d m with
  | some x => placeAt g.fn x.1.1 x.2 (.coll slot) (markWriting slot seq s)
  | none => s

/-! ### The count phase (R246) -/

/-- The tree along which words are combined toward index 0 of a ring of `len` members, both ways round: the parent of index `i`, and
whether it lies west. -/
def treeParent (len i : Nat) : Option (Nat × Bool) :=
  if i = 0 then none else if i ≤ len / 2 then some (i - 1, true) else some ((i + 1) % len, false)

/-- The indices whose parent is `i`. -/
def treeChildren (len i : Nat) : List Nat :=
  (List.range len).filter fun j => (treeParent len j).map Prod.fst == some i

/-- The devices whose combined words this device waits for, with the leg they come on: X words first, then, in the first column,
Y words. -/
def agreeSources (g : CollGroup) (own : Nat) : List (Nat × Nat) :=
  let y := rowIndex g own
  let x := colIndex g own
  (treeChildren (numCols g) x).map (fun j => (0, devIndex g y j)) ++
    (if x = 0 then (treeChildren (numRows g) y).map fun j => (1, devIndex g j x) else [])

/-- Where the combined word of this device goes: leg, device, direction; none at the lowest-numbered device. -/
def agreeTarget (g : CollGroup) (own : Nat) : Option (Nat × Nat × Bool) :=
  let y := rowIndex g own
  let x := colIndex g own
  match treeParent (numCols g) x with
  | some p => some (0, devIndex g y p.1, p.2)
  | none => (treeParent (numRows g) y).map fun p => (1, devIndex g p.1 x, p.2)

/-- Where the gathered result goes on from here: leg, device, direction. -/
def agreeOnward (g : CollGroup) (own : Nat) : List (Nat × Nat × Bool) :=
  let y := rowIndex g own
  let x := colIndex g own
  let back (len j : Nat) : Bool := match treeParent len j with | some p => !p.2 | none => false
  (if x = 0 then (treeChildren (numRows g) y).map fun j => (2, devIndex g j x, back (numRows g) j) else []) ++
    (treeChildren (numCols g) x).map fun j => (3, devIndex g y j, back (numCols g) j)

/-- Send an agreement word (Table 9-6). -/
def sendAgree (slot : Nat) (seq : W32) (result mismatch : Bool) (hop : Nat × Nat × Bool) (s : State) : State :=
  match groupGet s slot with
  | none => s
  | some g =>
    let sig := signatureAt g seq
    let body := beBytes 8 sig.toNat ++ beBytes 4 seq.toNat ++ beBytes 4 (flag mismatch + 2 * flag result)
    let o : AgreeOut := { leg := hop.1, west := hop.2.2, peer := hop.2.1, sentAt := s.dev.now }
    queueFlits slot (some (legDir hop.1 hop.2.2)) [collFlit s 0x23 hop.2.1 hop.1 hop.2.2 slot seq.toNat 0 g.tc 0 sig body]
      (runMod slot seq (fun r => { r with agreeOut := r.agreeOut ++ [o] }) s)

/-- The result of the count phase is known here: it is kept and passed on. -/
def takeResult (slot : Nat) (seq : W32) (mismatch : Bool) (s : State) : State :=
  match groupGet s slot with
  | none => s
  | some g =>
    let s1 := runMod slot seq (fun r => { r with agreed := some (!mismatch), mismatch := mismatch }) s
    (agreeOnward g (ownDev s)).foldl (fun t p => sendAgree slot seq true mismatch p t) s1

/-- Combine the words that have arrived with the own one, once all are here, and send the result up or decide (R246). -/
def combineWords (slot : Nat) (seq : W32) (s : State) : State :=
  match groupGet s slot with
  | none => s
  | some g =>
    match tabGet g.runs seq.toNat with
    | none => s
    | some r =>
      match r.signature with
      | none => s
      | some sig =>
        let here := (agreeSources g (ownDev s)).map fun p => r.agreeIn.find? fun w => w.leg == p.1 && w.src == p.2
        if r.sentUp ∨ here.any (fun w => w.isNone) then s
        else
          let bad := r.mismatch || here.any fun w => match w with | some a => a.mismatch || a.sig != sig | none => false
          let s1 := runMod slot seq (fun r => { r with sentUp := true, mismatch := bad }) s
          match agreeTarget g (ownDev s) with
          | some t => sendAgree slot seq false bad t s1
          | none => takeResult slot seq bad s1

/-- Counts of device `src` are known once all their bytes are here, and who sent them has this device's signature; another one aborts the
sequence (R249). -/
def readCountsOf (slot : Nat) (seq : W32) (s : State) (src : Nat) : State :=
  match runDesc s slot seq with
  | none => s
  | some (g, r, d) =>
    let own := ownDev s
    let q := if d.op = 7 then 1 else moeExperts d
    let cells := membersAt g src * g.localMembers * q
    let parts := r.countIn.filter fun c => c.src == src
    let known := (tabGet r.counts (countKey (rankBase g src) (rankBase g own))).isSome
    if known ∨ r.outcome.isSome ∨ r.signature.isNone ∨ parts.isEmpty then s
    else if parts.any fun c => r.signature != some c.sig then
      startAbort slot seq .collMismatch false (runMod slot seq (fun r => { r with mismatch := true }) (dropFlit s))
    else if parts.length < ceilDiv (4 * cells) 16384 then s
    else
      let ws := words ((List.range parts.length).flatMap fun i => ((parts.find? fun c => c.num == i).map fun c => c.bytes).getD [])
      let pairs := (List.range (membersAt g src)).flatMap fun m => (List.range g.localMembers).map fun t => (m, t)
      let keep (t : Tab (List Nat)) (p : Nat × Nat) : Tab (List Nat) :=
        tabSet t (countKey (rankBase g src + p.1) (rankBase g own + p.2)) ((ws.drop ((p.1 * g.localMembers + p.2) * q)).take q)
      runMod slot seq (fun r => { r with counts := pairs.foldl keep r.counts }) s

/-- The same for every other device of a sequence that exchanges counts. -/
def readCounts (slot : Nat) (seq : W32) (s : State) : State :=
  match runDesc s slot seq with
  | none => s
  | some (g, _, d) => if hasCounts d.op then ((memberDevices g).filter fun x => x != ownDev s).foldl (readCountsOf slot seq) s else s

/-! ### Duties -/

/-- The data legs of a run have done all their duties here. -/
def dutiesTotal (g : CollGroup) (r : CollRun) (d : CollDesc) (own : Nat) : Nat :=
  if isDirect d.op then directTotal g r d own
  else
    let total := chunkTotal d (memberCount g)
    let homeCol := ((List.range total).filter fun k => (chunkHome g d k).2 == colIndex g own).length
    (if hasReduce d.op then total + homeCol else 0) + (if hasGather d.op then total else 0)

/-- The sequence's own part at this device is finished. -/
def runFinished (s : State) (slot : Nat) (g : CollGroup) (r : CollRun) : Bool :=
  match r.desc with
  | none => false
  | some d =>
    r.started && r.agreed == some true && r.writes.isEmpty && r.waits.isEmpty && decide (dutiesTotal g r d (ownDev s) ≤ r.done) &&
      !contOpen s (.coll slot) && (!isDirect d.op || (r.out.isEmpty && directRead g r d (ownDev s)))

/-! ### Taking up entries (R235, R236, R242, R243) -/

/-- A key that an entry names, as it stood when the entry was accepted; of an item of a batch, as it stands now (R95, R242). -/
def memberKey (s : State) (w : Work) (key : Nat) (right dva len : Nat) : Option Status :=
  let k := BitVec.ofNat 32 key
  if w.keys.any fun v => v.key == k then workKeyCheck w k right dva len else keyCheck s w.fn k right dva len

/-- Both rights of a range, then its bounds (R95, R242). -/
def collKey (s : State) (w : Work) (key right dva len : Nat) : Option Status :=
  match memberKey s w key right dva len, memberKey s w key rightCollTarget dva len with
  | _, some .accessDenied => some .accessDenied
  | e, _ => e

/-- Bytes of the auxiliary region that a collective reads, and that it needs in all (R243, R265, R266). -/
def auxRead (d : CollDesc) (n : Nat) : Nat :=
  match d.op with
  | 7 => 4 * n | 8 => 4 * d.count * moeK d | 9 => 8 * d.count * moeK d | 0xF => 64 * d.count | _ => 0

def auxAll (d : CollDesc) (n : Nat) : Nat :=
  match d.op with
  | 7 => 8 * n | 8 => 4 * d.count * moeK d + 4 * moeExperts d | _ => auxRead d n

/-- Bytes of a member's source and destination as far as the descriptor fixes them. -/
def srcBytes (d : CollDesc) (n rank : Nat) (aux : List Byte) : Option Nat :=
  match d.op with
  | 4 => if rank = d.root then some (memBytes d d.count) else none
  | 2 | 6 => some (memBytes d (n * d.count))
  | 7 => some (bytesOf d.dt ((words aux).take n).sum)
  | 8 => some (d.count * moeToken d)
  | 9 => some 0
  | _ => some (memBytes d d.count)

def dstBytes (d : CollDesc) (n rank : Nat) : Option Nat :=
  match d.op with
  | 5 => if rank = d.root then some (memBytes d d.count) else none
  | 3 | 6 => some (memBytes d (n * d.count))
  | 8 => some 0
  | 9 => some (d.count * moeToken d)
  | _ => some (memBytes d d.count)

/-- The first key check that fails for a member (R242). -/
def collKeys (s : State) (w : Work) (n rank : Nat) (d : CollDesc) (aux : List Byte) : Option Status :=
  let srcKey := if d.inPlace then d.dstKey else d.srcKey
  let src := if d.inPlace then d.dst else d.src
  match (srcBytes d n rank aux).bind fun len => collKey s w srcKey rightLocalRead src len with
  | some e => some e
  | none => (dstBytes d n rank).bind fun len => collKey s w d.dstKey rightLocalWrite d.dst len

/-- The auxiliary region's checks. -/
def auxKeys (s : State) (w : Work) (n : Nat) (d : CollDesc) : Option Status :=
  if auxRead d n = 0 then none
  else
    let read := memberKey s w d.auxKey rightLocalRead d.aux (auxAll d n)
    if d.op = 7 ∨ d.op = 8 then
      (match read, memberKey s w d.auxKey rightLocalWrite d.aux (auxAll d n) with
       | _, some .accessDenied => some .accessDenied
       | e, _ => e)
    else read

def itemOf (d : CollDesc) : CollItem :=
  { count := d.count, src := if d.inPlace then d.dst else d.src, srcKey := if d.inPlace then d.dstKey else d.srcKey, dst := d.dst,
    dstKey := d.dstKey, scale := BitVec.ofNat 32 d.scale }

/-- The form checks of R242 that do not need memory. -/
def descOk (g : CollGroup) (d : CollDesc) (rank : Nat) : Bool :=
  (decide (1 ≤ d.op ∧ d.op ≤ 9) || d.op == 0x0F) && fieldsOk d (rank == d.root) && typesOk d &&
    decide (d.root < memberCount g) && decide (1 ≤ d.count) && !(isMx d.dt && d.count % 32 != 0) &&
    (d.op != 0x0F || decide (d.count ≤ 256))

/-- The items of a batch and what they share (R243): none where they break its limits. -/
def batchOf (g : CollGroup) (rank : Nat) (aux : List Byte) (count : Nat) : Option (CollDesc × List CollDesc) :=
  let raw := (List.range count).map fun i => ofLe (slice aux (64 * i) 64)
  let ds := raw.map fun v => collDesc (v % 2 ^ 376)
  match ds with
  | [] => none
  | d :: _ =>
    let total := (ds.map fun x => x.count).sum
    let same (x : CollDesc) : Bool := x.op == d.op && x.red == d.red && x.dt == d.dt && x.wire == d.wire && x.root == d.root
    if raw.any (fun v => v / 2 ^ 376 != 0) || !ds.all same || !decide (1 ≤ d.op ∧ d.op ≤ 5) || decide (2 ^ 32 ≤ total) ||
        !ds.all (fun x => descOk g x rank) then none
    else some ({ d with count := total, cuts := if d.red = 5 then topCuts 0 0 (ds.map fun x => x.count) else [] }, ds)

/-- Judge an entry (R242): what it moves and its items, or the status of an invalid member. `aux`: the auxiliary region as read. -/
def judgeColl (s : State) (g : CollGroup) (w : Work) (d : CollDesc) (rank : Nat) (aux : List Byte) :
    Except Status (CollDesc × List CollItem) :=
  let n := memberCount g
  if !descOk g d rank then .error .invalidParam
  else
    match auxKeys s w n d with
    | some e => .error e
    | none =>
      if d.op = 0x0F then
        match batchOf g rank aux d.count with
        | none => .error .invalidParam
        | some b =>
          (match b.2.findSome? fun x => collKeys s w n rank x aux with
           | some e => .error e
           | none => .ok (b.1, b.2.map itemOf))
      else
        match collKeys s w n rank d aux with
        | some e => .error e
        | none => .ok (d, [itemOf d])

/-- The counts that a run exchanges leave for every other member device, and the own are kept (R246, R265, R266; layout: log entry
36). -/
def sendCounts (slot : Nat) (seq : W32) (d : CollDesc) (s : State) : State :=
  match groupGet s slot with
  | none => s
  | some g =>
    match tabGet g.runs seq.toNat with
    | none => s
    | some r =>
      let own := ownDev s
      let base := rankBase g own
      let n := memberCount g
      let table := (List.range g.localMembers).map fun m => memberCounts d n ((tabGet r.aux m).getD [])
      let keep (t : Tab (List Nat)) (m : Nat) : Tab (List Nat) :=
        ((table.getD m []).zipIdx).foldl (fun t p => tabSet t (countKey (base + m) p.2) p.1) t
      let s1 := runMod slot seq (fun r => { r with counts := (List.range g.localMembers).foldl keep r.counts }) s
      let bytesTo (dev : Nat) : List Byte :=
        (List.range g.localMembers).flatMap fun m => (List.range (membersAt g dev)).flatMap fun t =>
          ((table.getD m []).getD (rankBase g dev + t) []).flatMap fun c => leBytes 4 c
      let send (t : State) (dev : Nat) : State :=
        if dev = own then t
        else ((blockChunks ((bytesTo dev).length + 1) 16384 0 (bytesTo dev))).foldl (fun u c =>
          putChunk slot seq { leg := 5, west := false, num := c.1 / 16384 } dev c.2 0 0 u) t
      (memberDevices g).foldl send s1

/-- Credit limits that came early for the sequence that has this signature now hold (R253). -/
def takeEarly (slot : Nat) (seq : W32) (sig : W64) (s : State) : State :=
  match groupGet s slot with
  | none => s
  | some g =>
    let frag := BitVec.ofNat 16 (sigFragment sig 0)
    let raise (t : Tab Nat) (e : EarlyLimit) : Tab Nat := if (tabGet t e.key).getD 0 < e.limit then tabSet t e.key e.limit else t
    runMod slot seq (fun r => { r with limits := (g.early.filter fun e => e.frag == frag).foldl raise r.limits })
      (groupMod slot (fun g => { g with early := g.early.filter fun e => e.frag != frag }) s)

/-- All local members have posted a sequence: its signature and its word (R245, R246). -/
def formWord (slot : Nat) (seq : W32) (s : State) : State :=
  match groupGet s slot with
  | none => s
  | some g =>
    match tabGet g.runs seq.toNat with
    | none => s
    | some r =>
      if r.works.length < g.localMembers ∨ r.signature.isSome then s
      else
        let descs := r.works.filterMap fun p => (workGet s p.2).map fun w => (p.1, entryDesc w.entry)
        let sigs := descs.map fun p => signatureOf p.2 (itemsOf r p.1) g.id seq
        let sig := sigs.headD 0
        let bad := !r.invalid.isEmpty || sigs.any fun x => x != sig
        let s1 := takeEarly slot seq sig (runMod slot seq (fun r => { r with signature := some sig, mismatch := bad }) s)
        match r.desc with
        | some d => if hasCounts d.op ∧ !bad then sendCounts slot seq d s1 else s1
        | none => s1

/-- The status with which a sequence was aborted here before this member posted it. -/
def abortedStatus (g : CollGroup) (seq : W32) : Option Status := (g.aborted.find? fun a => a.1 == seq).map Prod.snd

/-- Take up one entry of a READY group: it becomes its member's next sequence (R236). One of a sequence that was aborted before it was posted
completes in its turn (R271). -/
def postEntry (slot rec : Nat) (s : State) : State :=
  match groupGet s slot, workGet s rec with
  | some g, some w =>
    let d := entryDesc w.entry
    if g.localMembers ≤ d.member then complete rec .invalidParam 0 none s
    else
      let seq := g.nextSeq.getD d.member 0
      let bump (g : CollGroup) : CollGroup := { g with nextSeq := g.nextSeq.set d.member (seq + 1) }
      let s1 := workMod rec (fun w => { w with msgNum := seq }) (groupMod slot bump s)
      match abortedStatus g seq with
      | some st =>
        if seqEnded g seq then complete rec st 0 none s1
        else runMod slot seq (fun r => { r with works := tabSet r.works d.member rec, outcome := some (r.outcome.getD st) }) (openRun slot seq s1)
      | none =>
        let x := readAny g.fn d.aux (auxRead d (memberCount g)) s1
        let out := judgeColl x.2 g w d (rankBase g (ownDev s) + d.member) x.1
        let s2 := openRun slot seq x.2
        let s3 := match out with
          | .error e =>
            runMod slot seq (fun r => { r with works := tabSet r.works d.member rec, invalid := tabSet r.invalid d.member e }) s2
          | .ok p =>
            runMod slot seq (fun r =>
              { r with works := tabSet r.works d.member rec, desc := some (r.desc.getD p.1), items := tabSet r.items d.member p.2,
                       aux := tabSet r.aux d.member x.1 }) s2
        formWord slot seq s3
  | _, _ => s

/-- Take up waiting entries in order; one whose auxiliary region has a page that is not present suspends the group's stream
(R110, R111). -/
def postWaiting (fuel slot : Nat) (s : State) : State :=
  match fuel with
  | 0 => s
  | fuel + 1 =>
    match groupGet s slot with
    | none => s
    | some g =>
      match g.waiting with
      | [] => s
      | rec :: rest =>
        if g.mode ≠ .ready ∨ collHeld s slot then s
        else
          let drop (t : State) : State := groupMod slot (fun g => { g with waiting := rest }) t
          match workGet s rec with
          | none => postWaiting fuel slot (drop s)
          | some w =>
            let d := entryDesc w.entry
            let n := memberCount g
            let keyOk := (auxKeys s w n d).isNone && descOk g d (rankBase g (ownDev s) + d.member)
            match (if keyOk then firstAbsent s g.fn [(d.aux, auxRead d n, d.auxKey)] else none) with
            | some x => collAbsent slot g.startSeq 0 rec x (if dmaBarred s g.fn then drop s else s)
            | none => postWaiting fuel slot (postEntry slot rec (drop s))

/-! ### Starting the data legs -/

/-- Every range that the local members' entries name: record, access (0 read, 1 write), DVA, length, key. -/
def runRanges (s : State) (g : CollGroup) (r : CollRun) (d : CollDesc) : List (Nat × Nat × Nat × Nat × Nat) :=
  let own := ownDev s
  let n := memberCount g
  let base := rankBase g own
  r.works.flatMap fun p =>
    let e := match workGet s p.2 with | some w => entryDesc w.entry | none => d
    let rank := base + p.1
    let srcLen := if d.op = 9 then ((List.range n).map fun x => (countsOf r x rank).sum).sum * moeToken d
      else (srcBytes d n rank ((tabGet r.aux p.1).getD [])).getD 0
    let dstLen := if d.op = 8 then ((List.range n).map fun x => (countsOf r x rank).sum).sum * moeToken d
      else if d.op = 7 then bytesOf d.dt (((List.range n).map fun x => (countsOf r x rank).headD 0).sum)
      else (dstBytes d n rank).getD 0
    if e.op = 0x0F then
      ((tabGet r.items p.1).getD []).flatMap fun it =>
        let di := { d with count := it.count }
        [(p.2, 0, it.src, (srcBytes di n rank []).getD 0, e.srcKey), (p.2, 1, it.dst, (dstBytes di n rank).getD 0, e.dstKey)]
    else
      [(p.2, 0, if e.inPlace then e.dst else e.src, srcLen, if e.inPlace then e.dstKey else e.srcKey),
       (p.2, 1, e.dst, dstLen, e.dstKey)]

/-- Local members whose destination, or for combine whose source, does not hold what the counts bring it, with their status (R265; the MoE
collectives are held to the bounds of their keys, log entry 105). -/
def overflowing (s : State) (g : CollGroup) (r : CollRun) (d : CollDesc) : List (Nat × Status) :=
  let n := memberCount g
  (List.range g.localMembers).filterMap fun m =>
    let rank := rankBase g (ownDev s) + m
    let it := itemOf1 r m
    let all (f : Nat → List Nat) : Nat := ((List.range n).map fun x => (f x).sum).sum
    match (tabGet r.works m).bind (workGet s), d.op with
    | some _, 7 => if it.count < all (fun x => countsOf r x rank) then some (m, .bounds) else none
    | some w, 8 => (collKey s w it.dstKey rightLocalWrite it.dst (all (fun x => countsOf r x rank) * moeToken d)).map fun e => (m, e)
    | some w, 9 => (collKey s w it.srcKey rightLocalRead it.src (all (fun x => countsOf r x rank) * moeToken d)).map fun e => (m, e)
    | _, _ => none

/-- Start the data legs of the group's current sequence, when nothing hinders: the direct legs after MATCH (R248), behind their auxiliary
results. -/
def startLegs (slot : Nat) (s : State) : State :=
  match groupGet s slot with
  | none => s
  | some g0 =>
    let seq := g0.startSeq
    match runDesc s slot seq with
    | none => s
    | some (g, r, d) =>
      let own := ownDev s
      if r.started ∨ r.signature.isNone ∨ r.outcome.isSome ∨ r.mismatch ∨ collHeld s slot then s
      else if isDirect d.op && (r.agreed != some true || (hasCounts d.op && !countsComplete g r own)) then s
      else
        let beyond := overflowing s g r d
        let hosts := (runRanges s g r d).filter fun x => dmaBarred s g.fn && touchesHost s g.fn x.2.2.1 x.2.2.2.1
        let aux (m : Nat) : List (Nat × Nat × Nat) := ((auxResult s g r d m).map Prod.fst).toList
        if !beyond.isEmpty then
          startAbort slot seq .collAborted false
            (runMod slot seq (fun r => { r with invalid := beyond.foldl (fun t p => tabSet t p.1 p.2) r.invalid }) s)
        else if !hosts.isEmpty then loseMember slot seq own (completeAll (hosts.map fun x => x.1) .flushed s)
        else
          match firstHeld s g.fn r.works aux (List.range g.localMembers) with
          | some x => collAbsent slot seq 1 x.1 x.2 s
          | none => (List.range g.localMembers).foldl (writeAux slot seq g r d) (runMod slot seq (fun r => { r with started := true }) s)

/-- Combine writes its tokens when every block has arrived (R266), and every page that they go to is present. -/
def finishCombine (slot : Nat) (seq : W32) (s : State) : State :=
  match runDesc s slot seq with
  | none => s
  | some (g, r, d) =>
    let ms := (List.range g.localMembers).filter fun m => (tabGet r.invalid m).isNone
    if d.op ≠ 9 ∨ !r.started ∨ r.writing ∨ !directRead g r d (ownDev s) ∨ r.done < directTotal g r d (ownDev s) ∨ collHeld s slot then s
    else
      match firstHeld s g.fn r.works (fun m => [((itemOf1 r m).dst, d.count * moeToken d, (itemOf1 r m).dstKey)]) ms with
      | some x => collAbsent slot seq 1 x.1 x.2 s
      | none =>
        ms.foldl (fun t m => placeAt g.fn (itemOf1 r m).dst (combineTokens g r d m (rankBase g (ownDev s) + m)) (.coll slot) t)
          (markWriting slot seq s)

/-! ### The pump -/

/-- Chunks of every sequence leave as their credit allows. -/
def flushAll (slot : Nat) (s : State) : State :=
  match groupGet s slot with
  | some g => g.runs.foldl (fun t p => flushChunks slot (BitVec.ofNat 32 p.1) t) s
  | none => s

/-- The data legs of the current sequence do all that they can. -/
def runLegs (slot : Nat) (seq : W32) (s : State) : State :=
  match runDesc s slot seq with
  | none => s
  | some (g, r, d) =>
    let n := chunkTotal d (memberCount g) + 1
    let s1 := if r.started && !isDirect d.op then originateAll slot seq (readAhead n true slot seq (readAhead n false slot seq s)) else s
    let s2 := placeWaits r.waits.length slot seq (sendDirects slot seq s1)
    let left (t : State) : Nat := match runGet t slot seq with | some x => x.writes.length | none => 0
    finishCombine slot seq (writeFinals (left s2) slot seq s2)

/-- Let the group do all that its state allows; sequences end in order (R236). -/
def collPump (fuel slot : Nat) (s : State) : State :=
  match fuel with
  | 0 => s
  | fuel + 1 =>
    match groupGet s slot with
    | none => s
    | some g0 =>
      if g0.mode = .broken then endBroken slot s
      else
        let s1 := postWaiting (g0.waiting.length + 1) slot s
        let each (f : Nat → W32 → State → State) (t : State) : State :=
          match groupGet t slot with
          | some g => g.runs.foldl (fun u p => f slot (BitVec.ofNat 32 p.1) u) t
          | none => t
        let s3 := startLegs slot (each readCounts (each combineWords s1))
        match groupGet s3 slot with
        | none => s3
        | some g =>
          let q := g.startSeq
          if g.mode = .broken then endBroken slot s3
          else
            match tabGet g.runs q.toNat with
            | none => if (abortedStatus g q).isSome then collPump fuel slot (closeRun slot s3) else s3
            | some r =>
              match r.outcome with
              | some .ok => if r.out.isEmpty then collPump fuel slot (closeRun slot s3) else flushAll slot s3
              | some st => collPump fuel slot (closeRun slot (completeRun slot q st s3))
              | none =>
                if r.agreed = some false then collPump fuel slot (closeRun slot (completeRun slot q .collMismatch s3))
                else
                  let s6 := flushAll slot (grantCredits slot q (runLegs slot q s3))
                  match groupGet s6 slot, runGet s6 slot q with
                  | some g6, some r6 =>
                    if g6.mode = .broken then endBroken slot s6
                    else if r6.outcome.isSome then collPump fuel slot s6
                    else if runFinished s6 slot g6 r6 then collPump fuel slot (completeRun slot q .ok s6)
                    else s6
                  | _, _ => s6

/-- Let a group go on; it can end no more sequences at once than it holds or has aborted. -/
def collGo (slot : Nat) (s : State) : State :=
  match groupGet s slot with
  | some g => collPump (2 * (g.runs.length + g.aborted.length + g.waiting.length) + 4) slot s
  | none => s

end Sys2Proof.Machine
end

