-- ==== Sys2Proof/Machine/CollCmds.lean ====
section
/-! DEFINITION. The commands and events of collectives (chapter 9): setup and teardown (R232 to R235, R255 to R257, R276), entries
(R242), flits (R249, R254, R260 to R263), engine passes (R252, R261), timers and member loss (R262, R270). -/

namespace Sys2Proof.Machine

/-! ### Reservation and setup -/

/-- Bytes of spill area: 4 GiB of each usable tarn, less 1/64 and 32 MiB for each channel that it has lost (Table 12-3). -/
def spillTotal (s : State) : Nat :=
  (((List.range 4).filter fun t => bit s.dev.inventory.tarns.toNat t).map fun t =>
    2 ^ 32 - 96 * 2 ^ 20 * ((List.range 64).filter fun c => !bit s.tarns.usable.toNat (64 * t + c)).length).sum

/-- Reserve for a group, if it fits: fathoms, or spill area for a request with `SPILL` (R255, R256). `first`: no request waits
before it; `spill`: the bytes of spill area in all. -/
def reserve (first : Bool) (spill : Nat) (g : CollGroup) (c : Collectives) : Option (CollGroup × Collectives) :=
  if first && decide (g.fathoms ≤ c.free) then some ({ g with mode := .setup, reserved := true }, { c with free := c.free - g.fathoms })
  else if g.spill && decide (c.spillUsed + spillBytes g.fathoms ≤ spill) then
    some ({ g with mode := .setup, reserved := true, spilled := true }, { c with spillUsed := c.spillUsed + spillBytes g.fathoms })
  else none

/-- The record that a member device contributes to the setup exchange (R234). -/
def setupRecord (g : CollGroup) (dev : Nat) : Nat :=
  let crc := crc32c (leBytes 4 g.id.toNat ++ leBytes 8 g.rowMask.toNat ++ leBytes 8 g.colMask.toNat ++ leBytes 1 g.tc)
  pack [(0, 12, dev), (12, 5, g.localMembers), (17, 1, flag g.spilled), (32, 32, crc.toNat)]

/-- A record of the exchange goes to a device; its chunk is held until it is acknowledged (R262). -/
def putRecord (slot : Nat) (id : ChunkId) (peer : Nat) (bytes : List Byte) (s : State) : State :=
  let h := { newChunk id peer bytes 0 0 with sent := true, sentAt := s.dev.now, firstAt := s.dev.now }
  sendChunk slot 0 false h (groupMod slot (fun g => { g with setupOut := g.setupOut ++ [h] }) s)

/-- The record of member device `origin` goes on along legs 2 and 3: along the column until it has gone round, and into each row (R234, log
entry 38). `column`: it goes on along the column. -/
def passRecord (slot origin : Nat) (column : Bool) (bytes : List Byte) (s : State) : State :=
  match groupGet s slot with
  | none => s
  | some g =>
    let own := ownDev s
    let id : ChunkId := { leg := 6, west := false, num := (memberDevices g).idxOf origin }
    let put (leg : Nat) (t : State) : State :=
      let peer := legNext g own leg false
      let fresh := if leg = 2 then peer / 64 != origin / 64 else peer % 64 != origin % 64
      if fresh && peer != own then putRecord slot id peer bytes t else t
    put 3 (if column then put 2 s else s)

/-- Keep the record of a device. -/
def keepRecord (slot v : Nat) (s : State) : State :=
  groupMod slot (fun g => { g with records := tabSet g.records (bits v 0 12) (BitVec.ofNat 64 v) }) s

/-- Take part in the setup exchange with the own record (R234). -/
def startExchange (slot : Nat) (s : State) : State :=
  match groupGet s slot with
  | none => s
  | some g =>
    let own := setupRecord g (ownDev s)
    passRecord slot (ownDev s) true (beBytes 8 own) (keepRecord slot own s)

/-- A record has arrived from device `src`: one that is new is kept and goes on. -/
def takeRecord (slot src : Nat) (bytes : List Byte) (s : State) : State :=
  match groupGet s slot with
  | none => s
  | some g =>
    let v := ofBe (bytes.take 8)
    let origin := bits v 0 12
    if (tabGet g.records origin).isSome then s
    else passRecord slot origin (src % 64 == ownDev s % 64 && src != ownDev s) bytes (keepRecord slot v s)

def specCollSetup : CmdSpec :=
  { opcode := 0x0501, issuer := .any, cls := .any,
    fields := [(0, 2), (2, 1), (3, 1), (4, 4), (8, 8), (16, 8), (24, 2), (26, 1), (28, 4)] }

/-- The group that `coll.setup` defines. -/
def newGroup (c : Cmd) (s : State) : CollGroup :=
  { fn := namedOf c, id := BitVec.ofNat 32 (param c 4 4), rowMask := BitVec.ofNat 64 (param c 8 8),
    colMask := BitVec.ofNat 64 (param c 16 8), tc := param c 3 1, localMembers := param c 2 1, fathoms := param c 24 2,
    spill := bit (param c 26 1) 0, spilled := false, reserved := false, mode := .waiting,
    timeoutAt := if param c 28 4 = 0 then none else some (s.dev.now + 1000000 * param c 28 4), devices := [],
    records := [], setupOut := [], rx := [], early := [], heard := [], silent := [],
    nextSeq := List.replicate (param c 2 1) 0, startSeq := 0, runs := [], waiting := [], aborted := [], failed := 0,
    tearing := false, order := s.coll.nextOrder, record := none }

def doCollSetup (c : Cmd) (s : State) : CmdOut :=
  let slot := param c 0 2
  let g := newGroup c s
  needParam (decide (slot < 4096)) s <|
  if (groupGet s slot).isSome then cmdFail s .busy
  else
    needParam (decide (1 ≤ g.localMembers ∧ g.localMembers ≤ 16) && decide (g.tc < 4) && s.fabric.ident.isSome &&
      isMemberDevice g (ownDev s) && decide (16 ≤ g.fathoms ∧ g.fathoms ≤ 512) && decide (param c 26 1 < 2) &&
      decide (param c 28 4 ≤ 600000)) s <|
    let first := !(s.coll.groups.any fun p => p.2.mode == .waiting)
    let put (g : CollGroup) (x : Collectives) : State :=
      collMod (fun _ => { x with groups := tabSet x.groups slot g, nextOrder := x.nextOrder + 1 }) s
    match reserve first (spillTotal s) g s.coll with
    | some p => .deferred (startExchange slot (put p.1 p.2)) (.collSetup slot)
    | none => .deferred (put g s.coll) (.collSetup slot)

/-- COLL_SETUP (R232). -/
def execCollSetup (c : Cmd) (s : State) : Host.Outcome State Fault Refusal := .next (runCmd specCollSetup doCollSetup c s)

/-- The request that waits longest. -/
def oldestWaiting (s : State) : Option (Nat × CollGroup) :=
  (s.coll.groups.filter fun p => p.2.mode == .waiting).foldl (fun best p =>
    match best with
    | none => some p
    | some b => if p.2.order < b.2.order then some p else some b) none

/-- FATHOM_RESERVATION_GRANT (R255). -/
def execFathomReservationGrant (s : State) : Host.Outcome State Fault Refusal :=
  whileLit s <|
  match oldestWaiting s with
  | none => .next s
  | some (slot, g) =>
    match reserve true (spillTotal s) g s.coll with
    | none => .next s
    | some p => .next (startExchange slot (collMod (fun _ => { p.2 with groups := tabSet p.2.groups slot p.1 }) s))

/-- What the records of every member device say: `LOCAL_MEMBERS` by fabric number, and whether all CRCs agree with this device's. -/
def readRecords (g : CollGroup) : Tab Nat × Bool :=
  let crc := bits (setupRecord g 0) 32 32
  (g.records.map (fun p => (p.1, bits p.2.toNat 12 5)), g.records.all fun p => bits p.2.toNat 32 32 == crc)

/-- COLL_SETUP_READY (R234): the exchange has brought the records of all member devices, which are `records`. While the journal has no room for the
`COLL_GROUP` record, the group waits (R17). -/
def execCollSetupReady (slot : Nat) (records : List W64) (s : State) : Host.Outcome State Fault Refusal :=
  whileLit s <|
  match groupGet s slot with
  | none => .next s
  | some g =>
    let t := readRecords g
    if g.mode ≠ .setup ∨ t.1.map Prod.fst ≠ memberDevices g ∨ g.records.map Prod.snd ≠ records then .next s
    else
      let g1 := { g with devices := t.1, mode := .ready }
      if !t.2 ∨ 65536 < memberCount g1 then .next (failSetup slot .invalidParam s)
      else
        match journalPut slot (.collGroup slot) s with
        | none => .next s
        | some (rec, s1) =>
          let s2 := groupMod slot (fun _ => { g1 with record := some rec }) s1
          let r0 := (if g.spilled then 0 else g.fathoms) + 1024 * flag g.spilled
          let r1 := rankBase g1 (ownDev s) + 2 ^ 32 * memberCount g1
          let sel (d : Deferral) : Option (Status × Nat × Nat × Nat) :=
            if d = .collSetup slot then some (.ok, r0, r1, (memberDevices g).length) else none
          .next (collGo slot (finishCmds sel s2))

/-- COLL_SETUP_TIMEOUT (R257). -/
def execCollSetupTimeout (slot : Nat) (s : State) : Host.Outcome State Fault Refusal :=
  whileLit s <|
  match groupGet s slot with
  | none => .next s
  | some g =>
    match g.mode, g.timeoutAt with
    | .waiting, some t => .next (failSetup slot .collNores (advanceTo t s))
    | .setup, some t => .next (failSetup slot .collNores (advanceTo t s))
    | _, _ => .next s

/-! ### Teardown, query, abort -/

/-- The group that a command names, if its function owns it (R276). -/
def withGroup (c : Cmd) (s : State) (k : Nat → CollGroup → CmdOut) : CmdOut :=
  let slot := param c 0 2
  match groupGet s slot with
  | some g => if g.fn = namedOf c then k slot g else cmdFail s .invalidParam
  | none => cmdFail s .invalidParam

/-- The group is torn down (R276, R88): a group that is not READY yet ends its setup, another one aborts and breaks. -/
def tearDown (slot : Nat) (s : State) : State :=
  match groupGet s slot with
  | none => s
  | some g =>
    let sel (d : Deferral) : Option (Status × Nat × Nat × Nat) := if d = .collSetup slot then some (.collAborted, 0, 0, 0) else none
    let s1 := groupMod slot (fun g => { g with tearing := true }) (unsuspend (.coll slot) (finishCmds sel s))
    collGo slot (startAbort slot g.startSeq .collAborted true s1)

def specCollTeardown : CmdSpec := { opcode := 0x0502, issuer := .any, cls := .any, fields := [(0, 2)] }

def doCollTeardown (c : Cmd) (s : State) : CmdOut :=
  withGroup c s fun slot g => if g.tearing then cmdFail s .busy else .deferred (tearDown slot s) (.collTeardown slot)

/-- COLL_TEARDOWN (R276). -/
def execCollTeardown (c : Cmd) (s : State) : Host.Outcome State Fault Refusal := .next (runCmd specCollTeardown doCollTeardown c s)

/-- COLL_TEARDOWN_DONE (R276): the writes already issued have completed. -/
def execCollTeardownDone (slot : Nat) (s : State) : Host.Outcome State Fault Refusal :=
  whileLit s <|
  match groupGet s slot with
  | none => .next s
  | some g =>
    if !g.tearing ∨ contOpen s (.coll slot) then .next s
    else
      let sel (d : Deferral) : Option (Status × Nat × Nat × Nat) := if d = .collTeardown slot then some (.ok, 0, 0, 0) else none
      .next (finishCmds sel (dropGroup slot s))

def specCollQuery : CmdSpec := { opcode := 0x0503, issuer := .any, cls := .any, fields := [(0, 2)] }

def doCollQuery (c : Cmd) (s : State) : CmdOut :=
  withGroup c s fun _ g =>
    let mode := match g.mode with | .waiting | .setup => 0 | .ready => 1 | .broken => 2
    let fathoms := if g.spilled ∨ g.mode = .waiting then 0 else g.fathoms
    .done s .ok (mode + 4 * fathoms + 4096 * flag g.spilled) g.startSeq.toNat g.failed

/-- COLL_QUERY (R276). -/
def execCollQuery (c : Cmd) (s : State) : Host.Outcome State Fault Refusal := .next (runCmd specCollQuery doCollQuery c s)

def specCollAbort : CmdSpec := { opcode := 0x0504, issuer := .any, cls := .any, fields := [(0, 2), (4, 4)] }

def doCollAbort (c : Cmd) (s : State) : CmdOut :=
  withGroup c s fun slot g =>
    let seq := BitVec.ofNat 32 (param c 4 4)
    if g.mode ≠ .ready ∨ seqEnded g seq then cmdOk s else cmdOk (collGo slot (startAbort slot seq .collAborted false s))

/-- COLL_ABORT_CMD (R271). -/
def execCollAbortCmd (c : Cmd) (s : State) : Host.Outcome State Fault Refusal := .next (runCmd specCollAbort doCollAbort c s)

/-! ### Entries -/

/-- POST_COLLECTIVE (R242): entries of a group are taken up in the order of their acceptance. -/
def execPostCollective (rec : Nat) (s : State) : Host.Outcome State Fault Refusal :=
  whileLit s <|
  match readyWork s rec .coll with
  | none => .next s
  | some w =>
    let slot := entryContext w.entry
    let earlier := (works s).any fun p => entryOp p.2.entry == 0x20 && entryContext p.2.entry == slot && !p.2.begun &&
      p.2.state == .accepted && decide (p.2.order < w.order)
    if earlier then .next s
    else
      let s1 := workMod rec (fun x => { x with begun := true }) s
      match groupGet s slot with
      | none => .next (complete rec .collAborted 0 none s1)
      | some g =>
        if g.mode = .broken then .next (complete rec .collAborted 0 none s1)
        else .next (collGo slot (groupMod slot (fun g => { g with waiting := g.waiting ++ [rec] }) s1))

/-- A suspended collective goes on after `mr.fault.reply` (R112). -/
def collResume (slot : Nat) (s : State) : State := collGo slot (unsuspend (.coll slot) s)

/-- An entry of a local member ends before its sequence does (R82, R112, R166, R270, R272): the member is lost, unless every local source
has been read in full; then the other members end normally and nothing more is written for this one. -/
def collEndMember (slot rec : Nat) (status : Status) (s : State) : State :=
  match groupGet s slot with
  | none => s
  | some g =>
    let s1 := groupMod slot (fun g => { g with waiting := g.waiting.filter fun x => x != rec }) (unsuspend (.coll slot) s)
    match g.runs.find? fun p => p.2.works.any fun q => q.2 == rec with
    | none => collGo slot (loseMember slot g.startSeq (ownDev s) (complete rec status 0 none s1))
    | some p =>
      let seq := BitVec.ofNat 32 p.1
      let s2 := complete rec status (2 ^ 63 * flag p.2.writing) none s1
      let member := match p.2.works.find? fun q => q.2 == rec with | some q => q.1 | none => 0
      if sourcesRead g p.2 (ownDev s) then
        collGo slot (runMod slot seq (fun r => { r with invalid := tabSet r.invalid member status }) s2)
      else collGo slot (loseMember slot seq (ownDev s) s2)

/-! ### Chunks -/

/-- A collective flit that has reached this device. -/
def collFlitGood (s : State) (port : Nat) (f : Flit) (type : Nat) : Bool :=
  flitSound f && f.type.toNat == type &&
  (match portGet s port with
   | some x => x.active && (x.role == .spur || f.destDev.toNat == ownDev s)
   | none => false)

/-- Slot, low chunk number, leg, and direction that a collective flit names (Table 9-5). -/
def flitSlot (f : Flit) : Nat := f.chunkSeq.toNat / 4096
def flitLow (f : Flit) : Nat := f.chunkSeq.toNat % 4096
def flitLeg (f : Flit) : Nat := f.destPort.toNat % 8
def flitWest (f : Flit) : Bool := bit f.destPort.toNat 3

/-- Staging fathoms that a pass of a group in spill mode borrows: those of its operands, and one for its output (R256, log entry 104). -/
def stagingNeed (s : State) (p : EnginePass) : Nat :=
  match runDesc s p.slot p.seq with
  | some (g, _, d) => if g.spilled then (if p.chunk.leg = 0 then contribFathoms d else 1) + 1 else 0
  | none => 0

/-- Staging fathoms that no pass has borrowed (R255). -/
def stagingFree (s : State) : Nat := 64 - (s.coll.engines.map fun e => e.2.borrowed).sum

/-- Engines in service and idle take the passes that wait, each the oldest whose fathoms are there. -/
def startPasses (fuel : Nat) (s : State) : State :=
  match fuel with
  | 0 => s
  | fuel + 1 =>
    match (List.range 8).find? (fun e => bit s.dev.inventory.engines.toNat e && (tabGet s.coll.engines e).isNone),
      s.coll.queue.find? fun p => decide (stagingNeed s p ≤ stagingFree s) with
    | some e, some p =>
      startPasses fuel (collMod (fun c =>
        { c with engines := tabSet c.engines e { p with borrowed := stagingNeed s p }, queue := dropFirst (fun x => x == p) c.queue }) s)
    | _, _ => s

/-- Acknowledge a chunk as it stands, with the limit that its stream now has (R253, R258, R262, R264). -/
def ackChunk (slot : Nat) (seq : W32) (sig : W64) (src : Nat) (id : ChunkId) (status : Nat) (s : State) : State :=
  match runDesc s slot seq with
  | none => sendCollAck slot sig src id status id.num 0 s
  | some (g, r, d) =>
    if id.leg ≤ 3 then
      let limit := creditLimit s slot g r d id.leg id.west
      sendCollAck slot sig src id status id.num limit (noteLimit slot seq id limit s)
    else if id.leg = 4 then
      let limit := directLimit g r src
      sendCollAck slot sig src id status id.num limit (runMod slot seq (fun r => { r with granted := tabSet r.granted (100 + src) limit }) s)
    else sendCollAck slot sig src id status id.num 0 s

/-- The ranks and the place that the tail of a direct-leg chunk names (Table 9-6): the bytes as they wait for their place. -/
def directWait (d : CollDesc) (tail bytes : List Byte) : DirectWait :=
  let ranks := ofBe (slice tail 28 4)
  { src := ranks / 65536, dst := ranks % 65536, off := ofBe (slice tail 24 4) * directChunk d, remote := true, bytes := bytes }

/-- A verified chunk of the data legs takes its effect (R252 to R254, R264). -/
def useChunk (slot : Nat) (seq : W32) (id : ChunkId) (bytes tail : List Byte) (fails : Nat) (s : State) : State :=
  match runDesc s slot seq with
  | none => s
  | some (g, _, d) =>
    if id.leg = 4 then landDirect slot seq (directWait d tail bytes) s
    else if id.leg ≤ 1 then
      let p : EnginePass :=
        { slot := slot, seq := seq, chunk := id, arrived := bytes, residueFails := 0, checkFails := fails, borrowed := 0 }
      startPasses 9 (collMod (fun c => { c with queue := c.queue ++ [p] }) s)
    else takeGather slot seq g d id.leg id.num bytes s

/-- One more failed check of a chunk (R263): the third aborts. -/
def failCheck (slot : Nat) (seq : W32) (fails : Nat) (s : State) : State :=
  let s1 := groupMod slot (fun g => { g with failed := g.failed + 1 }) s
  if 3 ≤ fails then startAbort slot seq .collCheck false s1 else s1

/-- A flit belongs to a chunk that is being received: the same stream and number, and a signature that agrees with its other flits'
(R249). -/
def rxJoins (f : Flit) (x : RxChunk) : Bool :=
  x.src == f.srcDev.toNat && x.id.leg == flitLeg f && x.id.west == flitWest f && x.id.num == flitLow f &&
    (match tabGet x.frags (f.flitIndex.toNat % 4) with | some g => g == f.sigFrag | none => true)

/-- The bytes of a chunk whose data flits and tail have all arrived. -/
def rxBytes (x : RxChunk) (tail : List Byte) : Option (List Byte) :=
  let n := ofBe (slice tail 6 2)
  let len := if n = 0 then 16384 else n
  let parts := (List.range (ceilDiv len 128)).map fun i => (x.flits.find? fun p => p.1 == i).map Prod.snd
  if parts.any fun p => p.isNone then none else some ((parts.flatMap fun p => p.getD []).take len)

/-- A chunk whose CRC does not fit is to come again; how often it has failed is kept (R262, R263). -/
def awaitAgain (slot : Nat) (x : RxChunk) (s : State) : State :=
  groupMod slot (fun g => { g with rx := g.rx ++ [{ x with flits := [], tail := none, fails := x.fails + 1 }] }) s

/-- Judge a chunk of the setup exchange (R234): a device that takes part in it, or has, acknowledges it. -/
def judgeRecord (slot : Nat) (x : RxChunk) (id : ChunkId) (good : Bool) (bytes : List Byte) (s : State) : State :=
  if good then sendCollAck slot 0 x.src id 0 id.num 0 (takeRecord slot x.src bytes s)
  else sendCollAck slot 0 x.src id 1 id.num 0 (awaitAgain slot x (groupMod slot (fun g => { g with failed := g.failed + 1 }) s))

/-- Judge a chunk of counts of a sequence that has not ended (R246): it is kept until who sent it can be judged (R249). -/
def judgeCounts (slot : Nat) (seq : W32) (sig : W64) (x : RxChunk) (id : ChunkId) (good : Bool) (bytes : List Byte) (s : State) : State :=
  let s1 := openRun slot seq s
  let known := match runGet s1 slot seq with | some r => r.taken.contains (x.src, id) | none => false
  if !good then failCheck slot seq (x.fails + 1) (ackChunk slot seq sig x.src id 1 (awaitAgain slot x s1))
  else if known then ackChunk slot seq sig x.src id 0 s1
  else
    let c : CountChunk := { src := x.src, num := id.num, sig := sig, bytes := bytes }
    ackChunk slot seq sig x.src id 0
      (runMod slot seq (fun r => { r with taken := r.taken ++ [(x.src, id)], countIn := r.countIn ++ [c] }) s1)

/-- The current sequence expects this chunk of its data legs: of a reduce leg, its addend is here (R252, R253). -/
def expectsChunk (g : CollGroup) (r : CollRun) (d : CollDesc) (own : Nat) (id : ChunkId) (tail : List Byte) : Bool :=
  let w := directWait d tail []
  r.started &&
  (if id.leg = 4 then isDirect d.op && decide (rankBase g own ≤ w.dst ∧ w.dst < rankBase g own + g.localMembers)
   else arrivesOn g d own id.leg id.num &&
     (match id.leg with | 0 => (tabGet r.contrib id.num).isSome | 1 => (tabGet r.xres id.num).isSome | _ => true))

/-- Judge a chunk of the current sequence's data legs (R249, R260, R262, R263). A direct-leg chunk that fails has been placed all the same, and
is placed again (R264). -/
def judgeData (slot : Nat) (g : CollGroup) (r : CollRun) (x : RxChunk) (id : ChunkId) (sig : W64) (good : Bool) (tail bytes : List Byte)
    (s : State) : State :=
  let seq := g.startSeq
  if r.signature != some sig then
    startAbort slot seq .collMismatch false (runMod slot seq (fun r => { r with mismatch := true }) (dropFlit s))
  else
    match r.desc with
    | none => dropFlit s
    | some d =>
      let own := ownDev s
      if !good then
        let s1 := ackChunk slot seq sig x.src id 1 (awaitAgain slot x s)
        let w := directWait d tail bytes
        let dest := directDest g r d own w.src w.dst w.off bytes.length
        let lands := id.leg == 4 && expectsChunk g r d own id tail && !collHeld s slot &&
          (firstAbsent s g.fn (underKey (itemOf1 r dest.1).dstKey dest.2)).isNone
        failCheck slot seq (x.fails + 1) (if lands then placeDirect slot seq g r d w.src w.dst w.off bytes s1 else s1)
      else if r.taken.contains (x.src, id) then ackChunk slot seq sig x.src id 0 s
      else if !expectsChunk g r d own id tail then dropFlit s
      else
        ackChunk slot seq sig x.src id 0
          (useChunk slot seq id bytes tail x.fails (runMod slot seq (fun r => { r with taken := r.taken ++ [(x.src, id)] }) s))

/-- Judge a complete chunk. One of a sequence that has ended here was used before: it is acknowledged again, and not used (R262; log entry
106); one of an aborted sequence is only dropped (R271). -/
def judgeChunk (slot : Nat) (x : RxChunk) (tail bytes : List Byte) (s : State) : State :=
  match groupGet s slot with
  | none => s
  | some g =>
    let seq := BitVec.ofNat 32 (ofBe (slice tail 8 4))
    let id : ChunkId := { x.id with num := ofBe (slice tail 12 4) }
    let sig := BitVec.ofNat 64 (ofBe (slice tail 16 8))
    let good := (crc32c bytes).toNat == ofBe (slice tail 0 4)
    if id.leg = 6 then judgeRecord slot x id good bytes s
    else if (abortedStatus g seq).isSome then dropFlit s
    else if seqEnded g seq then (if good then sendCollAck slot sig x.src id 0 id.num 0 (dropFlit s) else dropFlit s)
    else if id.leg = 5 then judgeCounts slot seq sig x id good bytes s
    else
      match tabGet g.runs seq.toNat with
      | some r => if seq ≠ g.startSeq ∨ r.signature.isNone then dropFlit s else judgeData slot g r x id sig good tail bytes s
      | none => dropFlit s

/-- A flit of a group has come from a device (R472). -/
def hearColl (slot src : Nat) (s : State) : State :=
  groupMod slot (fun g => { g with heard := tabSet g.heard src s.dev.now, silent := g.silent.filter fun d => d != src }) s

/-- Put a data flit or a tail into the chunk it belongs to, and judge the chunk once it is complete. A device that still waits for its
reservation takes no part in the exchange, and a broken group takes no chunks. -/
def takeChunkFlit (f : Flit) (s : State) : State :=
  let slot := flitSlot f
  let leg := flitLeg f
  match groupGet s slot with
  | none => dropFlit s
  | some g =>
    if leg = 7 ∨ g.mode = .waiting ∨ g.mode = .broken then dropFlit s
    else
      let none_ : RxChunk :=
        { src := f.srcDev.toNat, id := { leg := leg, west := flitWest f, num := flitLow f }, flits := [], tail := none, frags := [], fails := 0 }
      let old := (g.rx.find? (rxJoins f)).getD none_
      let x := { old with frags := tabSet old.frags (f.flitIndex.toNat % 4) f.sigFrag }
      let y := if f.type = 0x20 then { x with flits := (f.flitIndex.toNat, f.payload) :: x.flits.filter fun p => p.1 != f.flitIndex.toNat }
        else { x with tail := some f.payload }
      let rest := dropFirst (rxJoins f) g.rx
      let with_ (l : List RxChunk) : State := hearColl slot f.srcDev.toNat (groupMod slot (fun g => { g with rx := l }) s)
      match y.tail.bind fun tail => (rxBytes y tail).map fun b => (tail, b) with
      | none => with_ (rest ++ [y])
      | some (tail, bytes) => collGo slot (judgeChunk slot y tail bytes (with_ rest))

/-- COLL_DATA (R254). -/
def execCollData (port : Nat) (f : Flit) (s : State) : Host.Outcome State Fault Refusal :=
  whileLit s <|
  if collFlitGood s port f 0x20 then .next (takeChunkFlit f (hearFlit port s)) else .next (dropFlit s)

/-- COLL_TAIL (R260). -/
def execCollTail (port : Nat) (f : Flit) (s : State) : Host.Outcome State Fault Refusal :=
  whileLit s <|
  if collFlitGood s port f 0x21 then .next (takeChunkFlit f (hearFlit port s)) else .next (dropFlit s)

/-! ### Acknowledgements, agreement, aborts -/

/-- The sequence that a flit's fragment names, the current one first (R249). -/
def runOfFrag (g : CollGroup) (frag : W16) : Option W32 :=
  let names (p : Nat × CollRun) : Bool := match p.2.signature with | some sig => frag.toNat == sigFragment sig 0 | none => false
  (((g.runs.filter fun p => p.1 == g.startSeq.toNat) ++ g.runs).find? names).map fun p => BitVec.ofNat 32 p.1

/-- A chunk that has failed its check goes out again at once (R262). -/
def resendHeld (slot : Nat) (seq : W32) (h : Option HeldChunk) (s : State) : State :=
  match h with
  | some h => sendChunk slot seq true h s
  | none => s

/-- A `COLL_ACK` (R262): a good chunk is freed, a failed one sent again at once, an agreement word is known to have arrived, and the
credit limit of the stream is taken; one that comes before its sequence is known here is kept for it (R253). -/
def takeCollAck (f : Flit) (s0 : State) : State :=
  let slot := flitSlot f
  let leg := flitLeg f
  let src := f.srcDev.toNat
  let status := ofBe (slice f.payload 0 1)
  let num := ofBe (slice f.payload 4 4)
  let limit := ofBe (slice f.payload 8 4)
  let id : ChunkId := { leg := leg, west := flitWest f, num := num }
  let key := limitKey id src
  match groupGet s0 slot with
  | none => dropFlit s0
  | some g =>
    let s := hearColl slot src s0
    let mine (h : HeldChunk) : Bool := h.peer == src && h.id == id && h.sent
    let take (l : List HeldChunk) : List HeldChunk :=
      match status with
      | 0 => dropFirst mine l
      | 1 => l.map fun h => if mine h then { h with sentAt := s.dev.now } else h
      | _ => l
    let again (l : List HeldChunk) : Option HeldChunk := if status = 1 then l.find? mine else none
    let raise (t : Tab Nat) : Tab Nat := if (tabGet t key).getD 0 < limit then tabSet t key limit else t
    let known (r : CollRun) : CollRun :=
      { r with agreeOut := dropFirst (fun a => a.leg == leg && a.west == flitWest f && a.peer == src) r.agreeOut, limits := raise r.limits }
    if status = 2 then collGo slot (runMod slot (BitVec.ofNat 32 num) known s)
    else if leg = 6 then resendHeld slot 0 (again g.setupOut) (groupMod slot (fun g => { g with setupOut := take g.setupOut }) s)
    else
      match runOfFrag g f.sigFrag with
      | some seq =>
        let out := match tabGet g.runs seq.toNat with | some r => r.out | none => []
        collGo slot (resendHeld slot seq (again out) (runMod slot seq (fun r => { r with out := take r.out, limits := raise r.limits }) s))
      | none =>
        let e : EarlyLimit := { key := key, frag := f.sigFrag, limit := limit }
        if status = 0 ∧ leg ≤ 4 ∧ limit ≠ 0 then
          groupMod slot (fun g => { g with early := g.early.filter (fun x => !(x.key == key && x.frag == f.sigFrag)) ++ [e] }) s
        else s

/-- COLL_ACK (R262). -/
def execCollAck (port : Nat) (f : Flit) (s : State) : Host.Outcome State Fault Refusal :=
  whileLit s <|
  if collFlitGood s port f 0x22 && decide (ofBe (slice f.payload 0 1) ≤ 2) then .next (takeCollAck f (hearFlit port s))
  else .next (dropFlit s)

/-- A `COLL_AGREE` (R246): it is acknowledged; a combining word is kept, a result taken and passed on. -/
def takeCollAgree (f : Flit) (s : State) : State :=
  let slot := flitSlot f
  let leg := flitLeg f
  let src := f.srcDev.toNat
  let sig := BitVec.ofNat 64 (ofBe (slice f.payload 0 8))
  let seq := BitVec.ofNat 32 (ofBe (slice f.payload 8 4))
  let flags := ofBe (slice f.payload 12 4)
  match groupGet s slot with
  | none => dropFlit s
  | some g =>
    let id : ChunkId := { leg := leg, west := flitWest f, num := seq.toNat }
    let limit := match tabGet g.runs seq.toNat with
      | some r => (tabGet r.granted (2 * leg + flag id.west)).getD 0
      | none => 0
    let s1 := sendCollAck slot sig src id 2 seq.toNat limit (hearColl slot src s)
    if g.mode = .broken ∨ seqEnded g seq ∨ (abortedStatus g seq).isSome then s1
    else
      let s2 := openRun slot seq s1
      if bit flags 1 then
        match runGet s2 slot seq with
        | some r =>
          if r.agreed.isSome then s2
          else collGo slot (takeResult slot seq (bit flags 0 || (r.signature.isSome && r.signature != some sig)) s2)
        | none => s2
      else
        let w : AgreeWord := { leg := leg, src := src, sig := sig, mismatch := bit flags 0 }
        let add (l : List AgreeWord) : List AgreeWord := if l.any fun x => x.leg == leg && x.src == src then l else l ++ [w]
        collGo slot (runMod slot seq (fun r => { r with agreeIn := add r.agreeIn }) s2)

/-- COLL_AGREE (R246). -/
def execCollAgree (port : Nat) (f : Flit) (s : State) : Host.Outcome State Fault Refusal :=
  whileLit s <|
  if collFlitGood s port f 0x23 && decide (flitLeg f ≤ 3) then .next (takeCollAgree f (hearFlit port s)) else .next (dropFlit s)

/-- The status that a code of Table 9-13 names. -/
def collStatus (code : Nat) : Status :=
  ([Status.collMismatch, .collNores, .collCheck, .collAborted].find? fun x => statusCode x == code).getD .collAborted

/-- A `COLL_ABORT` (R271): the first of a sequence, and the first that breaks the group, goes on along the rings and takes
effect. -/
def takeCollAbort (f : Flit) (s : State) : State :=
  let slot := flitSlot f
  let seq := BitVec.ofNat 32 (ofBe (slice f.payload 0 4))
  let w := ofBe (slice f.payload 4 4)
  match groupGet s slot with
  | none => dropFlit s
  | some g =>
    let broken := bit w 16
    let known := g.aborted.any fun a => a.1 == seq
    if known && (!broken || g.mode == .broken) then s
    else
      let note (g : CollGroup) : CollGroup :=
        if seqEnded g seq ∧ !known then { g with aborted := g.aborted ++ [(seq, collStatus (w % 65536))] } else g
      collGo slot (startAbort slot seq (collStatus (w % 65536)) broken (groupMod slot note (hearColl slot f.srcDev.toNat s)))

/-- COLL_ABORT (R271). -/
def execCollAbort (port : Nat) (f : Flit) (s : State) : Host.Outcome State Fault Refusal :=
  whileLit s <|
  if collFlitGood s port f 0x24 then .next (takeCollAbort f (hearFlit port s)) else .next (dropFlit s)

/-! ### Engines -/

/-- The output of a pass goes on (R252): the arriving chunk and the own contribution, or on Y legs the own result of X reduce. -/
def finishPass (p : EnginePass) (s : State) : State :=
  match runDesc s p.slot p.seq with
  | none => s
  | some (g, r, d) =>
    let k := p.chunk.num
    let lens := listLens d (itemsOf r 0) k
    let seed := s.dev.fresh
    let s1 := { s with dev := { s.dev with fresh := seed + 64 * (lens.length + 1) } }
    if p.chunk.leg = 0 then
      afterX p.slot p.seq g d k (enginePass d seed lens 0 ((tabGet r.contrib k).getD []) p.arrived)
        (runMod p.slot p.seq (fun r => { r with contrib := tabErase r.contrib k }) s1)
    else afterY p.slot p.seq g d k (enginePass d seed lens (wireType d) ((tabGet r.xres k).getD []) p.arrived) s1

/-- REDUCTION_PASS_DONE (R252, R261, R263). -/
def execReductionPassDone (engine : Nat) (residueOk : Bool) (s : State) : Host.Outcome State Fault Refusal :=
  whileLit s <|
  match tabGet s.coll.engines engine with
  | none => .next s
  | some p =>
    let idle (t : State) : State := collMod (fun c => { c with engines := tabErase c.engines engine }) t
    if residueOk then .next (collGo p.slot (startPasses 9 (finishPass p (idle s))))
    else
      let p1 := { p with residueFails := p.residueFails + 1, checkFails := p.checkFails + 1 }
      let retire (t : State) : State :=
        let t1 := { t with dev := { t.dev with inventory := { t.dev.inventory with
          engines := t.dev.inventory.engines &&& ~~~ (BitVec.ofNat 8 (2 ^ engine)) } } }
        raiseEvent .engineRetired 0 nodeSelf engine 0 (collMod (fun c => { c with queue := { p1 with borrowed := 0 } :: c.queue }) (idle t1))
      let s1 := if p1.residueFails = 2 then retire s else collMod (fun c => { c with engines := tabSet c.engines engine p1 }) s
      .next (collGo p.slot (startPasses 9 (failCheck p.slot p.seq p1.checkFails s1)))

/-! ### Timers -/

/-- The held chunk with this identity that is first in an order, and the sequence it belongs to; a record of the setup exchange belongs to
none, and stands as of sequence 0. -/
def heldOf (first : HeldChunk → Nat) (g : CollGroup) (id : ChunkId) : Option (W32 × HeldChunk) :=
  let all := (g.setupOut.map fun h => ((0 : W32), h)) ++ g.runs.flatMap fun p => p.2.out.map fun h => (BitVec.ofNat 32 p.1, h)
  (all.filter fun p => p.2.sent && p.2.id == id).foldl (fun best p =>
    match best with
    | none => some p
    | some b => if first p.2 < first b.2 then some p else some b) none

/-- When a chunk's timer runs out (R262), and when its device counts as lost (R270). -/
def chunkDue (h : HeldChunk) : Nat := h.sentAt + h.timer
def lostDue (h : HeldChunk) : Nat := h.firstAt + 100000000

/-- COLL_CHUNK_TIMER (R262): the chunk is sent again, round a fold where its ring has one, and its timer doubles up to 8 ms. -/
def execCollChunkTimer (slot : Nat) (chunk : ChunkId) (s : State) : Host.Outcome State Fault Refusal :=
  whileLit s <|
  match groupGet s slot with
  | none => .next s
  | some g =>
    match heldOf chunkDue g chunk with
    | none => .next s
    | some (seq, h) =>
      let s1 := advanceTo (chunkDue h) s
      let again (x : HeldChunk) : HeldChunk :=
        if x = h then { x with sentAt := s1.dev.now, timer := min 8000000 (2 * x.timer) } else x
      let s2 := if h.id.leg = 6 then groupMod slot (fun g => { g with setupOut := g.setupOut.map again }) s1
        else runMod slot seq (fun r => { r with out := r.out.map again }) s1
      .next (sendChunk slot seq true h s2)

/-- COLL_MEMBER_TIMEOUT (R270): a chunk or an agreement word has been unacknowledged for 100 ms. The setup exchange has its own bound
(R257). -/
def execCollMemberTimeout (slot : Nat) (chunk : ChunkId) (s : State) : Host.Outcome State Fault Refusal :=
  whileLit s <|
  match groupGet s slot with
  | none => .next s
  | some g =>
    match heldOf lostDue { g with setupOut := [] } chunk with
    | some (seq, h) => .next (collGo slot (loseMember slot seq h.peer (advanceTo (lostDue h) s)))
    | none =>
      let seq := BitVec.ofNat 32 chunk.num
      match (runGet s slot seq).bind fun r => r.agreeOut.find? fun a => a.leg == chunk.leg && a.west == chunk.west with
      | some a => .next (collGo slot (loseMember slot seq a.peer (advanceTo (a.sentAt + 100000000) s)))
      | none => .next s

end Sys2Proof.Machine
end

