-- ==== Sys2Proof/Machine/Attention.lean ====
section
/-! DEFINITION. KV pools (R279 to R281), summaries (R284), and what an attention request computes (R287, R293 to R298). -/

namespace Sys2Proof.Machine

/-! ### Pools (R279, R280) -/

def headDim (p : Pool) : Nat := 2 ^ p.headDimLog2

/-- E of R279. -/
def poolE (p : Pool) : Nat := p.kvHeads * headDim p

def roundUp (n m : Nat) : Nat := ceilDiv n m * m

/-- H of Table 10-1. -/
def projBytes (p : Pool) : Nat := roundUp (p.layers * p.summaryDim * headDim p * 2) 65536

/-- Bytes of a block's summary. -/
def summaryBytes (p : Pool) : Nat := p.kvHeads * p.summaryDim

/-- LANE of Table 10-1. -/
def laneBytes (p : Pool) : Nat := p.maxBlocks * 132 * poolE p + roundUp (p.maxBlocks * summaryBytes p) 65536

/-- U of Table 10-1. -/
def userBytes (p : Pool) : Nat := 65536 + p.layers * laneBytes p

def poolBytes (p : Pool) : Nat := projBytes p + p.maxUsers * userBytes p

/-- DVAs of Table 10-1. -/
def projAt (p : Pool) (l : Nat) : Nat := p.dva + l * p.summaryDim * headDim p * 2
def metaAt (p : Pool) (u : Nat) : Nat := p.dva + projBytes p + u * userBytes p
def laneAt (p : Pool) (u l : Nat) : Nat := metaAt p u + 65536 + l * laneBytes p
def kAt (p : Pool) (u l b : Nat) : Nat := laneAt p u l + b * 64 * poolE p
def vAt (p : Pool) (u l b : Nat) : Nat := laneAt p u l + p.maxBlocks * 64 * poolE p + b * 64 * poolE p
def scaleAt (p : Pool) (u l b : Nat) : Nat := laneAt p u l + 2 * p.maxBlocks * 64 * poolE p + b * 4 * poolE p
def summaryAt (p : Pool) (u l b : Nat) : Nat := laneAt p u l + p.maxBlocks * 132 * poolE p + b * summaryBytes p

/-- Bytes of the query buffer (R289). -/
def queryBytes (p : Pool) (append : Bool) : Nat :=
  p.qHeads * headDim p * 2 + (if append then 2 * poolE p + 2 * (poolE p / 32) else 0)

/-- The geometry that R279 asks for, and the parameter ranges of Table 10-10. -/
def geometryOk (p : Pool) : Bool :=
  decide (1 ≤ p.layers ∧ p.layers ≤ 128) && decide (1 ≤ p.qHeads ∧ p.qHeads ≤ 128) && decide (1 ≤ p.kvHeads ∧ p.kvHeads ≤ 16) &&
  decide (6 ≤ p.headDimLog2 ∧ p.headDimLog2 ≤ 8) && (p.format == 5 || p.format == 6) &&
  (p.summaryDim == 8 || p.summaryDim == 16 || p.summaryDim == 32) && decide (p.tc < 4) && p.maxBlocks % 16 == 0 &&
  decide (16 ≤ p.maxBlocks ∧ p.maxBlocks ≤ 4096) && decide (1 ≤ p.maxUsers ∧ p.maxUsers ≤ 4096) &&
  (poolE p == 1024 || poolE p == 2048 || poolE p == 4096) && p.qHeads % p.kvHeads == 0 && decide (queryBytes p true ≤ 32768) &&
  p.dva % 65536 == 0

/-- `SEALED_BLOCKS` (R284). -/
def sealedKey (pool user layer : Nat) : Nat := (pool * 4096 + user) * 128 + layer

def sealedOf (s : State) (pool user layer : Nat) : Nat := (tabGet s.cache.sealedBlocks (sealedKey pool user layer)).getD 0

/-- Element format of a pool. -/
def poolFmt (p : Pool) : Fmt := if p.format = 6 then fp8e5m2 else fp8e4m3

/-- Bytes of pool memory, which lies in tarn pages alone. -/
def poolRead (s : State) (p : Pool) (dva n : Nat) : List Byte := readDva s p.fn dva n []

def poolWrite (p : Pool) (dva : Nat) (bytes : List Byte) (s : State) : State := placeAt p.fn dva bytes .none s

/-- Token `t`'s vector for KV head `g`, dequantised, from a block's elements and scales. -/
def kvVector (p : Pool) (data scales : List Byte) (t g : Nat) : List Num :=
  let base := (t * p.kvHeads + g) * headDim p
  (List.range (headDim p)).map fun d =>
    mxValue (poolFmt p) (scales.getD ((base + d) / 32) 0).toNat (data.getD (base + d) 0).toNat

/-- `PROJ_l`, row by row. -/
def projRows (s : State) (p : Pool) (l : Nat) : List (List Num) :=
  (List.range p.summaryDim).map fun r =>
    let row := poolRead s p (projAt p l + r * headDim p * 2) (headDim p * 2)
    (List.range (headDim p)).map fun d => decodeNum bf16 (ofLe (slice row (2 * d) 2))

/-- A block's summary for every KV head, head-major (R284). -/
def summaryOf (s : State) (p : Pool) (u l b : Nat) : List Byte :=
  let k := poolRead s p (kAt p u l b) (64 * poolE p)
  let sc := poolRead s p (scaleAt p u l b) (2 * poolE p)
  let proj := projRows s p l
  (List.range p.kvHeads).flatMap fun g =>
    let tokens := (List.range 64).map fun t => kvVector p k sc t g
    let sums := (List.range (headDim p)).map fun d =>
      tokens.foldl (fun acc v => toFp32 (numAdd acc (v.getD d .nan))) (.fin false 0)
    let mean := sums.map fun x => toFp32 (numScale (-6) x)
    proj.map fun row => BitVec.ofNat 8 (encodeNum fp8e4m3 (convert fp8e4m3 true (dot true row mean)))

/-- The user's summaries are resident in the shoals (R285). -/
def isResident (s : State) (pool user : Nat) : Bool := s.cache.pins.any fun p => p.pool == pool && p.user == user && p.ready

/-- Key of a block's summary among those that are resident. -/
def residentKey (pool user layer block : Nat) : Nat := sealedKey pool user layer * 4096 + block

def keepSummary (pool user layer block : Nat) (bytes : List Byte) (s : State) : State :=
  { s with cache := { s.cache with resident := tabSet s.cache.resident (residentKey pool user layer block) bytes } }

/-- Load a user's summaries into the shoals: those of every sealed block (R285). -/
def loadSummaries (pool : Nat) (p : Pool) (user : Nat) (s : State) : State :=
  (List.range p.layers).foldl (fun t l =>
    (List.range (sealedOf s pool user l)).foldl (fun t b =>
      keepSummary pool user l b (poolRead s p (summaryAt p user l b) (summaryBytes p)) t) t) s

/-- A block's summary as scoring reads it: from the shoals for a pinned user (R294). -/
def summaryFor (s : State) (pool : Nat) (p : Pool) (u l b : Nat) : List Byte :=
  match (if isResident s pool u then tabGet s.cache.resident (residentKey pool u l b) else none) with
  | some x => x
  | none => poolRead s p (summaryAt p u l b) (summaryBytes p)

/-- Seal a block: its summary is written, to the shoals too where the user is pinned, then `SEALED_BLOCKS` rises (R284, R285); the metadata
page shows the count (log entry 39). -/
def sealBlock (pool : Nat) (p : Pool) (u l b : Nat) (s : State) : State :=
  let σ := summaryOf s p u l b
  let s0 := if isResident s pool u then keepSummary pool u l b σ s else s
  let s1 := poolWrite p (summaryAt p u l b) σ s0
  let s2 := poolWrite p (metaAt p u + 4 * l) (leBytes 4 (b + 1)) s1
  { s2 with cache := { s2.cache with sealedBlocks := tabSet s2.cache.sealedBlocks (sealedKey pool u l) (b + 1) } }

/-! ### Pages (R281, R297) -/

/-- What hinders the use of a range of the pool: `MISS_CAUSE` of Table 10-5. A pool page is 64 KiB of DVA, present as a whole (R281). -/
def poolMiss (s : State) (p : Pool) (dva len : Nat) : Option Nat :=
  (pages4k (dva / 65536 * 65536) (roundUp (dva + len) 65536 - dva / 65536 * 65536)).findSome? fun a =>
    match pageOf s p.fn a with
    | some q => if q.target = .tarn then none else some 4
    | none =>
      match tabGet s.spaces p.fn with
      | some sp => if (runOf sp.lost a).isSome then some 2 else some 1
      | none => some 1

/-- The ranges of a block, with `MISS_PART`. -/
def blockRanges (p : Pool) (u l b : Nat) : List (Nat × Nat × Nat) :=
  [(0, kAt p u l b, 64 * poolE p), (1, vAt p u l b, 64 * poolE p), (2, scaleAt p u l b, 4 * poolE p)]

/-- The first miss over blocks in ascending order: cause, part, block. -/
def blocksMiss (s : State) (p : Pool) (u l : Nat) (blocks : List Nat) : Option (Nat × Nat × Nat) :=
  blocks.findSome? fun b => (blockRanges p u l b).findSome? fun r => (poolMiss s p r.2.1 r.2.2).map fun c => (c, r.1, b)

/-- A block cannot be sealed: its K, its K scales, its summary or the projection is not there (R284). -/
def sealBarred (s : State) (p : Pool) (u l b : Nat) : Bool :=
  [(kAt p u l b, 64 * poolE p), (scaleAt p u l b, 2 * poolE p), (summaryAt p u l b, summaryBytes p),
   (projAt p l, p.summaryDim * headDim p * 2)].any fun r => (poolMiss s p r.1 r.2).isSome

/-- The first miss among the summaries that scoring reads, and the projection it needs. -/
def summariesMiss (s : State) (p : Pool) (u l : Nat) (pinned : Bool) (blocks : List Nat) : Option (Nat × Nat × Nat) :=
  match blocks with
  | [] => none
  | b0 :: _ =>
    match poolMiss s p (projAt p l) (p.summaryDim * headDim p * 2) with
    | some c => some (c, 3, b0)
    | none =>
      if pinned then none
      else blocks.findSome? fun b => (poolMiss s p (summaryAt p u l b) (summaryBytes p)).map fun c => (c, 3, b)

/-! ### The request (Table 10-2) -/

structure AttnDesc where
  layer  : Nat
  user   : Nat
  ctx    : Nat
  qpos   : Nat
  slide  : Nat
  shift  : Nat
  window : Nat
  dclass : Nat
  causal : Bool
  alibi  : Bool
  append : Bool
  scale  : Nat
  softcap : Nat
  queryKey : W32
  query  : Nat
  resultKey : W32
  result : Nat
deriving DecidableEq, Repr

def attnDesc (e : W512) : AttnDesc :=
  let f (lo w : Nat) : Nat := bits e.toNat lo w
  { layer := f 128 8, user := f 136 16, ctx := f 152 20, qpos := f 172 20, slide := f 192 20, shift := f 212 3, window := f 215 13,
    dclass := f 228 2, causal := bit e.toNat 230, alibi := bit e.toNat 231, append := bit e.toNat 232, scale := f 240 32,
    softcap := f 272 32, queryKey := BitVec.ofNat 32 (f 304 32), query := f 336 57, resultKey := BitVec.ofNat 32 (f 393 32),
    result := f 425 57 }

/-- An FP32 field that is neither negative nor infinite nor NaN (R288). -/
def plainFp32 (c : Nat) : Bool :=
  match decodeNum fp32 c with
  | .fin neg m => !neg || m == 0
  | _ => false

/-- The field ranges of Table 10-2 and R288. -/
def attnOk (p : Pool) (d : AttnDesc) (pinned fromRing : Bool) : Bool :=
  decide (d.layer < p.layers) && decide (d.user < p.maxUsers) && decide (1 ≤ d.ctx ∧ d.ctx ≤ 64 * p.maxBlocks) &&
  decide (d.qpos < d.ctx) && decide (2 ≤ d.shift ∧ d.shift ≤ 6) && decide (d.window ≤ 4096) && decide (d.dclass ≤ 2) &&
  plainFp32 d.scale && plainFp32 d.softcap && !(d.dclass == 0 && !pinned) && !(fromRing && d.resultKey == 0)

/-- Bytes of the result. -/
def attnResultBytes (p : Pool) : Nat := 2 * p.qHeads * headDim p

/-! ### Selection (R293, R294) -/

/-- B_s. -/
def scoreable (d : AttnDesc) : Nat := (d.ctx - d.window) / 64

/-- A mask removes the token at a position (R293). -/
def maskedAt (d : AttnDesc) (pos : Nat) : Bool :=
  (d.causal && decide (d.qpos < pos)) || (d.slide != 0 && decide (pos + d.slide ≤ d.qpos))

/-- The scoreable blocks that masks leave a token of. -/
def scoredBlocks (d : AttnDesc) : List Nat :=
  (List.range (scoreable d)).filter fun b => (List.range 64).any fun t => !maskedAt d (64 * b + t)

/-- K_sel. -/
def selectCount (d : AttnDesc) : Nat := min (scoreable d) (ceilDiv (ceilDiv d.ctx 64) (2 ^ d.shift))

def windowBlocks (d : AttnDesc) : List Nat :=
  (List.range (ceilDiv d.ctx 64)).filter fun b => decide (scoreable d ≤ b)

/-- The query of head `h`, in BF16. -/
def queryHead (p : Pool) (q : List Byte) (h : Nat) : List Num :=
  (List.range (headDim p)).map fun i => decodeNum bf16 (ofLe (slice q (2 * (h * headDim p + i)) 2))

/-- KV head of a query head. -/
def kvHeadOf (p : Pool) (h : Nat) : Nat := h * p.kvHeads / p.qHeads

/-- The score of a block (R294). -/
def blockScore (s : State) (pool : Nat) (p : Pool) (u l : Nat) (projected : List (List Num)) (b : Nat) : Num :=
  let σ := summaryFor s pool p u l b
  let one (h : Nat) (x : List Num) : Num :=
    dot true x ((List.range p.summaryDim).map fun i => decodeNum fp8e4m3 (σ.getD (kvHeadOf p h * p.summaryDim + i) 0).toNat)
  match projected.zipIdx.map fun x => one x.2 x.1 with
  | [] => .nan
  | x :: rest => rest.foldl (fun a y => if isNan a || numLt a y then y else a) x

/-- Insert by descending score, ties to the lower index; NaN ranks last (log entry 34). -/
def scoreInsert (x : Num × Nat) : List (Num × Nat) → List (Num × Nat)
  | [] => [x]
  | y :: rest =>
    let before := if isNan x.1 then isNan y.1 && decide (x.2 < y.2)
      else isNan y.1 || numLt y.1 x.1 || (!numLt x.1 y.1 && decide (x.2 < y.2))
    if before then x :: y :: rest else y :: scoreInsert x rest

/-- The selected blocks, by ascending index. -/
def selectBlocks (s : State) (pool : Nat) (p : Pool) (d : AttnDesc) (q : List Byte) : List Nat :=
  let proj := projRows s p d.layer
  let projected := (List.range p.qHeads).map fun h => proj.map fun row => dot false row (queryHead p q h)
  let scored := (scoredBlocks d).map fun b => (blockScore s pool p d.user d.layer projected b, b)
  let best := ((scored.foldr scoreInsert []).take (selectCount d)).map Prod.snd
  (scoredBlocks d).filter fun b => best.contains b

/-! ### Attention (R295) -/

/-- `SCALE`, or 1/√`HEAD_DIM` in FP32. -/
def scoreScale (p : Pool) (d : AttnDesc) : Num :=
  if (decodeNum fp32 d.scale) = .fin false 0 ∨ (decodeNum fp32 d.scale) = .fin true 0 then
    decodeNum fp32 (match p.headDimLog2 with | 6 => 0x3E000000 | 7 => 0x3DB504F3 | _ => 0x3D800000)
  else decodeNum fp32 d.scale

/-- m_h. -/
def alibiFactor (p : Pool) (h : Nat) : Num :=
  if 8 * (h + 1) % p.qHeads = 0 then .fin false (pow2 (-((8 * (h + 1) / p.qHeads : Nat) : Int)))
  else ofCode (Config.alibiSlope h p.qHeads)

def isZero (x : Num) : Bool := magOf x == some 0

/-- The score of a token (R295): steps 1 to 3. -/
def tokenScore (p : Pool) (d : AttnDesc) (h pos : Nat) (q k : List Num) : Num :=
  let z0 := toFp32 (numMul (scoreScale p d) (dot false q k))
  let dist : Num := .fin (decide (d.qpos < pos)) (if d.qpos < pos then ((pos - d.qpos : Nat) : Rat) else ((d.qpos - pos : Nat) : Rat))
  let z1 := if d.alibi then toFp32 (numSub z0 (numMul (alibiFactor p h) dist)) else z0
  let cap := decodeNum fp32 d.softcap
  if isZero cap then z1 else toFp32 (numMul cap (ofCode (Config.fpTanh (codeOf (toFp32 (numDiv z1 cap))))))

/-- What the online softmax of a head carries: maximum, sum, accumulators. -/
structure Softmax where
  top : Option Num
  sum : Num
  out : List Num
deriving DecidableEq, Repr

def expOf (x : Num) : Num := ofCode (Config.fpExp (codeOf (toFp32 x)))

/-- One run of 32 positions: the scores of the tokens that take part, and their values (log entry 40). -/
def softmaxRun (st : Softmax) (zs : List (Option Num)) (vs : List (List Num)) : Softmax :=
  match zs.filterMap id with
  | [] => st
  | z :: rest =>
    let m := rest.foldl numMax z
    let top := match st.top with | some t => numMax t m | none => m
    let scaled : Softmax := match st.top with
      | some t =>
        if t = top then st
        else
          let f := expOf (numSub t top)
          { st with sum := toFp32 (numMul st.sum f), out := st.out.map fun o => toFp32 (numMul o f) }
      | none => st
    let w := mxRound fp8e4m3 2 (zs.map fun z => match z with | some x => expOf (numSub x top) | none => .fin false 0)
    { top := some top, sum := dotInto 33 16 false scaled.sum (w.map fun x => (x, Num.fin false 1)),
      out := (scaled.out.zipIdx).map fun o => dotInto 33 16 false o.1 (w.zip (vs.map fun v => v.getD o.2 .nan)) }

/-- A position is attended: below the context's end and not masked. -/
def attends (d : AttnDesc) (pos : Nat) : Bool := decide (pos < d.ctx) && !maskedAt d pos

/-- The output of a head over blocks in order: `HEAD_DIM` values, or none where every token is masked. -/
def headOutput (s : State) (p : Pool) (d : AttnDesc) (q : List Byte) (blocks : List Nat) (h : Nat) : Option (List Num) :=
  let g := kvHeadOf p h
  let qh := mxRound fp8e4m3 (headDim p) (queryHead p q h)
  let zero := List.replicate (headDim p) (Num.fin false 0)
  let step (st : Softmax) (b : Nat) : Softmax :=
    let k := poolRead s p (kAt p d.user d.layer b) (64 * poolE p)
    let v := poolRead s p (vAt p d.user d.layer b) (64 * poolE p)
    let sc := poolRead s p (scaleAt p d.user d.layer b) (4 * poolE p)
    let run (st : Softmax) (r : Nat) : Softmax :=
      let ts := (List.range 32).map fun i => 32 * r + i
      let zs := ts.map fun t =>
        if attends d (64 * b + t) then some (tokenScore p d h (64 * b + t) qh (kvVector p k (sc.take (2 * poolE p)) t g)) else none
      softmaxRun st zs (ts.map fun t => if attends d (64 * b + t) then kvVector p v (sc.drop (2 * poolE p)) t g else zero)
    run (run st 0) 1
  let st := blocks.foldl step { top := none, sum := .fin false 0, out := zero }
  match st.top with
  | none => none
  | some _ => some (st.out.map fun o => convert bf16 true (numDiv o st.sum))

/-- The result over selected and window blocks: its bytes, and whether a head attended to nothing. -/
def attentionResult (s : State) (p : Pool) (d : AttnDesc) (q : List Byte) (blocks : List Nat) : List Byte × Bool :=
  let heads := (List.range p.qHeads).map fun h => headOutput s p d q blocks h
  let bytes (o : Option (List Num)) : List Byte :=
    match o with
    | some l => l.flatMap fun x => leBytes 2 (encodeNum bf16 x)
    | none => List.replicate (2 * headDim p) 0
  (heads.flatMap bytes, heads.any fun o => o.isNone)

/-- Write the new token of an append at position c - 1 (R289, R290). -/
def appendToken (p : Pool) (d : AttnDesc) (q : List Byte) (s : State) : State :=
  let e := poolE p
  let base := p.qHeads * headDim p * 2
  let b := (d.ctx - 1) / 64
  let t := (d.ctx - 1) % 64
  let k := slice q base e
  let v := slice q (base + e) e
  let ks := slice q (base + 2 * e) (e / 32)
  let vs := slice q (base + 2 * e + e / 32) (e / 32)
  poolWrite p (scaleAt p d.user d.layer b + 2 * e + t * (e / 32)) vs
    (poolWrite p (scaleAt p d.user d.layer b + t * (e / 32)) ks
      (poolWrite p (vAt p d.user d.layer b + t * e) v (poolWrite p (kAt p d.user d.layer b + t * e) k s)))

end Sys2Proof.Machine
end

