-- ==== Sys2Proof/Machine/Ramp.lean ====
section
/-! DEFINITION. The shoal units and the ramp limiter (R302, R303). -/

namespace Sys2Proof.Machine

def rampMod (f : Ramp → Ramp) (s : State) : State := { s with ramp := f s.ramp }

/-- The shoals in service. -/
def usableShoals (s : State) : List Nat := (List.range 16).filter fun i => bit s.dev.inventory.shoals.toNat i

/-- The units in service, shoal by shoal. -/
def usableUnits (s : State) : List Nat := (usableShoals s).flatMap fun i => (List.range 128).map fun u => 128 * i + u

/-- The learned current of a unit in an operation class, in mA; until one is learned, the fused default (R303, R415). -/
def unitCurrent (s : State) (cls : Nat) : Rat := (tabGet s.power.unitMa cls).getD (Config.fusedUnitMa cls)

/-- P of R303 in whole ns, so that the slope stays at or below 60 A/µs. -/
def wavePeriod (s : State) (cls : Nat) : Nat :=
  let p := 256 * unitCurrent s cls / 60
  max 1000 (floorNat p + flag (decide ((floorNat p : Rat) < p)))

/-- The counts of a new 1 µs window start at 0. -/
def rampWindow (s : State) : State :=
  if s.ramp.window = s.dev.now / 1000 then s
  else rampMod (fun r => { r with window := s.dev.now / 1000, left := 0, rested := 0 }) s

/-- At most 16 units of each shoal, in order. -/
def waveOf (units : List Nat) : List Nat := (List.range 16).flatMap fun i => (units.filter fun u => u / 128 == i).take 16

/-- One wave: units leave rest and units come to rest. -/
def doWave (s0 : State) : State :=
  let s := rampWindow s0
  let up := waveOf s.ramp.starting
  let down := waveOf s.ramp.resting
  rampMod (fun r =>
    { r with active := sortedNats ((r.active.filter fun u => !down.contains u) ++ up),
             starting := r.starting.filter (fun u => !up.contains u), resting := r.resting.filter (fun u => !down.contains u),
             idleSince := r.idleSince.filter (fun p => !down.contains p.1), left := r.left + up.length,
             rested := r.rested + down.length }) s

/-- Wave 0 runs now, if no waves are under way; during a droop of `VDD_CORE` it waits for recovery (R420). -/
def beginWaves (period : Nat) (s : State) : State :=
  if s.ramp.nextWave.isSome then s
  else if s.droop.coreSince.isSome then rampMod (fun r => { r with nextWave := some s.dev.now, period := period }) s
  else rampMod (fun r => { r with nextWave := some (s.dev.now + period), period := period }) (doWave s)

/-- Units are to leave rest: at once while at most 256 do so in one window, otherwise in waves (R303). -/
def startUnits (cls : Nat) (units : List Nat) (s0 : State) : State :=
  let s := rampWindow (rampMod (fun r => { r with resting := r.resting.filter fun u => !units.contains u }) s0)
  let new := units.filter fun u => !s.ramp.active.contains u && !s.ramp.starting.contains u
  if new.isEmpty then s
  else if s.ramp.starting.isEmpty && decide (s.ramp.left + new.length ≤ 256) then
    rampMod (fun r => { r with active := sortedNats (r.active ++ new), left := r.left + new.length }) s
  else beginWaves (wavePeriod s cls) (rampMod (fun r => { r with starting := r.starting ++ new }) s)

/-- Units are to come to rest, under the same rule. -/
def restUnits (cls : Nat) (units : List Nat) (s0 : State) : State :=
  let s := rampWindow (rampMod (fun r => { r with starting := r.starting.filter fun u => !units.contains u }) s0)
  let old := units.filter fun u => s.ramp.active.contains u && !s.ramp.resting.contains u
  if old.isEmpty then s
  else if s.ramp.resting.isEmpty && decide (s.ramp.rested + old.length ≤ 256) then
    rampMod (fun r =>
      { r with active := r.active.filter (fun u => !old.contains u), idleSince := r.idleSince.filter (fun p => !old.contains p.1),
               rested := r.rested + old.length }) s
  else beginWaves (wavePeriod s cls) (rampMod (fun r => { r with resting := r.resting ++ old }) s)

/-- The attention hold is active: it is wanted and every unit runs. -/
def holdActive (s : State) : Bool := s.cache.hold && (usableUnits s).all fun u => s.ramp.active.contains u

/-- Units without work: their time toward rest starts. -/
def unitsIdle (units : List Nat) (s : State) : State :=
  rampMod (fun r => { r with idleSince := units.foldl (fun t u => tabSet t u s.dev.now) r.idleSince,
                             working := r.working.filter fun u => !units.contains u }) s

/-- Units with work do not come to rest. -/
def unitsBusy (units : List Nat) (s : State) : State :=
  rampMod (fun r => { r with idleSince := r.idleSince.filter (fun p => !units.contains p.1), working := r.working ++ units,
                             resting := r.resting.filter fun u => !units.contains u }) s

/-- RAMP_WAVE (R303); none starts during a droop of `VDD_CORE` (R420). -/
def execRampWave (s : State) : Host.Outcome State Fault Refusal :=
  whileLit s <|
  match s.ramp.nextWave with
  | none => .next s
  | some t =>
    if s.droop.coreSince.isSome then .next s else
    let s1 := doWave (advanceTo t s)
    let more := !s1.ramp.starting.isEmpty || !s1.ramp.resting.isEmpty
    .next (rampMod (fun r => { r with nextWave := if more then some (t + r.period) else none }) s1)

/-- UNIT_AT_REST (R303): 2 µs after its last work, unless it waits for work or the hold keeps it active. -/
def execUnitAtRest (shoal unit : Nat) (s : State) : Host.Outcome State Fault Refusal :=
  whileLit s <|
  let u := 128 * shoal + unit
  match tabGet s.ramp.idleSince u with
  | none => .next s
  | some t => if s.cache.hold ∨ !s.ramp.active.contains u then .next s else .next (restUnits 0 [u] (advanceTo (t + 2000) s))

/-- A D0 request starts the attention hold through the limiter, if it has ended (R302). -/
def startHold (s : State) : State :=
  let s1 := { s with cache := { s.cache with lastD0 := s.dev.now } }
  if s.cache.hold || s.cache.holdBarred then s1 else startUnits 2 (usableUnits s1) { s1 with cache := { s1.cache with hold := true } }

/-- The hold ends through the limiter: units without work come to rest. -/
def endHold (s : State) : State :=
  let idle := (usableUnits s).filter fun u => s.ramp.active.contains u && !s.ramp.working.contains u
  restUnits 2 idle { s with cache := { s.cache with hold := false } }

/-- HOLD_RELEASE (R302, Table 10-6). -/
def execHoldRelease (s : State) : Host.Outcome State Fault Refusal :=
  whileLit s <|
  if !s.cache.hold then .next s
  else
    match s.dev.profile with
    | .latency => if s.cache.pins.isEmpty then .next (endHold s) else .next s
    | .balanced => .next (endHold (advanceTo (s.cache.lastD0 + 100000) s))
    | .efficiency => .next (endHold (advanceTo (s.cache.lastD0 + 10000) s))

end Sys2Proof.Machine
end

