-- ==== Sys2Proof/Machine/Cache.lean ====
section
/-! DEFINITION. The cache phase (chapter 10): attention requests from acceptance to completion (R287 to R292, R297 to R300), seals
(R284), pins (R285, R286), and the commands of Table 10-10. -/

namespace Sys2Proof.Machine

def cacheMod (f : Cache → Cache) (s : State) : State := { s with cache := f s.cache }

def poolGet (s : State) (n : Nat) : Option Pool := tabGet s.cache.pools n

/-! ### The end of a request -/

/-- The blocks that an append has filled and that its request seals (R284). -/
def sealsOf (s : State) (rec pool : Nat) (d : AttnDesc) : List SealDue :=
  let b := (d.ctx - 1) / 64
  if d.append && d.ctx % 64 == 0 && sealedOf s pool d.user d.layer == b then
    [{ work := rec, pool := pool, user := d.user, layer := d.layer, block := b }]
  else []

/-- A unit holds flits of the result of an earlier request of the same user and layer, which ends before a later one (R299). One of the same
stream and a class that yields leaves before it in any case. -/
def earlierUnit (s : State) (w : Work) (d : AttnDesc) (u : EgressUnit) : Bool :=
  match u.item with
  | .spur rec _ _ =>
    (match workGet s rec with
     | some x =>
       let e := attnDesc x.entry
       entryContext x.entry == entryContext w.entry && e.user == d.user && e.layer == d.layer && decide (x.order < w.order) &&
         (d.dclass == 0 || x.source != w.source)
     | none => false)
  | _ => false

/-- A result that waits at a spur port leaves at once, and its request completes behind its last flit. -/
def releaseResult (s : State) (u : EgressUnit) : State :=
  let s1 := { s with sched := { s.sched with units := s.sched.units.erase u } }
  match u.item with
  | .spur rec result l => resultGone rec result (sendFlits (u.port - 32) l s1)
  | _ => s1

/-- The request's result is where it has to be: its flits leave, its completion follows, and its block may be sealed (R291,
R299). -/
def finishAttn (rec : Nat) (s : State) : State :=
  match workGet s rec, tabGet s.cache.finishing rec with
  | some w, some result =>
    let d := attnDesc w.entry
    let due := sealsOf s rec (entryContext w.entry) d
    let s0 := (s.sched.units.filter (earlierUnit s w d)).foldl releaseResult s
    let s1 := cacheMod (fun c => { c with finishing := tabErase c.finishing rec, seals := c.seals ++ due }) s0
    match w.source with
    | .request p n =>
      if d.dclass = 0 then complete rec .ok result none (sendKvResult p n rec s1)
      else resultGone rec result (queueKvResult w.fn (poolTc s w) (entryContext w.entry) rec result (kvFlits s p n rec) s1)
    | .ring _ => complete rec .ok result none s1
  | _, _ => s

/-- A request ends with `CACHE_MISS` (R297, R298). -/
def missAttn (rec pool : Nat) (m : Nat × Nat × Nat) (s : State) : State :=
  let count (c : Cache) : Cache :=
    { c with runs := c.runs.filter (fun r => r.work != rec),
             pools := tabMod c.pools pool fun p => { p with misses := p.misses + 1 } }
  complete rec .cacheMiss (pack [(0, 4, m.1), (4, 2, m.2.1), (8, 13, m.2.2)]) none (cacheMod count s)

/-- What hinders a request before it appends or reads: cause, part, block (R293, R297). -/
def attnMiss (s : State) (pool : Nat) (p : Pool) (d : AttnDesc) (q : List Byte) : Option (Nat × Nat × Nat) :=
  let own := sealedOf s pool d.user d.layer
  if own < scoreable d then some (3, 3, own)
  else
    match summariesMiss s p d.user d.layer (isResident s pool d.user) (scoredBlocks d) with
    | some m => some m
    | none =>
      let blocks := selectBlocks s pool p d q ++ windowBlocks d ++ (if d.append then [(d.ctx - 1) / 64] else [])
      blocksMiss s p d.user d.layer (sortedNats blocks)

/-- A request leaves the requests in hand and completes with a status. -/
def dropAttn (rec : Nat) (status : Status) (s : State) : State :=
  complete rec status 0 none (cacheMod (fun c => { c with runs := c.runs.filter fun r => r.work != rec }) s)

/-- A page of a request's buffer is not present: it is suspended (R111), or ends while its function may not be reached (R82). -/
def attnAbsent (fn pool rec access dva len : Nat) (key : W32) (s : State) : State :=
  if dmaBarred s fn then dropAttn rec .translationFault s else suspend fn (.attn pool rec) 1 access rec dva len key s

/-- Serve one request whose query is whole (R290, R295, R297 to R299). A page of the result buffer that is not present suspends it
(R111). -/
def serveAttn (r : AttnRun) (q : List Byte) (s : State) : State :=
  match workGet s r.work, poolGet s r.pool with
  | some w, some p =>
    let d := attnDesc w.entry
    let len := attnResultBytes p
    match (if d.resultKey != 0 then firstAbsent s p.fn [(d.result, len, 0)] else none) with
    | some x => attnAbsent p.fn r.pool r.work 1 x.1 x.2.1 d.resultKey s
    | none =>
      match attnMiss s r.pool p d q with
      | some m => missAttn r.work r.pool m s
      | none =>
        let blocks := selectBlocks s r.pool p d q ++ windowBlocks d
        let s1 := wakeRange 0 65536 (if d.append then appendToken p d q s else s)
        let out := attentionResult s1 p d q blocks
        let tokens := (blocks.map fun b => min 64 (d.ctx - 64 * b)).sum
        let result := pack [(0, 21, tokens), (21, 13, blocks.length), (34, 1, flag out.2)]
        let keep (c : Cache) : Cache :=
          { c with runs := c.runs.filter (fun x => x.work != r.work), finishing := tabSet c.finishing r.work result,
                   results := (match w.source with | .request _ _ => tabSet c.results r.work out.1 | .ring _ => c.results) }
        let s2 := cacheMod keep s1
        let s3 := if d.resultKey != 0 then placeAt p.fn d.result out.1 (.work r.work) s2 else s2
        if contOpen s3 (.work r.work) then s3 else finishAttn r.work s3
  | _, _ => cacheMod (fun c => { c with runs := c.runs.filter fun x => x.work != r.work }) s

/-! ### Whose turn it is (R290, R300) -/

def userKey (r : AttnRun) : Nat := r.pool * 4096 + r.user

/-- The result of an earlier request of the same user and layer is still being committed: that request ends first (R299). -/
def earlierFinishing (s : State) (r : AttnRun) : Bool :=
  s.cache.finishing.any fun f => match workGet s f.1 with
    | some w => entryContext w.entry == r.pool && (attnDesc w.entry).user == r.user && (attnDesc w.entry).layer == r.layer &&
        decide (w.order < r.order)
    | none => false

/-- A request that could be served now: its query is whole, nothing suspends it, and no earlier request of its user and layer is
open. -/
def attnReady (s : State) (r : AttnRun) : Bool :=
  r.query.isSome && !earlierFinishing s r && !isSuspended s (.attn r.pool r.work) false && !stalled s (.attn r.pool r.work) &&
  !(s.cache.runs.any fun x => x.pool == r.pool && x.user == r.user && x.layer == r.layer && decide (x.order < r.order))

def firstByOrder (l : List AttnRun) : Option AttnRun :=
  l.foldl (fun best r =>
    match best with
    | none => some r
    | some b => if r.order < b.order then some r else some b) none

/-- Round-robin over users: the first user after `turn` that has a request, and its oldest one. -/
def roundRobin (turn : Nat) (l : List AttnRun) : Option AttnRun :=
  let keys := sortedNats (l.map userKey)
  match (keys.find? fun k => decide (turn < k)), keys with
  | some k, _ => firstByOrder (l.filter fun r => userKey r == k)
  | none, k :: _ => firstByOrder (l.filter fun r => userKey r == k)
  | none, [] => none

/-- The request to serve next. -/
def nextAttn (s : State) : Option AttnRun :=
  let ready := s.cache.runs.filter (attnReady s)
  let cls (c : Nat) : List AttnRun := ready.filter fun r => r.dclass == c
  match firstByOrder (cls 0) with
  | some r => some r
  | none =>
    match roundRobin s.cache.turnD1 (cls 1) with
    | some r => some r
    | none => roundRobin s.cache.turnD2 (cls 2)

/-- Serve what can be served. -/
def attnGo (fuel : Nat) (s : State) : State :=
  match fuel with
  | 0 => s
  | fuel + 1 =>
    match nextAttn s with
    | none => s
    | some r =>
      let turn (c : Cache) : Cache :=
        if r.dclass = 1 then { c with turnD1 := userKey r } else if r.dclass = 2 then { c with turnD2 := userKey r } else c
      attnGo fuel (serveAttn r (r.query.getD []) (cacheMod turn s))

def attnPump (s : State) : State := attnGo (s.cache.runs.length + 1) s

/-! ### Queries -/

def attnRunMod (rec : Nat) (f : AttnRun → AttnRun) (s : State) : State :=
  cacheMod (fun c => { c with runs := c.runs.map fun r => if r.work = rec then f r else r }) s

/-- The bytes of an inline query whose flits have all arrived (R291). -/
def inlineQuery (n : Nat) (flits : List (Nat × List Byte)) : Option (List Byte) :=
  let parts := (List.range (ceilDiv n 128)).map fun i => (flits.find? fun p => p.1 == i).map Prod.snd
  if parts.any fun x => x.isNone then none else some ((parts.flatMap fun x => x.getD []).take n)

/-- Read the query buffer; a page that is not present suspends the request (R111). One that waits for a miss slot reads it later (R108). -/
def readQuery (rec : Nat) (fetched : Option (List Byte)) (s : State) : State :=
  match s.cache.runs.find? (fun r => r.work == rec), workGet s rec with
  | some r, some w =>
    match poolGet s r.pool with
    | none => s
    | some p =>
      let d := attnDesc w.entry
      let n := queryBytes p d.append
      let stream : StreamId := .attn r.pool rec
      if isSuspended s stream false ∨ stalled s stream then s
      else
        match firstAbsent s p.fn [(d.query, n, 0)], fetched with
        | some x, _ => attnAbsent p.fn r.pool rec 0 x.1 x.2.1 d.queryKey s
        | none, some l => attnRunMod rec (fun r => { r with query := some (readDva s p.fn d.query n l) }) (wakeDva p.fn d.query n s)
        | none, none =>
          let x := readAny p.fn d.query n s
          attnRunMod rec (fun r => { r with query := some x.1 }) x.2
  | _, _ => s

def earlyKey (port stream index : Nat) : Nat := (64 * port + stream) * 65536 + index

/-- An accepted request begins (R288): its checks, the hold for class D0, and its query. -/
def beginAttn (rec : Nat) (w : Work) (fetched : List Byte) (s0 : State) : State :=
  let s := workMod rec (fun x => { x with begun := true }) s0
  let pool := entryContext w.entry
  let d := attnDesc w.entry
  let fromRing := match w.source with | .ring _ => true | .request _ _ => false
  match poolGet s pool with
  | none => complete rec .invalidParam 0 none s
  | some p =>
    if !attnOk p d w.pinned fromRing then complete rec .invalidParam 0 none s
    else
      let keys : Option Status :=
        match workKeyLive w p.key with
        | some e => some e
        | none =>
          match workKeyCheck w d.queryKey rightLocalRead d.query (queryBytes p d.append) with
          | some e => some e
          | none => if d.resultKey = 0 then none else workKeyCheck w d.resultKey rightLocalWrite d.result (attnResultBytes p)
      let host := touchesHost s p.fn d.query (queryBytes p d.append) ||
        (d.resultKey != 0 && touchesHost s p.fn d.result (attnResultBytes p))
      match (if keys.isNone && dmaBarred s p.fn && host then some Status.flushed else keys) with
      | some e => complete rec e 0 none s
      | none =>
        let early := match w.source with
          | .request q n => (tabGet s.cache.early (earlyKey q n w.index)).getD []
          | .ring _ => []
        let r : AttnRun := { work := rec, pool := pool, user := d.user, layer := d.layer, dclass := d.dclass, order := w.order,
                             flits := early, query := inlineQuery (queryBytes p d.append) early }
        let drop (t : Tab (List (Nat × List Byte))) : Tab (List (Nat × List Byte)) :=
          match w.source with | .request q n => tabErase t (earlyKey q n w.index) | .ring _ => t
        let s1 := cacheMod (fun c => { c with runs := c.runs ++ [{ r with query := if fromRing then none else r.query }],
                                              early := drop c.early }) s
        let s2 := if d.dclass = 0 then startHold s1 else s1
        attnPump (if fromRing then readQuery rec (some fetched) s2 else s2)

/-- ATTENTION_REQUEST (R287): requests of a pool begin in the order of their acceptance. -/
def execAttentionRequest (rec : Nat) (query : List Byte) (s : State) : Host.Outcome State Fault Refusal :=
  whileLit s <|
  match readyWork s rec .attention with
  | none => .next s
  | some w =>
    let earlier := (works s).any fun p => entryOp p.2.entry == 0x30 && entryContext p.2.entry == entryContext w.entry &&
      !p.2.begun && p.2.state == .accepted && decide (p.2.order < w.order)
    if earlier then .next s else .next (beginAttn rec w query s)

/-- The stream a `KV_QUERY` flit belongs to lies on the port that it came in on, or on that port's partner (R291, R292). -/
def kvQueryPort (s : State) (port : Nat) (f : Flit) : Option Nat :=
  let bound := f.destPort.toNat
  match portGet s port with
  | some x => if bound = port ∨ x.partner = some bound then some bound else none
  | none => none

/-- A `KV_QUERY` flit (R291). -/
def takeKvQuery (port : Nat) (f : Flit) (s : State) : State :=
  let n := bits f.chunkSeq.toNat 16 6
  let idx := bits f.chunkSeq.toNat 0 16
  match kvQueryPort s port f with
  | none => dropFlit s
  | some bound =>
    match streamGet s bound n with
    | none => dropFlit s
    | some q =>
      let item := (f.flitIndex.toNat, f.payload)
      let put (l : List (Nat × List Byte)) : List (Nat × List Byte) := item :: l.filter fun p => p.1 != item.1
      let mine (r : AttnRun) : Bool := r.query.isNone && (match workGet s r.work with
        | some w => w.source == .request bound n && w.index == idx
        | none => false)
      match s.cache.runs.find? mine with
      | some r =>
        let need := match workGet s r.work, poolGet s r.pool with
          | some w, some p => queryBytes p (attnDesc w.entry).append
          | _, _ => 0
        attnPump (attnRunMod r.work (fun x => { x with flits := put x.flits, query := inlineQuery need (put x.flits) }) s)
      | none =>
        let waits := (works s).any fun p => p.2.source == .request bound n && p.2.index == idx && !p.2.begun && p.2.state == .accepted
        if waits || decide ((idx + 65536 - q.accepted % 65536) % 65536 < 32768) then
          let add (t : Tab (List (Nat × List Byte))) : Tab (List (Nat × List Byte)) :=
            tabSet t (earlyKey bound n idx) (put ((tabGet t (earlyKey bound n idx)).getD []))
          cacheMod (fun c => { c with early := add c.early }) s
        else s

/-- KV_QUERY (R291). -/
def execKvQuery (port : Nat) (f : Flit) (s : State) : Host.Outcome State Fault Refusal :=
  whileLit s <|
  let good := flitSound f && f.type == 0x30 && bits f.chunkSeq.toNat 22 2 == 0 &&
    (match portGet s port with | some x => x.role == .spur && x.active | none => false)
  if good then .next (takeKvQuery port f (hearFlit port s)) else .next (dropFlit s)

/-- KV_QUERY_FALLBACK (R291): 2 µs after acceptance the device reads the query buffer. -/
def execKvQueryFallback (rec : Nat) (fetched : List Byte) (s : State) : Host.Outcome State Fault Refusal :=
  whileLit s <|
  match s.cache.runs.find? (fun r => r.work == rec), workGet s rec with
  | some r, some w =>
    if r.query.isSome ∨ isSuspended s (.attn r.pool rec) false then .next s
    else .next (attnPump (readQuery rec (some fetched) (advanceTo (w.acceptedAt + 2000) s)))
  | _, _ => .next s

/-- A request goes on: it reads its query, unless flits are still to bring it, or is served when its turn comes. -/
def attnGoOn (rec : Nat) (flits : Bool) (s : State) : State :=
  match s.cache.runs.find? fun r => r.work == rec with
  | some r => if r.query.isNone && !flits then attnPump (readQuery rec none s) else attnPump s
  | none => s

/-- A suspended request goes on after `mr.fault.reply` (R112). -/
def attnResume (pool rec : Nat) (s : State) : State := attnGoOn rec false (unsuspend (.attn pool rec) s)

/-- A request ends with a status of its own: a fault answered with `ACTION` 1, or a reset (R82, R112). -/
def attnEnd (pool rec : Nat) (status : Status) (s : State) : State :=
  let s1 := unsuspend (.attn pool rec) (cacheMod (fun c =>
    { c with runs := c.runs.filter (fun r => r.work != rec), finishing := tabErase c.finishing rec }) s)
  attnPump (complete rec status 0 none s1)

/-- APPEND_SEAL (R284): the block that an append filled is sealed after its result has been sent. -/
def execAppendSeal (rec : Nat) (s : State) : Host.Outcome State Fault Refusal :=
  whileLit s <|
  match s.cache.seals.find? fun d => d.work == rec with
  | none => .next s
  | some d =>
    let s1 := cacheMod (fun c => { c with seals := c.seals.erase d }) s
    match poolGet s d.pool with
    | none => .next s1
    | some p =>
      if !sealBarred s p d.user d.layer d.block ∧ sealedOf s d.pool d.user d.layer = d.block then .next (sealBlock d.pool p d.user d.layer d.block s1) else .next s1

/-! ### Commands (Table 10-10) -/

/-- The pool that a command names, if its function owns it. -/
def withPool (c : Cmd) (s : State) (k : Nat → Pool → CmdOut) : CmdOut :=
  let n := param c 0 1
  match poolGet s n with
  | some p => if p.fn = namedOf c then k n p else cmdFail s .invalidParam
  | none => cmdFail s .invalidParam

/-- Accepted attention requests that name a pool and are not complete. -/
def openRequests (s : State) (pool : Nat) : List Work :=
  ((works s).filter fun p => entryOp p.2.entry == 0x30 && entryContext p.2.entry == pool && openWork s p.1).map Prod.snd

def specPoolCreate : CmdSpec :=
  { opcode := 0x0601, issuer := .any, cls := .any, level2 := true,
    fields := [(0, 1), (1, 1), (2, 1), (3, 1), (4, 1), (5, 1), (6, 1), (7, 1), (8, 2), (10, 2), (12, 4), (16, 8)] }

def poolOfCmd (c : Cmd) : Pool :=
  { fn := namedOf c, layers := param c 1 1, qHeads := param c 2 1, kvHeads := param c 3 1, headDimLog2 := param c 4 1,
    format := param c 5 1, summaryDim := param c 6 1, tc := param c 7 1, maxBlocks := param c 8 2, maxUsers := param c 10 2,
    key := BitVec.ofNat 32 (param c 12 4), dva := param c 16 8, ending := false, misses := 0 }

def doPoolCreate (c : Cmd) (s : State) : CmdOut :=
  let n := param c 0 1
  let p := poolOfCmd c
  if (poolGet s n).isSome then cmdFail s .busy
  else
    needParam (geometryOk p) s <|
    let check (right : Nat) : Option Status := keyCheck s p.fn p.key right p.dva (poolBytes p)
    match check rightLocalRead with
    | some e => cmdFail s e
    | none =>
      match check rightLocalWrite with
      | some e => cmdFail s e
      | none => .done (cacheMod (fun x => { x with pools := tabSet x.pools n p }) s) .ok (poolBytes p) 0 0

/-- KV_POOL_CREATE (R279). -/
def execKvPoolCreate (c : Cmd) (s : State) : Host.Outcome State Fault Refusal := .next (runCmd specPoolCreate doPoolCreate c s)

def specPoolDestroy : CmdSpec := { opcode := 0x0602, issuer := .any, cls := .any, level2 := true, fields := [(0, 1)] }

def doPoolDestroy (c : Cmd) (s : State) : CmdOut :=
  withPool c s fun n p =>
    if p.ending then cmdFail s .busy
    else .deferred (cacheMod (fun x => { x with pools := tabMod x.pools n fun p => { p with ending := true } }) s) (.kvPoolDestroy n)

/-- KV_POOL_DESTROY (R305). -/
def execKvPoolDestroy (c : Cmd) (s : State) : Host.Outcome State Fault Refusal := .next (runCmd specPoolDestroy doPoolDestroy c s)

/-- A pool is gone, with its pins, its counts and its seals. -/
def dropPool (n : Nat) (s : State) : State :=
  cacheMod (fun c =>
    { c with pools := tabErase c.pools n, seals := c.seals.filter (fun d => d.pool != n),
             sealedBlocks := c.sealedBlocks.filter fun p => p.1 / (128 * 4096) != n }) (dropPins (fun p => p.pool == n) s)

/-- KV_POOL_DESTROY_DONE (R305). -/
def execKvPoolDestroyDone (pool : Nat) (s : State) : Host.Outcome State Fault Refusal :=
  whileLit s <|
  match poolGet s pool with
  | none => .next s
  | some p =>
    if !p.ending ∨ !(openRequests s pool).isEmpty then .next s
    else
      let sel (d : Deferral) : Option (Status × Nat × Nat × Nat) := if d = .kvPoolDestroy pool then some (.ok, 0, 0, 0) else none
      .next (finishCmds sel (dropPool pool s))

def specPoolQuery : CmdSpec := { opcode := 0x0603, issuer := .any, cls := .any, level2 := true, fields := [(0, 1)] }

def doPoolQuery (c : Cmd) (s : State) : CmdOut :=
  withPool c s fun n p =>
    let pins := (s.cache.pins.filter fun x => x.pool == n && x.ready).length
    .done s .ok (poolBytes p) (pack [(0, 16, pins), (16, 1, flag (holdActive s))]) p.misses

/-- KV_POOL_QUERY (R305). -/
def execKvPoolQuery (c : Cmd) (s : State) : Host.Outcome State Fault Refusal := .next (runCmd specPoolQuery doPoolQuery c s)

def specSeal : CmdSpec :=
  { opcode := 0x0604, issuer := .any, cls := .any, level2 := true, fields := [(0, 1), (1, 1), (2, 1), (4, 2), (8, 4)] }

def doSeal (c : Cmd) (s : State) : CmdOut :=
  withPool c s fun n p =>
    let first := param c 1 1
    let count := param c 2 1
    let tokens := param c 8 4
    needParam (decide (first < p.layers) && decide (1 ≤ count ∧ first + count ≤ p.layers) && decide (param c 4 2 < p.maxUsers) &&
      decide (tokens ≤ 64 * p.maxBlocks)) s (.deferred s (.kvSeal n (param c 4 2) first count (tokens / 64) 0))

/-- KV_SEAL (R284). -/
def execKvSeal (c : Cmd) (s : State) : Host.Outcome State Fault Refusal := .next (runCmd specSeal doSeal c s)

/-- Seal blocks of a layer up to `goal`: how many were sealed, and whether a page stopped it. -/
def sealUpTo (fuel pool : Nat) (p : Pool) (u l goal : Nat) (s : State) (n : Nat) : State × Nat × Bool :=
  match fuel with
  | 0 => (s, n, true)
  | fuel + 1 =>
    let b := sealedOf s pool u l
    if goal ≤ b then (s, n, true)
    else if sealBarred s p u l b then (s, n, false)
    else sealUpTo fuel pool p u l goal (sealBlock pool p u l b s) (n + 1)

/-- The layers and the blocks that a waiting `kv.seal` of the user names: first layer, how many, how many whole blocks. -/
def sealJob (pool user : Nat) (d : Deferral) : Option (Nat × Nat × Nat) :=
  match d with
  | .kvSeal n u first count blocks _ => if n = pool ∧ u = user then some (first, count, blocks) else none
  | _ => none

/-- KV_SEAL_DONE (R284): the oldest seal of the user runs to its end, or to the first page that is not present. DESIGN CHOICE (log entry 122):
where the pool is gone, the seal ends with `INVALID_PARAM`. -/
def execKvSealDone (pool user : Nat) (s : State) : Host.Outcome State Fault Refusal :=
  whileLit s <|
  match s.commands.find? (fun x => (sealJob pool user x.what).isSome), poolGet s pool with
  | some x, none => .next (answer x .invalidParam 0 0 0 { s with commands := s.commands.erase x })
  | some x, some p =>
    (match sealJob pool user x.what with
     | none => .next s
     | some (first, count, goal) =>
       let step (acc : State × Nat × Bool) (l : Nat) : State × Nat × Bool :=
         if acc.2.2 then sealUpTo (p.maxBlocks + 1) pool p user l goal acc.1 acc.2.1 else acc
       let r := ((List.range count).map fun i => first + i).foldl step (s, 0, true)
       .next (answer x (if r.2.2 then .ok else .cacheMiss) r.2.1 0 0 { r.1 with commands := r.1.commands.erase x }))
  | _, _ => .next s

/-- The pool and the user that a command names. -/
def withUser (c : Cmd) (s : State) (k : Nat → Pool → Nat → CmdOut) : CmdOut :=
  withPool c s fun n p => if param c 2 2 < p.maxUsers then k n p (param c 2 2) else cmdFail s .invalidParam

def specUserReset : CmdSpec := { opcode := 0x0605, issuer := .any, cls := .any, level2 := true, fields := [(0, 1), (2, 2)] }

/-- Requests of a user that are accepted and not complete; `d0`: those of class D0 alone. -/
def userOpen (s : State) (pool user : Nat) (d0 : Bool) : Bool :=
  (openRequests s pool).any fun w => (attnDesc w.entry).user == user && (!d0 || (attnDesc w.entry).dclass == 0)

def doUserReset (c : Cmd) (s : State) : CmdOut :=
  withUser c s fun n p u =>
    if (s.cache.pins.any fun x => x.pool == n && x.user == u) || userOpen s n u false then cmdFail s .busy
    else
      let clear (t : State) (l : Nat) : State :=
        if (poolMiss t p (metaAt p u) 4).isNone then poolWrite p (metaAt p u + 4 * l) (leBytes 4 0) t else t
      let s1 := (List.range p.layers).foldl clear s
      cmdOk (cacheMod (fun x => { x with sealedBlocks := x.sealedBlocks.filter fun q => q.1 / 128 != n * 4096 + u }) s1)

/-- KV_USER_RESET (R305). -/
def execKvUserReset (c : Cmd) (s : State) : Host.Outcome State Fault Refusal := .next (runCmd specUserReset doUserReset c s)

/-- Summary bytes and translations that a pinned user takes (R285). -/
def pinSummary (p : Pool) : Nat := p.layers * p.maxBlocks * summaryBytes p
def pinPages (p : Pool) : Nat := userBytes p / 65536

/-- What the pinned users take together. -/
def pinsTake (s : State) (f : Pool → Nat) : Nat :=
  (s.cache.pins.map fun x => match poolGet s x.pool with | some p => f p | none => 0).sum

/-- Residency for summaries: 1.5 MiB in every shoal in service (R285, Table 10-9). -/
def residency (s : State) : Nat := 1572864 * (usableShoals s).length

def specUserPin : CmdSpec := { opcode := 0x0606, issuer := .any, cls := .any, level2 := true, fields := [(0, 1), (2, 2)] }

def doUserPin (c : Cmd) (s : State) : CmdOut :=
  withUser c s fun n p u =>
    if s.cache.pins.any fun x => x.pool == n && x.user == u then cmdFail s .busy
    else if residency s < pinsTake s pinSummary + pinSummary p ∨ 1048576 < pinsTake s pinPages + pinPages p then cmdFail s .noResource
    else
      let new : Pin := { pool := n, user := u, ready := false, ending := false }
      .deferred (cacheMod (fun x => { x with pins := x.pins ++ [new] }) s) (.kvPin n u)

/-- KV_USER_PIN (R285). -/
def execKvUserPin (c : Cmd) (s : State) : Host.Outcome State Fault Refusal := .next (runCmd specUserPin doUserPin c s)

def pinMod (pool user : Nat) (f : Pin → Pin) (s : State) : State :=
  cacheMod (fun c => { c with pins := c.pins.map fun x => if x.pool = pool ∧ x.user = user then f x else x }) s

/-- KV_USER_PIN_DONE (R285). DESIGN CHOICE (log entry 122): where the pin went before it was loaded, with its pool or its key, the command
ends with `INVALID_PARAM`. -/
def execKvUserPinDone (pool user : Nat) (s : State) : Host.Outcome State Fault Refusal :=
  whileLit s <|
  let sel (st : Status) (d : Deferral) : Option (Status × Nat × Nat × Nat) := if d = .kvPin pool user then some (st, 0, 0, 0) else none
  match poolGet s pool with
  | none => .next (finishCmds (sel .invalidParam) s)
  | some p =>
    if s.cache.pins.any fun x => x.pool == pool && x.user == user && !x.ready then
      .next (finishCmds (sel .ok) (loadSummaries pool p user (pinMod pool user (fun x => { x with ready := true }) s)))
    else .next (finishCmds (sel .invalidParam) s)

def specUserUnpin : CmdSpec := { opcode := 0x0607, issuer := .any, cls := .any, level2 := true, fields := [(0, 1), (2, 2)] }

def doUserUnpin (c : Cmd) (s : State) : CmdOut :=
  withUser c s fun n _ u =>
    if s.cache.pins.any fun x => x.pool == n && x.user == u && x.ready && !x.ending then
      .deferred (pinMod n u (fun x => { x with ending := true }) s) (.kvUnpin n u)
    else cmdFail s .invalidParam

/-- KV_USER_UNPIN (R286). -/
def execKvUserUnpin (c : Cmd) (s : State) : Host.Outcome State Fault Refusal := .next (runCmd specUserUnpin doUserUnpin c s)

/-- KV_USER_UNPIN_DONE (R286). -/
def execKvUserUnpinDone (pool user : Nat) (s : State) : Host.Outcome State Fault Refusal :=
  whileLit s <|
  if userOpen s pool user true then .next s
  else
    let sel (d : Deferral) : Option (Status × Nat × Nat × Nat) := if d = .kvUnpin pool user then some (.ok, 0, 0, 0) else none
    .next (finishCmds sel (dropPins (fun x => x.pool == pool && x.user == user && x.ending) s))

def specPartner : CmdSpec := { opcode := 0x0608, issuer := .pf0, cls := .any, level2 := true, fields := [(0, 1), (1, 1), (2, 1)] }

/-- Two spur ports are no longer partners of any port. -/
def partPorts (a b : Nat) (s : State) : State :=
  fabMod (fun f => { f with ports := tabMap f.ports fun _ z => if z.partner = some a ∨ z.partner = some b then { z with partner := none } else z }) s

/-- Join or part two spur ports that face one link partner (R292, R300). -/
def doPartner (c : Cmd) (s : State) : CmdOut :=
  let a := param c 0 1
  let b := param c 1 1
  match portGet s a, portGet s b with
  | some x, some y =>
    let facing := x.active && y.active && x.partnerDev == y.partnerDev
    needParam (decide (a ≠ b) && x.role == .spur && y.role == .spur && facing && decide (param c 2 1 < 2)) s <|
    if admittedEndpoint s a ∨ admittedEndpoint s b then cmdFail s .busy
    else
      let to_ (q : Nat) : Option Nat := if param c 2 1 = 1 then some q else none
      cmdOk (portMod b (fun z => { z with partner := to_ a }) (portMod a (fun z => { z with partner := to_ b }) (partPorts a b s)))
  | _, _ => cmdFail s .invalidParam

/-- KV_PARTNER (R292). -/
def execKvPartner (c : Cmd) (s : State) : Host.Outcome State Fault Refusal := .next (runCmd specPartner doPartner c s)

end Sys2Proof.Machine
end

