-- ==== Sys2Proof/Machine/Operators.lean ====
section
/-! DEFINITION. Shoal operators (chapter 11): the descriptor and argument block (R313, R314), the checks of R316, R317 and R330, and
what each tile reads, computes and writes (R318 to R323). -/

namespace Sys2Proof.Machine

/-! ### Descriptor and operands -/

/-- Operators of Table 11-5. -/
inductive OpKind where
  | gemm | quantise | dequantise | gather | scatterAdd | sparsify
deriving DecidableEq, Repr

def opKindOf (n : Nat) : Option OpKind :=
  match n with
  | 1 => some .gemm | 2 => some .quantise | 3 => some .dequantise | 4 => some .gather | 5 => some .scatterAdd
  | 6 => some .sparsify | _ => none

/-- Table 11-3. -/
structure OpDesc where
  aT : Nat
  bT : Nat
  cT : Nat
  dT : Nat
  transA : Bool
  transB : Bool
  sparse : Bool
  stoch  : Bool
  sat    : Bool
  indirect : Bool
  m : Nat
  n : Nat
  k : Nat
  alpha : Nat
  beta  : Nat
  seed  : Nat
  argsKey : W32
  args  : Nat
  phase : Nat
deriving DecidableEq, Repr

def opDesc (e : W512) : OpDesc :=
  let f (lo w : Nat) : Nat := bits e.toNat lo w
  { aT := f 136 4, bT := f 140 4, cT := f 144 4, dT := f 148 4, transA := bit e.toNat 152, transB := bit e.toNat 153,
    sparse := bit e.toNat 154, stoch := bit e.toNat 155, sat := bit e.toNat 156, indirect := bit e.toNat 157, m := f 160 20,
    n := f 180 20, k := f 200 20, alpha := f 220 32, beta := f 252 32, seed := f 284 32, argsKey := BitVec.ofNat 32 (f 316 32),
    args := f 348 57, phase := f 405 3 }

/-- Table 11-4. -/
structure Operand where
  key : W32
  dva : Nat
  ld  : Nat
  scale : Nat
  scaleLd : Nat
  tail : Nat
deriving DecidableEq, Repr

/-- Record `i` of the argument block: A, B, C, D, X. -/
def operandAt (args : List Byte) (i : Nat) : Operand :=
  let r := ofLe (slice args (32 * i) 32)
  { key := BitVec.ofNat 32 (bits r 0 32), dva := bits r 32 64, ld := bits r 96 32, scale := bits r 128 64, scaleLd := bits r 192 32,
    tail := bits r 224 32 }

/-- Shape of a stored matrix; `dt` 0 stands for any 32-bit element, 15 for bytes. -/
structure Shape where
  rows : Nat
  cols : Nat
  dt   : Nat
deriving DecidableEq, Repr

/-- The shape of operand `i` as stored (Table 11-5, R319), where the operator uses it. `r` is the row count of R321. -/
def shapeOf (o : OpKind) (d : OpDesc) (r i : Nat) : Option Shape :=
  match o, i with
  | .gemm, 0 =>
    if d.transA then some ⟨d.k, d.m, d.aT⟩ else some ⟨d.m, if d.sparse then d.k / 2 else d.k, d.aT⟩
  | .gemm, 1 => if d.transB then some ⟨d.n, d.k, d.bT⟩ else some ⟨d.k, d.n, d.bT⟩
  | .gemm, 2 => some ⟨d.m, d.n, d.cT⟩
  | .gemm, 3 => some ⟨d.m, d.n, d.dT⟩
  | .gemm, 4 => if d.sparse then some ⟨d.m, ceilDiv d.k 8, 15⟩ else none
  | .quantise, 0 | .dequantise, 0 => some ⟨d.m, d.n, d.aT⟩
  | .quantise, 3 | .dequantise, 3 => some ⟨d.m, d.n, d.dT⟩
  | .gather, 0 => some ⟨d.k, d.n, d.aT⟩
  | .gather, 3 => some ⟨r, d.n, d.dT⟩
  | .gather, 4 => some ⟨1, r, 0⟩
  | .scatterAdd, 0 => some ⟨r, d.n, d.aT⟩
  | .scatterAdd, 1 => some ⟨1, r, 0⟩
  | .scatterAdd, 2 => some ⟨d.m, d.n, d.cT⟩
  | .scatterAdd, 3 => some ⟨d.m, d.n, d.dT⟩
  | .scatterAdd, 4 => some ⟨1, r, 0⟩
  | .sparsify, 0 => some ⟨d.m, d.k, d.aT⟩
  | .sparsify, 3 => some ⟨d.m, d.k / 2, d.dT⟩
  | .sparsify, 4 => some ⟨d.m, ceilDiv d.k 8, 15⟩
  | _, _ => none

/-- C may be absent (Table 11-5). -/
def optionalOperand (i : Nat) : Bool := i == 2

/-- The operator writes operand `i`. -/
def writtenOperand (o : OpKind) (i : Nat) : Bool := i == 3 || (o == .sparsify && i == 4)

/-- Row count or its capacity (R321). -/
def capacity (o : OpKind) (d : OpDesc) : Nat := if o = .gather then d.m else d.k

/-- The operator takes an index list. -/
def isIndexed (o : OpKind) : Bool := o == .gather || o == .scatterAdd

/-! ### Checks (Tables 11-3, 11-6, 11-9) -/

/-- Ranges of Table 11-3. -/
def opFieldsOk (d : OpDesc) : Bool :=
  decide (1 ≤ d.m) && decide (1 ≤ d.n) && decide (1 ≤ d.k) && d.args % 32 == 0 && decide (d.phase ≤ 4)

def rowBytes (d : OpDesc) (dt : Nat) : Nat := d.n * elemBits dt / 8

/-- `ALPHA` is finite and not zero. -/
def alphaPlain (d : OpDesc) : Bool :=
  match decodeNum fp32 d.alpha with
  | .fin _ m => m != 0
  | _ => false

/-- The rows of Table 11-6 (log entry 41 for an MX operand's last block). -/
def opTypesOk (o : OpKind) (d : OpDesc) (hasC : Bool) : Bool :=
  let le (x n : Nat) : Bool := decide (x ≤ n)
  let blocks (dt n : Nat) : Bool := !isMx dt || n % 32 == 0
  match o with
  | .gemm =>
    let mx := isMx d.aT || isMx d.bT
    ((le d.aT 9 && le d.bT 9) || (d.aT == 10 && d.bT == 10)) && (!hasC || le d.cT 2) && le d.dT 10 &&
    (!isMx d.aT || !d.transA) && (!isMx d.bT || d.transB) && !(d.sparse && d.transA) && blocks d.dT d.n &&
    (if mx && d.sparse then d.k % 64 == 0 else !(mx || d.sparse) || d.k % 32 == 0)
  | .quantise => le d.aT 2 && decide (1 ≤ d.dT) && le d.dT 10 && decide (elemBits d.dT < elemBits d.aT) && blocks d.dT d.n
  | .dequantise => decide (3 ≤ d.aT) && le d.aT 10 && le d.dT 2 && blocks d.aT d.n
  | .gather => (le d.aT 10 || d.aT == 15) && d.dT == d.aT && blocks d.aT d.n
  | .scatterAdd => le d.aT 6 && d.bT == 0 && le d.cT 1 && d.dT == d.cT && blocks d.aT d.n
  | .sparsify => (le d.aT 4 || d.aT == 10) && d.dT == d.aT && d.k % 4 == 0

/-- The conditions of Table 11-6 that are no matter of format. -/
def opValuesOk (o : OpKind) (d : OpDesc) : Bool :=
  match o with
  | .quantise | .dequantise => alphaPlain d
  | .gather | .scatterAdd => decide (1 ≤ rowBytes d d.aT ∧ rowBytes d d.aT ≤ 65536)
  | .gemm | .sparsify => true

/-- The RSVD parts of a record, and its pitch: INVALID_PARAM or OPERATOR_FORMAT. -/
def recordCheck (o : OpKind) (d : OpDesc) (i : Nat) (x : Operand) (sh : Shape) : Option Status :=
  let count := isIndexed o && i == 4 && d.indirect
  let rsvd := x.tail != 0 || decide (2 ^ 57 ≤ x.dva) ||
    (!isMx sh.dt && ((x.scale != 0 && !count) || x.scaleLd != 0))
  if rsvd || decide (x.ld < sh.cols) then some .invalidParam
  else if isMx sh.dt && x.ld % 32 != 0 then some .operatorFormat
  else none

/-! ### Ranges -/

/-- Element bytes of row `i`, columns [`c0`, `c1`) (R315). -/
def elemRange (x : Operand) (sh : Shape) (c0 c1 i : Nat) : Nat × Nat :=
  (x.dva + (i * x.ld + c0) * elemBits sh.dt / 8, ceilDiv ((c1 - c0) * elemBits sh.dt) 8)

/-- Scale bytes of the same. -/
def scaleRange (x : Operand) (c0 c1 i : Nat) : Nat × Nat := (x.scale + i * x.scaleLd + c0 / 32, ceilDiv c1 32 - c0 / 32)

/-- Every range of a block of an operand. -/
def blockOf (x : Operand) (sh : Shape) (r0 r1 c0 c1 : Nat) : List (Nat × Nat) :=
  (List.range (r1 - r0)).flatMap fun j =>
    elemRange x sh c0 c1 (r0 + j) :: (if isMx sh.dt then [scaleRange x c0 c1 (r0 + j)] else [])

/-- Every range of an operand. -/
def wholeOf (x : Operand) (sh : Shape) : List (Nat × Nat) := blockOf x sh 0 sh.rows 0 sh.cols

/-- Checks 3 and 4 of R95 on every range, after checks 1 and 2 on the key. -/
def rangesKey (s : State) (fn : Nat) (key : W32) (right : Nat) (l : List (Nat × Nat)) : Option Status :=
  match keyCheck12 s fn key with
  | .error e => some e
  | .ok r =>
    if !bit r.rights.toNat right then some .accessDenied
    else l.findSome? fun p => keyCheck34 r right p.1 p.2

/-- Two ranges share a byte. -/
def overlaps (p q : Nat × Nat) : Bool := decide (p.1 < q.1 + q.2 ∧ q.1 < p.1 + p.2)

/-- The used operands of an operator, with their shapes. -/
def operandsOf (o : OpKind) (d : OpDesc) (args : List Byte) (r : Nat) : List (Nat × Operand × Shape) :=
  (List.range 5).filterMap fun i =>
    match shapeOf o d r i with
    | some sh => if (operandAt args i).key = 0 then none else some (i, operandAt args i, sh)
    | none => none

/-- The count word of R321. -/
def countRange (o : OpKind) (d : OpDesc) (args : List Byte) : List (Nat × Nat) :=
  if isIndexed o && d.indirect then [((operandAt args 4).scale, 4)] else []

/-- Everything but the counts and indices: absent and surplus operands, records, keys, overlaps (R317). -/
def operandsCheck (s : State) (fn : Nat) (o : OpKind) (d : OpDesc) (args : List Byte) (r : Nat) : Option Status :=
  let present (i : Nat) : Bool := (operandAt args i).key != 0
  let wrong := (List.range 5).any fun i =>
    match shapeOf o d r i with
    | some _ => !present i && !optionalOperand i
    | none => present i
  if wrong then some .invalidParam
  else
    let l := operandsOf o d args r
    match l.findSome? fun p => recordCheck o d p.1 p.2.1 p.2.2 with
    | some e => some e
    | none =>
      let ranges (p : Nat × Operand × Shape) : List (Nat × Nat) :=
        wholeOf p.2.1 p.2.2 ++ (if p.1 = 4 then countRange o d args else [])
      match l.findSome? fun p =>
          rangesKey s fn p.2.1.key (if writtenOperand o p.1 then rightLocalWrite else rightLocalRead) (ranges p) with
      | some e => some e
      | none =>
        let written := (l.filter fun p => writtenOperand o p.1).flatMap ranges
        let read := ((l.filter fun p => !writtenOperand o p.1).flatMap ranges) ++ [(d.args, 160)]
        if written.any fun w => read.any fun q => overlaps w q then some .invalidParam else none

/-! ### Memory as a tile sees it -/

/-- Where byte `a` stands in the concatenation of ranges. -/
def rangeOffset (l : List (Nat × Nat)) (a : Nat) : Nat :=
  match l with
  | [] => 0
  | p :: rest => if p.1 ≤ a ∧ a < p.1 + p.2 then a - p.1 else p.2 + rangeOffset rest a

/-- A byte at a DVA: tarn memory as it stands; elsewhere what the DMA of the ranges brought (log entry 3). -/
def sourceByte (s : State) (fn : Nat) (ranges : List (Nat × Nat)) (fetched : List Byte) (a : Nat) : Byte :=
  match translate s fn a with
  | some (.tarn, _, t) => memRead s.tarns.mem t
  | _ => fetched.getD (rangeOffset ranges a) 0

/-- The code of element (i, j) (R307, R315). -/
def codeAt (rd : Nat → Byte) (x : Operand) (dt i j : Nat) : Nat :=
  let at_ := (i * x.ld + j) * elemBits dt
  bits (ofLe ((List.range 5).map fun n => rd (x.dva + at_ / 8 + n))) (at_ % 8) (elemBits dt)

/-- Its value without its scale. -/
def rawNum (dt code : Nat) : Num :=
  match fmtOf dt with
  | some f => decodeNum f code
  | none => decodeInt8 code

def scaleByte (rd : Nat → Byte) (x : Operand) (i j : Nat) : Nat := (rd (x.scale + i * x.scaleLd + j / 32)).toNat

def scaleNum (dt b : Nat) : Num :=
  if !isMx dt then .fin false 1 else if b = 255 then .nan else .fin false (pow2 ((b : Int) - 127))

/-- The value of element (i, j). -/
def valueAt (rd : Nat → Byte) (x : Operand) (dt i j : Nat) : Num :=
  numMul (rawNum dt (codeAt rd x dt i j)) (scaleNum dt (if isMx dt then scaleByte rd x i j else 0))

/-! ### Output rows -/

/-- What became of a row of outputs: its bytes, its scale bytes, and the two flags of Table 11-8. -/
structure OutRow where
  bytes  : List Byte
  scales : List Byte
  sat    : Bool
  nan    : Bool
deriving DecidableEq, Repr

/-- Convert MX blocks one after another. -/
def mxRow (fuel : Nat) (f : Fmt) (m : Nat → Rounding) (base : Nat) (xs : List Num) : List Nat × List Nat × Bool :=
  match fuel with
  | 0 => ([], [], false)
  | fuel + 1 =>
    if xs.isEmpty then ([], [], false)
    else
      let b := mxForm f (fun i => m (base + i)) (xs.take 32)
      let rest := mxRow fuel f m (base + 32) (xs.drop 32)
      (b.2.1 ++ rest.1, b.1 :: rest.2.1, b.2.2 || rest.2.2)

/-- Convert values to a type (R309 to R312); `m` gives the rounding of the element at each place of the row. -/
def outRow (dt : Nat) (sat : Bool) (m : Nat → Rounding) (xs : List Num) : OutRow :=
  match fmtOf dt with
  | some f =>
    if isMx dt then
      let r := mxRow (xs.length + 1) f m 0 xs
      { bytes := packCodes f.width r.1, scales := r.2.1.map fun b => BitVec.ofNat 8 b, sat := false, nan := r.2.2 }
    else
      let l := xs.zipIdx.map fun p => convertFlag f (m p.2) sat p.1
      { bytes := packCodes f.width (l.map fun p => encodeNum f p.1), scales := [], sat := l.any fun p => p.2,
        nan := l.any fun p => isNan p.1 }
  | none =>
    let l := xs.zipIdx.map fun p => convertInt8 (m p.2) p.1
    { bytes := l.map fun p => BitVec.ofNat 8 p.1, scales := [], sat := l.any fun p => p.2.1, nan := l.any fun p => p.2.2 }

/-- The rounding of the element with linear index `n` (R311). -/
def opRounding (d : OpDesc) (n : Nat) : Rounding := if d.stoch then .stochastic (stochasticR d.seed n) else .nearest

/-- Rows that are copied: some element or scale is NaN. -/
def copyNan (dt : Nat) (codes scales : List Nat) : Bool :=
  (dt != 15 && codes.any fun c => isNan (rawNum dt c)) || scales.any (· == 255)

/-! ### GEMM (R318, R319) -/

/-- One product of a dot product: the two elements without scales, and the scale of each. -/
structure Term where
  a : Num
  b : Num
  sa : Num
  sb : Num
deriving DecidableEq, Repr

/-- Group sums added into the accumulator, `size` terms to a group. -/
def gemmSum (fuel size : Nat) (single : Bool) (acc : Num) (ts : List Term) : Num :=
  match fuel with
  | 0 => acc
  | fuel + 1 =>
    match ts with
    | [] => acc
    | t :: _ =>
      let products := (ts.take size).map fun p => if single then toFp32 (numMul p.a p.b) else numMul p.a p.b
      let sum := toFp32 (numMul (numMul (sumExact products) t.sa) t.sb)
      gemmSum fuel size single (toFp32 (numAdd acc sum)) (ts.drop size)

/-- The metadata nibble of group `g` of row `i` (R319). -/
def metaNibble (rd : Nat → Byte) (x : Operand) (i g : Nat) : Nat := bits (rd (x.dva + i * x.ld + g / 2)).toNat (4 * (g % 2)) 4

/-- The metadata of a group is in order. -/
def metaOk (rd : Nat → Byte) (x : Operand) (i g : Nat) : Bool :=
  let v := metaNibble rd x i g
  decide (v % 4 < v / 4)

/-- The logical k of stored value `p` of row `i`. -/
def logicalK (rd : Nat → Byte) (x : Operand) (i p : Nat) : Nat :=
  let v := metaNibble rd x i (p / 2)
  p / 2 * 4 + (if p % 2 = 0 then v % 4 else v / 4)

/-- Terms of output (i, j) in ascending stored order. -/
def gemmTerms (rd : Nat → Byte) (d : OpDesc) (args : List Byte) (i j : Nat) : List Term :=
  let a := operandAt args 0
  let b := operandAt args 1
  let x := operandAt args 4
  (List.range (if d.sparse then d.k / 2 else d.k)).map fun p =>
    let k := if d.sparse then logicalK rd x i p else p
    let ai := if d.transA then (p, i) else (i, p)
    let bi := if d.transB then (j, k) else (k, j)
    { a := rawNum d.aT (codeAt rd a d.aT ai.1 ai.2), b := rawNum d.bT (codeAt rd b d.bT bi.1 bi.2),
      sa := scaleNum d.aT (if isMx d.aT then scaleByte rd a ai.1 ai.2 else 0),
      sb := scaleNum d.bT (if isMx d.bT then scaleByte rd b bi.1 bi.2 else 0) }

/-- Output (i, j) before its conversion. -/
def gemmElem (rd : Nat → Byte) (d : OpDesc) (args : List Byte) (i j : Nat) : Num :=
  let ts := gemmTerms rd d args i j
  let acc := gemmSum (ts.length + 1) (if d.sparse then 8 else 16) (d.aT == 0 || d.bT == 0) (.fin false 0) ts
  let scaled := numMul (decodeNum fp32 d.alpha) acc
  let c := operandAt args 2
  toFp32 (if c.key = 0 then scaled else numAdd scaled (numMul (decodeNum fp32 d.beta) (valueAt rd c d.cT i j)))

/-! ### SPARSIFY (R320) -/

/-- `x` ranks above `y`. -/
def outranks (x y : Num) : Bool :=
  match x, y with
  | .nan, .nan => false
  | .nan, _ => true
  | _, .nan => false
  | .inf _, .inf _ => false
  | .inf _, .fin _ _ => true
  | .fin _ _, .inf _ => false
  | .fin _ m, .fin _ n => decide (n < m)

/-- The position of the best of some positions; ties to the lower. -/
def bestOf (v : Nat → Num) (l : List Nat) : Nat :=
  match l with
  | [] => 0
  | p :: rest => rest.foldl (fun b q => if outranks (v q) (v b) then q else b) p

/-- The two kept positions of a group, ascending. -/
def keepTwo (v : Nat → Num) : Nat × Nat :=
  let p := bestOf v [0, 1, 2, 3]
  let q := bestOf v ([0, 1, 2, 3].filter (· != p))
  (min p q, max p q)

/-! ### Tiles (R322, R323) -/

/-- Tiles of an operator. -/
def opTiles (o : OpKind) (d : OpDesc) (r : Nat) : Nat :=
  match o with
  | .gemm => ceilDiv d.m 128 * ceilDiv d.n 128
  | .quantise | .dequantise => ceilDiv d.m 32 * ceilDiv d.n 2048
  | .sparsify => ceilDiv d.m 32 * ceilDiv d.k 2048
  | .gather => ceilDiv r 32
  | .scatterAdd => max 1 (ceilDiv r 32)

/-- The rows and columns of tile `t`: [r0, r1) × [c0, c1). -/
def tileArea (o : OpKind) (d : OpDesc) (r t : Nat) : Nat × Nat × Nat × Nat :=
  let area (rows cols h w : Nat) : Nat × Nat × Nat × Nat :=
    let i := t / ceilDiv cols w
    let j := t % ceilDiv cols w
    (h * i, min rows (h * i + h), w * j, min cols (w * j + w))
  match o with
  | .gemm => area d.m d.n 128 128
  | .quantise | .dequantise => area d.m d.n 32 2048
  | .sparsify => area d.m d.k 32 2048
  | .gather | .scatterAdd => (32 * t, min r (32 * t + 32), 0, d.n)

/-- What tile `t` reads and writes: operand number, key, and ranges, in the order A, B, C, D, X. -/
def tileRanges (o : OpKind) (d : OpDesc) (run : OpRun) : List (Nat × W32 × List (Nat × Nat)) :=
  let a := tileArea o d run.rows run.next
  let r0 := a.1
  let r1 := a.2.1
  let c0 := a.2.2.1
  let c1 := a.2.2.2
  let last := run.next + 1 == opTiles o d run.rows
  (operandsOf o d run.args run.rows).map fun p =>
    let x := p.2.1
    let sh := p.2.2
    let part (rr0 rr1 cc0 cc1 : Nat) : Nat × W32 × List (Nat × Nat) := (p.1, x.key, blockOf x sh rr0 rr1 cc0 cc1)
    match o, p.1 with
    | .gemm, 0 => if d.transA then part 0 d.k r0 r1 else part r0 r1 0 sh.cols
    | .gemm, 1 => if d.transB then part c0 c1 0 d.k else part 0 d.k c0 c1
    | .gemm, 4 => part r0 r1 0 sh.cols
    | .sparsify, 3 => part r0 r1 (c0 / 2) (c1 / 2)
    | .sparsify, 4 => part r0 r1 (c0 / 8) (ceilDiv c1 8)
    | .gather, 0 => (p.1, x.key, ((run.indices.drop r0).take (r1 - r0)).flatMap fun j => blockOf x sh j (j + 1) 0 sh.cols)
    | .gather, 4 | .scatterAdd, 4 => (p.1, x.key, [])
    | .scatterAdd, 1 => part 0 1 r0 r1
    | .scatterAdd, 2 => if run.next = 0 then part 0 d.m 0 d.n else (p.1, x.key, [])
    | .scatterAdd, 3 => if last then part 0 d.m 0 d.n else (p.1, x.key, [])
    | _, _ => part r0 r1 c0 c1

/-- One row of a tile's output: the operand, its row, its first column, and what stands there. -/
structure RowOut where
  i    : Nat
  col  : Nat
  row  : OutRow
deriving DecidableEq, Repr

/-- Place a row of the output of an operand (R315). -/
def placeRow (fn rec : Nat) (x : Operand) (dt : Nat) (s : State) (q : RowOut) : State :=
  let s1 := placeAt fn (x.dva + (q.i * x.ld + q.col) * elemBits dt / 8) q.row.bytes (.work rec) s
  if q.row.scales.isEmpty then s1 else placeAt fn (x.scale + q.i * x.scaleLd + q.col / 32) q.row.scales (.work rec) s1

/-- The rows of D that a tile of `GEMM`, `QUANTISE` or `DEQUANTISE` computes. -/
def computeRows (o : OpKind) (d : OpDesc) (args : List Byte) (rd : Nat → Byte) (a : Nat × Nat × Nat × Nat) : List RowOut :=
  let elem (i j : Nat) : Num :=
    match o with
    | .gemm => gemmElem rd d args i j
    | _ => numMul (decodeNum fp32 d.alpha) (valueAt rd (operandAt args 0) d.aT i j)
  (List.range (a.2.1 - a.1)).map fun n =>
    let i := a.1 + n
    let xs := (List.range (a.2.2.2 - a.2.2.1)).map fun q => elem i (a.2.2.1 + q)
    { i := i, col := a.2.2.1, row := outRow d.dT d.sat (fun q => opRounding d (i * d.n + a.2.2.1 + q)) xs }

/-- The rows of D that a tile of `GATHER` copies. -/
def gatherRows (d : OpDesc) (run : OpRun) (rd : Nat → Byte) (a : Nat × Nat × Nat × Nat) : List RowOut :=
  let x := operandAt run.args 0
  (List.range (a.2.1 - a.1)).map fun n =>
    let j := run.indices.getD (a.1 + n) 0
    let codes := (List.range d.n).map fun c => codeAt rd x d.aT j c
    let scales := if isMx d.aT then (List.range (d.n / 32)).map fun b => scaleByte rd x j (32 * b) else []
    { i := a.1 + n, col := 0,
      row := { bytes := packCodes (elemBits d.aT) codes, scales := scales.map fun b => BitVec.ofNat 8 b, sat := false,
               nan := copyNan d.aT codes scales } }

/-- Kept positions of the groups of row `i` in columns [`c0`, `c1`). -/
def keptOf (d : OpDesc) (run : OpRun) (rd : Nat → Byte) (c0 c1 i : Nat) : List (Nat × Nat) :=
  let x := operandAt run.args 0
  (List.range ((c1 - c0) / 4)).map fun g => keepTwo fun p => rawNum d.aT (codeAt rd x d.aT i (c0 + 4 * g + p))

/-- Rows of D and of X that a tile of `SPARSIFY` writes. `pad`: the high half of a last byte that no group fills. -/
def sparsifyRows (d : OpDesc) (run : OpRun) (rd : Nat → Byte) (pad : Nat → Nat) (a : Nat × Nat × Nat × Nat) :
    List RowOut × List RowOut :=
  let x := operandAt run.args 0
  let rows := List.range (a.2.1 - a.1)
  let c0 := a.2.2.1
  let c1 := a.2.2.2
  (rows.map fun n =>
     let i := a.1 + n
     let codes := (keptOf d run rd c0 c1 i).zipIdx.flatMap fun p =>
       [codeAt rd x d.aT i (c0 + 4 * p.2 + p.1.1), codeAt rd x d.aT i (c0 + 4 * p.2 + p.1.2)]
     { i := i, col := c0 / 2, row := { bytes := packCodes (elemBits d.aT) codes, scales := [], sat := false,
                                       nan := copyNan d.aT codes [] } },
   rows.map fun n =>
     let i := a.1 + n
     let nibbles := (keptOf d run rd c0 c1 i).map fun p => p.1 + 4 * p.2
     let full := if nibbles.length % 2 = 0 then nibbles else nibbles ++ [pad n % 16]
     { i := i, col := c0 / 8, row := { bytes := packCodes 4 full, scales := [], sat := false, nan := false } })

/-- The accumulators of `SCATTER_ADD` as tile 0 finds them: C, or zero (Table 11-5). -/
def scatterStart (d : OpDesc) (args : List Byte) (rd : Nat → Byte) : List W32 :=
  let c := operandAt args 2
  (List.range (d.m * d.n)).map fun n => if c.key = 0 then 0 else codeOf (valueAt rd c d.cT (n / d.n) (n % d.n))

/-- Row `i` of A, times its gate, is added to row X[i] of the accumulators (R321). -/
def scatterRow (d : OpDesc) (run : OpRun) (rd : Nat → Byte) (acc : List W32) (i : Nat) : List W32 :=
  let j := run.indices.getD i 0
  let gate := valueAt rd (operandAt run.args 1) 0 0 i
  acc.zipIdx.map fun p =>
    if p.2 / d.n = j then
      codeOf (toFp32 (numAdd (ofCode p.1) (numMul gate (valueAt rd (operandAt run.args 0) d.aT i (p.2 % d.n)))))
    else p.1

/-- The rows of D once every row of A has been added. -/
def scatterOut (d : OpDesc) (acc : List W32) : List RowOut :=
  (List.range d.m).map fun i =>
    let xs := ((acc.drop (i * d.n)).take d.n).map ofCode
    { i := i, col := 0, row := outRow d.dT d.sat (fun q => opRounding d (i * d.n + q)) xs }

end Sys2Proof.Machine
end

