-- ==== Sys2Proof/Machine/OperRuns.lean ====
section
/-! DEFINITION. How a shoal operator begins, runs its tiles, and ends (R313, R321 to R323, R329 to R331). -/

namespace Sys2Proof.Machine

def opRunOf (s : State) (rec : Nat) : Option OpRun := s.opers.find? fun r => r.work == rec

def opRunMod (rec : Nat) (f : OpRun → OpRun) (s : State) : State :=
  { s with opers := s.opers.map fun r => if r.work = rec then f r else r }

/-- The operator ends, and its stream goes on. -/
def opEnd (rec : Nat) (status : Status) (result : Nat) (s : State) : State :=
  let s1 := { s with opers := s.opers.filter fun r => r.work != rec }
  let s2 := match workGet s1 rec with
    | some w => unsuspend (.oper w.fn (entryContext w.entry)) s1
    | none => s1
  complete rec status result none s2

/-- Pages of a segment of an operator are not present: its stream is suspended, or it ends while its function may not be reached (R82). -/
def operAbsent (fn stream access rec done : Nat) (ranges : List (Nat × Nat)) (key : W32) (s : State) : State :=
  if dmaBarred s fn then opEnd rec .translationFault done s else suspendOn fn (.oper fn stream) 1 access rec ranges key s

/-- Bits of `RESULT` while the status is `OK` (Table 11-8). -/
def opResult (r : OpRun) : Nat := pack [(0, 32, r.done), (32, 1, flag r.saturated), (33, 1, flag r.nanOut)]

/-- The operator has run its tiles and every byte of its output is where it has to be. -/
def finishOper (rec : Nat) (s : State) : State :=
  match opRunOf s rec, workGet s rec with
  | some r, some w =>
    (match opKindOf (bits w.entry.toNat 128 8) with
     | some o => if opTiles o (opDesc w.entry) r.rows ≤ r.next ∧ !contOpen s (.work rec) then opEnd rec .ok (opResult r) s else s
     | none => s)
  | _, _ => s

/-! ### Before tile 0 -/

/-- Read the argument block, the count word and the index list, judge the operator, and let it run (R317, R321, R330). `fetched`: the
bytes of these three ranges that lie outside the tarns. -/
def beginOper (rec : Nat) (w : Work) (fetched : List Byte) (s : State) : State :=
  let d := opDesc w.entry
  let absent (x : Nat × Nat × Nat) (key : W32) : State := operAbsent w.fn (entryContext w.entry) 0 rec 0 [(x.1, x.2.1)] key s
  let firstOf (l : List (Nat × Nat)) : Option (Nat × Nat × Nat) := firstAbsent s w.fn (underKey 0 l)
  let fail (e : Status) : State := opEnd rec e 0 (workMod rec (fun x => { x with begun := true }) s)
  let argRange := [(d.args, 160)]
  match opKindOf (bits w.entry.toNat 128 8) with
  | none => fail .invalidParam
  | some o =>
    if !opFieldsOk d then fail .invalidParam
    else
      match workKeyCheck w d.argsKey rightLocalRead d.args 160 with
      | some e => fail e
      | none =>
        match firstOf argRange with
        | some x => absent x d.argsKey
        | none =>
          let args := (List.range 160).map fun i => sourceByte s w.fn argRange fetched (d.args + i)
          let x := operandAt args 4
          if !opTypesOk o d ((operandAt args 2).key != 0) then fail .operatorFormat
          else if !opValuesOk o d then fail .invalidParam
          else
            let cr := countRange o d args
            let early := if cr.isEmpty then none
              else if x.key = 0 then some Status.invalidParam else rangesKey s w.fn x.key rightLocalRead cr
            match early with
            | some e => fail e
            | none =>
              match firstOf cr with
              | some y => absent y x.key
              | none =>
                let seen := argRange ++ cr
                let count := if cr.isEmpty then capacity o d
                  else ofLe ((List.range 4).map fun i => sourceByte s w.fn seen fetched (x.scale + i))
                if isIndexed o && decide (capacity o d < count) then fail .invalidParam
                else
                  match operandsCheck s w.fn o d args count with
                  | some e => fail e
                  | none =>
                    let xr := if isIndexed o && decide (0 < count) then [(x.dva, 4 * count)] else []
                    match firstOf xr with
                    | some y => absent y x.key
                    | none =>
                      let all := seen ++ xr
                      let indices := (if isIndexed o then List.range count else []).map fun i =>
                        ofLe ((List.range 4).map fun b => sourceByte s w.fn all fetched (x.dva + 4 * i + b))
                      let limit := if o = .gather then d.k else d.m
                      let host := touchesHost s w.fn d.args 160 || (operandsOf o d args count).any fun p =>
                        (wholeOf p.2.1 p.2.2).any fun q => touchesHost s w.fn q.1 q.2
                      if indices.any fun i => decide (limit ≤ i) then fail .invalidParam
                      else if dmaBarred s w.fn && host then fail .flushed
                      else
                        let run : OpRun := { work := rec, fn := w.fn, stream := entryContext w.entry, args := args, rows := count,
                                             indices := indices, acc := [], next := 0, done := 0, saturated := false,
                                             nanOut := false }
                        let s1 := workMod rec (fun y => { y with begun := true, state := .active }) s
                        finishOper rec { s1 with opers := s1.opers ++ [run] }

/-- SHOAL_OPERATOR (R313): operators of one stream run one at a time, in the order of their acceptance. -/
def execShoalOperator (rec : Nat) (fetched : List Byte) (s : State) : Host.Outcome State Fault Refusal :=
  whileLit s <|
  match readyWork s rec .operator with
  | none => .next s
  | some w =>
    let earlier := (works s).any fun p => entryOp p.2.entry == 0x31 && p.2.fn == w.fn && decide (p.2.order < w.order) &&
      entryContext p.2.entry == entryContext w.entry && openWork s p.1
    let stream : StreamId := .oper w.fn (entryContext w.entry)
    if earlier ∨ isSuspended s stream false ∨ stalled s stream then .next s else .next (beginOper rec w fetched s)

/-! ### Tiles -/

/-- The operation class of an operator for R303: the row of Table 11-7a of its slower format (log entry 42). -/
def opClass (o : OpKind) (d : OpDesc) : Nat :=
  if o = .gemm ∧ (d.aT = 0 ∨ d.bT = 0) then 4
  else if o = .gemm ∧ (d.aT = 1 ∨ d.aT = 2 ∨ d.bT = 1 ∨ d.bT = 2) then 1
  else if o = .gemm ∧ d.aT = 9 ∧ d.bT = 9 then 3 else 0

/-- The 64 units that a tile runs on: the first half of a shoal in service that has no work (R325; log entry 42). -/
def tileUnits (s : State) : Option (List Nat) :=
  let halves := (usableShoals s).flatMap fun h => [128 * h, 128 * h + 64]
  let free (b : Nat) : Bool := !(List.range 64).any fun u => s.ramp.working.contains (b + u)
  (halves.find? free).map fun b => (List.range 64).map fun u => b + u

/-- Compute tile `run.next` and write its output; that of a `SCATTER_ADD` is written whole with its last tile (R321, R322). -/
def runTile (o : OpKind) (d : OpDesc) (run : OpRun) (fetched : List Byte) (t0 : State) : State :=
  let fn := run.fn
  let ranges := (tileRanges o d run).flatMap fun p => if writtenOperand o p.1 then [] else p.2.2
  let s0 := ranges.foldl (fun t p => wakeDva fn p.1 p.2 t) t0
  let rd := sourceByte s0 fn ranges fetched
  let a := tileArea o d run.rows run.next
  let last := run.next + 1 == opTiles o d run.rows
  let put (i dt : Nat) (rows : List RowOut) (t : State) : State :=
    rows.foldl (placeRow fn run.work (operandAt run.args i) dt) t
  let acc0 := if o = .scatterAdd ∧ run.next = 0 then scatterStart d run.args rd else run.acc
  let acc := if o = .scatterAdd then ((List.range (a.2.1 - a.1)).map fun i => a.1 + i).foldl (scatterRow d run rd) acc0 else []
  let odd := o == .sparsify && (a.2.2.2 - a.2.2.1) % 8 != 0
  let pad (n : Nat) : Nat := (Config.freeWord (s0.dev.fresh + n)).toNat
  let s := if odd then { s0 with dev := { s0.dev with fresh := s0.dev.fresh + (a.2.1 - a.1) } } else s0
  let out : List RowOut × List RowOut :=
    match o with
    | .gemm | .quantise | .dequantise => (computeRows o d run.args rd a, [])
    | .gather => (gatherRows d run rd a, [])
    | .sparsify => sparsifyRows d run rd pad a
    | .scatterAdd => (if last then scatterOut d acc else [], [])
  let s1 := put 4 15 out.2 (put 3 d.dT out.1 s)
  opRunMod run.work (fun r =>
    { r with acc := acc, next := r.next + 1, done := if o != .scatterAdd then r.done + 1 else if last then r.next + 1 else 0, saturated := r.saturated || out.1.any (fun q => q.row.sat),
             nanOut := r.nanOut || out.1.any (fun q => q.row.nan) }) s1

/-- The metadata of every row of a tile of a sparse `GEMM` is in order (R319). -/
def tileMetaOk (o : OpKind) (d : OpDesc) (run : OpRun) (rd : Nat → Byte) : Bool :=
  let a := tileArea o d run.rows run.next
  !(o == .gemm && d.sparse) ||
  (List.range (a.2.1 - a.1)).all fun n => (List.range (d.k / 4)).all fun g => metaOk rd (operandAt run.args 4) (a.1 + n) g

/-- Start the next tile: its segments are translated (R323), its units leave rest (R303), it runs. -/
def startTile (o : OpKind) (d : OpDesc) (run : OpRun) (fetched : List Byte) (s : State) : State :=
  let fn := run.fn
  let ranges := tileRanges o d run
  match ranges.find? fun p => !(missingIn s fn p.2.2).isEmpty with
  | some p =>
    operAbsent fn run.stream (flag (writtenOperand o p.1)) run.work run.done p.2.2 p.2.1 s
  | none =>
    match tileUnits s with
    | none => s
    | some units =>
      let s1 := startUnits (opClass o d) units s
      if !(units.all fun u => s1.ramp.active.contains u) then s1
      else
        let rd := sourceByte s1 fn (ranges.flatMap fun p => if writtenOperand o p.1 then [] else p.2.2) fetched
        let s2 := unitsIdle units (unitsBusy units s1)
        if !tileMetaOk o d run rd then opEnd run.work .operatorFormat run.done s2
        else finishOper run.work (runTile o d run fetched s2)

/-- TILE_START (R322, R323): tiles start in ascending index. `fetched`: the bytes of the tile's source ranges, in the order of
`tileRanges`, that lie outside the tarns. -/
def execTileStart (rec : Nat) (fetched : List Byte) (s : State) : Host.Outcome State Fault Refusal :=
  whileLit s <|
  match opRunOf s rec, workGet s rec with
  | some run, some w =>
    (match opKindOf (bits w.entry.toNat 128 8) with
     | some o =>
       let d := opDesc w.entry
       let stream : StreamId := .oper run.fn run.stream
       if opTiles o d run.rows ≤ run.next ∨ isSuspended s stream false ∨ stalled s stream then .next s
       else .next (startTile o d run fetched s)
     | none => .next s)
  | _, _ => .next s

/-- A suspended operator stream goes on after `mr.fault.reply` (R112): its next tile, or its argument block, is translated again. -/
def opResume (fn stream : Nat) (s : State) : State := unsuspend (.oper fn stream) s

/-- An operator that has not completed ends with a status of its own (R82, R112): tiles written so far are its result. -/
def opStop (rec : Nat) (status : Status) (s : State) : State :=
  opEnd rec status (match opRunOf s rec with | some r => r.done | none => 0) s

end Sys2Proof.Machine
end

