-- ==== Sys2Proof/Machine/Spur.lean ====
section
/-! DEFINITION. Spur accesses, inbound and outbound (R225, R343 to R346), and request streams (R226, R227). -/

namespace Sys2Proof.Machine

/-- A spur port that is up and a sound flit. -/
def spurFlitGood (s : State) (port : Nat) (f : Flit) (type : Nat) : Bool :=
  flitSound f && f.type.toNat == type &&
  (match portGet s port with | some x => x.role == .spur && x.active | none => false)

/-- The access tag of a spur flit (Table 8-3). -/
def spurTag (f : Flit) : Nat := f.chunkSeq.toNat % 65536

/-! ### Inbound accesses -/

/-- The payload of a `SPUR_COMMIT`, Table 12-5. -/
def commitPayload (status : Nat) : List Byte := beBytes 4 (status * 65536)

def sendCommit (port tag status : Nat) (s : State) : State :=
  match portGet s port with
  | some x => if x.active then sendFlit port (makeFlit s 0x42 0 0 tag 0 (commitPayload status)) s else s
  | none => s

def eraseAccess (port tag : Nat) (s : State) : State :=
  portMod port (fun x => { x with accesses := tabErase x.accesses tag }) s

def accessGet (s : State) (port tag : Nat) : Option SpurAccess := (portGet s port).bind fun x => tabGet x.accesses tag

/-- The region that a key names, whatever function registered it: checks 1 and 2 of R95 (R344). -/
def anyKey (s : State) (key : W32) : Except Status Region :=
  match tabGet s.regions (keyIndex key) with
  | some r => keyCheck12 s r.fn key
  | none => .error .keyInvalid

/-- The runs of a function's pages cut to [`a`, `b`). -/
def runsWithin (s : State) (fn a b : Nat) : List Page :=
  match tabGet s.spaces fn with
  | none => []
  | some sp =>
    sp.pages.filterMap fun p =>
      let lo := max a p.dva
      let hi := min b (p.dva + p.len)
      if lo < hi then some { p with dva := lo, len := hi - lo, addr := p.addr + (lo - p.dva) } else none

/-- Bytes [`off`, ...) of an access written where its runs on the device's side lead: tarn memory, or the function's PCIe path. -/
def placeRun (fn off : Nat) (base : Nat) (bytes : List Byte) (s : State) (p : Page) : State :=
  let lo := max (base + off) p.dva
  let hi := min (base + off + bytes.length) (p.dva + p.len)
  if hi ≤ lo then s
  else
    let part := slice bytes (lo - base - off) (hi - lo)
    let at_ := p.addr + (lo - p.dva)
    match p.target with
    | .tarn => wakeRange at_ part.length (tarnMod (fun t => { t with mem := memWriteList t.mem at_ part }) s)
    | .host => if dmaBarred s fn then s else emit (.hostBytes fn at_ (relaxedOf s fn) part) s
    | .spur => s

def isRun (t : Target) (p : Page) : Bool := p.target == t

/-- Every byte of a write has arrived and been placed, or a read's has been gathered: the answer (R344, R345). A write to host pages whose
function has been reset meanwhile is answered with `FLUSHED`. -/
def answerAccess (port tag : Nat) (a : SpurAccess) (s : State) : State :=
  let s1 := eraseAccess port tag s
  if a.write then
    if a.map.any (isRun .host) then
      (if dmaBarred s a.fn then sendCommit port tag (statusCode .flushed) s1 else sendCommit port tag 0 (emitHost a.fn (.hostZeroRead a.fn) s1))
    else sendCommit port tag 0 s1
  else
    match portGet s1 port with
    | some x => if x.active then sendFlits port (spurDataFlits s1 tag a.data) s1 else s1
    | none => s1

/-- Start the accesses of this device's own that serve an inbound one at other accelerators. -/
def forwardRuns (port tag : Nat) (a : SpurAccess) (s : State) : State :=
  (a.map.filter (isRun .spur)).foldl (fun t p =>
    let off := p.dva - a.address
    spurStart p.port a.fn a.write p.addr p.len (if a.write then slice a.data off p.len else []) (.serve port tag off) t) s

/-- Overwrite bytes of a list from an offset. -/
def patch (l : List Byte) (off : Nat) (part : List Byte) : List Byte :=
  l.take off ++ part ++ l.drop (off + part.length)

/-- Gather a read: tarn bytes as they stand, host bytes as the function's PCIe path returns them; accelerators are asked. -/
def gatherRead (port tag : Nat) (a : SpurAccess) (s : State) : State :=
  let base := List.replicate a.len (0 : Byte)
  let step (acc : List Byte × State) (p : Page) : List Byte × State :=
    match p.target with
    | .tarn => (patch acc.1 (p.dva - a.address) (memReadList acc.2.tarns.mem p.addr p.len), wakeRange p.addr p.len acc.2)
    | .host =>
      let r := drawBytes p.len acc.2
      (patch acc.1 (p.dva - a.address) r.1, r.2)
    | .spur => acc
  let r := a.map.foldl step (base, s)
  let b := { a with data := r.1, left := (a.map.filter (isRun .spur)).length }
  if b.left = 0 then answerAccess port tag b r.2 else forwardRuns port tag b (accessMod port tag (fun _ => b) r.2)

/-- The access of a `SPUR_CMD` (Table 8-6): none where the descriptor is malformed. -/
def spurCommand (f : Flit) : Option (Bool × Nat × W32 × Nat) :=
  let w (i : Nat) : Nat := ofBe (slice f.payload (4 * i) 4)
  let op := bits (w 0) 24 8
  let rest := slice f.payload 20 108
  if bits (w 0) 0 24 != 0 || rest.any (· != 0) || !(op == 1 || op == 2) || w 4 == 0 || decide (65536 < w 4) then none
  else some (op == 1, w 1 * 2 ^ 32 + w 2, BitVec.ofNat 32 (w 3), w 4)

/-- Judge an inbound access whole (R344): the status with which it is refused, or the function it runs for. -/
def judgeAccess (s : State) (write : Bool) (address len : Nat) (key : W32) : Except Status Nat :=
  match anyKey s key with
  | .error e => .error e
  | .ok r =>
    match keyCheck34 r (if write then rightRemoteWrite else rightRemoteRead) address len with
    | some e => .error e
    | none =>
      if !(missingPages s r.fn address len).isEmpty then .error .translationFault
      else if dmaBarred s r.fn && touchesHost s r.fn address len then .error .flushed
      else .ok r.fn

/-- SPUR_CMD (R344). -/
def takeSpurCmd (port : Nat) (f : Flit) (s : State) : State :=
  match spurCommand f with
  | none => dropFlit s
  | some (write, address, key, len) =>
    let tag := spurTag f
    match judgeAccess s write address len key with
    | .error e => sendCommit port tag (statusCode e) (eraseAccess port tag s)
    | .ok fn =>
      let a : SpurAccess :=
        { write := write, address := address, key := key, len := len, inbound := true, cont := .none,
          map := runsWithin s fn address (address + len), data := [], left := 0, sentAt := s.dev.now, fn := fn,
          epoch := epochOf s fn }
      let s1 := portMod port (fun x => { x with accesses := tabSet x.accesses tag a }) s
      if write then s1 else gatherRead port tag a s1

/-- SPUR_CMD (R225, R344). -/
def execSpurCmd (port : Nat) (f : Flit) (s : State) : Host.Outcome State Fault Refusal :=
  whileLit s <|
  if spurFlitGood s port f 0x40 then .next (takeSpurCmd port f (hearFlit port s)) else .next (dropFlit s)

/-! ### The end of an outbound access -/

/-- One of the accesses that serve an inbound one has ended; `part`: what a read brought. -/
def serveStep (port tag off : Nat) (part : List Byte) (s : State) : State :=
  match accessGet s port tag with
  | none => s
  | some a =>
    if !a.inbound ∨ a.left = 0 then s
    else
      let b := { a with left := a.left - 1, data := if a.write then a.data else patch a.data off part }
      if b.left = 0 then answerAccess port tag b s else accessMod port tag (fun _ => b) s

/-- The read of queue pair `q` that response number `seq` belongs to. -/
def readOfSeq (q : Qp) (seq : W32) : Option TxMessage :=
  q.send.messages.find? fun m => m.started && decide (1 ≤ (seq - m.firstSeq).toNat ∧ (seq - m.firstSeq).toNat < m.packets)

/-- What the end of an outbound access lets go on, once no other access with the same continuation is under way. -/
def continueAfter (c : SpurCont) (part : List Byte) (s : State) : State :=
  match c with
  | .none => s
  | .serve port tag off => serveStep port tag off part s
  | .coll slot => if contOpen s c then s else collGo slot s
  | .work rec =>
    if contOpen s c then s
    else
      let s1 := finishOper rec (finishAttn rec s)
      if (tabGet s.cache.finishing rec).isSome then attnPump s1 else s1
  | .settle qp seq => if contOpen s c then s else settle qp [seq] s
  | .unit qp own msg unit =>
    if contOpen s c then s
    else
      (match (qpGet s qp).bind fun q => (findUnit q own msg unit).map fun u => (q, u) with
       | some (q, u) => if u.landed then closeUnit qp q u s else s
       | none => s)
  | .got qp seq path =>
    if contOpen s c then s
    else
      (match qpGet s qp with
       | some q => (match readOfSeq q seq with | some m => gotResponses qp m.work [seq] path s | none => s)
       | none => s)
  | .atomic rec prior =>
    if contOpen s c then s
    else
      match workGet s rec with
      | some w =>
        let n := entryContext w.entry
        (match qpGet s n with
         | some q => (match messageOf q rec with
           | some m => retireAll n (finishMessage n m prior.toNat s)
           | none => s)
         | none => s)
      | none => s

/-- An outbound access has its answer. A refusal reaches the inbound access that it serves; any other refused access stays open
and is repeated (log entry 30). -/
def endOutbound (port tag status : Nat) (part : List Byte) (s : State) : State :=
  match accessGet s port tag with
  | none => s
  | some a =>
    if a.inbound then s
    else if status = 0 then continueAfter a.cont part (eraseAccess port tag s)
    else
      match a.cont with
      | .serve p t _ => sendCommit p t status (eraseAccess p t (eraseAccess port tag s))
      | .none | .settle _ _ | .unit _ _ _ _ | .got _ _ _ | .atomic _ _ | .coll _ | .work _ => s

/-- SPUR_COMMIT (R345). -/
def execSpurCommit (port : Nat) (f : Flit) (s : State) : Host.Outcome State Fault Refusal :=
  whileLit s <|
  if spurFlitGood s port f 0x42 then
    .next (endOutbound port (spurTag f) (ofBe (slice f.payload 0 2)) [] (hearFlit port s))
  else .next (dropFlit s)

/-- SPUR_DATA (R225): data of an inbound write, or of an outbound read, in order; a flit out of order is dropped, and the access
is repeated whole. -/
def takeSpurData (port : Nat) (f : Flit) (s : State) : State :=
  let tag := spurTag f
  match accessGet s port tag with
  | none => dropFlit s
  | some a =>
    let n := a.data.length
    if a.write ≠ a.inbound ∨ a.len ≤ n ∨ f.flitIndex.toNat ≠ n / 128 % 256 then dropFlit s
    else
      let part := f.payload.take (min 128 (a.len - n))
      let b := { a with data := a.data ++ slice part 0 (min 128 (a.len - n)) }
      let s1 := accessMod port tag (fun _ => b) s
      if a.inbound then
        let s2 := a.map.foldl (placeRun a.fn n a.address (b.data.drop n)) s1
        if b.data.length < a.len then s2
        else
          let k := (a.map.filter (isRun .spur)).length
          if k = 0 then answerAccess port tag b s2
          else forwardRuns port tag b (accessMod port tag (fun x => { x with left := k }) s2)
      else if b.data.length < a.len then s1
      else endOutbound port tag 0 b.data s1

/-- SPUR_DATA (R225). -/
def execSpurData (port : Nat) (f : Flit) (s : State) : Host.Outcome State Fault Refusal :=
  whileLit s <|
  if spurFlitGood s port f 0x41 then .next (takeSpurData port f (hearFlit port s)) else .next (dropFlit s)

/-- SPUR_ACCESS_TIMEOUT (R225): an access of the device's own without an answer is repeated whole under the same tag. -/
def execSpurAccessTimeout (port tag : Nat) (s : State) : Host.Outcome State Fault Refusal :=
  whileLit s <|
  match portGet s port, accessGet s port tag with
  | some x, some a =>
    if a.inbound then .next s
    else
      let s1 := advanceTo (a.sentAt + 12000) s
      let b := { a with sentAt := s1.dev.now, data := if a.write then a.data else [] }
      let s2 := accessMod port tag (fun _ => b) s1
      .next (if x.active then sendFlits port (spurFlits s2 tag b) s2 else s2)
  | _, _ => .next s

/-! ### Request streams -/

def specSpurStream : CmdSpec :=
  { opcode := 0x0910, issuer := .pf0, cls := .any, fields := [(0, 1), (1, 1), (2, 1), (3, 1)] }

def newStream (fn cap : Nat) (enabled : Bool) : ReqStream :=
  { fn := fn, log2Cap := cap, enabled := enabled, accepted := 0, waiting := [], written := 0, consumed := 0, unconsumed := [],
    outstanding := 0, ackAt := 0, outSince := none, silent := false, heldSince := none }

/-- A stream that is bound anew starts at index 0; entries accepted before keep their place in its capacity. -/
def doSpurStream (c : Cmd) (s : State) : CmdOut :=
  let port := param c 0 1
  let n := param c 1 1
  if !(decide (port < 16) && decide (n < 64) && decide (4 ≤ param c 2 1 ∧ param c 2 1 ≤ 16) && decide (param c 3 1 ≤ 1)) then
    cmdFail s .invalidParam
  else
    let old := streamGet s port n
    if (match old with | some q => !q.unconsumed.isEmpty | none => false) then cmdFail s .busy
    else
      let base := newStream (namedOf c) (param c 2 1) (param c 3 1 == 1)
      let new := match old with | some q => { base with outstanding := q.outstanding } | none => base
      let x := (portGet s port).getD (newPort .disabled)
      cmdOk (fabMod (fun y => { y with ports := tabSet y.ports port { x with streams := tabSet x.streams n new } }) s)

/-- SPUR_STREAM (R226). -/
def execSpurStream (c : Cmd) (s : State) : Host.Outcome State Fault Refusal := .next (runCmd specSpurStream doSpurStream c s)

/-- `STREAM_ACK` with the accepted index (R226). -/
def sendStreamAck (port n : Nat) (s : State) : State :=
  match portGet s port, streamGet s port n with
  | some x, some q =>
    if x.active then
      streamMod port n (fun y => { y with ackAt := s.dev.now })
        (sendFlit port (makeFlit s 0x49 0 0 (n * 65536 + q.accepted % 65536) 0 []) s)
    else s
  | _, _ => s

/-- Accept the stream's entries in index order while there is room for their completions, their records have a place, and the
function runs (R226, R17, R21). -/
def acceptStream (fuel port n : Nat) (s : State) : State :=
  match fuel with
  | 0 => s
  | fuel + 1 =>
    match streamGet s port n with
    | none => s
    | some q =>
      match tabGet q.waiting (q.accepted % 65536) with
      | none => s
      | some e =>
        if !q.enabled ∨ !lit s ∨ fnModeOf s q.fn ≠ .running ∨ 2 ^ q.log2Cap ≤ q.unconsumed.length + q.outstanding then s
        else
          match journalEntry q.fn (.request port n) q.accepted e s with
          | none => s
          | some (rec, s1) =>
            let s2 := streamMod port n (fun y =>
              { y with accepted := y.accepted + 1, outstanding := y.outstanding + 1, waiting := tabErase y.waiting (q.accepted % 65536) }) s1
            acceptStream fuel port n (judgeEntry q.fn rec e s2)

/-- Accept what can be accepted, and acknowledge it. -/
def serveStream (port n : Nat) (s : State) : State :=
  match streamGet s port n with
  | none => s
  | some q =>
    let s1 := acceptStream (q.waiting.length + 1) port n s
    match streamGet s1 port n with
    | some q1 => if q1.accepted = q.accepted then s1 else sendStreamAck port n s1
    | none => s1

/-- STREAM_REQ (R226). -/
def takeStreamReq (port : Nat) (f : Flit) (s : State) : State :=
  let n := bits f.chunkSeq.toNat 16 6
  match streamGet s port n with
  | none => dropFlit s
  | some q =>
    let i := spurTag f
    let d := (i + 65536 - q.accepted % 65536) % 65536
    if !q.enabled ∨ bits f.chunkSeq.toNat 22 2 ≠ 0 then dropFlit s
    else if 32768 ≤ d then sendStreamAck port n s
    else if 8 < d then dropFlit s
    else
      let e : W512 := BitVec.ofNat 512 (ofLe (slice f.payload 0 64))
      serveStream port n (streamMod port n (fun y => { y with waiting := tabSet y.waiting i e }) s)

/-- STREAM_REQ (R226). -/
def execStreamReq (port : Nat) (f : Flit) (s : State) : Host.Outcome State Fault Refusal :=
  whileLit s <|
  if spurFlitGood s port f 0x48 then .next (takeStreamReq port f (hearFlit port s)) else .next (dropFlit s)

/-- The accelerator has consumed completions: their records are freed, and entries that waited for room are accepted (R226,
R227). -/
def takeCplAck (port : Nat) (f : Flit) (s : State) : State :=
  let n := bits f.chunkSeq.toNat 16 6
  match streamGet s port n with
  | none => dropFlit s
  | some q =>
    let k := (spurTag f + 65536 - q.consumed % 65536) % 65536
    if q.unconsumed.length < k then dropFlit s
    else
      let s1 := (q.unconsumed.take k).foldl (fun t r => freeWork r.1 t) s
      let s2 := streamMod port n (fun y =>
        { y with consumed := y.consumed + k, unconsumed := y.unconsumed.drop k,
                 outSince := if y.unconsumed.length = k then none else y.outSince }) s1
      serveStream port n s2

/-- STREAM_CPL_ACK (R226). -/
def execStreamCplAck (port : Nat) (f : Flit) (s : State) : Host.Outcome State Fault Refusal :=
  whileLit s <|
  if spurFlitGood s port f 0x4B then .next (takeCplAck port f (hearFlit port s)) else .next (dropFlit s)

/-- STREAM_RESEND (R226): the completion that was sent longest ago has gone 12 µs without acknowledgement: it is sent again, with every other of
that age; entries that wait are looked at again. -/
def execStreamResend (port stream : Nat) (s : State) : Host.Outcome State Fault Refusal :=
  whileLit s <|
  match portGet s port, streamGet s port stream with
  | some x, some q =>
    let s1 := serveStream port stream s
    match q.unconsumed.map Prod.snd with
    | [] => .next s1
    | t :: rest =>
      let s2 := advanceTo (rest.foldl min t + 12000) s1
      if x.active then .next (resendCompletions false (fun r => decide (r.2 + 12000 ≤ s2.dev.now)) port stream s2) else .next s1
  | _, _ => .next s

/-- Since when lost spur ports have held completions for a function: the earliest. -/
def streamsHeldSince (s : State) (fn : Nat) : Option Nat :=
  let since := (s.fabric.ports.filter fun p => !p.2.active).flatMap fun p =>
    p.2.streams.filterMap fun q => if q.2.fn = fn then q.2.heldSince else none
  since.foldl (fun m t => some (min t (m.getD t))) none

/-- Completions that a lost spur port has held for a function for its retention time, in s, are discarded (R227). -/
def discardHeld (fn retention : Nat) (s : State) : State :=
  s.fabric.ports.foldl (fun t p =>
    if p.2.active then t
    else
      p.2.streams.foldl (fun u q =>
        if q.2.fn = fn ∧ (q.2.heldSince.any fun t => decide (t + 1000000000 * retention ≤ s.dev.now)) then
          streamMod p.1 q.1 (fun y => { y with consumed := y.consumed + y.unconsumed.length, unconsumed := [], outSince := none, heldSince := none })
            (q.2.unconsumed.foldl (fun v r => freeWork r.1 v) u)
        else u) t) s

end Sys2Proof.Machine
end

