-- ==== Sys2Proof/Machine/Tarn.lean ====
section
/-! DEFINITION. The tarns in service (chapter 12): lost pages (R30), journal records that cannot be read (R166), scrub and row repair
(R339, R340), and the loss of a channel, a tarn, a shoal or a control core (R341, R342, R471, Table 1-6). -/

namespace Sys2Proof.Machine

/-! ### Work that is stopped -/

/-- A posted buffer ends with `FLUSHED`; later buffers of the same queue take the numbers before theirs (log entry 43). -/
def flushReceive (rec : Nat) (s : State) : State :=
  match workGet s rec with
  | none => s
  | some w =>
    let n := entryContext w.entry
    let drop (r : QpRecv) : QpRecv :=
      match r.posted.find? fun p => p.2 == rec with
      | none => { r with reservedClaims := r.reservedClaims.filter fun p => p.2 != rec }
      | some p =>
        { r with posted := (r.posted.filter (fun q => q.2 != rec)).map fun q => if (q.1 - p.1).toNat < 2 ^ 31 then (q.1 - 1, q.2) else q,
                 nextPost := r.nextPost - 1 }
    let s1 := if recvToSrq w.entry then { s with srqs := tabMod s.srqs n fun q => { q with buffers := q.buffers.filter (· != rec) } }
      else recvMod n drop s
    complete rec .flushed 0 none s1

/-- An accepted entry that has not completed ends with a status before its work is done: FLUSHED or TRANSLATION_FAULT (R82, R112,
R166). -/
def endWork (rec : Nat) (status : Status) (s : State) : State :=
  match workGet s rec with
  | none => s
  | some w =>
    if w.state = .done ∨ w.state = .held then s
    else
      let op := entryOp w.entry
      if op = 0x20 then collEndMember (entryContext w.entry) rec status s
      else if op = 0x30 then attnEnd (entryContext w.entry) rec status s
      else if op = 0x31 then opStop rec status s
      else if op = 0x10 then flushReceive rec s
      else failEntry (entryContext w.entry) rec status 0 s

/-! ### Records that cannot be read (R166) -/

/-- `KIND` of a record (R161, R274, R304). -/
def recordKind : JournalRec → Nat
  | .work w => if entryOp w.entry = 0x20 then 8 else if entryOp w.entry = 0x30 then 0xC else 1
  | .atomicResult .. => 2
  | .qpConnect _ _ => 3
  | .qpProgress _ _ => 4
  | .desc kind _ => kind
  | .collGroup _ => 0xA
  | .heldReply _ => 0xE

/-- The copy of journal index `i` in tarn `t` cannot be read. -/
def copyGone (s : State) (t i : Nat) : Bool :=
  bit s.tarns.tarnLost.toNat t || s.tarns.remirror.contains (64 * t + journalChannel i) || s.tarns.unreadable.contains (t, i)

def qpFunction (s : State) (n : Nat) : Nat := match qpGet s n with | some q => q.conf.fn | none => 0

/-- The function whose work a record describes. -/
def recordFn (s : State) (r : JournalRec) : Nat :=
  match r with
  | .work w => w.fn
  | .atomicResult q _ _ _ => qpFunction s q
  | .qpConnect q _ => qpFunction s q
  | .qpProgress q _ => qpFunction s q
  | .collGroup g => (match groupGet s g with | some x => x.fn | none => 0)
  | .heldReply fn => fn
  | .desc _ _ => 0

/-- The entry of a lost record ends. DESIGN CHOICE (log entry 101): R166 moves the queue pair of a transport entry to ERROR, and R160 excepts
posted buffers; a buffer that a message has claimed is part of that message, which may place nothing more, and is not excepted. -/
def endLost (rec : Nat) (w : Work) (s : State) : State :=
  match w.claim with
  | some c => failEntry c.1 rec .flushed 0 s
  | none => endWork rec .flushed s

/-- Both copies of record `rec` are unreadable: `JOURNAL_LOST`, and what R166 sets for what the record held. -/
def loseRecord (s : State) (rec : Nat) : State :=
  match tabGet s.journal rec with
  | none => s
  | some r =>
    let owner := (works s).find? fun p => p.2.desc == some rec
    let fn := match r, owner with
      | .desc _ _, some p => p.2.fn
      | _, _ => recordFn s r
    let s1 := raiseEvent .journalLost fn nodeSelf (rec / 2) (recordKind r) s
    match r with
    | .work w => if w.state = .done ∨ w.state = .held then freeWork rec s1 else endLost rec w (workMod rec (fun x => { x with lost := true }) s1)
    | .desc _ _ => (match owner with | some p => endWork p.1 .flushed s1 | none => journalFree rec s1)
    | .atomicResult q _ _ _ | .qpConnect q _ | .qpProgress q _ => journalFree rec (qpToError q s1)
    | .collGroup g =>
      let s2 := journalFree rec s1
      (match groupGet s2 g with
       | some x => collGo g (startAbort g x.startSeq .collAborted true s2)
       | none => s2)
    | .heldReply _ => journalFree rec { s1 with heldReplies := s1.heldReplies.filter fun h => h.record != rec }

/-- Every record neither copy of which can be read is lost. -/
def loseRecords (s : State) : State :=
  let gone (p : Nat × JournalRec) : Bool :=
    let pair := p.1 % 2
    copyGone s (2 * pair) (p.1 / 2) && copyGone s (2 * pair + 1) (p.1 / 2) && !(match p.2 with | .work w => w.lost | _ => false)
  ((s.journal.filter gone).map Prod.fst).foldl loseRecord s

/-! ### Lost pages (R30) -/

/-- Consecutive numbers of an ascending list, as runs: first number and length. -/
def runsOf (l : List Nat) : List (Nat × Nat) :=
  (l.foldl (fun acc n =>
    match acc with
    | [] => [(n, 1)]
    | (a, k) :: rest => if a + k = n then (a, k + 1) :: rest else (n, 1) :: acc) []).reverse

/-- 64 KiB pages of a run of tarn pages, by index, whose TPA page satisfies `p`. -/
def lostIn (p : Nat → Bool) (q : Page) : List Nat :=
  if q.target = .tarn then (List.range (q.len / 65536)).filter fun i => p (q.addr / 65536 + i) else []

/-- Pages of a function's space that its current epoch maps there, those lost before among them: by DVA / 65,536, ascending. -/
def lostPages (p : Nat → Bool) (a : AddrSpace) : List Nat :=
  sortedNats ((a.pages ++ a.lost).flatMap fun q => (lostIn p q).map fun i => q.dva / 65536 + i)

/-- The lost pages of a run, as runs of their own. -/
def lostRuns (p : Nat → Bool) (q : Page) : List Page :=
  (lostIn p q).map fun i => { q with dva := q.dva + 65536 * i, len := 65536, addr := q.addr + 65536 * i }

/-- Lost pages leave the present ones (R30, R338). -/
def losePresent (p : Nat → Bool) (a : AddrSpace) : AddrSpace :=
  let gone := a.pages.flatMap (lostRuns p)
  { a with pages := gone.foldl (fun l q => cutRuns q.dva (q.dva + q.len) l) a.pages, lost := gone.foldl (fun l q => insertRun q l) a.lost }

/-- A staged mapping keeps the pages that are not lost; the others are not present in the epoch that commits it. -/
def loseStaged (p : Nat → Bool) (c : Staged) : List Staged :=
  match c with
  | .unmap d n => [.unmap d n]
  | .map q =>
    if (lostIn p q).isEmpty then [.map q]
    else (List.range (q.len / 65536)).map fun i =>
      if p (q.addr / 65536 + i) then .unmap (q.dva + 65536 * i) 65536
      else .map { q with dva := q.dva + 65536 * i, len := 65536, addr := q.addr + 65536 * i }

/-- TPA pages of a function's `ALLOC` backing that no committed epoch of any function maps. -/
def lostBacking (s : State) (p : Nat → Bool) (fn : Nat) : List Nat :=
  let maps (t : Nat) (q : Page) : Bool := q.target == .tarn && decide (q.addr ≤ t * 65536 ∧ t * 65536 < q.addr + q.len)
  ((s.tarns.alloc.filter fun x => x.2 == fn && p x.1).map Prod.fst).filter fun t =>
    !(s.spaces.any fun x => (x.2.pages ++ x.2.lost).any (maps t))

/-- The lost-range records of a function, and its pages as they are from then on. -/
def loseOf (p : Nat → Bool) (cause : Cause) (s : State) (fn : Nat) : State :=
  match tabGet s.spaces fn with
  | none => s
  | some a =>
    let c := BitVec.ofNat 16 (causeCode cause)
    let s1 := spaceMod fn (fun x => { losePresent p x with staged := x.staged.flatMap (loseStaged p) }) s
    let s2 := (runsOf (lostPages p a)).foldl (fun t r => postRecord fn (.lostRange false (r.1 * 65536) r.2 c) t) s1
    (runsOf (lostBacking s p fn)).foldl (fun t r => postRecord fn (.lostRange true (r.1 * 65536) r.2 c) t) s2

/-- The 64 KiB pages of the interleaved area that satisfy `p` are lost. -/
def losePages (p : Nat → Bool) (cause : Cause) (s : State) : State :=
  let s1 := (s.spaces.map Prod.fst).foldl (loseOf p cause) s
  tarnMod (fun t => { t with mem := memForget (fun a => decide (a < 0x3900000000) && p (a / 65536)) t.mem }) s1

/-- Every page of the area is lost, and the area is formed again (R341, R342, R471). -/
def loseArea (cause : Cause) (s : State) : State :=
  let limit := areaEnd s
  let s1 := losePages (fun p => decide (p * 65536 < limit)) cause s
  wantRecheck (tarnMod (fun t => { t with reforming := true }) s1)

/-- The device tables of every function that has a space are to be built again. -/
def wantRebuild (s : State) : State :=
  let fns := (s.spaces.filter fun p => p.2.space.isSome).map Prod.fst
  tarnMod (fun t => { t with rebuild := sortedNats (t.rebuild ++ fns) }) s

/-- Spill data is lost: which collective, if any, has a chunk there is open (log entry 44); that one ends with `COLL_CHECK` (R263,
R338). -/
def loseSpill (s : State) : State :=
  let slots := (s.coll.groups.filter fun p => p.2.spilled && (tabGet p.2.runs p.2.startSeq.toNat).isSome).map Prod.fst
  if slots.isEmpty then s
  else
    let k := (Config.freeWord s.dev.fresh).toNat % (slots.length + 1)
    let s1 := takeFresh s
    if k = 0 then s1
    else
      let slot := slots.getD (k - 1) 0
      match groupGet s1 slot with
      | some g => collGo slot (startAbort slot g.startSeq .collCheck false s1)
      | none => s1

/-! ### Errors of words -/

/-- A row copy into a spare begins, or the bank has none left (R340). -/
def startRepair (channel : Nat) (place : Option (Nat × Nat)) (s : State) : State :=
  let full := match place with
    | some p => decide (8 ≤ (tabGet s.tarns.spares (32 * channel + p.1)).getD 0)
    | none => false
  let repair : RowRepair := { channel := channel, place := place }
  if full then raiseEvent .bankNoSpare 0 nodeSelf channel (match place with | some p => p.1 | none => 0) s
  else if place.isSome && s.tarns.repairs.contains repair then s
  else tarnMod (fun t => { t with repairs := t.repairs ++ [repair] }) s

/-- Table 12-2: the tarn of a reserved address, and its offset there. -/
def reservedOf (tpa : Nat) : Nat × Nat := ((tpa - 0x3900000000) / 0x1C0000000, (tpa - 0x3900000000) % 0x1C0000000)

/-- UNCORRECTABLE_ERROR (R338). The bank of the word is open (log entry 44). -/
def execUncorrectableError (tpa : Nat) (s : State) : Host.Outcome State Fault Refusal :=
  whileLit s <|
  if 2 ^ 38 ≤ tpa then .fault (.noSuchTpa tpa)
  else
    let channel := granuleChannel s (tpa / 256)
    let s1 := startRepair channel none s
    if tpa < 0x3900000000 then
      if tpa < areaEnd s then
        let bank := (Config.freeWord s.dev.fresh).toNat % 32
        let s2 := raiseEvent .rowLost 0 nodeSelf channel bank (takeFresh s1)
        .next (losePages (fun p => p == tpa / 65536) .rowLost s2)
      else .next s
    else
      let r := reservedOf tpa
      if r.2 < 0x80000000 then
        let mark (t : Tarns) : Tarns := { t with unreadable := (t.unreadable.filter (· != (r.1, r.2 / 64))) ++ [(r.1, r.2 / 64)] }
        .next (loseRecords (tarnMod mark s1))
      else if r.2 < 0x180000000 then .next (loseSpill s1)
      else .next (wantRebuild s1)

/-- One word that a scrub corrects (R337, R339, R340). `before`: the words that earlier passes corrected. -/
def scrubWord (tarn : Nat) (before : List Corrected) (s : State) (h : ScrubHit) : State :=
  let channel := 64 * tarn + h.channel
  let s1 := tarnMod (fun t => { t with corrected := tabAdd t.corrected channel 1 }) s
  let s2 := if h.overwritten then s1
    else wakeRange h.tpa 64 (tarnMod (fun t => { t with mem := memWriteList t.mem h.tpa (slice h.word 0 64) }) s1)
  let hit : Corrected := { tpa := h.tpa, bank := 32 * channel + h.bank, row := h.row }
  if before.contains hit then startRepair channel (some (h.bank, h.row)) s2
  else tarnMod (fun t => { t with scrubHits := t.scrubHits ++ [hit] }) s2

/-- PATROL_SCRUB (R339): one pass over a tarn; `corrected`: the words it found to correct. -/
def execPatrolScrub (tarn : Nat) (corrected : List ScrubHit) (s : State) : Host.Outcome State Fault Refusal :=
  whileLit s <|
  if 4 ≤ tarn ∨ !bit s.dev.inventory.tarns.toNat tarn then .next s
  else .next ((corrected.filter fun h => decide (h.channel < 64 ∧ h.bank < 32 ∧ h.tpa + 64 ≤ 2 ^ 38) && h.tpa % 64 == 0 &&
    granuleChannel s (h.tpa / 256) == 64 * tarn + h.channel).foldl (scrubWord tarn s.tarns.scrubHits) s)

/-- REFRESH (R339): the period in force follows the hottest tarn sensor (log entry 45 for the sensors' numbers). -/
def execRefresh (tarn : Nat) (s : State) : Host.Outcome State Fault Refusal :=
  whileLit s <|
  if 4 ≤ tarn ∨ !bit s.dev.inventory.tarns.toNat tarn then .next s
  else
    let hot := ((s.thermal.readings.drop 16).take 8).any fun r => decide (85 * 16 < r)
    .next (tarnMod (fun t => { t with refreshMs := if hot then 16 else 32 }) s)

/-- ROW_REPAIR_DONE (R340): the remap takes effect, soft, and a spare is used; what scrubs found in the row before is behind it. -/
def execRowRepairDone (tarn channel bank row : Nat) (s : State) : Host.Outcome State Fault Refusal :=
  whileLit s <|
  let c := 64 * tarn + channel
  match s.tarns.repairs.find? fun r => r.channel == c && (r.place == some (bank, row) || r.place.isNone) with
  | none => .next s
  | some r =>
    let s1 := tarnMod (fun t => { t with repairs := t.repairs.erase r, scrubHits := t.scrubHits.filter fun h =>
      !(h.bank == 32 * c + bank && h.row == row) }) s
    if 8 ≤ (tabGet s.tarns.spares (32 * c + bank)).getD 0 then .next (raiseEvent .bankNoSpare 0 nodeSelf c bank s1)
    else .next (tarnMod (fun t => { t with spares := tabAdd t.spares (32 * c + bank) 1, softRows := t.softRows ++ [(32 * c + bank, row)] }) s1)

/-! ### Loss of a channel and of a tarn -/

/-- Channels of a tarn that are not usable. -/
def lostChannels (s : State) (tarn : Nat) : Nat :=
  ((List.range 64).filter fun c => !bit s.tarns.usable.toNat (64 * tarn + c)).length

/-- A tarn is lost (R471): its channels, its journal copies and its spill. -/
def loseTarn (tarn : Nat) (s : State) : State :=
  let s1 := raiseEvent .tarnLost 0 nodeSelf tarn 0 s
  let s2 := loseArea .tarnLost s1
  let s3 := tarnMod (fun t => { t with tarnLost := t.tarnLost ||| BitVec.ofNat 4 (2 ^ tarn),
                                       remirror := t.remirror.filter (fun c => c / 64 != tarn),
                                       repairs := t.repairs.filter (fun r => r.channel / 64 != tarn) }) s2
  let s4 := { s3 with dev := { s3.dev with inventory := { s3.dev.inventory with
    tarns := s3.dev.inventory.tarns &&& ~~~ (BitVec.ofNat 4 (2 ^ tarn)) } } }
  settleClock (10 + tarn) (wantRebuild (loseSpill (loseRecords s4)))

/-- CHANNEL_LOST (R341, Table 12-3). -/
def execChannelLost (tarn channel : Nat) (s : State) : Host.Outcome State Fault Refusal :=
  whileLit s <|
  let c := 64 * tarn + channel
  if 4 ≤ tarn ∨ 64 ≤ channel ∨ !bit s.tarns.usable.toNat c ∨ !bit s.dev.inventory.tarns.toNat tarn then .next s
  else
    let s1 := loseArea .channelLost (raiseEvent .channelLost 0 nodeSelf c 0 (flushCrossing (10 + tarn) s))
    let s2 := tarnMod (fun t => { t with usable := t.usable &&& ~~~ (BitVec.ofNat 256 (2 ^ c)), remirror := t.remirror ++ [c],
                                         powerDown := t.powerDown.filter (· != c) }) s1
    let s3 := wantRebuild (loseSpill (loseRecords s2))
    if 8 < lostChannels s3 tarn then .next (loseTarn tarn s3) else .next s3

/-- TARN_LOST (R471): the tarn's interface fails in service. -/
def execTarnLost (tarn : Nat) (s : State) : Host.Outcome State Fault Refusal :=
  whileLit s <|
  if 4 ≤ tarn ∨ !bit s.dev.inventory.tarns.toNat tarn then .next s else .next (loseTarn tarn s)

/-- INTERLEAVE_REFORMED (R342): the area lies over the channels that are left. -/
def execInterleaveReformed (s : State) : Host.Outcome State Fault Refusal :=
  whileLit s <|
  .next (tarnMod (fun t => { t with reforming := false }) s)

/-- JOURNAL_REMIRRORED (R166): the channel's journal records stand in both tarns again. -/
def execJournalRemirrored (tarn channel : Nat) (s : State) : Host.Outcome State Fault Refusal :=
  whileLit s <|
  if bit s.tarns.tarnLost.toNat tarn then .next s
  else .next (tarnMod (fun t =>
    { t with remirror := t.remirror.filter (· != 64 * tarn + channel),
             unreadable := t.unreadable.filter fun u => !(u.1 == tarn && journalChannel u.2 == channel) }) s)

/-- CHANNEL_POWER_DOWN (R347): a channel has had no access for 10 µs, under EFFICIENCY and without the attention hold. -/
def execChannelPowerDown (tarn channel : Nat) (s : State) : Host.Outcome State Fault Refusal :=
  whileLit s <|
  let c := 64 * tarn + channel
  if s.dev.profile == .efficiency && !holdActive s && decide (tarn < 4 ∧ channel < 64) && bit s.tarns.usable.toNat c &&
      !s.tarns.powerDown.contains c then
    .next (tarnMod (fun t => { t with powerDown := t.powerDown ++ [c] }) (advanceTo ((tabGet s.tarns.accessed c).getD 0 + 10000) s))
  else .next s

/-! ### Loss of a shoal and of a control core (Table 1-6) -/

/-- Unpin the users pinned latest until the rest fit the residency that is left (Table 10-9). -/
def shedPins (fuel : Nat) (s : State) : State :=
  match fuel with
  | 0 => s
  | fuel + 1 =>
    match s.cache.pins.getLast? with
    | none => s
    | some x =>
      if pinsTake s pinSummary ≤ residency s then s
      else
        let fn := match poolGet s x.pool with | some p => p.fn | none => 0
        let sel (d : Deferral) : Option (Status × Nat × Nat × Nat) :=
          if d = .kvPin x.pool x.user then some (.noResource, 0, 0, 0)
          else if d = .kvUnpin x.pool x.user then some (.ok, 0, 0, 0) else none
        let s1 := dropPins (fun y => y == x) s
        shedPins fuel (raiseEvent .userUnpinned fn nodeSelf (x.pool * 65536 + x.user) 0 (finishCmds sel s1))

/-- A shoal leaves service: its units, its summaries' residency; what ran on it runs on the others (R304, R331). -/
def retireShoal (shoal : Nat) (s : State) : State :=
  let keep (l : List Nat) : List Nat := l.filter fun u => u / 128 != shoal
  let s1 := { s with dev := { s.dev with inventory := { s.dev.inventory with
    shoals := s.dev.inventory.shoals &&& ~~~ (BitVec.ofNat 16 (2 ^ shoal)) } } }
  let s2 := rampMod (fun r => { r with active := keep r.active, working := keep r.working, starting := keep r.starting,
                                       resting := keep r.resting, idleSince := r.idleSince.filter fun p => p.1 / 128 != shoal }) s1
  shedPins s2.cache.pins.length (raiseEvent .partRetired 0 nodeSelf shoal 1 s2)

/-- LOSS_OF_ONE_SHOAL (Table 1-6, R304). -/
def execLossOfOneShoal (shoal : Nat) (s : State) : Host.Outcome State Fault Refusal :=
  whileLit s <|
  if bit s.dev.inventory.shoals.toNat shoal then .next (retireShoal shoal s) else .next s

/-- A control core leaves service; its services move to others within 1 ms (R20, Table 1-6). -/
def retireCore (core : Nat) (s : State) : State :=
  let s1 := { s with dev := { s.dev with coreLostAt := some s.dev.now, inventory := { s.dev.inventory with
    cores := s.dev.inventory.cores &&& ~~~ (BitVec.ofNat 12 (2 ^ core)) } } }
  raiseEvent .partRetired 0 nodeSelf core 0 s1

/-- LOSS_OF_ONE_CONTROL_CORE (R20). -/
def execLossOfOneControlCore (core : Nat) (s : State) : Host.Outcome State Fault Refusal :=
  whileLit s <|
  if bit s.dev.inventory.cores.toNat core then .next (retireCore core s) else .next s

/-- CORE_SET_RESTORED (R27): every service runs on two cores again. -/
def execCoreSetRestored (s : State) : Host.Outcome State Fault Refusal :=
  whileLit s <|
  match s.dev.coreLostAt with
  | none => .next s
  | some t => .next (let s1 := advanceTo (t + 1000000) s; { s1 with dev := { s1.dev with coreLostAt := none } })

end Sys2Proof.Machine
end

