-- ==== Sys2Proof/Machine/Faults.lean ====
section
/-! DEFINITION. Faults and their reporting (chapter 18): silences (R472), records that wait (R468), aggregation (R473 to R475), and
the fault opcodes (R477). -/

namespace Sys2Proof.Machine

/-! ### Silence (R472) -/

/-- A report of silence, 1 ms after `t`. -/
def reportSilence (t fn : Nat) (node : W16) (s : State) : State :=
  raiseEvent .peerSilent fn node 0 0 (advanceTo (t + 1000000) s)

/-- The oldest chunk or agreement flit of a group's streams that waits for an acknowledgement from a device whose silence has not been
reported: since when, and from which device. -/
def oldestSent (g : CollGroup) : Option (Nat × Nat) :=
  let held (l : List HeldChunk) : List (Nat × Nat) := (l.filter fun h => h.sent).map fun h => (h.firstAt, h.peer)
  let l := held g.setupOut ++ g.runs.flatMap fun p => held p.2.out ++ p.2.agreeOut.map fun a => (a.sentAt, a.peer)
  (l.filter fun x => !g.silent.contains x.2).foldl (fun best x =>
    match best with
    | none => some x
    | some b => if x.1 < b.1 then some x else some b) none

/-- PEER_SILENT (R472): nothing has been received from a stream's peer device for 1 ms while packets or chunks are outstanding. -/
def execPeerSilent (stream : StreamId) (s : State) : Host.Outcome State Fault Refusal :=
  whileLit s <|
  match stream with
  | .qp n =>
    (match qpGet s n with
     | none => .next s
     | some q =>
       match if outstanding s q then q.send.outSince.map fun t => max t (deviceHeard s q) else none with
       | none => .next s
       | some t => if q.send.silent then .next s
         else .next (reportSilence t q.conf.fn (peerNode q) (sendMod n (fun x => { x with silent := true }) s)))
  | .request p n =>
    (match portGet s p, streamGet s p n with
     | some x, some q =>
       (match q.outSince with
        | none => .next s
        | some t => if q.silent then .next s
          else .next (reportSilence (max t x.heardAt) q.fn (nodeDevice x.partnerDev) (streamMod p n (fun y => { y with silent := true }) s)))
     | _, _ => .next s)
  | .coll slot =>
    (match groupGet s slot with
     | none => .next s
     | some g =>
       match oldestSent g with
       | none => .next s
       | some o =>
         .next (reportSilence (max o.1 ((tabGet g.heard o.2).getD 0)) g.fn (nodeDevice o.2)
           (groupMod slot (fun x => { x with silent := x.silent ++ [o.2] }) s)))
  | .oper _ _ | .attn _ _ => .next s

/-! ### Records that wait, and aggregation -/

/-- FAULT_PENDING_WRITE (R468): a partition whose `FQ_HEAD` has been read as `head` takes what waits for it. -/
def execFaultPendingWrite (fn : Nat) (head : W32) (s : State) : Host.Outcome State Fault Refusal :=
  whileLit s <|
  if (waiters s fn).isEmpty ∨ dmaBarred s fn then .next s else .next (readFqHead fn head s)

/-- The partitions that an aggregate entry's records go to (R467). -/
def aggParts (a : AggEntry) : List Nat := if a.severity = 3 ∧ a.fn ≠ 0 then [a.fn, 0] else [a.fn]

/-- A new record of each aggregate entry that `sel` selects, changed by `f`, is due; it goes out as space allows. -/
def dueAgg (sel : AggEntry → Bool) (f : AggEntry → AggEntry) (s : State) : State :=
  let due (a : AggEntry) : AggEntry := if sel a = true then { f a with raised := false, owed := aggParts a } else a
  let parts := sortedNats ((s.faults.agg.filter sel).flatMap aggParts)
  let s1 := nextOrder { s with faults := { s.faults with agg := s.faults.agg.map due } }
  parts.foldl (fun t p => pumpPartition p t) s1

/-- AGG_WINDOW_BOUNDARY (R473): entries whose count rose in the window that ends write a record. -/
def execAggWindowBoundary (s : State) : Host.Outcome State Fault Refusal :=
  whileLit s <|
  let t := nextMultiple s.dev.ticks.aggUpdate 100000
  let s1 := advanceTo t { s with dev := { s.dev with ticks := { s.dev.ticks with aggUpdate := t } } }
  .next (dueAgg (fun a => a.raised && !a.closing) id s1)

/-- AGG_ENTRY_CLOSE (R474): entries without a report for 10 ms close. -/
def execAggEntryClose (s : State) : Host.Outcome State Fault Refusal :=
  whileLit s <|
  let t := nextMultiple s.dev.ticks.aggClose 100000
  let s1 := advanceTo t { s with dev := { s.dev with ticks := { s.dev.ticks with aggClose := t } } }
  .next (dueAgg (fun a => !a.closing && decide (a.lastAt + 10000000 ≤ t)) (fun a => { a with closing := true }) s1)

/-! ### Opcodes (R477) -/

def specFaultQuery : CmdSpec := { opcode := 0x0A10, issuer := .any, cls := .any, fields := [] }

def doFaultQuery (c : Cmd) (s : State) : CmdOut :=
  let fn := namedOf c
  let waiting := (s.faults.store.filter fun r => r.function == fn).length
  let entries := (s.faults.agg.filter fun a => a.fn == fn && !a.closing).length
  .done s .ok (if issuerOf c = 0 then alertBits s else 0)
    (pack [(0, 32, (tabGet s.faults.dropped fn).getD 0), (32, 32, waiting)])
    (pack [(0, 16, entries), (16, 32, unackedRecords s)])

/-- FAULT_QUERY (R477). -/
def execFaultQuery (c : Cmd) (s : State) : Host.Outcome State Fault Refusal := .next (runCmd specFaultQuery doFaultQuery c s)

def specFaultAck : CmdSpec := { opcode := 0x0A11, issuer := .pf0, cls := .any, fields := [(0, 4), (4, 1)] }

def doFaultAck (c : Cmd) (s : State) : CmdOut :=
  let key : W32 × Nat := (BitVec.ofNat 32 (param c 0 4), param c 4 1)
  needParam (s.faults.unacked.contains key) s
    (cmdOk { s with faults := { s.faults with unacked := s.faults.unacked.erase key } })

/-- FAULT_ACK (R470, R477). -/
def execFaultAck (c : Cmd) (s : State) : Host.Outcome State Fault Refusal := .next (runCmd specFaultAck doFaultAck c s)

end Sys2Proof.Machine
end

