-- ==== Sys2Proof/Machine/Tables.lean ====
section
/-! DEFINITION. The driver's answer to a translation fault (R112) and the rebuilding of a function's table from its host copy
(R92). -/

namespace Sys2Proof.Machine

/-! ### mr.fault.reply (R112) -/

def specMrFaultReply : CmdSpec := { opcode := 0x0309, issuer := .any, cls := .any, fields := [(0, 4), (4, 1)] }

/-- The suspension of a function that a fault record names. -/
def suspensionOf (s : State) (fn : Nat) (seq : W32) : Option (Nat × Suspension) :=
  s.suspended.find? fun p => p.2.fn == fn && p.2.seq == some seq

/-- What a queue pair's own stream was building goes on. -/
def resumeBuild (n rec : Nat) (s : State) : State :=
  match workGet s rec with
  | some w => (match workOpOf (entryOp w.entry) with | some o => buildWork n rec o s | none => s)
  | none => s

/-- Arriving packets of a queue pair are placed again; the peer sends what was refused once more (R150). -/
def resumePlacement (n : Nat) (s : State) : State := recvMod n (fun r => { r with suspended := false, suspendedBy := none }) s

/-- The return buffer of an atomic is present: its prior value is written there. -/
def resumeAtomic (n rec : Nat) (prior : W64) (s : State) : State :=
  match qpGet s n, workGet s rec with
  | some q, some w => (match messageOf q rec with | some m => returnAtomic n q m w prior s | none => s)
  | _, _ => s

/-- All pages of the segment are present: the stream goes on. -/
def resumeStream (x : Suspension) (s : State) : State :=
  match x.stream with
  | .qp n =>
    (match x.arriving, x.prior with
     | true, some v => resumeAtomic n x.work v (resumePlacement n s)
     | true, none => resumePlacement n s
     | false, _ => resumeBuild n x.work s)
  | .oper fn n => opResume fn n s
  | .coll slot => collResume slot s
  | .attn pool rec => attnResume pool rec s
  | .request _ _ => s

/-- The work of a suspended stream ends with `TRANSLATION_FAULT`. -/
def failStream (x : Suspension) (s : State) : State :=
  match x.stream with
  | .qp n =>
    (match x.arriving, (qpGet s n).bind fun q => q.recv.suspendedBy with
     | true, some h =>
       if h.pktOp.toNat = pktOpCode .readResp ∨ h.pktOp.toNat = pktOpCode .atomicResp then endWork x.work .translationFault s
       else refuseMessage n .translationFault h s
     | _, _ => endWork x.work .translationFault s)
  | .oper _ _ | .coll _ | .attn _ _ => endWork x.work .translationFault s
  | .request _ _ => s

/-- `STREAM_KIND` of a suspension's records (Table 4-5). -/
def suspensionKind (x : Suspension) : Nat := if x.arriving then 3 else (streamCode x.stream).1

def doMrFaultReply (c : Cmd) (s : State) : CmdOut :=
  match suspensionOf s (namedOf c) (BitVec.ofNat 32 (param c 0 4)) with
  | none => cmdFail s .invalidParam
  | some (id, x) =>
    needParam (decide (param c 4 1 < 2)) s
      (let s1 := { s with suspended := tabErase s.suspended id }
       if param c 4 1 = 1 then cmdOk (failStream x s1)
       else if (missingIn s x.fn x.ranges).isEmpty then cmdOk (resumeStream x s1)
       else
         let s2 := suspendOn x.fn x.stream (suspensionKind x) x.access x.work x.ranges (BitVec.ofNat 32 x.keyIndex) s1
         cmdOk (match x.stream, x.prior with | .qp n, some v => keepPrior n x.work v s2 | _, _ => s2))

/-- MR_FAULT_REPLY (R112). -/
def execMrFaultReply (c : Cmd) (s : State) : Host.Outcome State Fault Refusal := .next (runCmd specMrFaultReply doMrFaultReply c s)

/-! ### Miss slots (R108) -/

/-- A stream that has a miss slot goes on with what it held back. -/
def unstall (x : StreamId) (s : State) : State :=
  if stalled s x then s
  else
    match x with
    | .coll slot => collGo slot s
    | .attn _ rec => attnGoOn rec (match workGet s rec with
      | some w => (match w.source with | .ring _ => false | .request _ _ => true)
      | none => false) s
    | .qp _ | .oper _ _ | .request _ _ => s

/-- MISS_SLOT_GRANT (R108): the walk that has held its slot longest has completed; the slot is freed and granted. -/
def execMissSlotGrant (s : State) : Host.Outcome State Fault Refusal :=
  whileLit s <|
  .next (s.missWait.foldl (fun t x => unstall x t) (grantWaiting { s with missSlots := s.missSlots.drop 1 }))

/-! ### Rebuilding a table (R92) -/

/-- A leaf of the host copy: the DVA it covers, the level it stands at, and its entry. A 64 KiB page is sixteen of these. -/
structure HostLeaf where
  dva   : Nat
  level : Nat
  entry : W64
deriving DecidableEq, Repr

/-- An entry that the device copy could not hold, whether it is a leaf or a pointer (R92): a RSVD bit, `TARGET` 0b11, or a `SPUR_PORT` without
a spur target. -/
def entryBad (e : Nat) : Bool := bits e 5 3 != 0 || bits e 3 2 == 3 || (bits e 3 2 != 2 && bits e 8 4 != 0)

/-- The leaves under a table page that stands at `page` and covers the DVAs from `dva` on (R90): its 512 entries are indexed by nine bits of
the DVA; a pointer leads to the page of the next level, and an entry that is not valid, or could not be held, leads nowhere. -/
def walkTable (host : List HostEntry) (level page dva : Nat) : List HostLeaf :=
  let here := (List.range 512).filterMap fun i =>
    (host.find? fun h => h.hpa == page + 8 * i && bit h.entry.toNat 0).map fun h => (dva + i * 2 ^ (12 + 9 * level), h.entry)
  match level with
  | 0 => (here.filter fun x => bit x.2.toNat 1).map fun x => { dva := x.1, level := 0, entry := x.2 }
  | below + 1 =>
    here.flatMap fun x =>
      let e := x.2.toNat
      if bit e 1 then [{ dva := x.1, level := below + 1, entry := x.2 }]
      else if entryBad e || bit e 2 then []
      else walkTable host below (bits e 12 52 * 4096) x.1

/-- Every leaf of the host copy with root page `root` (R90, R91). -/
def hostLeaves (host : List HostEntry) (root : Nat) : List HostLeaf := walkTable host 4 root 0

/-- Page size of a leaf, as a power of two; none where Table 4-1 forbids a leaf. DESIGN CHOICE (log entry 92): `SIZE_64K`, which is for level
0 only, makes an entry of another level one that is not present. -/
def leafSize (h : HostLeaf) : Option Nat :=
  let e := h.entry.toNat
  match h.level with
  | 0 => some (if bit e 2 then 16 else 12)
  | 1 => if bit e 2 then none else some 21
  | 2 => if bit e 2 then none else some 30
  | _ => none

def leafAddr (h : HostLeaf) : Nat := bits h.entry.toNat 12 52 * 4096

/-- The sixteen entries of a 64 KiB page agree (R90). -/
def sixteenAgree (l : List HostLeaf) (h : HostLeaf) : Bool :=
  (List.range 16).all fun i =>
    l.any fun g => g.level == 0 && g.dva == h.dva + 4096 * i && leafAddr g == leafAddr h + 4096 * i &&
      bits g.entry.toNat 0 12 == bits h.entry.toNat 0 12

/-- The 64 KiB pages of a tarn range are backing of the function's own (R101). -/
def ownsTpa (s : State) (fn addr len : Nat) : Bool :=
  (List.range (len / 65536)).all fun i => tabGet s.tarns.alloc (addr / 65536 + i) == some fn

/-- The run of pages that a leaf of the host copy stands for; none: the device copy could not hold it, or it continues a 64 KiB
page that another entry begins. -/
def leafRun (s : State) (fn : Nat) (a : AddrSpace) (l : List HostLeaf) (h : HostLeaf) : Option Page :=
  let e := h.entry.toNat
  let port := bits e 8 4
  let addr := leafAddr h
  match leafSize h with
  | none => none
  | some k =>
    let len := 2 ^ k
    let bad := entryBad e || addr % len != 0 || h.dva % len != 0 || (k == 16 && !sixteenAgree l h)
    let run : Page := { dva := h.dva, len := len, target := targetOf (bits e 3 2), port := port, addr := addr }
    if bad then none
    else
      match run.target with
      | .host => some run
      | .tarn => if k = 12 ∨ areaEnd s < addr + len ∨ (fn ≠ 0 ∧ ownsTpa s fn addr len = false) then none else some run
      | .spur => if fn ≠ 0 ∧ granted a port addr len = false then none else some run

/-- The runs of a table without the tarn pages that are lost (R338): a lost page is not present in any epoch. -/
def withoutLost (lost l : List Page) : List Page :=
  let cut (p q : Page) : List Page := if q.target = .tarn then cutRun p.dva (p.dva + p.len) q else [q]
  lost.foldl (fun acc p => acc.flatMap (cut p)) l

/-- The table that a rebuild of the space makes of the host copy (R92). -/
def rebuiltPages (s : State) (fn : Nat) (a : AddrSpace) (host : List HostEntry) : List Page :=
  let leaves := hostLeaves host (match a.space with | some x => x.root.toNat | none => 0)
  withoutLost a.lost ((leaves.filterMap (leafRun s fn a leaves)).foldl (fun l p => applyStaged l (.map p)) [])

/-- TABLE_REBUILT (R92): the host copy becomes a new epoch; staged changes stay staged. It waits while DMA to the function's host memory is
barred (R82). -/
def execTableRebuilt (fn : Nat) (host : List HostEntry) (s : State) : Host.Outcome State Fault Refusal :=
  whileLit s <|
  match tabGet s.spaces fn with
  | none => .next s
  | some a =>
    if !s.tarns.rebuild.contains fn || dmaBarred s fn then .next s
    else
      let s1 := spaceMod fn (fun x => { x with pages := rebuiltPages s fn a host, epoch := x.epoch + 1 }) s
      let s2 := tarnMod (fun t => { t with rebuild := t.rebuild.filter (· != fn) }) s1
      let kept := syncBacking s2 fn true ++ syncBacking s2 fn false
      let s3 := if segmentsOpen s2 fn (a.epoch + 1) then tarnMod (fun t => { t with freeing := t.freeing ++ [(fn, a.epoch + 1)] }) s2
        else freeBacking fn ((unmappedBacking s2 fn).filter fun p => !kept.contains p) s2
      .next (raiseEvent .tableRebuilt fn nodeSelf (a.epoch + 1).toNat 0 s3)

end Sys2Proof.Machine
end

