-- ==== Sys2Proof/Machine/Reset.lean ====
section
/-! DEFINITION. Function resets and host crashes: the sequence of Table 3-10 (R81 to R83), what becomes of accepted work (R82, R163,
R394), VFs (R84), the resets of the endpoint (R85), and retention (R88). -/

namespace Sys2Proof.Machine

/-! ### What needs host memory (R82) -/

/-- Some byte of [`dva`, `dva` + `len`) is mapped to the function's host memory. -/
def inHost (s : State) (fn dva len : Nat) : Bool :=
  match tabGet s.spaces fn with
  | some a => a.pages.any fun p => p.target == .host && decide (p.dva < dva + len ∧ dva < p.dva + p.len)
  | none => false

/-- Ranges of a collective entry whose sequence is under way. -/
def collInHost (s : State) (slot rec : Nat) : Bool :=
  match groupGet s slot with
  | none => false
  | some g =>
    match g.runs.find? fun p => p.2.works.any fun q => q.2 == rec with
    | none => false
    | some p =>
      match p.2.desc with
      | some d => (runRanges s g p.2 d).any fun x => x.1 == rec && inHost s g.fn x.2.2.1 x.2.2.2.1
      | none => false

/-- Query and result buffers of an attention request. -/
def attnInHost (s : State) (e : W512) : Bool :=
  match poolGet s (entryContext e) with
  | none => false
  | some p =>
    let d := attnDesc e
    inHost s p.fn d.query (queryBytes p d.append) || (d.resultKey != 0 && inHost s p.fn d.result (attnResultBytes p))

/-- The argument block of an operator and, once it has been read, its operands. -/
def operInHost (s : State) (rec : Nat) (w : Work) : Bool :=
  let d := opDesc w.entry
  inHost s w.fn d.args 160 ||
  (match opRunOf s rec, opKindOf (bits w.entry.toNat 128 8) with
   | some r, some o => (operandsOf o d r.args r.rows).any fun p => (wholeOf p.2.1 p.2.2).any fun q => inHost s w.fn q.1 q.2
   | _, _ => false)

/-- An entry that has not completed still needs the function's host memory. A collective that has not been taken up, or an operator
whose argument block has not been read, is judged again when it is. -/
def needsHost (s : State) (rec : Nat) (w : Work) : Bool :=
  match workOpOf (entryOp w.entry) with
  | some .coll => collInHost s (entryContext w.entry) rec
  | some .attention => attnInHost s w.entry
  | some .operator => operInHost s rec w
  | some o => (match localRange o w.entry with | some r => inHost s w.fn r.2.2.1 r.2.2.2 | none => false)
  | none => false

/-- A posted receive buffer that no message has claimed. -/
def unclaimed (w : Work) : Bool := entryOp w.entry == 0x10 && w.claim.isNone

/-- The entries of a function that have not completed, in acceptance order. -/
def fnOpen (s : State) (fn : Nat) : List (Nat × Work) :=
  byOrder ((works s).filter fun p => p.2.fn == fn && p.2.state != .done && p.2.state != .held)

/-- Work that needs host memory, and receive buffers without a message, end with `FLUSHED`. -/
def flushHost (fn : Nat) (s : State) : State :=
  (fnOpen s fn).foldl (fun t p =>
    match workGet t p.1 with
    | some w => if unclaimed w || needsHost t p.1 w then endWork p.1 .flushed t else t
    | none => t) s

/-- Responses to a peer's reads that would still be read from host memory are not sent: the peer asks again, under a key that is stale
(R82, R156). -/
def dropResponses (fn : Nat) (s : State) : State :=
  let barred (x : TxPacket) : Bool := x.kind == .readResp && touchesHost s fn (x.dva + x.offset) x.bytes
  { s with qps := tabMap s.qps fun _ q =>
      if q.conf.fn = fn then { q with send := { q.send with queue := q.send.queue.filter fun x => !barred x } } else q }

/-- Work suspended on a translation fault ends with `TRANSLATION_FAULT`. -/
def failSuspended (fn : Nat) (s : State) : State :=
  (s.suspended.filter fun p => p.2.fn == fn).foldl (fun t p => failStream p.2 { t with suspended := tabErase t.suspended p.1 }) s

/-! ### Keys (R82, R96) -/

/-- The first generation after `g` that is not in quarantine. -/
def laterGen (s : State) (i fuel : Nat) (g : W8) : Option W8 :=
  match fuel with
  | 0 => none
  | fuel + 1 => if inQuarantine s i (nextGen i g) then laterGen s i fuel (nextGen i g) else some (nextGen i g)

/-- Invalidate the key of one region; with no generation left, the region is deregistered (R96). -/
def bumpRegion (fn : Nat) (s : State) (x : Nat × Region) : State :=
  let next := laterGen s x.1 (if x.1 = 0 then 254 else 255) x.2.gen
  let now := s.dev.now
  let f (r : Region) : Region :=
    match next with
    | some g => { r with gen := g }
    | none => { r with live := false, freedAt := now }
  retireKey fn x.1 x.2.gen (regionMod x.1 f s)

def bumpKeys (fn : Nat) (s : State) : State :=
  (s.regions.filter fun p => p.2.live && p.2.fn == fn && inHost s fn p.2.dva p.2.len).foldl (bumpRegion fn) s

/-! ### Seal units (R394) -/

/-- Units bound for the function's host memory whose bytes never authenticated: queue pair and unit. -/
def openUnits (s : State) (fn : Nat) : List (Nat × RxUnit) :=
  (s.qps.filter fun p => p.2.conf.fn == fn).flatMap fun p =>
    (p.2.recv.units.filter fun u => (u.zeroing || !u.seqs.isEmpty) && inHost s fn u.dva u.len).map fun u => (p.1, u)

/-- Each is named in a fault record, and its placement stops. -/
def dropUnit (fn : Nat) (s : State) (x : Nat × RxUnit) : State :=
  postRecord fn (.sealFailure false x.2.dva x.1 x.2.unit x.2.msg)
    (recvMod x.1 (fun r => { r with units := r.units.filter fun u => !isUnit x.2.own x.2.msg x.2.unit u }) s)

/-! ### The sequence of Table 3-10 -/

/-- R163: completions that are not known to be consumed become HELD. -/
def holdCompletions (fn : Nat) (s : State) : State :=
  let mine (w : Work) : Bool := w.fn == fn && w.state == .done && (match w.source with | .ring _ => true | .request _ _ => false)
  { s with journal := s.journal.map fun p =>
      match p.2 with
      | .work w => if mine w then (p.1, .work { w with state := .held }) else p
      | _ => p }

/-- Step 6: the partition is flushed, and faults that wait for space are discarded (R115). -/
def flushPartition (fn : Nat) (s : State) : State :=
  let dropPart (r : PendingRec) : PendingRec := { r with parts := r.parts.filter (· != fn) }
  let dropOwed (a : AggEntry) : AggEntry := { a with owed := a.owed.filter (· != fn) }
  let f := s.faults
  let s1 := { s with faults := { f with store := (f.store.map dropPart).filter (fun r => !r.parts.isEmpty),
                                        agg := (f.agg.map dropOwed).filter (fun a => !(a.closing && a.owed.isEmpty)) } }
  spaceMod fn (fun a => { a with waiting := [], space := a.space.map fun x => { x with overflow := false } }) s1

/-- R54: the replies that commands of the function still owe are held from now on. -/
def holdReplies (fn : Nat) (s : State) : State :=
  let mine (p : Pending) : Bool := p.heldFor.isNone && (p.function.toNat == fn || p.origin == .ring fn)
  { s with commands := s.commands.map fun p => if mine p then { p with heldFor := some fn } else p }

/-- Steps 1, 4, 5 and 7: the function's own registers. -/
def enterReset (fn : Nat) (s : State) : State :=
  let down (c : Channel) : Channel :=
    { c with mode := .down, enable := false, disabling := false, starved := false, scanning := false, rereads := 0 }
  let s1 := stopRings fn (fnMod fn (fun f =>
    { f with mode := .resetting, watchdogAt := none, masked := true, pendingBits := [],
             resetIndex := f.channel.consumed, channel := down f.channel }) s)
  { s1 with cqs := tabMap s1.cqs fun k q => if k / 65536 = fn then { q with counted := 0, firstCounted := none } else q }

/-- A session of the officer ends at a reset of PF0 (R375). -/
def endSession (s : State) : State := { s with sec := { s.sec with sessionAt := none, challenge := none } }

/-- A reset trigger reaches function `fn`: nothing where it is RESETTING, HELD or DISABLED (R83). -/
def resetFunction (fn : Nat) (s : State) : State :=
  match fnModeOf s fn with
  | .running | .stopping | .stopped =>
    let units := openUnits s fn
    let s1 := holdReplies fn (flushPartition fn (enterReset fn (holdCompletions fn s)))
    let s2 := bumpKeys fn (dropResponses fn (flushHost fn (failSuspended fn s1)))
    let s3 := units.foldl (dropUnit fn) s2
    if fn = 0 then endSession s3 else s3
  | .resetting | .held | .disabled => s

/-- The device reads `CQ_HEAD` of the function's completion rings once more (R163). -/
def readHeads (fn : Nat) (heads : List HeadRead) (s : State) : State :=
  match fnModeOf s fn with
  | .running | .stopping | .stopped => heads.foldl (fun t h => readCqHead (pairKey fn h.cq) h.head t) s
  | .resetting | .held | .disabled => s

def specFnReset : CmdSpec := { opcode := 0x0204, issuer := .namesVf, cls := .any, fields := [] }

/-- FN_RESET (R81, R82). -/
def execFnReset (c : Cmd) (heads : List HeadRead) (s : State) : Host.Outcome State Fault Refusal :=
  .next (runCmd specFnReset (fun c t => cmdOk (resetFunction (namedOf c) (readHeads (namedOf c) heads t))) c s)

/-! ### Retention and release (R84, R88) -/

/-- Held replies of a function are discarded, and the commands that would still add to them owe no reply any more. -/
def dropReplies (fn : Nat) (s : State) : State :=
  let gone := s.heldReplies.filter fun r => r.fn == fn
  let s1 := gone.foldl (fun t r => journalFree r.record t) s
  { s1 with heldReplies := s1.heldReplies.filter (fun r => r.fn != fn),
            commands := s1.commands.filter fun p => p.heldFor != some fn }

/-- A region that a reset or a release takes away. -/
def dropRegion (fn : Nat) (s : State) (x : Nat × Region) : State :=
  let now := s.dev.now
  retireKey fn x.1 x.2.gen (regionMod x.1 (fun r => { r with live := false, freedAt := now }) s)

/-- Every ring, queue pair, region and group of a function goes, and its held completions with them (R88, R272). -/
def dropObjects (fn : Nat) (s : State) : State :=
  let s1 := (heldWorks s fn).foldl (fun t p => freeWork p.1 t) (dropReplies fn s)
  let s2 := (ringsOf s1 fn).foldl (fun t r => dropRingRecords r.1 { t with sqs := tabErase t.sqs r.1 }) s1
  let s3 := { s2 with cqs := s2.cqs.filter fun p => p.1 / 65536 != fn }
  let s4 := (tabKeys s3.qps fun q => q.conf.fn == fn).foldl (fun t n => removeQp n (quietQp n t)) s3
  let s5 := (s4.regions.filter fun p => p.2.live && p.2.fn == fn).foldl (dropRegion fn) s4
  (tabKeys s5.coll.groups fun g => g.fn == fn).foldl (fun t g => tearDown g t) s5

/-- R88: the function is STOPPED with nothing left. -/
def expireRetention (fn : Nat) (s : State) : State :=
  fnMod fn (fun f => { f with mode := .stopped, token := none, heldSince := none, masked := false }) (dropObjects fn s)

/-- RETENTION_EXPIRY (R88). -/
def execRetentionExpiry (fn : Nat) (s : State) : Host.Outcome State Fault Refusal :=
  whileLit s <|
  match fnGet s fn with
  | none => .next s
  | some f =>
    match f.mode, f.heldSince with
    | .held, some t => .next (expireRetention fn (discardHeld fn f.retention (advanceTo (t + 1000000000 * f.retention) s)))
    | _, _ =>
      match streamsHeldSince s fn with
      | some t => .next (discardHeld fn f.retention (advanceTo (t + 1000000000 * f.retention) s))
      | none => .next s

/-- A VF becomes DISABLED: all its resources are released (Table 2-11). -/
def releaseFunction (fn : Nat) (s : State) : State :=
  let s1 := (fnOpen s fn).foldl (fun t p => endWork p.1 .flushed t) s
  let s2 := dropObjects fn s1
  let s3 := (tabKeys s2.cache.pools fun p => p.fn == fn).foldl (fun t n => dropPool n t) s2
  let s4 := tarnMod (fun t => { t with alloc := t.alloc.filter (fun p => p.2 != fn), rebuild := t.rebuild.filter (· != fn),
                                       freeing := t.freeing.filter (fun x => x.1 != fn) }) s3
  let dropStreams (x : FabPort) : FabPort := { x with streams := x.streams.filter fun q => q.2.fn != fn }
  let s5 := fabMod (fun f => { f with ports := tabMap f.ports fun _ x => dropStreams x }) s4
  { s5 with fns := tabErase s5.fns fn, spaces := tabErase s5.spaces fn,
            srqs := s5.srqs.filter (fun p => p.2.fn != fn),
            commands := s5.commands.filter (fun p => p.origin != .ring fn),
            sched := { s5.sched with soundings := s5.sched.soundings.filter fun x => x.fn != fn },
            sec := { s5.sec with accords := s5.sec.accords.filter fun p => p.2.fn != fn },
            eth := { s5.eth with addrs := s5.eth.addrs.filter fun p => p.1 / 4 != fn } }

/-- FN_RESET_COMPLETE (Table 3-10 step 8): the last accepted entry has ended. An `fn.stop` that the reset overtook runs to its end
(R54). -/
def execFnResetComplete (fn : Nat) (s : State) : Host.Outcome State Fault Refusal :=
  match fnGet s fn with
  | none => .next s
  | some f =>
    if f.mode ≠ .resetting ∨ !(fnOpen s fn).isEmpty then .next s
    else
      let s1 := finishCmds (fun d => if d = .fnStop fn then some (.ok, 0, 0, 0) else none) s
      if f.disabling then .next (releaseFunction fn s1)
      else .next (fnMod fn (fun f => { f with mode := .held, heldSince := some s.dev.now }) s1)

/-- HOST_WATCHDOG_EXPIRY (R85). -/
def execHostWatchdogExpiry (fn : Nat) (heads : List HeadRead) (s : State) : Host.Outcome State Fault Refusal :=
  whileLit s <|
  match (fnGet s fn).bind fun f => if f.mode = .running then f.watchdogAt else none with
  | some t => .next (resetFunction fn (readHeads fn heads (advanceTo t s)))
  | none => .next s

/-! ### Resets of the endpoint and of PF0 -/

/-- The VFs that have an entry. -/
def vfsOf (s : State) : List Nat := (s.fns.map Prod.fst).filter (· != 0)

/-- Configuration space of a function at its reset values. -/
def clearConfig (f : Function) : Function := { f with relaxedOrdering := true, atomicRequester := false, maxPayload := 128, maxRead := 512 }

/-- VF Enable is cleared other than by an explicit write: the VFs go latent (R84). -/
def latchVfs (s : State) : State :=
  let s1 := { s with pcie := { s.pcie with vfEnable := false, numVfs := 0 } }
  (vfsOf s1).foldl (fun t n => fnMod n (fun f => { f with latent := true }) (resetFunction n t)) s1

/-- FLR (R81, R84). In an FLR of PF0 the completion ring `cq` of VF n is numbered 65,536 × n + `cq` in `heads`. -/
def execFlr (fn : Nat) (heads : List HeadRead) (s : State) : Host.Outcome State Fault Refusal :=
  match fnGet s fn with
  | none => .next s
  | some f =>
    if f.latent then .next s
    else
      let s1 := fnMod fn clearConfig (resetFunction fn (readHeads fn heads s))
      if fn = 0 then .next (latchVfs s1) else .next s1

/-- A crash of the host, or a conventional reset of the endpoint (R85): islands 0 and 1 are reset, the link is down, and every
function of the host is reset. `perst`: `PERST_N` holds the link down. -/
def hostCrash (perst : Bool) (s : State) : State :=
  let due := if perst then none else some (s.dev.now + 20000000)
  let link (p : Pcie) : Pcie := { p with linkUp := false, perst := perst, inL1 := false, aspmL1 := false, ari := false, trainBy := due }
  let s1 := flushCrossing 1 (flushCrossing 0 { s with pcie := link s.pcie })
  let s2 := latchVfs (resetFunction 0 s1)
  { s2 with fns := tabMap s2.fns (fun _ f => clearConfig f) }

/-- PERST_N_ASSERT (R85, R493): pulses shorter than 20 ns are ignored. -/
def execPerstNAssert (widthNs : Nat) (s : State) : Host.Outcome State Fault Refusal :=
  if widthNs < 20 ∨ s.pcie.perst = true ∨ s.dev.life = .tripped then .next s else .next (hostCrash true s)

/-- PERST_N_RELEASE (R455): the link trains within 20 ms. -/
def execPerstNRelease (s : State) : Host.Outcome State Fault Refusal :=
  if s.pcie.perst then .next { s with pcie := { s.pcie with perst := false, trainBy := some (s.dev.now + 20000000) } } else .next s

/-- DL_DOWN (R85). -/
def execDlDown (s : State) : Host.Outcome State Fault Refusal := if s.pcie.linkUp then .next (hostCrash false s) else .next s

/-- HOT_RESET (R85): a hot reset and a secondary bus reset are one conventional reset. -/
def execHotReset (_secondaryBus : Bool) (s : State) : Host.Outcome State Fault Refusal :=
  if s.pcie.linkUp then .next (hostCrash false s) else .next s

/-- Rates of Table 3-1, in units of 0.1 GT/s. -/
def linkRates : List Nat := [1280, 640, 320, 160, 80, 50, 25]

/-- PCIE_LINK_RETRAINED (R59, R85, R455): the link is up, `width` lanes wide, at a rate of Table 3-1. Flit mode holds at 64 and 128 GT/s, and
at lower rates where the partner supports it. -/
def execPcieLinkRetrained (link : PcieTrained) (s : State) : Host.Outcome State Fault Refusal :=
  if s.pcie.linkUp ∨ s.pcie.perst = true ∨ s.pcie.trainBy.isNone = true ∨ !([1, 2, 4, 8, 16].contains link.width) ∨ !linkRates.contains link.rate then .next s
  else
    let flit := decide (640 ≤ link.rate) || link.partnerFlit
    .next { s with hostAt := s.dev.now,
                   pcie := { s.pcie with linkUp := true, width := link.width, rate := link.rate, flit := flit, trainBy := none } }

/-! ### VFs (R84) -/

/-- VF Enable is set: VF `n` appears, as it was where it is latent. DESIGN CHOICE (log entry 89): a VF that an explicit clear left RESETTING is
still released at step 8 of Table 3-10. -/
def enableVf (s : State) (n : Nat) : State :=
  match fnGet s n with
  | some _ => fnMod n (fun f => { f with latent := false }) s
  | none => { s with fns := tabSet s.fns n (freshFunction s.dev.level1Strap), spaces := tabSet s.spaces n freshSpace }

/-- VF_ENABLE (R84, Table 2-11). -/
def execVfEnable (numVfs : Nat) (s : State) : Host.Outcome State Fault Refusal :=
  if s.pcie.vfEnable ∨ 255 < numVfs ∨ s.pcie.linkUp = false then .next s
  else
    let s1 := { s with pcie := { s.pcie with vfEnable := true, numVfs := numVfs } }
    let s2 := ((vfsOf s1).filter fun n => decide (numVfs < n)).foldl (fun t n => releaseFunction n t) s1
    .next ((List.range numVfs).foldl (fun t i => enableVf t (i + 1)) s2)

/-- An explicit clear of VF Enable reaches VF `n`. -/
def disableVf (s : State) (n : Nat) : State :=
  if fnModeOf s n = .held then releaseFunction n s
  else fnMod n (fun f => { f with disabling := true }) (resetFunction n s)

/-- VF_DISABLE (R84). -/
def execVfDisable (s : State) : Host.Outcome State Fault Refusal :=
  if s.pcie.vfEnable then
    .next ((vfsOf s).foldl disableVf { s with pcie := { s.pcie with vfEnable := false, numVfs := 0 } })
  else .next s

end Sys2Proof.Machine
end

