-- ==== Sys2Proof/Machine/Clocks.lean ====
section
/-! DEFINITION. Crossings and island clocks (chapter 16, R38), the PCIe reference clock (R432), and L1 (R61). -/

namespace Sys2Proof.Machine


/-- The island still holds its reset: `PERST_N` for the PCIe islands, a firmware restart for the control cores (R440), a device reset. -/
def inIslandReset (s : State) (k : Nat) : Bool :=
  (decide (k ≤ 1) && s.pcie.perst) || (k == 14 && s.dev.life == .fwRestart) || !(lit s || s.dev.life == .romRecovery)

/-- CROSSING_READY (Table 16-3, FLUSH to UP): the side that reset has raised `READY`, and every flush has ended. -/
def execCrossingReady (island : Nat) (s : State) : Host.Outcome State Fault Refusal :=
  match tabGet s.clocks.crossings island with
  | some x =>
    if x.mode = .flush ∧ inIslandReset s island = false then
      .next (crossingMod island (fun y => { emptyCrossing y with mode := .up, notify := false, ready := true }) s)
    else .next s
  | none => .next s

/-- CROSSING_SYNC (Table 16-3, DOWN through SYNC to UP): both sides are out of reset and their clocks run. Pointers, ready and taken bits are
cleared, and the handshake raises `SYNC_REQ`, then `SYNC_ACK`. At UP it is the firmware's recovery of the crossing. -/
def execCrossingSync (island : Nat) (s : State) : Host.Outcome State Fault Refusal :=
  match tabGet s.clocks.crossings island with
  | some x =>
    if x.mode ≠ .flush ∧ inIslandReset s island = false ∧ bit s.clocks.stopped.toNat island = false then
      .next (crossingMod island (fun y =>
        { emptyCrossing y with mode := .up, notify := false, ready := true, syncReq := true, syncAck := true }) s)
    else .next s
  | none => .next s

/-- PCIE_REFCLK_LOSS (R432): islands 0 and 1 run from the internal oscillator, with no stop. -/
def execPcieRefclkLoss (s : State) : Host.Outcome State Fault Refusal :=
  .next { s with pcie := { s.pcie with refclk := false, oscillator := true } }

/-- PCIE_REFCLK_RETURN (R432). -/
def execPcieRefclkReturn (s : State) : Host.Outcome State Fault Refusal :=
  .next { s with pcie := { s.pcie with refclk := true, oscillator := false } }

/-- An admitted flow has a source or destination in the host memory of its function: a queue pair with a current admission whose
function has a live region there. -/
def hostFlowAdmitted (s : State) : Bool :=
  s.qps.any fun q => isAdmitted q.2 &&
    s.regions.any fun r => r.2.live && r.2.fn == q.2.conf.fn && inHost s r.2.fn r.2.dva r.2.len

/-- Idle time in ns before L1 is requested, by profile (Table 3-2); none: it never is. -/
def idleBeforeL1 (p : Profile) : Option Nat :=
  match p with
  | .latency => none
  | .balanced => some 100000
  | .efficiency => some 20000

/-- L1_ENTRY (R61, Table 3-2): the link has been idle for the time of the profile. -/
def execL1Entry (s : State) : Host.Outcome State Fault Refusal :=
  match idleBeforeL1 s.dev.profile with
  | some idle =>
    if s.pcie.aspmL1 ∧ s.pcie.linkUp ∧ hostFlowAdmitted s = false then
      let t := advanceTo (s.hostAt + idle) s
      .next { t with pcie := { t.pcie with inL1 := true } }
    else .next s
  | none => .next s

/-- L1_EXIT (R61). -/
def execL1Exit (s : State) : Host.Outcome State Fault Refusal := .next { s with pcie := { s.pcie with inL1 := false } }

/-- ISLAND_CLOCK_STOP (R38): the island's bit has read 0 for 100 µs. -/
def execIslandClockStop (island : Nat) (s : State) : Host.Outcome State Fault Refusal :=
  if mayStop s island then
    let s1 := if bit s.clocks.status.toNat island then dropClockBit island s else s
    let s2 := advanceTo ((tabGet s1.clocks.zeroSince island).getD s.dev.now + 100000) s1
    .next { s2 with clocks := { s2.clocks with stopped := s2.clocks.stopped ||| BitVec.ofNat 18 (2 ^ island) } }
  else .next s

/-- ISLAND_WAKE (R441): a data-path agent needs the island; that of an unusable tarn never wakes. -/
def execIslandWake (island : Nat) (s : State) : Host.Outcome State Fault Refusal :=
  if 18 ≤ island ∨ (10 ≤ island ∧ island ≤ 13 ∧ mayStop s island) then .next s else .next (runClock island s)

end Sys2Proof.Machine
end

