-- ==== Sys2Proof/Machine/Deliver.lean ====
section
/-! DEFINITION. From the bytes of an arriving EHT packet to what the packet does: the fields of Tables 5-1 to 5-3, 6-2 to 6-4 and 14-2
read back from the wire. Frames of an Ethernet link and packets reassembled from flits both come here. -/

namespace Sys2Proof.Machine

/-- Table 5-1. -/
def parseHeader (l : List Byte) : EhtHeader :=
  let w := beAt l 0 4
  { version := BitVec.ofNat 4 (bits w 28 4), pathTag := BitVec.ofNat 4 (bits w 24 4), pktOp := BitVec.ofNat 8 (bits w 16 8), first := bit w 15,
    last := bit w 14, ackReq := bit w 13, solicited := bit w 12, immPresent := bit w 11, isSealed := bit w 10, retx := bit w 9,
    rsvd0 := BitVec.ofNat 9 (bits w 0 9), destQp := BitVec.ofNat 20 (beAt l 4 4 / 4096), rsvd1 := BitVec.ofNat 12 (beAt l 4 4 % 4096),
    srcQp := BitVec.ofNat 20 (beAt l 8 4 / 4096), rsvd2 := BitVec.ofNat 12 (beAt l 8 4 % 4096), seq := BitVec.ofNat 32 (beAt l 12 4),
    msgNum := BitVec.ofNat 32 (beAt l 16 4), recvNum := BitVec.ofNat 32 (beAt l 20 4), msgOffset := BitVec.ofNat 32 (beAt l 24 4),
    msgLengthM1 := BitVec.ofNat 32 (beAt l 28 4), rkey := BitVec.ofNat 32 (beAt l 32 4), msgDva := BitVec.ofNat 64 (beAt l 36 8),
    txStamp := BitVec.ofNat 64 (beAt l 44 8) }

/-- Bytes of the base header, and of the trailer (R123, R125). -/
def headerLen : Nat := 52

/-- `count` ranges from byte `off` on. -/
def parseRanges (l : List Byte) (off count : Nat) : List (W32 × W32) :=
  (List.range count).map fun i => (BitVec.ofNat 32 (beAt l (off + 8 * i) 4), BitVec.ofNat 32 (beAt l (off + 8 * i + 4) 4))

/-- Table 6-2. -/
def parseAck (l : List Byte) (o : Nat) : AckBody :=
  let w := beAt l (o + 24) 4
  { echoStamp := BitVec.ofNat 64 (beAt l o 8), recvStamp := BitVec.ofNat 64 (beAt l (o + 8) 8), echoSeq := BitVec.ofNat 32 (beAt l (o + 16) 4),
    ownRetired := BitVec.ofNat 32 (beAt l (o + 20) 4), echoPath := BitVec.ofNat 4 (bits w 28 4), stateLost := bit w 27,
    rsvd0 := BitVec.ofNat 3 (bits w 24 3), ceCount := BitVec.ofNat 8 (bits w 16 8), rsvd1 := BitVec.ofNat 12 (bits w 4 12),
    sackCount := BitVec.ofNat 4 (bits w 0 4), sack := parseRanges l (o + 28) (bits w 0 4) }

/-- Table 6-3. -/
def parseNak (l : List Byte) (o : Nat) : NakBody :=
  let w := beAt l o 4
  { reason := BitVec.ofNat 8 (bits w 24 8), rsvd := BitVec.ofNat 24 (bits w 0 24), nakSeq := BitVec.ofNat 32 (beAt l (o + 4) 4),
    nakMsg := BitVec.ofNat 32 (beAt l (o + 8) 4), ownRetired := BitVec.ofNat 32 (beAt l (o + 12) 4) }

/-- Table 6-4. -/
def parseRepair (l : List Byte) (o : Nat) : RepairBody :=
  let w := beAt l o 4
  { rsvd := BitVec.ofNat 28 (bits w 4 28), count := BitVec.ofNat 4 (bits w 0 4), ranges := parseRanges l (o + 4) (bits w 0 4) }

/-- Table 14-2. -/
def parseSeal (l : List Byte) (o : Nat) : SealBlock :=
  let w := beAt l o 4
  { keyPhase := bit w 31, unitLast := bit w 30, rsvd0 := BitVec.ofNat 8 (bits w 22 8), unitIndex := BitVec.ofNat 22 (bits w 0 22),
    unitCtr := BitVec.ofNat 64 (beAt l (o + 4) 8), rsvd1 := BitVec.ofNat 32 (beAt l (o + 12) 4), tag := BitVec.ofNat 128 (beAt l (o + 16) 16) }

def allKinds : List TxKind :=
  [.write, .writeImm, .readReq, .readResp, .send, .fadd, .cswap, .atomicResp, .flush, .ack, .nak, .readRepair]

/-- The kind that a `PKT_OP` names. -/
def kindOf (op : Nat) : Option TxKind := allKinds.find? fun k => pktOpCode k == op

/-- Bytes between the base header and the data: the extension headers and the seal block. -/
def extLen (k : TxKind) (h : EhtHeader) : Nat :=
  (if h.immPresent then 4 else 0) + (match k with | .fadd | .cswap | .atomicResp => 16 | _ => 0) + (if h.isSealed then 32 else 0)

/-- A packet of kind `k` with `n` data bytes, read from the wire. -/
def parseData (port : Nat) (env : Envelope) (k : TxKind) (h : EhtHeader) (n : Nat) (l : List Byte) : RxPacket :=
  let imm := if h.immPresent then some (BitVec.ofNat 32 (beAt l headerLen 4)) else none
  let o1 := headerLen + (if h.immPresent then 4 else 0)
  let isAtomic : Bool := match k with | .fadd | .cswap | .atomicResp => true | _ => false
  let atomic := if isAtomic then some (BitVec.ofNat 64 (beAt l o1 8), BitVec.ofNat 64 (beAt l (o1 + 8) 8)) else none
  let o2 := o1 + (if isAtomic then 16 else 0)
  let o3 := headerLen + extLen k h
  { port := port, env := env, hdr := h, immediate := imm, atomic := atomic, sealBlock := if h.isSealed then some (parseSeal l o2) else none,
    payload := slice l o3 n, crc := BitVec.ofNat 32 (beAt l (o3 + n) 4) }

/-- Data bytes that a packet may hold: on Ethernet what the datagram holds, on the fabric what its header says, because its last flit is
padded (R207). A message of one byte and one of none state the same length; the trailer tells them apart. -/
def dataLens (s : State) (k : TxKind) (h : EhtHeader) (exact : Bool) (total : Nat) : List Nat :=
  if exact then [total - headerLen - extLen k h - 4]
  else if !carriesData k then [0]
  else
    let len := h.msgLengthM1.toNat + 1
    let mtu := match qpGet s h.destQp.toNat with | some q => mtuOf q | none => 4096
    [min mtu (len - h.msgOffset.toNat), 0]

/-- What an arriving data packet does. `prior`: what the host or an accelerator returns to an atomic. -/
def runPacket (k : TxKind) (p : RxPacket) (prior : W64) (s : State) : State :=
  match k with
  | .write => classify .write p dupNothing (writeFresh .write) s
  | .writeImm => classify .writeImm p dupNothing (writeFresh .writeImm) s
  | .send => classify .send p dupNothing sendFresh s
  | .readReq => classify .readReq p dupRead readFresh s
  | .fadd => classify .fadd p dupAtomic (atomicFresh .fadd prior) s
  | .cswap => classify .cswap p dupAtomic (atomicFresh .cswap prior) s
  | .flush => classify .flush p dupNothing flushFresh s
  | .readResp => ownSpace .readResp p takeReadResp s
  | .atomicResp => ownSpace .atomicResp p takeAtomicResp s
  | .ack | .nak | .readRepair => s

/-- The bytes of an EHT packet have arrived whole on a port; one that names no packet, or is too short, is dropped and counted (R126). -/
def deliverPacket (port : Nat) (env : Envelope) (exact : Bool) (l : List Byte) (s : State) : State :=
  let h := parseHeader l
  let control (n : Nat) : RxPacket :=
    { port := port, env := env, hdr := h, immediate := none, atomic := none, sealBlock := none, payload := [],
      crc := BitVec.ofNat 32 (beAt l (headerLen + n) 4) }
  let fits (n : Nat) : Bool := if exact then l.length == headerLen + n + 4 else decide (headerLen + n + 4 ≤ l.length)
  match kindOf h.pktOp.toNat with
  | none => countDrop port s
  | some .ack =>
    let b := parseAck l headerLen
    let n := 28 + 8 * b.sackCount.toNat
    if fits n then takeAck (control n) b s else countDrop port s
  | some .nak => if fits 16 then takeNak (control 16) (parseNak l headerLen) s else countDrop port s
  | some .readRepair =>
    let b := parseRepair l headerLen
    let n := 4 + 8 * b.count.toNat
    if fits n then takeRepair (control n) b s else countDrop port s
  | some k =>
    let all := dataLens s k h exact l.length
    let n := (all.find? fun n => fits (extLen k h + n) && crcOk (parseData port env k h n l)).getD (all.headD 0)
    if fits (extLen k h + n) then
      runPacket k (parseData port env k h n l) (Config.freeWord s.dev.fresh) (takeFresh s)
    else countDrop port s

end Sys2Proof.Machine
end

