-- ==== Sys2Proof/Machine/Eth.lean ====
section
/-! DEFINITION. Ethernet ports (chapter 13): settings, links, received frames, priority flow control, the frame ring, LLDP, low-power
idle, and the counter blocks. -/

namespace Sys2Proof.Machine

/-! ### The frame ring (R360) -/

def frMod (f : FrameRing → FrameRing) (s : State) : State := ethMod (fun e => { e with ring := e.ring.map f }) s

/-- Frame-ring descriptor, Table 13-3. -/
def frameDescBits (len link kind : Nat) (data : W32) (stamp : Nat) (phase : Bool) : Nat :=
  pack [(0, 16, len), (16, 6, link), (22, 4, kind), (32, 32, data.toNat), (64, 64, stamp), (255, 1, flag phase)]

/-- The ring can take a descriptor now, and PF0's host memory may be written (R82). -/
def frameRoom (s : State) (r : FrameRing) : Bool :=
  decide ((r.written + 2 ^ 32 - r.head.toNat) % 2 ^ 32 < 2 ^ r.log2) && !dmaBarred s 0

/-- Write a descriptor, and signal `FR_VECTOR` once in 1 µs: with the first descriptor of a µs (log entry 109). -/
def writeDesc (len link kind : Nat) (data : W32) (stamp : Nat) (s : State) : State :=
  match s.eth.ring with
  | none => s
  | some r =>
    let due := match r.signalledAt with | some t => decide (t / 1000 ≠ s.dev.now / 1000) | none => true
    let s1 := emit (.hostWrite 0 (r.base.toNat + 32 * (r.written % 2 ^ r.log2)) false 256
      (frameDescBits len link kind data stamp (ownedPhase r.written r.log2))) s
    let s2 := frMod (fun r => { r with written := r.written + 1, signalledAt := if due then some s.dev.now else r.signalledAt }) s1
    if due then signalVec 0 r.vector s2 else s2

/-- The waiting link event that arose first. -/
def firstEvent (l : Tab (Nat × W32 × Nat)) : Option (Nat × Nat × W32 × Nat) :=
  match l with
  | [] => none
  | e :: rest =>
    match firstEvent rest with
    | some f => if e.2.2.2 ≤ f.2.2.2 then some e else some f
    | none => some e

/-- Write waiting link events while there is room. -/
def pumpEvents (fuel : Nat) (s : State) : State :=
  match fuel with
  | 0 => s
  | fuel + 1 =>
    match s.eth.ring with
    | none => s
    | some r =>
      if frameRoom s r then
        match firstEvent r.events with
        | some e =>
          pumpEvents fuel (writeDesc 0 e.1 e.2.1 e.2.2.1 e.2.2.2 (frMod (fun r => { r with events := tabErase r.events e.1 }) s))
        | none => s
      else s

/-- A link event: 1 up, 2 down, 3 wake time agreed. It waits where the ring has no room; only the latest of each link is kept. -/
def postLinkEvent (link kind : Nat) (data : W32) (s : State) : State :=
  pumpEvents 33 (frMod (fun r => { r with events := tabSet r.events link (kind, data, s.dev.now) }) s)

/-- `FR_HEAD` has been read. -/
def readFrHead (head : W32) (s : State) : State := pumpEvents 33 (frMod (fun r => { r with head := head }) s)

/-- LINK_EVENT_DEFERRED_WRITE (R360). -/
def execLinkEventDeferredWrite (head : W32) (s : State) : Host.Outcome State Fault Refusal :=
  whileLit s <| .next (readFrHead head s)

/-- A frame for PF0: to the ring, or dropped and counted as filtered (no ring) or as ring full (R355, R360). -/
def frameToRing (link : Nat) (body : List Byte) (s : State) : State :=
  match s.eth.ring with
  | none => countLink link 21 1 s
  | some r =>
    if frameRoom s r && r.events.isEmpty then
      writeDesc body.length link 0 0 s.dev.now
        (emit (.hostBytes 0 (r.buf.toNat + 16384 * (r.written % 2 ^ r.log2)) (relaxedOf s 0) body) s)
    else countLink link 24 1 s

/-! ### Links (R352, R353, R364) -/

/-- The receive direction leaves low-power idle. -/
def leaveRxLpi (link : Nat) (s : State) : State :=
  match linkGet s link with
  | some l =>
    if l.rxLpi then
      settleClock (2 + link / 8) (linkMod link (fun l => { l with rxLpi := false }) (countLink link 59 (s.dev.now - l.rxLpiAt) s))
    else s
  | none => s

/-- A traffic class is no longer held by a received pause (counters 48 to 55). -/
def resumeTc (link tc : Nat) (s : State) : State :=
  match (linkGet s link).bind fun l => tabGet l.pausedUntil tc with
  | some t =>
    linkMod link (fun l => { l with pausedUntil := tabErase l.pausedUntil tc }) (countLink link (48 + tc) (s.dev.now - t.1) s)
  | none => s

/-- Frames of `eth.frame.send` that wait for a link: none is sent (R361). -/
def dropFrames (link : Nat) (s : State) : State :=
  finishCmds (fun d => match d with
    | .frameSend l _ _ _ => if l = link then some (.ok, 0, 0, 0) else none
    | _ => none) s

/-- A link that is up goes down (R352, Table 6-14): it sends no more of what waits there, and unsettled packets are sent again elsewhere. -/
def linkDown (link : Nat) (s : State) : State :=
  if !linkUp s link then s
  else
    let s1 := (List.range 8).foldl (fun t q => resumeTc link q t) (leaveRxLpi link (leaveTxLpi link s))
    let s2 := linkMod link (fun l => { l with up := false, changedAt := s.dev.now, wakeNs := none, pausing := 0,
                                              occupancy := List.replicate 8 0 }) (countLink link 60 1 s1)
    let gone := { s2 with sched := { s2.sched with units := s2.sched.units.filter fun u => u.port != link } }
    let s3 := gone.qps.foldl (fun t p =>
      if isFabric p.2 then t else resendWhere p.1 (fun x => pathLink s p.2 x.lastPath == some link) t) gone
    settleClock (2 + link / 8) (wantRecheck (judgePaths (postLinkEvent link 2 0 (dropFrames link s3))))

/-- ETH_LINK_DOWN (R352). -/
def execEthLinkDown (link : Nat) (s : State) : Host.Outcome State Fault Refusal :=
  whileLit s <| .next (linkDown link s)

/-- Every lane of a link is usable (R349, R461). -/
def lanesUsable (s : State) (link : Nat) : Bool :=
  let w := 8 / max 1 (breakout (portMode s (link / 8)))
  (List.range w).all fun i => bit s.dev.inventory.ethLanes.toNat (8 * (link / 8) + w * (link % 8) + i)

/-- ETH_LINK_UP (R352): training of a configured link ends. Links also train near the end of a restart (R454). -/
def execEthLinkUp (link : Nat) (s : State) : Host.Outcome State Fault Refusal :=
  if (lit s ∨ s.dev.life = .restarting) ∧ configured s link ∧ linkUp s link = false ∧ lanesUsable s link then
    let s1 := linkMod link (fun l => { l with up := true, changedAt := s.dev.now, idleSince := s.dev.now, txLpi := false, rxLpi := false }) s
    .next (settleClock (2 + link / 8)
      (judgePaths (postLinkEvent link 1 (BitVec.ofNat 32 (portMode s (link / 8))) s1)))
  else .next s

/-- Idle time after which a link may enter low-power idle (Table 13-5); none under LATENCY. -/
def lpiAfter (s : State) : Option Nat :=
  match s.dev.profile with
  | .latency => none
  | .balanced => some 20000
  | .efficiency => some 2000

/-- An admitted flow has a path on the link. -/
def linkAdmitted (s : State) (link : Nat) : Bool :=
  s.qps.any fun p => match admitted p.2 with | some a => a.ports.contains link | none => false

/-- LPI_ENTRY (R364): the transmit direction has been idle for the entry time. -/
def execLpiEntry (link : Nat) (s : State) : Host.Outcome State Fault Refusal :=
  whileLit s <|
  match linkGet s link, tabGet s.eth.ports (link / 8), lpiAfter s with
  | some l, some p, some t =>
    match l.wakeNs with
    | some w =>
      if l.up ∧ l.txLpi = false ∧ p.lpiEnable ∧ w ≤ 1000 * p.wakeMax ∧ linkAdmitted s link = false ∧ (pendingFrame s link).isNone then
        let s1 := advanceTo (l.idleSince + t) s
        .next (settleClock (2 + link / 8)
          (linkMod link (fun l => { l with txLpi := true, txLpiAt := s1.dev.now }) (countLink link 56 1 s1)))
      else .next s
    | none => .next s
  | _, _, _ => .next s

/-- A wake: the link carries frames again after Tw. -/
def wakeLink (link : Nat) (s : State) : State :=
  match linkGet s link with
  | some l => if l.txLpi then leaveTxLpi link (advanceTo (s.dev.now + l.wakeNs.getD 0) s) else s
  | none => s

/-- LPI_WAKE (R364). -/
def execLpiWake (link : Nat) (s : State) : Host.Outcome State Fault Refusal :=
  whileLit s <| .next (wakeLink link s)

/-- PARTNER_LPI_ENTRY (R364). -/
def execPartnerLpiEntry (link : Nat) (s : State) : Host.Outcome State Fault Refusal :=
  whileLit s <|
  match linkGet s link with
  | some l =>
    if l.up ∧ l.rxLpi = false then
      .next (settleClock (2 + link / 8) (linkMod link (fun l => { l with rxLpi := true, rxLpiAt := s.dev.now }) (countLink link 58 1 s)))
    else .next s
  | none => .next s

/-- PARTNER_LPI_EXIT (R364). -/
def execPartnerLpiExit (link : Nat) (s : State) : Host.Outcome State Fault Refusal :=
  whileLit s <| .next (leaveRxLpi link s)

/-! ### The receive buffer and priority flow control (R356, R358) -/

/-- B of a link. -/
def linkBuffer (s : State) (link : Nat) : Nat := 8388608 / max 1 (breakout (portMode s (link / 8)))

/-- Bytes of the shared pool in use, when the buffer of a link holds `occ`. -/
def sharedUse (b : Nat) (occ : List Nat) : Nat :=
  (occ.take 4).sum + ((occ.drop 4).map fun x => x - b / 16).sum

/-- The occupancy that pause thresholds see: the reserve of priorities 4 to 7, the shared pool of the others. -/
def pauseCount (b q occ : Nat) : Nat := if 4 ≤ q then min occ (b / 16) else occ

def setAt (l : List Nat) (i v : Nat) : List Nat := (List.range 8).map fun k => if k = i then v else l.getD k 0

/-- What the buffer of a link has passed on since it was last looked at is a free value (log entry 47). -/
def drainLink (link : Nat) (s : State) : State :=
  match linkGet s link with
  | none => s
  | some l =>
    let left (q : Nat) : Nat :=
      let o := l.occupancy.getD q 0
      o - (Config.freeWord (s.dev.fresh + q)).toNat % (o + 1)
    let occ := (List.range 8).map left
    { linkMod link (fun l => { l with occupancy := occ }) s with dev := { s.dev with fresh := s.dev.fresh + 8 } }

/-- Send one PFC frame for the priorities of `enable`. -/
def sendPfc (link : Nat) (enable : Nat) (time : Nat → Nat) (s : State) : State :=
  if enable = 0 then s
  else
    countTx link 64 3 (emit (.pfc link (BitVec.ofNat 8 enable) ((List.range 8).map fun q =>
      BitVec.ofNat 16 (if bit enable q then time q else 0))) s)

/-- The mask of the priorities that satisfy `p`. -/
def prioMask (p : Nat → Bool) : Nat := ((List.range 8).map fun q => 2 ^ q * flag (p q)).sum

/-- Judge the occupancy of a link: pause what has reached `XOFF`, and let go what has fallen below `XON`, with one frame. -/
def judgePause (link : Nat) (s : State) : State :=
  match linkGet s link with
  | none => s
  | some l =>
    let b := linkBuffer s link
    let count (q : Nat) : Nat := pauseCount b q (l.occupancy.getD q 0)
    let on (q : Nat) : Bool := bit l.pfcEnable.toNat q && !bit l.pausing.toNat q && decide (l.xoff ≤ count q)
    let off (q : Nat) : Bool := bit l.pausing.toNat q && decide (2 * count q < l.xoff)
    let change := prioMask fun q => on q || off q
    if change = 0 then s
    else
      let held := prioMask fun q => (bit l.pausing.toNat q || on q) && !off q
      linkMod link (fun l => { l with pausing := BitVec.ofNat 8 held, pauseSentAt := s.dev.now })
        (sendPfc link change (fun q => if on q then 0xFFFF else 0) s)

/-- PFC_REFRESH (R358): half of the pause time after the latest frame, the pauses still held are sent again. -/
def execPfcRefresh (link : Nat) (s : State) : Host.Outcome State Fault Refusal :=
  whileLit s <|
  match linkGet s link with
  | none => .next s
  | some l =>
    if l.up = false ∨ l.pausing = 0 then .next s
    else
      let rate := max 1 (linkRate (portMode s (link / 8)))
      let s1 := drainLink link (advanceTo (l.pauseSentAt + ceilDiv (65535 * 512) (2 * rate)) s)
      match linkGet s1 link with
      | none => .next s1
      | some x =>
        let b := linkBuffer s1 link
        let high (q : Nat) : Bool := decide (x.xoff ≤ 2 * pauseCount b q (x.occupancy.getD q 0))
        let held := prioMask fun q => bit x.pausing.toNat q && high q
        .next (linkMod link (fun y => { y with pausing := BitVec.ofNat 8 held, pauseSentAt := s1.dev.now })
          (sendPfc link x.pausing.toNat (fun q => if bit held q then 0xFFFF else 0) s1))

/-- What a PFC frame says of priority `q`: pause for `time` quanta of 512 bit times, or resume with 0; outside `ENABLE` it is only counted. -/
def pfcPriority (link : Nat) (times : List W16) (s : State) (q : Nat) : State :=
  let t := (times.getD q 0).toNat
  let s1 := if t = 0 then s else countLink link (25 + q) 1 s
  match linkGet s1 link with
  | none => s1
  | some l =>
    if !bit l.pfcEnable.toNat q then s1
    else if t = 0 then resumeTc link q s1
    else
      let rate := max 1 (linkRate (portMode s (link / 8)))
      let from_ := match tabGet l.pausedUntil q with | some x => x.1 | none => s.dev.now
      linkMod link (fun l => { l with pausedUntil := tabSet l.pausedUntil q (from_, s.dev.now + ceilDiv (t * 512) rate) }) s1

def takePfc (link : Nat) (enable : W8) (times : List W16) (s : State) : State :=
  ((List.range 8).filter fun q => bit enable.toNat q).foldl (pfcPriority link times) s

/-- Counters of a good frame of `n` bytes; `kind`: 0 unicast, 1 multicast, 2 broadcast. -/
def countRx (link n kind : Nat) (vlan control : Bool) (s : State) : State :=
  let s1 := countLink link (7 + sizeClass n) 1 (countLink link (2 + kind) 1 (countLink link 1 n (countLink link 0 1 s)))
  let s2 := if vlan then countLink link 5 1 s1 else s1
  if control then countLink link 6 1 s2 else s2

/-- PFC_FRAME_RX (R358): a frame of 64 bytes to the MAC Control address. -/
def execPfcFrameRx (link : Nat) (enable : W8) (times : List W16) (s : State) : Host.Outcome State Fault Refusal :=
  whileLit s <|
  if linkUp s link then .next (takePfc link enable times (countRx link 64 1 false true s)) else .next s

/-- PFC_PAUSE_EXPIRE (R358). -/
def execPfcPauseExpire (link tc : Nat) (s : State) : Host.Outcome State Fault Refusal :=
  whileLit s <|
  match (linkGet s link).bind fun l => tabGet l.pausedUntil tc with
  | some t => .next (resumeTc link tc (advanceTo t.2 s))
  | none => .next s

/-! ### Received frames (R354, R355) -/

/-- Bytes of the MAC header, with a VLAN tag if there is one. -/
def macLen (f : EthFrame) : Nat := if f.vlanPcp.isSome then 18 else 14

/-- Priority of an arriving frame (R356); the priority of an untagged frame under `PRIO_SOURCE` 0 is 0. -/
def framePrio (s : State) (link : Nat) (f : EthFrame) : Nat :=
  let byDscp := match tabGet s.eth.ports (link / 8) with | some p => p.prioDscp | none => false
  if byDscp then f.dscp.toNat / 8 else match f.vlanPcp with | some p => p.toNat | none => 0

/-- What the IP and UDP headers of a frame show (R119): where its datagram starts, the bytes of its payload, and its envelope. -/
def datagramOf (f : EthFrame) (ipv6 ce : Bool) : List Byte × Envelope :=
  let ip := f.body.drop (macLen f)
  let ihl := if ipv6 then 40 else 4 * (beAt ip 0 1 % 16)
  let udp := ip.drop ihl
  let n := beAt udp 4 2
  let pseudo := if ipv6 then slice ip 8 32 else slice ip 12 8
  let bad := beAt udp 6 2 != 0 && sum16 (pseudo ++ beBytes 2 17 ++ beBytes 2 n ++ slice udp 0 n) != 0xFFFF
  (slice udp 8 (n - 8),
   { ipOptions := !ipv6 && ihl != 20, ipv6ExtHeader := ipv6 && beAt ip 6 1 != 17, fragment := !ipv6 && beAt ip 6 2 % 0x4000 != 0,
     badUdpChecksum := bad, ce := ce, ipv6 := ipv6, source := BitVec.ofNat 128 (if ipv6 then beAt ip 8 16 else beAt ip 12 4),
     admitted := false })

/-- The destination address is one that `eht.addr` set on this port. -/
def ownAddress (s : State) (port : Nat) (u : UdpInfo) : Bool :=
  s.eth.addrs.any fun a => a.1 % 4 == port && a.2.kind == flag u.ipv6 && a.2.addr == u.dst

/-- The receive Tw of the IEEE 802.3 EEE TLV of an LLDPDU, in µs (log entry 48). -/
def eeeTw (fuel : Nat) (l : List Byte) : Option Nat :=
  match fuel with
  | 0 => none
  | fuel + 1 =>
    let kind := beAt l 0 2 / 512
    let len := beAt l 0 2 % 512
    if l.length < 2 ∨ kind = 0 then none
    else if kind = 127 ∧ beAt l 2 4 = 0x00120F05 ∧ 8 ≤ len then some (beAt l 8 2)
    else eeeTw fuel (l.drop (2 + len))

/-- The LLDP agent takes an LLDPDU, unless firmware is down (R353, R363, R364). A link whose new Tw is above `WAKE_MAX` leaves low-power
idle. -/
def takeLldp (link : Nat) (f : EthFrame) (s : State) : State :=
  if s.dev.life ≠ .running then s
  else
    match eeeTw f.body.length (f.body.drop (macLen f)) with
    | none => s
    | some tw =>
      let w := max (1000 * tw) 2500
      let most := match tabGet s.eth.ports (link / 8) with | some p => 1000 * p.wakeMax | none => 0
      if ((linkGet s link).bind fun l => l.wakeNs) = some w then s
      else
        let s1 := postLinkEvent link 3 (BitVec.ofNat 32 w) (linkMod link (fun l => { l with wakeNs := some w }) s)
        if most < w then leaveTxLpi link s1 else s1

/-- The MAC address of a link (R349). -/
def linkMac (s : State) (link : Nat) : W48 :=
  match tabGet s.eth.ports (link / 8) with
  | some p => p.macBase + BitVec.ofNat 48 (link % 8)
  | none => 0

def broadcastMac : W48 := BitVec.allOnes 48

/-- The multicast address that LLDP uses. -/
def lldpMac : W48 := 0x0180C200000E

/-- Orders 2 to 7 of Table 13-2 for a good frame. -/
def classifyFrame (link : Nat) (f : EthFrame) (s : State) : State :=
  let udp := f.udp.filter fun u => ownAddress s (link / 8) u
  match udp.filter fun u => u.dstPort == s.eth.udpPort, udp.filter fun u => u.dstPort == 4791 with
  | some u, _ =>
    let d := datagramOf f u.ipv6 (u.ecn == 3)
    deliverPacket link d.2 true d.1 s
  | none, some _ => s
  | none, none =>
    if f.etherType = 0x88CC ∧ f.dst = lldpMac then
      let s1 := takeLldp link f s
      if (match s.eth.ring with | some r => r.copyLldp | none => false) then frameToRing link f.body s1 else s1
    else
      let listed : Bool := match linkGet s link with | some l => l.mcast.contains f.dst | none => false
      if f.dst = linkMac s link ∨ f.dst = broadcastMac ∨ listed then frameToRing link f.body s else countLink link 21 1 s

/-- A frame whose ECN field is ECT(0) or ECT(1), with the field set to CE (R184); IPv4 covers it by its header checksum. -/
def markCe (f : EthFrame) : EthFrame :=
  let o := macLen f
  let put (l : List Byte) (i v n : Nat) : List Byte := l.take i ++ beBytes n v ++ l.drop (i + n)
  let b := beAt f.body (o + 1) 1
  let body :=
    if f.etherType = 0x0800 ∧ b % 4 ≠ 0 then
      let l := put (put f.body (o + 1) (b / 4 * 4 + 3) 1) (o + 10) 0 2
      put l (o + 10) (65535 - sum16 (slice l o (4 * (beAt l o 1 % 16)))) 2
    else if f.etherType = 0x86DD ∧ bits b 4 2 ≠ 0 then put f.body (o + 1) (b ||| 0x30) 1
    else f.body
  { f with body := body, udp := f.udp.map fun u => if u.ecn = 0 then u else { u with ecn := 3 } }

/-- Order 2: the policer of the link and class, after the refills that are due (R185). -/
def policeFrame (link tc : Nat) (f : EthFrame) (s0 : State) : State :=
  let s := duePolicers s0
  match tabGet s.sched.policers (policerKey link tc) with
  | some p =>
    if p.cir = 0 ∨ 4 ≤ tc then classifyFrame link f s
    else
      let r := policerColour p f.length
      let s1 := { s with sched := { s.sched with policers := tabSet s.sched.policers (policerKey link tc) r.2 } }
      if r.1 = 2 then countLink link 22 1 s1 else classifyFrame link (if r.1 = 1 then markCe f else f) s1
  | none => classifyFrame link f s

/-- The counter of a frame that is dropped as bad (R354). -/
def badFrame (f : EthFrame) : Option Nat :=
  if !f.fcsOk then some 16 else if f.length < 64 then some 17 else if 9216 < f.length then some 18 else if 0 < f.fec.bad then some 19 else none

/-- The FEC counters of a link (R351). -/
def countFec (link : Nat) (c : FecCount) (s : State) : State :=
  [(61, c.corrected), (62, c.bad), (63, c.symbols)].foldl (fun t p => if p.2 = 0 then t else countLink link p.1 p.2 t) s

/-- A frame arrives: room in the buffer, then its checks, then Table 13-2. -/
def takeFrame (link : Nat) (f : EthFrame) (s0 : State) : State :=
  let s := judgePause link (drainLink link (countFec link f.fec s0))
  match linkGet s link with
  | none => s
  | some l =>
    let q := framePrio s link f
    let b := linkBuffer s link
    let occ := setAt l.occupancy q (l.occupancy.getD q 0 + f.length)
    let control := f.etherType == 0x8808
    if !control && decide (3 * b / 4 < sharedUse b occ) then countLink link 20 1 s
    else
      match badFrame f with
      | some i => countLink link i 1 s
      | none =>
        let kind := if f.dst = broadcastMac then 2 else if bit f.dst.toNat 40 then 1 else 0
        let s1 := countRx link f.length kind f.vlanPcp.isSome control s
        if control then
          if beAt f.body (macLen f) 2 = 0x0101 then
            takePfc link (BitVec.ofNat 8 (beAt f.body (macLen f + 2) 2))
              ((List.range 8).map fun i => BitVec.ofNat 16 (beAt f.body (macLen f + 4 + 2 * i) 2)) s1
          else s1
        else policeFrame link q f (judgePause link (linkMod link (fun l => { l with occupancy := occ }) s1))

/-- ETH_FRAME_RX (R355). `head`: `FR_HEAD`, where the device read it. -/
def execEthFrameRx (link : Nat) (f : EthFrame) (head : Option W32) (s : State) : Host.Outcome State Fault Refusal :=
  whileLit s <|
  if linkUp s link then
    .next (takeFrame link f (match head with | some h => readFrHead h s | none => s))
  else .next s

/-- LLDP_SEND (R363): every 30 s, on every link that is up; a sleeping link is woken. -/
def execLldpSend (s : State) : Host.Outcome State Fault Refusal :=
  whileLit s <|
  let t := nextMultiple s.dev.ticks.lldp 30000000000
  let s1 := advanceTo t { s with dev := { s.dev with ticks := { s.dev.ticks with lldp := t } } }
  if s.dev.life ≠ .running then .next s1
  else .next ((s1.eth.links.filter fun l => l.2.up).foldl (fun u l => countTx l.1 64 1 (emit (.lldp l.1) (wakeLink l.1 u))) s1)

/-! ### Commands (Table 13-8) -/

def specEthPortSet : CmdSpec :=
  { opcode := 0x0460, issuer := .pf0, cls := .any, fields := [(0, 1), (1, 1), (2, 1), (3, 1), (4, 1), (6, 2), (8, 6)] }

/-- A READY queue pair names the port in `PORT_MASK`. -/
def portInUse (s : State) (port : Nat) : Bool :=
  s.qps.any fun p => p.2.phase == .ready && !isFabric p.2 && bit p.2.conf.portMask.toNat port

def doEthPortSet (c : Cmd) (s : State) : CmdOut :=
  let p := param c 0 1
  let ok := decide (p < 4) && decide (param c 1 1 ≤ 4) && decide (param c 2 1 ≤ 2) && decide (param c 3 1 ≤ 1) &&
    decide (param c 4 1 ≤ 1) && decide (2 ≤ param c 6 2 ∧ param c 6 2 ≤ 100) && param c 8 1 % 8 == 0
  if !ok then cmdFail s .invalidParam
  else if portInUse s p then cmdFail s .busy
  else
    let s1 := (List.range 8).foldl (fun t b => linkDown (8 * p + b) t) s
    let set (x : EthPort) : EthPort :=
      { x with mode := param c 1 1, medium := param c 2 1, prioDscp := param c 3 1 == 1, lpiEnable := param c 4 1 == 1,
               wakeMax := param c 6 2, macBase := BitVec.ofNat 48 (param c 8 6) }
    cmdOk (settleClock (2 + p) (judgePaths (ethMod (fun e => { e with ports := tabMod e.ports p set }) s1)))

/-- ETH_PORT_SET (R348, R349): the links of the port restart training. -/
def execEthPortSet (c : Cmd) (s : State) : Host.Outcome State Fault Refusal := .next (runCmd specEthPortSet doEthPortSet c s)

def specEthPortQuery : CmdSpec := { opcode := 0x0461, issuer := .pf0, cls := .any, fields := [(0, 1)] }

def doEthPortQuery (c : Cmd) (s : State) : CmdOut :=
  match linkGet s (param c 0 1) with
  | some l =>
    .done s .ok (pack [(0, 1, flag l.up), (1, 1, flag l.txLpi), (2, 1, flag l.rxLpi), (3, 8, portMode s (param c 0 1 / 8))])
      (l.wakeNs.getD 0) l.changedAt
  | none => cmdFail s .invalidParam

/-- ETH_PORT_QUERY (R373). -/
def execEthPortQuery (c : Cmd) (s : State) : Host.Outcome State Fault Refusal := .next (runCmd specEthPortQuery doEthPortQuery c s)

def specEthPfc : CmdSpec := { opcode := 0x0462, issuer := .pf0, cls := .any, fields := [(0, 1), (1, 1), (4, 4), (8, 4)] }

/-- R359. -/
def pfcFits (b enable xoff headroom : Nat) : Bool :=
  let e := ((List.range 4).filter fun q => bit enable q).length
  decide (e * (xoff + headroom) ≤ 3 * b / 4) && (enable / 16 == 0 || decide (xoff + headroom ≤ b / 16))

def doEthPfc (c : Cmd) (s : State) : CmdOut :=
  let id := param c 0 1
  needParam (configured s id && pfcFits (linkBuffer s id) (param c 1 1) (param c 4 4) (param c 8 4)) s
    (let e := param c 1 1
     let s1 := ((List.range 8).filter fun q => !bit e q).foldl (fun t q => resumeTc id q t) s
     let lift := prioMask fun q => !bit e q && (match linkGet s id with | some l => bit l.pausing.toNat q | none => false)
     let s2 := sendPfc id (if linkUp s id then lift else 0) (fun _ => 0) s1
     cmdOk (judgePause id (linkMod id (fun l => { l with pfcEnable := BitVec.ofNat 8 e, xoff := param c 4 4, headroom := param c 8 4,
                                                         pausing := l.pausing &&& BitVec.ofNat 8 e }) s2)))

/-- ETH_PFC (R358, R359). -/
def execEthPfc (c : Cmd) (s : State) : Host.Outcome State Fault Refusal := .next (runCmd specEthPfc doEthPfc c s)

def specEthFrames : CmdSpec :=
  { opcode := 0x0463, issuer := .pf0, cls := .any, fields := [(0, 8), (8, 8), (16, 8), (24, 1), (25, 1), (26, 2)] }

def doEthFrames (c : Cmd) (s : State) : CmdOut :=
  if param c 0 8 = 0 then cmdOk (ethMod (fun e => { e with ring := none }) s)
  else
    let k := param c 24 1
    let ok := param c 0 8 % 4096 == 0 && param c 8 8 % 64 == 0 && param c 16 8 % 4096 == 0 && decide (4 ≤ k ∧ k ≤ 12) &&
      decide (param c 25 1 ≤ 1) && decide (param c 26 2 < 2048)
    let r : FrameRing :=
      { base := BitVec.ofNat 64 (param c 0 8), header := BitVec.ofNat 64 (param c 8 8), buf := BitVec.ofNat 64 (param c 16 8), log2 := k,
        copyLldp := param c 25 1 == 1, vector := param c 26 2, written := 0, head := 0, signalledAt := none, events := [] }
    needParam ok s (cmdOk (ethMod (fun e => { e with ring := some r }) s))

/-- ETH_FRAMES (R360). -/
def execEthFrames (c : Cmd) (s : State) : Host.Outcome State Fault Refusal := .next (runCmd specEthFrames doEthFrames c s)

def specEthFrameSend : CmdSpec :=
  { opcode := 0x0464, issuer := .pf0, cls := .any, fields := [(0, 1), (1, 1), (2, 2)], listed := some { off := 64, countAt := 2, countWidth := 2, size := 1 } }

/-- The frame is an LLDP frame: its EtherType, after a VLAN tag if it has one. -/
def isLldp (frame : List Byte) : Bool :=
  beAt frame 12 2 == 0x88CC || (beAt frame 12 2 == 0x8100 && beAt frame 16 2 == 0x88CC)

def doEthFrameSend (c : Cmd) (s : State) : CmdOut :=
  let id := param c 0 1
  let n := param c 2 2
  let frame := paramBytes c 64 n
  let ok := c.indirect && configured s id && decide (param c 1 1 < 4) && decide (14 ≤ n ∧ n ≤ 9212) && !isLldp frame
  needParam ok s (if linkUp s id then .later s (.frameSend id (param c 1 1) s.dev.now frame) else cmdOk s)

/-- ETH_FRAME_SEND (R361): the reply follows the frame. -/
def execEthFrameSend (c : Cmd) (s : State) : Host.Outcome State Fault Refusal := .next (runCmd specEthFrameSend doEthFrameSend c s)

/-- `count` MAC addresses of 6 bytes from byte `off`. -/
def macList (c : Cmd) (off count : Nat) : List W48 := (List.range count).map fun i => BitVec.ofNat 48 (param c (off + 6 * i) 6)

def specEthMcast : CmdSpec :=
  { opcode := 0x0465, issuer := .pf0, cls := .any, fields := [(0, 1), (1, 1)], listed := some { off := 8, countAt := 1, countWidth := 1, size := 6 } }

def doEthMcast (c : Cmd) (s : State) : CmdOut :=
  needParam (c.indirect && configured s (param c 0 1) && decide (param c 1 1 ≤ 16)) s
    (cmdOk (linkMod (param c 0 1) (fun l => { l with mcast := macList c 8 (param c 1 1) }) s))

/-- ETH_MCAST (R355). -/
def execEthMcast (c : Cmd) (s : State) : Host.Outcome State Fault Refusal := .next (runCmd specEthMcast doEthMcast c s)

/-! ### Counters (R371, R372) -/

def specCntNotify : CmdSpec := { opcode := 0x0B11, issuer := .pf0, cls := .any, fields := [(0, 2)] }

def doCntNotify (c : Cmd) (s : State) : CmdOut :=
  let v := param c 0 2
  needParam (decide (v < 2048) || v == 0xFFFF) s
    (cmdOk (ethMod (fun e => { e with cntVector := if v = 0xFFFF then none else some v }) s))

/-- CNT_NOTIFY (R371). -/
def execCntNotify (c : Cmd) (s : State) : Host.Outcome State Fault Refusal := .next (runCmd specCntNotify doCntNotify c s)

/-- MAC counter block, Table 13-7. -/
def counterBits (now : Nat) (half : W64) (t : Tab W48) : Nat :=
  pack ((0, 64, now) :: (64, 64, half.toNat) :: t.map fun p => (128 + 64 * p.1, 48, p.2.toNat))

/-- The time that pauses and low-power idle have held a link so far is in its counters (R371, R372). Those of a stopped island are the copy made
when it stopped (R365). -/
def countHeldNs (link : Nat) (s : State) : State :=
  if bit s.clocks.stopped.toNat (2 + link / 8) then s
  else
    let now := s.dev.now
    let pause (t : State) (q : Nat) : State :=
      match (linkGet t link).bind fun l => tabGet l.pausedUntil q with
      | some p =>
        linkMod link (fun l => { l with pausedUntil := tabSet l.pausedUntil q (min now p.2, p.2) }) (countLink link (48 + q) (min now p.2 - p.1) t)
      | none => t
    let s1 := (List.range 8).foldl pause s
    match linkGet s1 link with
    | none => s1
    | some l =>
      let s2 := if l.txLpi then linkMod link (fun x => { x with txLpiAt := now }) (countLink link 57 (now - l.txLpiAt) s1) else s1
      if l.rxLpi then linkMod link (fun x => { x with rxLpiAt := now }) (countLink link 59 (now - l.rxLpiAt) s2) else s2

def specCntRead : CmdSpec := { opcode := 0x0B10, issuer := .any, cls := .any, fields := [(0, 2), (8, 8), (16, 4)] }

def doCntRead (c : Cmd) (s : State) : CmdOut :=
  let b := param c 0 2
  let port := decide (0x0100 ≤ b ∧ b < 0x0120)
  if !(port || b == 0x0180) then cmdFail s .invalidParam
  else if issuerOf c ≠ 0 then cmdFail s .notPermitted
  else if param c 16 4 < 528 then cmdFail s .invalidParam
  else if b = 0x0180 then
    cmdOk (writeResult c (param c 8 8) 4224 (counterBits s.dev.now s.helm.halfCrossed s.helm.counters)
      { s with helm := { s.helm with halfCrossed := 0 } })
  else
    let s1 := countHeldNs (b - 0x0100) s
    match linkGet s1 (b - 0x0100) with
    | some l =>
      if configured s (b - 0x0100) then
        cmdOk (writeResult c (param c 8 8) 4224 (counterBits s.dev.now l.halfCrossed l.counters)
          (linkMod (b - 0x0100) (fun l => { l with halfCrossed := 0 }) s1))
      else cmdOk (writeResult c (param c 8 8) 4224 0 s)
    | none => cmdOk (writeResult c (param c 8 8) 4224 0 s)

/-- CNT_READ (R371, R372). -/
def execCntRead (c : Cmd) (s : State) : Host.Outcome State Fault Refusal := .next (runCmd specCntRead doCntRead c s)

end Sys2Proof.Machine
end

