-- ==== Sys2Proof/Machine/Sec.lean ====
section
/-! DEFINITION. The security island (chapter 14): roles and sessions, accords, sealing and key changes, failed units, identity and
attestation, firmware updates, self-tests and the error state. The cryptography itself is uninterpreted (log entry 8). -/

namespace Sys2Proof.Machine

def secMod (f : Security → Security) (s : State) : State := { s with sec := f s.sec }

/-- One request to the DRBG: a draw (R376). -/
def drbgDraw (s : State) : Nat × State := (s.dev.fresh, secMod (fun x => { x with drbgRequests := x.drbgRequests + 1 }) (takeFresh s))

/-! ### Self-tests and the error state (R400, R401). Bits of failing tests: log entry 46. -/

def testGcm : Nat := 1
def testPairwise : Nat := 8
def testRepetition : Nat := 9
def testProportion : Nat := 10

/-- The sealed entries of a queue pair end: those under way with the effect of `RETRY_EXHAUSTED`, the others by themselves. -/
def endSealed (n : Nat) (s : State) : State :=
  let under := ((qpOpen s n).filter fun p => p.2.state == .active && isTransport (entryOp p.2.entry) && entryOp p.2.entry != 0x10).map Prod.fst
  if under.isEmpty then failUnsent n s else qpToError n (failUnsent n (completeAll under .cryptoSelftest s))

/-- The whole boundary enters the error state. -/
def enterError (failing : Nat) (s : State) : State :=
  let s1 := raiseEvent .cryptoError 0 nodeSelf failing 0 (secMod (fun x => { x with errorState := true, failing := BitVec.ofNat 64 failing }) s)
  (s1.qps.filter fun p => p.2.sealing.isSome).foldl (fun t p => endSealed p.1 t) s1

/-- A command of the island fails while the boundary is in the error state. -/
def needBoundary (s : State) (k : CmdOut) : CmdOut := if s.sec.errorState then cmdFail s .cryptoSelftest else k

/-- HEALTH_TEST_FAILURE (R376): the repetition count or the adaptive proportion test. -/
def execHealthTestFailure (proportion : Bool) (s : State) : Host.Outcome State Fault Refusal :=
  whileLit s <| .next (enterError (2 ^ (if proportion then testProportion else testRepetition)) s)

/-- LANE_KAT (R400): every 100 ms. -/
def execLaneKat (lane : Nat) (passed : Bool) (s : State) : Host.Outcome State Fault Refusal :=
  whileLit s <|
  match tabGet s.sec.lanes lane with
  | none => .next s
  | some l =>
    let s1 := advanceTo (l.katAt + 100000000) s
    let s2 := secMod (fun x => { x with lanes := tabMod x.lanes lane fun y => { y with katAt := s1.dev.now } }) s1
    if passed then .next s2 else .next (enterError (2 ^ testGcm) s2)

/-- PERIODIC_SELFTEST (R400): every 24 h. A pass does not end the error state (R401). -/
def execPeriodicSelftest (failing : W64) (s : State) : Host.Outcome State Fault Refusal :=
  whileLit s <|
  let t := nextMultiple s.dev.ticks.selftest 86400000000000
  let s1 := advanceTo t { s with dev := { s.dev with ticks := { s.dev.ticks with selftest := t } } }
  if failing = 0 then .next s1 else .next (enterError failing.toNat s1)

/-- DRBG_RESEED (R376): after 2^20 requests or 1 s. -/
def execDrbgReseed (entropy : BitVec 384) (s : State) : Host.Outcome State Fault Refusal :=
  whileLit s <|
  let s1 := if 2 ^ 20 ≤ s.sec.drbgRequests then s else advanceTo (s.sec.drbgAt + 1000000000) s
  .next (secMod (fun x => { x with drbgRequests := 0, drbgAt := s1.dev.now, seed := entropy }) s1)

/-- MASK_RESEED (R377): 256 bits of the DRBG. -/
def execMaskReseed (lane : Nat) (s : State) : Host.Outcome State Fault Refusal :=
  whileLit s <|
  if s.sec.errorState then .next s
  else .next (secMod (fun x => { x with lanes := tabMod x.lanes lane fun y => { y with maskAt := s.dev.now } }) (drbgDraw s).2)

def specSecSelftest : CmdSpec := { opcode := 0x0830, issuer := .pf0, cls := .any, fields := [] }

/-- SEC_SELFTEST (R400). -/
def execSecSelftest (c : Cmd) (s : State) : Host.Outcome State Fault Refusal :=
  .next (runCmd specSecSelftest (fun _ t => .deferred t .selftest) c s)

/-- SEC_SELFTEST_DONE (R401). -/
def execSecSelftestDone (failing : W64) (s : State) : Host.Outcome State Fault Refusal :=
  whileLit s <|
  if !(s.commands.any fun p => p.what == .selftest) then .next s
  else
    let s1 := if failing = 0 then secMod (fun x => { x with errorState := false, failing := 0 }) s else enterError failing.toNat s
    .next (finishCmds (fun d => if d = .selftest then some (if failing = 0 then .ok else .cryptoSelftest, failing.toNat, 0, 0) else none) s1)

/-! ### Roles (R375) -/

def specSecOfficer : CmdSpec := { opcode := 0x0832, issuer := .pf0, cls := .any, fields := [(0, 1793)] }

def doSecOfficer (c : Cmd) (s : State) : CmdOut :=
  needBoundary s <| needParam (c.indirect && decide (1793 ≤ c.length.toNat)) s <|
  if s.sec.officer.isSome then cmdFail s .notPermitted
  else cmdOk (secMod (fun x => { x with officer := some (paramBytes c 0 1793) }) s)

/-- SEC_OFFICER (R375). -/
def execSecOfficer (c : Cmd) (s : State) : Host.Outcome State Fault Refusal := .next (runCmd specSecOfficer doSecOfficer c s)

def specSecLogin : CmdSpec := { opcode := 0x0833, issuer := .pf0, cls := .any, fields := [(0, 1), (16, 1280)] }

/-- What the officer signs: the challenge, then `SERIAL`. -/
def loginMessage (a b : W64) : List Byte := leBytes 8 a.toNat ++ leBytes 8 b.toNat ++ leBytes 8 Config.serial.toNat

def doSecLogin (c : Cmd) (s : State) : CmdOut :=
  needBoundary s <|
  match param c 0 1 with
  | 0 =>
    let r := drbgDraw s
    let q := drbgDraw r.2
    let a := Config.freeWord r.1
    let b := Config.freeWord q.1
    .done (secMod (fun x => { x with challenge := some (a, b) }) q.2) .ok a.toNat b.toNat 0
  | 1 =>
    needParam (c.indirect && decide (1296 ≤ c.length.toNat)) s
      (match s.sec.officer, s.sec.challenge with
       | some key, some (a, b) =>
         if Config.falconOk key (loginMessage a b) (paramBytes c 16 1280) then
           cmdOk (secMod (fun x => { x with sessionAt := some s.dev.now, challenge := none }) s)
         else cmdFail s .authFail
       | _, _ => cmdFail s .authFail)
  | _ => cmdFail s .invalidParam

/-- SEC_LOGIN (R375). -/
def execSecLogin (c : Cmd) (s : State) : Host.Outcome State Fault Refusal := .next (runCmd specSecLogin doSecLogin c s)

/-- OFFICER_SESSION_EXPIRY (R375): 600 s after it opened. -/
def execOfficerSessionExpiry (s : State) : Host.Outcome State Fault Refusal :=
  whileLit s <|
  match s.sec.sessionAt with
  | some t => .next (secMod (fun x => { x with sessionAt := none }) (advanceTo (t + 600000000000) s))
  | none => .next s

/-! ### Identity and attestation (R395, R396) -/

/-- The identity record, Table 14-3. -/
def identityBits : Nat :=
  pack [(0, 16, 0x0E12), (16, 8, 0xB0), (24, 8, 1), (32, 64, Config.serial.toNat), (512, 14344, Config.identityKey.toNat),
    (15360, 10240, Config.authoritySig.toNat)]

def specSecIdentity : CmdSpec := { opcode := 0x0801, issuer := .any, cls := .any, rom := true, fields := [(0, 8), (8, 4)] }

def doSecIdentity (c : Cmd) (s : State) : CmdOut :=
  needParam (isHelm c || decide (3200 ≤ param c 8 4)) s (.done (writeResult c (param c 0 8) 25600 identityBits s) .ok 3200 0 0)

/-- SEC_IDENTITY (R395). -/
def execSecIdentity (c : Cmd) (s : State) : Host.Outcome State Fault Refusal := .next (runCmd specSecIdentity doSecIdentity c s)

/-- The bytes of an image. -/
def imageBytes (i : Option (List Byte)) : List Byte := i.getD Config.factoryImage

/-- The first 256 bytes of an attestation report. -/
def reportBits (nonce : Nat) (s : State) : Nat :=
  let conf := pack [(0, 1, flag s.dev.level1Strap), (1, 2, profileCode s.dev.profile), (3, 1, flag s.sec.officer.isSome),
    (4, 1, flag s.sec.errorState), (5, 16, s.sec.accords.length)]
  pack [(0, 128, nonce), (128, 64, s.dev.now), (192, 64, Config.serial.toNat), (256, 512, (Config.shake256 (imageBytes s.sec.running)).toNat),
    (768, 512, Config.romDigest.toNat), (1280, 32, (Config.imageVersion (imageBytes s.sec.running)).toNat), (1312, 32, s.sec.minVersion.toNat),
    (1344, 32, conf)]

def specSecAttest : CmdSpec := { opcode := 0x0802, issuer := .any, cls := .any, fields := [(0, 8), (8, 4), (16, 16)] }

def doSecAttest (c : Cmd) (s : State) : CmdOut :=
  needBoundary s <| needParam (decide (1536 ≤ param c 8 4)) s <|
  let r := drbgDraw s
  let head := reportBits (param c 16 16) s
  .done (writeResult c (param c 0 8) 12288 (pack [(0, 2048, head), (2048, 10240, (Config.sign r.1 (leBytes 256 head)).toNat)]) r.2) .ok 1536 0 0

/-- SEC_ATTEST (R396). -/
def execSecAttest (c : Cmd) (s : State) : Host.Outcome State Fault Refusal := .next (runCmd specSecAttest doSecAttest c s)

/-! ### Accords (R379, R380) -/

/-- A blob of Table 14-4, signed with a draw. -/
def blobBits (draw id now digest : Nat) (kem : BitVec 12544) : Nat :=
  let body := pack [(0, 25600, identityBits), (25600, 64, id), (25664, 64, now), (25728, 256, digest), (26112, 12544, kem.toNat)]
  pack [(0, 38656, body), (38656, 10240, (Config.sign draw (leBytes 4832 body)).toNat)]

/-- The 256-bit digest of a blob. -/
def blobDigest (blob : List Byte) : W256 := BitVec.ofNat 256 ((Config.shake256 blob).toNat % 2 ^ 256)

/-- A blob's identity record chains to the root, and its signature verifies under that identity's key. -/
def blobOk (blob : List Byte) : Bool :=
  Config.identityOk (slice blob 0 3200) && Config.falconOk (slice blob 64 1793) (slice blob 0 4832) (slice blob 4832 1280)

def blobSerial (blob : List Byte) : W64 := BitVec.ofNat 64 (ofLe (slice blob 4 8))
def blobKem (blob : List Byte) : BitVec 12544 := BitVec.ofNat 12544 (ofLe (slice blob 3264 1568))

def specSecKemOffer : CmdSpec := { opcode := 0x0803, issuer := .officer, cls := .any, fields := [(0, 8), (8, 4)] }

/-- Offers that have not expired. -/
def openOffers (s : State) : Nat := (s.sec.offers.filter fun o => decide (s.dev.now < o.2.openedAt + 60000000000)).length

def doSecKemOffer (c : Cmd) (s : State) : CmdOut :=
  needBoundary s <| needParam (decide (6112 ≤ param c 8 4)) s <|
  if 16 ≤ openOffers s then cmdFail s .noResource
  else
    let r := drbgDraw s
    if !Config.kemPairOk r.1 then cmdFail (enterError (2 ^ testPairwise) r.2) .cryptoSelftest
    else
      let q := drbgDraw r.2
      let id := s.sec.nextOffer
      let blob := blobBits q.1 id s.dev.now 0 (Config.kemKey r.1)
      let offer : Offer := { openedAt := s.dev.now, draw := r.1, digest := blobDigest (leBytes 6112 blob) }
      .done (writeResult c (param c 0 8) 48896 blob
        (secMod (fun x => { x with offers := tabSet x.offers id offer, nextOffer := id + 1 }) q.2)) .ok id 0 0

/-- SEC_KEM_OFFER (R379). -/
def execSecKemOffer (c : Cmd) (s : State) : Host.Outcome State Fault Refusal := .next (runCmd specSecKemOffer doSecKemOffer c s)

/-- A new accord takes the lowest free number. -/
def newAccord (fn : Nat) (peer : W64) (secret : W256) (s : State) : Nat × State :=
  let n := tabFree s.sec.accords 0
  (n, secMod (fun x => { x with accords := tabSet x.accords n { fn := fn, peer := peer, secret := secret } }) s)

def specSecKemAccept : CmdSpec := { opcode := 0x0804, issuer := .officer, cls := .any, fields := [(0, 8), (8, 4), (16, 6112)] }

def doSecKemAccept (c : Cmd) (s : State) : CmdOut :=
  let blob := paramBytes c 16 6112
  needBoundary s <| needParam (c.indirect && decide (6128 ≤ c.length.toNat) && decide (6112 ≤ param c 8 4)) s <|
  if !blobOk blob then cmdFail s .authFail
  else if 4096 ≤ s.sec.accords.length then cmdFail s .noResource
  else
    let r := drbgDraw s
    let q := drbgDraw r.2
    let a := newAccord (namedOf c) (blobSerial blob) (Config.kemSecret (blobKem blob) r.1) q.2
    let reply := blobBits q.1 (ofLe (slice blob 3200 8)) s.dev.now (blobDigest blob).toNat (Config.kemCipher (blobKem blob) r.1)
    .done (writeResult c (param c 0 8) 48896 reply a.2) .ok a.1 (blobSerial blob).toNat 0

/-- SEC_KEM_ACCEPT (R379). -/
def execSecKemAccept (c : Cmd) (s : State) : Host.Outcome State Fault Refusal := .next (runCmd specSecKemAccept doSecKemAccept c s)

def specSecKemFinish : CmdSpec := { opcode := 0x0805, issuer := .officer, cls := .any, fields := [(0, 8), (16, 6112)] }

def doSecKemFinish (c : Cmd) (s : State) : CmdOut :=
  let blob := paramBytes c 16 6112
  needBoundary s <| needParam (c.indirect && decide (6128 ≤ c.length.toNat)) s <|
  match (tabGet s.sec.offers (param c 0 8)).filter fun o => decide (s.dev.now < o.openedAt + 60000000000) with
  | none => cmdFail s .invalidParam
  | some o =>
    if !blobOk blob || ofLe (slice blob 3216 32) != o.digest.toNat then cmdFail s .authFail
    else if 4096 ≤ s.sec.accords.length then cmdFail s .noResource
    else
      let a := newAccord (namedOf c) (blobSerial blob) (Config.kemOpen o.draw (blobKem blob))
        (secMod (fun x => { x with offers := tabErase x.offers (param c 0 8) }) s)
      .done a.2 .ok a.1 (blobSerial blob).toNat 0

/-- SEC_KEM_FINISH (R379, R380). -/
def execSecKemFinish (c : Cmd) (s : State) : Host.Outcome State Fault Refusal := .next (runCmd specSecKemFinish doSecKemFinish c s)

/-- OFFER_EXPIRY (R380): 60 s after it was made. -/
def execOfferExpiry (offer : W64) (s : State) : Host.Outcome State Fault Refusal :=
  whileLit s <|
  match tabGet s.sec.offers offer.toNat with
  | some o => .next (secMod (fun x => { x with offers := tabErase x.offers offer.toNat }) (advanceTo (o.openedAt + 60000000000) s))
  | none => .next s

/-- The accord exists and belongs to the function. -/
def ownAccord (s : State) (fn n : Nat) : Bool := match tabGet s.sec.accords n with | some a => a.fn == fn | none => false

def accordInUse (s : State) (n : Nat) : Bool := s.qps.any fun p => match p.2.sealing with | some z => z.accord == n | none => false

def specSecAccordDrop : CmdSpec := { opcode := 0x0806, issuer := .officer, cls := .any, fields := [(0, 2)] }

def doSecAccordDrop (c : Cmd) (s : State) : CmdOut :=
  let n := param c 0 2
  needBoundary s <| needParam (ownAccord s (namedOf c) n) s <|
  if accordInUse s n then cmdFail s .busy else cmdOk (secMod (fun x => { x with accords := tabErase x.accords n }) s)

/-- SEC_ACCORD_DROP (R380). -/
def execSecAccordDrop (c : Cmd) (s : State) : Host.Outcome State Fault Refusal := .next (runCmd specSecAccordDrop doSecAccordDrop c s)

/-! ### Sealed queue pairs (R381 to R384, R390) -/

/-- A send key that has sealed nothing. -/
def newKey (label : W32) : SealKey :=
  { label := label, ctr := 0, reserved := 0, units := 0, bytes := 0, warnedUnits := false, warnedBytes := false }

def specSecQpSeal : CmdSpec := { opcode := 0x0810, issuer := .any, cls := .any, fields := [(0, 4), (4, 2), (6, 1), (8, 4)] }

def doSecQpSeal (c : Cmd) (s : State) : CmdOut :=
  let label := BitVec.ofNat 32 (param c 8 4)
  let u := param c 6 1
  needBoundary s <|
  match usableQp s (namedOf c) (param c 0 4) with
  | none => cmdFail s .invalidParam
  | some q =>
    if !ownAccord s (namedOf c) (param c 4 2) ∨ q.conf.mode = .roce then cmdFail s .invalidParam
    else if 20 < u ∨ u < q.conf.mtuLog2 then cmdFail s .length
    else if q.phase ≠ .created ∨ q.sealing.isSome then cmdFail s .busy
    else
      let z : QpSeal := { accord := param c 4 2, unitLog2 := u, phase := false, cur := newKey label, old := none, pendingSend := none,
                          recvPhase := false, recvLabel := label, recvNext := none, acc := [], failedUnits := 0 }
      cmdOk (qpMod (param c 0 4) (fun x => { x with sealing := some z }) s)

/-- SEC_QP_SEAL (R382). -/
def execSecQpSeal (c : Cmd) (s : State) : Host.Outcome State Fault Refusal := .next (runCmd specSecQpSeal doSecQpSeal c s)

def specSecQpRekey : CmdSpec := { opcode := 0x0811, issuer := .any, cls := .any, fields := [(0, 4), (4, 1), (8, 4)] }

/-- A change of keys is open (R383). -/
def rekeyOpen (z : QpSeal) : Bool := z.recvNext.isSome || z.pendingSend.isSome

def doSecQpRekey (c : Cmd) (s : State) : CmdOut :=
  let n := param c 0 4
  let label := BitVec.ofNat 32 (param c 8 4)
  needBoundary s <|
  match (usableQp s (namedOf c) n).bind fun q => q.sealing with
  | none => cmdFail s .invalidParam
  | some z =>
    let put (y : QpSeal) : CmdOut := cmdOk (qpMod n (fun x => { x with sealing := some y }) s)
    match param c 4 1 with
    | 0 => if rekeyOpen z then cmdFail s .busy else put { z with recvNext := some label, pendingSend := some label }
    | 1 =>
      (match z.pendingSend with
       | some l => put { z with phase := !z.phase, cur := newKey l, old := some z.cur, pendingSend := none }
       | none => cmdFail s .invalidParam)
    | _ => cmdFail s .invalidParam

/-- SEC_QP_REKEY (R383). -/
def execSecQpRekey (c : Cmd) (s : State) : Host.Outcome State Fault Refusal := .next (runCmd specSecQpRekey doSecQpRekey c s)

def specSecQpQuery : CmdSpec := { opcode := 0x0812, issuer := .any, cls := .any, fields := [(0, 4)] }

def doSecQpQuery (c : Cmd) (s : State) : CmdOut :=
  needBoundary s <|
  match (usableQp s (namedOf c) (param c 0 4)).bind fun q => q.sealing with
  | none => cmdFail s .invalidParam
  | some z => .done s .ok z.cur.units z.cur.bytes (pack [(0, 1, flag z.phase), (1, 1, flag (rekeyOpen z)), (32, 32, z.failedUnits)])

/-- SEC_QP_QUERY (R403). -/
def execSecQpQuery (c : Cmd) (s : State) : Host.Outcome State Fault Refusal := .next (runCmd specSecQpQuery doSecQpQuery c s)

/-! ### Failed units (R392, R393) -/

/-- The third failed attempt of a unit ends its message (R393). -/
def endFailedMessage (n : Nat) (q : Qp) (u : RxUnit) (s : State) : State :=
  let s1 :=
    if u.own then
      match q.send.messages.find? fun m => m.msg == u.msg with
      | some m =>
        (match workGet s m.work with
         | some w =>
           let isAtomic : Bool := entryOp w.entry == workOpCode .fadd || entryOp w.entry == workOpCode .cswap
           let len := if isAtomic then 8 else entryLength w.entry
           let s0 := if isAtomic && atomicReturn w.entry then placeAt q.conf.fn (atomicDva w.entry) (List.replicate 8 0) .none s else s
           complete m.work .authFail len none s0
         | none => s)
      | none => s
    else
      match findMessage q u.msg with
      | some m => (match m.buffer with | some rec => complete rec .authFail (m.len + n * 2 ^ 33) none s | none => s)
      | none => s
  qpToError n (recvMod n (fun r => { r with recordedNak := none }) s1)

/-- UNIT_ZEROS_COMMITTED (R392): the failure is counted and recorded; packets of a newer attempt that waited are placed. -/
def execUnitZerosCommitted (qp : Nat) (own : Bool) (msg : W32) (unit : Nat) (s : State) : Host.Outcome State Fault Refusal :=
  whileLit s <|
  match qpGet s qp with
  | none => .next s
  | some q =>
    match findUnit q own msg unit with
    | none => .next s
    | some u =>
      if !u.zeroing then .next s
      else
        let fn := q.conf.fn
        let s1 := qpMod qp (fun x => { x with sealing := x.sealing.map fun z => { z with failedUnits := z.failedUnits + 1 } }) s
        let s2 := postRecord fn (.sealFailure true u.dva qp unit msg) (unitMod qp own msg unit (fun x => { x with zeroing := false }) s1)
        if 3 ≤ u.fails then .next (endFailedMessage qp q u s2)
        else
          match openKey s2 qp q u.phase, u.failed with
          | some key, false =>
            let s3 := u.data.foldl (fun t d => placeAt fn (u.dva + d.1) (gcmXor key u.ctr d.1 d.2) (unitCont qp u) t) s2
            if u.len ≤ (u.data.map fun d => d.2.length).sum ∧ u.tag.isSome then
              .next (judgeUnit qp fn q u (landUnit qp q u) s3)
            else .next s3
          | _, _ => .next s2

/-! ### Firmware updates (R397 to R399) -/

def specSecFwBegin : CmdSpec := { opcode := 0x0820, issuer := .officer, cls := .any, rom := true, fields := [(0, 4)] }

def doSecFwBegin (c : Cmd) (s : State) : CmdOut :=
  let n := param c 0 4
  needBoundary s <| needParam (decide (4096 ≤ n ∧ n ≤ 16777216)) s (cmdOk (secMod (fun x => { x with staging := some (n, []) }) s))

/-- SEC_FW_BEGIN (R399). -/
def execSecFwBegin (c : Cmd) (s : State) : Host.Outcome State Fault Refusal := .next (runCmd specSecFwBegin doSecFwBegin c s)

def specSecFwChunk : CmdSpec :=
  { opcode := 0x0821, issuer := .officer, cls := .any, rom := true, fields := [(0, 4), (4, 2)],
    listed := some { off := 8, countAt := 4, countWidth := 2, size := 1 } }

def doSecFwChunk (c : Cmd) (s : State) : CmdOut :=
  let n := param c 4 2
  let most := if c.indirect then 65472 else 32
  needBoundary s <|
  match s.sec.staging with
  | none => cmdFail s .invalidParam
  | some (size, got) =>
    needParam (decide (1 ≤ n ∧ n ≤ most) && param c 0 4 == got.length && decide (got.length + n ≤ size)) s
      (cmdOk (secMod (fun x => { x with staging := some (size, got ++ paramBytes c 8 n) }) s))

/-- SEC_FW_CHUNK (R399). -/
def execSecFwChunk (c : Cmd) (s : State) : Host.Outcome State Fault Refusal := .next (runCmd specSecFwChunk doSecFwChunk c s)

def specSecFwCommit : CmdSpec := { opcode := 0x0822, issuer := .officer, cls := .any, rom := true, fields := [] }

def doSecFwCommit (_ : Cmd) (s : State) : CmdOut :=
  needBoundary s <|
  if s.sec.staging.isNone then cmdFail s .invalidParam
  else if s.commands.any fun p => p.what == .fwCommit then cmdFail s .busy
  else .deferred s .fwCommit

/-- SEC_FW_COMMIT (R399). -/
def execSecFwCommit (c : Cmd) (s : State) : Host.Outcome State Fault Refusal := .next (runCmd specSecFwCommit doSecFwCommit c s)

/-- The staged image is whole and verifies (R397). -/
def stagedImage (s : State) : Option (List Byte) :=
  match s.sec.staging with
  | some (size, got) =>
    if got.length = size ∧ Config.imageOk got ∧ s.sec.minVersion.toNat ≤ (Config.imageVersion got).toNat then some got else none
  | none => none

/-- SEC_FW_COMMIT_DONE (R399): only an image that verifies is stored. It runs from the next device reset. -/
def execSecFwCommitDone (s : State) : Host.Outcome State Fault Refusal :=
  if !(lit s || s.dev.life == .romRecovery) || !(s.commands.any fun p => p.what == .fwCommit) then .next s
  else
    let finish (st : Status) (v : Nat) : State → State :=
      finishCmds fun d => if d = .fwCommit then some (st, v, 0, 0) else none
    match stagedImage s with
    | some got =>
      .next (finish .ok (Config.imageVersion got).toNat (secMod (fun x => { x with stored := some got, storeTorn := false, staging := none }) s))
    | none => .next (finish .authFail 0 s)

/-! ### Zeroization (R402) -/

def specSecZeroize : CmdSpec := { opcode := 0x0831, issuer := .officer, cls := .any, fields := [] }

/-- SEC_ZEROIZE (R402). -/
def execSecZeroize (c : Cmd) (s : State) : Host.Outcome State Fault Refusal :=
  .next (runCmd specSecZeroize (fun _ t => .deferred t .zeroize) c s)

/-- A sealed queue pair loses its sealing and moves to ERROR, from any state. -/
def unsealQp (s : State) (n : Nat) : State :=
  let s1 := qpMod n (fun q => { q with sealing := none }) s
  match qpGet s1 n with
  | some q => if q.phase = .error then s1 else qpToError n (qpMod n (fun q => { q with phase := .ready }) s1)
  | none => s1

/-- SEC_ZEROIZE_DONE (R402). -/
def execSecZeroizeDone (s : State) : Host.Outcome State Fault Refusal :=
  whileLit s <|
  if !(s.commands.any fun p => p.what == .zeroize) then .next s
  else
    let qps := (s.qps.filter fun p => p.2.sealing.isSome).map Prod.fst
    let s1 := qps.foldl unsealQp s
    let s2 := secMod (fun x =>
      { x with accords := [], offers := [], officer := none, sessionAt := none, challenge := none, seed := 0, staging := none }) s1
    .next (finishCmds (fun d => if d = .zeroize then some (.ok, 0, 0, 0) else none) s2)

end Sys2Proof.Machine
end

