-- ==== Sys2Proof/Machine/Power.lean ====
section
/-! DEFINITION. Power (chapter 15): grants and the ceiling, enforcement, the sextant controller, ageing, droops, temperature, the
power commands; and the helm bus's own commands and collisions (R366 to R369). -/

namespace Sys2Proof.Machine

def powerMod (f : Power → Power) (s : State) : State := { s with power := f s.power }
def droopMod (f : Droop → Droop) (s : State) : State := { s with droop := f s.droop }
def ceilMod (f : Ceilings → Ceilings) (s : State) : State := { s with ceilings := f s.ceilings }
def thermalMod (f : Thermal → Thermal) (s : State) : State := { s with thermal := f s.thermal }
def tickMod (f : Ticks → Ticks) (s : State) : State := { s with dev := { s.dev with ticks := f s.dev.ticks } }

/-! ### The ceiling in force (R405 to R407) -/

/-- A grant is valid (R406). -/
def grantValid (s : State) : Bool := match s.power.validUntil with | some t => decide (s.dev.now < t) | none => false

/-- B of R405, in W. -/
def budget (s : State) : Nat := if grantValid s then s.power.grantW else s.power.fallback

/-- The ceiling in force, in W (R405). -/
def powerCeiling (s : State) : Nat := min (min (budget s) s.power.thermal) 800

/-- The enforcement target G, in mW (R409). -/
def targetG (s : State) : Rat := (980 * powerCeiling s : Nat) - 2000

def specPwrGrant : CmdSpec := { opcode := 0x0701, issuer := .pf0, cls := .any, fields := [(0, 2), (2, 2), (4, 4)] }

/-- A `GRANT_SEQ` is acceptable: 0, or one that follows the last accepted (R406). -/
def grantFollows (new last : W32) : Bool := new == 0 || decide (1 ≤ (new - last).toNat ∧ (new - last).toNat < 2 ^ 31)

/-- The grant expiry's condition ends (R407, Table 18-4, Table 18-5). -/
def endExpiry (s : State) : State :=
  if bit s.faults.alert.toNat 0 then closeEvent .grantExpired 0 s.power.grantSeq.toNat s.power.fallback (setAlert 0 false s) else s

def doPwrGrant (c : Cmd) (s : State) : CmdOut :=
  let w := param c 0 2
  let ms := if param c 2 2 = 0 then 30 else param c 2 2
  let seq := BitVec.ofNat 32 (param c 4 4)
  needParam (decide (300 ≤ w ∧ w ≤ 800 ∧ 10 ≤ ms ∧ ms ≤ 1000) && grantFollows seq s.power.grantSeq) s
    (.done (endExpiry (powerMod (fun p => { p with grantW := w, grantSeq := seq, validUntil := some (s.dev.now + 1000000 * ms) }) s)) .ok
      (nextMultiple s.dev.now 1000) (budget s) s.power.meas.mean1ms)

/-- PWR_GRANT (R406). -/
def execPwrGrant (c : Cmd) (s : State) : Host.Outcome State Fault Refusal := .next (runCmd specPwrGrant doPwrGrant c s)

/-- GRANT_EXPIRY (R407): at the end of the latest grant, in a firmware restart as well (R452). -/
def execGrantExpiry (s : State) : Host.Outcome State Fault Refusal :=
  whileLit s <|
  match s.power.validUntil with
  | none => .next s
  | some t =>
    let s1 := powerMod (fun p => { p with validUntil := none }) (advanceTo t s)
    .next (setAlert 0 true (raiseEvent .grantExpired 0 nodeSelf s1.power.grantSeq.toNat s1.power.fallback s1))

def specPwrFallback : CmdSpec := { opcode := 0x0702, issuer := .pf0, cls := .any, fields := [(0, 2)] }

def doPwrFallback (c : Cmd) (s : State) : CmdOut :=
  let w := param c 0 2
  needParam (decide (300 ≤ w ∧ w ≤ 760)) s (.done (powerMod (fun p => { p with fallback := w }) s) .ok s.power.fallback 0 0)

/-- PWR_FALLBACK (R407). -/
def execPwrFallback (c : Cmd) (s : State) : Host.Outcome State Fault Refusal := .next (runCmd specPwrFallback doPwrFallback c s)

/-! ### Telemetry (R427) -/

/-- A failed sensor's place is taken by the hottest of its group plus 5 °C (R457); by the hottest of all where its group has no other. -/
def sensorGroup (i : Nat) : Nat × Nat :=
  (([(0, 16), (16, 8), (24, 4), (28, 4), (32, 4), (36, 6), (42, 2), (44, 2)] : List (Nat × Nat)).find? fun g => decide (g.1 ≤ i ∧ i < g.1 + g.2)).getD (i, 1)

/-- The hottest of those sensors of [`a`, `a` + `n`) that work. -/
def hottestOf (s : State) (a n : Nat) : Option Int :=
  (((List.range n).map fun i => a + i).filter fun i => bit s.dev.inventory.sensors.toNat i).foldl
    (fun m i => some (max (s.thermal.readings.getD i 0) (m.getD (s.thermal.readings.getD i 0)))) none

/-- What the thresholds of R424 to R426 use for sensor `i`, in 1/16 °C. -/
def sensorValue (s : State) (i : Nat) : Int :=
  if bit s.dev.inventory.sensors.toNat i then s.thermal.readings.getD i 0
  else
    let g := sensorGroup i
    ((hottestOf s g.1 g.2).getD ((hottestOf s 0 48).getD 0)) + 80

/-- Tj and the sensor that reads it (R423). -/
def hottest (s : State) : Int × Nat :=
  (List.range 48).foldl (fun m i => if m.1 < sensorValue s i then (sensorValue s i, i) else m) (sensorValue s 0, 0)

/-- `w`-bit fields one after the other from bit `at_`. -/
def fieldsAt (at_ w : Nat) (l : List Nat) : List (Nat × Nat × Nat) := l.zipIdx.map fun p => (at_ + w * p.2, w, p.1)

def sumRat (l : List Rat) : Rat := l.foldl (· + ·) 0

/-- Table 15-4. -/
def powerRecord (s : State) : Nat :=
  let p := s.power
  let tj := hottest s
  pack ([(0, 64, s.dev.now), (64, 16, p.grantW), (80, 16, powerCeiling s), (96, 16, p.thermal), (112, 16, p.fallback), (128, 32, p.grantSeq.toNat),
    (160, 1, flag (!grantValid s)), (161, 1, flag (holdActive s)), (162, 1, flag (decide (p.thermal < 800))), (163, 1, flag p.frozen),
    (192, 32, p.meas.mean1ms), (224, 32, p.peak50), (256, 32, floorNat (sumRat p.enforced.shoals)), (288, 32, floorNat p.enforced.mesh),
    (320, 32, floorNat p.enforced.reduction), (352, 32, floorNat p.enforced.tarn), (528, 16, twos tj.1 16), (544, 6, tj.2), (560, 16, p.setpoint),
    (576, 16, p.floor), (608, 32, s.droop.events.toNat), (640, 32, s.droop.deferred.toNat), (672, 32, s.droop.throttles.toNat),
    (704, 32, s.droop.holdEnds.toNat)] ++
    fieldsAt 384 16 ((p.meas.rails.take 9).map (· / 100)) ++ fieldsAt 1024 8 (s.ceilings.shoals.take 16) ++
    fieldsAt 1152 8 (s.ceilings.cores.take 12) ++ fieldsAt 1248 8 (s.ceilings.islands.take 18) ++ fieldsAt 1392 16 (s.ceilings.phaseMix.take 5))

def specPwrQuery : CmdSpec := { opcode := 0x0703, issuer := .any, cls := .any, fields := [(0, 8), (8, 4)] }

def doPwrQuery (c : Cmd) (s : State) : CmdOut :=
  needParam (isHelm c || (param c 0 8 % 64 == 0 && decide (256 ≤ param c 8 4))) s
    (.done (powerMod (fun p => { p with peak50 := 0 }) (writeResult c (param c 0 8) 2048 (powerRecord s) s)) .ok 256 0 0)

/-- PWR_QUERY (R427). -/
def execPwrQuery (c : Cmd) (s : State) : Host.Outcome State Fault Refusal := .next (runCmd specPwrQuery doPwrQuery c s)

def specPwrLearn : CmdSpec := { opcode := 0x0704, issuer := .pf0, cls := .any, fields := [(0, 1)] }

def doPwrLearn (c : Cmd) (s : State) : CmdOut :=
  needParam (decide (param c 0 1 ≤ 2)) s (cmdOk (ceilMod (fun x => { x with learn := x.learn ++ [param c 0 1] }) s))

/-- PWR_LEARN (R415): it takes effect at the next window boundary. -/
def execPwrLearn (c : Cmd) (s : State) : Host.Outcome State Fault Refusal := .next (runCmd specPwrLearn doPwrLearn c s)

/-! ### Enforcement (R409 to R411, R419) -/

/-- The part of a group's power on one of its rails (log entry 49). -/
def share (n : Nat) : Rat := (Config.railShare n : Rat) / 100

/-- `VDD_CORE` power of allowances. -/
def corePower (a : Allowance) : Rat := a.mesh + a.reduction * share 1 + sumRat a.shoals * share 2

/-- The factor of R409 step 2; the pacing minimum of R414 where the reserved power fills G. -/
def paceFactor (m : PowerMeas) (s : State) : Rat :=
  let p := s.power
  let room := targetG s - ((m.fixed : Rat) + p.reserveMesh + p.reserveTarn)
  let rest := p.division.mesh + p.division.reduction + p.division.tarn + sumRat p.division.shoals - p.reserveMesh - p.reserveTarn
  if room ≤ 0 then 1 / 16 else if rest ≤ room then 1 else room / rest

/-- The factor that keeps `whole` + `paced` within `limit`. -/
def railFactor (limit whole paced : Rat) : Rat := if whole + paced ≤ limit then 1 else if paced ≤ 0 then 1 else max 0 ((limit - whole) / paced)

/-- The allowances that the enforcement loop wants at a tick: the smaller of R409 and R411, less 25 % in a long droop (R421), the admitted
reserve whole. -/
def wantedPower (m : PowerMeas) (s : State) : Allowance :=
  let p := s.power
  let d := p.division
  let k := paceFactor m s
  let shoals := sumRat d.shoals
  let core := min k (railFactor (725 * p.setpoint) p.reserveMesh (corePower d - p.reserveMesh))
  let sram := min core (railFactor (70 * 800) 0 (d.reduction * (1 - share 1) + shoals * (1 - share 2)))
  let onTarn (n limit : Nat) : Rat := railFactor limit (p.reserveTarn * share n) ((d.tarn - p.reserveTarn) * share n)
  let tarn := min k (min (onTarn 3 67500) (onTarn 4 67200))
  let cutCore : Rat := if s.droop.coreLong then 3 / 4 else 1
  let cutIsl : Rat := if s.droop.islLong then 3 / 4 else 1
  { mesh := p.reserveMesh + (d.mesh - p.reserveMesh) * core * cutCore, reduction := d.reduction * sram * cutCore,
    shoals := d.shoals.map fun x => x * sram * cutCore, tarn := p.reserveTarn + (d.tarn - p.reserveTarn) * tarn * cutIsl }

/-- How much of a change of `x` a slope of `limit` lets pass in one tick. -/
def slopeFactor (limit x : Rat) : Rat :=
  let a := if x < 0 then -x else x
  if a ≤ limit then 1 else limit / a

/-- Allowances after one tick: the change is spread to meet the slopes of R419. -/
def slopeLimited (s : State) (old new : Allowance) : Allowance :=
  let sp : Rat := s.power.setpoint
  let f := min (slopeFactor (80 * sp) (corePower new - corePower old))
    (slopeFactor (60 * sp) ((sumRat new.shoals - sumRat old.shoals) * share 2))
  let g := min (slopeFactor 15000 ((new.tarn - old.tarn) * share 3)) (slopeFactor 21000 ((new.tarn - old.tarn) * share 4))
  { mesh := old.mesh + f * (new.mesh - old.mesh), reduction := old.reduction + f * (new.reduction - old.reduction),
    shoals := new.shoals.zipIdx.map (fun x => old.shoals.getD x.2 0 + f * (x.1 - old.shoals.getD x.2 0)),
    tarn := old.tarn + g * (new.tarn - old.tarn) }

/-! ### The setpoint (R418, R422, R486, R487) -/

/-- A setpoint frame (R486). -/
def vidWord (mv : Nat) : Nat :=
  let v := 2 * mv
  let w := 0xA000 + v % 4096
  w * 256 + crcL 8 0x07 0 [BitVec.ofNat 8 (w / 256), BitVec.ofNat 8 w]

def sendVid (s : State) : State :=
  powerMod (fun p => { p with framedAt := s.dev.now }) (emit (.vid (BitVec.ofNat 24 (vidWord s.power.setpoint))) s)

/-- No frequency change takes effect on a rail now (R422). -/
def changeBlocked (since recovered : Option Nat) (now : Nat) : Bool :=
  since.isSome || match recovered with | some t => decide (now < t + 2000) | none => false

/-- The next value on the way from `a` to `b`, at most 10 mV away. -/
def nextSetpoint (a b : Nat) : Nat := if a < b then min b (a + 10) else max b (a - 10)

/-- The setpoint takes its next step at a tick, if one is due; it is deferred while a droop response bars it. -/
def stepSetpoint (s : State) : State :=
  let p := s.power
  if p.setpoint = p.target ∨ s.droop.pendingSetpoint.isSome ∨ s.dev.now < p.framedAt + 1000 ∨ s.dev.now % 100000 = 0 then s
  else
    let v := nextSetpoint p.setpoint p.target
    if changeBlocked s.droop.coreSince s.droop.coreRecovered s.dev.now then droopMod (fun d => { d with pendingSetpoint := some v }) s
    else sendVid (powerMod (fun p => { p with setpoint := v }) s)

/-- ENFORCEMENT_TICK (R409): at every multiple of 1,000 ns. -/
def execEnforcementTick (m : PowerMeas) (s : State) : Host.Outcome State Fault Refusal :=
  whileLit s <|
  let t := nextMultiple s.dev.ticks.enforce 1000
  let s1 := advanceTo t (tickMod (fun x => { x with enforce := t }) s)
  let s2 := powerMod (fun p => { p with meas := m, peak50 := max p.peak50 m.mean50us }) s1
  .next (stepSetpoint (powerMod (fun p => { p with enforced := slopeLimited s2 p.enforced (wantedPower m s2) }) s2))

/-! ### The sextant controller (R412 to R418) -/

/-- Groups are numbered 0 mesh, 1 reduction, 2 tarn, 3 + n shoal n. -/
def groupNumber : Group → Nat
  | .mesh => 0 | .reduction => 1 | .tarn => 2 | .shoal n => 3 + n

/-- d[p][g] of R413, in mW. -/
def demandOf (s : State) (phase g : Nat) : Rat := (tabGet s.power.demand (20 * phase + g)).getD (Config.fusedDemand phase g)

/-- What a window teaches of a group: the phase in which it spent at least 75 % of its active time (R413). -/
def learnGroup (s : State) (x : GroupWindow) : State :=
  let g := groupNumber x.group
  (List.range 4).foldl (fun t p =>
    if 49152 ≤ x.mix.getD p 0 ∧ 0 < x.activity then
      let d := demandOf t p g
      let new := d + ((x.powerMw * 65536 : Nat) / (x.activity : Rat) - d) / 8
      powerMod (fun q => { q with demand := tabSet q.demand (20 * p + g) new }) t
    else t) s

/-- What a window teaches of an operation class. -/
def learnUnit (s : State) (u : Nat × Nat) : State :=
  let i := unitCurrent s u.1
  powerMod (fun q => { q with unitMa := tabSet q.unitMa u.1 (i + ((u.2 : Rat) - i) / 8) }) s

/-- `pwr.learn` actions (R415). -/
def learnAction (s : State) (a : Nat) : State :=
  powerMod (fun p => if a = 0 then { p with demand := [], unitMa := [] } else { p with frozen := a == 1 }) s

def learnWindow (w : WindowMeas) (s0 : State) : State :=
  let s := ceilMod (fun c => { c with learn := [] }) (s0.ceilings.learn.foldl learnAction s0)
  if s.power.frozen then s else w.unitMa.foldl learnUnit (w.groups.foldl learnGroup s)

/-- f_min of R431 at a setpoint in mV and a Tj in 1/16 °C, in 10^6 cycles/s. -/
def fMin (mv : Nat) (tj : Int) : Rat :=
  let t : Rat := (max (-80) (min 1680 tj) : Int) / 16
  1600 * (1 + 266 / 100 * ((mv : Rat) / 1000 - 3 / 4)) * (1 - (t - 85) / 500)

/-- The phase of an accepted entry (R412, Table 15-2), numbered 0 transfer, 1 reduction, 2 attention, 3 ingest: an operator's `PHASE_TAG`
overrides the inference. -/
def workPhase (w : Work) : Nat :=
  let op := entryOp w.entry
  if op = 0x20 then 1
  else if op = 0x30 then 2
  else if op = 0x31 then
    let tag := (opDesc w.entry).phase
    if tag ≠ 0 then tag - 1 else if opKindOf (bits w.entry.toNat 128 8) = some .gemm then 2 else 0
  else 0

/-- The phases in which shoals have work at a window's end (R412, R413): open operators and attention requests, and the attention of the
pools' summaries and of hold cycles. -/
def shoalPhases (s : State) : List Nat :=
  ((works s).filter fun p => (entryOp p.2.entry == 0x30 || entryOp p.2.entry == 0x31) && openWork s p.1).map (fun p => workPhase p.2) ++
    (if s.cache.pools.isEmpty && !s.cache.hold then [] else [2])

/-- Predicted demand of a group, in mW: that of the phase mix of its work ahead. A shoal has no work in a phase in which nothing is running or
accepted for it, and takes no more than at its ceiling rate (R413, R416). -/
def predicted (s : State) (w : WindowMeas) (g : Group) : Rat :=
  match w.groups.find? fun x => x.group == g with
  | none => 0
  | some x =>
    let n := groupNumber g
    let ahead (p : Nat) : Nat :=
      match g with
      | .shoal _ => if (shoalPhases s).contains p then x.ahead.getD p 0 else 0
      | _ => x.ahead.getD p 0
    let d := sumRat ((List.range 4).map fun p => demandOf s p n * (ahead p : Rat) / 65536)
    match g with
    | .shoal k =>
      let ceil : Rat := 10 * (s.ceilings.shoals.getD k 0 : Nat)
      let rate := fMin s.power.setpoint (hottest s).1
      if ceil < rate then d * ceil / rate else d
    | _ => d

/-- Total `RATE` of the admitted flows, in MB/s (R413). -/
def admittedRate (s : State) : Nat :=
  (s.qps.filterMap fun q => if isAdmitted q.2 then q.2.admission.map fun a => a.rate else none).sum

/-- Step 3 of R413: what the attention hold takes, in mW. -/
def holdPower (s : State) : Rat := 2048 * unitCurrent s 2 * s.power.setpoint / 1000

/-- A hold that does not fit ends (R415). -/
def dropHold (s : State) : State :=
  let s1 := endHold { s with cache := { s.cache with holdBarred := true } }
  raiseEvent .holdEnded 0 nodeSelf 0 (budget s) (droopMod (fun d => { d with holdEnds := d.holdEnds + 1 }) s1)

/-- Steps 1 to 4 of R413. A hold's power goes to the shoals in equal parts. -/
def divide (w : WindowMeas) (s0 : State) : State :=
  let s := powerMod (fun p =>
    { p with fixedMw := w.fixedMw + 5000, reserveMesh := Config.admittedMesh (admittedRate s0),
             reserveTarn := Config.admittedTarn (admittedRate s0) + (w.journalMw : Rat) }) s0
  let p := s.power
  let rest := targetG s - (p.fixedMw + p.reserveMesh + p.reserveTarn)
  let mesh := max 0 (predicted s w .mesh - p.reserveMesh)
  let tarn := max 0 (predicted s w .tarn - p.reserveTarn)
  let red := predicted s w .reduction
  let units := usableShoals s
  let shoals := (List.range 16).map fun i => if units.contains i then predicted s w (.shoal i) else 0
  let put (k hold : Rat) (t : State) : State :=
    let each := hold / (units.length : Nat)
    powerMod (fun q => { q with division :=
      { mesh := q.reserveMesh + k * mesh, reduction := k * red, tarn := q.reserveTarn + k * tarn,
        shoals := shoals.zipIdx.map fun x => k * x.1 + (if units.contains x.2 then each else 0) } }) t
  let total := mesh + tarn + red + sumRat shoals
  if rest < 0 then
    let s1 := if s.cache.hold then dropHold s else s
    put (1 / 16) 0 (raiseEvent .budgetShort 0 nodeSelf 0 (ceilDiv (floorNat (-rest)) 1000) s1)
  else
    let fits := decide (holdPower s ≤ rest)
    let s1 := if s.cache.hold && !fits then dropHold s
      else if fits then { s with cache := { s.cache with holdBarred := false } } else s
    let hold := if s1.cache.hold then holdPower s else 0
    put (if total ≤ rest - hold then 1 else (rest - hold) / total) hold s1

/-- The setpoint that Table 15-3 chooses, in mV. -/
def chooseSetpoint (w : WindowMeas) (s : State) : Nat :=
  let tj := (hottest s).1
  let upTo (lo : Nat) : List Nat := (List.range (801 - lo)).map fun i => lo + i
  let total := floorNat (s.power.division.mesh + s.power.division.reduction + s.power.division.tarn + sumRat s.power.division.shoals)
  let ceil := (s.ceilings.shoals.foldl max 0) * 10
  match s.dev.profile with
  | .latency =>
    let lo := max 750 s.power.floor
    (((upTo lo).reverse.find? fun v => decide (fMin v tj ≤ (ceil : Nat)) && decide ((Config.powerAt v total : Rat) ≤ targetG s))).getD lo
  | .balanced => ((upTo (max 705 s.power.floor)).find? fun v => decide ((100 * w.neededRate : Nat) ≤ 85 * fMin v tj)).getD 800
  | .efficiency => ((upTo (max 705 s.power.floor)).find? fun v => decide ((w.neededRate : Rat) ≤ fMin v tj)).getD 800

/-- The fused maximum of the control cores in service, in MHz (R416). -/
def coreMax (s : State) : Nat :=
  25 * minNat (((List.range 12).filter fun i => bit s.dev.inventory.cores.toNat i).map fun i => s.ceilings.cores.getD i 96) 96

/-- The control-core clock that Table 15-3 chooses; its steps end at the 1.6 GHz below which R417 lets no core run. -/
def chooseClock (load : Nat) (s : State) : Nat :=
  let low := max 1600 (s.droop.coreClock - 200)
  match s.dev.profile with
  | .latency => coreMax s
  | .balanced => if load < 25 then min (coreMax s) low else coreMax s
  | .efficiency => if load < 50 then min (coreMax s) low else coreMax s

/-- A control-core clock is due: it takes effect now, or is deferred (R422). -/
def setClock (v : Nat) (s : State) : State :=
  if v = s.droop.coreClock then droopMod (fun d => { d with pendingClock := none }) s
  else if changeBlocked s.droop.islSince s.droop.islRecovered s.dev.now then droopMod (fun d => { d with pendingClock := some v }) s
  else droopMod (fun d => { d with pendingClock := none, coreClock := v }) s

/-- Shares of active unit time (Table 15-4), from the shoals' activity. -/
def phaseShares (w : WindowMeas) : List Nat :=
  let shoals := w.groups.filter fun x => match x.group with | .shoal _ => true | _ => false
  let part (p : Nat) : Nat := (shoals.map fun x => x.activity * x.mix.getD p 0 / 65536).sum / 16
  let active := (List.range 4).map part
  active.map (min 65535) ++ [min 65535 (65536 - active.sum)]

/-- SEXTANT_DIVISION (R413): at every multiple of 100,000 ns; not during a firmware restart (R452). -/
def execSextantDivision (w : WindowMeas) (s : State) : Host.Outcome State Fault Refusal :=
  if s.dev.life ≠ .running then .next s
  else
    let t := nextMultiple s.dev.ticks.division 100000
    let s1 := advanceTo t (tickMod (fun x => { x with division := t }) s)
    let s2 := divide w (ceilMod (fun c => { c with phaseMix := phaseShares w }) (learnWindow w s1))
    let s3 := powerMod (fun p => { p with target := chooseSetpoint w s2 }) (droopMod (fun d => { d with pendingSetpoint := none }) s2)
    let s4 := if s3.dev.now < s3.power.framedAt + 1000 then s3 else sendVid s3
    .next (setClock (chooseClock w.controlLoad s4) s4)

/-! ### Ageing (R417) -/

def listSet (l : List Nat) (i v : Nat) : List Nat := l.zipIdx.map fun p => if p.2 = i then v else p.1

/-- One hourly measurement. -/
def agePart (s : State) (r : MarginReport) : State :=
  match r.part with
  | .shoal n =>
    if !bit s.dev.inventory.shoals.toNat n then s
    else
      let c := s.ceilings.shoals.getD n 0 - flag r.belowLimit
      if c < 125 ∨ !r.okAtRaisedFloor then retireShoal n s
      else
        let s1 := ceilMod (fun x => { x with shoals := listSet x.shoals n c }) s
        if r.okAtFloor then s1 else powerMod (fun p => { p with floor := 725, target := max p.target 725 }) s1
  | .core n =>
    if !bit s.dev.inventory.cores.toNat n then s
    else
      let c := s.ceilings.cores.getD n 0 - flag r.belowLimit
      if c < 64 then retireCore n s else ceilMod (fun x => { x with cores := listSet x.cores n c }) s
  | .island n => ceilMod (fun x => { x with islands := listSet x.islands n (x.islands.getD n 0 - flag r.belowLimit) }) s

/-- AGEING_MONITOR (R417): once per hour of lodestar time. -/
def execAgeingMonitor (report : List MarginReport) (s : State) : Host.Outcome State Fault Refusal :=
  whileLit s <|
  let t := nextMultiple s.dev.ticks.ageing 3600000000000
  .next (report.foldl agePart (advanceTo t (tickMod (fun x => { x with ageing := t }) s)))

/-! ### Droop (R420 to R422) -/

/-- DROOP_DETECT (R420): a detector sees its supply 3 % or more below the setpoint. Sites of `VDD_CORE` are the shoals and the mesh (16),
those of `VDD_ISL` the islands. -/
def execDroopDetect (supply : Supply) (site : Nat) (mv : Nat) (s : State) : Host.Outcome State Fault Refusal :=
  whileLit s <|
  match supply with
  | .vddCore =>
    if site ≤ 16 ∧ 100 * mv ≤ 97 * s.power.setpoint ∧ s.droop.coreSince = none then
      .next (droopMod (fun d => { d with coreSince := some s.dev.now, coreLong := false }) s)
    else .next s
  | .vddIsl =>
    if site ≤ 17 ∧ 100 * mv ≤ 97 * 750 ∧ s.droop.islSince = none then
      .next (droopMod (fun d => { d with islSince := some s.dev.now, islLong := false }) s)
    else .next s

/-- DROOP_RECOVERY (R420): the supply has stayed within 1.5 % for 200 ns. -/
def execDroopRecovery (supply : Supply) (s : State) : Host.Outcome State Fault Refusal :=
  whileLit s <|
  match supply with
  | .vddCore =>
    if s.droop.coreSince.isSome then
      .next (droopMod (fun d => { d with coreSince := none, coreLong := false, coreRecovered := some s.dev.now, events := d.events + 1 }) s)
    else .next s
  | .vddIsl =>
    if s.droop.islSince.isSome then
      .next (droopMod (fun d => { d with islSince := none, islLong := false, islRecovered := some s.dev.now, events := d.events + 1 }) s)
    else .next s

/-- DROOP_LONG (R421): a droop lasts longer than 2 µs; the record states its duration so far. -/
def execDroopLong (supply : Supply) (s : State) : Host.Outcome State Fault Refusal :=
  whileLit s <|
  match supply with
  | .vddCore =>
    (match s.droop.coreSince with
     | some t =>
       if s.droop.coreLong then .next s
       else
         let s1 := droopMod (fun d => { d with coreLong := true }) (advanceTo (t + 2000) s)
         .next (raiseEvent .droopLong 0 nodeSelf 0 (s1.dev.now - t) s1)
     | none => .next s)
  | .vddIsl =>
    (match s.droop.islSince with
     | some t =>
       if s.droop.islLong then .next s
       else
         let s1 := droopMod (fun d => { d with islLong := true }) (advanceTo (t + 2000) s)
         .next (raiseEvent .droopLong 0 nodeSelf 1 (s1.dev.now - t) s1)
     | none => .next s)

/-- When a deferred change can take effect: no response is active, and 2 µs have passed since the rail recovered. -/
def deferredDue (since recovered : Option Nat) (pending : Option Nat) (now : Nat) : Option Nat :=
  if since.isSome ∨ pending = none then none else some (match recovered with | some t => t + 2000 | none => now)

/-- DEFERRED_FREQ_CHANGE (R422): of the changes that wait, the one that is due first takes effect. -/
def execDeferredFreqChange (s : State) : Host.Outcome State Fault Refusal :=
  whileLit s <|
  let d := s.droop
  let core (t : Nat) : State :=
    let s1 := advanceTo (max t (s.power.framedAt + 1000)) s
    sendVid (powerMod (fun p => { p with setpoint := d.pendingSetpoint.getD p.setpoint })
      (droopMod (fun x => { x with pendingSetpoint := none, deferred := x.deferred + 1 }) s1))
  let clock (t : Nat) : State :=
    droopMod (fun x => { x with pendingClock := none, coreClock := d.pendingClock.getD x.coreClock, deferred := x.deferred + 1 }) (advanceTo t s)
  match deferredDue d.coreSince d.coreRecovered d.pendingSetpoint s.dev.now, deferredDue d.islSince d.islRecovered d.pendingClock s.dev.now with
  | some a, some b => .next (if a ≤ b then core a else clock b)
  | some a, none => .next (core a)
  | none, some b => .next (clock b)
  | none, none => .next s

/-! ### Temperature (R423 to R426) -/

/-- A sensor reads above 105.0 °C, or Tj has fallen to 105.0 or 100.0 °C (R425). A window in which the ceiling falls so counts (Table 15-4). -/
def judgeHeat (s : State) : State :=
  let tj := hottest s
  let s1 :=
    if 1680 < tj.1 then
      let s00 := if 300 < s.power.thermal then droopMod (fun d => { d with throttles := d.throttles + 1 }) s else s
      let s0 := setAlert 1 true (powerMod (fun p => { p with thermal := 300 }) s00)
      match s.thermal.hotSensor with
      | some _ => thermalMod (fun t => { t with peak := max t.peak tj.1 }) s0
      | none =>
        raiseEvent .overTemperature 0 nodeSelf tj.2 (twos tj.1 24) (thermalMod (fun t => { t with hotSensor := some tj.2, peak := tj.1 }) s0)
    else
      match s.thermal.hotSensor with
      | some i => closeEvent .overTemperature 0 i (twos s.thermal.peak 24) (thermalMod (fun t => { t with hotSensor := none }) s)
      | none => s
  if tj.1 ≤ 1600 then setAlert 1 false s1 else s1

/-- SENSOR_SAMPLE (R423): every 10 µs. -/
def execSensorSample (readings : List Int) (s : State) : Host.Outcome State Fault Refusal :=
  whileLit s <|
  if readings.length ≠ 48 then .next s
  else
    let t := nextMultiple s.dev.ticks.sample 10000
    let s1 := thermalMod (fun x => { x with readings := readings }) (advanceTo t (tickMod (fun x => { x with sample := t }) s))
    let tj := (hottest s1).1
    .next (judgeHeat (thermalMod (fun x => { x with windowMax := some (max tj (x.windowMax.getD tj)) }) s1))

/-- THERMTRIP (R426): a comparator sees 115.0 °C or more; every clock and handshake stops until power is removed. -/
def execThermtrip (sensor : Nat) (reading : Int) (s : State) : Host.Outcome State Fault Refusal :=
  if sensor < 48 ∧ 1840 ≤ reading then
    .next (thermalMod (fun t => { t with tripped := true })
      { s with dev := { s.dev with life := .tripped }, clocks := { s.clocks with stopped := BitVec.allOnes 18 } })
  else .next s

/-- THERMAL_WINDOW (R424): at the end of each 100 µs window. -/
def execThermalWindow (s : State) : Host.Outcome State Fault Refusal :=
  whileLit s <|
  let t := nextMultiple s.dev.ticks.thermal 100000
  let s1 := advanceTo t (tickMod (fun x => { x with thermal := t }) s)
  let next := thermalMod (fun x => { x with windowMax := some (hottest s1).1 })
  match s.thermal.windowMax with
  | none => .next (next s1)
  | some m =>
    let c := s.power.thermal
    if 1600 ≤ m then
      let s2 := powerMod (fun p => { p with thermal := max 300 (c - 16) }) s1
      .next (next (if 300 < c then droopMod (fun d => { d with throttles := d.throttles + 1 }) s2 else s2))
    else if m ≤ 1552 then .next (next (powerMod (fun p => { p with thermal := min 800 (c + 4) }) s1))
    else .next (next s1)

/-! ### The helm bus (R366 to R369) -/

def helmMod (f : Helm → Helm) (s : State) : State := { s with helm := f s.helm }

def specHelmSet : CmdSpec :=
  { opcode := 0x0468, issuer := .pf0, cls := .any, fields := [(0, 1)], listed := some { off := 8, countAt := 0, countWidth := 1, size := 6 } }

def doHelmSet (c : Cmd) (s : State) : CmdOut :=
  needParam (decide (param c 0 1 ≤ 4)) s (cmdOk (helmMod (fun h => { h with allow := macList c 8 (param c 0 1) }) s))

/-- HELM_SET (R369). -/
def execHelmSet (c : Cmd) (s : State) : Host.Outcome State Fault Refusal := .next (runCmd specHelmSet doHelmSet c s)

def specHelmQuery : CmdSpec := { opcode := 0x0469, issuer := .pf0, cls := .any, fields := [] }

/-- Helm commands that await their first reply (R369). -/
def helmWaiting (s : State) : Nat :=
  s.helm.waiting.length + (s.commands.filter fun p => !p.answered && match p.origin with | .helm _ _ => true | .ring _ => false).length

/-- `helm.query`; whether a carrier is present is the bus's (a free value). -/
def doHelmQuery (_ : Cmd) (s : State) : CmdOut :=
  .done (takeFresh s) .ok Config.helmMac.toNat (flag (bit (Config.freeWord s.dev.fresh).toNat 0)) (helmWaiting s)

/-- HELM_QUERY (R369). -/
def execHelmQuery (c : Cmd) (s : State) : Host.Outcome State Fault Refusal := .next (runCmd specHelmQuery doHelmQuery c s)

/-- Bytes and destination of a helm frame. -/
def helmFrameOf : Output → Option (W48 × Nat)
  | .helmReply dst _ _ => some (dst, 86)
  | .helmResult dst _ _ _ n _ => some (dst, 26 + n / 8)
  | _ => none

/-- The counters of a frame that was not sent after all. -/
def uncountHelm (dst : W48) (n : Nat) (s : State) : State :=
  let m := max n 64
  let less (i k : Nat) (t : Tab W48) : Tab W48 := tabSet t i (((tabGet t i).getD 0) - BitVec.ofNat 48 k)
  let all (t : Tab W48) : Tab W48 := less (39 + sizeClass m) 1 (less (if bit dst.toNat 40 then 36 else 35) 1 (less 34 m (less 33 1 t)))
  helmMod (fun h => { h with counters := all h.counters }) s

/-- The latest helm frame, on whose sending the backoff hangs, is discarded and counted. -/
def discardHelm (counter : Nat) (s : State) : State :=
  match s.out.reverse.find? fun o => (helmFrameOf o).isSome with
  | none => s
  | some o =>
    let f := (helmFrameOf o).getD (0, 0)
    let out := (dropFirst (· == o) s.out.reverse).reverse
    countHelm counter 1 (helmMod (fun h => { h with attempts := 0 }) (uncountHelm f.1 f.2 { s with out := out }))

/-- HELM_BACKOFF_EXPIRY (R367): after r slot times the frame that collided is sent again; it may collide again, or late. -/
def execHelmBackoffExpiry (collided late : Bool) (s : State) : Host.Outcome State Fault Refusal :=
  if !(lit s || s.dev.life == .romRecovery) || !(s.out.any fun o => (helmFrameOf o).isSome) then .next s
  else
    let n := max 1 s.helm.attempts
    let r := (Config.freeWord s.dev.fresh).toNat % 2 ^ (min n 10)
    let s1 := advanceTo (s.dev.now + 51200 * r) (takeFresh s)
    if late then .next (discardHelm 50 s1)
    else if collided then
      if 16 ≤ n + 1 then .next (discardHelm 51 s1) else .next (helmMod (fun h => { h with attempts := n + 1 }) s1)
    else .next (countHelm (if n = 1 then 48 else 49) 1 (helmMod (fun h => { h with attempts := 0 }) s1))

/-! ### A change of profile (R58) -/

/-- A `dev.profile` that waits for its boundary. -/
def isProfileChange (p : Pending) : Bool := match p.what with | .profile _ _ => true | _ => false

/-- Under LATENCY no spur port idles, no pilot port is narrow, no link is in transmit low-power idle and the host link is not in L1; only under
EFFICIENCY is a channel powered down (R61, R228, R229, R347, R364, Table 19-12). What the profile before had let rest leaves it (log entry
108). -/
def wakeForProfile (new : Profile) (s : State) : State :=
  let s1 := if new = .efficiency then s else touchChannels s.tarns.powerDown s
  if new = .latency then
    let s2 := (s1.fabric.ports.map Prod.fst).foldl (fun t p =>
      settleClock (6 + p / 4) (portMod p (fun y => { y with isIdle := false, narrowed := false }) t)) s1
    let s3 := (s2.eth.links.map Prod.fst).foldl (fun t l => leaveTxLpi l t) s2
    { s3 with pcie := { s3.pcie with inL1 := false } }
  else s1

/-- PROFILE_TAKES_EFFECT (R58, R198). -/
def execProfileTakesEffect (s : State) : Host.Outcome State Fault Refusal :=
  whileLit s <|
  match s.commands.find? isProfileChange with
  | some p =>
    match p.what with
    | .profile new b =>
      let s1 := advanceTo b s
      .next (answer p .ok (profileCode s.dev.profile) b 0
        (wakeForProfile new { s1 with dev := { s1.dev with profile := new }, commands := s1.commands.erase p }))
    | _ => .next s
  | none => .next s

end Sys2Proof.Machine
end

