-- ==== Sys2Proof/Machine/Startup.lean ====
section
/-! DEFINITION. Starts, device resets, firmware restarts, self-test and its commands (chapter 17). -/

namespace Sys2Proof.Machine

def startMod (f : StartInfo → StartInfo) (s : State) : State := { s with start := f s.start }
def devMod (f : Device → Device) (s : State) : State := { s with dev := f s.dev }

/-! ### Self-test (R456 to R461) -/

/-- `n` bits of a word from bit `lo` become 0. -/
def clearRun {w : Nat} (v : BitVec w) (lo n : Nat) : BitVec w := v &&& ~~~ (BitVec.ofNat w ((2 ^ n - 1) * 2 ^ lo))

/-- What a failure that no spare repairs marks unusable (Table 17-7); tarns and their channels apart. -/
def markUnusable (inv : Inventory) (r : TestResult) : Inventory :=
  let u := r.unit
  match r.block.toNat with
  | 0x01 => { inv with shoals := clearRun inv.shoals u 1 }
  | 0x04 => { inv with fabricLanes := if u < 64 then clearRun inv.fabricLanes u 1 else clearRun inv.fabricLanes (4 * (u - 64)) 4 }
  | 0x05 => { inv with ethLanes := if u < 32 then clearRun inv.ethLanes u 1 else clearRun inv.ethLanes (8 * (u - 32)) 8 }
  | 0x06 => { inv with cores := clearRun inv.cores u 1 }
  | 0x07 => { inv with engines := clearRun inv.engines u 1 }
  | 0x08 => { inv with movers := clearRun inv.movers u 1 }
  | 0x09 => if u = 0 then { inv with fathoms := inv.fathoms - 1 } else { inv with cacheBytes := inv.cacheBytes - 65536 }
  | 0x0A =>
    let i := r.inst.toNat
    if i < 16 then { inv with shoals := clearRun inv.shoals i 1 }
    else if 19 ≤ i ∧ i ≤ 22 then { inv with ethLanes := clearRun inv.ethLanes (8 * (i - 19)) 8 }
    else if 23 ≤ i ∧ i ≤ 26 then { inv with fabricLanes := clearRun inv.fabricLanes (16 * (i - 23)) 16 }
    else inv
  | 0x0B => { inv with helm := false }
  | 0x0C => { inv with sensors := clearRun inv.sensors u 1 }
  | _ => inv

/-- The tarn, and the channel (64 × tarn + channel), that such a failure marks. -/
def markedTarn (r : TestResult) : Option Nat :=
  if r.block = 0x03 then some r.unit else if r.block = 0x0A ∧ 27 ≤ r.inst.toNat ∧ r.inst.toNat ≤ 30 then some (r.inst.toNat - 27) else none
def markedChannel (r : TestResult) : Option Nat := if r.block = 0x02 then some r.unit else none

/-- A start runs this test: the tarn march only where it tests the arrays, a far-end loopback never (Table 17-5). -/
def testRuns (kind : StartKind) (r : TestResult) : Bool := r.test != 0x07 && r.test != 0x0B && (r.test != 0x05 || kind != .railsHeld)

/-- The row of a tarn that the array march found (Table 17-5), as `softRows` numbers it. -/
def marchRow (r : TestResult) : Nat × Nat := (32 * r.inst.toNat + bits r.address.toNat 0 5, bits r.address.toNat 5 14)

/-- The unit had left service, or the row was repaired in service, before the test confirmed it (Table 17-6). -/
def wasRetired (s : State) (r : TestResult) : Bool :=
  (r.test == 0x05 && s.tarns.softRows.contains (marchRow r)) ||
  (r.block == 0x01 && !bit s.dev.inventory.shoals.toNat r.unit) || (r.block == 0x06 && !bit s.dev.inventory.cores.toNat r.unit) ||
  (r.block == 0x02 && !bit s.tarns.usable.toNat r.unit)

/-- The setpoint of the failing pass: the logic scan and the delay-line test run at two, and the one that failed is not an operand. -/
def passSetpoint (s : State) (r : TestResult) : W16 :=
  if r.test = 0x02 ∨ r.test = 0x03 then (if bit (Config.freeWord s.dev.fresh).toNat 0 then BitVec.ofNat 16 s.power.floor else 800) else 750

/-- A repair is burned: at a start that fuses, with Tj at or below 85 °C, while entries are left (R460). -/
def mayFuse (s : State) (r : TestResult) : Bool :=
  r.spare && s.start.kind != .railsHeld && decide ((hottest s).1 ≤ 1360) && (r.test == 0x05 || decide (s.start.fuseEntries < 4096))

/-- Append a result record; failures beyond 2,048 are counted only (R458). -/
def logResult (outcome : Nat) (r : TestResult) (s : State) : State :=
  let rec_ : ResultRec :=
    { test := r.test, block := r.block, inst := r.inst, outcome := outcome, inService := wasRetired s r, bit := r.bit, address := r.address,
      measured := r.measured, vddMv := passSetpoint s r, tj := BitVec.ofNat 16 (twos (hottest s).1 16), stamp := s.dev.now }
  startMod (fun x => { x with found := x.found + 1, log := (x.log ++ [rec_]).take 2048 }) (takeFresh s)

/-- One failure of a start that runs its tests. A repair of a row that is burned is no longer soft; any other stands in the log (R460). -/
def recordFailure (s : State) (r : TestResult) : State :=
  let fuse := mayFuse s r
  let s1 := logResult (if r.spare then flag fuse else if r.block = 0x0D then 3 else 2) r s
  let s2 := if fuse then startMod (fun x => { x with fused := true, fuseEntries := x.fuseEntries + flag (r.test != 0x05) }) s1 else s1
  if r.spare then
    (if r.test = 0x05 then
      tarnMod (fun t =>
        { t with spares := if t.softRows.contains (marchRow r) then t.spares else tabAdd t.spares (marchRow r).1 1,
                 softRows := t.softRows.filter (· != marchRow r) ++ (if fuse then [] else [marchRow r]) }) s2
     else s2)
  else if r.block = 0x0D then startMod (fun x => { x with failed := true }) s2
  else s2

/-- What the ageing log has retired stays so (R417). -/
def agedOut (s : State) (inv : Inventory) : Inventory :=
  let low (l : List Nat) (lim : Nat) : List Nat := (l.zipIdx.filter fun p => decide (p.1 < lim)).map Prod.snd
  { inv with shoals := (low s.ceilings.shoals 125).foldl (fun v i => clearRun v i 1) inv.shoals,
             cores := (low s.ceilings.cores 64).foldl (fun v i => clearRun v i 1) inv.cores }

/-- Channels and tarns at a start that tests the arrays: all that pass; a tarn with more than 8 unusable channels is unusable. -/
def testTarns (bad : List TestResult) (s : State) : State :=
  let channels := sortedNats (bad.filterMap markedChannel)
  let lost := (List.range 4).filter fun t =>
    (bad.filterMap markedTarn).contains t || decide (8 < (channels.filter fun c => c / 64 == t).length)
  let inv := { s.dev.inventory with tarns := lost.foldl (fun v t => clearRun v t 1) (BitVec.allOnes 4) }
  let s1 := tarnMod (fun t => { t with usable := channels.foldl (fun v c => clearRun v c 1) (BitVec.allOnes 256),
                                       tarnLost := lost.foldl (fun v t => v ||| BitVec.ofNat 4 (2 ^ t)) 0 }) s
  collMod (fun c => { c with free := inv.fathoms })
    (devMod (fun d => { d with inventory := inv }) s1)

/-- The check of clocks and supplies failed: no test runs, and what the last tested start marked stays (R456). -/
def skipTests (results : List TestResult) (s : State) : State :=
  (results.filter fun r => r.test == 0x0B).foldl (fun t r =>
    raiseEvent .selftestSkipped 0 nodeSelf r.inst.toNat 0 (logResult 4 r t)) s

/-- The self-test of a start. -/
def runTests (kind : StartKind) (results : List TestResult) (clocksOk suppliesOk : Bool) (s : State) : State :=
  let s0 := startMod (fun x => { x with kind := kind, clocks := clocksOk, supplies := suppliesOk, ran := clocksOk && suppliesOk, fused := false,
                                        duration := 0, found := 0, failed := false }) s
  if clocksOk && suppliesOk then
    let done := results.filter (testRuns kind)
    let bad := done.filter fun r => !r.spare
    let s1 := done.foldl recordFailure (startMod (fun x => { x with log := [] }) s0)
    let full := { fullInventory with tarns := s.dev.inventory.tarns }
    let s2 := devMod (fun d => { d with inventory := agedOut s (bad.foldl markUnusable full) }) s1
    if kind = .railsHeld then s2 else testTarns bad s2
  else skipTests results s0

/-! ### The beginning of a start -/

/-- Ceilings as the ageing log keeps them (R417, R464). -/
def loggedCeilings (s : State) : Ceilings := { s.ceilings with phaseMix := fusedCeilings.phaseMix, learn := [] }

/-- The image store is being written: a `sec.fw.commit` whose image verifies has not ended (R399, log entry 111). -/
def storeWriting (s : State) : Bool := (s.commands.any fun p => p.what == .fwCommit) && (stagedImage s).isSome

/-- A cold start keeps the fuses, the image store, and the repair and ageing logs (Table 17-3a). An enrolled officer key is kept until it is
zeroized (R375). -/
def coldState (straps : Straps) (s : State) : State :=
  let dev := { freshDevice with life := .starting, now := 0, level1Strap := straps.level1Sel, profile := profileOfStrap straps.profileSel,
                                bootRecovery := straps.bootRecovery, ticks := ticksAt 0, lastLiveness := 0, inventory := s.dev.inventory,
                                fresh := s.dev.fresh }
  { State.reset with
    dev := dev, pcie := { freshPcie with linkUp := false, perst := true }, fns := [(0, freshFunction straps.level1Sel)],
    tarns := { freshTarns with usable := s.tarns.usable, tarnLost := ~~~ s.dev.inventory.tarns, spares := s.tarns.spares, softRows := s.tarns.softRows },
    sec := { freshSecurity with officer := s.sec.officer, stored := s.sec.stored, minVersion := s.sec.minVersion,
                                storeTorn := s.sec.storeTorn || storeWriting s },
    power := { freshPower with floor := s.power.floor }, ceilings := loggedCeilings s, start := s.start, out := s.out, pending := s.pending }

/-- POWER_ON_RELEASE (R445, R453): every rail has held for 2 ms; the device leaves device reset, and its tests run. -/
def execPowerOnRelease (straps : Straps) (selftest : List TestResult) (clocksOk suppliesOk : Bool) (s : State) : Host.Outcome State Fault Refusal :=
  if s.dev.life = .inReset then .next (runTests .cold selftest clocksOk suppliesOk (coldState straps s)) else .next s

/-- RAIL_OUT_OF_TOLERANCE (R445): the device returns to device reset; while it runs, that is a loss of power (R29). -/
def execRailOutOfTolerance (rail : Nat) (s : State) : Host.Outcome State Fault Refusal :=
  if rail < 9 then .next (thermalMod (fun t => { t with tripped := false }) (devMod (fun d => { d with life := .inReset, resetDue := none }) s))
  else .next s

/-- The life of a start under way. -/
def startLife (k : StartKind) : Life := match k with | .railsHeld => .restarting | .cold | .selftest => .starting

def isStarting (s : State) : Bool := s.dev.life == .starting || s.dev.life == .restarting

/-- REFCLK_ABSENT_TIMEOUT (R446): a reference is absent 1 s after the device left device reset. -/
def execRefclkAbsentTimeout (s : State) : Host.Outcome State Fault Refusal :=
  if isStarting s then
    .next (setAlert 2 true (devMod (fun d => { d with life := .waitingRefs, refsPresent := false }) (advanceTo (s.dev.lastLiveness + 1000000000) s)))
  else .next s

/-- REFERENCES_PRESENT (R446): the start goes on. -/
def execReferencesPresent (s : State) : Host.Outcome State Fault Refusal :=
  if s.dev.life = .waitingRefs then
    .next (setAlert 2 false (devMod (fun d => { d with life := startLife s.start.kind, refsPresent := true }) s))
  else .next s

/-! ### The end of a start -/

/-- The time that a start has taken, in µs: at most `limit` (R453, R454). -/
def startTime (limit : Nat) (s : State) : Nat := limit - (Config.freeWord s.dev.fresh).toNat % limit

/-- The power-up self-tests of the island passed, or the boundary is in the error state (R400, R401). -/
def cryptoStart (crypto : W64) (s : State) : State :=
  if crypto = 0 then secMod (fun x => { x with errorState := false, failing := 0 }) s else enterError crypto.toNat s

/-- Firmware runs: the image verified, and the fused minimum rises to its version (R397). -/
def goLive (crypto : W64) (s : State) : State :=
  let now := s.dev.now
  let s1 := devMod (fun d => { d with life := .running, ticks := ticksAt now, lastLiveness := now }) s
  let s2 := secMod (fun x =>
    let v := Config.imageVersion (imageBytes x.stored)
    { x with running := x.stored, minVersion := if x.minVersion.toNat < v.toNat then v else x.minVersion, drbgRequests := 0, drbgAt := now,
             lanes := tabMap x.lanes fun _ _ => { maskAt := now, katAt := now } }) (setAlert 3 false s1)
  cryptoStart crypto s2

/-- A start ends: running, or in ROM recovery where it failed (R462), no image verified, or `BOOT_RECOVERY` is high (R398). -/
def endStart (imageOk : Bool) (crypto : W64) (limit lead : Nat) (live : State → State) (s : State) : State :=
  let d := startTime limit s
  let s1 := startMod (fun x => { x with duration := d }) (takeFresh (advanceTo (s.dev.lastLiveness + 1000 * (d - lead)) s))
  let cores := ((List.range 12).filter fun i => bit s.dev.inventory.cores.toNat i).length
  if s.start.failed ∨ cores < 4 then setAlert 3 true (devMod (fun x => { x with life := .romRecovery }) s1)
  else if !imageOk ∨ s.sec.storeTorn ∨ s.dev.bootRecovery then
    secMod (fun x => { x with errorState := crypto != 0, failing := crypto }) (devMod (fun x => { x with life := .romRecovery }) s1)
  else live (goLive crypto s1)

/-! ### A command without a first reply counts as never read (R451, R452) -/

/-- What such a command had begun is undone. -/
def undoCommand (p : Pending) (s : State) : State :=
  match p.what with
  | .shaperSet key _ _ => { s with sched := { s.sched with shapers := tabMod s.sched.shapers key fun h => { h with change := none } } }
  | .policerSet key _ _ _ _ => { s with sched := { s.sched with policers := tabMod s.sched.policers key fun h => { h with change := none } } }
  | .spurRevoke fn epoch g pages staged => spaceMod fn (undoRevoke epoch g pages staged) s
  | _ => s

/-- `CMD_CONSUMED` steps back to its slot, which is read again. -/
def unreadOne (s : State) (p : Pending) : State :=
  let s1 := undoCommand p { s with commands := s.commands.erase p }
  match p.origin with
  | .ring fn => chanMod fn (fun c => { c with consumed := c.consumed - 1, scanning := true, doorbellAt := s.dev.now, rereads := 0 }) s1
  | .helm _ _ => s1

def unreadCommands (s : State) : State := (s.commands.filter fun p => !p.answered).foldl unreadOne s

/-! ### Device resets with power applied (R449, R450) -/

/-- The setpoint steps to 0.75 V before the reset takes effect (R487). -/
def stepToBoot (fuel : Nat) (s : State) : State :=
  match fuel with
  | 0 => s
  | fuel + 1 =>
    if s.power.setpoint = 750 then s
    else stepToBoot fuel (sendVid (powerMod (fun p => { p with setpoint := nextSetpoint p.setpoint 750 }) s))

/-- A fabric port that is kept: its settings, its streams and its partner, with nothing under way. -/
def keptPort (x : FabPort) : FabPort :=
  let calm (t : Tab ReqStream) : Tab ReqStream := tabMap t fun _ q => { q with waiting := [], silent := false }
  { x with active := false, lanes := 0, latNs := 0, partnerDev := 0, partnerPort := 0, partnerPilot := false, mayIdle := false, isIdle := false,
           narrowed := false, attempts := 0, txLoad := [], rxLoad := [], accesses := [], streams := calm x.streams, loopUntil := none }

/-- The fabric number and the port roles are kept; both bearings restart IDLE. -/
def keptFabric (f : Fabric) : Fabric := { freshFabric with ident := f.ident, ports := tabMap f.ports fun _ x => keptPort x }

/-- The Ethernet port settings are kept, with the addresses that queue pairs use. -/
def keptEth (e : Ethernet) : Ethernet :=
  { freshEth with ports := tabMap e.ports (fun _ x => { x with loopUntil := none }), udpPort := e.udpPort, addrs := e.addrs }

/-- Shares, weights, shapers and admissions are kept. -/
def keptSched (x : Sched) : Sched :=
  { freshSched with tcWeights := x.tcWeights, shapers := x.shapers, nextAdmission := x.nextAdmission, recheckAt := x.recheckAt }

/-- The key stores of island 15 are kept; the session and the open offers are not. `commit`: a `sec.fw.commit` goes on (R451), and keeps what
it verifies. -/
def keptSec (commit : Bool) (x : Security) : Security :=
  { x with sessionAt := none, challenge := none, offers := [], staging := if commit then x.staging else none, running := none }

/-- Every crossing goes DOWN at a device reset (Table 16-3). -/
def downCrossings (s : State) : State :=
  let down (x : Crossing) : Crossing := { emptyCrossing x with mode := .down, notify := false, ready := false, syncReq := false, syncAck := false }
  { s with clocks := { s.clocks with crossings := tabMap s.clocks.crossings fun _ x => down x } }

/-- A device reset with the rails held: what is lost goes; what stands in the tarns, islands 0 and 1, and island 17 stays. -/
def heldState (straps : Straps) (s : State) : State :=
  let dev := { s.dev with life := .restarting, profile := profileOfStrap straps.profileSel, bootRecovery := straps.bootRecovery,
                          heartbeat := 0, lastLiveness := s.dev.now, resetDue := none, coreLostAt := none }
  let s1 := downCrossings { s with
    dev := dev, fabric := keptFabric s.fabric, eth := keptEth s.eth, sched := keptSched s.sched, sec := keptSec (s.commands.any fun p => p.what == .fwCommit) s.sec,
    power := { freshPower with floor := s.power.floor, framedAt := s.power.framedAt }, ceilings := loggedCeilings s,
    droop := freshDroop, ramp := freshRamp, missSlots := [], missWait := [],
    thermal := { freshThermal with readings := s.thermal.readings },
    helm := State.reset.helm, tarns := { s.tarns with repairs := [], powerDown := [], scrubHits := [], refreshMs := 32 } }
  setAlert 0 false (setAlert 1 false s1)

/-- `diag.selftest`: as the other, with the tarns lost and everything that they hold. -/
def selftestState (straps : Straps) (s : State) : State :=
  let s1 := heldState straps s
  let vfs := if s.pcie.vfEnable then (List.range s.pcie.numVfs).map (· + 1) else []
  let ids := 0 :: vfs
  { coldState straps s with
    dev := { s1.dev with life := .starting }, pcie := s1.pcie, clocks := s1.clocks, sec := s1.sec, jtag := s.jtag,
    thermal := s1.thermal, fns := ids.map (fun n => (n, freshFunction s.dev.level1Strap)), spaces := ids.map fun n => (n, freshSpace) }

/-- R448: the device keeps the value of the latest start, and says so. -/
def judgeStrap (straps : Straps) (s : State) : State :=
  if straps.level1Sel = s.dev.level1Strap then s else raiseEvent .strapChanged 0 nodeSelf 0 (flag straps.level1Sel) s

/-- Placements already issued through a spur have not all ended (R165). -/
def placementsOpen (s : State) : Bool := s.fabric.ports.any fun p => p.2.accesses.any fun a => a.2.write && !a.2.inbound

/-- DEVICE_RESET_TAKES_EFFECT (R48, R165, R449, R454, R465). -/
def execDeviceResetTakesEffect (straps : Straps) (selftest : List TestResult) (clocksOk suppliesOk : Bool) (s : State) :
    Host.Outcome State Fault Refusal :=
  match s.dev.resetDue with
  | none => .next s
  | some (t, kind) =>
    if !(lit s || s.dev.life == .romRecovery) || placementsOpen s then .next s
    else
      let s1 := stepToBoot 10 (advanceTo t s)
      let s2 := if kind = .selftest then selftestState straps s1 else heldState straps (unreadCommands s1)
      .next (judgeStrap straps (runTests (if kind = .selftest then .selftest else .railsHeld) selftest clocksOk suppliesOk s2))

/-! ### The end of a device reset with the rails held (R451) -/

/-- A send key goes on at the next block that was never reserved; what it skips counts (R384). -/
def skipBlock (k : SealKey) : SealKey := { k with ctr := k.reserved, units := k.units + (k.reserved - k.ctr) }

/-- What `QP_PROGRESS` holds of queue pair `n`; without a record, what it would hold now. -/
def committedProgress (s : State) (n : Nat) (q : Qp) : Progress :=
  (s.journal.findSome? fun r => match r.2 with
    | .qpProgress m p => if m = n then some p else none
    | _ => none).getD (progressOf q s.dev.now)

/-- The sending direction resumes at the committed `OWN_RETIRED` (R164), and every open message is sent again in full, with `RETX` = 1. Its
numbers are those that the walk from the committed base gives. Responses that have retired are committed locally (R146). -/
def restoredSend (p : Progress) (x : QpSend) : QpSend :=
  { x with queue := [], flight := [], responses := [], faultWait := none, outSince := none, noPathSince := none, silent := false, backoff := 0,
           ownRetired := p.ownRetired, cumAcked := p.ownRetired,
           messages := x.messages.map fun m =>
             { m with started := false, built := 0, tail := [], got := m.got.filter (fun g => seqBefore g.1 p.ownRetired), rnrTries := 0,
                      rnrAt := none, repairs := [], replay := true } }

/-- The receiving direction resumes at the committed values, with an empty bitmap and the claims of the `CLAIMED` records; other messages form
anew from the packets that come again. -/
def restoredRecv (p : Progress) (r : QpRecv) : QpRecv :=
  { r with e := p.cumSeq, nextMsg := p.cumMsg, claimed := p.claimed, peerRetired := p.peerRetired, toldRetired := p.ownRetired, settled := [],
           recordedNak := none, suspended := false, suspendedBy := none, newlySettled := 0, firstSettledAt := none, trigger := none,
           arrived := [], flushes := [], stateLost := true, units := [], peerAdmitted := false,
           messages := r.messages.filter fun m => !m.complete && m.buffer.isSome }

/-- A queue pair as its context and its records restore it (Table 6-14). -/
def restoredQp (p : Progress) (q : Qp) : Qp :=
  let sealed_ (z : QpSeal) : QpSeal := { z with cur := skipBlock z.cur, old := z.old.map skipBlock, acc := [] }
  if q.conf.connected ∧ q.phase = .ready then
    { q with send := restoredSend p q.send, recv := restoredRecv p q.recv, sealing := q.sealing.map sealed_ }
  else q

/-- Entries that have not completed start again from the beginning: transport by R167, attention by Table 10-9, operators by R331. -/
def restoredWork (w : Work) : Work := if w.state = .active ∨ w.state = .accepted then { w with state := .accepted, begun := false } else w

/-- A collective is never resumed: its entries end with `COLL_ABORTED`, its group is BROKEN (R273). -/
def breakGroup (s : State) (slot : Nat) : State :=
  match groupGet s slot with
  | none => s
  | some g =>
    if g.mode = .setup ∨ g.mode = .waiting then failSetup slot .collAborted s
    else
      groupMod slot (fun g =>
        { g with mode := .broken, runs := [], waiting := [], rx := [], early := [], setupOut := [], aborted := [], timeoutAt := none }) s

def abortCollectives (s : State) : State :=
  let recs := (byOrder ((works s).filter fun p => entryOp p.2.entry == 0x20)).map Prod.fst
  let s1 := completeAll recs .collAborted s
  collMod (fun c => { c with engines := [], queue := [] }) ((s1.coll.groups.map Prod.fst).foldl breakGroup s1)

/-- The functions that enter HELD now: each that is neither DISABLED nor HELD. -/
def toHold (s : State) : List Nat := (s.fns.filter fun p => p.2.mode != .held && p.2.mode != .disabled).map Prod.fst

/-- What a function reset does at once (R82), for a function that a device reset takes to HELD. -/
def stopFunction (s : State) (fn : Nat) : State :=
  if fnModeOf s fn = .resetting then s
  else spaceMod fn (fun a => { a with waiting := [] }) (holdReplies fn (enterReset fn (holdCompletions fn s)))

/-- Then its work that cannot go on ends, and it is HELD. -/
def holdFunction (s : State) (fn : Nat) : State :=
  let units := openUnits s fn
  let s1 := bumpKeys fn (flushHost fn (failSuspended fn s))
  let s2 := finishCmds (fun d => if d = .fnStop fn then some (.ok, 0, 0, 0) else none) (units.foldl (dropUnit fn) s1)
  match fnGet s2 fn with
  | some f => if f.disabling then releaseFunction fn s2 else fnMod fn (fun f => { f with mode := .held, heldSince := some s2.dev.now }) s2
  | none => s2

/-- Units of the tarns that this start's tests found unusable leave service as they do while the device runs (R461, R471). -/
def loseTested (s : State) (r : ResultRec) : State :=
  let run (o : Host.Outcome State Fault Refusal) : State := match o with | .next t => t | .fault _ => s | .refused _ => s
  if r.outcome ≠ 2 then s
  else if r.block = 0x02 then run (execChannelLost (r.inst.toNat / 64) (r.inst.toNat % 64) s)
  else if r.block = 0x03 then run (execTarnLost (r.inst.toNat / 64) s)
  else if r.block = 0x0A ∧ 27 ≤ r.inst.toNat ∧ r.inst.toNat ≤ 30 then run (execTarnLost (r.inst.toNat - 27) s)
  else s

/-- The summaries of the users on the kept list are loaded into the shoals again (Table 10-9). -/
def reloadPins (s : State) : State :=
  (s.cache.pins.filter fun p => p.ready).foldl (fun t x =>
    match poolGet t x.pool with
    | some p => loadSummaries x.pool p x.user t
    | none => t) s

/-- Replay begins: contexts and records are restored, every function is HELD, and pins fit the residency that is left. -/
def restartWork (s : State) : State :=
  let fns := toHold s
  let s1 := abortCollectives (fns.foldl stopFunction s)
  let s2 := fns.foldl holdFunction s1
  let begin_ (p : Nat × JournalRec) : Nat × JournalRec := match p.2 with | .work w => (p.1, .work (restoredWork w)) | _ => p
  let s3 := { s2 with qps := tabMap s2.qps (fun n q => restoredQp (committedProgress s2 n q) q), journal := s2.journal.map begin_, opers := [],
                      cache := { s2.cache with runs := [], early := [], finishing := [], resident := [], hold := false, holdBarred := false } }
  let s4 := { s3 with clocks := { s3.clocks with status := BitVec.allOnes 18, stopped := 0, zeroSince := [],
                                                 crossings := tabMap s3.clocks.crossings fun _ _ => freshCrossing } }
  let s5 := collMod (fun c => { c with free := c.free - (4032 - s4.dev.inventory.fathoms) }) s4
  reloadPins (shedPins s5.cache.pins.length (s5.start.log.foldl loseTested s5))

/-! ### Firmware (R37, R452) -/

/-- The firmware counts at instant `t`: not in the first 2 ms of a control-core failover that has not ended (R37, R27). -/
def heartbeatCounts (s : State) (t : Nat) : Bool :=
  match s.dev.coreLostAt with
  | some lost => decide (lost + 2000000 ≤ t)
  | none => true

/-- FW_HEARTBEAT_TICK (R37): once in every 1 ms; a core advances the liveness count with it. -/
def execFwHeartbeatTick (s : State) : Host.Outcome State Fault Refusal :=
  if s.dev.life = .running then
    let t := nextMultiple s.dev.ticks.heartbeat 1000000
    let s1 := advanceTo t (tickMod (fun x => { x with heartbeat := t }) s)
    if heartbeatCounts s t then .next (devMod (fun d => { d with heartbeat := d.heartbeat + 1, lastLiveness := s1.dev.now }) s1)
    else .next s1
  else .next s

/-- FW_WATCHDOG_EXPIRY (R452): no core has advanced the liveness count for 100 ms. -/
def execFwWatchdogExpiry (s : State) : Host.Outcome State Fault Refusal :=
  if s.dev.life = .running then
    let s1 := devMod (fun d => { d with life := .fwRestart }) (advanceTo (s.dev.lastLiveness + 100000000) s)
    .next (flushCrossing 14 (unreadCommands s1))
  else .next s

/-! ### Diagnostics (R465, R466) -/

/-- Table 17-6. -/
def resultBits (r : ResultRec) : Nat :=
  pack [(0, 8, r.test.toNat), (8, 8, r.block.toNat), (16, 16, r.inst.toNat), (32, 3, r.outcome), (35, 1, flag r.inService), (48, 16, r.bit.toNat),
    (64, 64, r.address.toNat), (128, 32, r.measured.toNat), (160, 16, r.vddMv.toNat), (176, 16, r.tj.toNat), (192, 64, r.stamp)]

/-- Result records one after the other. -/
def logBits (l : List ResultRec) : Nat := (l.zipIdx.map fun p => resultBits p.1 * 2 ^ (256 * p.2)).sum

def startKindCode : StartKind → Nat
  | .cold => 1 | .railsHeld => 2 | .selftest => 3

def specDiagResults : CmdSpec := { opcode := 0x0A01, issuer := .any, cls := .any, fields := [(0, 8), (8, 4)] }

def doDiagResults (c : Cmd) (s : State) : CmdOut :=
  let x := s.start
  let l := x.log.take (param c 8 4 / 32)
  let r2 := pack [(0, 4, startKindCode x.kind), (4, 1, flag x.ran), (5, 1, flag x.clocks), (6, 1, flag x.supplies), (7, 1, flag x.fused),
    (16, 32, x.duration)]
  needParam (param c 0 8 % 64 == 0) s
    (.done (if l.isEmpty then s else writeResult c (param c 0 8) (256 * l.length) (logBits l) s) .ok l.length x.found r2)

/-- DIAG_RESULTS (R465). -/
def execDiagResults (c : Cmd) (s : State) : Host.Outcome State Fault Refusal := .next (runCmd specDiagResults doDiagResults c s)

def specDiagSelftest : CmdSpec := { opcode := 0x0A02, issuer := .pf0, cls := .any, fields := [] }

def doDiagSelftest (_ : Cmd) (s : State) : CmdOut :=
  if s.fns.all fun p => p.2.mode == .stopped || p.2.mode == .disabled then
    cmdOk (devMod (fun d => { d with resetDue := some (s.dev.now + 10000, .selftest) }) s)
  else cmdFail s .busy

/-- DIAG_SELFTEST (R465): the reset takes effect at least 10 µs after the reply. -/
def execDiagSelftest (c : Cmd) (s : State) : Host.Outcome State Fault Refusal := .next (runCmd specDiagSelftest doDiagSelftest c s)

def specDiagInventory : CmdSpec := { opcode := 0x0A03, issuer := .any, cls := .any, fields := [] }

def countBits (v n : Nat) : Nat := ((List.range n).filter fun i => bit v i).length

def doDiagInventory (_ : Cmd) (s : State) : CmdOut :=
  let v := s.dev.inventory
  .done s .ok (pack [(0, 4, countBits v.engines.toNat 8), (4, 6, countBits v.movers.toNat 32), (10, 12, v.fathoms), (22, 1, flag v.helm)])
    (areaEnd s) v.cacheBytes

/-- DIAG_INVENTORY (R465). -/
def execDiagInventory (c : Cmd) (s : State) : Host.Outcome State Fault Refusal := .next (runCmd specDiagInventory doDiagInventory c s)

def specDiagLoopback : CmdSpec := { opcode := 0x0A04, issuer := .pf0, cls := .any, fields := [(0, 1), (1, 1), (2, 1), (4, 4)] }

/-- A port is out of service: a fabric port of role disabled, an Ethernet port of `MODE` 0; and no loopback runs on it. -/
def outOfService (s : State) (kind port : Nat) : Bool :=
  if kind = 0 then (match tabGet s.eth.ports port with | some x => x.mode == 0 && x.loopUntil.isNone | none => true)
  else (match portGet s port with | some x => x.role == .disabled && x.loopUntil.isNone | none => true)

/-- The end of the loopback on a port, or none. -/
def setLoop (kind port : Nat) (ends : Option Nat) (s : State) : State :=
  if kind = 0 then { s with eth := { s.eth with ports := tabMod s.eth.ports port fun x => { x with loopUntil := ends } } }
  else
    let x := (portGet s port).getD (newPort .disabled)
    { s with fabric := { s.fabric with ports := tabSet s.fabric.ports port { x with loopUntil := ends } } }

def doDiagLoopback (c : Cmd) (s : State) : CmdOut :=
  let kind := param c 0 1
  let port := param c 1 1
  let ms := param c 4 4
  let ok := decide (kind ≤ 1 ∧ port < (if kind = 0 then 4 else 16) ∧ param c 2 1 ≤ 2 ∧ 1 ≤ ms ∧ ms ≤ 10000)
  needParam ok s
    (if outOfService s kind port then
      let ends := s.dev.now + 1000000 * ms
      .deferred (setLoop kind port (some ends) s) (.loopback kind port (param c 2 1) ends)
    else cmdFail s .busy)

/-- DIAG_LOOPBACK (R466). -/
def execDiagLoopback (c : Cmd) (s : State) : Host.Outcome State Fault Refusal := .next (runCmd specDiagLoopback doDiagLoopback c s)

/-- A far-end result with errors goes to the result log (R458, R466). -/
def logFarEnd (kind port mode : Nat) (errors : W64) (lane : W8) (s : State) : State :=
  if mode = 1 ∧ errors ≠ 0 then
    let inst := if kind = 0 then 8 * port + lane.toNat else 32 + 4 * port + lane.toNat
    let r : TestResult :=
      { test := 0x07, block := if kind = 0 then 0x05 else 0x04, inst := BitVec.ofNat 16 inst, address := 0, bit := 0xFFFF,
        measured := BitVec.ofNat 32 errors.toNat, unit := inst, spare := false }
    logResult 0 r s
  else s

/-- When a waiting loopback ends. -/
def loopEnd (p : Pending) : Option Nat := match p.what with | .loopback _ _ _ e => some e | _ => none

/-- Of the loopbacks that run, the one that ends first. -/
def loopEndsFirst (s : State) (p : Pending) : Bool :=
  (loopEnd p).isSome && loopEnd p == (s.commands.filterMap loopEnd).foldl (fun m e => some (min e (m.getD e))) none

/-- DIAG_LOOPBACK_DONE (R466): the loopback that ends first ends. -/
def execDiagLoopbackDone (bits_ worstErrors : W64) (worstLane : W8) (s : State) : Host.Outcome State Fault Refusal :=
  whileLit s <|
  match s.commands.find? (loopEndsFirst s) with
  | none => .next s
  | some p =>
    match p.what with
    | .loopback kind port mode ends =>
      let s1 := logFarEnd kind port mode worstErrors worstLane (setLoop kind port none (advanceTo ends { s with commands := s.commands.erase p }))
      .next (answer p .ok bits_.toNat worstErrors.toNat worstLane.toNat s1)
    | _ => .next s

end Sys2Proof.Machine
end

