-- ==== Sys2Proof/Machine/Jtag.lean ====
section
/-! DEFINITION. The JTAG test logic (R494, R462): the TAP of IEEE 1149.1, and the instructions BYPASS, IDCODE, SAMPLE and the result-log read.
Codes and lengths that the spec does not give are in log entry 50. -/

namespace Sys2Proof.Machine

/-- The next state of the TAP. -/
def tapNext (t : Tap) (tms : Bool) : Tap :=
  match t, tms with
  | .reset, true => .reset | .reset, false => .idle
  | .idle, true => .selDr | .idle, false => .idle
  | .selDr, true => .selIr | .selDr, false => .capDr
  | .capDr, true => .ex1Dr | .capDr, false => .shDr
  | .shDr, true => .ex1Dr | .shDr, false => .shDr
  | .ex1Dr, true => .upDr | .ex1Dr, false => .paDr
  | .paDr, true => .ex2Dr | .paDr, false => .paDr
  | .ex2Dr, true => .upDr | .ex2Dr, false => .shDr
  | .upDr, true => .selDr | .upDr, false => .idle
  | .selIr, true => .reset | .selIr, false => .capIr
  | .capIr, true => .ex1Ir | .capIr, false => .shIr
  | .shIr, true => .ex1Ir | .shIr, false => .shIr
  | .ex1Ir, true => .upIr | .ex1Ir, false => .paIr
  | .paIr, true => .ex2Ir | .paIr, false => .paIr
  | .ex2Ir, true => .upIr | .ex2Ir, false => .shIr
  | .upIr, true => .selDr | .upIr, false => .idle

/-- `n` bits of a number, lowest first. -/
def bitsOf (n v : Nat) : List Bool := (List.range n).map fun i => bit v i

/-- The instruction that a code selects. Every other instruction takes effect only in device reset or ROM recovery; otherwise it acts as
BYPASS (R494). -/
def jtagOp (s : State) (ir : W8) : JtagOp :=
  if ir = 0xFF then .bypass
  else if ir = Config.irIdcode then .idcode
  else if ir = Config.irSample then .sample
  else if ir = Config.irResultLog then .resultLog
  else if s.dev.life = .inReset ∨ s.dev.life = .romRecovery then .other
  else .bypass

/-- What Capture-DR loads. What the instructions that the spec does not describe load is free. -/
def captureDr (s : State) : List Bool :=
  match s.jtag.op with
  | .bypass => [false]
  | .idcode => bitsOf 32 Config.idcode.toNat
  | .resultLog => bitsOf (256 * s.start.log.length) (logBits s.start.log)
  | .sample | .other => (List.range Config.boundaryLen).map fun i => Config.boundaryCell s.dev.fresh i

def jtagMod (f : Jtag → Jtag) (s : State) : State := { s with jtag := f s.jtag }

/-- The test logic in reset: IDCODE is selected. -/
def resetTap (j : Jtag) : Jtag := { j with tap := .reset, op := .idcode, ir := Config.irIdcode, dr := [] }

/-- TRST_N_ASSERT (R494). -/
def execTrstNAssert (s : State) : Host.Outcome State Fault Refusal := .next (jtagMod (fun j => { resetTap j with trst := true }) s)

/-- TRST_N_RELEASE (R494). -/
def execTrstNRelease (s : State) : Host.Outcome State Fault Refusal := .next (jtagMod (fun j => { j with trst := false }) s)

/-- What a rising edge of `TCK` does in the state that it leaves: captures, shifts, or takes up an instruction. -/
def tapAction (tdi : Bool) (s : State) : State :=
  match s.jtag.tap with
  | .reset => jtagMod resetTap s
  | .capDr => takeFresh (jtagMod (fun j => { j with dr := captureDr s }) s)
  | .shDr => jtagMod (fun j => { j with dr := (j.dr ++ [tdi]).drop 1 }) s
  | .capIr => jtagMod (fun j => { j with ir := 1 }) s
  | .shIr => jtagMod (fun j => { j with ir := BitVec.ofNat 8 (j.ir.toNat / 2 + 128 * flag tdi) }) s
  | .upIr => jtagMod (fun j => { j with op := jtagOp s j.ir }) s
  | _ => s

/-- `TDO` while the TAP shifts. -/
def showTdo (s : State) : State :=
  let put (b : Bool) : State := emit (.tdo b) (jtagMod (fun j => { j with tdo := b }) s)
  match s.jtag.tap with
  | .shDr => put (s.jtag.dr.headD false)
  | .shIr => put (bit s.jtag.ir.toNat 0)
  | _ => s

/-- TCK_EDGE (R494): a rising edge, and the falling edge after it. -/
def execTckEdge (tms tdi : Bool) (s : State) : Host.Outcome State Fault Refusal :=
  if s.jtag.trst then .next s
  else .next (showTdo (jtagMod (fun j => { j with tap := tapNext j.tap tms }) (tapAction tdi s)))

end Sys2Proof.Machine
end

