-- ==== Sys2Proof/Machine/RingFlits.lean ====
section
/-! DEFINITION. Flits on the rings: the arriving slot is routed, its flit kept, turned, ejected, deflected or dropped, and a slot that is
empty is filled (R205 to R216, R222). Ring inputs and directions are numbered 0 X east, 1 X west, 2 Y east, 3 Y west; a flit that
arrives at the east port travels west. -/

namespace Sys2Proof.Machine

/-- Entries of an exit partition (R214). -/
def exitEntries : Nat := 1024

/-- The place of a turn buffer in the table of exits. -/
def exitKey (input exit part : Nat) : Nat := 16 * input + 4 * exit + part

/-- The ring direction that the turn buffer of a key feeds: exit 0 or 1 of an input leads east or west on the other ring. -/
def exitFeeds (key : Nat) : Nat := 2 * (1 - key / 16 / 2) + key / 4 % 4

/-- The partition of a flit (R214). -/
def partOf (f : Flit) : Nat := if f.admitted then 0 else 1 + flag f.slotClass

def ownPos (s : State) (d : Nat) : Nat := posOf (d / 2) (ownDev s)

/-- The direction in which a slot that travels in direction `d` leaves: at a fold it turns back (R222). -/
def outDir (s : State) (d : Nat) : Nat := if bit s.fabric.ownFolds.toNat d then opposite d else d

/-- Ring directions whose flits a slot leaving in direction `o` takes: its own, and the one that ends in a fold here. -/
def servedDirs (s : State) (o : Nat) : List Nat := if bit s.fabric.ownFolds.toNat (opposite o) then [o, opposite o] else [o]

/-- A slot that only admitted flits may fill (R210). -/
def guaranteedSlot (s : State) (d slot : Nat) : Bool := guardedRing s (d / 2) && slot % 2 == 0

/-- The bearing that a flit's `EPOCH` names. -/
def flitBearing (s : State) (f : Flit) : Bearing := if f.epoch then s.fabric.bearingB else s.fabric.bearingA

/-! ### Reassembly (R207) -/

def reasmKey (f : Flit) : Nat := f.srcDev.toNat * 2 ^ 18 + f.chunkSeq.toNat / 64

/-- Entries of the store that partial packets hold. -/
def storeUsed (s : State) : Nat := (s.fabric.store.map fun p => p.2.count).sum

/-- A flit of a partial packet goes into its place; the whole packet goes to the queue pair it names. -/
def storeFlit (port key : Nat) (p : Partial) (f : Flit) (s : State) : State :=
  let i := f.flitIndex.toNat
  let q : Partial := if p.got.contains i then p else { p with got := i :: p.got, bytes := p.bytes ++ [(i, f.payload)] }
  if q.got.length = q.count then
    let whole := (List.range q.count).flatMap fun j => ((q.bytes.find? fun b => b.1 == j).map Prod.snd).getD []
    let env : Envelope := { ipOptions := false, ipv6ExtHeader := false, fragment := false, badUdpChecksum := false, ce := false, ipv6 := false,
                            source := f.srcDev.setWidth 128, admitted := f.admitted }
    deliverPacket (32 + port) env false whole (fabMod (fun x => { x with store := tabErase x.store key }) s)
  else fabMod (fun x => { x with store := tabSet x.store key q }) s

/-- REASSEMBLY_TIMEOUT (R207): 100 µs after its first flit. -/
def execReassemblyTimeout (src tag : Nat) (s : State) : Host.Outcome State Fault Refusal :=
  whileLit s <|
  let key := src * 2 ^ 18 + tag
  match tabGet s.fabric.store key with
  | none => .next s
  | some p => .next (dropFlit (fabMod (fun x => { x with store := tabErase x.store key }) (advanceTo (p.firstAt + 100000) s)))

/-! ### Exits (R214, R215) -/

/-- The exits of an input, as reservations number them (R214): 0 and 1 the turn buffers, the ejection buffer, and the reassembly store, which
every input shares. -/
def ejectExit : Nat := 2
def storeExit : Nat := 3

/-- Entries of an exit that are in use. -/
def exitUsed (s : State) (port exit part : Nat) : Nat :=
  if exit = storeExit then storeUsed s
  else if exit = ejectExit then (tabGet s.fabric.ejectUse (exitKey port exit part)).getD 0
  else ((tabGet s.fabric.exits (exitKey port exit part)).getD []).length

/-- An exit takes a flit that needs `need` entries: what reservations hold is kept for their flits. `held`: the flit has one. -/
def exitTakes (s : State) (port exit part need : Nat) (held : Bool) : Bool :=
  let same (r : Reservation) : Bool := r.exit == exit && (exit == storeExit || (r.port == port && r.part == part))
  let kept := ((s.fabric.reservations.filter same).map fun r => r.need).sum
  decide (exitUsed s port exit part + (if held then 0 else kept) + need ≤ if exit = storeExit then Config.reasmEntries else exitEntries)

/-- What the consumers have taken from an ejection buffer since a flit last came to it is a free value (log entry 47). -/
def drainEject (key : Nat) (s : State) : State :=
  let n := (tabGet s.fabric.ejectUse key).getD 0
  takeFresh (fabMod (fun x => { x with ejectUse := tabSet x.ejectUse key (n - (Config.freeWord s.dev.fresh).toNat % (n + 1)) }) s)

/-- A flit finds its exit busy: it keeps its slot, and with a count of 2 or more it claims a reservation. -/
def deflect (port exit slot need : Nat) (f : Flit) (s : State) : State × Option Flit :=
  let n := f.deflectCount.toNat
  let r : Reservation := { port := port, exit := exit, part := partOf f, slot := slot, need := need }
  if 15 ≤ n then (dropFlit s, none)
  else (if 2 ≤ n then fabMod (fun x => { x with reservations := x.reservations ++ [r] }) s else s,
    some { f with deflectCount := BitVec.ofNat 4 (n + 1) })

/-- The direction of the second ring: the one that bit 1 of the path tag names, or the permitted alternative (R212). -/
def turnDir (e : Nat) (axis : Nat) (f : Flit) : Option Nat :=
  let base := if axis = 0 then 8 else 10
  let west := bit f.pathTag.toNat 1
  if bit e (base + flag west) then some (flag west) else if bit e (base + flag (!west)) then some (flag (!west)) else none

/-- A flit turns from input `k` into the other ring. -/
def turnFlit (k slot e : Nat) (held : Bool) (f : Flit) (s : State) : State × Option Flit :=
  let axis := 1 - k / 2
  match turnDir e axis f with
  | none => (dropFlit s, none)
  | some x =>
    let part := partOf f
    if exitTakes s k x part 1 held then
      let w : SlotWait :=
        { dir := some (2 * axis + x), since := s.dev.now, flit := { f with turned := true, slotClass := false, slotClaim := false, claimerPos := 0 } }
      let key := exitKey k x part
      (fabMod (fun y => { y with exits := tabSet y.exits key ((tabGet y.exits key).getD [] ++ [w]) }) s, none)
    else deflect k x slot 1 f s

/-- A flit of a collective reaches its consumer (Table 9-5). -/
def takeColl (f : Flit) (s : State) : State :=
  match f.type.toNat with
  | 0x20 | 0x21 => takeChunkFlit f s
  | 0x22 => if ofBe (slice f.payload 0 1) ≤ 2 then takeCollAck f s else dropFlit s
  | 0x23 => if flitLeg f ≤ 3 then takeCollAgree f s else dropFlit s
  | 0x24 => takeCollAbort f s
  | _ => dropFlit s

/-- A flit enters the ejection buffer of its input, and goes on to its consumer (R213, R214): what `take` makes of it. An admitted flit never
finds the exit busy. -/
def ejectInto (k slot : Nat) (held : Bool) (f : Flit) (take : State → State) (s : State) : State × Option Flit :=
  let key := exitKey k ejectExit (partOf f)
  let s1 := drainEject key s
  if f.admitted || exitTakes s1 k ejectExit (partOf f) 1 held then
    (take (fabMod (fun x => { x with ejectUse := tabSet x.ejectUse key ((tabGet x.ejectUse key).getD 0 + 1) }) s1), none)
  else deflect k ejectExit slot 1 f s1

/-- A flit leaves the fabric here (R213): a packet's first flit where the reassembly store has room for the whole packet (R207), any other
through the ejection buffer. -/
def ejectFlit (port k slot : Nat) (held : Bool) (f : Flit) (s : State) : State × Option Flit :=
  match f.type.toNat with
  | 0x10 =>
    let count := f.chunkSeq.toNat % 64
    let key := reasmKey f
    if count = 0 ∨ 33 < count ∨ count ≤ f.flitIndex.toNat then (dropFlit s, none)
    else
      match tabGet s.fabric.store key with
      | some p => if p.count = count then ejectInto k slot held f (storeFlit port key p f) s else (dropFlit s, none)
      | none =>
        if exitTakes s k storeExit 0 count held then
          (storeFlit port key { count := count, got := [], bytes := [], firstAt := s.dev.now } f s, none)
        else deflect k storeExit slot count f s
  | _ => ejectInto k slot held f (takeColl f) s

/-! ### The arriving flit -/

/-- Types that a ring carries (Tables 8-3, 9-5). -/
def ringType (t : Nat) : Bool := decide (t ≤ 2) || t == 0x10 || decide (0x20 ≤ t ∧ t ≤ 0x24)

/-- The RSVD bits of a payload are zero (Table 9-6): below bit `lo` of word `w` and above bit `hi`, and every word from `words` on. -/
def payloadClear (f : Flit) (w lo hi words : Nat) : Bool :=
  let x := ofBe (slice f.payload (4 * w) 4)
  bits x 0 lo == 0 && bits x (hi + 1) (31 - hi) == 0 && (f.payload.drop (4 * words)).all (· == 0)

/-- No RSVD bit of a flit on a ring is set (R206). -/
def rsvdClear (f : Flit) : Bool :=
  match f.type.toNat with
  | 0x21 => payloadClear f 1 0 15 8
  | 0x22 => payloadClear f 0 24 31 3
  | 0x23 => payloadClear f 3 0 1 4
  | 0x24 => payloadClear f 1 0 16 2
  | _ => true

/-- The action of Table 8-4 for a flit on the ring of an axis: 0 pass, 1 turn, 2 eject, 3 drop. -/
def legAction (e axis : Nat) (turned : Bool) : Nat :=
  let a := bits e (4 * axis + 2 * flag turned) 2
  if !bit e 15 || (turned && a == 1) then 3 else a

/-- Route a flit by its bearing; what it answers beside the state is the flit that keeps the slot. -/
def routeFlit (port k slot : Nat) (held : Bool) (f : Flit) (s : State) : State × Option Flit :=
  let b := flitBearing s f
  if b.mode = .idle then (dropFlit (fabMod (fun x => { x with stale := x.stale + 1 }) s), none)
  else
    let e := bearingEntry b f.destDev.toNat
    match legAction e (k / 2) f.turned with
    | 0 => (s, some f)
    | 1 => turnFlit k slot e held f s
    | 2 => ejectFlit port k slot held f s
    | _ => (dropFlit s, none)

/-- The date line marks the input (R216). -/
def crossDateline (s : State) (k : Nat) (f : Flit) : Flit :=
  match activeBearing s with
  | some (_, b) => if bit b.dateline.toNat k then { f with slotClass := true } else f
  | none => f

/-- What becomes of the contents of an arriving slot. A reservation for this slot is used now. -/
def openSlot (port k slot : Nat) (f : Flit) (s : State) : State × Option Flit :=
  let mine (r : Reservation) : Bool := r.port == k && r.slot == slot
  let held := s.fabric.reservations.any mine
  let s1 := fabMod (fun x => { x with reservations := x.reservations.filter fun r => !mine r }) s
  match f.type.toNat with
  | 0x00 => (s1, none)
  | 0x01 => (takeMarker port f.chunkSeq.toNat f s1, none)
  | 0x02 => (takeStatus port f s1, none)
  | _ => routeFlit port k slot held (crossDateline s1 k f) s1

/-! ### Filling a slot (R209 to R212, R216) -/

/-- The direction in which a waiting flit of this device enters a ring. -/
def waitDir (s : State) (w : SlotWait) : Option Nat :=
  match activeBearing s with
  | none => none
  | some (_, b) => match w.dir with | some d => some d | none => injectDirection b w.flit.destDev.toNat w.flit.pathTag.toNat

/-- A waiting flit that the active bearing permits no direction is dropped and counted (R212). -/
def purgeInject (s : State) : State :=
  if (activeBearing s).isNone then s
  else
    let keep := s.fabric.inject.filter fun w => (waitDir s w).isSome
    fabMod (fun x => { x with inject := keep, dropped := x.dropped + (x.inject.length - keep.length) }) s

/-- A turned-back flit: none where it would reach the device beyond the fold, or its count would pass 15 (R222). -/
def reverseFlit (s : State) (d : Nat) (f : Flit) : Option Flit :=
  let axis := d / 2
  let line := lineOf axis (ownDev s)
  let beyond := devAt axis line (nextPos (present s (flitBearing s f) axis line) (bit d 0) (posOf axis (ownDev s)))
  if f.destDev.toNat = beyond ∨ 15 ≤ f.deflectCount.toNat then none
  else some { f with reversed := true, deflectCount := f.deflectCount + 1, slotClass := true }

/-- What leaves in the slot: where it comes from, the direction it wants, and the flit. -/
inductive Filler where
  | flood (w : SlotWait)
  | turn (key : Nat) (w : SlotWait)
  | inject (w : SlotWait)
deriving DecidableEq, Repr

/-- Heads of the turn buffers that feed a slot. -/
def turnHeads (s : State) (dirs : List Nat) : List (Nat × SlotWait) :=
  s.fabric.exits.filterMap fun p => if dirs.contains (exitFeeds p.1) then p.2.head?.map fun w => (p.1, w) else none

/-- Of several heads the one that has waited longest (log entry 53). -/
def oldestHead (l : List Filler) : Option Filler :=
  let since (x : Filler) : Nat := match x with | .flood w => w.since | .turn _ w => w.since | .inject w => w.since
  l.foldl (fun m p => match m with | some q => if since p < since q then some p else m | none => some p) none

/-- `MARKER` and `RING_STATUS` flits take guaranteed slots where the ring has those (R219). -/
def floodHeads (s : State) (o slot : Nat) : List Filler :=
  if guardedRing s (o / 2) && slot % 2 != 0 then []
  else ((s.fabric.flood.filter fun w => w.dir == some o).head?.map Filler.flood).toList

/-- Of the admitted flits of this device the first of the highest class (R192, Table 7-1). -/
def firstAdmitted (l : List SlotWait) : Option SlotWait :=
  [7, 6, 5, 4, 3, 2, 1, 0].findSome? fun tc => l.find? fun w => w.flit.admitted && w.flit.tc.toNat == tc

/-- The flit that fills an empty slot (R209): a turn buffer's head, then an admitted flit of this device, then another. -/
def pickFiller (s : State) (o slot : Nat) : Option Filler :=
  let dirs := servedDirs s o
  let only := guaranteedSlot s o slot
  let wants (w : SlotWait) : Bool := match waitDir s w with | some d => dirs.contains d | none => false
  let turns := ((turnHeads s dirs).filter fun p => !only || p.2.flit.admitted).map fun p => Filler.turn p.1 p.2
  match oldestHead (floodHeads s o slot ++ turns) with
  | some x => some x
  | none =>
    match firstAdmitted (s.fabric.inject.filter wants) with
    | some w => some (.inject w)
    | none => if only then none else (s.fabric.inject.find? wants).map Filler.inject

/-- Send a slot on: a ring port that is not up loses what it would carry. -/
def sendSlot (o : Nat) (f : Flit) (s : State) : State :=
  match ringPort s o with
  | some p => if p.2.active then sendFlit p.1 (stampFlit f) s else if f.type = 0 then s else dropFlit s
  | none => if f.type = 0 then s else dropFlit s

/-- A flit of this device or of a turn buffer enters the slot. -/
def enterSlot (o d : Nat) (f : Flit) (s : State) : State :=
  if d = o then sendSlot o f s
  else match reverseFlit s d f with
    | some g => sendSlot o g s
    | none => sendSlot o (emptyFlit false 0) (dropFlit s)

/-- An empty slot leaves in direction `o`: one that another device claims passes on; otherwise it is filled, and a claim of this device
ends (R209, R211). -/
def fillSlot (o slot : Nat) (claim : Bool) (pos : BitVec 6) (s : State) : State :=
  if claim && pos.toNat != ownPos s o then sendSlot o (emptyFlit true pos) s
  else
    let s1 := purgeInject (if claim then fabMod (fun x => { x with claims := tabErase x.claims o }) s else s)
    match pickFiller s1 o slot with
    | none => sendSlot o (emptyFlit false 0) s1
    | some (.flood w) => finishCommits (sendSlot o w.flit (fabMod (fun x => { x with flood := x.flood.erase w }) s1))
    | some (.turn key w) =>
      enterSlot o (exitFeeds key) w.flit (fabMod (fun x => { x with exits := tabMod x.exits key List.tail }) s1)
    | some (.inject w) =>
      let epoch := match activeBearing s1 with | some (b, _) => b | none => false
      enterSlot o ((waitDir s1 w).getD o) { w.flit with epoch := epoch, slotClass := false }
        (fabMod (fun x => { x with inject := x.inject.erase w }) s1)

/-- A flit that waits for a slot in direction `o` and may fill slot `slot`: since when the longest has waited. -/
def waitingSince (s : State) (o slot : Nat) : Option Nat :=
  let dirs := servedDirs s o
  let only := guaranteedSlot s o slot
  let may (w : SlotWait) : Bool := !only || w.flit.admitted
  let turns := (s.fabric.exits.filter fun p => dirs.contains (exitFeeds p.1)).flatMap fun p => p.2
  let own := s.fabric.inject.filter fun w => match waitDir s w with | some d => dirs.contains d | none => false
  let floods := if (floodHeads s o slot).isEmpty then [] else s.fabric.flood.filter fun w => w.dir == some o
  (floods ++ (turns ++ own).filter may).foldl (fun m w => some (min w.since (m.getD w.since))) none

/-- A lap of the ring of direction `o`, in ns, as the clock first shows that it is over. -/
def lapNs (s : State) (o : Nat) : Nat := ceilDiv (lapTenths s (o / 2)) 10000

/-- This device claims the passing full slot (R211). -/
def claims (s : State) (o slot : Nat) : Bool :=
  (tabGet s.fabric.claims o).isNone &&
  (match waitingSince s o slot with
   | some t => decide (t + lapNs s o ≤ s.dev.now)
   | none => false)

/-- A flit keeps its slot; the claim on the slot goes with it. -/
def passFlit (o slot : Nat) (f : Flit) (s : State) : State :=
  if !f.slotClaim && claims s o slot then
    sendSlot o { f with slotClaim := true, claimerPos := BitVec.ofNat 6 (ownPos s o) }
      (fabMod (fun x => { x with claims := tabSet x.claims o slot }) s)
  else sendSlot o f s

/-- A slot has arrived at the ring port `port` of direction `k`, holding `f`. -/
def ringArrive (port k slot : Nat) (f : Flit) (s : State) : State :=
  let s0 := hearFlit port s
  let d := opposite k
  if !(flitSound f && ringType f.type.toNat && rsvdClear f) then
    let s1 := dropFlit s0
    fillSlot (outDir s1 d) slot false 0 s1
  else
    let r := openSlot port k slot f s0
    let o := outDir r.1 d
    match r.2 with
    | none => fillSlot o slot f.slotClaim f.claimerPos r.1
    | some g =>
      if o = d then passFlit o slot g r.1
      else match reverseFlit r.1 d g with
        | some h => passFlit o slot h r.1
        | none => fillSlot o slot f.slotClaim f.claimerPos (dropFlit r.1)

/-- The direction of a port that holds a ring role and is up. -/
def ringInput (s : State) (port : Nat) : Option Nat :=
  match portGet s port with
  | some x => if isRingRole x.role && x.active then some (dirOf x.role) else none
  | none => none

/-- RING_FLIT_ARRIVE (R203, R205 to R216, R222). -/
def execRingFlitArrive (port slot : Nat) (f : Flit) (s : State) : Host.Outcome State Fault Refusal :=
  whileLit s <|
  match ringInput s port with
  | none => .next s
  | some k => .next (ringArrive port k slot f s)

/-- SLOT_CLAIM (R211): the next full slot without a claim passes after a flit has waited one lap. -/
def execSlotClaim (port slot : Nat) (f : Flit) (s : State) : Host.Outcome State Fault Refusal :=
  whileLit s <|
  match ringInput s port with
  | none => .next s
  | some k =>
    let o := outDir s (opposite k)
    match waitingSince s o slot with
    | none => .next s
    | some t =>
      if f.type = 0 ∨ f.slotClaim ∨ (tabGet s.fabric.claims o).isSome then .next s
      else .next (ringArrive port k slot f (advanceTo (t + lapNs s o) s))

end Sys2Proof.Machine
end

