-- ==== Sys2Proof/Machine/Doorbell.lean ====
section
/-! DEFINITION. Commands from their slots: the scan of a command ring (R39, R42, R44, R75), the helm stream (R366, R368, R369), and the end
of a firmware restart, after which what waited goes on (R452). -/

namespace Sys2Proof.Machine

/-! ### The opcode tables -/

def opcodes1 : List (Nat × (Cmd → State → Host.Outcome State Fault Refusal)) :=
  [(specDevQuery.opcode, execDevQuery),
   (specDevProfile.opcode, execDevProfile),
   (specDevTime.opcode, execDevTime),
   (specDevReset.opcode, execDevReset),
   (specDevPps.opcode, execDevPps),
   (specFnQuery.opcode, execFnQuery),
   (specFnStop.opcode, execFnStop),
   (specFnStart.opcode, (fun c => execFnStart c [])),
   (specFnReset.opcode, (fun c => execFnReset c [])),
   (specFnAttach.opcode, execFnAttach),
   (specFnLevel.opcode, execFnLevel),
   (specFnRetain.opcode, execFnRetain),
   (specMrSpace.opcode, execMrSpace),
   (specMrRegister.opcode, execMrRegister)]

def opcodes2 : List (Nat × (Cmd → State → Host.Outcome State Fault Refusal)) :=
  [(specMrDeregister.opcode, execMrDeregister),
   (specMrRekey.opcode, execMrRekey),
   (specMrQuery.opcode, execMrQuery),
   (specMrMap.opcode, execMrMap),
   (specMrUnmap.opcode, execMrUnmap),
   (specMrSync.opcode, execMrSync),
   (specMrFaultReply.opcode, execMrFaultReply),
   (specMrBar4Open.opcode, execMrBar4Open),
   (specMrBar4Close.opcode, execMrBar4Close),
   (specMrSpurGrant.opcode, execMrSpurGrant),
   (specQpCreate.opcode, execQpCreate),
   (specQpConnect.opcode, execQpConnect),
   (specQpQuery.opcode, execQpQuery),
   (specQpReset.opcode, execQpReset)]

def opcodes3 : List (Nat × (Cmd → State → Host.Outcome State Fault Refusal)) :=
  [(specQpDestroy.opcode, execQpDestroy),
   (specQpAdmit.opcode, execQpAdmit),
   (specQpRelease.opcode, execQpRelease),
   (specQpAdmitQuery.opcode, execQpAdmitQuery),
   (specSrqCreate.opcode, execSrqCreate),
   (specSrqDestroy.opcode, execSrqDestroy),
   (specEhtPort.opcode, execEhtPort),
   (specEhtAddr.opcode, execEhtAddr),
   (specRingSqCreate.opcode, execRingSqCreate),
   (specRingCqCreate.opcode, execRingCqCreate),
   (specRingSched.opcode, execRingSched),
   (specRingModerate.opcode, execRingModerate),
   (specRingDestroy.opcode, execRingDestroy),
   (specRingRetry.opcode, execRingRetry)]

def opcodes4 : List (Nat × (Cmd → State → Host.Outcome State Fault Refusal)) :=
  [(specRingQuota.opcode, execRingQuota),
   (specHostWatchdog.opcode, execHostWatchdog),
   (specCcClass.opcode, execCcClass),
   (specQosShare.opcode, execQosShare),
   (specSchedTc.opcode, execSchedTc),
   (specSchedQp.opcode, execSchedQp),
   (specShaperSet.opcode, execShaperSet),
   (specPolicerSet.opcode, execPolicerSet),
   (specSndRing.opcode, execSndRing),
   (specSndAdd.opcode, execSndAdd),
   (specSndRemove.opcode, execSndRemove),
   (specCntRead.opcode, execCntRead),
   (specCntNotify.opcode, execCntNotify),
   (specEthPortSet.opcode, execEthPortSet)]

def opcodes5 : List (Nat × (Cmd → State → Host.Outcome State Fault Refusal)) :=
  [(specEthPortQuery.opcode, execEthPortQuery),
   (specEthPfc.opcode, execEthPfc),
   (specEthFrames.opcode, execEthFrames),
   (specEthFrameSend.opcode, execEthFrameSend),
   (specEthMcast.opcode, execEthMcast),
   (specHelmSet.opcode, execHelmSet),
   (specHelmQuery.opcode, execHelmQuery),
   (specCollSetup.opcode, execCollSetup),
   (specCollTeardown.opcode, execCollTeardown),
   (specCollQuery.opcode, execCollQuery),
   (specCollAbort.opcode, execCollAbortCmd),
   (specPoolCreate.opcode, execKvPoolCreate),
   (specPoolDestroy.opcode, execKvPoolDestroy),
   (specPoolQuery.opcode, execKvPoolQuery)]

def opcodes6 : List (Nat × (Cmd → State → Host.Outcome State Fault Refusal)) :=
  [(specSeal.opcode, execKvSeal),
   (specUserReset.opcode, execKvUserReset),
   (specUserPin.opcode, execKvUserPin),
   (specUserUnpin.opcode, execKvUserUnpin),
   (specPartner.opcode, execKvPartner),
   (specPwrGrant.opcode, execPwrGrant),
   (specPwrFallback.opcode, execPwrFallback),
   (specPwrQuery.opcode, execPwrQuery),
   (specPwrLearn.opcode, execPwrLearn),
   (specSecIdentity.opcode, execSecIdentity),
   (specSecAttest.opcode, execSecAttest),
   (specSecKemOffer.opcode, execSecKemOffer),
   (specSecKemAccept.opcode, execSecKemAccept),
   (specSecKemFinish.opcode, execSecKemFinish)]

def opcodes7 : List (Nat × (Cmd → State → Host.Outcome State Fault Refusal)) :=
  [(specSecAccordDrop.opcode, execSecAccordDrop),
   (specSecQpSeal.opcode, execSecQpSeal),
   (specSecQpRekey.opcode, execSecQpRekey),
   (specSecQpQuery.opcode, execSecQpQuery),
   (specSecFwBegin.opcode, execSecFwBegin),
   (specSecFwChunk.opcode, execSecFwChunk),
   (specSecFwCommit.opcode, execSecFwCommit),
   (specSecSelftest.opcode, execSecSelftest),
   (specSecZeroize.opcode, execSecZeroize),
   (specSecOfficer.opcode, execSecOfficer),
   (specSecLogin.opcode, execSecLogin),
   (specFabIdent.opcode, execFabIdent),
   (specFabPortSet.opcode, execFabPortSet),
   (specFabPortQuery.opcode, execFabPortQuery)]

def opcodes8 : List (Nat × (Cmd → State → Host.Outcome State Fault Refusal)) :=
  [(specFabRingQuery.opcode, execFabRingQuery),
   (specSpurStream.opcode, execSpurStream),
   (specRouteWrite.opcode, execRouteWrite),
   (specRouteArm.opcode, execRouteArm),
   (specRouteDisarm.opcode, execRouteDisarm),
   (specRouteCommit.opcode, execRouteCommit),
   (specRouteQuery.opcode, execRouteQuery),
   (specRouteDrain.opcode, execRouteDrain),
   (specDiagResults.opcode, execDiagResults),
   (specDiagSelftest.opcode, execDiagSelftest),
   (specDiagInventory.opcode, execDiagInventory),
   (specDiagLoopback.opcode, execDiagLoopback),
   (specFaultQuery.opcode, execFaultQuery),
   (specFaultAck.opcode, execFaultAck)]
/-- Every opcode that silicon revision B0 assigns, with what runs it. The entries that `fn.start` and the heads that `fn.reset` would read
come with those rows alone. -/
def opcodeTable : List (Nat × (Cmd → State → Host.Outcome State Fault Refusal)) :=
  opcodes1 ++ opcodes2 ++ opcodes3 ++ opcodes4 ++ opcodes5 ++ opcodes6 ++ opcodes7 ++ opcodes8

/-- An opcode that is not assigned: only the slot format is judged before it (R50). -/
def specUnassigned (opcode : Nat) : CmdSpec := { opcode := opcode, issuer := .any, cls := .any, fields := [] }

def runUnassigned (opcode : Nat) (c : Cmd) (s : State) : State :=
  let sp := specUnassigned opcode
  if takesCommand sp c s then
    settleCmd opcode c (cmdFail (consumeSlot c s) (if formatBad c then .invalidParam else .invalidOpcode))
  else runCmd sp (fun _ t => cmdOk t) c s

/-- Read and run the command of an opcode. -/
def runOpcode (opcode : Nat) (c : Cmd) (s : State) : State :=
  match opcodeTable.find? fun p => p.1 == opcode with
  | some p => (match p.2 c s with | .next t => t | .fault _ => s | .refused _ => s)
  | none => runUnassigned opcode c s

/-! ### Slots -/

/-- The slot at `CMD_CONSUMED` is owned when its `PHASE` is that of the lap (R39, R72). -/
def slotOwned (ch : Channel) (w : W512) : Bool := slotPhase w == ownedPhase ch.consumed.toNat (bits ch.ringSizes.toNat 0 5)

/-- A scan of the command ring has read a slot that is not owned: within 2 µs of the latest doorbell that arms four re-reads (R39, R76). -/
def endScan (fn : Nat) (s : State) : State :=
  chanMod fn (fun ch =>
    { ch with scanning := false, rereads := if s.dev.now ≤ ch.doorbellAt + 2000 then 4 else 0, rereadAt := s.dev.now + 2000 }) s

/-- A scan of the command ring of `fn` finds these slots from `CMD_CONSUMED` on: each owned one is read and run while the channel reads,
and the scan ends at the first that is not. -/
def scanCommands (fn : Nat) (l : List SlotRead) (s : State) : State :=
  match l with
  | [] => s
  | x :: rest =>
    match fnGet s fn with
    | none => s
    | some f =>
      if f.channel.mode ≠ .ready ∨ f.channel.scanning = false then s
      else if !slotOwned f.channel x.slot then endScan fn s
      else
        let t := runOpcode (slotOpcode x.slot) (slotCmd (.ring fn) x.slot x.buffer) s
        match fnGet t fn with
        | some g => if g.channel.consumed = f.channel.consumed then t else scanCommands fn rest t
        | none => t

/-- CMD_DOORBELL (R39, R85, R114): the value has no meaning; the watchdog starts again, and `FQ_HEAD` is read where records wait. -/
def execCmdDoorbell (fn : Nat) (slots : List SlotRead) (fqHead : Option W32) (s : State) : Host.Outcome State Fault Refusal :=
  if pageOpen s fn then
    let s1 := touchWatchdog fn (hearHost s)
    let s2 := match fqHead with
      | some h => if dmaBarred s1 fn then s1 else readFqHead fn h s1
      | none => s1
    .next (scanCommands fn slots (startScan fn s2))
  else .next s

/-- REPLY_HEAD_WRITE (R44): reading that had stopped for want of reply entries resumes once there are 2 + D. -/
def execReplyHeadWrite (fn : Nat) (value : W32) (slots : List SlotRead) (s : State) : Host.Outcome State Fault Refusal :=
  if pageOpen s fn then .next (scanCommands fn slots (takeReplyHead fn (value.toNat % 2 ^ 32) (hearHost s))) else .next s

/-- The command ring is read again (R39, R76): a scan under way goes on, or the slot that was not owned is read again every 2 µs. -/
def rereadCommands (fn : Nat) (slots : List SlotRead) (s : State) : State :=
  match fnGet s fn with
  | none => s
  | some f =>
    let ch := f.channel
    if ch.mode ≠ .ready then s
    else if ch.rereads = 0 then scanCommands fn slots s
    else
      let next (k : Nat) (on : Bool) : State :=
        advanceTo ch.rereadAt (chanMod fn (fun c => { c with rereads := k, rereadAt := c.rereadAt + 2000, scanning := on }) s)
      match slots with
      | x :: _ => if slotOwned ch x.slot then scanCommands fn slots (next 0 true) else next (ch.rereads - 1) false
      | [] => next (ch.rereads - 1) false

/-- RING_REREAD (R39, R76). -/
def execRingReread (fn ring : Nat) (found : Reread) (s : State) : Host.Outcome State Fault Refusal :=
  match found with
  | .entries l => whileLit s (.next (rereadRing fn ring l s))
  | .commands slots => .next (rereadCommands fn slots s)

/-! ### The helm stream (R366, R368, R369) -/

/-- Run a helm command that was taken in. -/
def runHelm (f : HelmFrame) (s : State) : State := runOpcode (slotOpcode f.slot) (slotCmd (.helm f.src f.seq) f.slot none) s

/-- Count a good frame to this device. -/
def countHelmRx (n : Nat) (s : State) : State :=
  countHelm (7 + sizeClass n) 1 (countHelm 2 1 (countHelm 1 n (countHelm 0 1 s)))

/-- The helm MAC takes the command (R369); in ROM recovery every opcode is answered (R398, R479). -/
def helmTakes (f : HelmFrame) (s : State) : Bool :=
  let op := slotOpcode f.slot
  (s.dev.life == .romRecovery || op == 0x0103 || op / 256 == 7) && !bit f.slot.toNat 56 &&
  (s.helm.allow.isEmpty || s.helm.allow.contains f.src) && decide (helmWaiting s < 16)

/-- No firmware reads a helm command now: it waits in the helm island, which answers from early in a start on (R452, R495, log entry 112). -/
def helmHolds (s : State) : Bool := s.dev.life == .fwRestart || isStarting s || s.dev.life == .waitingRefs

/-- HELM_COMMAND (R369). -/
def execHelmCommand (f : HelmFrame) (s : State) : Host.Outcome State Fault Refusal :=
  if !(lit s || s.dev.life == .romRecovery || helmHolds s) then .next s
  else if 1518 < f.length then .next (countHelm 18 1 s)
  else if f.length < 64 then .next (countHelm 17 1 s)
  else
    let s1 := countHelmRx f.length s
    if f.kind ≠ 1 then .next (countHelm 21 1 s1)
    else if !helmTakes f s1 then .next (countHelm 53 1 s1)
    else if helmHolds s1 then .next (helmMod (fun h => { h with waiting := h.waiting ++ [f] }) s1)
    else .next (runHelm f s1)

/-- Helm commands that waited run in the order in which they came. -/
def drainHelm (s : State) : State := s.helm.waiting.foldl (fun t f => runHelm f t) (helmMod (fun h => { h with waiting := [] }) s)

/-- FW_RESTART_COMPLETE (R452): within 120 ms of the trigger. An image that does not verify leaves the device in ROM recovery (R397,
R398); otherwise the queued fault records are written, and commands are read again. -/
def execFwRestartComplete (verified : Bool) (s : State) : Host.Outcome State Fault Refusal :=
  if s.dev.life = .fwRestart then
    let took := (Config.freeWord s.dev.fresh).toNat % 120001
    let s1 := takeFresh (advanceTo (s.dev.lastLiveness + 100000000 + 1000 * took) s)
    if verified then
      let now := s1.dev.now
      let s2 := devMod (fun d => { d with life := .running, lastLiveness := now, ticks := { d.ticks with heartbeat := now } }) s1
      .next (drainHelm ((s2.spaces.map Prod.fst).foldl (fun t p => pumpPartition p t) s2))
    else .next (drainHelm (devMod (fun d => { d with life := .romRecovery }) s1))
  else .next s

/-! ### The end of a start (R451, R453) -/

/-- START_COMPLETE (R453): step 14 of Table 17-3, within 430 ms of the rails being in tolerance, of which the device is in device reset for
2 ms; within 428 ms of the reset of `diag.selftest`. -/
def execStartComplete (imageOk : Bool) (crypto : W64) (s : State) : Host.Outcome State Fault Refusal :=
  if s.dev.life = .starting then
    .next (drainHelm (if s.start.kind = .cold then endStart imageOk crypto 430000 2000 id s else endStart imageOk crypto 428000 0 id s))
  else .next s

/-- RESTART_COMPLETE (R451): step 12 of Table 17-4, within 309.5 ms of the reset. -/
def execRestartComplete (imageOk : Bool) (crypto : W64) (s : State) : Host.Outcome State Fault Refusal :=
  if s.dev.life = .restarting then .next (drainHelm (endStart imageOk crypto 309500 0 restartWork s)) else .next s

end Sys2Proof.Machine
end

