-- ==== Sys2Proof/Machine/Dispatch.lean ====
section
/-! DEFINITION. The meaning of every command: one arm for each row of the opcode table. -/

namespace Sys2Proof.Machine

/-- The effect of a command on everything but the queue. -/
def exec (i : Instr) (s : State) : Host.Outcome State Fault Refusal :=
  match i with
  | .devQuery c => Sys2Proof.Machine.execDevQuery c s
  | .devProfile c => Sys2Proof.Machine.execDevProfile c s
  | .profileTakesEffect => Sys2Proof.Machine.execProfileTakesEffect s
  | .devTime c => Sys2Proof.Machine.execDevTime c s
  | .devReset c => Sys2Proof.Machine.execDevReset c s
  | .devPps c => Sys2Proof.Machine.execDevPps c s
  | .fnQuery c => Sys2Proof.Machine.execFnQuery c s
  | .fnStop c => Sys2Proof.Machine.execFnStop c s
  | .fnStopQuiesced fn => Sys2Proof.Machine.execFnStopQuiesced fn s
  | .fnStart c found => Sys2Proof.Machine.execFnStart c found s
  | .fnReset c heads => Sys2Proof.Machine.execFnReset c heads s
  | .fnResetComplete fn => Sys2Proof.Machine.execFnResetComplete fn s
  | .fnAttach c => Sys2Proof.Machine.execFnAttach c s
  | .fnLevel c => Sys2Proof.Machine.execFnLevel c s
  | .fnRetain c => Sys2Proof.Machine.execFnRetain c s
  | .mrSpace c => Sys2Proof.Machine.execMrSpace c s
  | .mrRegister c => Sys2Proof.Machine.execMrRegister c s
  | .mrDeregister c => Sys2Proof.Machine.execMrDeregister c s
  | .mrDeregisterDone key => Sys2Proof.Machine.execMrDeregisterDone key s
  | .mrRekey c => Sys2Proof.Machine.execMrRekey c s
  | .mrQuery c => Sys2Proof.Machine.execMrQuery c s
  | .mrMap c => Sys2Proof.Machine.execMrMap c s
  | .mrUnmap c => Sys2Proof.Machine.execMrUnmap c s
  | .mrSync c => Sys2Proof.Machine.execMrSync c s
  | .mrSyncDone fn => Sys2Proof.Machine.execMrSyncDone fn s
  | .mrFaultReply c => Sys2Proof.Machine.execMrFaultReply c s
  | .mrBar4Open c => Sys2Proof.Machine.execMrBar4Open c s
  | .mrBar4Close c => Sys2Proof.Machine.execMrBar4Close c s
  | .mrSpurGrant c => Sys2Proof.Machine.execMrSpurGrant c s
  | .spurRevokeDone fn => Sys2Proof.Machine.execSpurRevokeDone fn s
  | .qpCreate c => Sys2Proof.Machine.execQpCreate c s
  | .qpConnect c => Sys2Proof.Machine.execQpConnect c s
  | .qpQuery c => Sys2Proof.Machine.execQpQuery c s
  | .qpReset c => Sys2Proof.Machine.execQpReset c s
  | .qpResetDone qp => Sys2Proof.Machine.execQpResetDone qp s
  | .qpDestroy c => Sys2Proof.Machine.execQpDestroy c s
  | .qpDestroyDone qp => Sys2Proof.Machine.execQpDestroyDone qp s
  | .qpAdmit c => Sys2Proof.Machine.execQpAdmit c s
  | .qpRelease c => Sys2Proof.Machine.execQpRelease c s
  | .qpAdmitQuery c => Sys2Proof.Machine.execQpAdmitQuery c s
  | .srqCreate c => Sys2Proof.Machine.execSrqCreate c s
  | .srqDestroy c => Sys2Proof.Machine.execSrqDestroy c s
  | .ehtPort c => Sys2Proof.Machine.execEhtPort c s
  | .ehtAddr c => Sys2Proof.Machine.execEhtAddr c s
  | .ringSqCreate c => Sys2Proof.Machine.execRingSqCreate c s
  | .ringCqCreate c => Sys2Proof.Machine.execRingCqCreate c s
  | .ringSched c => Sys2Proof.Machine.execRingSched c s
  | .ringModerate c => Sys2Proof.Machine.execRingModerate c s
  | .ringDestroy c => Sys2Proof.Machine.execRingDestroy c s
  | .ringRetry c => Sys2Proof.Machine.execRingRetry c s
  | .ringQuota c => Sys2Proof.Machine.execRingQuota c s
  | .hostWatchdog c => Sys2Proof.Machine.execHostWatchdog c s
  | .ccClass c => Sys2Proof.Machine.execCcClass c s
  | .qosShare c => Sys2Proof.Machine.execQosShare c s
  | .schedTc c => Sys2Proof.Machine.execSchedTc c s
  | .schedQp c => Sys2Proof.Machine.execSchedQp c s
  | .shaperSet c => Sys2Proof.Machine.execShaperSet c s
  | .policerSet c => Sys2Proof.Machine.execPolicerSet c s
  | .sndRing c => Sys2Proof.Machine.execSndRing c s
  | .sndAdd c => Sys2Proof.Machine.execSndAdd c s
  | .sndRemove c => Sys2Proof.Machine.execSndRemove c s
  | .cntRead c => Sys2Proof.Machine.execCntRead c s
  | .cntNotify c => Sys2Proof.Machine.execCntNotify c s
  | .ethPortSet c => Sys2Proof.Machine.execEthPortSet c s
  | .ethPortQuery c => Sys2Proof.Machine.execEthPortQuery c s
  | .ethPfc c => Sys2Proof.Machine.execEthPfc c s
  | .ethFrames c => Sys2Proof.Machine.execEthFrames c s
  | .ethFrameSend c => Sys2Proof.Machine.execEthFrameSend c s
  | .ethMcast c => Sys2Proof.Machine.execEthMcast c s
  | .helmSet c => Sys2Proof.Machine.execHelmSet c s
  | .helmQuery c => Sys2Proof.Machine.execHelmQuery c s
  | .collSetup c => Sys2Proof.Machine.execCollSetup c s
  | .fathomReservationGrant => Sys2Proof.Machine.execFathomReservationGrant s
  | .collSetupReady slot records => Sys2Proof.Machine.execCollSetupReady slot records s
  | .collSetupTimeout slot => Sys2Proof.Machine.execCollSetupTimeout slot s
  | .collTeardown c => Sys2Proof.Machine.execCollTeardown c s
  | .collTeardownDone slot => Sys2Proof.Machine.execCollTeardownDone slot s
  | .collQuery c => Sys2Proof.Machine.execCollQuery c s
  | .collAbortCmd c => Sys2Proof.Machine.execCollAbortCmd c s
  | .kvPoolCreate c => Sys2Proof.Machine.execKvPoolCreate c s
  | .kvPoolDestroy c => Sys2Proof.Machine.execKvPoolDestroy c s
  | .kvPoolDestroyDone pool => Sys2Proof.Machine.execKvPoolDestroyDone pool s
  | .kvPoolQuery c => Sys2Proof.Machine.execKvPoolQuery c s
  | .kvSeal c => Sys2Proof.Machine.execKvSeal c s
  | .kvSealDone pool user => Sys2Proof.Machine.execKvSealDone pool user s
  | .kvUserReset c => Sys2Proof.Machine.execKvUserReset c s
  | .kvUserPin c => Sys2Proof.Machine.execKvUserPin c s
  | .kvUserPinDone pool user => Sys2Proof.Machine.execKvUserPinDone pool user s
  | .kvUserUnpin c => Sys2Proof.Machine.execKvUserUnpin c s
  | .kvUserUnpinDone pool user => Sys2Proof.Machine.execKvUserUnpinDone pool user s
  | .kvPartner c => Sys2Proof.Machine.execKvPartner c s
  | .pwrGrant c => Sys2Proof.Machine.execPwrGrant c s
  | .pwrFallback c => Sys2Proof.Machine.execPwrFallback c s
  | .pwrQuery c => Sys2Proof.Machine.execPwrQuery c s
  | .pwrLearn c => Sys2Proof.Machine.execPwrLearn c s
  | .secIdentity c => Sys2Proof.Machine.execSecIdentity c s
  | .secAttest c => Sys2Proof.Machine.execSecAttest c s
  | .secKemOffer c => Sys2Proof.Machine.execSecKemOffer c s
  | .secKemAccept c => Sys2Proof.Machine.execSecKemAccept c s
  | .secKemFinish c => Sys2Proof.Machine.execSecKemFinish c s
  | .secAccordDrop c => Sys2Proof.Machine.execSecAccordDrop c s
  | .secQpSeal c => Sys2Proof.Machine.execSecQpSeal c s
  | .secQpRekey c => Sys2Proof.Machine.execSecQpRekey c s
  | .secQpQuery c => Sys2Proof.Machine.execSecQpQuery c s
  | .secFwBegin c => Sys2Proof.Machine.execSecFwBegin c s
  | .secFwChunk c => Sys2Proof.Machine.execSecFwChunk c s
  | .secFwCommit c => Sys2Proof.Machine.execSecFwCommit c s
  | .secFwCommitDone => Sys2Proof.Machine.execSecFwCommitDone s
  | .secSelftest c => Sys2Proof.Machine.execSecSelftest c s
  | .secSelftestDone failing => Sys2Proof.Machine.execSecSelftestDone failing s
  | .secZeroize c => Sys2Proof.Machine.execSecZeroize c s
  | .secZeroizeDone => Sys2Proof.Machine.execSecZeroizeDone s
  | .secOfficer c => Sys2Proof.Machine.execSecOfficer c s
  | .secLogin c => Sys2Proof.Machine.execSecLogin c s
  | .fabIdent c => Sys2Proof.Machine.execFabIdent c s
  | .fabPortSet c => Sys2Proof.Machine.execFabPortSet c s
  | .fabPortQuery c => Sys2Proof.Machine.execFabPortQuery c s
  | .fabRingQuery c => Sys2Proof.Machine.execFabRingQuery c s
  | .spurStream c => Sys2Proof.Machine.execSpurStream c s
  | .routeWrite c => Sys2Proof.Machine.execRouteWrite c s
  | .routeArm c => Sys2Proof.Machine.execRouteArm c s
  | .routeDisarm c => Sys2Proof.Machine.execRouteDisarm c s
  | .routeCommit c => Sys2Proof.Machine.execRouteCommit c s
  | .routeQuery c => Sys2Proof.Machine.execRouteQuery c s
  | .routeDrain c => Sys2Proof.Machine.execRouteDrain c s
  | .diagResults c => Sys2Proof.Machine.execDiagResults c s
  | .diagSelftest c => Sys2Proof.Machine.execDiagSelftest c s
  | .diagInventory c => Sys2Proof.Machine.execDiagInventory c s
  | .diagLoopback c => Sys2Proof.Machine.execDiagLoopback c s
  | .diagLoopbackDone bits worstErrors worstLane => Sys2Proof.Machine.execDiagLoopbackDone bits worstErrors worstLane s
  | .faultQuery c => Sys2Proof.Machine.execFaultQuery c s
  | .faultAck c => Sys2Proof.Machine.execFaultAck c s
  | .channelEnable fn value => Sys2Proof.Machine.execChannelEnable fn value s
  | .channelDisable fn value => Sys2Proof.Machine.execChannelDisable fn value s
  | .channelDownComplete fn => Sys2Proof.Machine.execChannelDownComplete fn s
  | .cmdDoorbell fn slots fqHead => Sys2Proof.Machine.execCmdDoorbell fn slots fqHead s
  | .replyHeadWrite fn value slots => Sys2Proof.Machine.execReplyHeadWrite fn value slots s
  | .registerWrite fn place width value => Sys2Proof.Machine.execRegisterWrite fn place width value s
  | .sqDoorbell fn offset width value entries head => Sys2Proof.Machine.execSqDoorbell fn offset width value entries head s
  | .sqDoorbellLevel1 fn offset width value entries head => Sys2Proof.Machine.execSqDoorbellLevel1 fn offset width value entries head s
  | .ringReread fn ring found => Sys2Proof.Machine.execRingReread fn ring found s
  | .entryAccept fn ring => Sys2Proof.Machine.execEntryAccept fn ring s
  | .journalBackpressureRelease pair => Sys2Proof.Machine.execJournalBackpressureRelease pair s
  | .nop rec => Sys2Proof.Machine.execNop rec s
  | .workWrite rec => Sys2Proof.Machine.execWorkWrite rec s
  | .workWriteImm rec => Sys2Proof.Machine.execWorkWriteImm rec s
  | .workRead rec => Sys2Proof.Machine.execWorkRead rec s
  | .workSend rec => Sys2Proof.Machine.execWorkSend rec s
  | .workAtomicFadd rec => Sys2Proof.Machine.execWorkAtomicFadd rec s
  | .workAtomicCswap rec => Sys2Proof.Machine.execWorkAtomicCswap rec s
  | .workFlush rec => Sys2Proof.Machine.execWorkFlush rec s
  | .workFence rec => Sys2Proof.Machine.execWorkFence rec s
  | .postReceive rec => Sys2Proof.Machine.execPostReceive rec s
  | .postCollective rec => Sys2Proof.Machine.execPostCollective rec s
  | .attentionRequest rec query => Sys2Proof.Machine.execAttentionRequest rec query s
  | .shoalOperator rec fetched => Sys2Proof.Machine.execShoalOperator rec fetched s
  | .tileStart rec fetched => Sys2Proof.Machine.execTileStart rec fetched s
  | .translationMissWalk stream dva => Sys2Proof.Machine.execTranslationMissWalk stream dva s
  | .missSlotGrant => Sys2Proof.Machine.execMissSlotGrant s
  | .fqHeadReread fn head => Sys2Proof.Machine.execFqHeadReread fn head s
  | .bar4Read fn offset len => Sys2Proof.Machine.execBar4Read fn offset len s
  | .bar4Write fn offset bytes => Sys2Proof.Machine.execBar4Write fn offset bytes s
  | .packetTransmit port fetched => Sys2Proof.Machine.execPacketTransmit port fetched s
  | .pktWrite p => Sys2Proof.Machine.execPktWrite p s
  | .pktWriteImm p => Sys2Proof.Machine.execPktWriteImm p s
  | .pktReadReq p => Sys2Proof.Machine.execPktReadReq p s
  | .pktReadResp p => Sys2Proof.Machine.execPktReadResp p s
  | .pktSend p => Sys2Proof.Machine.execPktSend p s
  | .pktAtomicFadd p prior => Sys2Proof.Machine.execPktAtomicFadd p prior s
  | .pktAtomicCswap p prior => Sys2Proof.Machine.execPktAtomicCswap p prior s
  | .pktAtomicResp p => Sys2Proof.Machine.execPktAtomicResp p s
  | .pktFlush p => Sys2Proof.Machine.execPktFlush p s
  | .pktAck p body => Sys2Proof.Machine.execPktAck p body s
  | .pktNak p body => Sys2Proof.Machine.execPktNak p body s
  | .pktReadRepair p body => Sys2Proof.Machine.execPktReadRepair p body s
  | .modTimeExpiry fn cq => Sys2Proof.Machine.execModTimeExpiry fn cq s
  | .ackCoalesceTimer qp => Sys2Proof.Machine.execAckCoalesceTimer qp s
  | .retransmitTimeout qp => Sys2Proof.Machine.execRetransmitTimeout qp s
  | .rnrResend qp => Sys2Proof.Machine.execRnrResend qp s
  | .faultWaitResend qp => Sys2Proof.Machine.execFaultWaitResend qp s
  | .silenceLimit qp => Sys2Proof.Machine.execSilenceLimit qp s
  | .noPathTimeout qp => Sys2Proof.Machine.execNoPathTimeout qp s
  | .peerSilent stream => Sys2Proof.Machine.execPeerSilent stream s
  | .ccEpochEnd qp => Sys2Proof.Machine.execCcEpochEnd qp s
  | .admissionRecheck => Sys2Proof.Machine.execAdmissionRecheck s
  | .copyAckDeadline qp seq => Sys2Proof.Machine.execCopyAckDeadline qp seq s
  | .shaperRefill => Sys2Proof.Machine.execShaperRefill s
  | .policerRefill => Sys2Proof.Machine.execPolicerRefill s
  | .soundingSample kind queueId head => Sys2Proof.Machine.execSoundingSample kind queueId head s
  | .cqHeadPoll fn cq head => Sys2Proof.Machine.execCqHeadPoll fn cq head s
  | .retentionExpiry fn => Sys2Proof.Machine.execRetentionExpiry fn s
  | .hostWatchdogExpiry fn heads => Sys2Proof.Machine.execHostWatchdogExpiry fn heads s
  | .flr fn heads => Sys2Proof.Machine.execFlr fn heads s
  | .vfEnable numVfs => Sys2Proof.Machine.execVfEnable numVfs s
  | .vfDisable => Sys2Proof.Machine.execVfDisable s
  | .perstNAssert widthNs => Sys2Proof.Machine.execPerstNAssert widthNs s
  | .perstNRelease => Sys2Proof.Machine.execPerstNRelease s
  | .dlDown => Sys2Proof.Machine.execDlDown s
  | .hotReset secondaryBus => Sys2Proof.Machine.execHotReset secondaryBus s
  | .crossingReady island => Sys2Proof.Machine.execCrossingReady island s
  | .crossingSync island => Sys2Proof.Machine.execCrossingSync island s
  | .pcieRefclkLoss => Sys2Proof.Machine.execPcieRefclkLoss s
  | .pcieRefclkReturn => Sys2Proof.Machine.execPcieRefclkReturn s
  | .l1Entry => Sys2Proof.Machine.execL1Entry s
  | .islandClockStop island => Sys2Proof.Machine.execIslandClockStop island s
  | .islandWake island => Sys2Proof.Machine.execIslandWake island s
  | .ringFlitArrive port slot f => Sys2Proof.Machine.execRingFlitArrive port slot f s
  | .slotClaim port slot f => Sys2Proof.Machine.execSlotClaim port slot f s
  | .reassemblyTimeout src tag => Sys2Proof.Machine.execReassemblyTimeout src tag s
  | .flitMarker port f => Sys2Proof.Machine.execFlitMarker port f s
  | .flitRingStatus port f => Sys2Proof.Machine.execFlitRingStatus port f s
  | .bearingDrainEnd => Sys2Proof.Machine.execBearingDrainEnd s
  | .fabricPortTrained port t => Sys2Proof.Machine.execFabricPortTrained port t s
  | .fabricTrainingRetry port => Sys2Proof.Machine.execFabricTrainingRetry port s
  | .fabricPortLost port => Sys2Proof.Machine.execFabricPortLost port s
  | .spurCmd port f => Sys2Proof.Machine.execSpurCmd port f s
  | .spurData port f => Sys2Proof.Machine.execSpurData port f s
  | .spurCommit port f => Sys2Proof.Machine.execSpurCommit port f s
  | .spurAccessTimeout port tag => Sys2Proof.Machine.execSpurAccessTimeout port tag s
  | .streamReq port f => Sys2Proof.Machine.execStreamReq port f s
  | .streamCplAck port f => Sys2Proof.Machine.execStreamCplAck port f s
  | .streamResend port stream => Sys2Proof.Machine.execStreamResend port stream s
  | .kvQuery port f => Sys2Proof.Machine.execKvQuery port f s
  | .kvQueryFallback rec fetched => Sys2Proof.Machine.execKvQueryFallback rec fetched s
  | .appendSeal rec => Sys2Proof.Machine.execAppendSeal rec s
  | .holdRelease => Sys2Proof.Machine.execHoldRelease s
  | .rampWave => Sys2Proof.Machine.execRampWave s
  | .spurIdleEntry port => Sys2Proof.Machine.execSpurIdleEntry port s
  | .spurWake port => Sys2Proof.Machine.execSpurWake port s
  | .pilotNarrow port => Sys2Proof.Machine.execPilotNarrow port s
  | .pilotWiden port => Sys2Proof.Machine.execPilotWiden port s
  | .collData port f => Sys2Proof.Machine.execCollData port f s
  | .collTail port f => Sys2Proof.Machine.execCollTail port f s
  | .collAck port f => Sys2Proof.Machine.execCollAck port f s
  | .collAgree port f => Sys2Proof.Machine.execCollAgree port f s
  | .collAbort port f => Sys2Proof.Machine.execCollAbort port f s
  | .reductionPassDone engine residueOk => Sys2Proof.Machine.execReductionPassDone engine residueOk s
  | .collChunkTimer slot chunk => Sys2Proof.Machine.execCollChunkTimer slot chunk s
  | .collMemberTimeout slot chunk => Sys2Proof.Machine.execCollMemberTimeout slot chunk s
  | .ethFrameRx link f head => Sys2Proof.Machine.execEthFrameRx link f head s
  | .pfcFrameRx link enable times => Sys2Proof.Machine.execPfcFrameRx link enable times s
  | .pfcRefresh link => Sys2Proof.Machine.execPfcRefresh link s
  | .pfcPauseExpire link tc => Sys2Proof.Machine.execPfcPauseExpire link tc s
  | .ethLinkDown link => Sys2Proof.Machine.execEthLinkDown link s
  | .ethLinkUp link => Sys2Proof.Machine.execEthLinkUp link s
  | .linkEventDeferredWrite head => Sys2Proof.Machine.execLinkEventDeferredWrite head s
  | .lldpSend => Sys2Proof.Machine.execLldpSend s
  | .lpiEntry link => Sys2Proof.Machine.execLpiEntry link s
  | .lpiWake link => Sys2Proof.Machine.execLpiWake link s
  | .helmCommand f => Sys2Proof.Machine.execHelmCommand f s
  | .helmBackoffExpiry collided late => Sys2Proof.Machine.execHelmBackoffExpiry collided late s
  | .enforcementTick m => Sys2Proof.Machine.execEnforcementTick m s
  | .sextantDivision w => Sys2Proof.Machine.execSextantDivision w s
  | .grantExpiry => Sys2Proof.Machine.execGrantExpiry s
  | .sensorSample readings => Sys2Proof.Machine.execSensorSample readings s
  | .thermtrip sensor reading => Sys2Proof.Machine.execThermtrip sensor reading s
  | .thermalWindow => Sys2Proof.Machine.execThermalWindow s
  | .droopDetect supply site mv => Sys2Proof.Machine.execDroopDetect supply site mv s
  | .droopRecovery supply => Sys2Proof.Machine.execDroopRecovery supply s
  | .droopLong supply => Sys2Proof.Machine.execDroopLong supply s
  | .deferredFreqChange => Sys2Proof.Machine.execDeferredFreqChange s
  | .ageingMonitor report => Sys2Proof.Machine.execAgeingMonitor report s
  | .drbgReseed entropy => Sys2Proof.Machine.execDrbgReseed entropy s
  | .maskReseed lane => Sys2Proof.Machine.execMaskReseed lane s
  | .laneKat lane passed => Sys2Proof.Machine.execLaneKat lane passed s
  | .periodicSelftest failing => Sys2Proof.Machine.execPeriodicSelftest failing s
  | .offerExpiry offer => Sys2Proof.Machine.execOfferExpiry offer s
  | .officerSessionExpiry => Sys2Proof.Machine.execOfficerSessionExpiry s
  | .unitZerosCommitted qp own msg unit => Sys2Proof.Machine.execUnitZerosCommitted qp own msg unit s
  | .refresh tarn => Sys2Proof.Machine.execRefresh tarn s
  | .patrolScrub tarn corrected => Sys2Proof.Machine.execPatrolScrub tarn corrected s
  | .uncorrectableError tpa => Sys2Proof.Machine.execUncorrectableError tpa s
  | .rowRepairDone tarn channel bank row => Sys2Proof.Machine.execRowRepairDone tarn channel bank row s
  | .channelLost tarn channel => Sys2Proof.Machine.execChannelLost tarn channel s
  | .interleaveReformed => Sys2Proof.Machine.execInterleaveReformed s
  | .journalRemirrored tarn channel => Sys2Proof.Machine.execJournalRemirrored tarn channel s
  | .tableRebuilt fn host => Sys2Proof.Machine.execTableRebuilt fn host s
  | .tarnLost tarn => Sys2Proof.Machine.execTarnLost tarn s
  | .channelPowerDown tarn channel => Sys2Proof.Machine.execChannelPowerDown tarn channel s
  | .faultPendingWrite fn head => Sys2Proof.Machine.execFaultPendingWrite fn head s
  | .aggWindowBoundary => Sys2Proof.Machine.execAggWindowBoundary s
  | .aggEntryClose => Sys2Proof.Machine.execAggEntryClose s
  | .fwHeartbeatTick => Sys2Proof.Machine.execFwHeartbeatTick s
  | .fwWatchdogExpiry => Sys2Proof.Machine.execFwWatchdogExpiry s
  | .fwRestartComplete verified => Sys2Proof.Machine.execFwRestartComplete verified s
  | .powerOnRelease straps selftest clocksOk suppliesOk => Sys2Proof.Machine.execPowerOnRelease straps selftest clocksOk suppliesOk s
  | .railOutOfTolerance rail => Sys2Proof.Machine.execRailOutOfTolerance rail s
  | .refclkAbsentTimeout => Sys2Proof.Machine.execRefclkAbsentTimeout s
  | .startComplete imageOk crypto => Sys2Proof.Machine.execStartComplete imageOk crypto s
  | .deviceResetTakesEffect straps selftest clocksOk suppliesOk => Sys2Proof.Machine.execDeviceResetTakesEffect straps selftest clocksOk suppliesOk s
  | .restartComplete imageOk crypto => Sys2Proof.Machine.execRestartComplete imageOk crypto s
  | .ppsEdge highNs => Sys2Proof.Machine.execPpsEdge highNs s
  | .trstNAssert => Sys2Proof.Machine.execTrstNAssert s
  | .lossOfOneShoal shoal => Sys2Proof.Machine.execLossOfOneShoal shoal s
  | .lossOfOneControlCore core => Sys2Proof.Machine.execLossOfOneControlCore core s
  | .coreSetRestored => Sys2Proof.Machine.execCoreSetRestored s
  | .referencesPresent => Sys2Proof.Machine.execReferencesPresent s
  | .pcieLinkRetrained link => Sys2Proof.Machine.execPcieLinkRetrained link s
  | .l1Exit => Sys2Proof.Machine.execL1Exit s
  | .unitAtRest shoal unit => Sys2Proof.Machine.execUnitAtRest shoal unit s
  | .healthTestFailure proportion => Sys2Proof.Machine.execHealthTestFailure proportion s
  | .partnerLpiEntry link => Sys2Proof.Machine.execPartnerLpiEntry link s
  | .partnerLpiExit link => Sys2Proof.Machine.execPartnerLpiExit link s
  | .trstNRelease => Sys2Proof.Machine.execTrstNRelease s
  | .tckEdge tms tdi => Sys2Proof.Machine.execTckEdge tms tdi s

end Sys2Proof.Machine
end

