-- ==== Sys2Proof/Machine/Journal.lean ====
section
/-! DEFINITION. The journal's records as they lie in tarn memory: 64 bytes each, with `KIND` and `CHECK` (R161, R274, R304). -/

namespace Sys2Proof.Machine

/-- `STATE` of a record that holds an entry (Tables 6-9, 9-9, 10-7): a collective's WRITING has the code of CLAIMED. -/
def recStateCode (cacheReq : Bool) (x : RecState) : Nat :=
  match x with
  | .accepted => 1
  | .active => if cacheReq then 1 else 2
  | .claimed | .writing => 3
  | .done => 4
  | .held => 5

/-- `FROM_STREAM` and `SQ_RING`: the local ring, or 64 × port + stream. -/
def recSource (w : Work) : Nat × Nat :=
  match w.source with
  | .ring n => (0, n % 65536)
  | .request p n => (1, 64 * p + n)

/-- The entry has completed. -/
def recOver (w : Work) : Bool := w.state == .done || w.state == .held

/-- `BODY` of a `WORK` record, Table 6-10. -/
def workBody (w : Work) : List (Nat × Nat × Nat) :=
  let e := w.entry
  if recOver w then
    [(168, 16, statusCode w.status), (184, 64, w.result.toNat), (248, 32, match w.imm with | some i => i.toNat | none => 0),
     (280, 1, flag w.imm.isSome), (281, 32, w.cqCount)]
  else if entryOp e = 0x10 then
    [(168, 161, bits e.toNat 128 161), (329, 20, match w.claim with | some c => c.1 | none => 0),
     (349, 32, match w.claim with | some c => c.2.toNat | none => 0)]
  else if entryInline e then
    [(168, 32, (entryKey e).toNat), (200, 57, entryDva e), (257, 5, entryLength e), (262, 32, (entryImmediate e).toNat),
     (294, 184, bits e.toNat 320 184)]
  else [(168, 321, bits e.toNat 128 321)]

/-- A `WORK` record, Table 6-9. -/
def workRecord (w : Work) : Nat :=
  let e := w.entry
  pack ([(0, 4, 0x1), (4, 4, recStateCode false w.state), (8, 8, entryOp e), (16, 1, flag (entryInline e)), (17, 1, flag (entrySolicited e)),
         (18, 1, flag (entryNoIntr e)), (19, 1, (recSource w).1), (20, 20, entryContext e), (40, 16, (recSource w).2), (56, 16, w.index),
         (72, 32, w.msgNum.toNat), (104, 64, entryUser e)] ++ workBody w)

/-- Journal index of the record that holds the rest of an entry; a record's number is twice its index, and which pair. -/
def descIndex (w : Work) : Nat := match w.desc with | some r => r / 2 | none => 0

/-- A `COLL_OP` record, Table 9-9. -/
def collOpRecord (w : Work) : Nat :=
  let e := w.entry
  let ended := if recOver w then 1 else 0
  pack [(0, 4, 0x8), (4, 4, recStateCode false w.state), (8, 1, flag (entryNoIntr e)), (9, 1, (recSource w).1), (12, 12, entryContext e),
        (24, 16, (recSource w).2), (40, 16, w.index), (56, 4, (entryDesc e).member), (64, 32, w.msgNum.toNat), (96, 64, entryUser e),
        (160, 32, descIndex w), (192, 16, ended * statusCode w.status), (208, 64, ended * w.result.toNat), (272, 32, ended * w.cqCount)]

/-- A `CACHE_REQ` record, Table 10-7. -/
def cacheReqRecord (w : Work) : Nat :=
  let e := w.entry
  let ended := if recOver w then 1 else 0
  pack [(0, 4, 0xC), (4, 4, recStateCode true w.state), (8, 1, flag (entryNoIntr e)), (9, 1, (recSource w).1), (16, 16, (recSource w).2),
        (32, 16, w.index), (48, 8, entryContext e), (64, 32, descIndex w), (96, 64, entryUser e), (160, 16, ended * statusCode w.status),
        (176, 64, ended * w.result.toNat), (240, 32, ended * w.cqCount)]

/-- A `QP_PROGRESS` record, Table 6-11. -/
def progressRecord (n : Nat) (p : Progress) : Nat :=
  pack [(0, 4, 0x4), (8, 20, n), (32, 32, p.baseMsg.toNat), (64, 32, p.baseSeq.toNat), (96, 32, p.baseRecv.toNat), (128, 32, p.cumSeq.toNat),
        (160, 32, p.cumMsg.toNat), (192, 32, p.claimed.toNat), (224, 32, p.peerRetired.toNat), (256, 32, p.ownRetired.toNat),
        (288, 64, p.stamp)]

/-- A `QP_CONNECT` record, Table 6-12. -/
def connectRecord (n : Nat) (c : QpConf) : Nat :=
  pack [(0, 4, 0x3), (8, 8, c.fn), (16, 20, n), (36, 20, c.peerQp.toNat), (56, 1, match c.mode with | .eht => 0 | .roce => 1),
        (57, 2, c.mtuLog2 - 10), (59, 4, c.paths - 1), (63, 1, flag c.useSrq), (64, 3, c.tc),
        (67, 2, match c.addrKind with | .ipv4 => 0 | .ipv6 => 1 | .fabric => 2), (69, 4, c.portMask.toNat), (73, 8, c.hopLimit.toNat),
        (81, 16, c.srq), (97, 10, c.rnrDelay - 1), (107, 3, c.rnrRetry), (112, 128, c.peerAddr.toNat), (240, 48, c.nextHop.toNat)]

/-- An `ATOMIC_RESULT` record, Table 6-13. -/
def atomicRecord (n : Nat) (seq msg : W32) (prior : W64) : Nat :=
  pack [(0, 4, 0x2), (4, 4, 1), (8, 20, n), (32, 32, seq.toNat), (64, 32, msg.toNat), (96, 64, prior.toNat)]

/-- A `COLL_DESC` or `CACHE_DESC` record, Tables 9-10 and 10-8. -/
def descRecord (kind : Nat) (body : BitVec 376) : Nat := pack [(0, 4, kind), (8, 376, body.toNat)]

/-- A `COLL_GROUP` record, Table 9-11. -/
def groupRecord (slot : Nat) (g : CollGroup) : Nat :=
  pack [(0, 4, 0xA), (4, 4, match g.mode with | .waiting | .setup => 1 | .ready => 2 | .broken => 3), (8, 12, slot), (20, 8, g.fn),
        (32, 32, g.id.toNat), (64, 64, g.rowMask.toNat), (128, 64, g.colMask.toNat), (192, 10, g.fathoms), (202, 1, flag g.spilled),
        (203, 5, g.localMembers), (208, 2, g.tc)]

/-- A `HELD_REPLY` record (R161): the function and the reply entry, whose `PHASE` is set when it is written to its ring. -/
def heldRecord (fn : Nat) (r : Reply) : Nat := pack [(0, 4, 0xE), (8, 8, fn), (32, 256, replyBits r false)]

/-- A record without its `CHECK`. -/
def recordWord (s : State) (rec : Nat) (x : JournalRec) : Nat :=
  match x with
  | .work w => if entryOp w.entry = 0x20 then collOpRecord w else if entryOp w.entry = 0x30 then cacheReqRecord w else workRecord w
  | .desc kind body => descRecord kind body
  | .atomicResult n seq msg prior => atomicRecord n seq msg prior
  | .qpConnect n c => connectRecord n c
  | .qpProgress n p => progressRecord n p
  | .collGroup slot => (match groupGet s slot with | some g => groupRecord slot g | none => 0xA)
  | .heldReply fn => (match s.heldReplies.find? fun h => h.record == rec with | some h => heldRecord fn h.reply | none => 0xE)

/-- A record with its `CHECK`: CRC-16 over bytes [0, 62) (R161). -/
def checkedRecord (v : Nat) : Nat := v + (crc16 (leBytes 62 v)).toNat * 2 ^ 496

/-- The 512 bits that both copies of a journal record hold; of a free index, none. -/
def journalImage (s : State) (rec : Nat) : Option Nat := (tabGet s.journal rec).map fun x => checkedRecord (recordWord s rec x)

end Sys2Proof.Machine
end

