-- ==== Sys2Proof/Safety.lean ====
section
/-! DEFINITION. What counts as a safe run, in the terms that statements use, and the invariant of every state. -/

namespace Sys2Proof

open Sys2Proof.Machine

/-- The device runs and every command of the queue is well formed. -/
def readyToRun (s : State) : Bool := lit s && s.pending.all wellFormed

/-- A run of `n` steps from `s` stops nowhere. -/
def runsOn (n : Nat) (s : State) : Prop := ∃ t, Host.Core.run core n s = .next t

/-- The device reads the command at `s`, `t` is what the reading leaves, and every check of R50 before the opcode's own passes. -/
def accepts (sp : CmdSpec) (c : Cmd) (s t : State) : Prop := takesCommand sp c s = true ∧ t = consumeSlot c s ∧ cmdCheck sp c t = none

/-- One reply, with status OK, is the command's last (R42). -/
def okReply (sp : CmdSpec) (c : Cmd) (r0 r1 r2 : Nat) (t : State) : State := replyNow sp.opcode c .ok true r0 r1 r2 t

/-- A reply `ACCEPTED`, and a final reply that is still owed (R42). -/
def acceptedReply (sp : CmdSpec) (c : Cmd) (what : Deferral) (t : State) : State :=
  keepPending sp.opcode c true what (replyNow sp.opcode c .accepted false 0 0 0 t)

/-- The one reply comes later (R42). -/
def laterReply (sp : CmdSpec) (c : Cmd) (what : Deferral) (t : State) : State := keepPending sp.opcode c false what t

/-- The commands whose final reply waits for `what` get it (R42). -/
def finishOn (what : Deferral) (status : Status) (r0 r1 r2 : Nat) (t : State) : State :=
  finishCmds (fun d => if d = what then some (status, r0, r1, r2) else none) t

/-- A packet of kind `k` that the queue pair `n`, in state `q`, takes from its own peer: whole, well formed, of its size, sealed as
the queue pair is, and not stopped by a security module in its error state (R126, R127, R143); its number is read near `e` (R144). -/
def heardPacket (k : TxKind) (p : RxPacket) (n : Nat) (q : Qp) (e : W32) (s : State) : Prop :=
  packetWellFormed k p = true ∧ p.hdr.destQp.toNat = n ∧ qpGet s n = some q ∧ packetShapeOk k (mtuOf q) (widenFor q e p) = true ∧
    p.hdr.isSealed = q.sealing.isSome ∧ q.conf.connected = true ∧ q.conf.peerQp.toNat = p.hdr.srcQp.toNat ∧
    (q.sealing.isSome && s.sec.errorState) = false

/-- Such a packet whose number is new: in the window, not settled, in order where the queue pair goes back, and no fault holds it (R138 to
R142, R156). -/
def isNewPacket (k : TxKind) (p : RxPacket) (n : Nat) (q : Qp) (s : State) : Prop :=
  let w := (widenFor q q.recv.e p).hdr.seq
  heardPacket k p n q q.recv.e s ∧ seqBefore w q.recv.e = false ∧ q.phase = .ready ∧ (w - q.recv.e).toNat < 16384 ∧
    q.recv.settled.contains w = false ∧ (goBackN s q && w != q.recv.e) = false ∧ q.recv.suspended = false

/-- Such a packet whose number has been settled before (R139). -/
def isOldPacket (k : TxKind) (p : RxPacket) (n : Nat) (q : Qp) (s : State) : Prop :=
  heardPacket k p n q q.recv.e s ∧ seqBefore (widenFor q q.recv.e p).hdr.seq q.recv.e = true

/-- The command that a row of the command channel carries, with what its opcode asks (R48, R65, R104, R127, R190, R230, R276, R305, R373, R403,
R428, R465, R477). -/
def commandOf (i : Instr) : Option (CmdSpec × Cmd) :=
  match i with
  | .devQuery c => some (specDevQuery, c)
  | .devProfile c => some (specDevProfile, c)
  | .devTime c => some (specDevTime, c)
  | .devReset c => some (specDevReset, c)
  | .devPps c => some (specDevPps, c)
  | .fnQuery c => some (specFnQuery, c)
  | .fnStop c => some (specFnStop, c)
  | .fnStart c _ => some (specFnStart, c)
  | .fnReset c _ => some (specFnReset, c)
  | .fnAttach c => some (specFnAttach, c)
  | .fnLevel c => some (specFnLevel, c)
  | .fnRetain c => some (specFnRetain, c)
  | .mrSpace c => some (specMrSpace, c)
  | .mrRegister c => some (specMrRegister, c)
  | .mrDeregister c => some (specMrDeregister, c)
  | .mrRekey c => some (specMrRekey, c)
  | .mrQuery c => some (specMrQuery, c)
  | .mrMap c => some (specMrMap, c)
  | .mrUnmap c => some (specMrUnmap, c)
  | .mrSync c => some (specMrSync, c)
  | .mrFaultReply c => some (specMrFaultReply, c)
  | .mrBar4Open c => some (specMrBar4Open, c)
  | .mrBar4Close c => some (specMrBar4Close, c)
  | .mrSpurGrant c => some (specMrSpurGrant, c)
  | .qpCreate c => some (specQpCreate, c)
  | .qpConnect c => some (specQpConnect, c)
  | .qpQuery c => some (specQpQuery, c)
  | .qpReset c => some (specQpReset, c)
  | .qpDestroy c => some (specQpDestroy, c)
  | .qpAdmit c => some (specQpAdmit, c)
  | .qpRelease c => some (specQpRelease, c)
  | .qpAdmitQuery c => some (specQpAdmitQuery, c)
  | .srqCreate c => some (specSrqCreate, c)
  | .srqDestroy c => some (specSrqDestroy, c)
  | .ehtPort c => some (specEhtPort, c)
  | .ehtAddr c => some (specEhtAddr, c)
  | .ringSqCreate c => some (specRingSqCreate, c)
  | .ringCqCreate c => some (specRingCqCreate, c)
  | .ringSched c => some (specRingSched, c)
  | .ringModerate c => some (specRingModerate, c)
  | .ringDestroy c => some (specRingDestroy, c)
  | .ringRetry c => some (specRingRetry, c)
  | .ringQuota c => some (specRingQuota, c)
  | .hostWatchdog c => some (specHostWatchdog, c)
  | .ccClass c => some (specCcClass, c)
  | .qosShare c => some (specQosShare, c)
  | .schedTc c => some (specSchedTc, c)
  | .schedQp c => some (specSchedQp, c)
  | .shaperSet c => some (specShaperSet, c)
  | .policerSet c => some (specPolicerSet, c)
  | .sndRing c => some (specSndRing, c)
  | .sndAdd c => some (specSndAdd, c)
  | .sndRemove c => some (specSndRemove, c)
  | .cntRead c => some (specCntRead, c)
  | .cntNotify c => some (specCntNotify, c)
  | .ethPortSet c => some (specEthPortSet, c)
  | .ethPortQuery c => some (specEthPortQuery, c)
  | .ethPfc c => some (specEthPfc, c)
  | .ethFrames c => some (specEthFrames, c)
  | .ethFrameSend c => some (specEthFrameSend, c)
  | .ethMcast c => some (specEthMcast, c)
  | .helmSet c => some (specHelmSet, c)
  | .helmQuery c => some (specHelmQuery, c)
  | .collSetup c => some (specCollSetup, c)
  | .collTeardown c => some (specCollTeardown, c)
  | .collQuery c => some (specCollQuery, c)
  | .collAbortCmd c => some (specCollAbort, c)
  | .kvPoolCreate c => some (specPoolCreate, c)
  | .kvPoolDestroy c => some (specPoolDestroy, c)
  | .kvPoolQuery c => some (specPoolQuery, c)
  | .kvSeal c => some (specSeal, c)
  | .kvUserReset c => some (specUserReset, c)
  | .kvUserPin c => some (specUserPin, c)
  | .kvUserUnpin c => some (specUserUnpin, c)
  | .kvPartner c => some (specPartner, c)
  | .pwrGrant c => some (specPwrGrant, c)
  | .pwrFallback c => some (specPwrFallback, c)
  | .pwrQuery c => some (specPwrQuery, c)
  | .pwrLearn c => some (specPwrLearn, c)
  | .secIdentity c => some (specSecIdentity, c)
  | .secAttest c => some (specSecAttest, c)
  | .secKemOffer c => some (specSecKemOffer, c)
  | .secKemAccept c => some (specSecKemAccept, c)
  | .secKemFinish c => some (specSecKemFinish, c)
  | .secAccordDrop c => some (specSecAccordDrop, c)
  | .secQpSeal c => some (specSecQpSeal, c)
  | .secQpRekey c => some (specSecQpRekey, c)
  | .secQpQuery c => some (specSecQpQuery, c)
  | .secFwBegin c => some (specSecFwBegin, c)
  | .secFwChunk c => some (specSecFwChunk, c)
  | .secFwCommit c => some (specSecFwCommit, c)
  | .secSelftest c => some (specSecSelftest, c)
  | .secZeroize c => some (specSecZeroize, c)
  | .secOfficer c => some (specSecOfficer, c)
  | .secLogin c => some (specSecLogin, c)
  | .fabIdent c => some (specFabIdent, c)
  | .fabPortSet c => some (specFabPortSet, c)
  | .fabPortQuery c => some (specFabPortQuery, c)
  | .fabRingQuery c => some (specFabRingQuery, c)
  | .spurStream c => some (specSpurStream, c)
  | .routeWrite c => some (specRouteWrite, c)
  | .routeArm c => some (specRouteArm, c)
  | .routeDisarm c => some (specRouteDisarm, c)
  | .routeCommit c => some (specRouteCommit, c)
  | .routeQuery c => some (specRouteQuery, c)
  | .routeDrain c => some (specRouteDrain, c)
  | .diagResults c => some (specDiagResults, c)
  | .diagSelftest c => some (specDiagSelftest, c)
  | .diagInventory c => some (specDiagInventory, c)
  | .diagLoopback c => some (specDiagLoopback, c)
  | .faultQuery c => some (specFaultQuery, c)
  | .faultAck c => some (specFaultAck, c)
  | _ => none

/-- Parts of the state that only some commands may change. -/
inductive Part where
  | tarnMemory | regions | retiredKeys | submissionRings | sharedQueues | scheduling | collectives | cachePools | rampLimiter
  | operators | security | power | thermal | droop | ceilings | startResults | hostLink | testPort | missSlots | missWait
deriving DecidableEq, Repr

/-- The part is the same in both states. -/
def samePart (p : Part) (s t : State) : Prop :=
  match p with
  | .tarnMemory => t.tarns.mem = s.tarns.mem
  | .regions => t.regions = s.regions
  | .retiredKeys => t.retired = s.retired
  | .submissionRings => t.sqs = s.sqs
  | .sharedQueues => t.srqs = s.srqs
  | .scheduling => t.sched = s.sched
  | .collectives => t.coll = s.coll
  | .cachePools => t.cache = s.cache
  | .rampLimiter => t.ramp = s.ramp
  | .operators => t.opers = s.opers
  | .security => t.sec = s.sec
  | .power => t.power = s.power
  | .thermal => t.thermal = s.thermal
  | .droop => t.droop = s.droop
  | .ceilings => t.ceilings = s.ceilings
  | .startResults => t.start = s.start
  | .hostLink => t.pcie = s.pcie
  | .testPort => t.jtag = s.jtag
  | .missSlots => t.missSlots = s.missSlots
  | .missWait => t.missWait = s.missWait

/-- The commands that may change the part: what a test of the frames is held against. -/
def mayChange (p : Part) (c : Instr) : Bool :=
  match p with
  | .tarnMemory =>
    (match c with
    | .fnReset .. | .fnResetComplete .. | .mrFaultReply .. | .collSetupReady .. | .collTeardown .. | .collAbortCmd .. | .kvSealDone ..
    | .kvUserReset .. | .cmdDoorbell .. | .replyHeadWrite .. | .ringReread .. | .postCollective .. | .attentionRequest .. | .tileStart ..
    | .missSlotGrant | .bar4Write .. | .pktWrite .. | .pktWriteImm .. | .pktReadReq .. | .pktReadResp .. | .pktSend ..
    | .pktAtomicFadd .. | .pktAtomicCswap .. | .pktAtomicResp .. | .pktFlush .. | .retentionExpiry .. | .hostWatchdogExpiry .. | .flr ..
    | .vfEnable .. | .vfDisable | .perstNAssert .. | .dlDown | .hotReset .. | .ringFlitArrive .. | .slotClaim .. | .spurData ..
    | .spurCommit .. | .kvQuery .. | .kvQueryFallback .. | .appendSeal .. | .collData .. | .collTail .. | .collAck .. | .collAgree ..
    | .collAbort .. | .reductionPassDone .. | .collMemberTimeout .. | .ethFrameRx .. | .helmCommand .. | .unitZerosCommitted ..
    | .patrolScrub .. | .uncorrectableError .. | .channelLost .. | .tarnLost .. | .fwRestartComplete .. | .powerOnRelease ..
    | .startComplete .. | .deviceResetTakesEffect .. | .restartComplete .. => true
     | _ => false)
  | .regions =>
    (match c with
    | .fnReset .. | .fnResetComplete .. | .mrRegister .. | .mrDeregister .. | .mrRekey .. | .cmdDoorbell .. | .replyHeadWrite ..
    | .ringReread .. | .retentionExpiry .. | .hostWatchdogExpiry .. | .flr .. | .vfEnable .. | .vfDisable | .perstNAssert .. | .dlDown
    | .hotReset .. | .helmCommand .. | .fwRestartComplete .. | .powerOnRelease .. | .startComplete .. | .deviceResetTakesEffect ..
    | .restartComplete .. => true
     | _ => false)
  | .retiredKeys =>
    (match c with
    | .fnReset .. | .fnResetComplete .. | .mrDeregister .. | .mrRekey .. | .cmdDoorbell .. | .replyHeadWrite .. | .ringReread ..
    | .retentionExpiry .. | .hostWatchdogExpiry .. | .flr .. | .vfEnable .. | .vfDisable | .perstNAssert .. | .dlDown | .hotReset ..
    | .helmCommand .. | .fwRestartComplete .. | .powerOnRelease .. | .startComplete .. | .deviceResetTakesEffect .. | .restartComplete .. => true
     | _ => false)
  | .submissionRings =>
    (match c with
    | .fnStop .. | .fnStart .. | .fnReset .. | .fnResetComplete .. | .fnAttach .. | .ringSqCreate .. | .ringSched .. | .ringDestroy ..
    | .cmdDoorbell .. | .replyHeadWrite .. | .registerWrite .. | .sqDoorbell .. | .sqDoorbellLevel1 .. | .ringReread .. | .entryAccept ..
    | .journalBackpressureRelease .. | .retentionExpiry .. | .hostWatchdogExpiry .. | .flr .. | .vfEnable .. | .vfDisable
    | .perstNAssert .. | .dlDown | .hotReset .. | .helmCommand .. | .fwRestartComplete .. | .powerOnRelease .. | .startComplete ..
    | .deviceResetTakesEffect .. | .restartComplete .. => true
     | _ => false)
  | .sharedQueues =>
    (match c with
    | .fnReset .. | .fnResetComplete .. | .fnAttach .. | .mrFaultReply .. | .srqCreate .. | .srqDestroy .. | .cmdDoorbell ..
    | .replyHeadWrite .. | .ringReread .. | .postReceive .. | .pktWrite .. | .pktWriteImm .. | .pktSend .. | .hostWatchdogExpiry ..
    | .flr .. | .vfEnable .. | .vfDisable | .perstNAssert .. | .dlDown | .hotReset .. | .ringFlitArrive .. | .slotClaim ..
    | .ethFrameRx .. | .helmCommand .. | .uncorrectableError .. | .channelLost .. | .tarnLost .. | .fwRestartComplete ..
    | .powerOnRelease .. | .startComplete .. | .deviceResetTakesEffect .. | .restartComplete .. => true
     | _ => false)
  | .scheduling =>
    (match c with
    | .fnReset .. | .fnResetComplete .. | .mrFaultReply .. | .qpReset .. | .qpDestroy .. | .qpDestroyDone .. | .qpAdmit ..
    | .qpRelease .. | .ccClass .. | .schedTc .. | .shaperSet .. | .policerSet .. | .sndAdd .. | .sndRemove .. | .ethPortSet ..
    | .collSetup .. | .fathomReservationGrant | .collSetupReady .. | .collTeardown .. | .collAbortCmd .. | .fabPortSet ..
    | .routeCommit .. | .cmdDoorbell .. | .replyHeadWrite .. | .ringReread .. | .entryAccept .. | .journalBackpressureRelease ..
    | .postCollective .. | .attentionRequest .. | .missSlotGrant | .packetTransmit .. | .pktWrite .. | .pktWriteImm .. | .pktReadReq ..
    | .pktReadResp .. | .pktSend .. | .pktAtomicFadd .. | .pktAtomicCswap .. | .pktAtomicResp .. | .pktFlush .. | .pktReadRepair ..
    | .ackCoalesceTimer .. | .retransmitTimeout .. | .admissionRecheck | .shaperRefill | .policerRefill | .soundingSample ..
    | .retentionExpiry .. | .hostWatchdogExpiry .. | .flr .. | .vfEnable .. | .vfDisable | .perstNAssert .. | .dlDown | .hotReset ..
    | .ringFlitArrive .. | .slotClaim .. | .flitMarker .. | .flitRingStatus .. | .fabricPortLost .. | .spurData .. | .spurCommit ..
    | .kvQuery .. | .kvQueryFallback .. | .collData .. | .collTail .. | .collAck .. | .collAgree .. | .collAbort ..
    | .reductionPassDone .. | .collChunkTimer .. | .collMemberTimeout .. | .ethFrameRx .. | .ethLinkDown .. | .helmCommand ..
    | .unitZerosCommitted .. | .uncorrectableError .. | .channelLost .. | .tarnLost .. | .fwWatchdogExpiry | .fwRestartComplete ..
    | .powerOnRelease .. | .startComplete .. | .deviceResetTakesEffect .. | .restartComplete .. => true
     | _ => false)
  | .collectives =>
    (match c with
    | .fnReset .. | .fnResetComplete .. | .mrFaultReply .. | .collSetup .. | .fathomReservationGrant | .collSetupReady ..
    | .collSetupTimeout .. | .collTeardown .. | .collTeardownDone .. | .collAbortCmd .. | .cmdDoorbell .. | .replyHeadWrite ..
    | .ringReread .. | .postCollective .. | .missSlotGrant | .peerSilent .. | .retentionExpiry .. | .hostWatchdogExpiry .. | .flr ..
    | .vfEnable .. | .vfDisable | .perstNAssert .. | .dlDown | .hotReset .. | .ringFlitArrive .. | .slotClaim .. | .spurData ..
    | .spurCommit .. | .collData .. | .collTail .. | .collAck .. | .collAgree .. | .collAbort .. | .reductionPassDone ..
    | .collChunkTimer .. | .collMemberTimeout .. | .helmCommand .. | .uncorrectableError .. | .channelLost .. | .tarnLost ..
    | .fwRestartComplete .. | .powerOnRelease .. | .startComplete .. | .deviceResetTakesEffect .. | .restartComplete .. => true
     | _ => false)
  | .cachePools =>
    (match c with
    | .fnReset .. | .fnResetComplete .. | .mrDeregister .. | .mrRekey .. | .mrFaultReply .. | .ringDestroy .. | .kvPoolCreate ..
    | .kvPoolDestroy .. | .kvPoolDestroyDone .. | .kvSealDone .. | .kvUserReset .. | .kvUserPin .. | .kvUserPinDone .. | .kvUserUnpin ..
    | .kvUserUnpinDone .. | .cmdDoorbell .. | .replyHeadWrite .. | .registerWrite .. | .sqDoorbell .. | .sqDoorbellLevel1 ..
    | .ringReread .. | .attentionRequest .. | .missSlotGrant | .cqHeadPoll .. | .retentionExpiry .. | .hostWatchdogExpiry .. | .flr ..
    | .vfEnable .. | .vfDisable | .perstNAssert .. | .dlDown | .hotReset .. | .spurData .. | .spurCommit .. | .streamCplAck ..
    | .kvQuery .. | .kvQueryFallback .. | .appendSeal .. | .holdRelease | .helmCommand .. | .sextantDivision .. | .ageingMonitor ..
    | .uncorrectableError .. | .channelLost .. | .tarnLost .. | .fwRestartComplete .. | .powerOnRelease .. | .startComplete ..
    | .deviceResetTakesEffect .. | .restartComplete .. | .lossOfOneShoal .. => true
     | _ => false)
  | .rampLimiter =>
    (match c with
    | .attentionRequest .. | .tileStart .. | .holdRelease | .rampWave | .sextantDivision .. | .ageingMonitor .. | .powerOnRelease ..
    | .deviceResetTakesEffect .. | .lossOfOneShoal .. | .unitAtRest .. => true
     | _ => false)
  | .operators =>
    (match c with
    | .fnReset .. | .fnResetComplete .. | .mrFaultReply .. | .cmdDoorbell .. | .replyHeadWrite .. | .ringReread .. | .shoalOperator ..
    | .tileStart .. | .hostWatchdogExpiry .. | .flr .. | .vfEnable .. | .vfDisable | .perstNAssert .. | .dlDown | .hotReset ..
    | .spurData .. | .spurCommit .. | .helmCommand .. | .uncorrectableError .. | .channelLost .. | .tarnLost .. | .fwRestartComplete ..
    | .powerOnRelease .. | .startComplete .. | .deviceResetTakesEffect .. | .restartComplete .. => true
     | _ => false)
  | .security =>
    (match c with
    | .fnReset .. | .fnResetComplete .. | .secAttest .. | .secKemOffer .. | .secKemAccept .. | .secKemFinish .. | .secAccordDrop ..
    | .secFwBegin .. | .secFwChunk .. | .secFwCommitDone | .secSelftestDone .. | .secZeroizeDone | .secOfficer .. | .secLogin ..
    | .cmdDoorbell .. | .replyHeadWrite .. | .ringReread .. | .hostWatchdogExpiry .. | .flr .. | .vfEnable .. | .vfDisable
    | .perstNAssert .. | .dlDown | .hotReset .. | .helmCommand .. | .drbgReseed .. | .maskReseed .. | .laneKat .. | .periodicSelftest ..
    | .offerExpiry .. | .officerSessionExpiry | .fwRestartComplete .. | .powerOnRelease .. | .startComplete ..
    | .deviceResetTakesEffect .. | .restartComplete .. | .healthTestFailure .. => true
     | _ => false)
  | .power =>
    (match c with
    | .pwrGrant .. | .pwrFallback .. | .pwrQuery .. | .cmdDoorbell .. | .replyHeadWrite .. | .ringReread .. | .helmCommand ..
    | .enforcementTick .. | .sextantDivision .. | .grantExpiry | .sensorSample .. | .thermalWindow | .deferredFreqChange
    | .ageingMonitor .. | .fwRestartComplete .. | .powerOnRelease .. | .startComplete .. | .deviceResetTakesEffect ..
    | .restartComplete .. => true
     | _ => false)
  | .thermal =>
    (match c with
    | .sensorSample .. | .thermtrip .. | .thermalWindow | .powerOnRelease .. | .railOutOfTolerance .. | .deviceResetTakesEffect .. => true
     | _ => false)
  | .droop =>
    (match c with
    | .enforcementTick .. | .sextantDivision .. | .sensorSample .. | .thermalWindow | .droopDetect .. | .droopRecovery ..
    | .droopLong .. | .deferredFreqChange | .powerOnRelease .. | .deviceResetTakesEffect .. => true
     | _ => false)
  | .ceilings =>
    (match c with
    | .pwrLearn .. | .cmdDoorbell .. | .replyHeadWrite .. | .ringReread .. | .helmCommand .. | .sextantDivision .. | .ageingMonitor ..
    | .fwRestartComplete .. | .powerOnRelease .. | .startComplete .. | .deviceResetTakesEffect .. | .restartComplete .. => true
     | _ => false)
  | .startResults =>
    (match c with
    | .diagLoopbackDone .. | .powerOnRelease .. | .startComplete .. | .deviceResetTakesEffect .. | .restartComplete .. => true
     | _ => false)
  | .hostLink =>
    (match c with
    | .profileTakesEffect | .registerWrite .. | .flr .. | .vfEnable .. | .vfDisable | .perstNAssert .. | .perstNRelease | .dlDown
    | .hotReset .. | .pcieRefclkLoss | .pcieRefclkReturn | .l1Entry | .powerOnRelease .. | .deviceResetTakesEffect ..
    | .pcieLinkRetrained .. | .l1Exit => true
     | _ => false)
  | .testPort =>
    (match c with
    | .powerOnRelease .. | .deviceResetTakesEffect .. | .trstNAssert | .trstNRelease | .tckEdge .. => true
     | _ => false)
  | .missSlots =>
    (match c with
    | .translationMissWalk .. | .missSlotGrant | .powerOnRelease .. | .deviceResetTakesEffect .. => true
     | _ => false)
  | .missWait =>
    (match c with
    | .translationMissWalk .. | .missSlotGrant | .powerOnRelease .. | .deviceResetTakesEffect .. => true
     | _ => false)

/-- While `TRST_N` is asserted the test logic stands in reset with IDCODE selected (R494). -/
def tapHeld (j : Jtag) : Prop := j.trst = true → j.tap = .reset ∧ j.op = .idcode

/-- The helm bus keeps at most 4 allowed addresses (R369), and at most 16 frames wait for the end of a firmware restart. -/
def helmBounded (h : Helm) : Prop := h.allow.length ≤ 4 ∧ h.waiting.length ≤ 16

/-- Every budget lies where R405 to R407 and R424 let it lie: the grant in force in 300 to 800 W, the fallback budget in 300 to 760 W, the
thermal ceiling in 300 to 800 W. -/
def powerBounded (p : Power) : Prop :=
  (p.validUntil ≠ none → 300 ≤ p.grantW ∧ p.grantW ≤ 800) ∧ (300 ≤ p.fallback ∧ p.fallback ≤ 760) ∧ 300 ≤ p.thermal ∧ p.thermal ≤ 800

/-- What every step keeps: tarn memory in canonical form, the test logic, the helm bus and the power budgets within their bounds. -/
def Inv (s : State) : Prop :=
  Memory.wf s.tarns.mem = true ∧ tapHeld s.jtag ∧ helmBounded s.helm ∧ powerBounded s.power

end Sys2Proof
end

