-- ==== Sys2Proof/Certificates/Slice0/Obligations.lean ====
section
/-! DEFINITION. The statements: what the commands and events do by the rules of spec/, where they complete, what they leave unchanged, and what
every step keeps. Each is a conjunction with one clause for each form that it speaks of. -/

section

open Sys2Proof Sys2Proof.Machine

/-- Each dev.* command that the device reads and that passes the checks of R50 runs to its reply: dev.query writes the 1,024-bit device
record, dev.profile is answered at the next 100 us boundary and then changes the profile, dev.time and dev.pps answer with the clock and
the PPS stamps, dev.reset is answered at once and sets the reset for 10 us later. Rows: DEV_QUERY, DEV_PROFILE, PROFILE_TAKES_EFFECT,
DEV_TIME, DEV_RESET, DEV_PPS. (R48, R58, R490) -/
def Obligations.DeviceCommandsComplete : Prop :=
    (∀ (c : Cmd) (s t : State), accepts specDevQuery c s t → isHelm c = true ∨ param c 0 8 % 64 = 0 ∧ 128 ≤ param c 8 4 →
      exec (.devQuery c) s = .next (okReply specDevQuery c 128 0 0 (writeResult c (param c 0 8) 1024 (devQueryBits t (fnLevel1 t (issuerOf c))) t))) ∧
    (∀ (c : Cmd) (s t : State) (p : Profile), accepts specDevProfile c s t → profileOfCode (param c 0 1) = some p →
      exec (.devProfile c) s = .next (laterReply specDevProfile c (.profile p (nextMultiple t.dev.now 100000)) t)) ∧
    (∀ (p : Pending) (new : Profile) (b : Nat) (s : State), lit s = true → s.commands.find? isProfileChange = some p → p.what = .profile new b → 
      exec .profileTakesEffect s = .next (answer p .ok (profileCode s.dev.profile) b 0 (wakeForProfile new { advanceTo b s with dev := { (advanceTo b s).dev with profile := new }, commands := s.commands.erase p }))) ∧
    (∀ (c : Cmd) (s t : State), accepts specDevTime c s t →
      exec (.devTime c) s = .next (okReply specDevTime c t.dev.now 0 0 t)) ∧
    (∀ (c : Cmd) (s t : State), accepts specDevReset c s t → param c 0 1 = 0 →
      exec (.devReset c) s = .next (okReply specDevReset c 0 0 0 ({ t with dev := { t.dev with resetDue := some (t.dev.now + 10000, .railsHeld) } }))) ∧
    (∀ (c : Cmd) (s t : State), accepts specDevPps c s t →
      exec (.devPps c) s = .next (okReply specDevPps c t.dev.ppsLatest t.dev.ppsPrev t.dev.ppsCount t))

/-- fn.query answers with the mode, the level, the rings, the queue pairs and the retention of the function; fn.stop stops its rings and
owes its reply until the function is quiet; fn.start makes it RUNNING with a new token and scans its rings; fn.reset is answered at
once, its steps end in HELD or in the release of the function; fn.attach, fn.level and fn.retain have the effects of their tables. Rows:
FN_QUERY, FN_STOP, FN_STOP_QUIESCED, FN_START, FN_RESET, FN_RESET_COMPLETE, FN_ATTACH, FN_LEVEL, FN_RETAIN. (R48, R51, R53, R81, R87,
R57, R88) -/
def Obligations.FunctionCommandsComplete : Prop :=
    (∀ (c : Cmd) (s t : State) (f : Function), accepts specFnQuery c s t → fnGet t (namedOf c) = some f →
      exec (.fnQuery c) s = .next (okReply specFnQuery c (pack [(0, 3, fnModeCode f.mode), (3, 1, flag f.level1), (4, 17, ownedSqs t (namedOf c)), (21, 17, ownedCqs t (namedOf c))]) (ownedQps t (namedOf c)) f.retention t)) ∧
    (∀ (c : Cmd) (s t : State), accepts specFnStop c s t →
      exec (.fnStop c) s = .next (acceptedReply specFnStop c (.fnStop (namedOf c)) (stopRings (namedOf c) (fnMod (namedOf c) (fun f => { f with mode := .stopping, watchdogAt := none }) t)))) ∧
    (∀ (fn : Nat) (s : State), lit s = true → fnModeOf s fn = .stopping → quiesced s fn = true → 
      exec (.fnStopQuiesced fn) s = .next (finishCmds (fun d => if d = .fnStop fn then some (.ok, 0, 0, 0) else none) (fnMod fn (fun f => { f with mode := .stopped }) s))) ∧
    (∀ (c : Cmd) (found : List RingRead) (s t : State) (t1 t2 : State), accepts specFnStart c s t → t1 = fnMod (namedOf c) (fun f => { f with mode := .running, token := some (Config.freeWord t.dev.fresh), watchdogAt := if f.watchdogMs = 0 then none else some (t.dev.now + 1000000 * f.watchdogMs) }) (takeFresh t) → t2 = { t1 with sqs := tabMap t1.sqs fun k r => if k / 65536 = namedOf c then { r with running := true, scanning := true, doorbellAt := t.dev.now, rereads := 0 } else r } →
      exec (.fnStart c found) s = .next (okReply specFnStart c ((Config.freeWord t.dev.fresh).toNat) 0 0 (found.foldl (fun u r => scanRing (pairKey (namedOf c) r.ring) r.entries u) t2))) ∧
    (∀ (c : Cmd) (heads : List HeadRead) (s t : State), accepts specFnReset c s t →
      exec (.fnReset c heads) s = .next (okReply specFnReset c 0 0 0 (resetFunction (namedOf c) (readHeads (namedOf c) heads t)))) ∧
    (∀ (fn : Nat) (f : Function) (s : State), fnGet s fn = some f → f.mode = .resetting → (fnOpen s fn).isEmpty = true → 
      exec (.fnResetComplete fn) s = .next (if f.disabling then releaseFunction fn (finishCmds (fun d => if d = .fnStop fn then some (.ok, 0, 0, 0) else none) s) else fnMod fn (fun f => { f with mode := .held, heldSince := some s.dev.now }) (finishCmds (fun d => if d = .fnStop fn then some (.ok, 0, 0, 0) else none) s))) ∧
    (∀ (c : Cmd) (s t : State) (f : Function) (u v : State), accepts specFnAttach c s t → fnGet t (namedOf c) = some f →
      f.token.map BitVec.toNat = some (param c 0 8) → 8 * ownedSqs t (namedOf c) ≤ param c 16 4 →
      ((t.heldReplies.filter fun r => r.fn == namedOf c).all fun r => channelTakes t (namedOf c) (replyChannel r.origin) c.origin) = true →
      u = deliverCompletions (namedOf c) (deliverReplies false (namedOf c) (rewindRings (namedOf c) (attachRecords (namedOf c) (param c 8 8) (replyNow 0x0205 c .accepted false 0 0 0 t)))) →
      v = attachSignals (namedOf c) (sortedNats (((t.heldReplies.filter fun r => r.fn == namedOf c).filter fun r => !r.quiet).map fun r => replyChannel r.origin)) (sortedNats ((heldWorks t (namedOf c)).filterMap fun p => match p.2.source with | .ring r => cqOfRing t r | .request _ _ => none)) u →
      exec (.fnAttach c) s = .next (pumpPartition (namedOf c) (okReply specFnAttach c (ownedSqs t (namedOf c)) f.resetIndex.toNat 0
        (releaseReplies (namedOf c) (fnMod (namedOf c) (fun x => { x with mode := .stopped, heldSince := none }) v))))) ∧
    (∀ (c : Cmd) (s t : State), accepts specFnLevel c s t → param c 0 1 = 1 ∨ param c 0 1 = 2 ∧ t.dev.level1Strap = false → ownedSqs t (namedOf c) + ownedCqs t (namedOf c) + ownedQps t (namedOf c) = 0 →
      exec (.fnLevel c) s = .next (okReply specFnLevel c (if fnLevel1 t (namedOf c) then 1 else 2) 0 0 (fnMod (namedOf c) (fun f => { f with level1 := param c 0 1 == 1 }) t))) ∧
    (∀ (c : Cmd) (s t : State) (f : Function), accepts specFnRetain c s t → 1 ≤ param c 0 2 → param c 0 2 ≤ 600 → fnGet t (namedOf c) = some f →
      exec (.fnRetain c) s = .next (okReply specFnRetain c f.retention 0 0 (fnMod (namedOf c) (fun g => { g with retention := param c 0 2 }) t)))

/-- mr.space sets the space of the function and writes the fault records that wait; mr.register gives a free index a live region with the
rights, base and length of the command and answers with its key; mr.deregister retires the key and owes its reply until no operation
uses it; mr.rekey moves the region to the next generation; mr.query answers with generation, base, length and rights. Rows: MR_SPACE,
MR_REGISTER, MR_DEREGISTER, MR_DEREGISTER_DONE, MR_REKEY, MR_QUERY. (R105, R97, R104, R96) -/
def Obligations.RegionCommandsComplete : Prop :=
    (∀ (c : Cmd) (s t : State) (sp : Space) (a : AddrSpace), accepts specMrSpace c s t → param c 0 8 % 4096 = 0 → param c 8 8 % 4096 = 0 → param c 16 8 % 64 = 0 → sizeOk (param c 24 1) = true → param c 26 2 < 2048 → partitionTotal t (namedOf c) + 2 ^ param c 24 1 ≤ 65536 → sp = { root := BitVec.ofNat 64 (param c 0 8), fqBase := BitVec.ofNat 64 (param c 8 8), fqHeader := BitVec.ofNat 64 (param c 16 8), fqLog2 := param c 24 1, fqVector := param c 26 2, written := 0, head := 0, overflow := false, overflowCount := 0 } → tabGet t.spaces (namedOf c) = some a →
      exec (.mrSpace c) s = .next (okReply specMrSpace c a.epoch.toNat 0 0 (pumpPartition (namedOf c) (spaceMod (namedOf c) (fun x => { x with space := some sp, waiting := x.waiting.map fun w => { w with full := false } }) t)))) ∧
    (∀ (c : Cmd) (s t : State) (a : AddrSpace) (i : Nat) (g : W8), accepts specMrRegister c s t → tabGet t.spaces (namedOf c) = some a → a.space.isSome = true → 1 ≤ param c 8 8 → param c 8 8 ≤ 2 ^ 48 → param c 0 8 + param c 8 8 ≤ 2 ^ 57 → rightsOk (param c 16 1) = true → freeRegion t = some (i, g) →
      exec (.mrRegister c) s = .next (okReply specMrRegister c ((makeKey i g).toNat) 0 0 ({ t with regions := tabSet t.regions i { fn := namedOf c, live := true, gen := g, dva := param c 0 8, len := param c 8 8, rights := BitVec.ofNat 8 (param c 16 1), freedAt := 0 } }))) ∧
    (∀ (c : Cmd) (s t : State) (a : AddrSpace) (r : Region), accepts specMrDeregister c s t → tabGet t.spaces (namedOf c) = some a → a.space.isSome = true → keyCheck12 t (namedOf c) (BitVec.ofNat 32 (param c 0 4)) = .ok r →
      exec (.mrDeregister c) s = .next (acceptedReply specMrDeregister c (.mrDeregister (BitVec.ofNat 32 (param c 0 4))) (retireKey (namedOf c) (keyIndex (BitVec.ofNat 32 (param c 0 4))) r.gen (regionMod (keyIndex (BitVec.ofNat 32 (param c 0 4))) (fun x => { x with live := false, freedAt := t.dev.now }) t)))) ∧
    (∀ (key : W32) (s : State), lit s = true → keyInUse s key = false → 
      exec (.mrDeregisterDone key) s = .next (finishCmds (fun d => if d = .mrDeregister key then some (.ok, 0, 0, 0) else none) s)) ∧
    (∀ (c : Cmd) (s t : State) (a : AddrSpace) (r : Region) (i : Nat), accepts specMrRekey c s t → tabGet t.spaces (namedOf c) = some a → a.space.isSome = true → keyCheck12 t (namedOf c) (BitVec.ofNat 32 (param c 0 4)) = .ok r → i = keyIndex (BitVec.ofNat 32 (param c 0 4)) → inQuarantine t i (nextGen i r.gen) = false →
      exec (.mrRekey c) s = .next (okReply specMrRekey c ((makeKey i (nextGen i r.gen)).toNat) 0 0 (retireKey (namedOf c) i r.gen (regionMod i (fun x => { x with gen := nextGen i r.gen }) t)))) ∧
    (∀ (c : Cmd) (s t : State) (a : AddrSpace) (r : Region), accepts specMrQuery c s t → tabGet t.spaces (namedOf c) = some a → a.space.isSome = true → tabGet t.regions (param c 0 4) = some r → r.live = true → r.fn = namedOf c →
      exec (.mrQuery c) s = .next (okReply specMrQuery c ((makeKey (param c 0 4) r.gen).toNat) r.dva (r.len + bits r.rights.toNat 0 6 * 2 ^ 49) t))

/-- mr.map stages one run of pages for each descriptor of its buffer and answers with their number; mr.unmap stages the removal; mr.sync
makes the staged changes current in a new epoch and is answered when no older segment is open; mr.fault.reply ends or continues the
suspended stream; the BAR4 windows are opened and closed; mr.spur.grant adds a grant, or, with a length of 0, revokes one and is
answered when no older segment is open. Rows: MR_MAP, MR_UNMAP, MR_SYNC, MR_SYNC_DONE, MR_FAULT_REPLY, MR_BAR4_OPEN, MR_BAR4_CLOSE,
MR_SPUR_GRANT, SPUR_REVOKE_DONE. (R100, R99, R102, R112, R116, R104, R101) -/
def Obligations.MappingCommandsComplete : Prop :=
    (∀ (c : Cmd) (s t : State) (a : AddrSpace) (l : List MapDesc) (u : State), accepts specMrMap c s t → tabGet t.spaces (namedOf c) = some a → a.space.isSome = true → c.indirect = true → c.length.toNat % 32 = 0 → c.length.toNat ≤ 32 * 2047 → l = (List.range (c.length.toNat / 32)).map (fun i => Machine.mapDesc (paramBytes c (32 * i) 32)) → t.tarns.reforming = false ∨ (l.any fun d => d.target == 1) = false → l.findSome? (descFault t (namedOf c) a) = none → stageDescs c (bits c.params.toNat 0 64) 0 l t = some u →
      exec (.mrMap c) s = .next (okReply specMrMap c l.length 0 0 u)) ∧
    (∀ (c : Cmd) (s t : State) (a : AddrSpace), accepts specMrUnmap c s t → tabGet t.spaces (namedOf c) = some a → a.space.isSome = true → param c 0 8 % 4096 = 0 → param c 8 8 % 4096 = 0 → param c 0 8 + param c 8 8 ≤ 2 ^ 57 →
      exec (.mrUnmap c) s = .next (okReply specMrUnmap c 0 0 0 (spaceMod (namedOf c) (fun x => { x with staged := x.staged ++ [.unmap (param c 0 8) (param c 8 8)] }) t))) ∧
    (∀ (c : Cmd) (s t : State) (a : AddrSpace), accepts specMrSync c s t → tabGet t.spaces (namedOf c) = some a → a.space.isSome = true →
      exec (.mrSync c) s = .next (acceptedReply specMrSync c (.mrSync (namedOf c) (a.epoch + 1) (unmappedBacking (commitEpoch (namedOf c) t) (namedOf c))) (commitEpoch (namedOf c) t))) ∧
    (∀ (fn : Nat) (rebuilt : Bool) (pages : List Nat) (s : State), lit s = true → rebuilt = (s.tarns.freeing.any fun x => x.1 == fn && !segmentsOpen s fn x.2) → pages = syncBacking s fn true ++ (if rebuilt then (unmappedBacking s fn).filter fun p => !(syncBacking s fn false).contains p else []) → 
      exec (.mrSyncDone fn) s = .next (freeBacking fn pages (finishCmds (syncReply s fn) (tarnMod (fun t => { t with freeing := t.freeing.filter fun x => !(x.1 == fn && !segmentsOpen s fn x.2) }) s)))) ∧
    (∀ (c : Cmd) (s t : State) (id : Nat) (x : Suspension), accepts specMrFaultReply c s t → suspensionOf t (namedOf c) (BitVec.ofNat 32 (param c 0 4)) = some (id, x) → param c 4 1 = 1 →
      exec (.mrFaultReply c) s = .next (okReply specMrFaultReply c 0 0 0 (failStream x { t with suspended := tabErase t.suspended id }))) ∧
    (∀ (c : Cmd) (s t : State) (id : Nat) (x : Suspension), accepts specMrFaultReply c s t → suspensionOf t (namedOf c) (BitVec.ofNat 32 (param c 0 4)) = some (id, x) → param c 4 1 = 0 → (missingIn t x.fn x.ranges).isEmpty = true →
      exec (.mrFaultReply c) s = .next (okReply specMrFaultReply c 0 0 0 (resumeStream x { t with suspended := tabErase t.suspended id }))) ∧
    (∀ (c : Cmd) (s t : State) (id : Nat) (x : Suspension) (u : State), accepts specMrFaultReply c s t → suspensionOf t (namedOf c) (BitVec.ofNat 32 (param c 0 4)) = some (id, x) → param c 4 1 = 0 → (missingIn t x.fn x.ranges).isEmpty = false → u = suspendOn x.fn x.stream (suspensionKind x) x.access x.work x.ranges (BitVec.ofNat 32 x.keyIndex) { t with suspended := tabErase t.suspended id } →
      exec (.mrFaultReply c) s = .next (okReply specMrFaultReply c 0 0 0 (match x.stream, x.prior with | .qp n, some v => keepPrior n x.work v u | _, _ => u))) ∧
    (∀ (c : Cmd) (s t : State) (a : AddrSpace) (r : Region) (w : Window), accepts specMrBar4Open c s t → tabGet t.spaces (namedOf c) = some a → a.space.isSome = true → param c 8 8 % 65536 = 0 → param c 16 1 < 4 → keyCheck12 t (namedOf c) (BitVec.ofNat 32 (param c 4 4)) = .ok r → (bit (param c 16 1) 0 = true → bit r.rights.toNat rightLocalRead = true) → (bit (param c 16 1) 1 = true → bit r.rights.toNat rightLocalWrite = true) → w = { index := keyIndex (BitVec.ofNat 32 (param c 4 4)), gen := r.gen, offset := param c 8 8, canRead := bit (param c 16 1) 0, canWrite := bit (param c 16 1) 1 } →
      exec (.mrBar4Open c) s = .next (okReply specMrBar4Open c 0 0 0 (spaceMod (namedOf c) (fun x => { x with windows := tabSet x.windows (param c 0 1) w }) t))) ∧
    (∀ (c : Cmd) (s t : State) (a : AddrSpace), accepts specMrBar4Close c s t → tabGet t.spaces (namedOf c) = some a → a.space.isSome = true →
      exec (.mrBar4Close c) s = .next (okReply specMrBar4Close c 0 0 0 (spaceMod (namedOf c) (fun x => { x with windows := tabErase x.windows (param c 0 1) }) t))) ∧
    (∀ (c : Cmd) (s t : State) (a : AddrSpace), accepts specMrSpurGrant c s t → tabGet t.spaces (namedOf c) = some a → param c 0 1 < 16 → 1 ≤ param c 16 8 → param c 8 8 + param c 16 8 ≤ 2 ^ 64 → a.grants.length < 16 →
      exec (.mrSpurGrant c) s = .next (okReply specMrSpurGrant c 0 0 0 (spaceMod (namedOf c) (fun x => { x with grants := x.grants ++ [{ port := param c 0 1, base := param c 8 8, len := param c 16 8 }] }) t))) ∧
    (∀ (c : Cmd) (s t : State) (a : AddrSpace) (g : Grant), accepts specMrSpurGrant c s t → tabGet t.spaces (namedOf c) = some a → param c 0 1 < 16 → param c 16 8 = 0 → (a.grants.find? fun g => g.port == param c 0 1 && g.base == param c 8 8) = some g →
      exec (.mrSpurGrant c) s = .next (laterReply specMrSpurGrant c (.spurRevoke (namedOf c) (a.epoch + 1) g (a.pages.filter (inWindow g)) a.staged) (spaceMod (namedOf c) (fun x => { revokeWindow g x with epoch := x.epoch + 1 }) t))) ∧
    (∀ (fn : Nat) (s : State), lit s = true → 
      exec (.spurRevokeDone fn) s = .next (finishCmds (revokeReply s fn) s))

/-- qp.create gives the lowest free number a new CREATED queue pair with the settings of the command; qp.connect writes both records of the
connection, sets its attributes and makes it READY; qp.query answers with the phase and the numbers that come next; qp.reset and
qp.destroy flush the queue pair and owe their reply until its last work is over, when it is CREATED again or gone. Rows: QP_CREATE,
QP_CONNECT, QP_QUERY, QP_RESET, QP_RESET_DONE, QP_DESTROY, QP_DESTROY_DONE. (R127, R128) -/
def Obligations.QueuePairCommandsComplete : Prop :=
    (∀ (c : Cmd) (s t : State), accepts specQpCreate c s t → createOk c t = true → tabFree t.qps 0 < 2 ^ 20 →
      exec (.qpCreate c) s = .next (okReply specQpCreate c (tabFree t.qps 0) 0 0 ({ t with qps := tabSet t.qps (tabFree t.qps 0) (newQp (newConf c) t.dev.now) }))) ∧
    (∀ (c : Cmd) (s t u : State) (q : Qp), accepts specQpConnect c s t → connectWaits c s = false → usableQp t (namedOf c) (param c 40 4) = some q →
      connectOk c q = true → q.phase = .created → sendKeySpent q = false → journalConnect (param c 40 4) (connectedConf c q.conf) t = some u →
      exec (.qpConnect c) s = .next (okReply specQpConnect c 0 0 0 (enterReady (param c 40 4) (connectedConf c q.conf) u))) ∧
    (∀ (c : Cmd) (s t : State) (q : Qp), accepts specQpQuery c s t → usableQp t (namedOf c) (param c 0 4) = some q →
      exec (.qpQuery c) s = .next (okReply specQpQuery c (qpPhaseCode q.phase) ((wireSeq q (nextToGo q).1).toNat) ((nextToGo q).2.toNat) t)) ∧
    (∀ (c : Cmd) (s t : State) (q : Qp), accepts specQpReset c s t → usableQp t (namedOf c) (param c 0 4) = some q →
      exec (.qpReset c) s = .next (acceptedReply specQpReset c (.qpReset (param c 0 4)) (flushQp (param c 0 4) false t))) ∧
    (∀ (qp : Nat) (q : Qp) (s : State), lit s = true → qpGet s qp = some q → q.ending = some false → (qpOpen s qp).isEmpty = true → 
      exec (.qpResetDone qp) s = .next (finishCmds (fun d => if d = .qpReset qp then some (.ok, 0, 0, 0) else none) (qpMod qp (fun x => { newQp { q.conf with connected := false } s.dev.now with weight := x.weight, violations := x.violations, sealing := x.sealing, counted := x.counted }) (freeConnection qp s)))) ∧
    (∀ (c : Cmd) (s t : State) (q : Qp), accepts specQpDestroy c s t → usableQp t (namedOf c) (param c 0 4) = some q →
      exec (.qpDestroy c) s = .next (acceptedReply specQpDestroy c (.qpDestroy (param c 0 4)) (flushQp (param c 0 4) true t))) ∧
    (∀ (qp : Nat) (q : Qp) (s : State), lit s = true → qpGet s qp = some q → q.ending = some true → (qpOpen s qp).isEmpty = true → 
      exec (.qpDestroyDone qp) s = .next (finishCmds (fun d => if d = .qpDestroy qp ∨ d = .qpReset qp then some (.ok, 0, 0, 0) else none) (removeQp qp s)))

/-- qp.admit records the admission of a flow that fits, with the bound that it answers; qp.release ends it; qp.admit.query answers with the
class, the violations and the bound; srq.create gives the lowest free number a shared queue, srq.destroy flushes one that no queue pair
uses; eht.port and eht.addr set the UDP port and a source address. Rows: QP_ADMIT, QP_RELEASE, QP_ADMIT_QUERY, SRQ_CREATE, SRQ_DESTROY,
EHT_PORT, EHT_ADDR. (R192, R172, R190, R129, R127, R119) -/
def Obligations.AdmissionAndAddressCommandsComplete : Prop :=
    (∀ (c : Cmd) (s t : State) (q : Qp) (f : Flow) (a : Admission), accepts specQpAdmit c s t → usableQp t (namedOf c) (param c 0 4) = some q → admitOk t c q = true → flowOf t (param c 0 4) q (param c 4 1) (param c 5 1) (param c 8 4) (param c 12 4) (param c 6 2) (t.dev.profile == .latency) = some f → mayJoin t f = true → partnerPath t q.conf.fn = false → a = { number := t.sched.nextAdmission, cls := f.cls, lossBound := f.lossBound, pathMask := BitVec.ofNat 16 (param c 6 2), rate := f.rate, burst := f.burst, msgMax := param c 16 4, netRtt := param c 20 4, bound := reportedBound t f (param c 20 4), withdrawn := false, links := sortedNats (f.routes.flatMap fun r => r.links), exits := sortedNats (f.routes.flatMap fun r => r.exits), ports := f.ports, latency := t.dev.profile == .latency } →
      exec (.qpAdmit c) s = .next (okReply specQpAdmit c (reportedBound t f (param c 20 4)) t.sched.nextAdmission.toNat 0 (grantAdmission (param c 0 4) a t))) ∧
    (∀ (c : Cmd) (s t : State) (q : Qp), accepts specQpRelease c s t → usableQp t (namedOf c) (param c 0 4) = some q →
      exec (.qpRelease c) s = .next (okReply specQpRelease c 0 0 0 (endAdmission (param c 0 4) t))) ∧
    (∀ (c : Cmd) (s t : State) (q : Qp), accepts specQpAdmitQuery c s t → usableQp t (namedOf c) (param c 0 4) = some q →
      exec (.qpAdmitQuery c) s = .next (okReply specQpAdmitQuery c (match admitted q with | some a => 1 + 2 * a.cls | none => 0) q.violations (match admitted q with | some a => a.bound | none => 0) t)) ∧
    (∀ (c : Cmd) (s t : State), accepts specSrqCreate c s t → param c 4 2 < 2048 → tabFree t.srqs 0 < 65536 →
      exec (.srqCreate c) s = .next (okReply specSrqCreate c (tabFree t.srqs 0) 0 0 ({ t with srqs := tabSet t.srqs (tabFree t.srqs 0) { fn := namedOf c, limit := param c 0 4, vector := param c 4 2, armed := false, buffers := [] } }))) ∧
    (∀ (c : Cmd) (s t : State) (u : State), accepts specSrqDestroy c s t → ownsSrq t (namedOf c) (param c 0 2) = true → (t.qps.any fun p => p.2.conf.useSrq && p.2.conf.srq == param c 0 2) = false → u = completeAll (srqOpen t (param c 0 2)) .flushed t →
      exec (.srqDestroy c) s = .next (okReply specSrqDestroy c 0 0 0 ({ u with srqs := tabErase u.srqs (param c 0 2) }))) ∧
    (∀ (c : Cmd) (s t : State), accepts specEhtPort c s t → 1024 ≤ param c 0 2 → (t.qps.any fun p => p.2.phase == .ready) = false →
      exec (.ehtPort c) s = .next (okReply specEhtPort c 0 0 0 (ethMod (fun e => { e with udpPort := BitVec.ofNat 16 (param c 0 2) }) t))) ∧
    (∀ (c : Cmd) (s t : State), accepts specEhtAddr c s t → param c 0 1 < 4 → param c 1 1 ≤ 1 → param c 2 2 ≤ 4095 ∨ param c 2 2 = 65535 →
      exec (.ehtAddr c) s = .next (okReply specEhtAddr c 0 0 0 (ethMod (fun e => { e with addrs := tabSet e.addrs (addrKey (namedOf c) (param c 0 1)) { kind := param c 1 1, vlan := if param c 2 2 = 65535 then none else some (param c 2 2), addr := BitVec.ofNat 128 (param c 4 16) } }) t)))

/-- ring.sq.create and ring.cq.create give the lowest free number of the function a ring with the settings of the command; ring.sched,
ring.moderate, ring.retry and ring.quota write their settings; ring.destroy removes a submission ring, and a completion ring that
nothing is bound to. Rows: RING_SQ_CREATE, RING_CQ_CREATE, RING_SCHED, RING_MODERATE, RING_DESTROY, RING_RETRY, RING_QUOTA,
HOST_WATCHDOG. (R64, R79, R63, R65, R76, R62, R85) -/
def Obligations.RingCommandsComplete : Prop :=
    (∀ (c : Cmd) (s t : State) (q : CplRing) (slot n : Nat) (r : SubRing), accepts specRingSqCreate c s t → param c 0 8 % 4096 = 0 → sizeOk (param c 8 1) = true → 1 ≤ param c 9 1 → 1 ≤ param c 10 1 → param c 10 1 ≤ 64 → cqGet t (namedOf c) (param c 12 2) = some q → ((List.range 8).find? fun i => !((boundTo t (namedOf c) (param c 12 2)).map fun p => p.2.slot).contains i) = some slot → (ringsOf t (namedOf c)).length < sqQuotaOf t (namedOf c) → t.sqs.length < 65536 → n = freeLocal t.sqs (namedOf c) → r = { base := BitVec.ofNat 64 (param c 0 8), log2 := param c 8 1, weight := param c 9 1, burst := param c 10 1, cq := param c 12 2, slot := slot, accepted := 0, prefetched := [], producer := 0, running := fnModeOf t (namedOf c) == .running, scanning := false, doorbellAt := 0, rereads := 0, rereadAt := 0, roundTaken := 0, visitTaken := 0 } →
      exec (.ringSqCreate c) s = .next (okReply specRingSqCreate c n slot 0 (emitHost (namedOf c) (.hostWrite (namedOf c) (q.header.toNat + 8 * slot) false 64 (acceptedWord 0 n true)) { t with sqs := tabSet t.sqs (pairKey (namedOf c) n) r }))) ∧
    (∀ (c : Cmd) (s t : State), accepts specRingCqCreate c s t → param c 0 8 % 4096 = 0 → param c 8 8 % 128 = 0 → sizeOk (param c 16 1) = true → vectorOk (param c 18 2) = true → 1 ≤ param c 20 2 → param c 20 2 ≤ 256 → param c 22 2 ≤ 1023 → (t.cqs.filter fun p => p.1 / 65536 == namedOf c).length < cqQuotaOf t (namedOf c) → t.cqs.length < 65536 →
      exec (.ringCqCreate c) s = .next (okReply specRingCqCreate c (freeLocal t.cqs (namedOf c)) 0 0 ({ t with cqs := tabSet t.cqs (pairKey (namedOf c) (freeLocal t.cqs (namedOf c))) { base := BitVec.ofNat 64 (param c 0 8), header := BitVec.ofNat 64 (param c 8 8), log2 := param c 16 1, vector := vectorOf (param c 18 2), modCount := param c 20 2, modTime := param c 22 2, written := 0, head := 0, outstanding := 0, counted := 0, firstCounted := none, blocked := false } }))) ∧
    (∀ (c : Cmd) (s t : State), accepts specRingSched c s t → (tabGet t.sqs (pairKey (namedOf c) (param c 0 2))).isSome = true → 1 ≤ param c 2 1 → 1 ≤ param c 3 1 → param c 3 1 ≤ 64 →
      exec (.ringSched c) s = .next (okReply specRingSched c 0 0 0 ({ t with sqs := tabMod t.sqs (pairKey (namedOf c) (param c 0 2)) fun r => { r with weight := param c 2 1, burst := param c 3 1 } }))) ∧
    (∀ (c : Cmd) (s t : State), accepts specRingModerate c s t → (tabGet t.cqs (pairKey (namedOf c) (param c 0 2))).isSome = true →
      1 ≤ param c 2 2 → param c 2 2 ≤ 256 → param c 4 2 ≤ 1023 → vectorOk (param c 6 2) = true →
      exec (.ringModerate c) s = .next (judgeCq (pairKey (namedOf c) (param c 0 2)) (okReply specRingModerate c 0 0 0
        (cqMod (pairKey (namedOf c) (param c 0 2)) (fun q => { q with modCount := param c 2 2, modTime := param c 4 2, vector := vectorOf (param c 6 2) }) t)))) ∧
    (∀ (c : Cmd) (s t : State) (r : SubRing) (q : CplRing), accepts specRingDestroy c s t → param c 0 1 = 0 → tabGet t.sqs (pairKey (namedOf c) (param c 2 2)) = some r → cqGet t (namedOf c) r.cq = some q →
      exec (.ringDestroy c) s = .next (okReply specRingDestroy c 0 0 0 (emit (.hostWrite (namedOf c) (q.header.toNat + 8 * r.slot) false 64 (acceptedWord 0 0 false)) (dropRingRecords (pairKey (namedOf c) (param c 2 2)) { t with sqs := tabErase t.sqs (pairKey (namedOf c) (param c 2 2)) })))) ∧
    (∀ (c : Cmd) (s t : State), accepts specRingDestroy c s t → param c 0 1 = 1 → (tabGet t.cqs (pairKey (namedOf c) (param c 2 2))).isNone = false → (boundTo t (namedOf c) (param c 2 2)).isEmpty = true →
      exec (.ringDestroy c) s = .next (okReply specRingDestroy c 0 0 0 ({ t with cqs := tabErase t.cqs (pairKey (namedOf c) (param c 2 2)) }))) ∧
    (∀ (c : Cmd) (s t : State), accepts specRingRetry c s t → 1 ≤ param c 0 1 → param c 0 1 ≤ 16 → param c 1 1 ≤ 15 →
      exec (.ringRetry c) s = .next (okReply specRingRetry c 0 0 0 (fnMod (namedOf c) (fun f => { f with retryDelay := param c 0 1, retryCount := param c 1 1 }) t))) ∧
    (∀ (c : Cmd) (s t : State) (u : State), accepts specRingQuota c s t → param c 0 2 ≤ 8192 → param c 2 2 ≤ 8192 → u = fnMod (namedOf c) (fun f => { f with sqQuota := param c 0 2, cqQuota := param c 2 2 }) t → (ringsOf t (namedOf c)).length ≤ param c 0 2 → (t.cqs.filter fun p => p.1 / 65536 == namedOf c).length ≤ param c 2 2 → (ringsOf t 0).length ≤ sqQuotaOf u 0 → (t.cqs.filter fun p => p.1 / 65536 == 0).length ≤ cqQuotaOf u 0 →
      exec (.ringQuota c) s = .next (okReply specRingQuota c 0 0 0 u)) ∧
    (∀ (c : Cmd) (s t : State), accepts specHostWatchdog c s t → param c 0 2 ≤ 10000 →
      exec (.hostWatchdog c) s = .next (okReply specHostWatchdog c 0 0 0 (fnMod (namedOf c) (fun f => { f with watchdogMs := param c 0 2, watchdogAt := if param c 0 2 = 0 ∨ f.mode ≠ .running then none else some (t.dev.now + 1000000 * param c 0 2) }) t)))

/-- cc.class, qos.share, sched.tc and sched.qp write their settings; shaper.set and policer.set record the change that the next refill takes
up and owe their one reply until then. Rows: CC_CLASS, QOS_SHARE, SCHED_TC, SCHED_QP, SHAPER_SET, POLICER_SET. (R186, R180, R179, R183,
R184) -/
def Obligations.SchedulingCommandsComplete : Prop :=
    (∀ (c : Cmd) (s t : State), accepts specCcClass c s t → param c 0 1 < 8 → 250 ≤ param c 4 4 → param c 4 4 ≤ 1000000 → 250 ≤ param c 8 4 → param c 8 4 ≤ 1000000 → param c 12 1 ≤ 10 →
      exec (.ccClass c) s = .next (okReply specCcClass c 0 0 0 (schedMod (fun y => { y with classes := tabSet y.classes (param c 0 1) { targetFab := param c 4 4, targetEth := param c 8 4, rInitShift := some (param c 12 1) } }) t))) ∧
    (∀ (c : Cmd) (s t : State), accepts specQosShare c s t → 1 ≤ param c 0 2 → param c 0 2 ≤ 10000 →
      exec (.qosShare c) s = .next (okReply specQosShare c (fnShare t (namedOf c)) 0 0 (fnMod (namedOf c) (fun f => { f with share := param c 0 2 }) t))) ∧
    (∀ (c : Cmd) (s t : State), accepts specSchedTc c s t → egressPortOk (param c 0 1) = true → (((List.range 4).map fun i => param c (1 + i) 1).all fun x => decide (1 ≤ x)) = true →
      exec (.schedTc c) s = .next (okReply specSchedTc c 0 0 0 ({ t with sched := { t.sched with tcWeights := tabSet t.sched.tcWeights (param c 0 1) ((List.range 4).map fun i => param c (1 + i) 1) } }))) ∧
    (∀ (c : Cmd) (s t : State), accepts specSchedQp c s t → ownsQp t (namedOf c) (param c 0 4) = true → 1 ≤ param c 4 1 →
      exec (.schedQp c) s = .next (okReply specSchedQp c 0 0 0 (qpMod (param c 0 4) (fun q => { q with weight := param c 4 1 }) t))) ∧
    (∀ (c : Cmd) (s t : State) (key : Nat) (u : State), accepts specShaperSet c s t → u = dueRefills t → shaperNamed c u = some key → 9216 ≤ param c 12 4 → shaperNeedsPf0 c u = false ∨ issuerOf c = 0 →
      exec (.shaperSet c) s = .next (laterReply specShaperSet c (.shaperSet key (param c 8 4) (param c 12 4)) (schedMod (fun y => { y with shapers := tabSet y.shapers key { (tabGet u.sched.shapers key).getD { rate := 0, depth := 0, tokens := 0, change := none } with change := some (param c 8 4, param c 12 4) } }) u))) ∧
    (∀ (c : Cmd) (s t : State) (key : Nat) (u : State), accepts specPolicerSet c s t → param c 0 1 < 32 → param c 1 1 < 4 → param c 4 4 ≤ param c 8 4 → 9216 ≤ param c 12 4 → 9216 ≤ param c 16 4 → key = policerKey (param c 0 1) (param c 1 1) → u = dueRefills t →
      exec (.policerSet c) s = .next (laterReply specPolicerSet c (.policerSet key (param c 4 4) (param c 8 4) (param c 12 4) (param c 16 4)) (schedMod (fun y => { y with policers := tabSet y.policers key { (tabGet u.sched.policers key).getD { cir := 0, pir := 0, cbs := 0, pbs := 0, tc := param c 12 4, tp := param c 16 4, change := none } with change := some (param c 4 4, param c 8 4, param c 12 4, param c 16 4) } }) u)))

/-- snd.ring, snd.add and snd.remove write the sounding ring and its queues; cnt.read writes the counter block of the helm bus or of a link
and clears its crossings; cnt.notify sets the vector. Rows: SND_RING, SND_ADD, SND_REMOVE, CNT_READ. (R188, R189, R190, R372) -/
def Obligations.SoundingAndCounterCommandsComplete : Prop :=
    (∀ (c : Cmd) (s t : State), accepts specSndRing c s t → param c 0 8 % 4096 = 0 → param c 8 8 % 64 = 0 → sizeOk (param c 16 1) = true → param c 18 2 < 2048 →
      exec (.sndRing c) s = .next (okReply specSndRing c 0 0 0 (fnMod (namedOf c) (fun f => { f with sounding := some { base := BitVec.ofNat 64 (param c 0 8), header := BitVec.ofNat 64 (param c 8 8), log2 := param c 16 1, vector := param c 18 2, written := 0, head := 0, dropped := 0, signalledAt := none } }) t))) ∧
    (∀ (c : Cmd) (s t : State) (rest : List Sounding), accepts specSndAdd c s t → param c 0 1 ≤ 3 → param c 1 1 ≤ 16 → namedOf c = 0 ∨ param c 0 1 ≤ 1 → queueNamed t (param c 0 1) (param c 4 4) = true → queueOwned t (namedOf c) (param c 0 1) (param c 4 4) = true → rest = t.sched.soundings.filter (fun x => !isSounding (namedOf c) (param c 0 1) (param c 4 4) x) → rest.length < 4096 → (rest.map fun x => (1 : Rat) / (2 ^ x.k : Nat)).sum + (1 : Rat) / (2 ^ param c 1 1 : Nat) ≤ 64 →
      exec (.sndAdd c) s = .next (okReply specSndAdd c 0 0 0 (schedMod (fun y => { y with soundings := rest ++ [{ fn := namedOf c, kind := param c 0 1, id := BitVec.ofNat 20 (param c 4 4), k := param c 1 1, nextAt := nextMultiple t.dev.now (1000 * 2 ^ param c 1 1) }] }) t))) ∧
    (∀ (c : Cmd) (s t : State), accepts specSndRemove c s t → (t.sched.soundings.any fun x => isSounding (namedOf c) (param c 0 1) (param c 4 4) x) = true →
      exec (.sndRemove c) s = .next (okReply specSndRemove c 0 0 0 ({ t with sched := { t.sched with soundings := t.sched.soundings.filter fun x => !isSounding (namedOf c) (param c 0 1) (param c 4 4) x } }))) ∧
    (∀ (c : Cmd) (s t : State), accepts specCntRead c s t → param c 0 2 = 0x0180 → issuerOf c = 0 → 528 ≤ param c 16 4 →
      exec (.cntRead c) s = .next (okReply specCntRead c 0 0 0 (writeResult c (param c 8 8) 4224 (counterBits t.dev.now t.helm.halfCrossed t.helm.counters) { t with helm := { t.helm with halfCrossed := 0 } }))) ∧
    (∀ (c : Cmd) (s t : State) (l : Link) (u : State), accepts specCntRead c s t → 0x0100 ≤ param c 0 2 → param c 0 2 < 0x0120 → issuerOf c = 0 → 528 ≤ param c 16 4 → u = countHeldNs (param c 0 2 - 0x0100) t → linkGet u (param c 0 2 - 0x0100) = some l → configured t (param c 0 2 - 0x0100) = true →
      exec (.cntRead c) s = .next (okReply specCntRead c 0 0 0 (writeResult c (param c 8 8) 4224 (counterBits t.dev.now l.halfCrossed l.counters) (linkMod (param c 0 2 - 0x0100) (fun l => { l with halfCrossed := 0 }) u))))

/-- cnt.notify sets or clears the vector; eth.port.set takes the links of a port that no queue pair uses down and writes its settings;
eth.port.query answers with the state of a link; eth.pfc resumes the priorities it disables and writes the thresholds; eth.frames sets
or removes the frame ring; eth.frame.send queues the frame on a link that is up and is answered when it left, and drops it on a link
that is down; eth.mcast writes the multicast filter. Rows: CNT_NOTIFY, ETH_PORT_SET, ETH_PORT_QUERY, ETH_PFC, ETH_FRAMES,
ETH_FRAME_SEND, ETH_MCAST. (R371, R348, R373, R359, R360, R361, R355) -/
def Obligations.EthernetCommandsComplete : Prop :=
    (∀ (c : Cmd) (s t : State), accepts specCntNotify c s t → param c 0 2 < 2048 ∨ param c 0 2 = 0xFFFF →
      exec (.cntNotify c) s = .next (okReply specCntNotify c 0 0 0 (ethMod (fun e => { e with cntVector := if param c 0 2 = 0xFFFF then none else some (param c 0 2) }) t))) ∧
    (∀ (c : Cmd) (s t : State), accepts specEthPortSet c s t → param c 0 1 < 4 → param c 1 1 ≤ 4 → param c 2 1 ≤ 2 → param c 3 1 ≤ 1 → param c 4 1 ≤ 1 → 2 ≤ param c 6 2 ∧ param c 6 2 ≤ 100 → param c 8 1 % 8 = 0 → portInUse t (param c 0 1) = false →
      exec (.ethPortSet c) s = .next (okReply specEthPortSet c 0 0 0 (settleClock (2 + param c 0 1) (judgePaths (ethMod (fun e => { e with ports := tabMod e.ports (param c 0 1) fun x => { x with mode := param c 1 1, medium := param c 2 1, prioDscp := param c 3 1 == 1, lpiEnable := param c 4 1 == 1, wakeMax := param c 6 2, macBase := BitVec.ofNat 48 (param c 8 6) } }) ((List.range 8).foldl (fun u b => linkDown (8 * param c 0 1 + b) u) t)))))) ∧
    (∀ (c : Cmd) (s t : State) (l : Link), accepts specEthPortQuery c s t → linkGet t (param c 0 1) = some l →
      exec (.ethPortQuery c) s = .next (okReply specEthPortQuery c (pack [(0, 1, flag l.up), (1, 1, flag l.txLpi), (2, 1, flag l.rxLpi), (3, 8, portMode t (param c 0 1 / 8))]) (l.wakeNs.getD 0) l.changedAt t)) ∧
    (∀ (c : Cmd) (s t : State) (u : State) (lift : Nat), accepts specEthPfc c s t → configured t (param c 0 1) = true → pfcFits (linkBuffer t (param c 0 1)) (param c 1 1) (param c 4 4) (param c 8 4) = true → lift = prioMask (fun q => !bit (param c 1 1) q && (match linkGet t (param c 0 1) with | some l => bit l.pausing.toNat q | none => false)) → u = ((List.range 8).filter fun q => !bit (param c 1 1) q).foldl (fun v q => resumeTc (param c 0 1) q v) t →
      exec (.ethPfc c) s = .next (okReply specEthPfc c 0 0 0 (judgePause (param c 0 1) (linkMod (param c 0 1) (fun l => { l with pfcEnable := BitVec.ofNat 8 (param c 1 1), xoff := param c 4 4, headroom := param c 8 4, pausing := l.pausing &&& BitVec.ofNat 8 (param c 1 1) }) (sendPfc (param c 0 1) (if linkUp t (param c 0 1) then lift else 0) (fun _ => 0) u))))) ∧
    (∀ (c : Cmd) (s t : State), accepts specEthFrames c s t → param c 0 8 = 0 →
      exec (.ethFrames c) s = .next (okReply specEthFrames c 0 0 0 (ethMod (fun e => { e with ring := none }) t))) ∧
    (∀ (c : Cmd) (s t : State), accepts specEthFrames c s t → param c 0 8 ≠ 0 → param c 0 8 % 4096 = 0 → param c 8 8 % 64 = 0 → param c 16 8 % 4096 = 0 → 4 ≤ param c 24 1 ∧ param c 24 1 ≤ 12 → param c 25 1 ≤ 1 → param c 26 2 < 2048 →
      exec (.ethFrames c) s = .next (okReply specEthFrames c 0 0 0 (ethMod (fun e => { e with ring := some { base := BitVec.ofNat 64 (param c 0 8), header := BitVec.ofNat 64 (param c 8 8), buf := BitVec.ofNat 64 (param c 16 8), log2 := param c 24 1, copyLldp := param c 25 1 == 1, vector := param c 26 2, written := 0, head := 0, signalledAt := none, events := [] } }) t))) ∧
    (∀ (c : Cmd) (s t : State), accepts specEthFrameSend c s t → c.indirect = true → configured t (param c 0 1) = true → param c 1 1 < 4 → 14 ≤ param c 2 2 ∧ param c 2 2 ≤ 9212 → isLldp (paramBytes c 64 (param c 2 2)) = false → linkUp t (param c 0 1) = true →
      exec (.ethFrameSend c) s = .next (laterReply specEthFrameSend c (.frameSend (param c 0 1) (param c 1 1) t.dev.now (paramBytes c 64 (param c 2 2))) t)) ∧
    (∀ (c : Cmd) (s t : State), accepts specEthFrameSend c s t → c.indirect = true → configured t (param c 0 1) = true → param c 1 1 < 4 → 14 ≤ param c 2 2 ∧ param c 2 2 ≤ 9212 → isLldp (paramBytes c 64 (param c 2 2)) = false → linkUp t (param c 0 1) = false →
      exec (.ethFrameSend c) s = .next (okReply specEthFrameSend c 0 0 0 t)) ∧
    (∀ (c : Cmd) (s t : State), accepts specEthMcast c s t → c.indirect = true → configured t (param c 0 1) = true → param c 1 1 ≤ 16 →
      exec (.ethMcast c) s = .next (okReply specEthMcast c 0 0 0 (linkMod (param c 0 1) (fun l => { l with mcast := macList c 8 (param c 1 1) }) t)))

/-- helm.set replaces the allow list; helm.query answers with the address of the device, the carrier and the frames that wait. Rows:
HELM_SET, HELM_QUERY. (R369) -/
def Obligations.HelmCommandsComplete : Prop :=
    (∀ (c : Cmd) (s t : State), accepts specHelmSet c s t → param c 0 1 ≤ 4 →
      exec (.helmSet c) s = .next (okReply specHelmSet c 0 0 0 (helmMod (fun h => { h with allow := macList c 8 (param c 0 1) }) t))) ∧
    (∀ (c : Cmd) (s t : State), accepts specHelmQuery c s t →
      exec (.helmQuery c) s = .next (okReply specHelmQuery c Config.helmMac.toNat (flag (bit (Config.freeWord t.dev.fresh).toNat 0)) (helmWaiting t) (takeFresh t)))

/-- coll.setup with free fathoms reserves them, starts the setup exchange and owes its reply; without them the group waits, and
FATHOM_RESERVATION_GRANT, COLL_SETUP_READY and COLL_SETUP_TIMEOUT carry it on or end it; coll.teardown aborts and leaves, coll.query
answers with the state of the group, coll.abort starts the abort of a collective that is not over. Rows: COLL_SETUP,
FATHOM_RESERVATION_GRANT, COLL_SETUP_READY, COLL_SETUP_TIMEOUT, COLL_TEARDOWN, COLL_TEARDOWN_DONE, COLL_QUERY, COLL_ABORT_CMD. (R232,
R255, R234, R257, R276, R271) -/
def Obligations.GroupCommandsComplete : Prop :=
    (∀ (c : Cmd) (s t : State) (p : CollGroup × Collectives), accepts specCollSetup c s t → param c 0 2 < 4096 → groupGet t (param c 0 2) = none → 1 ≤ param c 2 1 → param c 2 1 ≤ 16 → param c 3 1 < 4 → t.fabric.ident.isSome = true → isMemberDevice (newGroup c t) (ownDev t) = true → 16 ≤ param c 24 2 → param c 24 2 ≤ 512 → param c 26 1 < 2 → param c 28 4 ≤ 600000 → reserve (!(t.coll.groups.any fun p => p.2.mode == .waiting)) (spillTotal t) (newGroup c t) t.coll = some p →
      exec (.collSetup c) s = .next (acceptedReply specCollSetup c (.collSetup (param c 0 2)) (startExchange (param c 0 2) (collMod (fun _ => { p.2 with groups := tabSet p.2.groups (param c 0 2) p.1, nextOrder := p.2.nextOrder + 1 }) t)))) ∧
    (∀ (c : Cmd) (s t : State), accepts specCollSetup c s t → param c 0 2 < 4096 → groupGet t (param c 0 2) = none → 1 ≤ param c 2 1 → param c 2 1 ≤ 16 → param c 3 1 < 4 → t.fabric.ident.isSome = true → isMemberDevice (newGroup c t) (ownDev t) = true → 16 ≤ param c 24 2 → param c 24 2 ≤ 512 → param c 26 1 < 2 → param c 28 4 ≤ 600000 → reserve (!(t.coll.groups.any fun p => p.2.mode == .waiting)) (spillTotal t) (newGroup c t) t.coll = none →
      exec (.collSetup c) s = .next (acceptedReply specCollSetup c (.collSetup (param c 0 2)) (collMod (fun _ => { t.coll with groups := tabSet t.coll.groups (param c 0 2) (newGroup c t), nextOrder := t.coll.nextOrder + 1 }) t))) ∧
    (∀ (slot : Nat) (g : CollGroup) (p : CollGroup × Collectives) (s : State), lit s = true → oldestWaiting s = some (slot, g) → reserve true (spillTotal s) g s.coll = some p → 
      exec .fathomReservationGrant s = .next (startExchange slot (collMod (fun _ => { p.2 with groups := tabSet p.2.groups slot p.1 }) s))) ∧
    (∀ (slot : Nat) (records : List W64) (g g1 : CollGroup) (u : State) (r : Nat) (s : State), lit s = true → groupGet s slot = some g → g.mode = .setup → (readRecords g).1.map Prod.fst = memberDevices g → g.records.map Prod.snd = records → (readRecords g).2 = true → g1 = { g with devices := (readRecords g).1, mode := .ready } → memberCount g1 ≤ 65536 → journalPut slot (.collGroup slot) s = some (r, u) → 
      exec (.collSetupReady slot records) s = .next (collGo slot (finishOn (.collSetup slot) .ok ((if g.spilled then 0 else g.fathoms) + 1024 * flag g.spilled) (rankBase g1 (ownDev s) + 2 ^ 32 * memberCount g1) (memberDevices g).length (groupMod slot (fun _ => { g1 with record := some r }) u)))) ∧
    (∀ (slot at0 : Nat) (g : CollGroup) (s : State), lit s = true → groupGet s slot = some g → g.mode = .waiting ∨ g.mode = .setup → g.timeoutAt = some at0 → 
      exec (.collSetupTimeout slot) s = .next (failSetup slot .collNores (advanceTo at0 s))) ∧
    (∀ (c : Cmd) (s t : State) (g : CollGroup), accepts specCollTeardown c s t → groupGet t (param c 0 2) = some g → g.fn = namedOf c → g.tearing = false →
      exec (.collTeardown c) s = .next (acceptedReply specCollTeardown c (.collTeardown (param c 0 2)) (tearDown (param c 0 2) t))) ∧
    (∀ (slot : Nat) (g : CollGroup) (s : State), lit s = true → groupGet s slot = some g → g.tearing = true → contOpen s (.coll slot) = false → 
      exec (.collTeardownDone slot) s = .next (finishOn (.collTeardown slot) .ok 0 0 0 (dropGroup slot s))) ∧
    (∀ (c : Cmd) (s t : State) (g : CollGroup), accepts specCollQuery c s t → groupGet t (param c 0 2) = some g → g.fn = namedOf c →
      exec (.collQuery c) s = .next (okReply specCollQuery c ((match g.mode with | .waiting => 0 | .setup => 0 | .ready => 1 | .broken => 2) + 4 * (if g.spilled ∨ g.mode = .waiting then 0 else g.fathoms) + 4096 * flag g.spilled) g.startSeq.toNat g.failed t)) ∧
    (∀ (c : Cmd) (s t : State) (g : CollGroup), accepts specCollAbort c s t → groupGet t (param c 0 2) = some g → g.fn = namedOf c → g.mode ≠ .ready ∨ seqEnded g (BitVec.ofNat 32 (param c 4 4)) = true →
      exec (.collAbortCmd c) s = .next (okReply specCollAbort c 0 0 0 t)) ∧
    (∀ (c : Cmd) (s t : State) (g : CollGroup), accepts specCollAbort c s t → groupGet t (param c 0 2) = some g → g.fn = namedOf c → g.mode = .ready → seqEnded g (BitVec.ofNat 32 (param c 4 4)) = false →
      exec (.collAbortCmd c) s = .next (okReply specCollAbort c 0 0 0 (collGo (param c 0 2) (startAbort (param c 0 2) (BitVec.ofNat 32 (param c 4 4)) .collAborted false t))))

/-- kv.pool.create makes the pool of a free number once its geometry and its key pass; kv.pool.destroy and kv.seal owe their replies until
the requests are over and the blocks are sealed; kv.pool.query answers with size, pins and misses; kv.user.reset clears the metadata of
a user; kv.user.pin and kv.user.unpin owe theirs until the pin is ready or gone; kv.partner joins two facing spur ports. Rows:
KV_POOL_CREATE, KV_POOL_DESTROY, KV_POOL_DESTROY_DONE, KV_POOL_QUERY, KV_SEAL, KV_SEAL_DONE, KV_USER_RESET, KV_USER_PIN,
KV_USER_PIN_DONE, KV_USER_UNPIN, KV_USER_UNPIN_DONE, KV_PARTNER. (R279, R305, R284, R285, R286, R292) -/
def Obligations.PoolCommandsComplete : Prop :=
    (∀ (c : Cmd) (s t : State), accepts specPoolCreate c s t → poolGet t (param c 0 1) = none → geometryOk (poolOfCmd c) = true → keyCheck t (poolOfCmd c).fn (poolOfCmd c).key rightLocalRead (poolOfCmd c).dva (poolBytes (poolOfCmd c)) = none → keyCheck t (poolOfCmd c).fn (poolOfCmd c).key rightLocalWrite (poolOfCmd c).dva (poolBytes (poolOfCmd c)) = none →
      exec (.kvPoolCreate c) s = .next (okReply specPoolCreate c (poolBytes (poolOfCmd c)) 0 0 (cacheMod (fun x => { x with pools := tabSet x.pools (param c 0 1) (poolOfCmd c) }) t))) ∧
    (∀ (c : Cmd) (s t : State) (p : Pool), accepts specPoolDestroy c s t → poolGet t (param c 0 1) = some p → p.fn = namedOf c → p.ending = false →
      exec (.kvPoolDestroy c) s = .next (acceptedReply specPoolDestroy c (.kvPoolDestroy (param c 0 1)) (cacheMod (fun x => { x with pools := tabMod x.pools (param c 0 1) fun p => { p with ending := true } }) t))) ∧
    (∀ (pool : Nat) (p : Pool) (s : State), lit s = true → poolGet s pool = some p → p.ending = true → (openRequests s pool).isEmpty = true → 
      exec (.kvPoolDestroyDone pool) s = .next (finishOn (.kvPoolDestroy pool) .ok 0 0 0 (dropPool pool s))) ∧
    (∀ (c : Cmd) (s t : State) (p : Pool), accepts specPoolQuery c s t → poolGet t (param c 0 1) = some p → p.fn = namedOf c →
      exec (.kvPoolQuery c) s = .next (okReply specPoolQuery c (poolBytes p) (pack [(0, 16, (t.cache.pins.filter fun x => x.pool == param c 0 1 && x.ready).length), (16, 1, flag (holdActive t))]) p.misses t)) ∧
    (∀ (c : Cmd) (s t : State) (p : Pool), accepts specSeal c s t → poolGet t (param c 0 1) = some p → p.fn = namedOf c → 1 ≤ param c 2 1 → param c 1 1 + param c 2 1 ≤ p.layers → param c 4 2 < p.maxUsers → param c 8 4 ≤ 64 * p.maxBlocks →
      exec (.kvSeal c) s = .next (acceptedReply specSeal c (.kvSeal (param c 0 1) (param c 4 2) (param c 1 1) (param c 2 1) (param c 8 4 / 64) 0) t)) ∧
    (∀ (pool user first count blocks : Nat) (x : Pending) (p : Pool) (r : State × Nat × Bool) (s : State), lit s = true → s.commands.find? (fun y => (sealJob pool user y.what).isSome) = some x → sealJob pool user x.what = some (first, count, blocks) → poolGet s pool = some p → r = ((List.range count).map fun i => first + i).foldl (fun acc l => if acc.2.2 then sealUpTo (p.maxBlocks + 1) pool p user l blocks acc.1 acc.2.1 else acc) (s, 0, true) → 
      exec (.kvSealDone pool user) s = .next (answer x (if r.2.2 then .ok else .cacheMiss) r.2.1 0 0 { r.1 with commands := r.1.commands.erase x })) ∧
    (∀ (c : Cmd) (s t : State) (p : Pool) (u : State), accepts specUserReset c s t → poolGet t (param c 0 1) = some p → p.fn = namedOf c → param c 2 2 < p.maxUsers → (t.cache.pins.any fun x => x.pool == param c 0 1 && x.user == param c 2 2) = false → userOpen t (param c 0 1) (param c 2 2) false = false → u = (List.range p.layers).foldl (fun v l => if (poolMiss v p (metaAt p (param c 2 2)) 4).isNone then poolWrite p (metaAt p (param c 2 2) + 4 * l) (leBytes 4 0) v else v) t →
      exec (.kvUserReset c) s = .next (okReply specUserReset c 0 0 0 (cacheMod (fun x => { x with sealedBlocks := x.sealedBlocks.filter fun q => q.1 / 128 != param c 0 1 * 4096 + param c 2 2 }) u))) ∧
    (∀ (c : Cmd) (s t : State) (p : Pool), accepts specUserPin c s t → poolGet t (param c 0 1) = some p → p.fn = namedOf c → param c 2 2 < p.maxUsers → (t.cache.pins.any fun x => x.pool == param c 0 1 && x.user == param c 2 2) = false → pinsTake t pinSummary + pinSummary p ≤ residency t → pinsTake t pinPages + pinPages p ≤ 1048576 →
      exec (.kvUserPin c) s = .next (acceptedReply specUserPin c (.kvPin (param c 0 1) (param c 2 2)) (cacheMod (fun x => { x with pins := x.pins ++ [{ pool := param c 0 1, user := param c 2 2, ready := false, ending := false }] }) t))) ∧
    (∀ (pool user : Nat) (p : Pool) (s : State), lit s = true → poolGet s pool = some p → (s.cache.pins.any fun x => x.pool == pool && x.user == user && !x.ready) = true → 
      exec (.kvUserPinDone pool user) s = .next (finishOn (.kvPin pool user) .ok 0 0 0 (loadSummaries pool p user (pinMod pool user (fun x => { x with ready := true }) s)))) ∧
    (∀ (c : Cmd) (s t : State) (p : Pool), accepts specUserUnpin c s t → poolGet t (param c 0 1) = some p → p.fn = namedOf c → param c 2 2 < p.maxUsers → (t.cache.pins.any fun x => x.pool == param c 0 1 && x.user == param c 2 2 && x.ready && !x.ending) = true →
      exec (.kvUserUnpin c) s = .next (acceptedReply specUserUnpin c (.kvUnpin (param c 0 1) (param c 2 2)) (pinMod (param c 0 1) (param c 2 2) (fun x => { x with ending := true }) t))) ∧
    (∀ (pool user : Nat) (s : State), lit s = true → userOpen s pool user true = false → 
      exec (.kvUserUnpinDone pool user) s = .next (finishOn (.kvUnpin pool user) .ok 0 0 0 (dropPins (fun x => x.pool == pool && x.user == user && x.ending) s))) ∧
    (∀ (c : Cmd) (s t : State) (x y : FabPort), accepts specPartner c s t → portGet t (param c 0 1) = some x → portGet t (param c 1 1) = some y → param c 0 1 ≠ param c 1 1 → x.role = .spur → y.role = .spur → x.active = true → y.active = true → x.partnerDev = y.partnerDev → param c 2 1 < 2 → admittedEndpoint t (param c 0 1) = false → admittedEndpoint t (param c 1 1) = false →
      exec (.kvPartner c) s = .next (okReply specPartner c 0 0 0 (portMod (param c 1 1) (fun z => { z with partner := if param c 2 1 = 1 then some (param c 0 1) else none }) (portMod (param c 0 1) (fun z => { z with partner := if param c 2 1 = 1 then some (param c 1 1) else none }) (partPorts (param c 0 1) (param c 1 1) t)))))

/-- pwr.grant with a grant that follows the one in force sets the grant and its end and answers with the boundary, the budget and the mean
power; pwr.fallback answers with the old fallback budget and sets the new one; pwr.query writes the power record and restarts the 50 us
peak; pwr.learn queues the ceilings to be learned. Rows: PWR_GRANT, PWR_FALLBACK, PWR_QUERY, PWR_LEARN. (R406, R407, R427, R415) -/
def Obligations.PowerCommandsComplete : Prop :=
    (∀ (c : Cmd) (s t : State) (ms : Nat), accepts specPwrGrant c s t → 300 ≤ param c 0 2 ∧ param c 0 2 ≤ 800 → ms = (if param c 2 2 = 0 then 30 else param c 2 2) → 10 ≤ ms ∧ ms ≤ 1000 → grantFollows (BitVec.ofNat 32 (param c 4 4)) t.power.grantSeq = true →
      exec (.pwrGrant c) s = .next (okReply specPwrGrant c (nextMultiple t.dev.now 1000) (budget t) t.power.meas.mean1ms (endExpiry (powerMod (fun p => { p with grantW := param c 0 2, grantSeq := BitVec.ofNat 32 (param c 4 4), validUntil := some (t.dev.now + 1000000 * ms) }) t)))) ∧
    (∀ (c : Cmd) (s t : State), accepts specPwrFallback c s t → 300 ≤ param c 0 2 ∧ param c 0 2 ≤ 760 →
      exec (.pwrFallback c) s = .next (okReply specPwrFallback c t.power.fallback 0 0 (powerMod (fun p => { p with fallback := param c 0 2 }) t))) ∧
    (∀ (c : Cmd) (s t : State), accepts specPwrQuery c s t → isHelm c = true ∨ param c 0 8 % 64 = 0 ∧ 256 ≤ param c 8 4 →
      exec (.pwrQuery c) s = .next (okReply specPwrQuery c 256 0 0 (powerMod (fun p => { p with peak50 := 0 }) (writeResult c (param c 0 8) 2048 (powerRecord t) t)))) ∧
    (∀ (c : Cmd) (s t : State), accepts specPwrLearn c s t → param c 0 1 ≤ 2 →
      exec (.pwrLearn c) s = .next (okReply specPwrLearn c 0 0 0 (ceilMod (fun x => { x with learn := x.learn ++ [param c 0 1] }) t)))

/-- Outside the error state, sec.identity and sec.attest write their records; sec.kem.offer draws a key pair that passes its test and opens
an offer; sec.kem.accept answers a valid offer and makes an accord; sec.kem.finish turns the reply to an open offer into an accord and
closes the offer; sec.accord.drop erases an accord that nothing uses; sec.officer enrols the first key, and sec.login draws a challenge
and opens the session for a valid answer. Rows: SEC_IDENTITY, SEC_ATTEST, SEC_KEM_OFFER, SEC_KEM_ACCEPT, SEC_KEM_FINISH,
SEC_ACCORD_DROP, SEC_OFFICER, SEC_LOGIN. (R395, R396, R379, R380, R375) -/
def Obligations.SecurityCommandsComplete : Prop :=
    (∀ (c : Cmd) (s t : State), accepts specSecIdentity c s t → isHelm c = true ∨ 3200 ≤ param c 8 4 →
      exec (.secIdentity c) s = .next (okReply specSecIdentity c 3200 0 0 (writeResult c (param c 0 8) 25600 identityBits t))) ∧
    (∀ (c : Cmd) (s t : State), accepts specSecAttest c s t → t.sec.errorState = false → 1536 ≤ param c 8 4 →
      exec (.secAttest c) s = .next (okReply specSecAttest c 1536 0 0 (writeResult c (param c 0 8) 12288 (pack [(0, 2048, reportBits (param c 16 16) t), (2048, 10240, (Config.sign (drbgDraw t).1 (leBytes 256 (reportBits (param c 16 16) t))).toNat)]) (drbgDraw t).2))) ∧
    (∀ (c : Cmd) (s t : State) (q : Nat × State) (blob : Nat), accepts specSecKemOffer c s t → t.sec.errorState = false → 6112 ≤ param c 8 4 → openOffers t < 16 → q = drbgDraw (drbgDraw t).2 → blob = blobBits q.1 t.sec.nextOffer t.dev.now 0 (Config.kemKey (drbgDraw t).1) →
      exec (.secKemOffer c) s = .next (if Config.kemPairOk (drbgDraw t).1 then okReply specSecKemOffer c t.sec.nextOffer 0 0 (writeResult c (param c 0 8) 48896 blob (secMod (fun x => { x with offers := tabSet x.offers t.sec.nextOffer { openedAt := t.dev.now, draw := (drbgDraw t).1, digest := blobDigest (leBytes 6112 blob) }, nextOffer := t.sec.nextOffer + 1 }) q.2))
        else replyNow specSecKemOffer.opcode c .cryptoSelftest true 0 0 0 (enterError (2 ^ testPairwise) (drbgDraw t).2))) ∧
    (∀ (c : Cmd) (s t : State) (blob : List Byte) (r q : Nat × State) (a : Nat × State), accepts specSecKemAccept c s t → t.sec.errorState = false → c.indirect = true → 6128 ≤ c.length.toNat → 6112 ≤ param c 8 4 → blob = paramBytes c 16 6112 → t.sec.accords.length < 4096 → r = drbgDraw t → q = drbgDraw r.2 → a = newAccord (namedOf c) (blobSerial blob) (Config.kemSecret (blobKem blob) r.1) q.2 →
      exec (.secKemAccept c) s = .next (if blobOk blob then okReply specSecKemAccept c a.1 (blobSerial blob).toNat 0 (writeResult c (param c 0 8) 48896 (blobBits q.1 (ofLe (slice blob 3200 8)) t.dev.now (blobDigest blob).toNat (Config.kemCipher (blobKem blob) r.1)) a.2)
        else replyNow specSecKemAccept.opcode c .authFail true 0 0 0 t)) ∧
    (∀ (c : Cmd) (s t : State) (blob : List Byte) (o : Offer) (a : Nat × State), accepts specSecKemFinish c s t → t.sec.errorState = false → c.indirect = true → 6128 ≤ c.length.toNat → blob = paramBytes c 16 6112 → tabGet t.sec.offers (param c 0 8) = some o → t.dev.now < o.openedAt + 60000000000 → t.sec.accords.length < 4096 → a = newAccord (namedOf c) (blobSerial blob) (Config.kemOpen o.draw (blobKem blob)) (secMod (fun x => { x with offers := tabErase x.offers (param c 0 8) }) t) →
      exec (.secKemFinish c) s = .next (if blobOk blob = true ∧ ofLe (slice blob 3216 32) = o.digest.toNat then okReply specSecKemFinish c a.1 (blobSerial blob).toNat 0 a.2
        else replyNow specSecKemFinish.opcode c .authFail true 0 0 0 t)) ∧
    (∀ (c : Cmd) (s t : State), accepts specSecAccordDrop c s t → t.sec.errorState = false → ownAccord t (namedOf c) (param c 0 2) = true → accordInUse t (param c 0 2) = false →
      exec (.secAccordDrop c) s = .next (okReply specSecAccordDrop c 0 0 0 (secMod (fun x => { x with accords := tabErase x.accords (param c 0 2) }) t))) ∧
    (∀ (c : Cmd) (s t : State), accepts specSecOfficer c s t → t.sec.errorState = false → c.indirect = true → 1793 ≤ c.length.toNat → t.sec.officer = none →
      exec (.secOfficer c) s = .next (okReply specSecOfficer c 0 0 0 (secMod (fun x => { x with officer := some (paramBytes c 0 1793) }) t))) ∧
    (∀ (c : Cmd) (s t : State) (r q : Nat × State), accepts specSecLogin c s t → t.sec.errorState = false → param c 0 1 = 0 → r = drbgDraw t → q = drbgDraw r.2 →
      exec (.secLogin c) s = .next (okReply specSecLogin c ((Config.freeWord r.1).toNat) ((Config.freeWord q.1).toNat) 0 (secMod (fun x => { x with challenge := some (Config.freeWord r.1, Config.freeWord q.1) }) q.2))) ∧
    (∀ (c : Cmd) (s t : State) (key : List Byte) (a b : W64), accepts specSecLogin c s t → t.sec.errorState = false → param c 0 1 = 1 → c.indirect = true → 1296 ≤ c.length.toNat → t.sec.officer = some key → t.sec.challenge = some (a, b) →
      exec (.secLogin c) s = .next (if Config.falconOk key (loginMessage a b) (paramBytes c 16 1280) then okReply specSecLogin c 0 0 0 (secMod (fun x => { x with sessionAt := some t.dev.now, challenge := none }) t)
        else replyNow specSecLogin.opcode c .authFail true 0 0 0 t))

/-- sec.qp.seal seals a CREATED queue pair under an accord; sec.qp.rekey readies and switches keys; sec.qp.query counts them; sec.fw.begin,
sec.fw.chunk and sec.fw.commit stage an image and store it when it verifies; sec.selftest and sec.zeroize owe their reply until the
tests or the erasure are done. Rows: SEC_QP_SEAL, SEC_QP_REKEY, SEC_QP_QUERY, SEC_FW_BEGIN, SEC_FW_CHUNK, SEC_FW_COMMIT,
SEC_FW_COMMIT_DONE, SEC_SELFTEST, SEC_SELFTEST_DONE, SEC_ZEROIZE, SEC_ZEROIZE_DONE. (R382, R383, R403, R399, R400, R401, R402) -/
def Obligations.SealingAndFirmwareCommandsComplete : Prop :=
    (∀ (c : Cmd) (s t : State) (q : Qp), accepts specSecQpSeal c s t → t.sec.errorState = false → usableQp t (namedOf c) (param c 0 4) = some q → ownAccord t (namedOf c) (param c 4 2) = true → q.conf.mode ≠ .roce → param c 6 1 ≤ 20 → q.conf.mtuLog2 ≤ param c 6 1 → q.phase = .created → q.sealing = none →
      exec (.secQpSeal c) s = .next (okReply specSecQpSeal c 0 0 0 (qpMod (param c 0 4) (fun x => { x with sealing := some { accord := param c 4 2, unitLog2 := param c 6 1, phase := false, cur := newKey (BitVec.ofNat 32 (param c 8 4)), old := none, pendingSend := none, recvPhase := false, recvLabel := BitVec.ofNat 32 (param c 8 4), recvNext := none, acc := [], failedUnits := 0 } }) t))) ∧
    (∀ (c : Cmd) (s t : State) (q : Qp) (z : QpSeal), accepts specSecQpRekey c s t → t.sec.errorState = false → usableQp t (namedOf c) (param c 0 4) = some q → q.sealing = some z → param c 4 1 = 0 → rekeyOpen z = false →
      exec (.secQpRekey c) s = .next (okReply specSecQpRekey c 0 0 0 (qpMod (param c 0 4) (fun x => { x with sealing := some { z with recvNext := some (BitVec.ofNat 32 (param c 8 4)), pendingSend := some (BitVec.ofNat 32 (param c 8 4)) } }) t))) ∧
    (∀ (c : Cmd) (s t : State) (q : Qp) (z : QpSeal) (l : W32), accepts specSecQpRekey c s t → t.sec.errorState = false → usableQp t (namedOf c) (param c 0 4) = some q → q.sealing = some z → param c 4 1 = 1 → z.pendingSend = some l →
      exec (.secQpRekey c) s = .next (okReply specSecQpRekey c 0 0 0 (qpMod (param c 0 4) (fun x => { x with sealing := some { z with phase := !z.phase, cur := newKey l, old := some z.cur, pendingSend := none } }) t))) ∧
    (∀ (c : Cmd) (s t : State) (q : Qp) (z : QpSeal), accepts specSecQpQuery c s t → t.sec.errorState = false → usableQp t (namedOf c) (param c 0 4) = some q → q.sealing = some z →
      exec (.secQpQuery c) s = .next (okReply specSecQpQuery c z.cur.units z.cur.bytes (pack [(0, 1, flag z.phase), (1, 1, flag (rekeyOpen z)), (32, 32, z.failedUnits)]) t)) ∧
    (∀ (c : Cmd) (s t : State), accepts specSecFwBegin c s t → t.sec.errorState = false → 4096 ≤ param c 0 4 ∧ param c 0 4 ≤ 16777216 →
      exec (.secFwBegin c) s = .next (okReply specSecFwBegin c 0 0 0 (secMod (fun x => { x with staging := some (param c 0 4, []) }) t))) ∧
    (∀ (c : Cmd) (s t : State) (size : Nat) (got : List Byte), accepts specSecFwChunk c s t → t.sec.errorState = false → t.sec.staging = some (size, got) → 1 ≤ param c 4 2 → param c 4 2 ≤ (if c.indirect then 65472 else 32) → param c 0 4 = got.length → got.length + param c 4 2 ≤ size →
      exec (.secFwChunk c) s = .next (okReply specSecFwChunk c 0 0 0 (secMod (fun x => { x with staging := some (size, got ++ paramBytes c 8 (param c 4 2)) }) t))) ∧
    (∀ (c : Cmd) (s t : State), accepts specSecFwCommit c s t → t.sec.errorState = false → t.sec.staging.isSome = true → (t.commands.any fun p => p.what == .fwCommit) = false →
      exec (.secFwCommit c) s = .next (acceptedReply specSecFwCommit c .fwCommit t)) ∧
    (∀ (size : Nat) (got : List Byte) (s : State), lit s = true ∨ s.dev.life = .romRecovery → (s.commands.any fun p => p.what == .fwCommit) = true → s.sec.staging = some (size, got) → 
      exec .secFwCommitDone s = .next (if got.length = size ∧ Config.imageOk got = true ∧ s.sec.minVersion.toNat ≤ (Config.imageVersion got).toNat then
        finishOn .fwCommit .ok (Config.imageVersion got).toNat 0 0 (secMod (fun x => { x with stored := some got, storeTorn := false, staging := none }) s)
        else finishOn .fwCommit .authFail 0 0 0 s)) ∧
    (∀ (c : Cmd) (s t : State), accepts specSecSelftest c s t → exec (.secSelftest c) s = .next (acceptedReply specSecSelftest c .selftest t)) ∧
    (∀ (failing : W64) (s : State), lit s = true → (s.commands.any fun p => p.what == .selftest) = true → 
      exec (.secSelftestDone failing) s = .next (finishOn .selftest (if failing = 0 then .ok else .cryptoSelftest) failing.toNat 0 0 (if failing = 0 then secMod (fun x => { x with errorState := false, failing := 0 }) s else enterError failing.toNat s))) ∧
    (∀ (c : Cmd) (s t : State), accepts specSecZeroize c s t → exec (.secZeroize c) s = .next (acceptedReply specSecZeroize c .zeroize t)) ∧
    (∀ (s : State), lit s = true → (s.commands.any fun p => p.what == .zeroize) = true → 
      exec .secZeroizeDone s = .next (finishOn .zeroize .ok 0 0 0 (secMod (fun x => { x with accords := [], offers := [], officer := none, sessionAt := none, challenge := none, seed := 0, staging := none }) (((s.qps.filter fun p => p.2.sealing.isSome).map Prod.fst).foldl unsealQp s))))

/-- fab.ident, fab.port.set and spur.stream write the number, the port and the stream they name; fab.port.query and fab.ring.query answer
with the state of a port and of a ring; route.write and route.arm fill an idle bearing, route.disarm makes an armed one idle,
route.commit flips to it, route.query answers with both, route.drain sets the drain time. Rows: FAB_IDENT, FAB_PORT_SET, FAB_PORT_QUERY,
FAB_RING_QUERY, SPUR_STREAM, ROUTE_WRITE, ROUTE_ARM, ROUTE_DISARM, ROUTE_COMMIT, ROUTE_QUERY, ROUTE_DRAIN. (R200, R199, R230, R226,
R218, R217, R220) -/
def Obligations.FabricCommandsComplete : Prop :=
    (∀ (c : Cmd) (s t : State), accepts specFabIdent c s t → param c 0 2 < 4096 → (trainedRing t).isEmpty = true →
      exec (.fabIdent c) s = .next (okReply specFabIdent c 0 0 0 (fabMod (fun x => { x with ident := some (param c 0 2) }) t))) ∧
    (∀ (c : Cmd) (s t : State) (old x : FabPort) (u : State), accepts specFabPortSet c s t → portSetFault c t = none → old = (portGet t (param c 0 1)).getD (newPort .disabled) → u = (if roleOf (param c 1 1) = old.role then t else portDown (param c 0 1) t) → x = (portGet u (param c 0 1)).getD (newPort (roleOf (param c 1 1))) →
      exec (.fabPortSet c) s = .next (okReply specFabPortSet c 0 0 0 (settleClock (6 + param c 0 1 / 4) (fabMod (fun y => { y with ports := tabSet y.ports (param c 0 1) (settlePilot { x with role := roleOf (param c 1 1), pilot := param c 2 1 == 1, wakeMax := param c 4 4, attempts := if roleOf (param c 1 1) = old.role then x.attempts else 0 }) }) u)))) ∧
    (∀ (c : Cmd) (s t : State) (x : FabPort), accepts specFabPortQuery c s t → param c 0 1 < 16 → x = (portGet t (param c 0 1)).getD (newPort .disabled) →
      exec (.fabPortQuery c) s = .next (okReply specFabPortQuery c (pack [(0, 3, roleCode x.role), (3, 3, if x.narrowed then 1 else x.lanes), (6, 1, flag x.active), (7, 1, flag x.isIdle), (8, 1, flag x.narrowed)]) (pack [(0, 32, x.latNs), (32, 12, x.partnerDev), (44, 4, x.partnerPort)]) x.wakeNs t)) ∧
    (∀ (c : Cmd) (s t : State) (r : RingInfo), accepts specFabRingQuery c s t → param c 0 1 < 2 → r = ringInfo t (param c 0 1) →
      exec (.fabRingQuery c) s = .next (okReply specFabRingQuery c (pack [(0, 16, r.slots), (16, 1, flag r.folded), (17, 1, flag (guardedRing t (param c 0 1)))]) (lapPs t (param c 0 1)) (pack [(0, 6, r.foldA), (8, 6, r.foldB)]) t)) ∧
    (∀ (c : Cmd) (s t : State) (new : ReqStream) (x : FabPort), accepts specSpurStream c s t → param c 0 1 < 16 → param c 1 1 < 64 → 4 ≤ param c 2 1 ∧ param c 2 1 ≤ 16 → param c 3 1 ≤ 1 → (streamGet t (param c 0 1) (param c 1 1) = none ∨ ∃ q, streamGet t (param c 0 1) (param c 1 1) = some q ∧ q.unconsumed = []) → new = (match streamGet t (param c 0 1) (param c 1 1) with | some q => { newStream (namedOf c) (param c 2 1) (param c 3 1 == 1) with outstanding := q.outstanding } | none => newStream (namedOf c) (param c 2 1) (param c 3 1 == 1)) → x = (portGet t (param c 0 1)).getD (newPort .disabled) →
      exec (.spurStream c) s = .next (okReply specSpurStream c 0 0 0 (fabMod (fun y => { y with ports := tabSet y.ports (param c 0 1) { x with streams := tabSet x.streams (param c 1 1) new } }) t))) ∧
    (∀ (c : Cmd) (s t : State), accepts specRouteWrite c s t → param c 0 1 ≤ 1 → (bearingGet t (param c 0 1 == 1)).mode = .idle → c.indirect = true → 1 ≤ param c 4 2 → param c 2 2 + param c 4 2 ≤ 4096 → 64 + 2 * param c 4 2 ≤ c.length.toNat →
      exec (.routeWrite c) s = .next (okReply specRouteWrite c 0 0 0 (bearingMod (param c 0 1 == 1) (fun x => { x with entries := (List.range (param c 4 2)).foldl (fun v i => tabSet v (param c 2 2 + i) (BitVec.ofNat 16 (param c (64 + 2 * i) 2))) x.entries }) t))) ∧
    (∀ (c : Cmd) (s t : State), accepts specRouteArm c s t → param c 0 1 ≤ 1 → (bearingGet t (param c 0 1 == 1)).mode = .idle → 1 ≤ param c 4 4 → param c 4 4 < 2 ^ 24 → param c 8 1 < 16 → param c 9 1 < 16 → param c 10 1 < 4 → armOk t (bearingGet t (param c 0 1 == 1)) (param c 8 1) (param c 9 1) = true →
      exec (.routeArm c) s = .next (okReply specRouteArm c 0 0 0 (bearingMod (param c 0 1 == 1) (fun x => { x with mode := .armed, generation := param c 4 4, linkUse := BitVec.ofNat 8 (param c 8 1), dateline := BitVec.ofNat 8 (param c 9 1), guarded := BitVec.ofNat 8 (param c 10 1) }) t))) ∧
    (∀ (c : Cmd) (s t : State), accepts specRouteDisarm c s t → param c 0 1 ≤ 1 → (bearingGet t (param c 0 1 == 1)).mode = .armed →
      exec (.routeDisarm c) s = .next (okReply specRouteDisarm c 0 0 0 (bearingMod (param c 0 1 == 1) (fun x => { x with mode := .idle }) t))) ∧
    (∀ (c : Cmd) (s t : State) (b : Bool), accepts specRouteCommit c s t → armedWith t (param c 0 4) = some b → ((flipBearing b t).fabric.flood.any fun w => w.flit.type == 0x01 && w.flit.chunkSeq.toNat == param c 0 4) = false →
      exec (.routeCommit c) s = .next (okReply specRouteCommit c t.dev.now 0 0 (flipBearing b t))) ∧
    (∀ (c : Cmd) (s t : State) (b : Bool), accepts specRouteCommit c s t → armedWith t (param c 0 4) = some b → ((flipBearing b t).fabric.flood.any fun w => w.flit.type == 0x01 && w.flit.chunkSeq.toNat == param c 0 4) = true →
      exec (.routeCommit c) s = .next (laterReply specRouteCommit c (.routeCommit (param c 0 4) t.dev.now) (flipBearing b t))) ∧
    (∀ (c : Cmd) (s t : State), accepts specRouteQuery c s t →
      exec (.routeQuery c) s = .next (okReply specRouteQuery c (bearingCode t.fabric.bearingA.mode + 4 * bearingCode t.fabric.bearingB.mode) (t.fabric.bearingA.generation % 2 ^ 24 + t.fabric.bearingB.generation % 2 ^ 24 * 2 ^ 32) t.fabric.flipTime t)) ∧
    (∀ (c : Cmd) (s t : State), accepts specRouteDrain c s t → max (4 * lapTenths t 0) (4 * lapTenths t 1) ≤ 10000 * param c 0 4 → param c 0 4 ≤ 1000000 →
      exec (.routeDrain c) s = .next (okReply specRouteDrain c 0 0 0 (fabMod (fun x => { x with drainNs := param c 0 4 }) t)))

/-- diag.results and diag.inventory answer with the start results and the units in service; diag.selftest sets the reset of a device without
work; diag.loopback loops a port that is out of service back and is answered when the run ends; fault.query answers with the alerts and
the store, fault.ack acknowledges a record. Rows: DIAG_RESULTS, DIAG_SELFTEST, DIAG_INVENTORY, DIAG_LOOPBACK, DIAG_LOOPBACK_DONE,
FAULT_QUERY, FAULT_ACK. (R465, R466, R477, R470) -/
def Obligations.DiagnosticCommandsComplete : Prop :=
    (∀ (c : Cmd) (s t : State) (l : List ResultRec), accepts specDiagResults c s t → param c 0 8 % 64 = 0 → l = t.start.log.take (param c 8 4 / 32) →
      exec (.diagResults c) s = .next (okReply specDiagResults c l.length t.start.found (pack [(0, 4, startKindCode t.start.kind), (4, 1, flag t.start.ran), (5, 1, flag t.start.clocks), (6, 1, flag t.start.supplies), (7, 1, flag t.start.fused), (16, 32, t.start.duration)]) (if l.isEmpty then t else writeResult c (param c 0 8) (256 * l.length) (logBits l) t))) ∧
    (∀ (c : Cmd) (s t : State), accepts specDiagSelftest c s t → (t.fns.all fun p => p.2.mode == .stopped || p.2.mode == .disabled) = true →
      exec (.diagSelftest c) s = .next (okReply specDiagSelftest c 0 0 0 (devMod (fun d => { d with resetDue := some (t.dev.now + 10000, .selftest) }) t))) ∧
    (∀ (c : Cmd) (s t : State), accepts specDiagInventory c s t →
      exec (.diagInventory c) s = .next (okReply specDiagInventory c (pack [(0, 4, countBits t.dev.inventory.engines.toNat 8), (4, 6, countBits t.dev.inventory.movers.toNat 32), (10, 12, t.dev.inventory.fathoms), (22, 1, flag t.dev.inventory.helm)]) (areaEnd t) t.dev.inventory.cacheBytes t)) ∧
    (∀ (c : Cmd) (s t : State), accepts specDiagLoopback c s t → param c 0 1 ≤ 1 → param c 1 1 < (if param c 0 1 = 0 then 4 else 16) → param c 2 1 ≤ 2 → 1 ≤ param c 4 4 → param c 4 4 ≤ 10000 → outOfService t (param c 0 1) (param c 1 1) = true →
      exec (.diagLoopback c) s = .next (acceptedReply specDiagLoopback c (.loopback (param c 0 1) (param c 1 1) (param c 2 1) (t.dev.now + 1000000 * param c 4 4)) (setLoop (param c 0 1) (param c 1 1) (some (t.dev.now + 1000000 * param c 4 4)) t))) ∧
    (∀ (bits_ worst : W64) (lane : W8) (p : Pending) (kind port mode ends : Nat) (s : State), lit s = true → s.commands.find? (loopEndsFirst s) = some p → p.what = .loopback kind port mode ends → 
      exec (.diagLoopbackDone bits_ worst lane) s = .next (answer p .ok bits_.toNat worst.toNat lane.toNat (logFarEnd kind port mode worst lane (setLoop kind port none (advanceTo ends { s with commands := s.commands.erase p }))))) ∧
    (∀ (c : Cmd) (s t : State) (waiting entries : Nat), accepts specFaultQuery c s t → waiting = (t.faults.store.filter fun r => r.function == namedOf c).length → entries = (t.faults.agg.filter fun a => a.fn == namedOf c && !a.closing).length →
      exec (.faultQuery c) s = .next (okReply specFaultQuery c (if issuerOf c = 0 then alertBits t else 0) (pack [(0, 32, (tabGet t.faults.dropped (namedOf c)).getD 0), (32, 32, waiting)]) (pack [(0, 16, entries), (16, 32, unackedRecords t)]) t)) ∧
    (∀ (c : Cmd) (s t : State), accepts specFaultAck c s t → t.faults.unacked.contains (BitVec.ofNat 32 (param c 0 4), param c 4 1) = true →
      exec (.faultAck c) s = .next (okReply specFaultAck c 0 0 0 ({ t with faults := { t.faults with unacked := t.faults.unacked.erase (BitVec.ofNat 32 (param c 0 4), param c 4 1) } })))

/-- A write of ENABLE to a channel that is down makes it READY when its settings are valid and FAULT otherwise; a write of 0 takes it down
once nothing is owed; CMD_DOORBELL scans the command ring, REPLY_HEAD, BAR0 words and doublewords are taken, a level 2 doorbell scans
its ring and a level 1 doorbell moves its producer index or raises DOORBELL_RANGE; re-reads scan again; an accepted entry gets its
record and is judged. Rows: CHANNEL_ENABLE, CHANNEL_DISABLE, CHANNEL_DOWN_COMPLETE, CMD_DOORBELL, REPLY_HEAD_WRITE, REGISTER_WRITE,
SQ_DOORBELL, SQ_DOORBELL_LEVEL1, RING_REREAD, ENTRY_ACCEPT, JOURNAL_BACKPRESSURE_RELEASE. (R36, R39, R44, R75, R77, R76, R21, R17) -/
def Obligations.DoorbellsComplete : Prop :=
    (∀ (fn : Nat) (value : W32) (u : Channel → Channel) (s : State), bit value.toNat 0 = true → channelDown s fn = true → (u = fun ch => { ch with replyVector := BitVec.ofNat 16 (bits value.toNat 16 11), enable := true }) → 
      exec (.channelEnable fn value) s = .next (lateReplies fn (chanMod fn (fun ch => if settingsValid (u ch) value.toNat then { u ch with mode := .ready, replyIndex := 0, consumed := 0, replyHead := 0, disabling := false, starved := false, scanning := false, rereads := 0 } else { u ch with mode := .fault }) (hearHost s)))) ∧
    (∀ (fn : Nat) (value : W32) (s : State), bit value.toNat 0 = false → 
      exec (.channelDisable fn value) s = .next (if channelDown s fn then chanMod fn (fun ch => { ch with replyVector := BitVec.ofNat 16 (bits value.toNat 16 11), enable := false }) (hearHost s) else chanMod fn (fun ch => if ch.mode = .down then ch else { ch with disabling := true, enable := false }) (hearHost s))) ∧
    (∀ (fn : Nat) (f : Function) (s : State), fnGet s fn = some f → f.channel.disabling = true → owedTo s fn = 0 → 
      exec (.channelDownComplete fn) s = .next (chanMod fn (fun ch => { ch with mode := .down, disabling := false, starved := false, scanning := false, rereads := 0 }) s)) ∧
    (∀ (fn : Nat) (slots : List SlotRead) (s : State), pageOpen s fn = true → 
      exec (.cmdDoorbell fn slots none) s = .next (scanCommands fn slots (startScan fn (touchWatchdog fn (hearHost s))))) ∧
    (∀ (fn : Nat) (slots : List SlotRead) (head : W32) (s : State), pageOpen s fn = true → dmaBarred (touchWatchdog fn (hearHost s)) fn = false → 
      exec (.cmdDoorbell fn slots (some head)) s = .next (scanCommands fn slots (startScan fn (readFqHead fn head (touchWatchdog fn (hearHost s)))))) ∧
    (∀ (fn : Nat) (value : W32) (slots : List SlotRead) (u : State) (f : Function) (s : State), pageOpen s fn = true → u = chanMod fn (fun ch => { ch with replyHead := BitVec.ofNat 16 (value.toNat % 2 ^ 32 % 65536) }) (hearHost s) → fnGet u fn = some f → 
      exec (.replyHeadWrite fn value slots) s = .next (scanCommands fn slots (if f.channel.starved && readsCommands u fn then startScan fn (chanMod fn (fun ch => { ch with starved := false }) u) else u))) ∧
    (∀ (fn offset : Nat) (value : W64) (s : State), fnEnabled s fn = true → pageOpen s fn = true → doorbellRing fn offset = none → offset % 4 = 0 → 
      exec (.registerWrite fn (.bar0 offset) 32 (some value)) s = .next (writeWord fn offset (value.toNat % 2 ^ 32) (hearHost s))) ∧
    (∀ (fn offset : Nat) (value : W64) (s : State), fnEnabled s fn = true → pageOpen s fn = true → doorbellRing fn offset = none → offset % 8 = 0 → 
      exec (.registerWrite fn (.bar0 offset) 64 (some value)) s = .next (writeDouble fn offset value.toNat (hearHost s))) ∧
    (∀ (fn offset width ring : Nat) (value : W64) (s : State), fnEnabled s fn = true → pageOpen s fn = true → doorbellRing fn offset = some ring → fnLevel1 s fn = false → 
      exec (.registerWrite fn (.bar0 offset) width (some value)) s = .next (ringDoorbell fn ring width [] none (touchWatchdog fn (hearHost s)))) ∧
    (∀ (fn offset width : Nat) (s : State), fnEnabled s fn = true → 
      exec (.registerWrite fn (.bar0 offset) width none) s = .next (emit (.registerData fn width (readBar0 (hearHost s) fn offset width)) (hearHost s))) ∧
    (∀ (fn offset width : Nat) (value : W64) (s : State), fnEnabled s fn = true → 
      exec (.registerWrite fn (.bar2 offset) width (some value)) s = .next (writeBar2 fn offset width value (hearHost s))) ∧
    (∀ (fn offset width : Nat) (s : State), fnEnabled s fn = true → 
      exec (.registerWrite fn (.bar2 offset) width none) s = .next (emit (.registerData fn width (readBar2 (hearHost s) fn offset width)) (hearHost s))) ∧
    (∀ (fn width : Nat) (reg : CfgReg) (f : Function) (s : State), fnEnabled s fn = true → fnGet s fn = some f → 
      exec (.registerWrite fn (.config reg) width none) s = .next (emit (.registerData fn 32 (cfgRead (hearHost s) fn f reg)) (hearHost s))) ∧
    (∀ (fn width : Nat) (reg : CfgReg) (value : W64) (s : State), fnEnabled s fn = true → 
      exec (.registerWrite fn (.config reg) width (some value)) s = .next (cfgWrite fn reg value.toNat (hearHost s))) ∧
    (∀ (fn island width : Nat) (value : Option W64) (s : State), fnEnabled s fn = true → island < 18 → bit s.clocks.stopped.toNat island = true → 
      exec (.registerWrite fn (.control island) width value) s = .next (crossingMod island (fun x => if x.control.length < 4 then { x with control := x.control ++ [{ fn := fn, posted := value.isSome }] } else { x with behind := x.behind ++ [{ fn := fn, posted := value.isSome }] }) (hearHost s))) ∧
    (∀ (fn offset ring width : Nat) (value : W64) (entries : List W512) (head : Option W32) (s : State), lit s = true → doorbellRing fn offset = some ring → doorbellTaken (touchWatchdog fn (hearHost s)) fn ring width = true → fnLevel1 s fn = false → 
      exec (.sqDoorbell fn offset width value entries head) s = .next (readHeadOf fn ring head (scanRing (pairKey fn ring) entries { touchWatchdog fn (hearHost s) with sqs := tabMod s.sqs (pairKey fn ring) fun r => { r with doorbellAt := s.dev.now, rereads := 0, scanning := true } }))) ∧
    (∀ (fn offset ring width : Nat) (value : W64) (entries : List W512) (head : Option W32) (r : SubRing) (rsvd reach : Nat) (s : State), lit s = true → doorbellRing fn offset = some ring → doorbellTaken (touchWatchdog fn (hearHost s)) fn ring width = true → fnLevel1 s fn = true → tabGet s.sqs (pairKey fn ring) = some r → rsvd = (if width = 64 then value.toNat / 65536 else bits value.toNat 16 16) → reach = (bits value.toNat 0 16 + 65536 - (r.accepted + r.prefetched.length) % 65536) % 65536 → ¬(rsvd ≠ 0 ∨ 2 ^ r.log2 < reach) → 
      exec (.sqDoorbellLevel1 fn offset width value entries head) s = .next (readHeadOf fn ring head { touchWatchdog fn (hearHost s) with sqs := tabSet s.sqs (pairKey fn ring) (fetchTake { r with producer := producerOf r (bits value.toNat 0 16), doorbellAt := s.dev.now } entries) })) ∧
    (∀ (fn offset ring width : Nat) (value : W64) (entries : List W512) (head : Option W32) (r : SubRing) (rsvd reach : Nat) (s : State), lit s = true → doorbellRing fn offset = some ring → doorbellTaken (touchWatchdog fn (hearHost s)) fn ring width = true → fnLevel1 s fn = true → tabGet s.sqs (pairKey fn ring) = some r → rsvd = (if width = 64 then value.toNat / 65536 else bits value.toNat 16 16) → reach = (bits value.toNat 0 16 + 65536 - (r.accepted + r.prefetched.length) % 65536) % 65536 → rsvd ≠ 0 ∨ 2 ^ r.log2 < reach → 
      exec (.sqDoorbellLevel1 fn offset width value entries head) s = .next (raiseEvent .doorbellRange fn nodeSelf ring (bits value.toNat 0 16) (touchWatchdog fn (hearHost s)))) ∧
    (∀ (fn ring : Nat) (entries : List W512) (r : SubRing) (s : State), lit s = true → tabGet s.sqs (pairKey fn ring) = some r → r.running = true → fnModeOf s fn = .running → fnLevel1 s fn = true ∨ r.rereads = 0 ∧ r.scanning = true → 
      exec (.ringReread fn ring (.entries entries)) s = .next (scanRing (pairKey fn ring) entries s)) ∧
    (∀ (fn ring : Nat) (e : W512) (rest : List W512) (r : SubRing) (s : State), lit s = true → tabGet s.sqs (pairKey fn ring) = some r → r.running = true → fnModeOf s fn = .running → fnLevel1 s fn = false → r.rereads ≠ 0 → entryPhase e = scanPhase r → 
      exec (.ringReread fn ring (.entries (e :: rest))) s = .next (scanRing (pairKey fn ring) (e :: rest) (advanceTo r.rereadAt { s with sqs := tabMod s.sqs (pairKey fn ring) fun x => { x with rereads := 0, rereadAt := x.rereadAt + (retryOf s fn).1 } }))) ∧
    (∀ (fn ring : Nat) (e : W512) (rest : List W512) (r : SubRing) (s : State), lit s = true → tabGet s.sqs (pairKey fn ring) = some r → r.running = true → fnModeOf s fn = .running → fnLevel1 s fn = false → r.rereads ≠ 0 → entryPhase e ≠ scanPhase r → 
      exec (.ringReread fn ring (.entries (e :: rest))) s = .next (advanceTo r.rereadAt { s with sqs := tabMod s.sqs (pairKey fn ring) fun x => { x with rereads := (r.rereads - 1), rereadAt := x.rereadAt + (retryOf s fn).1 } })) ∧
    (∀ (fn ring : Nat) (x : SlotRead) (rest : List SlotRead) (f : Function) (s : State), fnGet s fn = some f → f.channel.mode = .ready → f.channel.rereads ≠ 0 → slotOwned f.channel x.slot = true → 
      exec (.ringReread fn ring (.commands (x :: rest))) s = .next (scanCommands fn (x :: rest) (advanceTo f.channel.rereadAt (chanMod fn (fun c => { c with rereads := 0, rereadAt := c.rereadAt + 2000, scanning := true }) s)))) ∧
    (∀ (fn ring rec : Nat) (r : SubRing) (e : W512) (rest : List W512) (u : State) (s : State), lit s = true → tabGet s.sqs (pairKey fn ring) = some r → r.prefetched = e :: rest → fnModeOf s fn = .running → r.running = true → ringBlocked s r fn = false → ringTurn s fn ring r = true → fnTurn s fn = true → journalEntry fn (.ring (pairKey fn ring)) r.accepted e s = some (rec, u) → 
      exec (.entryAccept fn ring) s = .next (judgeEntry fn rec e (advanceAccepted fn ring (chargeAccept fn ring u)))) ∧
    (∀ (pair : Nat) (s : State), lit s = true → 
      exec (.journalBackpressureRelease pair) s = .next ((s.sqs.filter fun p => match p.2.prefetched with | e :: _ => pairOf (entryContext e) == pair | [] => false).foldl (fun t p => acceptNext (p.1 / 65536) (p.1 % 65536) t) s))

/-- A NOP and a fence that nothing holds up complete OK; a transport entry that may start is begun and its packets are built; a receive
joins the buffers of its queue pair or shared queue in order; a collective joins its group, or ends COLL_ABORTED where the group is
gone; an attention request and an operator begin in the order of their pool and stream; a tile of an operator starts in order. Rows:
NOP, WORK_WRITE, WORK_WRITE_IMM, WORK_READ, WORK_SEND, WORK_ATOMIC_FADD, WORK_ATOMIC_CSWAP, WORK_FLUSH, WORK_FENCE, POST_RECEIVE,
POST_COLLECTIVE, ATTENTION_REQUEST, SHOAL_OPERATOR, TILE_START. (R68, R131, R133, R141, R134, R129, R242, R287, R313, R322) -/
def Obligations.WorkEntriesComplete : Prop :=
    (∀ (rec : Nat) (w : Work) (s : State), lit s = true → readyWork s rec .nop = some w → 
      exec (.nop rec) s = .next (complete rec .ok 0 none s)) ∧
    (∀ (rec : Nat) (w : Work) (q : Qp) (m : TxMessage) (s : State), lit s = true → readyWork s rec .write = some w → qpGet s (entryContext w.entry) = some q → mayStart s (entryContext w.entry) q .write rec w = true → hostBarred s w.fn .write w.entry = false → messageOf q rec = some m → keyAllows q m.phase (entryLength w.entry) = true → 
      exec (.workWrite rec) s = .next (buildData (entryContext w.entry) rec .write (workMod rec (fun w => { w with begun := true }) s))) ∧
    (∀ (rec : Nat) (w : Work) (q : Qp) (m : TxMessage) (s : State), lit s = true → readyWork s rec .writeImm = some w → qpGet s (entryContext w.entry) = some q → mayStart s (entryContext w.entry) q .writeImm rec w = true → hostBarred s w.fn .writeImm w.entry = false → messageOf q rec = some m → keyAllows q m.phase (entryLength w.entry) = true → 
      exec (.workWriteImm rec) s = .next (buildData (entryContext w.entry) rec .writeImm (workMod rec (fun w => { w with begun := true }) s))) ∧
    (∀ (rec : Nat) (w : Work) (q : Qp) (m : TxMessage) (s : State), lit s = true → readyWork s rec .read = some w → qpGet s (entryContext w.entry) = some q → mayStart s (entryContext w.entry) q .read rec w = true → hostBarred s w.fn .read w.entry = false → messageOf q rec = some m → keyAllows q m.phase 0 = true → 
      exec (.workRead rec) s = .next (buildOne (entryContext w.entry) rec .readReq (workMod rec (fun w => { w with begun := true }) s))) ∧
    (∀ (rec : Nat) (w : Work) (q : Qp) (m : TxMessage) (s : State), lit s = true → readyWork s rec .send = some w → qpGet s (entryContext w.entry) = some q → mayStart s (entryContext w.entry) q .send rec w = true → hostBarred s w.fn .send w.entry = false → messageOf q rec = some m → keyAllows q m.phase (entryLength w.entry) = true → 
      exec (.workSend rec) s = .next (buildData (entryContext w.entry) rec .send (workMod rec (fun w => { w with begun := true }) s))) ∧
    (∀ (rec : Nat) (w : Work) (q : Qp) (m : TxMessage) (s : State), lit s = true → readyWork s rec .fadd = some w → qpGet s (entryContext w.entry) = some q → mayStart s (entryContext w.entry) q .fadd rec w = true → hostBarred s w.fn .fadd w.entry = false → messageOf q rec = some m → keyAllows q m.phase 0 = true → 
      exec (.workAtomicFadd rec) s = .next (buildOne (entryContext w.entry) rec .fadd (workMod rec (fun w => { w with begun := true }) s))) ∧
    (∀ (rec : Nat) (w : Work) (q : Qp) (m : TxMessage) (s : State), lit s = true → readyWork s rec .cswap = some w → qpGet s (entryContext w.entry) = some q → mayStart s (entryContext w.entry) q .cswap rec w = true → hostBarred s w.fn .cswap w.entry = false → messageOf q rec = some m → keyAllows q m.phase 0 = true → 
      exec (.workAtomicCswap rec) s = .next (buildOne (entryContext w.entry) rec .cswap (workMod rec (fun w => { w with begun := true }) s))) ∧
    (∀ (rec : Nat) (w : Work) (q : Qp) (m : TxMessage) (s : State), lit s = true → readyWork s rec .flush = some w → qpGet s (entryContext w.entry) = some q → mayStart s (entryContext w.entry) q .flush rec w = true → hostBarred s w.fn .flush w.entry = false → messageOf q rec = some m → keyAllows q m.phase 0 = true → 
      exec (.workFlush rec) s = .next (buildOne (entryContext w.entry) rec .flush (workMod rec (fun w => { w with begun := true }) s))) ∧
    (∀ (rec : Nat) (w : Work) (q : Qp) (s : State), lit s = true → readyWork s rec .fence = some w → qpGet s (entryContext w.entry) = some q → q.phase = .ready → (earlierOpen s (entryContext w.entry) w).isEmpty = true → 
      exec (.workFence rec) s = .next (complete rec .ok 0 none s)) ∧
    (∀ (rec : Nat) (w : Work) (s : State), lit s = true → readyWork s rec .recv = some w → ((works s).any fun p => entryOp p.2.entry == 0x10 && recvToSrq p.2.entry == recvToSrq w.entry && entryContext p.2.entry == entryContext w.entry && !p.2.begun && p.2.state == .accepted && decide (p.2.order < w.order)) = false → recvToSrq w.entry = true → 
      exec (.postReceive rec) s = .next (judgeSrq (entryContext w.entry) { workMod rec (fun x => { x with begun := true }) s with srqs := tabMod (workMod rec (fun x => { x with begun := true }) s).srqs (entryContext w.entry) fun q => { q with buffers := q.buffers ++ [rec] } })) ∧
    (∀ (rec : Nat) (w : Work) (s : State), lit s = true → readyWork s rec .recv = some w → ((works s).any fun p => entryOp p.2.entry == 0x10 && recvToSrq p.2.entry == recvToSrq w.entry && entryContext p.2.entry == entryContext w.entry && !p.2.begun && p.2.state == .accepted && decide (p.2.order < w.order)) = false → recvToSrq w.entry = false → 
      exec (.postReceive rec) s = .next (recvMod (entryContext w.entry) (fun r => { r with posted := r.posted ++ [(r.nextPost, rec)], nextPost := r.nextPost + 1 }) (workMod rec (fun x => { x with begun := true }) s))) ∧
    (∀ (rec : Nat) (w : Work) (g : CollGroup) (s : State), lit s = true → readyWork s rec .coll = some w → ((works s).any fun p => entryOp p.2.entry == 0x20 && entryContext p.2.entry == entryContext w.entry && !p.2.begun && p.2.state == .accepted && decide (p.2.order < w.order)) = false → groupGet s (entryContext w.entry) = some g → g.mode ≠ .broken → 
      exec (.postCollective rec) s = .next (collGo (entryContext w.entry) (groupMod (entryContext w.entry) (fun g => { g with waiting := g.waiting ++ [rec] }) (workMod rec (fun x => { x with begun := true }) s)))) ∧
    (∀ (rec : Nat) (w : Work) (g : CollGroup) (s : State), lit s = true → readyWork s rec .coll = some w → ((works s).any fun p => entryOp p.2.entry == 0x20 && entryContext p.2.entry == entryContext w.entry && !p.2.begun && p.2.state == .accepted && decide (p.2.order < w.order)) = false → groupGet s (entryContext w.entry) = some g → g.mode = .broken → 
      exec (.postCollective rec) s = .next (complete rec .collAborted 0 none (workMod rec (fun x => { x with begun := true }) s))) ∧
    (∀ (rec : Nat) (query : List Byte) (w : Work) (s : State), lit s = true → readyWork s rec .attention = some w → ((works s).any fun p => entryOp p.2.entry == 0x30 && entryContext p.2.entry == entryContext w.entry && !p.2.begun && p.2.state == .accepted && decide (p.2.order < w.order)) = false → 
      exec (.attentionRequest rec query) s = .next (beginAttn rec w query s)) ∧
    (∀ (rec : Nat) (fetched : List Byte) (w : Work) (s : State), lit s = true → readyWork s rec .operator = some w → ((works s).any fun p => entryOp p.2.entry == 0x31 && p.2.fn == w.fn && decide (p.2.order < w.order) && entryContext p.2.entry == entryContext w.entry && openWork s p.1) = false → isSuspended s (.oper w.fn (entryContext w.entry)) false = false → stalled s (.oper w.fn (entryContext w.entry)) = false → 
      exec (.shoalOperator rec fetched) s = .next (beginOper rec w fetched s)) ∧
    (∀ (rec : Nat) (fetched : List Byte) (run : OpRun) (w : Work) (o : OpKind) (s : State), lit s = true → opRunOf s rec = some run → workGet s rec = some w → opKindOf (bits w.entry.toNat 128 8) = some o → run.next < opTiles o (opDesc w.entry) run.rows → isSuspended s (.oper run.fn run.stream) false = false → stalled s (.oper run.fn run.stream) = false → 
      exec (.tileStart rec fetched) s = .next (startTile o (opDesc w.entry) run fetched s))

/-- A miss takes a slot or waits for one, and a freed slot goes to the first stream that waits; FQ_HEAD is read again while replies wait; a
read of a BAR4 window gives the bytes of the region, a write places them, and one that fails its checks is recorded; a port sends a
waiting frame first and otherwise what its schedulers pick. Rows: TRANSLATION_MISS_WALK, MISS_SLOT_GRANT, FQ_HEAD_REREAD, BAR4_READ,
BAR4_WRITE, PACKET_TRANSMIT. (R107, R108, R114, R117, R116, R179) -/
def Obligations.MissesAndWindowsComplete : Prop :=
    (∀ (x : StreamId) (v : W64) (s : State), lit s = true → 
      exec (.translationMissWalk x v) s = .next (match slotFor s x with | some r => { s with missSlots := s.missSlots ++ [{ stream := x, reserved := r }] } | none => { s with missWait := s.missWait ++ [x] })) ∧
    (∀ (x : StreamId) (rest : List StreamId) (s : State), lit s = true → s.missWait.find? (fun x => (slotFor { s with missSlots := s.missSlots.drop 1 } x).isSome) = some x → rest = dropFirst (· == x) s.missWait → 
      exec .missSlotGrant s = .next (s.missWait.foldl (fun t y => unstall y t) (takeSlot x { s with missSlots := s.missSlots.drop 1, missWait := (rest.filter (· != x)) ++ rest.filter (· == x) }))) ∧
    (∀ (fn : Nat) (head : W32) (a : AddrSpace) (s : State), lit s = true → tabGet s.spaces fn = some a → a.waiting.isEmpty = false → dmaBarred s fn = false → 
      exec (.fqHeadReread fn head) s = .next (readFqHead fn head s)) ∧
    (∀ (fn offset len dva : Nat) (s : State), lit s = true → bar4Target s fn offset len false = .ok dva → 
      exec (.bar4Read fn offset len) s = .next (emit (.bar4Data fn (readDva s fn dva len [])) (wakeDva fn dva len (hearHost s)))) ∧
    (∀ (fn offset len : Nat) (e : Nat × Nat × Nat) (s : State), lit s = true → bar4Target s fn offset len false = .error e → 
      exec (.bar4Read fn offset len) s = .next (bar4Fault fn offset false e (emit (.bar4Data fn (List.replicate len 0xFF)) (hearHost s)))) ∧
    (∀ (fn offset dva : Nat) (bytes : List Byte) (s : State), lit s = true → bar4Target s fn offset bytes.length true = .ok dva → 
      exec (.bar4Write fn offset bytes) s = .next (placeAt fn dva bytes .none (hearHost s))) ∧
    (∀ (fn offset : Nat) (bytes : List Byte) (e : Nat × Nat × Nat) (s : State), lit s = true → bar4Target s fn offset bytes.length true = .error e → 
      exec (.bar4Write fn offset bytes) s = .next (bar4Fault fn offset true e (hearHost s))) ∧
    (∀ (port : Nat) (fetched : List Byte) (u : State) (s : State), lit s = true → u = dueRefills s → pickTc u port (backlog u port) ((candidates u port).filter (mayLeave u port)) = none → 
      exec (.packetTransmit port fetched) s = .next (u)) ∧
    (∀ (port : Nat) (fetched : List Byte) (u v : State) (c : Cand) (p : Pending) (frame : List Byte) (s : State), lit s = true → u = dueRefills s → pickTc u port (backlog u port) ((candidates u port).filter (mayLeave u port)) = some c → v = shaperTake (shaperKey 1 c.fn port) c.len (shaperTake (shaperKey 2 c.tc port) c.len (chargeQueues port c (followBacklog port c u))) → c.what = .frame p frame → 
      exec (.packetTransmit port fetched) s = .next (followBacklog port c (sendFrame port p c.tc frame v))) ∧
    (∀ (port : Nat) (fetched : List Byte) (u v : State) (c : Cand) (x : EgressUnit) (s : State), lit s = true → u = dueRefills s → pickTc u port (backlog u port) ((candidates u port).filter (mayLeave u port)) = some c → v = shaperTake (shaperKey 1 c.fn port) c.len (shaperTake (shaperKey 2 c.tc port) c.len (chargeQueues port c (followBacklog port c u))) → c.what = .unit x → 
      exec (.packetTransmit port fetched) s = .next (followBacklog port c (sendUnit x v))) ∧
    (∀ (port : Nat) (fetched : List Byte) (u v : State) (c : Cand) (n : Nat) (x : TxPacket) (p : Nat) (q : Qp) (s : State), lit s = true → u = dueRefills s → pickTc u port (backlog u port) ((candidates u port).filter (mayLeave u port)) = some c → v = shaperTake (shaperKey 1 c.fn port) c.len (shaperTake (shaperKey 2 c.tc port) c.len (chargeQueues port c (followBacklog port c u))) → c.what = .packet n x p → qpGet v n = some q → 
      exec (.packetTransmit port fetched) s = .next (followBacklog port c (releasePacket n q x p fetched v)))

/-- A new request packet of each kind, one that heardPacket and the window of R138 to R142 admit, is noted and handled by the rule of its
kind; one that was settled before is acknowledged again and only a read or an atomic is answered again; responses, ACK, NAK and
READ_REPAIR reach the requests they name. Rows: PKT_WRITE, PKT_WRITE_IMM, PKT_READ_REQ, PKT_SEND, PKT_ATOMIC_FADD, PKT_ATOMIC_CSWAP,
PKT_FLUSH, PKT_READ_RESP, PKT_ATOMIC_RESP, PKT_ACK, PKT_NAK, PKT_READ_REPAIR. (R150, R138, R132, R157, R141, R135, R159, R158, R156) -/
def Obligations.PacketsComplete : Prop :=
    (∀ (p : RxPacket) (w : RxPacket) (n : Nat) (q : Qp) (s : State), lit s = true → isNewPacket .write p n q s → w = widenFor q q.recv.e p → 
      exec (.pktWrite p) s = .next (writeFresh .write w n q (noteArrival n w (hear n w s)))) ∧
    (∀ (p : RxPacket) (w : RxPacket) (n : Nat) (q : Qp) (s : State), lit s = true → isOldPacket .write p n q s → w = widenFor q q.recv.e p → 
      exec (.pktWrite p) s = .next (dupAck n w (hear n w s))) ∧
    (∀ (p : RxPacket) (w : RxPacket) (n : Nat) (q : Qp) (s : State), lit s = true → isNewPacket .writeImm p n q s → w = widenFor q q.recv.e p → 
      exec (.pktWriteImm p) s = .next (writeFresh .writeImm w n q (noteArrival n w (hear n w s)))) ∧
    (∀ (p : RxPacket) (w : RxPacket) (n : Nat) (q : Qp) (s : State), lit s = true → isOldPacket .writeImm p n q s → w = widenFor q q.recv.e p → 
      exec (.pktWriteImm p) s = .next (dupAck n w (hear n w s))) ∧
    (∀ (p : RxPacket) (w : RxPacket) (n : Nat) (q : Qp) (s : State), lit s = true → isNewPacket .readReq p n q s → w = widenFor q q.recv.e p → 
      exec (.pktReadReq p) s = .next (readFresh w n q (noteArrival n w (hear n w s)))) ∧
    (∀ (p : RxPacket) (w : RxPacket) (n : Nat) (q : Qp) (s : State), lit s = true → isOldPacket .readReq p n q s → w = widenFor q q.recv.e p → 
      exec (.pktReadReq p) s = .next (dupRead w n q (dupAck n w (hear n w s)))) ∧
    (∀ (p : RxPacket) (w : RxPacket) (n : Nat) (q : Qp) (s : State), lit s = true → isNewPacket .send p n q s → w = widenFor q q.recv.e p → 
      exec (.pktSend p) s = .next (sendFresh w n q (noteArrival n w (hear n w s)))) ∧
    (∀ (p : RxPacket) (w : RxPacket) (n : Nat) (q : Qp) (s : State), lit s = true → isOldPacket .send p n q s → w = widenFor q q.recv.e p → 
      exec (.pktSend p) s = .next (dupAck n w (hear n w s))) ∧
    (∀ (p : RxPacket) (prior : W64) (w : RxPacket) (n : Nat) (q : Qp) (s : State), lit s = true → isNewPacket .fadd p n q s → w = widenFor q q.recv.e p → 
      exec (.pktAtomicFadd p prior) s = .next (atomicFresh .fadd prior w n q (noteArrival n w (hear n w s)))) ∧
    (∀ (p : RxPacket) (prior : W64) (w : RxPacket) (n : Nat) (q : Qp) (s : State), lit s = true → isOldPacket .fadd p n q s → w = widenFor q q.recv.e p → 
      exec (.pktAtomicFadd p prior) s = .next (dupAtomic w n q (dupAck n w (hear n w s)))) ∧
    (∀ (p : RxPacket) (prior : W64) (w : RxPacket) (n : Nat) (q : Qp) (s : State), lit s = true → isNewPacket .cswap p n q s → w = widenFor q q.recv.e p → 
      exec (.pktAtomicCswap p prior) s = .next (atomicFresh .cswap prior w n q (noteArrival n w (hear n w s)))) ∧
    (∀ (p : RxPacket) (prior : W64) (w : RxPacket) (n : Nat) (q : Qp) (s : State), lit s = true → isOldPacket .cswap p n q s → w = widenFor q q.recv.e p → 
      exec (.pktAtomicCswap p prior) s = .next (dupAtomic w n q (dupAck n w (hear n w s)))) ∧
    (∀ (p : RxPacket) (w : RxPacket) (n : Nat) (q : Qp) (s : State), lit s = true → isNewPacket .flush p n q s → w = widenFor q q.recv.e p → 
      exec (.pktFlush p) s = .next (flushFresh w n q (noteArrival n w (hear n w s)))) ∧
    (∀ (p : RxPacket) (w : RxPacket) (n : Nat) (q : Qp) (s : State), lit s = true → isOldPacket .flush p n q s → w = widenFor q q.recv.e p → 
      exec (.pktFlush p) s = .next (dupAck n w (hear n w s))) ∧
    (∀ (p w : RxPacket) (n : Nat) (q : Qp) (s : State), lit s = true → heardPacket .readResp p n q q.send.cumAcked s → q.phase = .ready → w = widenFor q q.send.cumAcked p → 
      exec (.pktReadResp p) s = .next (takeReadResp w n q (hearAck n w s))) ∧
    (∀ (p w : RxPacket) (n : Nat) (q : Qp) (s : State), lit s = true → heardPacket .atomicResp p n q q.send.cumAcked s → q.phase = .ready → w = widenFor q q.send.cumAcked p → 
      exec (.pktAtomicResp p) s = .next (takeAtomicResp w n q (hearAck n w s))) ∧
    (∀ (p : RxPacket) (b : AckBody) (n : Nat) (q : Qp) (own : W32 → W32) (sack : List (W32 × W32)) (newly : List TxPacket) (u v : State) (s : State), lit s = true → ackTarget .ack p (ackBytes b) (ackBodyOk b) s = some (n, q) → q.phase = .ready → (own = fun x => if q.conf.mode = .roce then widenPsn q.send.cumAcked x else x) → sack = b.sack.map (fun r => (own r.1, own r.2)) → newly = q.send.flight.filter (fun x => !x.sacked && isAcked (own p.hdr.seq) sack x.seq) → u = peerRetires n (if q.conf.mode = .roce then widenPsn q.recv.e b.ownRetired else b.ownRetired) (hearAck n p s) → v = sampleCc n q b newly.length (match roundTrip s.dev.now q b newly with | some t => sampleRtt n q t u | none => u) → b.stateLost = false → 
      exec (.pktAck p b) s = .next (applyCum n (own p.hdr.seq) sack v)) ∧
    (∀ (p : RxPacket) (b : AckBody) (n : Nat) (q : Qp) (own : W32 → W32) (sack : List (W32 × W32)) (newly : List TxPacket) (u v : State) (s : State), lit s = true → ackTarget .ack p (ackBytes b) (ackBodyOk b) s = some (n, q) → q.phase = .ready → (own = fun x => if q.conf.mode = .roce then widenPsn q.send.cumAcked x else x) → sack = b.sack.map (fun r => (own r.1, own r.2)) → newly = q.send.flight.filter (fun x => !x.sacked && isAcked (own p.hdr.seq) sack x.seq) → u = peerRetires n (if q.conf.mode = .roce then widenPsn q.recv.e b.ownRetired else b.ownRetired) (hearAck n p s) → v = sampleCc n q b newly.length (match roundTrip s.dev.now q b newly with | some t => sampleRtt n q t u | none => u) → b.stateLost = true → 
      exec (.pktAck p b) s = .next (applyCum n (own p.hdr.seq) sack (resendWhere n (fun x => !seqBefore x.seq (own p.hdr.seq) && q.send.flight.any fun y => y.seq == x.seq && y.sacked) (sendMod n (fun x => { x with flight := x.flight.map fun y => if seqBefore y.seq (own p.hdr.seq) then y else { y with sacked := false } }) v)))) ∧
    (∀ (p : RxPacket) (b : NakBody) (n : Nat) (q q1 : Qp) (own : W32 → W32) (u : State) (r : NakReason) (m : TxMessage) (s : State), lit s = true → ackTarget .nak p (nakBytes b) (nakBodyOk b) s = some (n, q) → q.phase = .ready → (own = fun x => if q.conf.mode = .roce then widenPsn q.send.cumAcked x else x) → sentMessage (hearAck n p s) q (own b.nakSeq) = some m → nakOfCode b.reason.toNat = some r → u = applyCum n (own p.hdr.seq) [] (peerRetires n b.ownRetired (hearAck n p s)) → qpGet u n = some q1 → (messageOf q1 m.work).isSome = true → 
      exec (.pktNak p b) s = .next (takeReason n q1 r (own b.nakSeq) m u)) ∧
    (∀ (p w : RxPacket) (b : RepairBody) (n : Nat) (q : Qp) (s : State), lit s = true → ackTarget .readRepair p (repairBytes b) (repairBodyOk b) s = some (n, q) → q.phase = .ready → q.recv.suspended = false → w = widenFor q q.recv.e p → keyCheck (hearAck n w s) q.conf.fn w.hdr.rkey rightRemoteRead w.hdr.msgDva.toNat (readLen w.hdr) = none → readBarred (hearAck n w s) q w.hdr = none → 
      exec (.pktReadRepair p b) s = .next (serveRead n q w.hdr true (fun x => b.ranges.any fun r => seqUpTo r.1 x && seqBefore x r.2) (hearAck n w s)))

/-- MOD_TIME judges the completion queue, the acknowledgement timer sends an ACK, the retransmission timer resends what is older than RTO,
RNR and FAULT_WAIT resend after their delays, and 1 s of silence and 100 ms without a path fail the oldest entry. Rows: MOD_TIME_EXPIRY,
ACK_COALESCE_TIMER, RETRANSMIT_TIMEOUT, RNR_RESEND, FAULT_WAIT_RESEND, SILENCE_LIMIT, NO_PATH_TIMEOUT. (R63, R148, R154, R139, R150,
R155, R142) -/
def Obligations.TransportTimersComplete : Prop :=
    (∀ (fn cq : Nat) (q : CplRing) (t : Nat) (s : State), lit s = true → cqGet s fn cq = some q → q.firstCounted = some t → 
      exec (.modTimeExpiry fn cq) s = .next (judgeCq (pairKey fn cq) (advanceTo (t + 1000 * q.modTime) s))) ∧
    (∀ (qp t : Nat) (q : Qp) (s : State), lit s = true → qpGet s qp = some q → q.phase = .ready → q.recv.firstSettledAt = some t → q.send.ownRetired = q.recv.toldRetired → 
      exec (.ackCoalesceTimer qp) s = .next (sendAck qp (advanceTo (t + ackDelay s) s))) ∧
    (∀ (qp t : Nat) (q : Qp) (s : State), lit s = true → qpGet s qp = some q → q.phase = .ready → q.recv.firstSettledAt = some t → q.send.ownRetired ≠ q.recv.toldRetired → 
      exec (.ackCoalesceTimer qp) s = .next (sendAck qp (advanceTo (min (t + ackDelay s) (q.recv.ackAt + 4000)) s))) ∧
    (∀ (qp : Nat) (q : Qp) (s : State), lit s = true → qpGet s qp = some q → q.phase = .ready → q.recv.firstSettledAt = none → q.send.ownRetired ≠ q.recv.toldRetired → 
      exec (.ackCoalesceTimer qp) s = .next (sendAck qp (advanceTo (q.recv.ackAt + 4000) s))) ∧
    (∀ (qp t : Nat) (q : Qp) (u : State) (lost : List TxPacket) (reads : List (TxMessage × TxPacket)) (s : State), lit s = true → qpGet s qp = some q → q.phase = .ready → timerDue s q = some t → u = advanceTo t s → lost = q.send.flight.filter (fun x => !x.sacked && !x.retx && !heldBack q x && decide (x.sentAt + rto q ≤ u.dev.now)) → reads = (waitingReads s q).filter (fun r => !heldBack q r.2 && decide (askedAt r.1 r.2 + rto q ≤ u.dev.now)) → 
      exec (.retransmitTimeout qp) s = .next (reads.foldl (renewRead qp) (loseAll qp (lost.map fun x => x.seq) (ccMod qp (fun c => { c with lossTimer := c.lossTimer || !lost.isEmpty, paths := lost.foldl (fun t x => tabSet t x.lastPath { ((tabGet t x.lastPath).getD (pathCc q x.lastPath)) with lossTimer := true }) c.paths }) (sendMod qp (fun x => { x with backoff := min (x.backoff + 1) 16 }) u))))) ∧
    (∀ (qp : Nat) (q : Qp) (m : TxMessage) (s : State), lit s = true → qpGet s qp = some q → nextRnr q = some m → 
      exec (.rnrResend qp) s = .next (resendWhere qp (fun x => x.work == m.work) (messageMod qp m.work (fun m => { m with rnrAt := none, rnrTries := m.rnrTries + 1 }) (advanceTo (m.rnrAt.getD 0) s)))) ∧
    (∀ (qp : Nat) (q : Qp) (x : W32) (s : State), lit s = true → qpGet s qp = some q → q.send.faultWait = some x → 
      exec (.faultWaitResend qp) s = .next (resendWhere qp (fun y => y.seq == x) (sendMod qp (fun y => { y with faultWaitAt := (advanceTo q.send.faultWaitAt s).dev.now + 1000 * q.conf.rnrDelay }) (advanceTo q.send.faultWaitAt s)))) ∧
    (∀ (qp t : Nat) (q : Qp) (m : TxMessage) (s : State), lit s = true → qpGet s qp = some q → silentSince s q = some t → oldestOutstanding s q = some m → q.phase = .ready → 
      exec (.silenceLimit qp) s = .next (failEntry qp m.work .retryExhausted 0 (advanceTo (t + 1000000000) s))) ∧
    (∀ (qp t : Nat) (q : Qp) (m : TxMessage) (s : State), lit s = true → qpGet s qp = some q → q.send.noPathSince = some t → q.send.messages.head? = some m → q.phase = .ready → 
      exec (.noPathTimeout qp) s = .next (failEntry qp m.work .remoteUnreachable 0 (advanceTo (t + 100000000) s)))

/-- PEER_SILENT reports a quiet peer, an epoch sets the new rate, and the recheck of admissions, the deadline of a copy acknowledgement, the
refills of shapers and policers, the sounding samples and the polls of CQ_HEAD do what their rules say. Rows: PEER_SILENT, CC_EPOCH_END,
ADMISSION_RECHECK, COPY_ACK_DEADLINE, SHAPER_REFILL, POLICER_REFILL, SOUNDING_SAMPLE, CQ_HEAD_POLL. (R472, R175, R32, R196, R183, R184,
R187, R163) -/
def Obligations.TransportChecksComplete : Prop :=
    (∀ (n t : Nat) (q : Qp) (s : State), lit s = true → qpGet s n = some q → outstanding s q = true → q.send.outSince = some t → q.send.silent = false → 
      exec (.peerSilent (.qp n)) s = .next (reportSilence (max t (deviceHeard s q)) q.conf.fn (peerNode q) (sendMod n (fun x => { x with silent := true }) s))) ∧
    (∀ (port n t : Nat) (x : FabPort) (q : ReqStream) (s : State), lit s = true → portGet s port = some x → streamGet s port n = some q → q.outSince = some t → q.silent = false → 
      exec (.peerSilent (.request port n)) s = .next (reportSilence (max t x.heardAt) q.fn (nodeDevice x.partnerDev) (streamMod port n (fun y => { y with silent := true }) s))) ∧
    (∀ (slot : Nat) (g : CollGroup) (o : Nat × Nat) (s : State), lit s = true → groupGet s slot = some g → oldestSent g = some o → 
      exec (.peerSilent (.coll slot)) s = .next (reportSilence (max o.1 ((tabGet g.heard o.2).getD 0)) g.fn (nodeDevice o.2) (groupMod slot (fun x => { x with silent := x.silent ++ [o.2] }) s))) ∧
    (∀ (qp : Nat) (q : Qp) (u : State) (s : State), lit s = true → qpGet s qp = some q → q.phase = .ready → admitted q = none → u = advanceTo (q.cc.epochAt + max ⌈q.send.srtt⌉.toNat (epochMin s)) s → 
      exec (.ccEpochEnd qp) s = .next (ccMod qp (fun c => { c with rate := nextRate s q, target := ccTarget s q, epochAt := u.dev.now, samples := 0, qmin := none, ce := 0, settled := 0, lossTimer := false, paths := nextPaths s q }) u)) ∧
    (∀ (t : Nat) (s : State), lit s = true → s.sched.recheckAt = some t → 
      exec .admissionRecheck s = .next (recheckAll (schedMod (fun y => { y with recheckAt := none }) s))) ∧
    (∀ (qp : Nat) (seq : W32) (q : Qp) (a : Admission) (x : TxPacket) (s : State), lit s = true → qpGet s qp = some q → admitted q = some a → q.send.flight.find? (fun x => x.seq == seq && !x.sacked && !x.late) = some x → isFabric q = false → 
      exec (.copyAckDeadline qp seq) s = .next (violate qp q a (sendMod qp (fun y => { y with flight := y.flight.map fun z => if z.seq = seq then { z with late := true } else z }) (advanceTo (x.sentAt + a.netRtt + 8000) s)))) ∧
    (∀ (n t : Nat) (u : State) (s : State), lit s = true → t = nextMultiple s.dev.ticks.shaper 1000 → u = advanceTo t s → n = u.dev.now / 1000 - s.dev.ticks.shaper / 1000 → 
      exec .shaperRefill s = .next (refillShapers n (u.dev.now / 1000 * 1000) u)) ∧
    (∀ (n t : Nat) (u : State) (s : State), lit s = true → t = nextMultiple s.dev.ticks.policer 1000 → u = advanceTo t s → n = u.dev.now / 1000 - s.dev.ticks.policer / 1000 → 
      exec .policerRefill s = .next (refillPolicers n (u.dev.now / 1000 * 1000) u)) ∧
    (∀ (kind : Nat) (id : W20) (x : Sounding) (s : State), lit s = true → nextSounding s kind id = some x → 
      exec (.soundingSample kind id none) s = .next (schedMod (fun y => { y with soundings := y.soundings.map fun z => if z = x then { z with nextAt := z.nextAt + 1000 * 2 ^ z.k } else z }) (writeSounding x.fn kind id.toNat (dueRefills (advanceTo x.nextAt s))))) ∧
    (∀ (kind : Nat) (id : W20) (h : W32) (x : Sounding) (s : State), lit s = true → nextSounding s kind id = some x → 
      exec (.soundingSample kind id (some h)) s = .next (schedMod (fun y => { y with soundings := y.soundings.map fun z => if z = x then { z with nextAt := z.nextAt + 1000 * 2 ^ z.k } else z }) (writeSounding x.fn kind id.toNat (fnMod x.fn (fun f => { f with sounding := f.sounding.map fun r => { r with head := h } }) (dueRefills (advanceTo x.nextAt s)))))) ∧
    (∀ (fn cq : Nat) (head : W32) (s : State), lit s = true → dmaBarred s fn = false → 
      exec (.cqHeadPoll fn cq head) s = .next (readCqHead (pairKey fn cq) head s))

/-- Retention and watchdog end in their effects on the function, FLR and the host crash reset it, VF enable and disable make and release
virtual functions, PERST, link loss and the reference clock change the host link, crossings come up, L1 is entered and island clocks
stop and wake. Rows: RETENTION_EXPIRY, HOST_WATCHDOG_EXPIRY, FLR, VF_ENABLE, VF_DISABLE, PERST_N_ASSERT, PERST_N_RELEASE, DL_DOWN,
HOT_RESET, CROSSING_READY, CROSSING_SYNC, PCIE_REFCLK_LOSS, PCIE_REFCLK_RETURN, L1_ENTRY, ISLAND_CLOCK_STOP, ISLAND_WAKE. (R88, R85,
R81, R84, R455, R438, R432, R61, R38, R441) -/
def Obligations.FunctionEventsComplete : Prop :=
    (∀ (fn t : Nat) (f : Function) (s : State), lit s = true → fnGet s fn = some f → f.mode = .held → f.heldSince = some t → 
      exec (.retentionExpiry fn) s = .next (expireRetention fn (discardHeld fn f.retention (advanceTo (t + 1000000000 * f.retention) s)))) ∧
    (∀ (fn t : Nat) (f : Function) (s : State), lit s = true → fnGet s fn = some f → f.mode ≠ .held → streamsHeldSince s fn = some t → 
      exec (.retentionExpiry fn) s = .next (discardHeld fn f.retention (advanceTo (t + 1000000000 * f.retention) s))) ∧
    (∀ (fn t : Nat) (heads : List HeadRead) (f : Function) (s : State), lit s = true → fnGet s fn = some f → f.mode = .running → f.watchdogAt = some t → 
      exec (.hostWatchdogExpiry fn heads) s = .next (resetFunction fn (readHeads fn heads (advanceTo t s)))) ∧
    (∀ (fn : Nat) (heads : List HeadRead) (f : Function) (s : State), fnGet s fn = some f → f.latent = false → 
      exec (.flr fn heads) s = .next (if fn = 0 then latchVfs (fnMod fn clearConfig (resetFunction fn (readHeads fn heads s))) else fnMod fn clearConfig (resetFunction fn (readHeads fn heads s)))) ∧
    (∀ (numVfs : Nat) (u : State) (s : State), s.pcie.vfEnable = false → numVfs ≤ 255 → s.pcie.linkUp = true → u = { s with pcie := { s.pcie with vfEnable := true, numVfs := numVfs } } → 
      exec (.vfEnable numVfs) s = .next ((List.range numVfs).foldl (fun v i => enableVf v (i + 1)) (((vfsOf u).filter fun n => decide (numVfs < n)).foldl (fun v n => releaseFunction n v) u))) ∧
    (∀ (s : State), s.pcie.vfEnable = true → 
      exec .vfDisable s = .next ((vfsOf s).foldl disableVf { s with pcie := { s.pcie with vfEnable := false, numVfs := 0 } })) ∧
    (∀ (widthNs : Nat) (s : State), 20 ≤ widthNs → s.pcie.perst = false → s.dev.life ≠ .tripped → 
      exec (.perstNAssert widthNs) s = .next (hostCrash true s)) ∧
    (∀ (s : State), s.pcie.perst = true → 
      exec .perstNRelease s = .next ({ s with pcie := { s.pcie with perst := false, trainBy := some (s.dev.now + 20000000) } })) ∧
    (∀ (s : State), s.pcie.linkUp = true → 
      exec .dlDown s = .next (hostCrash false s)) ∧
    (∀ (b : Bool) (s : State), s.pcie.linkUp = true → 
      exec (.hotReset b) s = .next (hostCrash false s)) ∧
    (∀ (island : Nat) (x : Crossing) (s : State), tabGet s.clocks.crossings island = some x → x.mode = .flush → inIslandReset s island = false → 
      exec (.crossingReady island) s = .next (crossingMod island (fun y => { emptyCrossing y with mode := .up, notify := false, ready := true }) s)) ∧
    (∀ (island : Nat) (x : Crossing) (s : State), tabGet s.clocks.crossings island = some x → x.mode ≠ .flush → inIslandReset s island = false → bit s.clocks.stopped.toNat island = false → 
      exec (.crossingSync island) s = .next (crossingMod island (fun y => { emptyCrossing y with mode := .up, notify := false, ready := true, syncReq := true, syncAck := true }) s)) ∧
    (∀ s : State, exec .pcieRefclkLoss s = .next { s with pcie := { s.pcie with refclk := false, oscillator := true } }) ∧
    (∀ s : State, exec .pcieRefclkReturn s = .next { s with pcie := { s.pcie with refclk := true, oscillator := false } }) ∧
    (∀ (idle : Nat) (u : State) (s : State), s.pcie.aspmL1 = true → s.pcie.linkUp = true → s.dev.profile = .balanced ∧ idle = 100000 ∨ s.dev.profile = .efficiency ∧ idle = 20000 → hostFlowAdmitted s = false → u = advanceTo (s.hostAt + idle) s → 
      exec .l1Entry s = .next ({ u with pcie := { u.pcie with inL1 := true } })) ∧
    (∀ (island : Nat) (u v : State) (s : State), mayStop s island = true → u = (if bit s.clocks.status.toNat island then dropClockBit island s else s) → v = advanceTo ((tabGet u.clocks.zeroSince island).getD s.dev.now + 100000) u → 
      exec (.islandClockStop island) s = .next ({ v with clocks := { v.clocks with stopped := v.clocks.stopped ||| BitVec.ofNat 18 (2 ^ island) } })) ∧
    (∀ (island : Nat) (s : State), island < 18 → ¬(10 ≤ island ∧ island ≤ 13 ∧ mayStop s island = true) → 
      exec (.islandWake island) s = .next (runClock island s))

/-- A flit in a slot of a trained ring is opened, passed on or delivered; a full lap without an empty slot claims one; a packet that stays
incomplete for 100 us is dropped; marker and status flits that pass their checks are taken and others counted; a draining bearing ends;
a trained port carries, three failed trainings are reported, and a lost port is taken down. Rows: RING_FLIT_ARRIVE, SLOT_CLAIM,
REASSEMBLY_TIMEOUT, FLIT_MARKER, FLIT_RING_STATUS, BEARING_DRAIN_END, FABRIC_PORT_TRAINED, FABRIC_TRAINING_RETRY, FABRIC_PORT_LOST.
(R209, R211, R207, R219, R222, R217, R201, R204) -/
def Obligations.FabricEventsComplete : Prop :=
    (∀ (port slot k : Nat) (f : Flit) (s : State), lit s = true → ringInput s port = some k → 
      exec (.ringFlitArrive port slot f) s = .next (ringArrive port k slot f s)) ∧
    (∀ (port slot k t : Nat) (f : Flit) (s : State), lit s = true → ringInput s port = some k → waitingSince s (outDir s (opposite k)) slot = some t → f.type ≠ 0 → f.slotClaim = false → tabGet s.fabric.claims (outDir s (opposite k)) = none → 
      exec (.slotClaim port slot f) s = .next (ringArrive port k slot f (advanceTo (t + lapNs s (outDir s (opposite k))) s))) ∧
    (∀ (src tag : Nat) (p : Partial) (s : State), lit s = true → tabGet s.fabric.store (src * 2 ^ 18 + tag) = some p → 
      exec (.reassemblyTimeout src tag) s = .next (dropFlit (fabMod (fun x => { x with store := tabErase x.store (src * 2 ^ 18 + tag) }) (advanceTo (p.firstAt + 100000) s)))) ∧
    (∀ (port : Nat) (f : Flit) (s : State), lit s = true → ringFlitGood s port f = true → f.type = 0x01 → 
      exec (.flitMarker port f) s = .next (takeMarker port f.chunkSeq.toNat f (hearFlit port s))) ∧
    (∀ (port : Nat) (f : Flit) (s : State), lit s = true → ringFlitGood s port f = false ∨ f.type ≠ 0x01 → 
      exec (.flitMarker port f) s = .next (dropFlit s)) ∧
    (∀ (port : Nat) (f : Flit) (s : State), lit s = true → ringFlitGood s port f = true → f.type = 0x02 → 
      exec (.flitRingStatus port f) s = .next (takeStatus port f (hearFlit port s))) ∧
    (∀ (port : Nat) (f : Flit) (s : State), lit s = true → ringFlitGood s port f = false ∨ f.type ≠ 0x02 → 
      exec (.flitRingStatus port f) s = .next (dropFlit s)) ∧
    (∀ (s : State), lit s = true → s.fabric.bearingA.mode = .draining → 
      exec .bearingDrainEnd s = .next (bearingMod false (fun x => { x with mode := .idle }) (advanceTo (s.fabric.bearingA.flippedAt + s.fabric.drainNs) s))) ∧
    (∀ (s : State), lit s = true → s.fabric.bearingA.mode ≠ .draining → s.fabric.bearingB.mode = .draining → 
      exec .bearingDrainEnd s = .next (bearingMod true (fun x => { x with mode := .idle }) (advanceTo (s.fabric.bearingB.flippedAt + s.fabric.drainNs) s))) ∧
    (∀ (port wake : Nat) (t : TrainInfo) (x : FabPort) (u : State) (s : State), portGet s port = some x → x.role ≠ .disabled → x.active = false → lanesUp x.role t.lanes ≠ 0 → partnerFits s x t = true → (lit s || s.dev.life == .restarting) = true → wake = max Config.wakeNs t.wakeNeeded → u = portMod port (fun y => { y with active := true, lanes := lanesUp x.role t.lanes, latNs := ceilDiv t.probeNs 2, partnerDev := t.partnerDev.toNat, partnerPort := t.partnerPort.toNat, partnerPilot := t.partnerPilot, wakeNs := wake, mayIdle := decide (wake ≤ y.wakeMax ∧ wake ≤ t.wakeTolerated), isIdle := false, narrowed := false, attempts := 0, lastFlit := s.dev.now, heardAt := s.dev.now }) s → 
      exec (.fabricPortTrained port t) s = .next (if isRingRole x.role then judgePaths (formTrained (dirOf x.role / 2) u) else x.streams.foldl (fun v q => resendCompletions true (fun _ => true) port q.1 v) u)) ∧
    (∀ (port : Nat) (x : FabPort) (u : State) (s : State), portGet s port = some x → x.role ≠ .disabled → x.active = false → u = portMod port (fun y => { y with attempts := y.attempts + 1 }) (advanceTo (s.dev.now + 10000000) s) → 
      exec (.fabricTrainingRetry port) s = .next (if x.attempts + 1 = 3 then raiseEvent .trainingFailed 0 nodeSelf port 3 u else u)) ∧
    (∀ (port : Nat) (s : State), lit s = true ∨ s.dev.life = .restarting → 
      exec (.fabricPortLost port) s = .next (portDown port s))

/-- A spur or KV_QUERY flit that passes its checks reaches its access, stream or request, and one that fails them is dropped and counted;
unanswered accesses and completions are sent again after 12 us, a query that stays out is read from memory after 2 us, a due block is
sealed, holds end, ramp waves step the active units, and spur ports idle, wake, narrow and widen. Rows: SPUR_CMD, SPUR_DATA,
SPUR_COMMIT, STREAM_REQ, STREAM_CPL_ACK, SPUR_ACCESS_TIMEOUT, STREAM_RESEND, KV_QUERY, KV_QUERY_FALLBACK, APPEND_SEAL, HOLD_RELEASE,
RAMP_WAVE, SPUR_IDLE_ENTRY, SPUR_WAKE, PILOT_NARROW, PILOT_WIDEN. (R344, R225, R345, R226, R291, R284, R302, R303, R228, R229) -/
def Obligations.SpurEventsComplete : Prop :=
    (∀ (port : Nat) (f : Flit) (s : State), lit s = true → 
      exec (.spurCmd port f) s = .next (if spurFlitGood s port f 0x40 then takeSpurCmd port f (hearFlit port s) else dropFlit s)) ∧
    (∀ (port : Nat) (f : Flit) (s : State), lit s = true → 
      exec (.spurData port f) s = .next (if spurFlitGood s port f 0x41 then takeSpurData port f (hearFlit port s) else dropFlit s)) ∧
    (∀ (port : Nat) (f : Flit) (s : State), lit s = true → 
      exec (.spurCommit port f) s = .next (if spurFlitGood s port f 0x42 then endOutbound port (spurTag f) (ofBe (slice f.payload 0 2)) [] (hearFlit port s) else dropFlit s)) ∧
    (∀ (port : Nat) (f : Flit) (s : State), lit s = true → 
      exec (.streamReq port f) s = .next (if spurFlitGood s port f 0x48 then takeStreamReq port f (hearFlit port s) else dropFlit s)) ∧
    (∀ (port : Nat) (f : Flit) (s : State), lit s = true → 
      exec (.streamCplAck port f) s = .next (if spurFlitGood s port f 0x4B then takeCplAck port f (hearFlit port s) else dropFlit s)) ∧
    (∀ (port tag : Nat) (x : FabPort) (a b : SpurAccess) (u : State) (s : State), lit s = true → portGet s port = some x → accessGet s port tag = some a → a.inbound = false → b = { a with sentAt := (advanceTo (a.sentAt + 12000) s).dev.now, data := if a.write then a.data else [] } → u = accessMod port tag (fun _ => b) (advanceTo (a.sentAt + 12000) s) → 
      exec (.spurAccessTimeout port tag) s = .next (if x.active then sendFlits port (spurFlits u tag b) u else u)) ∧
    (∀ (port n a t : Nat) (rest : List Nat) (x : FabPort) (q : ReqStream) (s : State), lit s = true → portGet s port = some x → streamGet s port n = some q → q.unconsumed.map Prod.snd = a :: rest → t = rest.foldl min a + 12000 → x.active = true → 
      exec (.streamResend port n) s = .next (resendCompletions false (fun r => decide (r.2 + 12000 ≤ (advanceTo t (serveStream port n s)).dev.now)) port n (advanceTo t (serveStream port n s)))) ∧
    (∀ (port n : Nat) (x : FabPort) (q : ReqStream) (s : State), lit s = true → portGet s port = some x → streamGet s port n = some q → q.unconsumed = [] → 
      exec (.streamResend port n) s = .next (serveStream port n s)) ∧
    (∀ (port : Nat) (f : Flit) (x : FabPort) (s : State), lit s = true → flitSound f = true → f.type = 0x30 → bits f.chunkSeq.toNat 22 2 = 0 → portGet s port = some x → x.role = .spur → x.active = true → 
      exec (.kvQuery port f) s = .next (takeKvQuery port f (hearFlit port s))) ∧
    (∀ (rec : Nat) (fetched : List Byte) (r : AttnRun) (w : Work) (s : State), lit s = true → s.cache.runs.find? (fun r => r.work == rec) = some r → workGet s rec = some w → r.query = none → isSuspended s (.attn r.pool rec) false = false → 
      exec (.kvQueryFallback rec fetched) s = .next (attnPump (readQuery rec (some fetched) (advanceTo (w.acceptedAt + 2000) s)))) ∧
    (∀ (rec : Nat) (d : SealDue) (p : Pool) (s : State), lit s = true → s.cache.seals.find? (fun d => d.work == rec) = some d → poolGet s d.pool = some p → sealBarred s p d.user d.layer d.block = false → sealedOf s d.pool d.user d.layer = d.block → 
      exec (.appendSeal rec) s = .next (sealBlock d.pool p d.user d.layer d.block (cacheMod (fun c => { c with seals := c.seals.erase d }) s))) ∧
    (∀ (s : State), lit s = true → s.cache.hold = true → 
      exec .holdRelease s = .next (match s.dev.profile with | .latency => if s.cache.pins.isEmpty then endHold s else s | .balanced => endHold (advanceTo (s.cache.lastD0 + 100000) s) | .efficiency => endHold (advanceTo (s.cache.lastD0 + 10000) s))) ∧
    (∀ (t : Nat) (u v : State) (s : State), lit s = true → s.ramp.nextWave = some t → s.droop.coreSince = none → u = rampWindow (advanceTo t s) → v = rampMod (fun r => { r with active := sortedNats ((r.active.filter fun x => !(waveOf u.ramp.resting).contains x) ++ waveOf u.ramp.starting), starting := r.starting.filter (fun x => !(waveOf u.ramp.starting).contains x), resting := r.resting.filter (fun x => !(waveOf u.ramp.resting).contains x), idleSince := r.idleSince.filter (fun p => !(waveOf u.ramp.resting).contains p.1), left := r.left + (waveOf u.ramp.starting).length, rested := r.rested + (waveOf u.ramp.resting).length }) u → 
      exec .rampWave s = .next (rampMod (fun r => { r with nextWave := if !v.ramp.starting.isEmpty || !v.ramp.resting.isEmpty then some (t + r.period) else none }) v)) ∧
    (∀ (port t : Nat) (x : FabPort) (s : State), lit s = true → portGet s port = some x → idleEntry s.dev.profile = some t → x.role = .spur → x.active = true → x.mayIdle = true → x.pilot = false → x.isIdle = false → admittedEndpoint s port = false → 
      exec (.spurIdleEntry port) s = .next (settleClock (6 + port / 4) (portMod port (fun y => { y with isIdle := true }) (advanceTo (x.lastFlit + t) s)))) ∧
    (∀ (port : Nat) (x : FabPort) (s : State), lit s = true → portGet s port = some x → x.isIdle = true → 
      exec (.spurWake port) s = .next (settleClock (6 + port / 4) (portMod port (fun y => { y with isIdle := false, lastFlit := (advanceTo (s.dev.now + x.wakeNs) s).dev.now }) (advanceTo (s.dev.now + x.wakeNs) s)))) ∧
    (∀ (port p : Nat) (x : FabPort) (s : State), lit s = true → portGet s port = some x → narrowPercent s.dev.profile = some p → x.role = .spur ∧ x.active = true ∧ x.pilot = true ∧ x.partnerPilot = true ∧ x.lanes = 4 ∧ x.narrowed = false → admittedEndpoint s port = false → loadLow s.dev.now p x.txLoad = true → loadLow s.dev.now p x.rxLoad = true → 
      exec (.pilotNarrow port) s = .next (portMod port (fun y => { y with narrowed := true }) s)) ∧
    (∀ (port : Nat) (x : FabPort) (s : State), lit s = true → portGet s port = some x → x.narrowed = true → 
      exec (.pilotWiden port) s = .next (portMod port (fun y => { y with narrowed := false }) s))

/-- A collective flit that passes its checks reaches its group and one that fails them is dropped; a reduction pass with a good residue ends
and feeds its collective, one with a bad residue is counted and run again, and the second takes the engine out; an unacknowledged chunk
is sent again after its timer, and 100 ms without an answer loses the member. Rows: COLL_DATA, COLL_TAIL, COLL_ACK, COLL_AGREE,
COLL_ABORT, REDUCTION_PASS_DONE, COLL_CHUNK_TIMER, COLL_MEMBER_TIMEOUT. (R254, R260, R262, R246, R271, R252, R270) -/
def Obligations.CollectiveEventsComplete : Prop :=
    (∀ (port : Nat) (f : Flit) (s : State), lit s = true → 
      exec (.collData port f) s = .next (if (collFlitGood s port f 0x20) = true then takeChunkFlit f (hearFlit port s) else dropFlit s)) ∧
    (∀ (port : Nat) (f : Flit) (s : State), lit s = true → 
      exec (.collTail port f) s = .next (if (collFlitGood s port f 0x21) = true then takeChunkFlit f (hearFlit port s) else dropFlit s)) ∧
    (∀ (port : Nat) (f : Flit) (s : State), lit s = true → 
      exec (.collAck port f) s = .next (if (collFlitGood s port f 0x22 && decide (ofBe (slice f.payload 0 1) ≤ 2)) = true then takeCollAck f (hearFlit port s) else dropFlit s)) ∧
    (∀ (port : Nat) (f : Flit) (s : State), lit s = true → 
      exec (.collAgree port f) s = .next (if (collFlitGood s port f 0x23 && decide (flitLeg f ≤ 3)) = true then takeCollAgree f (hearFlit port s) else dropFlit s)) ∧
    (∀ (port : Nat) (f : Flit) (s : State), lit s = true → 
      exec (.collAbort port f) s = .next (if (collFlitGood s port f 0x24) = true then takeCollAbort f (hearFlit port s) else dropFlit s)) ∧
    (∀ (engine : Nat) (p : EnginePass) (s : State), lit s = true → tabGet s.coll.engines engine = some p → 
      exec (.reductionPassDone engine true) s = .next (collGo p.slot (startPasses 9 (finishPass p (collMod (fun c => { c with engines := tabErase c.engines engine }) s))))) ∧
    (∀ (engine : Nat) (p p1 : EnginePass) (u : State) (s : State), lit s = true → tabGet s.coll.engines engine = some p → p1 = { p with residueFails := p.residueFails + 1, checkFails := p.checkFails + 1 } → p1.residueFails ≠ 2 → u = collMod (fun c => { c with engines := tabSet c.engines engine p1 }) s → 
      exec (.reductionPassDone engine false) s = .next (collGo p.slot (startPasses 9 (failCheck p.slot p.seq p1.checkFails u)))) ∧
    (∀ (slot : Nat) (chunk : ChunkId) (g : CollGroup) (seq : W32) (h : HeldChunk) (u : State) (again : HeldChunk → HeldChunk) (s : State), lit s = true → groupGet s slot = some g → heldOf chunkDue g chunk = some (seq, h) → u = advanceTo (chunkDue h) s → (again = fun y => if y = h then { y with sentAt := u.dev.now, timer := min 8000000 (2 * y.timer) } else y) → 
      exec (.collChunkTimer slot chunk) s = .next (sendChunk slot seq true h (if h.id.leg = 6 then groupMod slot (fun g => { g with setupOut := g.setupOut.map again }) u else runMod slot seq (fun r => { r with out := r.out.map again }) u))) ∧
    (∀ (slot : Nat) (chunk : ChunkId) (g : CollGroup) (seq : W32) (h : HeldChunk) (s : State), lit s = true → groupGet s slot = some g → heldOf lostDue { g with setupOut := [] } chunk = some (seq, h) → 
      exec (.collMemberTimeout slot chunk) s = .next (collGo slot (loseMember slot seq h.peer (advanceTo (lostDue h) s)))) ∧
    (∀ (slot : Nat) (chunk : ChunkId) (g : CollGroup) (seq : W32) (r : CollRun) (a : AgreeOut) (s : State), lit s = true → groupGet s slot = some g → heldOf lostDue { g with setupOut := [] } chunk = none → seq = BitVec.ofNat 32 chunk.num → runGet s slot seq = some r → r.agreeOut.find? (fun a => a.leg == chunk.leg && a.west == chunk.west) = some a → 
      exec (.collMemberTimeout slot chunk) s = .next (collGo slot (loseMember slot seq a.peer (advanceTo (a.sentAt + 100000000) s))))

/-- A received frame, a PFC frame and a helm frame are taken by the rules of their kind, pauses are refreshed and end, links go down and up
and report it, LLDP goes out every 30 s, links enter and leave low power, and a helm transmission backs off after a collision. Rows:
ETH_FRAME_RX, PFC_FRAME_RX, PFC_REFRESH, PFC_PAUSE_EXPIRE, ETH_LINK_DOWN, ETH_LINK_UP, LINK_EVENT_DEFERRED_WRITE, LLDP_SEND, LPI_ENTRY,
LPI_WAKE, HELM_COMMAND, HELM_BACKOFF_EXPIRY. (R355, R358, R352, R360, R363, R364, R369, R367) -/
def Obligations.EthernetEventsComplete : Prop :=
    (∀ (link : Nat) (f : EthFrame) (s : State), lit s = true → linkUp s link = true → 
      exec (.ethFrameRx link f none) s = .next (takeFrame link f s)) ∧
    (∀ (link : Nat) (f : EthFrame) (h : W32) (s : State), lit s = true → linkUp s link = true → 
      exec (.ethFrameRx link f (some h)) s = .next (takeFrame link f (readFrHead h s))) ∧
    (∀ (link : Nat) (e : W8) (times : List W16) (s : State), lit s = true → linkUp s link = true → 
      exec (.pfcFrameRx link e times) s = .next (takePfc link e times (countRx link 64 1 false true s))) ∧
    (∀ (link held : Nat) (l x : Link) (u : State) (s : State), lit s = true → linkGet s link = some l → l.up = true → l.pausing ≠ 0 → u = drainLink link (advanceTo (l.pauseSentAt + ceilDiv (65535 * 512) (2 * max 1 (linkRate (portMode s (link / 8))))) s) → linkGet u link = some x → held = prioMask (fun q => bit x.pausing.toNat q && decide (x.xoff ≤ 2 * pauseCount (linkBuffer u link) q (x.occupancy.getD q 0))) → 
      exec (.pfcRefresh link) s = .next (linkMod link (fun y => { y with pausing := BitVec.ofNat 8 held, pauseSentAt := u.dev.now }) (sendPfc link x.pausing.toNat (fun q => if bit held q then 0xFFFF else 0) u))) ∧
    (∀ (link tc : Nat) (l : Link) (t : Nat × Nat) (s : State), lit s = true → linkGet s link = some l → tabGet l.pausedUntil tc = some t → 
      exec (.pfcPauseExpire link tc) s = .next (resumeTc link tc (advanceTo t.2 s))) ∧
    (∀ (link : Nat) (s : State), lit s = true → 
      exec (.ethLinkDown link) s = .next (linkDown link s)) ∧
    (∀ (link : Nat) (s : State), lit s = true ∨ s.dev.life = .restarting → configured s link = true → linkUp s link = false → lanesUsable s link = true → 
      exec (.ethLinkUp link) s = .next (settleClock (2 + link / 8) (judgePaths (postLinkEvent link 1 (BitVec.ofNat 32 (portMode s (link / 8))) (linkMod link (fun l => { l with up := true, changedAt := s.dev.now, idleSince := s.dev.now, txLpi := false, rxLpi := false }) s))))) ∧
    (∀ (head : W32) (s : State), lit s = true → 
      exec (.linkEventDeferredWrite head) s = .next (readFrHead head s)) ∧
    (∀ (t : Nat) (u : State) (s : State), lit s = true → s.dev.life = .running → t = nextMultiple s.dev.ticks.lldp 30000000000 → u = advanceTo t { s with dev := { s.dev with ticks := { s.dev.ticks with lldp := t } } } → 
      exec .lldpSend s = .next ((u.eth.links.filter fun l => l.2.up).foldl (fun v l => countTx l.1 64 1 (emit (.lldp l.1) (wakeLink l.1 v))) u)) ∧
    (∀ (link t w : Nat) (l : Link) (p : EthPort) (s : State), lit s = true → linkGet s link = some l → tabGet s.eth.ports (link / 8) = some p → lpiAfter s = some t → l.wakeNs = some w → l.up = true ∧ l.txLpi = false ∧ p.lpiEnable = true ∧ w ≤ 1000 * p.wakeMax ∧ linkAdmitted s link = false ∧ (pendingFrame s link).isNone = true → 
      exec (.lpiEntry link) s = .next (settleClock (2 + link / 8) (linkMod link (fun y => { y with txLpi := true, txLpiAt := (advanceTo (l.idleSince + t) s).dev.now }) (countLink link 56 1 (advanceTo (l.idleSince + t) s))))) ∧
    (∀ (link : Nat) (s : State), lit s = true → 
      exec (.lpiWake link) s = .next (wakeLink link s)) ∧
    (∀ (f : HelmFrame) (s : State), (lit s || s.dev.life == .romRecovery || helmHolds s) = true → 64 ≤ f.length → f.length ≤ 1518 → f.kind = 1 → helmTakes f (countHelmRx f.length s) = true → helmHolds (countHelmRx f.length s) = false → 
      exec (.helmCommand f) s = .next (runHelm f (countHelmRx f.length s))) ∧
    (∀ (f : HelmFrame) (s : State), (lit s || s.dev.life == .romRecovery || helmHolds s) = true → 64 ≤ f.length → f.length ≤ 1518 → f.kind = 1 → helmTakes f (countHelmRx f.length s) = true → helmHolds (countHelmRx f.length s) = true → 
      exec (.helmCommand f) s = .next (helmMod (fun h => { h with waiting := h.waiting ++ [f] }) (countHelmRx f.length s))) ∧
    (∀ (collided : Bool) (n : Nat) (u : State) (s : State), (lit s || s.dev.life == .romRecovery) = true → (s.out.any fun o => (helmFrameOf o).isSome) = true → n = max 1 s.helm.attempts → u = advanceTo (s.dev.now + 51200 * ((Config.freeWord s.dev.fresh).toNat % 2 ^ (min n 10))) (takeFresh s) → 
      exec (.helmBackoffExpiry collided true) s = .next (discardHelm 50 u)) ∧
    (∀ (n : Nat) (u : State) (s : State), (lit s || s.dev.life == .romRecovery) = true → (s.out.any fun o => (helmFrameOf o).isSome) = true → n = max 1 s.helm.attempts → u = advanceTo (s.dev.now + 51200 * ((Config.freeWord s.dev.fresh).toNat % 2 ^ (min n 10))) (takeFresh s) → 
      exec (.helmBackoffExpiry true false) s = .next (if 16 ≤ n + 1 then discardHelm 51 u else helmMod (fun h => { h with attempts := n + 1 }) u)) ∧
    (∀ (n : Nat) (u : State) (s : State), (lit s || s.dev.life == .romRecovery) = true → (s.out.any fun o => (helmFrameOf o).isSome) = true → n = max 1 s.helm.attempts → u = advanceTo (s.dev.now + 51200 * ((Config.freeWord s.dev.fresh).toNat % 2 ^ (min n 10))) (takeFresh s) → 
      exec (.helmBackoffExpiry false false) s = .next (countHelm (if n = 1 then 48 else 49) 1 (helmMod (fun h => { h with attempts := 0 }) u)))

/-- Each tick advances time to its boundary and takes its measurements; a lapsed grant clears the grant and raises GRANT_EXPIRED; a sensor
at 115 degrees trips the device; the thermal ceiling falls by 16 W and rises by 4 W; droops open, last, end and count; a deferred change
takes effect 2 us after recovery; the ageing monitors learn. Rows: ENFORCEMENT_TICK, SEXTANT_DIVISION, GRANT_EXPIRY, SENSOR_SAMPLE,
THERMTRIP, THERMAL_WINDOW, DROOP_DETECT, DROOP_RECOVERY, DROOP_LONG, DEFERRED_FREQ_CHANGE, AGEING_MONITOR. (R409, R413, R407, R423,
R426, R424, R420, R421, R422, R417) -/
def Obligations.PowerEventsComplete : Prop :=
    (∀ (m : PowerMeas) (t : Nat) (u : State) (s : State), lit s = true → t = nextMultiple s.dev.ticks.enforce 1000 → u = powerMod (fun p => { p with meas := m, peak50 := max p.peak50 m.mean50us }) (advanceTo t (tickMod (fun x => { x with enforce := t }) s)) → 
      exec (.enforcementTick m) s = .next (stepSetpoint (powerMod (fun p => { p with enforced := slopeLimited u p.enforced (wantedPower m u) }) u))) ∧
    (∀ (w : WindowMeas) (t : Nat) (u v x : State) (s : State), s.dev.life = .running → t = nextMultiple s.dev.ticks.division 100000 → u = divide w (ceilMod (fun c => { c with phaseMix := phaseShares w }) (learnWindow w (advanceTo t (tickMod (fun x => { x with division := t }) s)))) → v = powerMod (fun p => { p with target := chooseSetpoint w u }) (droopMod (fun d => { d with pendingSetpoint := none }) u) → x = (if v.dev.now < v.power.framedAt + 1000 then v else sendVid v) → 
      exec (.sextantDivision w) s = .next (setClock (chooseClock w.controlLoad x) x)) ∧
    (∀ (t : Nat) (u : State) (s : State), lit s = true → s.power.validUntil = some t → u = powerMod (fun p => { p with validUntil := none }) (advanceTo t s) → 
      exec .grantExpiry s = .next (setAlert 0 true (raiseEvent .grantExpired 0 nodeSelf u.power.grantSeq.toNat u.power.fallback u))) ∧
    (∀ (readings : List Int) (t : Nat) (u : State) (s : State), lit s = true → readings.length = 48 → t = nextMultiple s.dev.ticks.sample 10000 → u = thermalMod (fun x => { x with readings := readings }) (advanceTo t (tickMod (fun x => { x with sample := t }) s)) → 
      exec (.sensorSample readings) s = .next (judgeHeat (thermalMod (fun x => { x with windowMax := some (max (hottest u).1 (x.windowMax.getD (hottest u).1)) }) u))) ∧
    (∀ (sensor : Nat) (reading : Int) (s : State), sensor < 48 → 1840 ≤ reading → 
      exec (.thermtrip sensor reading) s = .next (thermalMod (fun t => { t with tripped := true }) { s with dev := { s.dev with life := .tripped }, clocks := { s.clocks with stopped := BitVec.allOnes 18 } })) ∧
    (∀ (t : Nat) (u : State) (s : State), lit s = true → t = nextMultiple s.dev.ticks.thermal 100000 → u = advanceTo t (tickMod (fun x => { x with thermal := t }) s) → s.thermal.windowMax = none → 
      exec .thermalWindow s = .next (thermalMod (fun x => { x with windowMax := some (hottest u).1 }) u)) ∧
    (∀ (t : Nat) (u : State) (m : Int) (s : State), lit s = true → t = nextMultiple s.dev.ticks.thermal 100000 → u = advanceTo t (tickMod (fun x => { x with thermal := t }) s) → s.thermal.windowMax = some m → 1600 ≤ m → 
      exec .thermalWindow s = .next (thermalMod (fun x => { x with windowMax := some (hottest u).1 }) (if 300 < s.power.thermal then droopMod (fun d => { d with throttles := d.throttles + 1 }) (powerMod (fun p => { p with thermal := max 300 (s.power.thermal - 16) }) u) else powerMod (fun p => { p with thermal := max 300 (s.power.thermal - 16) }) u))) ∧
    (∀ (t : Nat) (u : State) (m : Int) (s : State), lit s = true → t = nextMultiple s.dev.ticks.thermal 100000 → u = advanceTo t (tickMod (fun x => { x with thermal := t }) s) → s.thermal.windowMax = some m → m ≤ 1552 → 
      exec .thermalWindow s = .next (thermalMod (fun x => { x with windowMax := some (hottest u).1 }) (powerMod (fun p => { p with thermal := min 800 (s.power.thermal + 4) }) u))) ∧
    (∀ (t : Nat) (u : State) (m : Int) (s : State), lit s = true → t = nextMultiple s.dev.ticks.thermal 100000 → u = advanceTo t (tickMod (fun x => { x with thermal := t }) s) → s.thermal.windowMax = some m → 1552 < m → m < 1600 → 
      exec .thermalWindow s = .next (thermalMod (fun x => { x with windowMax := some (hottest u).1 }) u)) ∧
    (∀ (site mv : Nat) (s : State), lit s = true → site ≤ 16 → 100 * mv ≤ 97 * s.power.setpoint → s.droop.coreSince = none → 
      exec (.droopDetect .vddCore site mv) s = .next (droopMod (fun d => { d with coreSince := some s.dev.now, coreLong := false }) s)) ∧
    (∀ (site mv : Nat) (s : State), lit s = true → site ≤ 17 → 100 * mv ≤ 97 * 750 → s.droop.islSince = none → 
      exec (.droopDetect .vddIsl site mv) s = .next (droopMod (fun d => { d with islSince := some s.dev.now, islLong := false }) s)) ∧
    (∀ (s : State), lit s = true → s.droop.coreSince.isSome = true → 
      exec (.droopRecovery .vddCore) s = .next (droopMod (fun d => { d with coreSince := none, coreLong := false, coreRecovered := some s.dev.now, events := d.events + 1 }) s)) ∧
    (∀ (s : State), lit s = true → s.droop.islSince.isSome = true → 
      exec (.droopRecovery .vddIsl) s = .next (droopMod (fun d => { d with islSince := none, islLong := false, islRecovered := some s.dev.now, events := d.events + 1 }) s)) ∧
    (∀ (t : Nat) (u : State) (s : State), lit s = true → s.droop.coreSince = some t → s.droop.coreLong = false → u = droopMod (fun d => { d with coreLong := true }) (advanceTo (t + 2000) s) → 
      exec (.droopLong .vddCore) s = .next (raiseEvent .droopLong 0 nodeSelf 0 (u.dev.now - t) u)) ∧
    (∀ (t : Nat) (u : State) (s : State), lit s = true → s.droop.islSince = some t → s.droop.islLong = false → u = droopMod (fun d => { d with islLong := true }) (advanceTo (t + 2000) s) → 
      exec (.droopLong .vddIsl) s = .next (raiseEvent .droopLong 0 nodeSelf 1 (u.dev.now - t) u)) ∧
    (∀ (ca cb : Option Nat) (a : Nat) (u : State) (s : State), lit s = true → ca = deferredDue s.droop.coreSince s.droop.coreRecovered s.droop.pendingSetpoint s.dev.now → cb = deferredDue s.droop.islSince s.droop.islRecovered s.droop.pendingClock s.dev.now → ca = some a → (∀ b, cb = some b → a ≤ b) → u = advanceTo (max a (s.power.framedAt + 1000)) s → 
      exec .deferredFreqChange s = .next (sendVid (powerMod (fun p => { p with setpoint := s.droop.pendingSetpoint.getD p.setpoint }) (droopMod (fun x => { x with pendingSetpoint := none, deferred := x.deferred + 1 }) u)))) ∧
    (∀ (ca cb : Option Nat) (b : Nat) (s : State), lit s = true → ca = deferredDue s.droop.coreSince s.droop.coreRecovered s.droop.pendingSetpoint s.dev.now → cb = deferredDue s.droop.islSince s.droop.islRecovered s.droop.pendingClock s.dev.now → cb = some b → (∀ a, ca = some a → b < a) → 
      exec .deferredFreqChange s = .next (droopMod (fun x => { x with pendingClock := none, coreClock := s.droop.pendingClock.getD x.coreClock, deferred := x.deferred + 1 }) (advanceTo b s))) ∧
    (∀ (report : List MarginReport) (t : Nat) (s : State), lit s = true → t = nextMultiple s.dev.ticks.ageing 3600000000000 → 
      exec (.ageingMonitor report) s = .next (report.foldl agePart (advanceTo t (tickMod (fun x => { x with ageing := t }) s))))

/-- The generator is reseeded after 2^20 requests or 1 s, masks and known-answer tests run on their lanes, a failing periodic or health test
enters the error state, offers end after 60 s and the officer session after 10 minutes, and zeros committed over a failed unit are
recorded and let the unit be received again. Rows: DRBG_RESEED, MASK_RESEED, LANE_KAT, PERIODIC_SELFTEST, OFFER_EXPIRY,
OFFICER_SESSION_EXPIRY, UNIT_ZEROS_COMMITTED, HEALTH_TEST_FAILURE. (R376, R377, R400, R380, R375, R392) -/
def Obligations.SecurityEventsComplete : Prop :=
    (∀ (entropy : BitVec 384) (u : State) (s : State), lit s = true → u = (if 2 ^ 20 ≤ s.sec.drbgRequests then s else advanceTo (s.sec.drbgAt + 1000000000) s) → 
      exec (.drbgReseed entropy) s = .next (secMod (fun x => { x with drbgRequests := 0, drbgAt := u.dev.now, seed := entropy }) u)) ∧
    (∀ (lane : Nat) (s : State), lit s = true → s.sec.errorState = false → 
      exec (.maskReseed lane) s = .next (secMod (fun x => { x with lanes := tabMod x.lanes lane fun y => { y with maskAt := s.dev.now } }) (drbgDraw s).2)) ∧
    (∀ (lane : Nat) (passed : Bool) (l : Lane) (u : State) (s : State), lit s = true → tabGet s.sec.lanes lane = some l → u = secMod (fun x => { x with lanes := tabMod x.lanes lane fun y => { y with katAt := (advanceTo (l.katAt + 100000000) s).dev.now } }) (advanceTo (l.katAt + 100000000) s) → 
      exec (.laneKat lane passed) s = .next (if passed then u else enterError (2 ^ testGcm) u)) ∧
    (∀ (failing : W64) (t : Nat) (u : State) (s : State), lit s = true → t = nextMultiple s.dev.ticks.selftest 86400000000000 → u = advanceTo t { s with dev := { s.dev with ticks := { s.dev.ticks with selftest := t } } } → 
      exec (.periodicSelftest failing) s = .next (if failing = 0 then u else enterError failing.toNat u)) ∧
    (∀ (offer : W64) (o : Offer) (s : State), lit s = true → tabGet s.sec.offers offer.toNat = some o → 
      exec (.offerExpiry offer) s = .next (secMod (fun x => { x with offers := tabErase x.offers offer.toNat }) (advanceTo (o.openedAt + 60000000000) s))) ∧
    (∀ (t : Nat) (s : State), lit s = true → s.sec.sessionAt = some t → 
      exec .officerSessionExpiry s = .next (secMod (fun x => { x with sessionAt := none }) (advanceTo (t + 600000000000) s))) ∧
    (∀ (qp unit : Nat) (own : Bool) (msg : W32) (q : Qp) (u : RxUnit) (v : State) (s : State), lit s = true → qpGet s qp = some q → findUnit q own msg unit = some u → u.zeroing = true → v = postRecord q.conf.fn (.sealFailure true u.dva qp unit msg) (unitMod qp own msg unit (fun x => { x with zeroing := false }) (qpMod qp (fun x => { x with sealing := x.sealing.map fun z => { z with failedUnits := z.failedUnits + 1 } }) s)) → 3 ≤ u.fails → 
      exec (.unitZerosCommitted qp own msg unit) s = .next (endFailedMessage qp q u v)) ∧
    (∀ (qp unit : Nat) (own : Bool) (msg : W32) (q : Qp) (u : RxUnit) (v : State) (key : BitVec 288) (x : State) (s : State), lit s = true → qpGet s qp = some q → findUnit q own msg unit = some u → u.zeroing = true → v = postRecord q.conf.fn (.sealFailure true u.dva qp unit msg) (unitMod qp own msg unit (fun x => { x with zeroing := false }) (qpMod qp (fun x => { x with sealing := x.sealing.map fun z => { z with failedUnits := z.failedUnits + 1 } }) s)) → u.fails < 3 → openKey v qp q u.phase = some key → u.failed = false → x = u.data.foldl (fun t d => placeAt q.conf.fn (u.dva + d.1) (gcmXor key u.ctr d.1 d.2) (unitCont qp u) t) v → 
      exec (.unitZerosCommitted qp own msg unit) s = .next (if u.len ≤ (u.data.map fun d => d.2.length).sum ∧ u.tag.isSome = true then judgeUnit qp q.conf.fn q u (landUnit qp q u) x else x)) ∧
    (∀ (qp unit : Nat) (own : Bool) (msg : W32) (q : Qp) (u : RxUnit) (v : State) (s : State), lit s = true → qpGet s qp = some q → findUnit q own msg unit = some u → u.zeroing = true → v = postRecord q.conf.fn (.sealFailure true u.dva qp unit msg) (unitMod qp own msg unit (fun x => { x with zeroing := false }) (qpMod qp (fun x => { x with sealing := x.sealing.map fun z => { z with failedUnits := z.failedUnits + 1 } }) s)) → u.fails < 3 → u.failed = true → 
      exec (.unitZerosCommitted qp own msg unit) s = .next (v)) ∧
    (∀ (proportion : Bool) (s : State), lit s = true → 
      exec (.healthTestFailure proportion) s = .next (enterError (2 ^ (if proportion then testProportion else testRepetition)) s))

/-- A refresh sets the period of its tarn by the hottest stack sensor (16 ms above 85 degrees, else 32 ms); a patrol scrub counts and writes
back each word it corrected; a finished row repair takes a spare of its bank, or reports a bank that has none left; the interleave is
re-formed; a channel is mirrored again; a channel of an idle device in EFFICIENCY powers down 10 us after its last access. Rows:
REFRESH, PATROL_SCRUB, ROW_REPAIR_DONE, INTERLEAVE_REFORMED, JOURNAL_REMIRRORED, CHANNEL_POWER_DOWN. (R339, R340, R342, R166, R347) -/
def Obligations.TarnEventsComplete : Prop :=
    (∀ (tarn : Nat) (s : State), lit s = true → tarn < 4 → bit s.dev.inventory.tarns.toNat tarn = true → 
      exec (.refresh tarn) s = .next (tarnMod (fun t => { t with refreshMs := if ((s.thermal.readings.drop 16).take 8).any fun r => decide (85 * 16 < r) then 16 else 32 }) s)) ∧
    (∀ (tarn : Nat) (corrected : List ScrubHit) (s : State), lit s = true → tarn < 4 → bit s.dev.inventory.tarns.toNat tarn = true → 
      exec (.patrolScrub tarn corrected) s = .next ((corrected.filter fun h => decide (h.channel < 64 ∧ h.bank < 32 ∧ h.tpa + 64 ≤ 2 ^ 38) && h.tpa % 64 == 0 && granuleChannel s (h.tpa / 256) == 64 * tarn + h.channel).foldl (scrubWord tarn s.tarns.scrubHits) s)) ∧
    (∀ (tarn channel bank row c : Nat) (r : RowRepair) (u : State) (s : State), lit s = true → c = 64 * tarn + channel → s.tarns.repairs.find? (fun r => r.channel == c && (r.place == some (bank, row) || r.place.isNone)) = some r → u = tarnMod (fun t => { t with repairs := t.repairs.erase r, scrubHits := t.scrubHits.filter (fun h => !(h.bank == 32 * c + bank && h.row == row)) }) s → 8 ≤ (tabGet s.tarns.spares (32 * c + bank)).getD 0 → 
      exec (.rowRepairDone tarn channel bank row) s = .next (raiseEvent .bankNoSpare 0 nodeSelf c bank u)) ∧
    (∀ (tarn channel bank row c : Nat) (r : RowRepair) (u : State) (s : State), lit s = true → c = 64 * tarn + channel → s.tarns.repairs.find? (fun r => r.channel == c && (r.place == some (bank, row) || r.place.isNone)) = some r → u = tarnMod (fun t => { t with repairs := t.repairs.erase r, scrubHits := t.scrubHits.filter (fun h => !(h.bank == 32 * c + bank && h.row == row)) }) s → (tabGet s.tarns.spares (32 * c + bank)).getD 0 < 8 → 
      exec (.rowRepairDone tarn channel bank row) s = .next (tarnMod (fun t => { t with spares := tabAdd t.spares (32 * c + bank) 1, softRows := t.softRows ++ [(32 * c + bank, row)] }) u)) ∧
    (∀ (s : State), lit s = true → 
      exec .interleaveReformed s = .next (tarnMod (fun t => { t with reforming := false }) s)) ∧
    (∀ (tarn channel : Nat) (s : State), lit s = true → bit s.tarns.tarnLost.toNat tarn = false → 
      exec (.journalRemirrored tarn channel) s = .next (tarnMod (fun t => { t with remirror := t.remirror.filter (· != 64 * tarn + channel), unreadable := t.unreadable.filter fun u => !(u.1 == tarn && journalChannel u.2 == channel) }) s)) ∧
    (∀ (tarn channel c : Nat) (s : State), lit s = true → s.dev.profile = .efficiency → holdActive s = false → tarn < 4 ∧ channel < 64 → c = 64 * tarn + channel → bit s.tarns.usable.toNat c = true → s.tarns.powerDown.contains c = false → 
      exec (.channelPowerDown tarn channel) s = .next (tarnMod (fun t => { t with powerDown := t.powerDown ++ [c] }) (advanceTo ((tabGet s.tarns.accessed c).getD 0 + 10000) s)))

/-- An uncorrectable error in the allocation area starts a row repair, reports the row and loses the page of its address, one in the
journals makes the line unreadable and loses the records that have no copy, one in the spill or the tables loses the spill or has the
tables rebuilt; a lost channel loses the area and what is stored on it and is taken out, with its tarn where more than 8 are lost; a
lost tarn is taken out; a rebuilt table takes the entries of the host copy in a new epoch. Rows: UNCORRECTABLE_ERROR, CHANNEL_LOST,
TABLE_REBUILT, TARN_LOST. (R338, R341, R92, R471) -/
def Obligations.TarnLossesComplete : Prop :=
    (∀ (tpa : Nat) (u : State) (s : State), lit s = true → u = startRepair (granuleChannel s (tpa / 256)) none s → tpa < 0x3900000000 → tpa < areaEnd s → 
      exec (.uncorrectableError tpa) s = .next (losePages (fun p => p == tpa / 65536) .rowLost (raiseEvent .rowLost 0 nodeSelf (granuleChannel s (tpa / 256)) ((Config.freeWord s.dev.fresh).toNat % 32) (takeFresh u)))) ∧
    (∀ (tpa : Nat) (u : State) (s : State), lit s = true → u = startRepair (granuleChannel s (tpa / 256)) none s → tpa < 0x3900000000 → areaEnd s ≤ tpa → 
      exec (.uncorrectableError tpa) s = .next (s)) ∧
    (∀ (tpa : Nat) (r : Nat × Nat) (u : State) (s : State), lit s = true → u = startRepair (granuleChannel s (tpa / 256)) none s → 0x3900000000 ≤ tpa → tpa < 2 ^ 38 → r = reservedOf tpa → r.2 < 0x80000000 → 
      exec (.uncorrectableError tpa) s = .next (loseRecords (tarnMod (fun t => { t with unreadable := (t.unreadable.filter (· != (r.1, r.2 / 64))) ++ [(r.1, r.2 / 64)] }) u))) ∧
    (∀ (tpa : Nat) (r : Nat × Nat) (u : State) (s : State), lit s = true → u = startRepair (granuleChannel s (tpa / 256)) none s → 0x3900000000 ≤ tpa → tpa < 2 ^ 38 → r = reservedOf tpa → 0x80000000 ≤ r.2 → r.2 < 0x180000000 → 
      exec (.uncorrectableError tpa) s = .next (loseSpill u)) ∧
    (∀ (tpa : Nat) (r : Nat × Nat) (u : State) (s : State), lit s = true → u = startRepair (granuleChannel s (tpa / 256)) none s → 0x3900000000 ≤ tpa → tpa < 2 ^ 38 → r = reservedOf tpa → 0x180000000 ≤ r.2 → 
      exec (.uncorrectableError tpa) s = .next (wantRebuild u)) ∧
    (∀ (tarn channel n : Nat) (u v : State) (s : State), lit s = true → tarn < 4 → bit s.dev.inventory.tarns.toNat tarn = true → channel < 64 → n = 64 * tarn + channel → bit s.tarns.usable.toNat n = true → u = tarnMod (fun t => { t with usable := t.usable &&& ~~~ (BitVec.ofNat 256 (2 ^ n)), remirror := t.remirror ++ [n], powerDown := t.powerDown.filter (· != n) }) (loseArea .channelLost (raiseEvent .channelLost 0 nodeSelf n 0 (flushCrossing (10 + tarn) s))) → v = wantRebuild (loseSpill (loseRecords u)) → 
      exec (.channelLost tarn channel) s = .next (if 8 < lostChannels v tarn then loseTarn tarn v else v)) ∧
    (∀ (fn : Nat) (host : List HostEntry) (a : AddrSpace) (u : State) (kept : List Nat) (s : State), lit s = true → tabGet s.spaces fn = some a → s.tarns.rebuild.contains fn = true → dmaBarred s fn = false → u = tarnMod (fun t => { t with rebuild := t.rebuild.filter (· != fn) }) (spaceMod fn (fun x => { x with pages := rebuiltPages s fn a host, epoch := x.epoch + 1 }) s) → kept = syncBacking u fn true ++ syncBacking u fn false → 
      exec (.tableRebuilt fn host) s = .next (raiseEvent .tableRebuilt fn nodeSelf (a.epoch + 1).toNat 0 (if segmentsOpen u fn (a.epoch + 1) then tarnMod (fun t => { t with freeing := t.freeing ++ [(fn, a.epoch + 1)] }) u else freeBacking fn ((unmappedBacking u fn).filter fun p => !kept.contains p) u))) ∧
    (∀ (tarn : Nat) (s : State), lit s = true → tarn < 4 → bit s.dev.inventory.tarns.toNat tarn = true → 
      exec (.tarnLost tarn) s = .next (loseTarn tarn s))

/-- FAULT_PENDING_WRITE reads FQ_HEAD again, every 100 us boundary writes the update records that are due, and an entry that was quiet for
10 ms closes at the next boundary. Rows: FAULT_PENDING_WRITE, AGG_WINDOW_BOUNDARY, AGG_ENTRY_CLOSE. (R468, R473, R474) -/
def Obligations.FaultEventsComplete : Prop :=
    (∀ (fn : Nat) (head : W32) (s : State), lit s = true → (waiters s fn).isEmpty = false → dmaBarred s fn = false → 
      exec (.faultPendingWrite fn head) s = .next (readFqHead fn head s)) ∧
    (∀ (t : Nat) (u : State) (s : State), lit s = true → t = nextMultiple s.dev.ticks.aggUpdate 100000 → u = advanceTo t { s with dev := { s.dev with ticks := { s.dev.ticks with aggUpdate := t } } } → 
      exec .aggWindowBoundary s = .next (dueAgg (fun a => a.raised && !a.closing) id u)) ∧
    (∀ (t : Nat) (u : State) (s : State), lit s = true → t = nextMultiple s.dev.ticks.aggClose 100000 → u = advanceTo t { s with dev := { s.dev with ticks := { s.dev.ticks with aggClose := t } } } → 
      exec .aggEntryClose s = .next (dueAgg (fun a => !a.closing && decide (a.lastAt + 10000000 ≤ t)) (fun a => { a with closing := true }) u))

/-- The heartbeat counts every millisecond, a firmware that is silent for 100 ms restarts, and a restart ends in service or in ROM recovery.
Rows: FW_HEARTBEAT_TICK, FW_WATCHDOG_EXPIRY, FW_RESTART_COMPLETE. (R37, R452) -/
def Obligations.FirmwareEventsComplete : Prop :=
    (∀ (t : Nat) (u : State) (s : State), s.dev.life = .running → t = nextMultiple s.dev.ticks.heartbeat 1000000 → u = advanceTo t (tickMod (fun x => { x with heartbeat := t }) s) → heartbeatCounts s t = true → 
      exec .fwHeartbeatTick s = .next (devMod (fun d => { d with heartbeat := d.heartbeat + 1, lastLiveness := u.dev.now }) u)) ∧
    (∀ (t : Nat) (u : State) (s : State), s.dev.life = .running → t = nextMultiple s.dev.ticks.heartbeat 1000000 → u = advanceTo t (tickMod (fun x => { x with heartbeat := t }) s) → heartbeatCounts s t = false → 
      exec .fwHeartbeatTick s = .next (u)) ∧
    (∀ (s : State), s.dev.life = .running → 
      exec .fwWatchdogExpiry s = .next (flushCrossing 14 (unreadCommands (devMod (fun d => { d with life := .fwRestart }) (advanceTo (s.dev.lastLiveness + 100000000) s))))) ∧
    (∀ (u v : State) (s : State), s.dev.life = .fwRestart → u = takeFresh (advanceTo (s.dev.lastLiveness + 100000000 + 1000 * ((Config.freeWord s.dev.fresh).toNat % 120001)) s) → v = devMod (fun d => { d with life := .running, lastLiveness := u.dev.now, ticks := { d.ticks with heartbeat := u.dev.now } }) u → 
      exec (.fwRestartComplete true) s = .next (drainHelm ((v.spaces.map Prod.fst).foldl (fun t p => pumpPartition p t) v))) ∧
    (∀ (u : State) (s : State), s.dev.life = .fwRestart → u = takeFresh (advanceTo (s.dev.lastLiveness + 100000000 + 1000 * ((Config.freeWord s.dev.fresh).toNat % 120001)) s) → 
      exec (.fwRestartComplete false) s = .next (drainHelm (devMod (fun d => { d with life := .romRecovery }) u)))

/-- Power-on runs the start tests from a cold state, a rail out of tolerance and a missing reference stop the device, the start and the
restart end in service or in ROM recovery, a device reset keeps or drops what its kind says, PPS edges are stamped, the test logic is
held in reset by TRST_N, and a lost shoal leaves the units in service. Rows: POWER_ON_RELEASE, RAIL_OUT_OF_TOLERANCE,
REFCLK_ABSENT_TIMEOUT, START_COMPLETE, DEVICE_RESET_TAKES_EFFECT, RESTART_COMPLETE, PPS_EDGE, TRST_N_ASSERT, LOSS_OF_ONE_SHOAL. (R445,
R446, R453, R454, R451, R490, R494, R304) -/
def Obligations.LifecycleEventsComplete : Prop :=
    (∀ (straps : Straps) (selftest : List TestResult) (clocksOk suppliesOk : Bool) (s : State), s.dev.life = .inReset → 
      exec (.powerOnRelease straps selftest clocksOk suppliesOk) s = .next (runTests .cold selftest clocksOk suppliesOk (coldState straps s))) ∧
    (∀ (rail : Nat) (s : State), rail < 9 → 
      exec (.railOutOfTolerance rail) s = .next (thermalMod (fun t => { t with tripped := false }) (devMod (fun d => { d with life := .inReset, resetDue := none }) s))) ∧
    (∀ (s : State), s.dev.life = .starting ∨ s.dev.life = .restarting → 
      exec .refclkAbsentTimeout s = .next (setAlert 2 true (devMod (fun d => { d with life := .waitingRefs, refsPresent := false }) (advanceTo (s.dev.lastLiveness + 1000000000) s)))) ∧
    (∀ (imageOk : Bool) (crypto : W64) (s : State), s.dev.life = .starting → 
      exec (.startComplete imageOk crypto) s = .next (drainHelm (if s.start.kind = .cold then endStart imageOk crypto 430000 2000 id s else endStart imageOk crypto 428000 0 id s))) ∧
    (∀ (straps : Straps) (selftest : List TestResult) (clocksOk suppliesOk : Bool) (t : Nat) (kind : StartKind) (s : State), s.dev.resetDue = some (t, kind) → (lit s || s.dev.life == .romRecovery) = true → placementsOpen s = false → 
      exec (.deviceResetTakesEffect straps selftest clocksOk suppliesOk) s = .next (judgeStrap straps (runTests (if kind = .selftest then .selftest else .railsHeld) selftest clocksOk suppliesOk (if kind = .selftest then selftestState straps (stepToBoot 10 (advanceTo t s)) else heldState straps (unreadCommands (stepToBoot 10 (advanceTo t s))))))) ∧
    (∀ (imageOk : Bool) (crypto : W64) (s : State), s.dev.life = .restarting → 
      exec (.restartComplete imageOk crypto) s = .next (drainHelm (endStart imageOk crypto 309500 0 restartWork s))) ∧
    (∀ (highNs : Nat) (s : State), 20 ≤ highNs → (∀ t, s.dev.ppsEdgeAt = some t → t + 100000000 ≤ s.dev.now) → 
      exec (.ppsEdge highNs) s = .next ({ s with dev := { s.dev with ppsCount := s.dev.ppsCount + 1, ppsEdgeAt := some s.dev.now, ppsPrev := s.dev.ppsLatest, ppsLatest := s.dev.now } })) ∧
    (∀ (highNs t : Nat) (s : State), 20 ≤ highNs → s.dev.ppsEdgeAt = some t → s.dev.now < t + 100000000 → 
      exec (.ppsEdge highNs) s = .next ({ s with dev := { s.dev with ppsCount := s.dev.ppsCount + 1, ppsEdgeAt := some s.dev.now } })) ∧
    (∀ s : State, exec .trstNAssert s = .next (jtagMod (fun j => { resetTap j with trst := true }) s)) ∧
    (∀ (shoal : Nat) (s : State), lit s = true → bit s.dev.inventory.shoals.toNat shoal = true → 
      exec (.lossOfOneShoal shoal) s = .next (retireShoal shoal s))

/-- With both references present the power-on goes on, the host link trains again and leaves L1, the partner of an Ethernet link enters and
leaves low power, a lost control core and a restored core set are taken up, units come to rest, and an edge of TCK moves the test port.
Rows: LOSS_OF_ONE_CONTROL_CORE, CORE_SET_RESTORED, REFERENCES_PRESENT, PCIE_LINK_RETRAINED, L1_EXIT, UNIT_AT_REST, PARTNER_LPI_ENTRY,
PARTNER_LPI_EXIT, TRST_N_RELEASE, TCK_EDGE. (R20, R27, R446, R85, R61, R303, R364, R494) -/
def Obligations.StartAndTestPortEventsComplete : Prop :=
    (∀ (core : Nat) (s : State), lit s = true → bit s.dev.inventory.cores.toNat core = true → 
      exec (.lossOfOneControlCore core) s = .next (retireCore core s)) ∧
    (∀ (t : Nat) (u : State) (s : State), lit s = true → s.dev.coreLostAt = some t → u = advanceTo (t + 1000000) s → 
      exec .coreSetRestored s = .next ({ u with dev := { u.dev with coreLostAt := none } })) ∧
    (∀ (s : State), s.dev.life = .waitingRefs → 
      exec .referencesPresent s = .next (setAlert 2 false (devMod (fun d => { d with life := startLife s.start.kind, refsPresent := true }) s))) ∧
    (∀ (link : PcieTrained) (s : State), s.pcie.linkUp = false → s.pcie.perst = false → s.pcie.trainBy.isSome = true → [1, 2, 4, 8, 16].contains link.width = true → linkRates.contains link.rate = true → 
      exec (.pcieLinkRetrained link) s = .next ({ s with hostAt := s.dev.now, pcie := { s.pcie with linkUp := true, width := link.width, rate := link.rate, flit := decide (640 ≤ link.rate) || link.partnerFlit, trainBy := none } })) ∧
    (∀ s : State, exec .l1Exit s = .next { s with pcie := { s.pcie with inL1 := false } }) ∧
    (∀ (shoal unit t : Nat) (s : State), lit s = true → tabGet s.ramp.idleSince (128 * shoal + unit) = some t → s.cache.hold = false → s.ramp.active.contains (128 * shoal + unit) = true → 
      exec (.unitAtRest shoal unit) s = .next (restUnits 0 [128 * shoal + unit] (advanceTo (t + 2000) s))) ∧
    (∀ (link : Nat) (l : Link) (s : State), lit s = true → linkGet s link = some l → l.up = true → l.rxLpi = false → 
      exec (.partnerLpiEntry link) s = .next (settleClock (2 + link / 8) (linkMod link (fun l => { l with rxLpi := true, rxLpiAt := s.dev.now }) (countLink link 58 1 s)))) ∧
    (∀ (link : Nat) (s : State), lit s = true → 
      exec (.partnerLpiExit link) s = .next (leaveRxLpi link s)) ∧
    (∀ s : State, exec .trstNRelease s = .next (jtagMod (fun j => { j with trst := false }) s)) ∧
    (∀ (tms tdi : Bool) (s : State), s.jtag.trst = false → 
      exec (.tckEdge tms tdi) s = .next (showTdo (jtagMod (fun j => { j with tap := tapNext j.tap tms }) (tapAction tdi s))))

/-- For every command c and state s, the step of s with c at the front of its queue is the effect of c on s with the rest of the queue, and
on an empty queue the block idles: 1 ns of lodestar time passes while the device runs and nothing else changes. That an empty queue lets
time pass is the model's choice (log entry 4). (R42, R8) -/
def Obligations.StepRunsTheFrontCommand : Prop :=
    (∀ (c : Instr) (rest : List Instr) (s : State), step { s with pending := c :: rest } = exec c { s with pending := rest }) ∧
      (∀ s : State, s.pending = [] → step s = .next (if lit s then { s with dev := { s.dev with now := s.dev.now + 1 } } else s))

/-- After reset no grant is in force and the fallback budget is 400 W (R407), the thermal ceiling is 800 W (R424), the core setpoint is the
boot setpoint of 750 mV (R418), both bearings are IDLE and DRAIN_NS is 64,000 ns, 4,032 fathoms are free and no spill is reserved, PF0
alone exists and is STOPPED at level 2 in BALANCED as with all straps open (R2, R492), the four tarns are usable, the test port is in
reset, and no queue holds anything. The lodestar time of reset is the model's choice (log entry 1). (R2, R407, R418, R424, R453, R492,
R494) -/
def Obligations.ResetState : Prop :=
    State.reset.power.validUntil = none ∧ State.reset.power.fallback = 400 ∧ State.reset.power.thermal = 800 ∧ State.reset.power.setpoint = 750 ∧
      State.reset.fabric.bearingA.mode = .idle ∧ State.reset.fabric.bearingB.mode = .idle ∧ State.reset.fabric.drainNs = 64000 ∧
      State.reset.coll.free = 4032 ∧ State.reset.coll.spillUsed = 0 ∧ State.reset.fns.map Prod.fst = [0] ∧ fnModeOf State.reset 0 = .stopped ∧
      fnLevel1 State.reset 0 = false ∧ State.reset.dev.profile = .balanced ∧ State.reset.dev.inventory.tarns = 0xF ∧ State.reset.tarns.mem = [] ∧
      State.reset.jtag.trst = true ∧ State.reset.jtag.tap = .reset ∧ State.reset.pending = [] ∧ State.reset.commands = [] ∧ State.reset.qps = []

/-- The state after reset meets the invariant that every step keeps: tarn memory in its canonical form, the test port in reset while TRST_N
is asserted, at most 4 addresses allowed and 16 frames held on the helm bus, and the budgets in their ranges. (R369, R407, R424, R494) -/
def Obligations.ResetMeetsInvariant : Prop :=
    Inv State.reset

/-- While a function is STOPPING, STOPPED, RESETTING or HELD, a doorbell of its submission rings at either level changes nothing of the
function, its rings or its work, a re-read that was armed is not carried out, and an entry that was fetched is not accepted. (R52) -/
def Obligations.StoppedRingsAreIgnored : Prop :=
    ∀ (fn offset ring width : Nat) (value : W64) (entries : List W512) (head : Option W32) (s : State),
      (fnModeOf s fn = .stopping ∨ fnModeOf s fn = .stopped ∨ fnModeOf s fn = .resetting ∨ fnModeOf s fn = .held) →
      doorbellTaken s fn ring width = false ∧
      exec (.sqDoorbell fn offset width value entries head) s = .next (if lit s then (if (doorbellRing fn offset).isSome then touchWatchdog fn (hearHost s) else hearHost s) else s) ∧
      exec (.sqDoorbellLevel1 fn offset width value entries head) s = .next (if lit s then (if (doorbellRing fn offset).isSome then touchWatchdog fn (hearHost s) else hearHost s) else s) ∧
      fnGet (touchWatchdog fn (hearHost s)) fn = fnGet s fn ∧
      exec (.ringReread fn ring (.entries entries)) s = .next s ∧ exec (.entryAccept fn ring) s = .next s

/-- A reset trigger that arrives while the function is RESETTING or HELD has no further effect: fn.reset is answered and nothing else
happens, the watchdog does nothing, and the reset that FLR, a host crash and VF disable run leaves the state as it is, the retention
timer included. (R83) -/
def Obligations.HeldFunctionsTakeNoReset : Prop :=
    ∀ (fn : Nat) (s : State), (fnModeOf s fn = .resetting ∨ fnModeOf s fn = .held) →
      resetFunction fn s = s ∧ (∀ heads, exec (.hostWatchdogExpiry fn heads) s = .next s) ∧
      (∀ (c : Cmd) (heads : List HeadRead) (u : State), accepts specFnReset c u s → namedOf c = fn → exec (.fnReset c heads) u = .next (okReply specFnReset c 0 0 0 s))

/-- The thermal ceiling starts at 800 W at device reset. At the end of each 100 us window it falls by 16 W, not below 300 W, where Tj
reached 100.0 degrees in the window, rises by 4 W, not above 800 W, where Tj stayed at or below 97.0 degrees, and is otherwise
unchanged. Tj stands in units of 1/16 degree, as TJ_MAX gives it. (R424) -/
def Obligations.ThermalCeiling : Prop :=
    State.reset.power.thermal = 800 ∧
      ∀ (s : State) (m : Int), lit s = true → s.thermal.windowMax = some m →
        ∃ t, exec .thermalWindow s = .next t ∧
          (16 * 100 ≤ m → t.power.thermal = max 300 (s.power.thermal - 16)) ∧ (m ≤ 16 * 97 → t.power.thermal = min 800 (s.power.thermal + 4)) ∧
          (16 * 97 < m → m < 16 * 100 → t.power.thermal = s.power.thermal)

/-- Every command that the device reads and that fails one of the checks of R50 before its own comes to its one reply, with the status of
the first check that fails and no result: no other part of the state changes but the index of the command ring. (R45, R46, R47, R50,
R55) -/
def Obligations.RefusedCommandsHaveNoEffect : Prop :=
    ∀ (i : Instr) (sp : CmdSpec) (c : Cmd) (s : State) (e : Status), commandOf i = some (sp, c) → takesCommand sp c s = true →
      cmdCheck sp c (consumeSlot c s) = some e → (∀ d, i = .qpConnect d → connectWaits d s = false) →
      exec i s = .next (replyNow sp.opcode c e true 0 0 0 (consumeSlot c s))

/-- The device reads the next command slot only if the reply ring has at least 2 + D free entries, where D is the number of final replies
still owed, those held for a function that resets included, and the free count is the ring size minus (device write index minus
REPLY_HEAD) modulo 2^16: with fewer, no command of the function changes anything but the mark that its channel waits. (R44) -/
def Obligations.FullReplyRingHoldsCommandsBack : Prop :=
    ∀ (i : Instr) (sp : CmdSpec) (c : Cmd) (s : State) (fn : Nat) (f : Function), commandOf i = some (sp, c) → c.origin = .ring fn → fnGet s fn = some f →
      2 ^ bits f.channel.ringSizes.toNat 8 5 - (f.channel.replyIndex - f.channel.replyHead).toNat <
        2 + ((s.commands.filter fun p => p.origin == Origin.ring fn).length + (s.heldReplies.filter fun r => r.origin == Origin.ring fn).length) →
      exec i s = .next s ∨ exec i s = .next (chanMod fn (fun x => { x with starved := x.mode == .ready && decide (replyFree x < 2 + owedTo s fn) }) s)

/-- Whatever a command does, the commands that wait behind it stay as they are. (The queue is the model's own field.) The premise is the
invariant of StepsKeepTheInvariant. (R42) -/
def Obligations.NoCommandTouchesTheQueue : Prop :=
    ∀ (c : Instr) (s t : State), Inv s → exec c s = .next t → t.pending = s.pending

/-- No command but the release of a power-on, which starts the count of time anew, leaves a lodestar time before the one it began at. (R8,
R10, R453) -/
def Obligations.TimeNeverGoesBack : Prop :=
    ∀ (c : Instr) (s t : State), Inv s → (∀ a b d e, c ≠ .powerOnRelease a b d e) → exec c s = .next t → s.dev.now ≤ t.dev.now

/-- After THERMTRIP_N is asserted, no command but the loss of a rail takes the device out of the stopped state. (R426, R445) -/
def Obligations.ThermtripHolds : Prop :=
    ∀ (c : Instr) (s t : State), Inv s → s.dev.life = .tripped → (∀ rail, c ≠ .railOutOfTolerance rail) → exec c s = .next t → t.dev.life = .tripped

/-- A command that mayChange does not list for the tarn memory leaves every byte of it as it was. (R116, R131, R333) -/
def Obligations.TarnMemoryFrame : Prop :=
    ∀ (c : Instr) (s t : State), Inv s → exec c s = .next t →
      (mayChange .tarnMemory c = false → samePart .tarnMemory s t)

/-- A command that mayChange does not list leaves the regions, the retired keys, the miss slots and the streams that wait for one as they
were. (R93, R94, R98, R107) -/
def Obligations.RegionFrame : Prop :=
    ∀ (c : Instr) (s t : State), Inv s → exec c s = .next t →
      (mayChange .regions c = false → samePart .regions s t) ∧
      (mayChange .retiredKeys c = false → samePart .retiredKeys s t) ∧
      (mayChange .missSlots c = false → samePart .missSlots s t) ∧
      (mayChange .missWait c = false → samePart .missWait s t)

/-- A command that mayChange does not list leaves the submission rings, the shared receive queues, and the classes, shapers, policers,
soundings and queues of the schedulers as they were. (R62, R137, R179, R183) -/
def Obligations.QueueFrame : Prop :=
    ∀ (c : Instr) (s t : State), Inv s → exec c s = .next t →
      (mayChange .submissionRings c = false → samePart .submissionRings s t) ∧
      (mayChange .sharedQueues c = false → samePart .sharedQueues s t) ∧
      (mayChange .scheduling c = false → samePart .scheduling s t)

/-- A command that mayChange does not list leaves the collective groups and fathoms, the cache pools, the operators that run and the active
units of the ramp limiter as they were. (R232, R279, R316, R434) -/
def Obligations.ComputeFrame : Prop :=
    ∀ (c : Instr) (s t : State), Inv s → exec c s = .next t →
      (mayChange .collectives c = false → samePart .collectives s t) ∧
      (mayChange .cachePools c = false → samePart .cachePools s t) ∧
      (mayChange .operators c = false → samePart .operators s t) ∧
      (mayChange .rampLimiter c = false → samePart .rampLimiter s t)

/-- A command that mayChange does not list leaves the officer, the session, the offers, the accords, the images, the lanes and the error
state of the security module as they were. (R375, R400, R403) -/
def Obligations.SecurityFrame : Prop :=
    ∀ (c : Instr) (s t : State), Inv s → exec c s = .next t →
      (mayChange .security c = false → samePart .security s t)

/-- A command that mayChange does not list leaves the grants and budgets, the sensors and the trip, the droop counts and the learned
ceilings as they were. (R405, R423, R424, R434) -/
def Obligations.PowerFrame : Prop :=
    ∀ (c : Instr) (s t : State), Inv s → exec c s = .next t →
      (mayChange .power c = false → samePart .power s t) ∧
      (mayChange .thermal c = false → samePart .thermal s t) ∧
      (mayChange .droop c = false → samePart .droop s t) ∧
      (mayChange .ceilings c = false → samePart .ceilings s t)

/-- A command that mayChange does not list leaves the PCIe link and its configuration, the results of the last start and the test port as
they were. (R59, R455, R494) -/
def Obligations.PinFrame : Prop :=
    ∀ (c : Instr) (s t : State), Inv s → exec c s = .next t →
      (mayChange .hostLink c = false → samePart .hostLink s t) ∧
      (mayChange .startResults c = false → samePart .startResults s t) ∧
      (mayChange .testPort c = false → samePart .testPort s t)

/-- A BAR4 write that passes its checks stores each piece of its bytes (one for each 4 KiB page) where the page table of the function puts
the start of the piece: every byte of tarn memory outside those places reads as before, and where the bytes lie in one page that is in
tarn memory, each is read back. The premise Inv is that of StepsKeepTheInvariant (tarn memory in canonical form). (R116, R118) -/
def Obligations.WindowWritesStoreTheirBytes : Prop :=
    ∀ (fn offset dva : Nat) (bytes : List Byte) (s t : State), Inv s → lit s = true → bar4Target s fn offset bytes.length true = .ok dva →
      exec (.bar4Write fn offset bytes) s = .next t →
      (∀ x, (∀ q ∈ pieces (bytes.length / 4096 + 2) dva bytes, ∀ p a, Machine.translate s fn q.1 = some (.tarn, p, a) → x < a ∨ a + q.2.length ≤ x) →
        memRead t.tarns.mem x = memRead s.tarns.mem x) ∧
      (∀ p a, bytes.length ≤ 4096 - dva % 4096 → Machine.translate s fn dva = some (.tarn, p, a) →
        ∀ i, i < bytes.length → memRead t.tarns.mem (a + i) = bytes.getD i 0)

/-- A patrol scrub leaves every byte of tarn memory as it was outside the 64-byte words that it corrects and writes back; a word that a
later write has overtaken is not written back. The premise Inv is that of StepsKeepTheInvariant (tarn memory in canonical form). (R339) -/
def Obligations.ScrubStoresOnlyItsWords : Prop :=
    ∀ (tarn : Nat) (corrected : List ScrubHit) (s t : State) (x : Nat), Inv s → exec (.patrolScrub tarn corrected) s = .next t →
      (∀ h ∈ corrected, h.overwritten = false → x < h.tpa ∨ h.tpa + 64 ≤ x) → memRead t.tarns.mem x = memRead s.tarns.mem x

/-- From every state that meets it, and whatever command stands in front of the queue, a step that goes on keeps the invariant: tarn memory
in its canonical form, the test port in reset with IDCODE selected while TRST_N is asserted (R494), at most 4 addresses allowed on the
helm bus (R369) and 16 frames held there (a bound of the model, log entry 57), a valid grant in 300 to 800 W, the fallback budget in 300
to 760 W and the thermal ceiling in 300 to 800 W (R405, R407, R424). (R369, R405, R406, R407, R424, R494) -/
def Obligations.StepsKeepTheInvariant : Prop :=
    ∀ (s t : State), Inv s → step s = .next t → Inv t

/-- No two tarn addresses decode to one place (channel, offset in the channel). Each 64 KiB page of the interleaved area holds exactly one
256-byte burst in each of the 256 channels, at offset 256 times the page (R334), and a byte at offset r of the reserved areas of tarn t
lies in channel r / 256 modulo 64 of that tarn, at 912 MiB + r / 16,384 * 256 + r modulo 256 (R335). A channel stands as 64 * tarn +
channel. A place while every channel is usable; the model spreads the bursts of a lost channel with granuleChannel (R342). (R334, R335) -/
def Obligations.TarnBytesHaveOnePlace : Prop :=
    (∀ a b : Nat, a < 2 ^ 38 → b < 2 ^ 38 → tarnPlace a = tarnPlace b → a = b) ∧
      (∀ page c : Nat, page < 0x390000 → c < 256 → ∃ g < 256, (∀ o < 256, tarnPlace (65536 * page + 256 * g + o) = (c, 256 * page + o)) ∧
        ∀ h < 256, (tarnPlace (65536 * page + 256 * h)).1 = c → h = g) ∧
      (∀ t r : Nat, t < 4 → r < 0x1C0000000 →
        tarnPlace (0x3900000000 + 0x1C0000000 * t + r) = (64 * t + r / 256 % 64, 0x39000000 + r / 16384 * 256 + r % 256))

/-- A journal record is 64 bytes: what it holds stays below bit 496, bits [3:0] are its KIND (0x1 WORK, 0x2 ATOMIC_RESULT, 0x3 QP_CONNECT,
0x4 QP_PROGRESS, 0x8 COLL_OP, 0x9 and 0xD the second record of a collective and of a cache request, 0xA COLL_GROUP, 0xC CACHE_REQ, 0xE
HELD_REPLY), and bits [511:496] are the CRC-16 of its first 62 bytes, which the check itself does not touch. Both copies of an index
hold it. (R161, R274, R304) -/
def Obligations.JournalRecordsCarryTheirCheck : Prop :=
    (∀ (s : State) (rec : Nat) (x : JournalRec), tabGet s.journal rec = some x →
        ∃ v : Nat, journalImage s rec = some v ∧ v % 2 ^ 496 = recordWord s rec x ∧ v / 2 ^ 496 = (crc16 (leBytes 62 v)).toNat) ∧
      (∀ (s : State) (rec : Nat) (w : Work), recordWord s rec (.work w) % 16 =
        if entryOp w.entry = 0x20 then 0x8 else if entryOp w.entry = 0x30 then 0xC else 0x1) ∧
      (∀ (s : State) (rec kind : Nat) (body : BitVec 376), recordWord s rec (.desc kind body) % 16 = kind % 16) ∧
      (∀ (s : State) (rec n : Nat) (seq msg : W32) (prior : W64), recordWord s rec (.atomicResult n seq msg prior) % 16 = 0x2) ∧
      (∀ (s : State) (rec n : Nat) (c : QpConf), recordWord s rec (.qpConnect n c) % 16 = 0x3) ∧
      (∀ (s : State) (rec n : Nat) (p : Progress), recordWord s rec (.qpProgress n p) % 16 = 0x4) ∧
      (∀ (s : State) (rec slot : Nat), recordWord s rec (.collGroup slot) % 16 = 0xA) ∧
      (∀ (s : State) (rec fn : Nat), recordWord s rec (.heldReply fn) % 16 = 0xE)

end
end

