-- ==== Sys2Proof/Laws/Commands.lean ====
section
/-! SUPPORT. Wisia commands: what reading one comes to, said once for every opcode. -/

namespace Sys2Proof.Machine

/-- A command that the device reads, and that passes the checks of R50, comes to what its own part says. -/
theorem runCmd_of_accepts {sp : CmdSpec} {c : Cmd} {s t : State} (h : accepts sp c s t) (own : Cmd → State → CmdOut) :
    runCmd sp own c s = settleCmd sp.opcode c (own c t) := by
  obtain ⟨h1, rfl, h2⟩ := h
  simp only [runCmd, h1, if_true, judgeCmd, h2]

/-- A command that the device does not read changes at most the mark of a channel that waits for room in its reply ring (R44). -/
theorem runCmd_of_not_taken {sp : CmdSpec} {c : Cmd} {s : State} (h : takesCommand sp c s = false) (own : Cmd → State → CmdOut) :
    runCmd sp own c s =
      match c.origin with
      | .ring fn => chanMod fn (fun x => { x with starved := x.mode == .ready && decide (replyFree x < 2 + owedTo s fn) }) s
      | .helm _ _ => s := by
  simp only [runCmd, h]
  rfl

/-- A command that fails one of the checks of R50 changes nothing but its channel, and answers with the status of the first that fails. -/
theorem runCmd_of_refused {sp : CmdSpec} {c : Cmd} {s : State} {e : Status} (h : takesCommand sp c s = true)
    (hc : cmdCheck sp c (consumeSlot c s) = some e) (own : Cmd → State → CmdOut) :
    runCmd sp own c s = replyNow sp.opcode c e true 0 0 0 (consumeSlot c s) := by
  simp only [runCmd, h, if_true, judgeCmd, hc, cmdFail, settleCmd]

theorem settleCmd_done (op : Nat) (c : Cmd) (s : State) (st : Status) (r0 r1 r2 : Nat) :
    settleCmd op c (.done s st r0 r1 r2) = replyNow op c st true r0 r1 r2 s := rfl

theorem settleCmd_deferred (op : Nat) (c : Cmd) (s : State) (w : Deferral) :
    settleCmd op c (.deferred s w) = keepPending op c true w (replyNow op c .accepted false 0 0 0 s) := rfl

theorem settleCmd_later (op : Nat) (c : Cmd) (s : State) (w : Deferral) : settleCmd op c (.later s w) = keepPending op c false w s := rfl

/-- Reading a packet's number near `e` changes nothing else of its header. -/
theorem widenFor_same (q : Qp) (e : W32) (p : RxPacket) :
    (widenFor q e p).hdr.isSealed = p.hdr.isSealed ∧ (widenFor q e p).hdr.srcQp = p.hdr.srcQp := by
  unfold widenFor
  split <;> exact ⟨rfl, rfl⟩

/-- A packet of a new number goes to its kind's own part, its arrival noted (R150). -/
theorem classify_newPacket {k : TxKind} {p : RxPacket} {n : Nat} {q : Qp} {s : State} (h : isNewPacket k p n q s)
    (dup fresh : RxPacket → Nat → Qp → State → State) :
    classify k p dup fresh s =
      fresh (widenFor q q.recv.e p) n q (noteArrival n (widenFor q q.recv.e p) (hear n (widenFor q q.recv.e p) s)) := by
  obtain ⟨⟨h1, rfl, h3, h4, h5, h6, h7, h8⟩, h9, h10, h11, h12, h13, h14⟩ := h
  obtain ⟨w1, w2⟩ := widenFor_same q q.recv.e p
  unfold classify
  simp only [h1, h3, w1, w2]
  rw [if_neg (by decide), if_neg (by simp [h4, h5]), if_neg (by simp [h6, h7]), if_neg (by rw [h8]; decide), if_neg (by rw [h9]; decide),
    if_neg (by simp [h10]), if_neg (by omega), if_neg (by rw [h12]; decide), if_neg (by rw [h13]; decide), if_neg (by rw [h14]; decide)]

/-- A packet whose number settled before is a duplicate (R150). -/
theorem classify_oldPacket {k : TxKind} {p : RxPacket} {n : Nat} {q : Qp} {s : State} (h : isOldPacket k p n q s)
    (dup fresh : RxPacket → Nat → Qp → State → State) :
    classify k p dup fresh s =
      dup (widenFor q q.recv.e p) n q (dupAck n (widenFor q q.recv.e p) (hear n (widenFor q q.recv.e p) s)) := by
  obtain ⟨⟨h1, rfl, h3, h4, h5, h6, h7, h8⟩, h9⟩ := h
  obtain ⟨w1, w2⟩ := widenFor_same q q.recv.e p
  unfold classify
  simp only [h1, h3, w1, w2]
  rw [if_neg (by decide), if_neg (by simp [h4, h5]), if_neg (by simp [h6, h7]), if_neg (by rw [h8]; decide), if_pos h9]

/-- An answer that the queue pair hears goes to its kind's own part (R151). -/
theorem ownSpace_heard {k : TxKind} {p : RxPacket} {n : Nat} {q : Qp} {s : State} (h : heardPacket k p n q q.send.cumAcked s) (hr : q.phase = .ready)
    (f : RxPacket → Nat → Qp → State → State) :
    ownSpace k p f s = f (widenFor q q.send.cumAcked p) n q (hearAck n (widenFor q q.send.cumAcked p) s) := by
  obtain ⟨h1, rfl, h3, h4, h5, h6, h7, h8⟩ := h
  obtain ⟨w1, w2⟩ := widenFor_same q q.send.cumAcked p
  unfold ownSpace
  simp only [h1, h3, w1, w2]
  rw [if_neg (by decide), if_neg (by simp [h4, h5]), if_neg (by simp [h6, h7]), if_neg (by rw [h8]; decide), if_neg (by simp [hr])]

end Sys2Proof.Machine
end

