-- ==== Sys2Proof/Laws/Memory.lean ====
section
/-! SUPPORT. Tarn memory: what a write leaves, and that every operation keeps the canonical form. -/

namespace Sys2Proof.Machine

/-- Every listed address is above `a`. -/
def above (a : Nat) (m : List Host.Cell) : Prop := ∀ c ∈ m, a < c.1

theorem wf_cons (a : Nat) (v : Byte) (m : List Host.Cell) :
    Memory.wf ((a, v) :: m) = true ↔ v ≠ memDefault ∧ above a m ∧ Memory.wf m = true := by
  induction m generalizing a v with
  | nil => simp [Memory.wf, above]
  | cons c rest ih =>
    obtain ⟨x, w⟩ := c
    have hx := ih x w
    constructor
    · intro h
      simp only [Memory.wf, Bool.and_eq_true, decide_eq_true_eq] at h
      have hr : Memory.wf ((x, w) :: rest) = true := by
        simp only [Memory.wf, Bool.and_eq_true, decide_eq_true_eq]
        exact h.2
      refine ⟨h.1.1, ?_, hr⟩
      intro c hc
      rcases List.mem_cons.1 hc with rfl | hc
      · exact h.1.2
      · exact lt_trans h.1.2 ((hx.1 hr).2.1 c hc)
    · rintro ⟨hv, ha, hr⟩
      have h1 : a < x := ha (x, w) List.mem_cons_self
      simp only [Memory.wf, Bool.and_eq_true, decide_eq_true_eq] at hr ⊢
      exact ⟨⟨hv, h1⟩, hr⟩

theorem memWrite_above {a b : Nat} {v : Byte} {m : List Host.Cell} (h : above a m) (hb : a < b) : above a (memWrite m b v) := by
  induction m with
  | nil =>
    unfold memWrite
    split
    · exact h
    · intro c hc
      rcases List.mem_singleton.1 hc with rfl
      exact hb
  | cons c rest ih =>
    obtain ⟨x, w⟩ := c
    have hx : a < x := h (x, w) List.mem_cons_self
    have hr : above a rest := fun c hc => h c (List.mem_cons_of_mem _ hc)
    unfold memWrite
    split
    · split
      · exact h
      · intro c hc
        rcases List.mem_cons.1 hc with rfl | hc
        · exact hb
        · exact h c hc
    · split
      · split
        · exact hr
        · intro c hc
          rcases List.mem_cons.1 hc with rfl | hc
          · exact hb
          · exact hr c hc
      · intro c hc
        rcases List.mem_cons.1 hc with rfl | hc
        · exact hx
        · exact ih hr c hc

/-- A write keeps the canonical form. -/
theorem memWrite_wf {m : List Host.Cell} (a : Nat) (v : Byte) (h : Memory.wf m = true) : Memory.wf (memWrite m a v) = true := by
  induction m with
  | nil =>
    unfold memWrite
    split
    · rfl
    · rw [wf_cons]
      exact ⟨‹_›, fun c hc => absurd hc List.not_mem_nil, rfl⟩
  | cons c rest ih =>
    obtain ⟨x, w⟩ := c
    obtain ⟨hw, hx, hr⟩ := (wf_cons x w rest).1 h
    unfold memWrite
    split
    · rename_i hlt
      split
      · exact h
      · rw [wf_cons]
        refine ⟨‹_›, ?_, h⟩
        intro c hc
        rcases List.mem_cons.1 hc with rfl | hc
        · exact hlt
        · exact lt_trans hlt (hx c hc)
    · split
      · rename_i heq
        subst heq
        split
        · exact hr
        · rw [wf_cons]
          exact ⟨‹_›, hx, hr⟩
      · rename_i h1 h2
        rw [wf_cons]
        exact ⟨hw, memWrite_above hx (by omega), ih hr⟩

theorem memWriteList_wf {m : List Host.Cell} (a : Nat) (l : List Byte) (h : Memory.wf m = true) : Memory.wf (memWriteList m a l) = true := by
  induction l generalizing m a with
  | nil => exact h
  | cons v rest ih => exact ih (a + 1) (memWrite_wf a v h)

theorem memForget_wf {m : List Host.Cell} (p : Nat → Bool) (h : Memory.wf m = true) : Memory.wf (memForget p m) = true := by
  induction m with
  | nil => rfl
  | cons c rest ih =>
    obtain ⟨x, w⟩ := c
    obtain ⟨hw, hx, hr⟩ := (wf_cons x w rest).1 h
    have hi := ih hr
    unfold memForget at hi ⊢
    rw [List.filter_cons]
    split
    · rw [wf_cons]
      exact ⟨hw, fun c hc => hx c (List.mem_filter.1 hc).1, hi⟩
    · exact hi

theorem memRead_above {a : Nat} {m : List Host.Cell} (h : above a m) : memRead m a = memDefault := by
  induction m with
  | nil => rfl
  | cons c rest ih =>
    obtain ⟨x, w⟩ := c
    have hx : a < x := h (x, w) List.mem_cons_self
    unfold memRead
    rw [if_neg (by omega)]
    exact ih fun c hc => h c (List.mem_cons_of_mem _ hc)

/-- A read after a write: the byte written at its address, and what was there before at every other. -/
theorem memRead_memWrite {m : List Host.Cell} (a b : Nat) (v : Byte) (h : Memory.wf m = true) :
    memRead (memWrite m a v) b = if b = a then v else memRead m b := by
  induction m with
  | nil =>
    unfold memWrite
    by_cases hv : v = memDefault
    · rw [if_pos hv, hv]
      split <;> rfl
    · rw [if_neg hv]
      by_cases hb : b = a
      · simp [memRead, hb]
      · simp [memRead, hb, Ne.symm hb]
  | cons c rest ih =>
    obtain ⟨x, w⟩ := c
    obtain ⟨hw, hx, hr⟩ := (wf_cons x w rest).1 h
    have habove : above a rest ∨ ¬ a ≤ x := by
      by_cases hax : a ≤ x
      · left
        intro c hc
        exact lt_of_le_of_lt hax (hx c hc)
      · exact Or.inr hax
    unfold memWrite
    by_cases h1 : a < x
    · rw [if_pos h1]
      by_cases hv : v = memDefault
      · rw [if_pos hv]
        by_cases hb : b = a
        · subst hb
          rw [if_pos rfl, hv]
          refine memRead_above ?_
          intro c hc
          rcases List.mem_cons.1 hc with rfl | hc
          · exact h1
          · exact lt_trans h1 (hx c hc)
        · rw [if_neg hb]
      · rw [if_neg hv]
        simp only [memRead]
        by_cases hb : b = a
        · simp [hb]
        · simp [hb, Ne.symm hb]
    · rw [if_neg h1]
      by_cases h2 : a = x
      · subst h2
        rw [if_pos rfl]
        by_cases hv : v = memDefault
        · rw [if_pos hv]
          by_cases hb : b = a
          · subst hb
            rw [if_pos rfl, hv]
            exact memRead_above hx
          · simp [memRead, hb, Ne.symm hb]
        · rw [if_neg hv]
          by_cases hb : b = a
          · simp [memRead, hb]
          · simp [memRead, hb, Ne.symm hb]
      · rw [if_neg h2]
        simp only [memRead, ih hr]
        by_cases hxb : x = b
        · subst hxb
          simp [Ne.symm h2]
        · simp [hxb]

/-- Outside the bytes written, memory reads as before. -/
theorem memRead_memWriteList {m : List Host.Cell} (a b : Nat) (l : List Byte) (h : Memory.wf m = true) (hb : b < a ∨ a + l.length ≤ b) :
    memRead (memWriteList m a l) b = memRead m b := by
  induction l generalizing m a with
  | nil => rfl
  | cons v rest ih =>
    simp only [List.length_cons] at hb
    unfold memWriteList
    rw [ih (a + 1) (memWrite_wf a v h) (by omega), memRead_memWrite a b v h, if_neg (by omega)]

/-- Inside them, memory reads as the bytes written. -/
theorem memRead_memWriteList_mem {m : List Host.Cell} (a i : Nat) (l : List Byte) (h : Memory.wf m = true) (hi : i < l.length) :
    memRead (memWriteList m a l) (a + i) = l.getD i 0 := by
  induction l generalizing m a i with
  | nil => exact absurd hi (Nat.not_lt_zero i)
  | cons v rest ih =>
    unfold memWriteList
    cases i with
    | zero =>
      rw [memRead_memWriteList (a + 1) (a + 0) rest (memWrite_wf a v h) (by omega), memRead_memWrite a (a + 0) v h, if_pos (by omega)]
      rfl
    | succ k =>
      have := ih (m := memWrite m a v) (a + 1) k (memWrite_wf a v h) (by simpa using hi)
      rw [show a + (k + 1) = a + 1 + k by omega, this]
      simp

end Sys2Proof.Machine
end

