-- ==== Sys2Proof/Laws/Keeps.lean ====
section
/-! SUPPORT. What no operation of the machine does, said once for each: `Keeps q n b k s` says that the queue is `q`, that the time is no
earlier than `n`, that with `b` the device is tripped (R426), that every part of the state that `k` names is as `k` says, and that the
invariant of every state holds. -/

namespace Sys2Proof.Machine

/-- Parts of the state that are held against a value. -/
structure Kept where
  mem : Option (List Host.Cell)
  regions : Option (Tab Region)
  retired : Option (List Retired)
  sqs : Option (Tab SubRing)
  srqs : Option (Tab Srq)
  sched : Option (Sched)
  coll : Option (Collectives)
  cache : Option (Cache)
  ramp : Option (Ramp)
  opers : Option (List OpRun)
  sec : Option (Security)
  power : Option (Power)
  thermal : Option (Thermal)
  droop : Option (Droop)
  ceilings : Option (Ceilings)
  start : Option (StartInfo)
  pcie : Option (Pcie)
  jtag : Option (Jtag)
  missSlots : Option (List MissSlot)
  missWait : Option (List StreamId)

/-- Nothing is held. -/
def Kept.nothing : Kept :=
  { mem := none, regions := none, retired := none, sqs := none, srqs := none, sched := none, coll := none, cache := none, ramp := none, opers := none, sec := none, power := none, thermal := none, droop := none, ceilings := none, start := none, pcie := none, jtag := none, missSlots := none, missWait := none }

/-- A part is as it is held. -/
def isHeld {α : Type} (o : Option α) (x : α) : Prop := ∀ v, o = some v → x = v

theorem isHeld_none {α : Type} {o : Option α} {x : α} (h : o = none) : isHeld o x := fun v e => by simp [h] at e

def KeptIn (k : Kept) (s : State) : Prop :=
  isHeld k.mem s.tarns.mem ∧ isHeld k.regions s.regions ∧ isHeld k.retired s.retired ∧ isHeld k.sqs s.sqs ∧ isHeld k.srqs s.srqs ∧ isHeld k.sched s.sched ∧ isHeld k.coll s.coll ∧ isHeld k.cache s.cache ∧ isHeld k.ramp s.ramp ∧ isHeld k.opers s.opers ∧ isHeld k.sec s.sec ∧ isHeld k.power s.power ∧ isHeld k.thermal s.thermal ∧ isHeld k.droop s.droop ∧ isHeld k.ceilings s.ceilings ∧ isHeld k.start s.start ∧ isHeld k.pcie s.pcie ∧ isHeld k.jtag s.jtag ∧ isHeld k.missSlots s.missSlots ∧ isHeld k.missWait s.missWait

def Holds (q : List Instr) (n : Nat) (b : Bool) (s : State) : Prop :=
  s.pending = q ∧ n ≤ s.dev.now ∧ (b = true → s.dev.life = .tripped) ∧ Inv s

def Keeps (q : List Instr) (n : Nat) (b : Bool) (k : Kept) (s : State) : Prop := Holds q n b s ∧ KeptIn k s

def KeepsO (q : List Instr) (n : Nat) (b : Bool) (k : Kept) (o : Host.Outcome State Fault Refusal) : Prop := ∀ t, o = .next t → Keeps q n b k t

def KeepsC (q : List Instr) (n : Nat) (b : Bool) (k : Kept) (o : CmdOut) : Prop :=
  match o with
  | .done t _ _ _ _ => Keeps q n b k t
  | .deferred t _ => Keeps q n b k t
  | .later t _ => Keeps q n b k t

def KeepsM (q : List Instr) (n : Nat) (b : Bool) (k : Kept) (o : Option State) : Prop := ∀ t, o = some t → Keeps q n b k t

def KeepsN {α : Type} (q : List Instr) (n : Nat) (b : Bool) (k : Kept) (o : Option (α × State)) : Prop := ∀ a t, o = some (a, t) → Keeps q n b k t

variable {q : List Instr} {n : Nat} {b : Bool} {k : Kept} {s t : State}

/-- Parts that count are the same in `t` as in `s`, or not held. -/
theorem Keeps.of_parts (h : Keeps q n b k s) (t : State)
    (hq : t.pending = s.pending) (hn : t.dev.now = s.dev.now) (hl : t.dev.life = s.dev.life) (hi : Inv s → Inv t)
    (hk : KeptIn k s → KeptIn k t) : Keeps q n b k t :=
  ⟨⟨hq.trans h.1.1, hn ▸ h.1.2.1, fun e => hl.trans (h.1.2.2.1 e), hi h.1.2.2.2⟩, hk h.2⟩

/-- A part of a held state: the same, or not held. -/
theorem isHeld_same {α : Type} {o : Option α} {x y : α} (h : o = none ∨ y = x) (hx : isHeld o x) : isHeld o y :=
  h.elim isHeld_none fun e => e ▸ hx

/-- A state made of parts of a kept state is kept, where the parts that count are the same. -/
theorem Keeps.mk {dev pcie clocks fns spaces sqs cqs commands heldReplies regions retired suspended missSlots missWait journal qps srqs sched fabric coll cache ramp opers tarns eth helm sec power thermal droop ceilings start faults jtag out hostAt pending}
    (hq : pending = s.pending) (h : Keeps q n b k s) (hm : tarns.mem = s.tarns.mem := by rfl) (hn : dev.now = s.dev.now := by rfl)
    (hl : dev.life = s.dev.life := by rfl)
    (h1 : jtag.trst = s.jtag.trst := by rfl) (h2 : jtag.tap = s.jtag.tap := by rfl) (h3 : jtag.op = s.jtag.op := by rfl)
    (h4 : helm.allow = s.helm.allow := by rfl) (h5 : helm.waiting = s.helm.waiting := by rfl)
    (h6 : power.validUntil = s.power.validUntil := by rfl) (h7 : power.grantW = s.power.grantW := by rfl)
    (h8 : power.fallback = s.power.fallback := by rfl) (h9 : power.thermal = s.power.thermal := by rfl)
    (k0 : k.regions = none ∨ regions = s.regions := by first | exact Or.inl (by assumption) | exact Or.inr rfl)
    (k1 : k.retired = none ∨ retired = s.retired := by first | exact Or.inl (by assumption) | exact Or.inr rfl)
    (k2 : k.sqs = none ∨ sqs = s.sqs := by first | exact Or.inl (by assumption) | exact Or.inr rfl)
    (k3 : k.srqs = none ∨ srqs = s.srqs := by first | exact Or.inl (by assumption) | exact Or.inr rfl)
    (k4 : k.sched = none ∨ sched = s.sched := by first | exact Or.inl (by assumption) | exact Or.inr rfl)
    (k5 : k.coll = none ∨ coll = s.coll := by first | exact Or.inl (by assumption) | exact Or.inr rfl)
    (k6 : k.cache = none ∨ cache = s.cache := by first | exact Or.inl (by assumption) | exact Or.inr rfl)
    (k7 : k.ramp = none ∨ ramp = s.ramp := by first | exact Or.inl (by assumption) | exact Or.inr rfl)
    (k8 : k.opers = none ∨ opers = s.opers := by first | exact Or.inl (by assumption) | exact Or.inr rfl)
    (k9 : k.sec = none ∨ sec = s.sec := by first | exact Or.inl (by assumption) | exact Or.inr rfl)
    (k10 : k.power = none ∨ power = s.power := by first | exact Or.inl (by assumption) | exact Or.inr rfl)
    (k11 : k.thermal = none ∨ thermal = s.thermal := by first | exact Or.inl (by assumption) | exact Or.inr rfl)
    (k12 : k.droop = none ∨ droop = s.droop := by first | exact Or.inl (by assumption) | exact Or.inr rfl)
    (k13 : k.ceilings = none ∨ ceilings = s.ceilings := by first | exact Or.inl (by assumption) | exact Or.inr rfl)
    (k14 : k.start = none ∨ start = s.start := by first | exact Or.inl (by assumption) | exact Or.inr rfl)
    (k15 : k.pcie = none ∨ pcie = s.pcie := by first | exact Or.inl (by assumption) | exact Or.inr rfl)
    (k16 : k.jtag = none ∨ jtag = s.jtag := by first | exact Or.inl (by assumption) | exact Or.inr rfl)
    (k17 : k.missSlots = none ∨ missSlots = s.missSlots := by first | exact Or.inl (by assumption) | exact Or.inr rfl)
    (k18 : k.missWait = none ∨ missWait = s.missWait := by first | exact Or.inl (by assumption) | exact Or.inr rfl) :
    Keeps q n b k (State.mk dev pcie clocks fns spaces sqs cqs commands heldReplies regions retired suspended missSlots missWait journal qps srqs sched fabric coll cache ramp opers tarns eth helm sec power thermal droop ceilings start faults jtag out hostAt pending) := by
  refine h.of_parts _ hq hn hl ?_ ?_
  · intro hi
    simp only [Inv, tapHeld, helmBounded, powerBounded, hm, h1, h2, h3, h4, h5, h6, h7, h8, h9] at hi ⊢
    exact hi
  · rintro ⟨hk, g0, g1, g2, g3, g4, g5, g6, g7, g8, g9, g10, g11, g12, g13, g14, g15, g16, g17, g18⟩
    exact ⟨hm ▸ hk, isHeld_same k0 g0, isHeld_same k1 g1, isHeld_same k2 g2, isHeld_same k3 g3, isHeld_same k4 g4, isHeld_same k5 g5, isHeld_same k6 g6, isHeld_same k7 g7, isHeld_same k8 g8, isHeld_same k9 g9, isHeld_same k10 g10, isHeld_same k11 g11, isHeld_same k12 g12, isHeld_same k13 g13, isHeld_same k14 g14, isHeld_same k15 g15, isHeld_same k16 g16, isHeld_same k17 g17, isHeld_same k18 g18⟩

theorem Keeps.setAttempts (x : Nat) (h : Keeps q n b k s) : Keeps q n b k { s with helm := { s.helm with attempts := x } } :=
  Keeps.mk rfl h

theorem Keeps.ite {c : Prop} [Decidable c] (h1 : c → Keeps q n b k s) (h2 : ¬ c → Keeps q n b k t) : Keeps q n b k (if c then s else t) := by
  split
  · exact h1 ‹_›
  · exact h2 ‹_›

theorem Keeps.foldl {α : Type} {f : State → α → State} (l : List α) (hf : ∀ t a, Keeps q n b k t → Keeps q n b k (f t a)) (h : Keeps q n b k s) :
    Keeps q n b k (l.foldl f s) := by
  induction l generalizing s with
  | nil => exact h
  | cons a l ih => exact ih (hf s a h)

theorem KeepsO.next (h : Keeps q n b k s) : KeepsO q n b k (.next s) := by
  intro t e
  cases e
  exact h

theorem KeepsO.fault (r : Fault) : KeepsO q n b k (.fault r) := by
  intro t e
  cases e

theorem KeepsO.refused (r : Refusal) : KeepsO q n b k (.refused r) := by
  intro t e
  cases e

theorem KeepsO.ite {c : Prop} [Decidable c] {x y : Host.Outcome State Fault Refusal} (h1 : c → KeepsO q n b k x) (h2 : ¬ c → KeepsO q n b k y) :
    KeepsO q n b k (if c then x else y) := by
  split
  · exact h1 ‹_›
  · exact h2 ‹_›

theorem KeepsC.ite {c : Prop} [Decidable c] {x y : CmdOut} (h1 : c → KeepsC q n b k x) (h2 : ¬ c → KeepsC q n b k y) :
    KeepsC q n b k (if c then x else y) := by
  split
  · exact h1 ‹_›
  · exact h2 ‹_›

theorem KeepsC.done {st : Status} {x y z : Nat} (h : Keeps q n b k s) : KeepsC q n b k (.done s st x y z) := h

theorem KeepsC.deferred {w : Deferral} (h : Keeps q n b k s) : KeepsC q n b k (.deferred s w) := h

theorem KeepsC.later {w : Deferral} (h : Keeps q n b k s) : KeepsC q n b k (.later s w) := h

theorem KeepsM.some (h : Keeps q n b k s) : KeepsM q n b k (some s) := by
  intro t e
  cases e
  exact h

theorem KeepsM.none : KeepsM q n b k none := by
  intro t e
  cases e

theorem KeepsN.some {α : Type} {a : α} (h : Keeps q n b k s) : KeepsN q n b k (some (a, s)) := by
  intro a t e
  cases e
  exact h

theorem KeepsN.none {α : Type} : KeepsN q n b k (none : Option (α × State)) := by
  intro a t e
  cases e

/-! How a part of an answer that has been taken apart is kept. -/

theorem KeepsM.elim {o : Option State} (h : KeepsM q n b k o) (e : o = Option.some t) : Keeps q n b k t := h t e

theorem KeepsN.elim {α : Type} {o : Option (α × State)} {a : α} (h : KeepsN q n b k o) (e : o = Option.some (a, t)) : Keeps q n b k t := h a t e

theorem KeepsO.elim {o : Host.Outcome State Fault Refusal} (h : KeepsO q n b k o) (e : o = .next t) : Keeps q n b k t := h t e

theorem Keeps.fst_elim {α : Type} {p : State × α} {a : α} (h : Keeps q n b k p.1) (e : p = (t, a)) : Keeps q n b k t := by
  rw [e] at h
  exact h

theorem Keeps.snd_elim {α : Type} {p : α × State} {a : α} (h : Keeps q n b k p.2) (e : p = (a, t)) : Keeps q n b k t := by
  rw [e] at h
  exact h

theorem Keeps.foldl_fst {α β : Type} {f : State × β → α → State × β} (l : List α) {p : State × β}
    (hf : ∀ p a, Keeps q n b k p.1 → Keeps q n b k (f p a).1) (h : Keeps q n b k p.1) : Keeps q n b k (l.foldl f p).1 := by
  induction l generalizing p with
  | nil => exact h
  | cons a l ih => exact ih (hf p a h)

theorem Keeps.foldl_snd {α β : Type} {f : β × State → α → β × State} (l : List α) {p : β × State}
    (hf : ∀ p a, Keeps q n b k p.2 → Keeps q n b k (f p a).2) (h : Keeps q n b k p.2) : Keeps q n b k (l.foldl f p).2 := by
  induction l generalizing p with
  | nil => exact h
  | cons a l ih => exact ih (hf p a h)

theorem KeepsM.foldl {α : Type} {f : Option State → α → Option State} (l : List α) {o : Option State}
    (hf : ∀ o a, KeepsM q n b k o → KeepsM q n b k (f o a)) (h : KeepsM q n b k o) : KeepsM q n b k (l.foldl f o) := by
  induction l generalizing o with
  | nil => exact h
  | cons a l ih => exact ih (hf o a h)

theorem KeepsM.ite {c : Prop} [Decidable c] {x y : Option State} (h1 : c → KeepsM q n b k x) (h2 : ¬ c → KeepsM q n b k y) :
    KeepsM q n b k (if c then x else y) := by
  split
  · exact h1 ‹_›
  · exact h2 ‹_›

end Sys2Proof.Machine
end

