-- ==== Sys2Proof/Laws/KeepsBase.lean ====
section
/-! SUPPORT. What each function of Machine/Ops.lean, Machine/Memory.lean, Machine/FabricOps.lean, Machine/Command.lean, Machine/QpOps.lean keeps: the parts of State that stand in `Kept`, the queue, and the invariant. -/

set_option linter.unusedTactic false
set_option linter.unreachableTactic false
set_option linter.unusedVariables false
namespace Sys2Proof.Machine
set_option Elab.async false
variable {q : List Instr} {n : Nat} {b : Bool} {k : Kept}

theorem advanceTo_keeps (t : Nat) (s : State) (h : Keeps q n b k s) : Keeps q n b k (advanceTo t s) :=
  ⟨⟨h.1.1, le_trans h.1.2.1 (le_max_left _ _), h.1.2.2⟩, h.2⟩

theorem spaceMod_keeps (fn : Nat) (f : AddrSpace → AddrSpace) (s : State) (hK0 : Keeps q n b k s) :
    Keeps q n b k (spaceMod fn f s) := by
  unfold spaceMod
  repeat' (first
    | (with_reducible first | assumption)
    | (fail_if_no_progress refine Keeps.mk rfl ?_))

theorem emit_keeps (o : Output) (s : State) (hK0 : Keeps q n b k s) :
    Keeps q n b k (emit o s) := by
  unfold emit
  repeat' (first
    | (with_reducible first | assumption)
    | (fail_if_no_progress refine Keeps.mk rfl ?_))

theorem emitHost_keeps (fn : Nat) (o : Output) (s : State) (hK0 : Keeps q n b k s) :
    Keeps q n b k (emitHost fn o s) := by
  unfold emitHost
  repeat' (with_reducible first | assumption | apply emit_keeps | apply Keeps.ite | intro _)

theorem writeFqHeader_keeps (p : Nat) (s : State) (hK0 : Keeps q n b k s) :
    Keeps q n b k (writeFqHeader p s) := by
  unfold writeFqHeader
  repeat' (first
    | (with_reducible first | assumption | apply emitHost_keeps)
    | split)

theorem fnMod_keeps (fn : Nat) (f : Function → Function) (s : State) (hK0 : Keeps q n b k s) :
    Keeps q n b k (fnMod fn f s) := by
  unfold fnMod
  repeat' (first
    | (with_reducible first | assumption)
    | (fail_if_no_progress refine Keeps.mk rfl ?_))

theorem signalVec_keeps (fn : Nat) (v : Nat) (s : State) (hK0 : Keeps q n b k s) :
    Keeps q n b k (signalVec fn v s) := by
  unfold signalVec
  repeat' (first
    | (with_reducible first | assumption | apply fnMod_keeps | apply emit_keeps | intro _)
    | split)

theorem noteFull_keeps (p : Nat) (s : State) (hK0 : Keeps q n b k s) :
    Keeps q n b k (noteFull p s) := by
  unfold noteFull
  repeat' (first
    | (with_reducible first
        | assumption | apply signalVec_keeps | apply writeFqHeader_keeps | apply spaceMod_keeps | apply Keeps.ite | intro _)
    | split)

theorem writeRecord_keeps (p : Nat) (function : Nat) (body : FaultBody) (deferred : Bool) (s : State) (hK0 : Keeps q n b k s) :
    Keeps q n b k (writeRecord p function body deferred s) := by
  unfold writeRecord
  repeat' (first
    | (with_reducible first | assumption | apply Keeps.ite | intro _)
    | (fail_if_no_progress refine Keeps.mk rfl ?_) | split)

theorem writeWaiter_keeps (p : Nat) (w : Waiter) (s : State) (hK0 : Keeps q n b k s) :
    Keeps q n b k (writeWaiter p w s) := by
  unfold writeWaiter
  repeat' (first
    | (with_reducible first | assumption | apply writeRecord_keeps | apply writeFqHeader_keeps | apply Keeps.ite | intro _)
    | dsimp only | (fail_if_no_progress refine Keeps.mk rfl ?_) | split)

theorem pumpFuel_keeps (n0 : Nat) (p : Nat) (s : State) (hK0 : Keeps q n b k s) :
    Keeps q n b k (pumpFuel n0 p s) := by
  induction n0 generalizing p s with
  | zero =>
    unfold pumpFuel
    repeat' (with_reducible first | assumption)
  | succ j ih =>
    unfold pumpFuel
    repeat' (first
      | (with_reducible first | assumption | apply ih | apply writeWaiter_keeps | intro _)
      | split)

theorem pumpPartition_keeps (p : Nat) (s : State) (hK0 : Keeps q n b k s) :
    Keeps q n b k (pumpPartition p s) := by
  unfold pumpPartition
  repeat' (with_reducible first | assumption | apply pumpFuel_keeps | apply noteFull_keeps)

theorem nextOrder_keeps (s : State) (hK0 : Keeps q n b k s) :
    Keeps q n b k (nextOrder s) := by
  unfold nextOrder
  repeat' (first
    | (with_reducible first | assumption)
    | (fail_if_no_progress refine Keeps.mk rfl ?_))

theorem aggReport_keeps (parts : List Nat) (fn : Nat) (node : Sys2Proof.W16) (cause : Sys2Proof.W16) (severity : Nat) (subject : Sys2Proof.W32) (detail : BitVec 24) (s : State) (hK0 : Keeps q n b k s) :
    Keeps q n b k (aggReport parts fn node cause severity subject detail s) := by
  unfold aggReport
  repeat' (first
    | (with_reducible first | assumption | apply pumpPartition_keeps | apply Keeps.foldl | apply Keeps.ite | intro _)
    | (fail_if_no_progress refine Keeps.mk rfl ?_))

theorem touchChannels_keeps (l : List Nat) (s : State) (hK0 : Keeps q n b k s) :
    Keeps q n b k (touchChannels l s) := by
  unfold touchChannels
  repeat' (first
    | (with_reducible first | assumption)
    | (fail_if_no_progress refine Keeps.mk rfl ?_))

theorem wakeRecord_keeps (pair : Nat) (i : Nat) (s : State) (hK0 : Keeps q n b k s) :
    Keeps q n b k (wakeRecord pair i s) := by
  unfold wakeRecord
  repeat' (with_reducible first | assumption | apply touchChannels_keeps)

theorem journalPut_keeps (n0 : Nat) (r : JournalRec) (s : State) (hK0 : Keeps q n b k s) :
    KeepsN q n b k (journalPut n0 r s) := by
  unfold journalPut
  repeat' (first
    | (with_reducible first | assumption | apply KeepsN.some | apply KeepsN.none)
    | dsimp only | (fail_if_no_progress refine Keeps.mk rfl ?_) | split)

theorem chanMod_keeps (fn : Nat) (f : Channel → Channel) (s : State) (hK0 : Keeps q n b k s) :
    Keeps q n b k (chanMod fn f s) := by
  unfold chanMod
  repeat' (with_reducible first | assumption | apply fnMod_keeps)

theorem writeReply_keeps (fn : Nat) (signal : Bool) (r : Reply) (s : State) (hK0 : Keeps q n b k s) :
    Keeps q n b k (writeReply fn signal r s) := by
  unfold writeReply
  repeat' (first
    | (with_reducible first | assumption | apply chanMod_keeps | apply signalVec_keeps | apply emit_keeps | intro _)
    | split)

theorem signalCounters_keeps (s : State) (hK0 : Keeps q n b k s) :
    Keeps q n b k (signalCounters s) := by
  unfold signalCounters
  repeat' (first
    | (with_reducible first | assumption | apply Keeps.ite | intro _)
    | (fail_if_no_progress refine Keeps.mk rfl ?_) | split)

theorem countHelm_keeps (i : Nat) (n0 : Nat) (s : State) (hK0 : Keeps q n b k s) :
    Keeps q n b k (countHelm i n0 s) := by
  unfold countHelm
  repeat' (first
    | (with_reducible first | assumption | apply signalCounters_keeps | apply Keeps.ite | intro _)
    | (fail_if_no_progress refine Keeps.mk rfl ?_))

theorem sendHelm_keeps (dst : W48) (n0 : Nat) (o : Output) (s : State) (h : Keeps q n b k s) : Keeps q n b k (sendHelm dst n0 o s) :=
  emit_keeps _ _ (Keeps.setAttempts _ (countHelm_keeps (39 + sizeClass (max n0 64)) 1 _ (countHelm_keeps (if bit dst.toNat 40 then 36 else 35) 1 _
    (countHelm_keeps 34 (max n0 64) _ (countHelm_keeps 33 1 _ h)))))

theorem sendReply_keeps (origin : Sys2Proof.Origin) (quiet : Bool) (heldFor : Option Nat) (r : Reply) (s : State) (hK0 : Keeps q n b k s) :
    Keeps q n b k (sendReply origin quiet heldFor r s) := by
  unfold sendReply
  repeat' (first
    | (with_reducible first
        | assumption | apply sendHelm_keeps | apply writeReply_keeps | apply journalPut_keeps
        | refine KeepsN.elim ?_ (by with_reducible assumption))
    | (fail_if_no_progress refine Keeps.mk rfl ?_) | split)

theorem answer_keeps (p : Pending) (status : Status) (r0 : Nat) (r1 : Nat) (r2 : Nat) (s : State) (hK0 : Keeps q n b k s) :
    Keeps q n b k (answer p status r0 r1 r2 s) := by
  unfold answer
  repeat' (with_reducible first | assumption | apply sendReply_keeps)

theorem countDropped_keeps (fn : Nat) (s : State) (hK0 : Keeps q n b k s) :
    Keeps q n b k (countDropped fn s) := by
  unfold countDropped
  repeat' (first
    | (with_reducible first | assumption)
    | (fail_if_no_progress refine Keeps.mk rfl ?_))

theorem storeRecord_keeps (parts : List Nat) (function : Nat) (body : FaultBody) (s : State) (hK0 : Keeps q n b k s) :
    Keeps q n b k (storeRecord parts function body s) := by
  unfold storeRecord
  repeat' (first
    | (with_reducible first | assumption | apply aggReport_keeps | apply Keeps.ite | intro _)
    | (fail_if_no_progress refine Keeps.mk rfl ?_) | split)

theorem postRecord_keeps (function : Nat) (body : FaultBody) (s : State) (hK0 : Keeps q n b k s) :
    Keeps q n b k (postRecord function body s) := by
  unfold postRecord
  repeat' (first
    | (with_reducible first
        | assumption | apply storeRecord_keeps | apply writeRecord_keeps | apply Keeps.foldl_fst | apply Keeps.ite | intro _)
    | split)

theorem closeEvent_keeps (cause : Cause) (fn : Nat) (subject : Nat) (detail : Nat) (s : State) (hK0 : Keeps q n b k s) :
    Keeps q n b k (closeEvent cause fn subject detail s) := by
  unfold closeEvent
  repeat' (with_reducible first | assumption | apply postRecord_keeps)

theorem cqMod_keeps (key : Nat) (f : CplRing → CplRing) (s : State) (hK0 : Keeps q n b k s) :
    Keeps q n b k (cqMod key f s) := by
  unfold cqMod
  repeat' (first
    | (with_reducible first | assumption)
    | (fail_if_no_progress refine Keeps.mk rfl ?_))

theorem judgeCq_keeps (key : Nat) (s : State) (hK0 : Keeps q n b k s) :
    Keeps q n b k (judgeCq key s) := by
  unfold judgeCq
  repeat' (first
    | (with_reducible first | assumption | apply cqMod_keeps | apply signalVec_keeps | apply Keeps.ite | intro _)
    | split)

theorem countCq_keeps (key : Nat) (counts : Bool) (prompt : Bool) (s : State) (hK0 : Keeps q n b k s) :
    Keeps q n b k (countCq key counts prompt s) := by
  unfold countCq
  repeat' (first
    | (with_reducible first | assumption | apply judgeCq_keeps | apply cqMod_keeps | apply signalVec_keeps | apply Keeps.ite | intro _)
    | split)

theorem finishCmds_keeps (sel : Deferral → Option (Status × Nat × Nat × Nat)) (s : State) (hK0 : Keeps q n b k s) :
    Keeps q n b k (finishCmds sel s) := by
  unfold finishCmds
  repeat' (first
    | (with_reducible first | assumption | apply answer_keeps | apply Keeps.foldl | intro _)
    | (fail_if_no_progress refine Keeps.mk rfl ?_) | split)

theorem hearHost_keeps (s : State) (hK0 : Keeps q n b k s) :
    Keeps q n b k (hearHost s) := by
  unfold hearHost
  repeat' (first
    | (with_reducible first | assumption)
    | (fail_if_no_progress refine Keeps.mk rfl ?_))

theorem journalFree_keeps (rec : Nat) (s : State) (hK0 : Keeps q n b k s) :
    Keeps q n b k (journalFree rec s) := by
  unfold journalFree
  repeat' (first
    | (with_reducible first | assumption)
    | (fail_if_no_progress refine Keeps.mk rfl ?_))

theorem raiseEvent_keeps (cause : Cause) (fn : Nat) (node : Sys2Proof.W16) (subject : Nat) (detail : Nat) (s : State) (hK0 : Keeps q n b k s) :
    Keeps q n b k (raiseEvent cause fn node subject detail s) := by
  unfold raiseEvent
  repeat' (with_reducible first | assumption | apply postRecord_keeps | apply aggReport_keeps | apply Keeps.ite | intro _)

theorem readFqHead_keeps (p : Nat) (head : Sys2Proof.W32) (s : State) (hK0 : Keeps q n b k s) :
    Keeps q n b k (readFqHead p head s) := by
  unfold readFqHead
  repeat' (with_reducible first | assumption | apply pumpPartition_keeps | apply spaceMod_keeps)

theorem setAlert_keeps (i : Nat) (b0 : Bool) (s : State) (hK0 : Keeps q n b k s) :
    Keeps q n b k (setAlert i b0 s) := by
  unfold setAlert
  repeat' (first
    | (with_reducible first | assumption)
    | (fail_if_no_progress refine Keeps.mk rfl ?_))

theorem takeFresh_keeps (s : State) (hK0 : Keeps q n b k s) :
    Keeps q n b k (takeFresh s) := by
  unfold takeFresh
  repeat' (first
    | (with_reducible first | assumption)
    | (fail_if_no_progress refine Keeps.mk rfl ?_))

theorem wakeRange_keeps (a : Nat) (n0 : Nat) (s : State) (hK0 : Keeps q n b k s) :
    Keeps q n b k (wakeRange a n0 s) := by
  unfold wakeRange
  repeat' (with_reducible first | assumption | apply touchChannels_keeps)

theorem whileLit_keeps (s : State) (k0 : Host.Outcome State Fault Refusal) (hK0 : Keeps q n b k s) (hK1 : KeepsO q n b k k0) :
    KeepsO q n b k (whileLit s k0) := by
  unfold whileLit
  repeat' (with_reducible first | assumption | apply KeepsO.next | apply KeepsO.ite | intro _)

theorem workMod_keeps (rec : Nat) (f : Work → Work) (s : State) (hK0 : Keeps q n b k s) :
    Keeps q n b k (workMod rec f s) := by
  unfold workMod
  repeat' (first
    | (with_reducible first | assumption)
    | (fail_if_no_progress refine Keeps.mk rfl ?_))

theorem writeCqe_keeps (key : Nat) (ring : Nat) (held : Bool) (rec : Nat) (w : Work) (s : State) (hK0 : Keeps q n b k s) :
    Keeps q n b k (writeCqe key ring held rec w s) := by
  unfold writeCqe
  repeat' (first
    | (with_reducible first | assumption | apply workMod_keeps | apply cqMod_keeps | apply emit_keeps)
    | split)

theorem writeResult_keeps (c : Cmd) (hpa : Nat) (nbits : Nat) (value : Nat) (s : State) (hK0 : Keeps q n b k s) :
    Keeps q n b k (writeResult c hpa nbits value s) := by
  unfold writeResult
  repeat' (first
    | (with_reducible first | assumption | apply sendHelm_keeps | apply emit_keeps | apply Keeps.foldl | intro _)
    | split)

theorem drawBytes_keeps (n0 : Nat) (s : State) (hK0 : Keeps q n b k s) :
    Keeps q n b k (drawBytes n0 s).2 := by
  unfold drawBytes
  repeat' (first
    | (with_reducible first | assumption)
    | (fail_if_no_progress refine Keeps.mk rfl ?_))

theorem wakeVia_keeps (find : Nat → Option (Sys2Proof.Target × Nat × Nat)) (dva : Nat) (n0 : Nat) (s : State) (hK0 : Keeps q n b k s) :
    Keeps q n b k (wakeVia find dva n0 s) := by
  unfold wakeVia
  repeat' (first
    | (with_reducible first | assumption | apply wakeRange_keeps | apply Keeps.foldl | intro _)
    | split)

theorem wakeDva_keeps (fn : Nat) (dva : Nat) (n0 : Nat) (s : State) (hK0 : Keeps q n b k s) :
    Keeps q n b k (wakeDva fn dva n0 s) := by
  unfold wakeDva
  repeat' (with_reducible first | assumption | apply wakeVia_keeps)

theorem readAny_keeps (fn : Nat) (dva : Nat) (n0 : Nat) (s : State) (hK0 : Keeps q n b k s) :
    Keeps q n b k (readAny fn dva n0 s).2 := by
  unfold readAny
  repeat' (first
    | (with_reducible first | assumption | apply wakeDva_keeps | apply drawBytes_keeps)
    | dsimp only | split)

theorem recordFault_keeps (fn : Nat) (id : Nat) (body : FaultBody) (s : State) (hK0 : Keeps q n b k s) :
    Keeps q n b k (recordFault fn id body s) := by
  unfold recordFault
  repeat' (first
    | (with_reducible first | assumption | apply noteFull_keeps | apply Keeps.ite | intro _)
    | (fail_if_no_progress refine Keeps.mk rfl ?_) | split)

theorem suspendOn_keeps (fn : Nat) (stream : Sys2Proof.StreamId) (kind : Nat) (access : Nat) (work : Nat) (ranges : List (Nat × Nat)) (key : Sys2Proof.W32) (s : State) (hK0 : Keeps q n b k s) :
    Keeps q n b k (suspendOn fn stream kind access work ranges key s) := by
  unfold suspendOn
  repeat' (first
    | (with_reducible first | assumption | apply recordFault_keeps)
    | (fail_if_no_progress refine Keeps.mk rfl ?_))

theorem suspend_keeps (fn : Nat) (stream : Sys2Proof.StreamId) (kind : Nat) (access : Nat) (work : Nat) (dva : Nat) (len : Nat) (key : Sys2Proof.W32) (s : State) (hK0 : Keeps q n b k s) :
    Keeps q n b k (suspend fn stream kind access work dva len key s) := by
  unfold suspend
  repeat' (with_reducible first | assumption | apply suspendOn_keeps)

theorem tarnMod_keeps (f : Tarns → Tarns) (s : State) (hm : (f s.tarns).mem = s.tarns.mem) (h : Keeps q n b k s) : Keeps q n b k (tarnMod f s) :=
  Keeps.mk rfl h hm

/-- A write of tarn memory that keeps the canonical form. -/
theorem tarnMod_mem_keeps (f : Tarns → Tarns) (s : State) (hm : Memory.wf s.tarns.mem = true → Memory.wf (f s.tarns).mem = true)
    (h : Keeps q n b k s) (k_mem : k.mem = none := by assumption) : Keeps q n b k (tarnMod f s) :=
  h.of_parts (tarnMod f s) rfl rfl rfl (fun hi => ⟨hm hi.1, hi.2⟩) fun hk => ⟨isHeld_none k_mem, hk.2⟩

theorem portMod_keeps (p : Nat) (f : FabPort → FabPort) (s : State) (hK0 : Keeps q n b k s) :
    Keeps q n b k (portMod p f s) := by
  unfold portMod
  repeat' (first
    | (with_reducible first | assumption)
    | (fail_if_no_progress refine Keeps.mk rfl ?_))

theorem accessMod_keeps (p : Nat) (tag : Nat) (f : SpurAccess → SpurAccess) (s : State) (hK0 : Keeps q n b k s) :
    Keeps q n b k (accessMod p tag f s) := by
  unfold accessMod
  repeat' (with_reducible first | assumption | apply portMod_keeps)

theorem streamMod_keeps (p : Nat) (n0 : Nat) (f : ReqStream → ReqStream) (s : State) (hK0 : Keeps q n b k s) :
    Keeps q n b k (streamMod p n0 f s) := by
  unfold streamMod
  repeat' (with_reducible first | assumption | apply portMod_keeps)

theorem crossingMod_keeps (k0 : Nat) (f : Crossing → Crossing) (s : State) (hK0 : Keeps q n b k s) :
    Keeps q n b k (crossingMod k0 f s) := by
  unfold crossingMod
  repeat' (first
    | (with_reducible first | assumption)
    | (fail_if_no_progress refine Keeps.mk rfl ?_))

theorem holdEntry_keeps (k0 : Nat) (o : Output) (s : State) (hK0 : Keeps q n b k s) :
    Keeps q n b k (holdEntry k0 o s) := by
  unfold holdEntry
  repeat' (with_reducible first | assumption | apply crossingMod_keeps)

theorem crossTo_keeps (k0 : Nat) (o : Output) (s : State) (hK0 : Keeps q n b k s) :
    Keeps q n b k (crossTo k0 o s) := by
  unfold crossTo
  repeat' (with_reducible first | assumption | apply holdEntry_keeps | apply emit_keeps | apply Keeps.ite | intro _)

theorem drainCrossing_keeps (k0 : Nat) (s : State) (hK0 : Keeps q n b k s) :
    Keeps q n b k (drainCrossing k0 s) := by
  unfold drainCrossing
  repeat' (first
    | (with_reducible first | assumption | apply crossingMod_keeps | apply emit_keeps | apply Keeps.foldl | intro _)
    | split)

theorem runClock_keeps (k0 : Nat) (s : State) (hK0 : Keeps q n b k s) :
    Keeps q n b k (runClock k0 s) := by
  unfold runClock
  repeat' (first
    | (with_reducible first | assumption | apply drainCrossing_keeps)
    | (fail_if_no_progress refine Keeps.mk rfl ?_))

theorem dropClockBit_keeps (k0 : Nat) (s : State) (hK0 : Keeps q n b k s) :
    Keeps q n b k (dropClockBit k0 s) := by
  unfold dropClockBit
  repeat' (first
    | (with_reducible first | assumption)
    | (fail_if_no_progress refine Keeps.mk rfl ?_))

theorem settleClock_keeps (k0 : Nat) (s : State) (hK0 : Keeps q n b k s) :
    Keeps q n b k (settleClock k0 s) := by
  unfold settleClock
  repeat' (with_reducible first | assumption | apply dropClockBit_keeps | apply runClock_keeps | apply Keeps.ite | intro _)

theorem sendFlit_keeps (p : Nat) (f : Sys2Proof.Flit) (s : State) (hK0 : Keeps q n b k s) :
    Keeps q n b k (sendFlit p f s) := by
  unfold sendFlit
  repeat' (with_reducible first
    | assumption | apply settleClock_keeps | apply crossTo_keeps | apply portMod_keeps | apply Keeps.ite | intro _)

theorem completeStream_keeps (p : Nat) (n0 : Nat) (rec : Nat) (w : Work) (s : State) (hK0 : Keeps q n b k s) :
    Keeps q n b k (completeStream p n0 rec w s) := by
  unfold completeStream
  repeat' (first
    | (with_reducible first | assumption | apply sendFlit_keeps | apply streamMod_keeps | apply workMod_keeps | intro _)
    | split)

theorem completeRing_keeps (ring : Nat) (rec : Nat) (w : Work) (s : State) (hK0 : Keeps q n b k s) :
    Keeps q n b k (completeRing ring rec w s) := by
  unfold completeRing
  repeat' (first
    | (with_reducible first | assumption | apply writeCqe_keeps | apply workMod_keeps | apply countCq_keeps | apply cqMod_keeps | intro _)
    | split)

theorem complete_keeps (rec : Nat) (status : Status) (result : Nat) (imm : Option Sys2Proof.W32) (s : State) (hK0 : Keeps q n b k s) :
    Keeps q n b k (complete rec status result imm s) := by
  unfold complete
  repeat' (first
    | (with_reducible first | assumption | apply completeRing_keeps | apply completeStream_keeps | apply workMod_keeps | intro _)
    | split)

theorem completeAll_keeps (recs : List Nat) (status : Status) (s : State) (hK0 : Keeps q n b k s) :
    Keeps q n b k (completeAll recs status s) := by
  unfold completeAll
  repeat' (with_reducible first | assumption | apply complete_keeps | apply Keeps.foldl | intro _)

theorem controlAccess_keeps (fn : Nat) (k0 : Nat) (posted : Bool) (s : State) (hK0 : Keeps q n b k s) :
    Keeps q n b k (controlAccess fn k0 posted s) := by
  unfold controlAccess
  repeat' (with_reducible first
    | assumption | apply crossingMod_keeps | apply takeFresh_keeps | apply emit_keeps | apply Keeps.ite | intro _)

theorem flushCrossing_keeps (k0 : Nat) (s : State) (hK0 : Keeps q n b k s) :
    Keeps q n b k (flushCrossing k0 s) := by
  unfold flushCrossing
  repeat' (with_reducible first | assumption | apply crossingMod_keeps)

theorem freeWork_keeps (rec : Nat) (s0 : State) (hK0 : Keeps q n b k s0) (k_cache : k.cache = none := by assumption) :
    Keeps q n b k (freeWork rec s0) := by
  unfold freeWork
  repeat' (first
    | (with_reducible first | assumption)
    | dsimp only | (fail_if_no_progress refine Keeps.mk rfl ?_) | split)

theorem hearFlit_keeps (p : Nat) (s : State) (hK0 : Keeps q n b k s) :
    Keeps q n b k (hearFlit p s) := by
  unfold hearFlit
  repeat' (with_reducible first | assumption | apply settleClock_keeps | apply portMod_keeps)

theorem linkMod_keeps (id : Nat) (f : Link → Link) (s : State) (hK0 : Keeps q n b k s) :
    Keeps q n b k (linkMod id f s) := by
  unfold linkMod
  repeat' (first
    | (with_reducible first | assumption)
    | (fail_if_no_progress refine Keeps.mk rfl ?_))

theorem sendFlits_keeps (p : Nat) (l : List Sys2Proof.Flit) (s : State) (hK0 : Keeps q n b k s) :
    Keeps q n b k (sendFlits p l s) := by
  unfold sendFlits
  repeat' (with_reducible first | assumption | apply sendFlit_keeps | apply Keeps.foldl | intro _)

theorem spurStart_keeps (p : Nat) (fn : Nat) (write : Bool) (address : Nat) (len : Nat) (data : List Sys2Proof.Byte) (cont : SpurCont) (s : State) (hK0 : Keeps q n b k s) :
    Keeps q n b k (spurStart p fn write address len data cont s) := by
  unfold spurStart
  repeat' (first
    | (with_reducible first | assumption | apply sendFlits_keeps | apply portMod_keeps | intro _)
    | split)

theorem placePiece_keeps (fn : Nat) (cont : SpurCont) (s : State) (piece : Nat × List Sys2Proof.Byte) (hK0 : Keeps q n b k s) (k_mem : k.mem = none := by assumption) :
    Keeps q n b k (placePiece fn cont s piece) := by
  unfold placePiece
  repeat' (first
    | (with_reducible first | assumption | apply spurStart_keeps | apply wakeRange_keeps | apply emit_keeps | intro _)
    | refine tarnMod_mem_keeps _ _ (fun hw => memWriteList_wf _ _ hw) ?_ | split)

theorem placeAt_keeps (fn : Nat) (dva : Nat) (bytes : List Sys2Proof.Byte) (cont : SpurCont) (s : State) (hK0 : Keeps q n b k s) (k_mem : k.mem = none := by assumption) :
    Keeps q n b k (placeAt fn dva bytes cont s) := by
  unfold placeAt
  repeat' (with_reducible first | assumption | apply placePiece_keeps | apply Keeps.foldl | intro _)

theorem sendKvResult_keeps (p : Nat) (n0 : Nat) (rec : Nat) (s : State) (hK0 : Keeps q n b k s) :
    Keeps q n b k (sendKvResult p n0 rec s) := by
  unfold sendKvResult
  repeat' (with_reducible first | assumption | apply sendFlit_keeps | apply Keeps.foldl | intro _)

theorem cmdFail_keeps (s : State) (st : Status) (hK0 : Keeps q n b k s) :
    KeepsC q n b k (cmdFail s st) := by
  unfold cmdFail
  repeat' (with_reducible first | assumption | apply KeepsC.done)

theorem cmdOk_keeps (s : State) (hK0 : Keeps q n b k s) :
    KeepsC q n b k (cmdOk s) := by
  unfold cmdOk
  repeat' (with_reducible first | assumption | apply KeepsC.done)

theorem consumeSlot_keeps (c : Cmd) (s : State) (hK0 : Keeps q n b k s) :
    Keeps q n b k (consumeSlot c s) := by
  unfold consumeSlot
  repeat' (first
    | (with_reducible first | assumption | apply chanMod_keeps)
    | split)

theorem keepPending_keeps (opcode : Nat) (c : Cmd) (answered : Bool) (what : Deferral) (s : State) (hK0 : Keeps q n b k s) :
    Keeps q n b k (keepPending opcode c answered what s) := by
  unfold keepPending
  repeat' (first
    | (with_reducible first | assumption)
    | (fail_if_no_progress refine Keeps.mk rfl ?_))

theorem replyNow_keeps (opcode : Nat) (c : Cmd) (status : Status) (final : Bool) (r0 : Nat) (r1 : Nat) (r2 : Nat) (s : State) (hK0 : Keeps q n b k s) :
    Keeps q n b k (replyNow opcode c status final r0 r1 r2 s) := by
  unfold replyNow
  repeat' (with_reducible first | assumption | apply sendReply_keeps)

theorem settleCmd_keeps (opcode : Nat) (c : Cmd) (o : CmdOut) (h : KeepsC q n b k o) : Keeps q n b k (settleCmd opcode c o) := by
  cases o with
  | done s st r0 r1 r2 => exact replyNow_keeps _ _ _ _ _ _ _ _ h
  | deferred s w => exact keepPending_keeps _ _ _ _ _ (replyNow_keeps _ _ _ _ _ _ _ _ h)
  | later s w => exact keepPending_keeps _ _ _ _ _ h

theorem judgeCmd_keeps (sp : CmdSpec) (own : Cmd → State → CmdOut) (c : Cmd) (s : State) (hK0 : ∀ v0 v1, Keeps q n b k v1 → KeepsC q n b k (own v0 v1)) (hK1 : Keeps q n b k s) :
    Keeps q n b k (judgeCmd sp own c s) := by
  unfold judgeCmd
  repeat' (first
    | (with_reducible first | assumption | apply settleCmd_keeps | apply cmdFail_keeps | apply hK0)
    | split)

theorem needParam_keeps (ok : Bool) (s : State) (k0 : CmdOut) (hK0 : Keeps q n b k s) (hK1 : KeepsC q n b k k0) :
    KeepsC q n b k (needParam ok s k0) := by
  unfold needParam
  repeat' (with_reducible first | assumption | apply cmdFail_keeps | apply KeepsC.ite | intro _)

theorem runCmd_keeps (sp : CmdSpec) (own : Cmd → State → CmdOut) (c : Cmd) (s : State) (hK0 : ∀ v0 v1, Keeps q n b k v1 → KeepsC q n b k (own v0 v1)) (hK1 : Keeps q n b k s) :
    Keeps q n b k (runCmd sp own c s) := by
  unfold runCmd
  repeat' (first
    | (with_reducible first | assumption | apply judgeCmd_keeps | apply consumeSlot_keeps | apply chanMod_keeps | intro _)
    | split)

theorem qpMod_keeps (n0 : Nat) (f : Qp → Qp) (s : State) (hK0 : Keeps q n b k s) :
    Keeps q n b k (qpMod n0 f s) := by
  unfold qpMod
  repeat' (first
    | (with_reducible first | assumption)
    | (fail_if_no_progress refine Keeps.mk rfl ?_))

theorem ccMod_keeps (n0 : Nat) (f : QpCc → QpCc) (s : State) (hK0 : Keeps q n b k s) :
    Keeps q n b k (ccMod n0 f s) := by
  unfold ccMod
  repeat' (with_reducible first | assumption | apply qpMod_keeps)

theorem commitProgress_keeps (n0 : Nat) (s : State) (hK0 : Keeps q n b k s) :
    Keeps q n b k (commitProgress n0 s) := by
  unfold commitProgress
  repeat' (first
    | (with_reducible first | assumption)
    | (fail_if_no_progress refine Keeps.mk rfl ?_) | split)

theorem completeReceive_keeps (n0 : Nat) (m : RxMessage) (s : State) (hK0 : Keeps q n b k s) :
    Keeps q n b k (completeReceive n0 m s) := by
  unfold completeReceive
  repeat' (first
    | (with_reducible first | assumption | apply complete_keeps | apply workMod_keeps)
    | split)

theorem countLink_keeps (id : Nat) (i : Nat) (n0 : Nat) (s : State) (hK0 : Keeps q n b k s) :
    Keeps q n b k (countLink id i n0 s) := by
  unfold countLink
  repeat' (first
    | (with_reducible first | assumption | apply linkMod_keeps | apply signalCounters_keeps | apply Keeps.ite | intro _)
    | split)

theorem leaveTxLpi_keeps (link : Nat) (s : State) (hK0 : Keeps q n b k s) :
    Keeps q n b k (leaveTxLpi link s) := by
  unfold leaveTxLpi
  try dsimp only
  repeat' (first
    | (with_reducible first
        | assumption | apply countLink_keeps | apply linkMod_keeps | apply settleClock_keeps | apply Keeps.foldl | apply Keeps.foldl_fst
        | apply Keeps.foldl_snd | apply Keeps.ite | intro _)
    | dsimp only | (fail_if_no_progress refine Keeps.mk rfl ?_) | split)

theorem countDrop_keeps (port : Nat) (s : State) (hK0 : Keeps q n b k s) :
    Keeps q n b k (countDrop port s) := by
  unfold countDrop
  repeat' (first
    | (with_reducible first | assumption | apply countLink_keeps | apply Keeps.ite | intro _)
    | (fail_if_no_progress refine Keeps.mk rfl ?_))

theorem countQp_keeps (n0 : Nat) (s : State) (hK0 : Keeps q n b k s) :
    Keeps q n b k (countQp n0 s) := by
  unfold countQp
  repeat' (with_reducible first | assumption | apply qpMod_keeps)

theorem countTx_keeps (id : Nat) (n0 : Nat) (kind : Nat) (s : State) (hK0 : Keeps q n b k s) :
    Keeps q n b k (countTx id n0 kind s) := by
  unfold countTx
  repeat' (with_reducible first | assumption | apply countLink_keeps | apply linkMod_keeps)

theorem unsuspend_keeps (stream : Sys2Proof.StreamId) (s : State) (hK0 : Keeps q n b k s) :
    Keeps q n b k (unsuspend stream s) := by
  unfold unsuspend
  repeat' (first
    | (with_reducible first | assumption)
    | (fail_if_no_progress refine Keeps.mk rfl ?_))

theorem quietQp_keeps (n0 : Nat) (s : State) (hK0 : Keeps q n b k s) :
    Keeps q n b k (quietQp n0 s) := by
  unfold quietQp
  repeat' (with_reducible first | assumption | apply unsuspend_keeps | apply qpMod_keeps)

theorem qpToError_keeps (n0 : Nat) (s : State) (hK0 : Keeps q n b k s) :
    Keeps q n b k (qpToError n0 s) := by
  unfold qpToError
  repeat' (first
    | (with_reducible first | assumption | apply quietQp_keeps | apply qpMod_keeps | apply completeAll_keeps | intro _)
    | split)

theorem failEntry_keeps (n0 : Nat) (rec : Nat) (status : Status) (result : Nat) (s : State) (hK0 : Keeps q n b k s) :
    Keeps q n b k (failEntry n0 rec status result s) := by
  unfold failEntry
  repeat' (with_reducible first | assumption | apply qpToError_keeps | apply complete_keeps)

theorem recvMod_keeps (n0 : Nat) (f : QpRecv → QpRecv) (s : State) (hK0 : Keeps q n b k s) :
    Keeps q n b k (recvMod n0 f s) := by
  unfold recvMod
  repeat' (with_reducible first | assumption | apply qpMod_keeps)

theorem finishMessages_keeps (fuel : Nat) (n0 : Nat) (s : State) (hK0 : Keeps q n b k s) :
    Keeps q n b k (finishMessages fuel n0 s) := by
  induction fuel generalizing n0 s with
  | zero =>
    unfold finishMessages
    repeat' (with_reducible first | assumption)
  | succ j ih =>
    unfold finishMessages
    repeat' (first
      | (with_reducible first
          | assumption | apply ih | apply recvMod_keeps | apply completeReceive_keeps | apply commitProgress_keeps | intro _)
      | split)

theorem hearPeer_keeps (n0 : Nat) (s : State) (hK0 : Keeps q n b k s) :
    Keeps q n b k (hearPeer n0 s) := by
  unfold hearPeer
  repeat' (first
    | (with_reducible first | assumption)
    | (fail_if_no_progress refine Keeps.mk rfl ?_) | split)

theorem injectPacket_keeps (dest : Nat) (tag : Nat) (tc : Nat) (adm : Bool) (bytes : List Sys2Proof.Byte) (s : State) (hK0 : Keeps q n b k s) :
    Keeps q n b k (injectPacket dest tag tc adm bytes s) := by
  unfold injectPacket
  repeat' (first
    | (with_reducible first | assumption | apply Keeps.ite | intro _)
    | (fail_if_no_progress refine Keeps.mk rfl ?_) | split)

theorem judgeSrq_keeps (n0 : Nat) (s : State) (hK0 : Keeps q n b k s) (k_srqs : k.srqs = none := by assumption) :
    Keeps q n b k (judgeSrq n0 s) := by
  unfold judgeSrq
  repeat' (first
    | (with_reducible first | assumption | apply Keeps.ite | intro _)
    | (fail_if_no_progress refine Keeps.mk rfl ?_) | split)

theorem keepAwake_keeps (s : State) (hK0 : Keeps q n b k s) :
    Keeps q n b k (keepAwake s) := by
  unfold keepAwake
  repeat' (with_reducible first
    | assumption | apply settleClock_keeps | apply portMod_keeps | apply Keeps.foldl | apply Keeps.ite | intro _)

theorem queueUnit_keeps (u : EgressUnit) (s : State) (hK0 : Keeps q n b k s) (k_sched : k.sched = none := by assumption) :
    Keeps q n b k (queueUnit u s) := by
  unfold queueUnit
  repeat' (first
    | (with_reducible first | assumption)
    | (fail_if_no_progress refine Keeps.mk rfl ?_))

theorem queueKvResult_keeps (fn : Nat) (tc : Nat) (pool : Nat) (rec : Nat) (result : Nat) (l : List (Nat × Sys2Proof.Flit)) (s : State) (hK0 : Keeps q n b k s) (k_sched : k.sched = none := by assumption) :
    Keeps q n b k (queueKvResult fn tc pool rec result l s) := by
  unfold queueKvResult
  repeat' (with_reducible first | assumption | apply queueUnit_keeps | apply Keeps.foldl | intro _)

theorem sendWire_keeps (n0 : Nat) (q0 : Qp) (p : Nat) (tc : Nat) (adm : Bool) (h0 : Sys2Proof.EhtHeader) (w : WirePart) (s : State) (hK0 : Keeps q n b k s) (k_sched : k.sched = none := by assumption) :
    Keeps q n b k (sendWire n0 q0 p tc adm h0 w s) := by
  unfold sendWire
  repeat' (first
    | (with_reducible first | assumption | apply queueUnit_keeps)
    | split)

theorem sendNak_keeps (n0 : Nat) (reason : NakReason) (seq : Sys2Proof.W32) (msg : Sys2Proof.W32) (path : Nat) (s : State) (hK0 : Keeps q n b k s) (k_sched : k.sched = none := by assumption) :
    Keeps q n b k (sendNak n0 reason seq msg path s) := by
  unfold sendNak
  repeat' (first
    | (with_reducible first | assumption | apply sendWire_keeps | apply commitProgress_keeps)
    | split)

theorem refuseMessage_keeps (n0 : Nat) (reason : NakReason) (h0 : Sys2Proof.EhtHeader) (s : State) (hK0 : Keeps q n b k s) (k_sched : k.sched = none := by assumption) :
    Keeps q n b k (refuseMessage n0 reason h0 s) := by
  unfold refuseMessage
  repeat' (first
    | (with_reducible first | assumption | apply sendNak_keeps | apply recvMod_keeps | apply qpToError_keeps)
    | split)

theorem resultGone_keeps (rec : Nat) (result : Nat) (s : State) (hK0 : Keeps q n b k s) :
    Keeps q n b k (resultGone rec result s) := by
  unfold resultGone
  repeat' (with_reducible first | assumption | apply complete_keeps | apply Keeps.ite | intro _)

theorem sendAck_keeps (n0 : Nat) (s : State) (hK0 : Keeps q n b k s) (k_sched : k.sched = none := by assumption) :
    Keeps q n b k (sendAck n0 s) := by
  unfold sendAck
  repeat' (first
    | (with_reducible first | assumption | apply sendWire_keeps | apply recvMod_keeps | apply commitProgress_keeps)
    | split)

theorem sendMod_keeps (n0 : Nat) (f : QpSend → QpSend) (s : State) (hK0 : Keeps q n b k s) :
    Keeps q n b k (sendMod n0 f s) := by
  unfold sendMod
  repeat' (with_reducible first | assumption | apply qpMod_keeps)

theorem sendNow_keeps (port : Nat) (tc : Nat) (e : EhtSend) (s : State) (hK0 : Keeps q n b k s) :
    Keeps q n b k (sendNow port tc e s) := by
  unfold sendNow
  repeat' (first
    | (with_reducible first | assumption | apply injectPacket_keeps | apply countTx_keeps | apply emit_keeps)
    | split)

theorem settleNums_keeps (n0 : Nat) (nums : List Sys2Proof.W32) (s : State) (hK0 : Keeps q n b k s) :
    Keeps q n b k (settleNums n0 nums s) := by
  unfold settleNums
  repeat' (with_reducible first | assumption | apply finishMessages_keeps | apply recvMod_keeps)

theorem settleFlushes_keeps (fuel : Nat) (n0 : Nat) (s : State) (hK0 : Keeps q n b k s) :
    Keeps q n b k (settleFlushes fuel n0 s) := by
  induction fuel generalizing n0 s with
  | zero =>
    unfold settleFlushes
    repeat' (with_reducible first | assumption)
  | succ j ih =>
    unfold settleFlushes
    repeat' (first
      | (with_reducible first | assumption | apply ih | apply settleNums_keeps | apply recvMod_keeps | apply emitHost_keeps)
      | split)

theorem settle_keeps (n0 : Nat) (nums : List Sys2Proof.W32) (s : State) (hK0 : Keeps q n b k s) (k_sched : k.sched = none := by assumption) :
    Keeps q n b k (settle n0 nums s) := by
  unfold settle
  repeat' (first
    | (with_reducible first | assumption | apply settleFlushes_keeps | apply settleNums_keeps | apply sendAck_keeps | intro _)
    | dsimp only | split)

end Sys2Proof.Machine
end

