-- ==== Sys2Proof/Laws/KeepsTransport.lean ====
section
/-! SUPPORT. What each function of Machine/Receive.lean, Machine/Sched.lean, Machine/Accept.lean, Machine/Send.lean, Machine/Acks.lean, Machine/Rings.lean keeps: the parts of State that stand in `Kept`, the queue, and the invariant. -/

set_option linter.unusedTactic false
set_option linter.unreachableTactic false
set_option linter.unusedVariables false
namespace Sys2Proof.Machine
set_option Elab.async false
variable {q : List Instr} {n : Nat} {b : Bool} {k : Kept}

theorem ackFor_keeps (n0 : Nat) (p : Sys2Proof.RxPacket) (s : State) (hK0 : Keeps q n b k s) (k_sched : k.sched = none := by assumption) :
    Keeps q n b k (ackFor n0 p s) := by
  unfold ackFor
  try dsimp only
  repeat' (with_reducible first | assumption | apply sendAck_keeps | apply recvMod_keeps)

theorem refuseKey_keeps (n0 : Nat) (e : Status) (h0 : Sys2Proof.EhtHeader) (s : State) (hK0 : Keeps q n b k s) (k_sched : k.sched = none := by assumption) :
    Keeps q n b k (refuseKey n0 e h0 s) := by
  unfold refuseKey
  try dsimp only
  repeat' (first
    | (with_reducible first
        | assumption | apply refuseMessage_keeps | apply sendNak_keeps | apply countQp_keeps | apply Keeps.foldl | apply Keeps.foldl_fst
        | apply Keeps.foldl_snd | apply Keeps.ite | intro _)
    | dsimp only)

theorem performAtomic_keeps (fn : Nat) (swap : Bool) (operand : Sys2Proof.W64) (compare : Sys2Proof.W64) (dva : Nat) (prior : Sys2Proof.W64) (s : State) (hK0 : Keeps q n b k s) (k_mem : k.mem = none := by assumption) :
    Keeps q n b k (performAtomic fn swap operand compare dva prior s).1 := by
  unfold performAtomic
  try dsimp only
  repeat' (first
    | (with_reducible first
        | assumption | apply wakeRange_keeps | apply emitHost_keeps | apply emit_keeps | apply Keeps.foldl | apply Keeps.foldl_fst
        | apply Keeps.foldl_snd | apply Keeps.ite | intro _)
    | refine tarnMod_mem_keeps _ _ (fun hw => memWriteList_wf _ _ hw) ?_ | dsimp only | (fail_if_no_progress refine Keeps.mk rfl ?_) | split)

theorem pushQueue_keeps (n0 : Nat) (l : List TxPacket) (s : State) (hK0 : Keeps q n b k s) :
    Keeps q n b k (pushQueue n0 l s) := by
  unfold pushQueue
  try dsimp only
  repeat' (with_reducible first | assumption | apply sendMod_keeps)

theorem queueAtomicResp_keeps (n0 : Nat) (seq : Sys2Proof.W32) (msg : Sys2Proof.W32) (prior : Sys2Proof.W64) (again : Bool) (s : State) (hK0 : Keeps q n b k s) :
    Keeps q n b k (queueAtomicResp n0 seq msg prior again s) := by
  unfold queueAtomicResp
  try dsimp only
  repeat' (first
    | (with_reducible first
        | assumption | apply pushQueue_keeps | apply Keeps.foldl | apply Keeps.foldl_fst | apply Keeps.foldl_snd | apply Keeps.ite | intro _)
    | dsimp only | (fail_if_no_progress refine Keeps.mk rfl ?_) | split)

theorem keepMessage_keeps (n0 : Nat) (m : RxMessage) (p : Sys2Proof.RxPacket) (s : State) (hK0 : Keeps q n b k s) :
    Keeps q n b k (keepMessage n0 m p s) := by
  unfold keepMessage
  try dsimp only
  repeat' (with_reducible first | assumption | apply recvMod_keeps)

theorem closeRekey_keeps (n0 : Nat) (phase : Bool) (s : State) (hK0 : Keeps q n b k s) :
    Keeps q n b k (closeRekey n0 phase s) := by
  unfold closeRekey
  try dsimp only
  repeat' (first
    | (with_reducible first
        | assumption | apply qpMod_keeps | apply Keeps.foldl | apply Keeps.foldl_fst | apply Keeps.foldl_snd | apply Keeps.ite | intro _)
    | dsimp only | (fail_if_no_progress refine Keeps.mk rfl ?_) | split)

theorem unitMod_keeps (n0 : Nat) (own : Bool) (msg : Sys2Proof.W32) (unit : Nat) (f : RxUnit → RxUnit) (s : State) (hK0 : Keeps q n b k s) :
    Keeps q n b k (unitMod n0 own msg unit f s) := by
  unfold unitMod
  try dsimp only
  repeat' (with_reducible first | assumption | apply recvMod_keeps)

theorem judgeUnit_keeps (n0 : Nat) (fn : Nat) (q0 : Qp) (u : RxUnit) (landing : List Sys2Proof.W32 → State → State) (s : State) (hK0 : ∀ v0 v1, Keeps q n b k v1 → Keeps q n b k (landing v0 v1)) (hK1 : Keeps q n b k s) (k_mem : k.mem = none := by assumption) :
    Keeps q n b k (judgeUnit n0 fn q0 u landing s) := by
  unfold judgeUnit
  try dsimp only
  repeat' (first
    | (with_reducible first
        | assumption | apply unitMod_keeps | apply closeRekey_keeps | apply recvMod_keeps | apply placeAt_keeps | apply hK0
        | apply Keeps.foldl | apply Keeps.foldl_fst | apply Keeps.foldl_snd | apply Keeps.ite | intro _)
    | dsimp only | (fail_if_no_progress refine Keeps.mk rfl ?_) | split)

theorem sealedArrive_keeps (n0 : Nat) (fn : Nat) (q0 : Qp) (p : Sys2Proof.RxPacket) (b0 : Sys2Proof.SealBlock) (dva : Nat) (total : Nat) (landing : List Sys2Proof.W32 → State → State) (s : State) (hK0 : ∀ v0 v1, Keeps q n b k v1 → Keeps q n b k (landing v0 v1)) (hK1 : Keeps q n b k s) (k_mem : k.mem = none := by assumption) :
    Keeps q n b k (sealedArrive n0 fn q0 p b0 dva total landing s) := by
  unfold sealedArrive
  try dsimp only
  repeat' (first
    | (with_reducible first
        | assumption | apply judgeUnit_keeps | apply recvMod_keeps | apply countQp_keeps | apply countDrop_keeps | apply placeAt_keeps
        | apply hK0 | apply Keeps.foldl | apply Keeps.foldl_fst | apply Keeps.foldl_snd | apply Keeps.ite | intro _)
    | dsimp only | (fail_if_no_progress refine Keeps.mk rfl ?_) | split)

theorem whenOpened_keeps (n0 : Nat) (q0 : Qp) (p : Sys2Proof.RxPacket) (act : State → State) (s : State) (hK0 : ∀ v0, Keeps q n b k v0 → Keeps q n b k (act v0)) (hK1 : Keeps q n b k s) (k_mem : k.mem = none := by assumption) :
    Keeps q n b k (whenOpened n0 q0 p act s) := by
  unfold whenOpened
  try dsimp only
  repeat' (first
    | (with_reducible first
        | assumption | apply sealedArrive_keeps | apply hK0 | apply Keeps.foldl | apply Keeps.foldl_fst | apply Keeps.foldl_snd
        | apply Keeps.ite | intro _)
    | dsimp only | (fail_if_no_progress refine Keeps.mk rfl ?_) | split)

theorem atomicFresh_keeps (k0 : TxKind) (prior : Sys2Proof.W64) (p : Sys2Proof.RxPacket) (n0 : Nat) (q0 : Qp) (s : State) (hK0 : Keeps q n b k s) (k_mem : k.mem = none := by assumption) (k_sched : k.sched = none := by assumption) :
    Keeps q n b k (atomicFresh k0 prior p n0 q0 s) := by
  unfold atomicFresh
  try dsimp only
  repeat' (first
    | (with_reducible first
        | assumption | apply whenOpened_keeps | apply keepMessage_keeps | apply queueAtomicResp_keeps | apply performAtomic_keeps
        | apply refuseKey_keeps | apply settle_keeps | apply refuseMessage_keeps | apply sendNak_keeps | apply recvMod_keeps
        | apply countQp_keeps | apply suspend_keeps | apply journalPut_keeps | apply Keeps.foldl | apply Keeps.foldl_fst
        | apply Keeps.foldl_snd | apply Keeps.ite | refine KeepsN.elim ?_ (by with_reducible assumption)
        | refine Keeps.fst_elim ?_ (by with_reducible assumption) | intro _)
    | dsimp only | (fail_if_no_progress refine Keeps.mk rfl ?_) | split)

theorem claimShared_keeps (n0 : Nat) (srq : Nat) (recvNum : Sys2Proof.W32) (s : State) (hK0 : Keeps q n b k s) (k_srqs : k.srqs = none := by assumption) :
    KeepsN q n b k (claimShared n0 srq recvNum s) := by
  unfold claimShared
  try dsimp only
  repeat' (first
    | (with_reducible first
        | assumption | apply judgeSrq_keeps | apply workMod_keeps | apply KeepsN.some | apply KeepsN.none | apply Keeps.foldl
        | apply Keeps.foldl_fst | apply Keeps.foldl_snd | apply Keeps.ite | intro _)
    | dsimp only | (fail_if_no_progress refine Keeps.mk rfl ?_) | split)

theorem claimEarlier_keeps (fuel : Nat) (n0 : Nat) (srq : Nat) (upTo : Sys2Proof.W32) (s : State) (hK0 : Keeps q n b k s) (k_srqs : k.srqs = none := by assumption) :
    Keeps q n b k (claimEarlier fuel n0 srq upTo s) := by
  induction fuel generalizing n0 srq upTo s with
  | zero =>
    unfold claimEarlier
    try dsimp only
    repeat' (with_reducible first | assumption)
  | succ j ih =>
    unfold claimEarlier
    try dsimp only
    repeat' (first
      | (with_reducible first
          | assumption | apply ih | apply claimShared_keeps | apply recvMod_keeps | apply Keeps.foldl | apply Keeps.foldl_fst
          | apply Keeps.foldl_snd | apply Keeps.ite | refine KeepsN.elim ?_ (by with_reducible assumption) | intro _)
      | dsimp only | (fail_if_no_progress refine Keeps.mk rfl ?_) | split)

theorem claimBuffer_keeps (n0 : Nat) (q0 : Qp) (recvNum : Sys2Proof.W32) (msg : Sys2Proof.W32) (need : Nat) (s : State) (hK0 : Keeps q n b k s) (k_srqs : k.srqs = none := by assumption) :
    Keeps q n b k (claimBuffer n0 q0 recvNum msg need s).1 := by
  unfold claimBuffer
  try dsimp only
  repeat' (first
    | (with_reducible first
        | assumption | apply claimEarlier_keeps | apply claimShared_keeps | apply recvMod_keeps | apply workMod_keeps | apply Keeps.foldl
        | apply Keeps.foldl_fst | apply Keeps.foldl_snd | apply Keeps.ite | refine KeepsN.elim ?_ (by with_reducible assumption) | intro _)
    | dsimp only | (fail_if_no_progress refine Keeps.mk rfl ?_) | split)

theorem hear_keeps (n0 : Nat) (p : Sys2Proof.RxPacket) (s : State) (hK0 : Keeps q n b k s) :
    Keeps q n b k (hear n0 p s) := by
  unfold hear
  try dsimp only
  repeat' (with_reducible first | assumption | apply hearPeer_keeps | apply recvMod_keeps)

theorem refuseUnknown_keeps (p : Sys2Proof.RxPacket) (s : State) (hK0 : Keeps q n b k s) (k_sched : k.sched = none := by assumption) :
    Keeps q n b k (refuseUnknown p s) := by
  unfold refuseUnknown
  try dsimp only
  repeat' (first
    | (with_reducible first
        | assumption | apply queueUnit_keeps | apply takeFresh_keeps | apply Keeps.foldl | apply Keeps.foldl_fst | apply Keeps.foldl_snd
        | apply Keeps.ite | intro _)
    | dsimp only | (fail_if_no_progress refine Keeps.mk rfl ?_) | split)

theorem refuseOrDrop_keeps (k0 : TxKind) (p : Sys2Proof.RxPacket) (s : State) (hK0 : Keeps q n b k s) (k_sched : k.sched = none := by assumption) :
    Keeps q n b k (refuseOrDrop k0 p s) := by
  unfold refuseOrDrop
  try dsimp only
  repeat' (first
    | (with_reducible first
        | assumption | apply refuseUnknown_keeps | apply countDrop_keeps | apply Keeps.foldl | apply Keeps.foldl_fst | apply Keeps.foldl_snd
        | apply Keeps.ite | intro _)
    | dsimp only)

theorem gapNak_keeps (n0 : Nat) (q0 : Qp) (p : Sys2Proof.RxPacket) (s : State) (hK0 : Keeps q n b k s) (k_sched : k.sched = none := by assumption) :
    Keeps q n b k (gapNak n0 q0 p s) := by
  unfold gapNak
  try dsimp only
  repeat' (first
    | (with_reducible first
        | assumption | apply sendNak_keeps | apply recvMod_keeps | apply countQp_keeps | apply Keeps.foldl | apply Keeps.foldl_fst
        | apply Keeps.foldl_snd | apply Keeps.ite | intro _)
    | dsimp only)

theorem repeatNak_keeps (n0 : Nat) (q0 : Qp) (p : Sys2Proof.RxPacket) (s : State) (hK0 : Keeps q n b k s) (k_sched : k.sched = none := by assumption) :
    Keeps q n b k (repeatNak n0 q0 p s) := by
  unfold repeatNak
  try dsimp only
  repeat' (first
    | (with_reducible first
        | assumption | apply sendNak_keeps | apply recvMod_keeps | apply Keeps.foldl | apply Keeps.foldl_fst | apply Keeps.foldl_snd
        | apply Keeps.ite | intro _)
    | dsimp only | (fail_if_no_progress refine Keeps.mk rfl ?_) | split)

theorem noteArrival_keeps (n0 : Nat) (p : Sys2Proof.RxPacket) (s : State) (hK0 : Keeps q n b k s) :
    Keeps q n b k (noteArrival n0 p s) := by
  unfold noteArrival
  try dsimp only
  repeat' (with_reducible first | assumption | apply recvMod_keeps)

theorem dupAck_keeps (n0 : Nat) (p : Sys2Proof.RxPacket) (s : State) (hK0 : Keeps q n b k s) (k_sched : k.sched = none := by assumption) :
    Keeps q n b k (dupAck n0 p s) := by
  unfold dupAck
  try dsimp only
  repeat' (first
    | (with_reducible first
        | assumption | apply ackFor_keeps | apply recvMod_keeps | apply Keeps.foldl | apply Keeps.foldl_fst | apply Keeps.foldl_snd
        | apply Keeps.ite | intro _)
    | dsimp only | (fail_if_no_progress refine Keeps.mk rfl ?_) | split)

theorem classify_keeps (k0 : TxKind) (p0 : Sys2Proof.RxPacket) (dup : Sys2Proof.RxPacket → Nat → Qp → State → State) (fresh : Sys2Proof.RxPacket → Nat → Qp → State → State) (s : State) (hK0 : ∀ v0 v1 v2 v3, Keeps q n b k v3 → Keeps q n b k (dup v0 v1 v2 v3)) (hK1 : ∀ v0 v1 v2 v3, Keeps q n b k v3 → Keeps q n b k (fresh v0 v1 v2 v3)) (hK2 : Keeps q n b k s) (k_sched : k.sched = none := by assumption) :
    Keeps q n b k (classify k0 p0 dup fresh s) := by
  unfold classify
  try dsimp only
  repeat' (first
    | (with_reducible first
        | assumption | apply dupAck_keeps | apply noteArrival_keeps | apply repeatNak_keeps | apply gapNak_keeps | apply refuseOrDrop_keeps
        | apply refuseUnknown_keeps | apply hear_keeps | apply ackFor_keeps | apply sendNak_keeps | apply countQp_keeps
        | apply countDrop_keeps | apply hK0 | apply hK1 | apply Keeps.foldl | apply Keeps.foldl_fst | apply Keeps.foldl_snd
        | apply Keeps.ite | intro _)
    | dsimp only | (fail_if_no_progress refine Keeps.mk rfl ?_) | split)

theorem dupAtomic_keeps (p : Sys2Proof.RxPacket) (n0 : Nat) (x____Sys2Proof_Machine_Receive_3972271174__hygCtx__hyg_4 : Qp) (s : State) (hK0 : Keeps q n b k s) :
    Keeps q n b k (dupAtomic p n0 x____Sys2Proof_Machine_Receive_3972271174__hygCtx__hyg_4 s) := by
  unfold dupAtomic
  try dsimp only
  repeat' (first
    | (with_reducible first
        | assumption | apply queueAtomicResp_keeps | apply Keeps.foldl | apply Keeps.foldl_fst | apply Keeps.foldl_snd | apply Keeps.ite
        | intro _)
    | dsimp only | (fail_if_no_progress refine Keeps.mk rfl ?_) | split)

theorem dupNothing_keeps (x____Sys2Proof_Machine_Receive_1481013141__hygCtx__hyg_2 : Sys2Proof.RxPacket) (x____Sys2Proof_Machine_Receive_1481013141__hygCtx__hyg_4 : Nat) (x____Sys2Proof_Machine_Receive_1481013141__hygCtx__hyg_6 : Qp) (s : State) (hK0 : Keeps q n b k s) :
    Keeps q n b k (dupNothing x____Sys2Proof_Machine_Receive_1481013141__hygCtx__hyg_2 x____Sys2Proof_Machine_Receive_1481013141__hygCtx__hyg_4 x____Sys2Proof_Machine_Receive_1481013141__hygCtx__hyg_6 s) := by
  unfold dupNothing
  try dsimp only
  repeat' (with_reducible first | assumption)

theorem serveRead_keeps (n0 : Nat) (q0 : Qp) (h0 : Sys2Proof.EhtHeader) (again : Bool) (only : Sys2Proof.W32 → Bool) (s : State) (hK0 : Keeps q n b k s) :
    Keeps q n b k (serveRead n0 q0 h0 again only s) := by
  unfold serveRead
  try dsimp only
  repeat' (first
    | (with_reducible first
        | assumption | apply pushQueue_keeps | apply recvMod_keeps | apply suspend_keeps | apply Keeps.foldl | apply Keeps.foldl_fst
        | apply Keeps.foldl_snd | apply Keeps.ite | intro _)
    | dsimp only | (fail_if_no_progress refine Keeps.mk rfl ?_) | split)

theorem dupRead_keeps (p : Sys2Proof.RxPacket) (n0 : Nat) (q0 : Qp) (s : State) (hK0 : Keeps q n b k s) :
    Keeps q n b k (dupRead p n0 q0 s) := by
  unfold dupRead
  try dsimp only
  repeat' (first
    | (with_reducible first
        | assumption | apply serveRead_keeps | apply Keeps.foldl | apply Keeps.foldl_fst | apply Keeps.foldl_snd | apply Keeps.ite | intro _)
    | dsimp only)

theorem execPktAtomicCswap_keeps (p : Sys2Proof.RxPacket) (prior : Sys2Proof.W64) (s : State) (hK0 : Keeps q n b k s) (k_mem : k.mem = none := by assumption) (k_sched : k.sched = none := by assumption) :
    KeepsO q n b k (execPktAtomicCswap p prior s) := by
  unfold execPktAtomicCswap
  try dsimp only
  repeat' (first
    | (with_reducible first
        | assumption | apply dupAtomic_keeps | apply classify_keeps | apply atomicFresh_keeps | apply whileLit_keeps | apply KeepsO.next
        | apply KeepsO.ite | apply KeepsO.fault | apply KeepsO.refused | apply Keeps.foldl | apply Keeps.foldl_fst | apply Keeps.foldl_snd
        | apply Keeps.ite | refine KeepsO.elim ?_ (by with_reducible assumption) | intro _)
    | dsimp only)

theorem execPktAtomicFadd_keeps (p : Sys2Proof.RxPacket) (prior : Sys2Proof.W64) (s : State) (hK0 : Keeps q n b k s) (k_mem : k.mem = none := by assumption) (k_sched : k.sched = none := by assumption) :
    KeepsO q n b k (execPktAtomicFadd p prior s) := by
  unfold execPktAtomicFadd
  try dsimp only
  repeat' (first
    | (with_reducible first
        | assumption | apply dupAtomic_keeps | apply classify_keeps | apply atomicFresh_keeps | apply whileLit_keeps | apply KeepsO.next
        | apply KeepsO.ite | apply KeepsO.fault | apply KeepsO.refused | apply Keeps.foldl | apply Keeps.foldl_fst | apply Keeps.foldl_snd
        | apply Keeps.ite | refine KeepsO.elim ?_ (by with_reducible assumption) | intro _)
    | dsimp only)

theorem flushFresh_keeps (p : Sys2Proof.RxPacket) (n0 : Nat) (q0 : Qp) (s : State) (hK0 : Keeps q n b k s) (k_mem : k.mem = none := by assumption) (k_sched : k.sched = none := by assumption) :
    Keeps q n b k (flushFresh p n0 q0 s) := by
  unfold flushFresh
  try dsimp only
  repeat' (first
    | (with_reducible first
        | assumption | apply whenOpened_keeps | apply keepMessage_keeps | apply settle_keeps | apply recvMod_keeps | apply Keeps.foldl
        | apply Keeps.foldl_fst | apply Keeps.foldl_snd | apply Keeps.ite | intro _)
    | dsimp only)

theorem execPktFlush_keeps (p : Sys2Proof.RxPacket) (s : State) (hK0 : Keeps q n b k s) (k_mem : k.mem = none := by assumption) (k_sched : k.sched = none := by assumption) :
    KeepsO q n b k (execPktFlush p s) := by
  unfold execPktFlush
  try dsimp only
  repeat' (first
    | (with_reducible first
        | assumption | apply flushFresh_keeps | apply dupNothing_keeps | apply classify_keeps | apply whileLit_keeps | apply KeepsO.next
        | apply KeepsO.ite | apply KeepsO.fault | apply KeepsO.refused | apply Keeps.foldl | apply Keeps.foldl_fst | apply Keeps.foldl_snd
        | apply Keeps.ite | refine KeepsO.elim ?_ (by with_reducible assumption) | intro _)
    | dsimp only)

theorem readFresh_keeps (p : Sys2Proof.RxPacket) (n0 : Nat) (q0 : Qp) (s : State) (hK0 : Keeps q n b k s) (k_mem : k.mem = none := by assumption) (k_sched : k.sched = none := by assumption) :
    Keeps q n b k (readFresh p n0 q0 s) := by
  unfold readFresh
  try dsimp only
  repeat' (first
    | (with_reducible first
        | assumption | apply serveRead_keeps | apply whenOpened_keeps | apply keepMessage_keeps | apply refuseKey_keeps | apply settle_keeps
        | apply refuseMessage_keeps | apply sendNak_keeps | apply countQp_keeps | apply Keeps.foldl | apply Keeps.foldl_fst
        | apply Keeps.foldl_snd | apply Keeps.ite | intro _)
    | dsimp only | (fail_if_no_progress refine Keeps.mk rfl ?_) | split)

theorem execPktReadReq_keeps (p : Sys2Proof.RxPacket) (s : State) (hK0 : Keeps q n b k s) (k_mem : k.mem = none := by assumption) (k_sched : k.sched = none := by assumption) :
    KeepsO q n b k (execPktReadReq p s) := by
  unfold execPktReadReq
  try dsimp only
  repeat' (first
    | (with_reducible first
        | assumption | apply readFresh_keeps | apply dupRead_keeps | apply classify_keeps | apply whileLit_keeps | apply KeepsO.next
        | apply KeepsO.ite | apply KeepsO.fault | apply KeepsO.refused | apply Keeps.foldl | apply Keeps.foldl_fst | apply Keeps.foldl_snd
        | apply Keeps.ite | refine KeepsO.elim ?_ (by with_reducible assumption) | intro _)
    | dsimp only)

theorem placePacket_keeps (n0 : Nat) (q0 : Qp) (p : Sys2Proof.RxPacket) (m : RxMessage) (key : Sys2Proof.W32) (s : State) (hK0 : Keeps q n b k s) (k_mem : k.mem = none := by assumption) (k_sched : k.sched = none := by assumption) :
    Keeps q n b k (placePacket n0 q0 p m key s) := by
  unfold placePacket
  try dsimp only
  repeat' (first
    | (with_reducible first
        | assumption | apply sealedArrive_keeps | apply settle_keeps | apply refuseMessage_keeps | apply sendNak_keeps | apply recvMod_keeps
        | apply countQp_keeps | apply placeAt_keeps | apply suspend_keeps | apply Keeps.foldl | apply Keeps.foldl_fst
        | apply Keeps.foldl_snd | apply Keeps.ite | intro _)
    | dsimp only | (fail_if_no_progress refine Keeps.mk rfl ?_) | split)

theorem sendFresh_keeps (p : Sys2Proof.RxPacket) (n0 : Nat) (q0 : Qp) (s : State) (hK0 : Keeps q n b k s) (k_mem : k.mem = none := by assumption) (k_srqs : k.srqs = none := by assumption) (k_sched : k.sched = none := by assumption) :
    Keeps q n b k (sendFresh p n0 q0 s) := by
  unfold sendFresh
  try dsimp only
  repeat' (first
    | (with_reducible first
        | assumption | apply placePacket_keeps | apply claimBuffer_keeps | apply keepMessage_keeps | apply refuseMessage_keeps
        | apply sendNak_keeps | apply Keeps.foldl | apply Keeps.foldl_fst | apply Keeps.foldl_snd | apply Keeps.ite
        | refine Keeps.fst_elim ?_ (by with_reducible assumption) | intro _)
    | dsimp only | (fail_if_no_progress refine Keeps.mk rfl ?_) | split)

theorem execPktSend_keeps (p : Sys2Proof.RxPacket) (s : State) (hK0 : Keeps q n b k s) (k_mem : k.mem = none := by assumption) (k_srqs : k.srqs = none := by assumption) (k_sched : k.sched = none := by assumption) :
    KeepsO q n b k (execPktSend p s) := by
  unfold execPktSend
  try dsimp only
  repeat' (first
    | (with_reducible first
        | assumption | apply sendFresh_keeps | apply dupNothing_keeps | apply classify_keeps | apply whileLit_keeps | apply KeepsO.next
        | apply KeepsO.ite | apply KeepsO.fault | apply KeepsO.refused | apply Keeps.foldl | apply Keeps.foldl_fst | apply Keeps.foldl_snd
        | apply Keeps.ite | refine KeepsO.elim ?_ (by with_reducible assumption) | intro _)
    | dsimp only)

theorem writeFresh_keeps (k0 : TxKind) (p : Sys2Proof.RxPacket) (n0 : Nat) (q0 : Qp) (s : State) (hK0 : Keeps q n b k s) (k_mem : k.mem = none := by assumption) (k_srqs : k.srqs = none := by assumption) (k_sched : k.sched = none := by assumption) :
    Keeps q n b k (writeFresh k0 p n0 q0 s) := by
  unfold writeFresh
  try dsimp only
  repeat' (first
    | (with_reducible first
        | assumption | apply placePacket_keeps | apply claimBuffer_keeps | apply keepMessage_keeps | apply refuseKey_keeps
        | apply refuseMessage_keeps | apply sendNak_keeps | apply Keeps.foldl | apply Keeps.foldl_fst | apply Keeps.foldl_snd
        | apply Keeps.ite | refine Keeps.fst_elim ?_ (by with_reducible assumption) | intro _)
    | dsimp only | (fail_if_no_progress refine Keeps.mk rfl ?_) | split)

theorem execPktWrite_keeps (p : Sys2Proof.RxPacket) (s : State) (hK0 : Keeps q n b k s) (k_mem : k.mem = none := by assumption) (k_srqs : k.srqs = none := by assumption) (k_sched : k.sched = none := by assumption) :
    KeepsO q n b k (execPktWrite p s) := by
  unfold execPktWrite
  try dsimp only
  repeat' (first
    | (with_reducible first
        | assumption | apply writeFresh_keeps | apply dupNothing_keeps | apply classify_keeps | apply whileLit_keeps | apply KeepsO.next
        | apply KeepsO.ite | apply KeepsO.fault | apply KeepsO.refused | apply Keeps.foldl | apply Keeps.foldl_fst | apply Keeps.foldl_snd
        | apply Keeps.ite | refine KeepsO.elim ?_ (by with_reducible assumption) | intro _)
    | dsimp only)

theorem execPktWriteImm_keeps (p : Sys2Proof.RxPacket) (s : State) (hK0 : Keeps q n b k s) (k_mem : k.mem = none := by assumption) (k_srqs : k.srqs = none := by assumption) (k_sched : k.sched = none := by assumption) :
    KeepsO q n b k (execPktWriteImm p s) := by
  unfold execPktWriteImm
  try dsimp only
  repeat' (first
    | (with_reducible first
        | assumption | apply writeFresh_keeps | apply dupNothing_keeps | apply classify_keeps | apply whileLit_keeps | apply KeepsO.next
        | apply KeepsO.ite | apply KeepsO.fault | apply KeepsO.refused | apply Keeps.foldl | apply Keeps.foldl_fst | apply Keeps.foldl_snd
        | apply Keeps.ite | refine KeepsO.elim ?_ (by with_reducible assumption) | intro _)
    | dsimp only)

theorem chargePath_keeps (n0 : Nat) (paths : List (Nat × ℚ)) (chosen : Nat) (s : State) (hK0 : Keeps q n b k s) :
    Keeps q n b k (chargePath n0 paths chosen s) := by
  unfold chargePath
  repeat' (with_reducible first | assumption | apply qpMod_keeps)

theorem dropAbsent_keeps (s : State) (hK0 : Keeps q n b k s) (k_sched : k.sched = none := by assumption) :
    Keeps q n b k (dropAbsent s) := by
  unfold dropAbsent
  repeat' (first
    | (with_reducible first | assumption)
    | (fail_if_no_progress refine Keeps.mk rfl ?_))

theorem refillPolicers_keeps (n0 : Nat) (t : Nat) (s : State) (hK0 : Keeps q n b k s) (k_sched : k.sched = none := by assumption) :
    Keeps q n b k (refillPolicers n0 t s) := by
  unfold refillPolicers
  repeat' (first
    | (with_reducible first | assumption | apply finishCmds_keeps | apply Keeps.ite | intro _)
    | (fail_if_no_progress refine Keeps.mk rfl ?_))

theorem duePolicers_keeps (s : State) (hK0 : Keeps q n b k s) (k_sched : k.sched = none := by assumption) :
    Keeps q n b k (duePolicers s) := by
  unfold duePolicers
  repeat' (with_reducible first | assumption | apply refillPolicers_keeps)

theorem refillShapers_keeps (n0 : Nat) (t : Nat) (s : State) (hK0 : Keeps q n b k s) (k_sched : k.sched = none := by assumption) :
    Keeps q n b k (refillShapers n0 t s) := by
  unfold refillShapers
  repeat' (first
    | (with_reducible first | assumption | apply finishCmds_keeps | apply Keeps.ite | intro _)
    | (fail_if_no_progress refine Keeps.mk rfl ?_))

theorem dueShapers_keeps (s : State) (hK0 : Keeps q n b k s) (k_sched : k.sched = none := by assumption) :
    Keeps q n b k (dueShapers s) := by
  unfold dueShapers
  repeat' (with_reducible first | assumption | apply refillShapers_keeps)

theorem dueRefills_keeps (s : State) (hK0 : Keeps q n b k s) (k_sched : k.sched = none := by assumption) :
    Keeps q n b k (dueRefills s) := by
  unfold dueRefills
  repeat' (with_reducible first | assumption | apply dueShapers_keeps | apply duePolicers_keeps)

theorem shaperTake_keeps (key : Nat) (n0 : Nat) (s : State) (hK0 : Keeps q n b k s) (k_sched : k.sched = none := by assumption) :
    Keeps q n b k (shaperTake key n0 s) := by
  unfold shaperTake
  repeat' (first
    | (with_reducible first | assumption)
    | (fail_if_no_progress refine Keeps.mk rfl ?_))

theorem advanceAccepted_keeps (fn : Nat) (ring : Nat) (s : State) (hK0 : Keeps q n b k s) (k_sqs : k.sqs = none := by assumption) :
    Keeps q n b k (advanceAccepted fn ring s) := by
  unfold advanceAccepted
  repeat' (first
    | (with_reducible first | assumption)
    | (fail_if_no_progress refine Keeps.mk rfl ?_) | split)

theorem journalEntry_keeps (fn : Nat) (source : Source) (index : Nat) (e : Sys2Proof.W512) (s : State) (hK0 : Keeps q n b k s) :
    KeepsN q n b k (journalEntry fn source index e s) := by
  unfold journalEntry
  repeat' (first
    | (with_reducible first
        | assumption | apply journalPut_keeps | apply KeepsN.some | apply KeepsN.none | refine KeepsN.elim ?_ (by with_reducible assumption))
    | dsimp only | (fail_if_no_progress refine Keeps.mk rfl ?_) | split)

theorem assignNumbers_keeps (n0 : Nat) (rec : Nat) (s : State) (hK0 : Keeps q n b k s) :
    Keeps q n b k (assignNumbers n0 rec s) := by
  unfold assignNumbers
  repeat' (first
    | (with_reducible first | assumption | apply sendMod_keeps | apply workMod_keeps | intro _)
    | split)

theorem joinQp_keeps (n0 : Nat) (rec : Nat) (o : WorkOp) (s : State) (hK0 : Keeps q n b k s) :
    Keeps q n b k (joinQp n0 rec o s) := by
  unfold joinQp
  repeat' (first
    | (with_reducible first | assumption | apply assignNumbers_keeps | apply sendMod_keeps | apply complete_keeps | intro _)
    | split)

theorem failUnsent_keeps (n0 : Nat) (s : State) (hK0 : Keeps q n b k s) :
    Keeps q n b k (failUnsent n0 s) := by
  unfold failUnsent
  repeat' (first
    | (with_reducible first | assumption | apply sendMod_keeps | apply completeAll_keeps)
    | split)

theorem judgeEntry_keeps (fn : Nat) (rec : Nat) (e : Sys2Proof.W512) (s : State) (hK0 : Keeps q n b k s) :
    Keeps q n b k (judgeEntry fn rec e s) := by
  unfold judgeEntry
  repeat' (first
    | (with_reducible first
        | assumption | apply failUnsent_keeps | apply joinQp_keeps | apply failEntry_keeps | apply complete_keeps | intro _)
    | split)

theorem chargeAccept_keeps (fn : Nat) (ring : Nat) (s : State) (hK0 : Keeps q n b k s) (k_sqs : k.sqs = none := by assumption) (k_sched : k.sched = none := by assumption) :
    Keeps q n b k (chargeAccept fn ring s) := by
  unfold chargeAccept
  repeat' (first
    | (with_reducible first | assumption)
    | (fail_if_no_progress refine Keeps.mk rfl ?_))

theorem acceptNext_keeps (fn : Nat) (ring : Nat) (s : State) (hK0 : Keeps q n b k s) (k_sqs : k.sqs = none := by assumption) (k_sched : k.sched = none := by assumption) :
    Keeps q n b k (acceptNext fn ring s) := by
  unfold acceptNext
  repeat' (first
    | (with_reducible first
        | assumption | apply chargeAccept_keeps | apply judgeEntry_keeps | apply journalEntry_keeps | apply advanceAccepted_keeps
        | apply cqMod_keeps | refine KeepsN.elim ?_ (by with_reducible assumption) | intro _)
    | split)

theorem readCqHead_keeps (key : Nat) (head : Sys2Proof.W32) (s : State) (hK0 : Keeps q n b k s) (k_cache : k.cache = none := by assumption) :
    Keeps q n b k (readCqHead key head s) := by
  unfold readCqHead
  repeat' (with_reducible first | assumption | apply freeWork_keeps | apply cqMod_keeps | apply Keeps.foldl | intro _)

theorem execCqHeadPoll_keeps (fn : Nat) (cq : Nat) (head : Sys2Proof.W32) (s : State) (hK0 : Keeps q n b k s) (k_cache : k.cache = none := by assumption) :
    KeepsO q n b k (execCqHeadPoll fn cq head s) := by
  unfold execCqHeadPoll
  repeat' (with_reducible first
    | assumption | apply readCqHead_keeps | apply whileLit_keeps | apply KeepsO.next | apply KeepsO.ite | intro _)

theorem execEntryAccept_keeps (fn : Nat) (ring : Nat) (s : State) (hK0 : Keeps q n b k s) (k_sqs : k.sqs = none := by assumption) (k_sched : k.sched = none := by assumption) :
    KeepsO q n b k (execEntryAccept fn ring s) := by
  unfold execEntryAccept
  repeat' (with_reducible first | assumption | apply acceptNext_keeps | apply whileLit_keeps | apply KeepsO.next)

theorem execJournalBackpressureRelease_keeps (pair : Nat) (s : State) (hK0 : Keeps q n b k s) (k_sqs : k.sqs = none := by assumption) (k_sched : k.sched = none := by assumption) :
    KeepsO q n b k (execJournalBackpressureRelease pair s) := by
  unfold execJournalBackpressureRelease
  repeat' (with_reducible first
    | assumption | apply acceptNext_keeps | apply whileLit_keeps | apply KeepsO.next | apply Keeps.foldl | intro _)

theorem execNop_keeps (rec : Nat) (s : State) (hK0 : Keeps q n b k s) :
    KeepsO q n b k (execNop rec s) := by
  unfold execNop
  repeat' (first
    | (with_reducible first | assumption | apply complete_keeps | apply whileLit_keeps | apply KeepsO.next)
    | split)

theorem joinReceive_keeps (rec : Nat) (w : Work) (s : State) (hK0 : Keeps q n b k s) (k_srqs : k.srqs = none := by assumption) :
    Keeps q n b k (joinReceive rec w s) := by
  unfold joinReceive
  repeat' (first
    | (with_reducible first | assumption | apply judgeSrq_keeps | apply Keeps.ite | intro _)
    | (fail_if_no_progress refine Keeps.mk rfl ?_))

theorem execPostReceive_keeps (rec : Nat) (s : State) (hK0 : Keeps q n b k s) (k_srqs : k.srqs = none := by assumption) :
    KeepsO q n b k (execPostReceive rec s) := by
  unfold execPostReceive
  repeat' (first
    | (with_reducible first | assumption | apply joinReceive_keeps | apply whileLit_keeps | apply KeepsO.next)
    | split)

theorem afterSend_keeps (n0 : Nat) (x : TxPacket) (p : Nat) (s : State) (hK0 : Keeps q n b k s) (k_sched : k.sched = none := by assumption) :
    Keeps q n b k (afterSend n0 x p s) := by
  unfold afterSend
  repeat' (first
    | (with_reducible first | assumption | apply settle_keeps | apply sendMod_keeps | apply workMod_keeps)
    | split)

theorem messageMod_keeps (n0 : Nat) (rec : Nat) (f : TxMessage → TxMessage) (s : State) (hK0 : Keeps q n b k s) :
    Keeps q n b k (messageMod n0 rec f s) := by
  unfold messageMod
  repeat' (with_reducible first | assumption | apply sendMod_keeps)

theorem buildData_keeps (n0 : Nat) (rec : Nat) (kind : TxKind) (s : State) (hK0 : Keeps q n b k s) :
    Keeps q n b k (buildData n0 rec kind s) := by
  unfold buildData
  repeat' (first
    | (with_reducible first
        | assumption | apply messageMod_keeps | apply pushQueue_keeps | apply failEntry_keeps | apply suspend_keeps | intro _)
    | dsimp only | split)

theorem buildOne_keeps (n0 : Nat) (rec : Nat) (kind : TxKind) (s : State) (hK0 : Keeps q n b k s) :
    Keeps q n b k (buildOne n0 rec kind s) := by
  unfold buildOne
  repeat' (first
    | (with_reducible first | assumption | apply messageMod_keeps | apply pushQueue_keeps)
    | split)

theorem buildWork_keeps (n0 : Nat) (rec : Nat) (o : WorkOp) (s : State) (hK0 : Keeps q n b k s) :
    Keeps q n b k (buildWork n0 rec o s) := by
  unfold buildWork
  repeat' (first
    | (with_reducible first | assumption | apply buildOne_keeps | apply buildData_keeps)
    | split)

theorem chargeQueues_keeps (port : Nat) (c : Cand) (s : State) (hK0 : Keeps q n b k s) (k_sched : k.sched = none := by assumption) :
    Keeps q n b k (chargeQueues port c s) := by
  unfold chargeQueues
  repeat' (first
    | (with_reducible first | assumption)
    | (fail_if_no_progress refine Keeps.mk rfl ?_))

theorem sendUnit_keeps (u : EgressUnit) (s : State) (hK0 : Keeps q n b k s) (k_sched : k.sched = none := by assumption) :
    Keeps q n b k (sendUnit u s) := by
  unfold sendUnit
  repeat' (first
    | (with_reducible first | assumption | apply sendNow_keeps | apply resultGone_keeps | apply sendFlits_keeps)
    | (fail_if_no_progress refine Keeps.mk rfl ?_) | split)

theorem noteCtr_keeps (n0 : Nat) (x : TxPacket) (c : Nat) (s : State) (hK0 : Keeps q n b k s) :
    Keeps q n b k (noteCtr n0 x c s) := by
  unfold noteCtr
  repeat' (with_reducible first | assumption | apply sendMod_keeps)

theorem takeCtr_keeps (n0 : Nat) (fn : Nat) (z : QpSeal) (phase : Bool) (plain : Nat) (s : State) (hK0 : Keeps q n b k s) :
    Keeps q n b k (takeCtr n0 fn z phase plain s).2 := by
  unfold takeCtr
  repeat' (with_reducible first | assumption | apply qpMod_keeps | apply raiseEvent_keeps | apply Keeps.ite | intro _)

theorem sealPacket_keeps (n0 : Nat) (q0 : Qp) (z : QpSeal) (a : Accord) (x : TxPacket) (h0 : Sys2Proof.EhtHeader) (ext : List Sys2Proof.Byte) (payload : List Sys2Proof.Byte) (s : State) (hK0 : Keeps q n b k s) :
    Keeps q n b k (sealPacket n0 q0 z a x h0 ext payload s).2.2 := by
  unfold sealPacket
  repeat' (first
    | (with_reducible first | assumption | apply takeCtr_keeps | apply noteCtr_keeps | apply qpMod_keeps)
    | split)

theorem queueCopy_keeps (n0 : Nat) (q0 : Qp) (tc : Nat) (h0 : Sys2Proof.EhtHeader) (w : WirePart) (s : State) (path : Nat) (hK0 : Keeps q n b k s) (k_sched : k.sched = none := by assumption) :
    Keeps q n b k (queueCopy n0 q0 tc h0 w s path) := by
  unfold queueCopy
  repeat' (with_reducible first | assumption | apply sendWire_keeps)

theorem putPacket_keeps (n0 : Nat) (q0 : Qp) (x : TxPacket) (p : Nat) (copies : List Nat) (fetched : List Sys2Proof.Byte) (s0 : State) (hK0 : Keeps q n b k s0) (k_sched : k.sched = none := by assumption) :
    Keeps q n b k (putPacket n0 q0 x p copies fetched s0) := by
  unfold putPacket
  repeat' (first
    | (with_reducible first
        | assumption | apply queueCopy_keeps | apply sealPacket_keeps | apply sendNow_keeps | apply wakeVia_keeps | apply Keeps.foldl
        | intro _)
    | split)

theorem releasePacket_keeps (n0 : Nat) (q0 : Qp) (x : TxPacket) (p : Nat) (fetched : List Sys2Proof.Byte) (s : State) (hK0 : Keeps q n b k s) (k_sched : k.sched = none := by assumption) :
    Keeps q n b k (releasePacket n0 q0 x p fetched s) := by
  unfold releasePacket
  repeat' (first
    | (with_reducible first
        | assumption | apply putPacket_keeps | apply afterSend_keeps | apply shaperTake_keeps | apply chargePath_keeps
        | apply failEntry_keeps | apply qpToError_keeps | apply ccMod_keeps | apply suspend_keeps | intro _)
    | split)

theorem sendFrame_keeps (link : Nat) (p : Pending) (tc : Nat) (frame : List Sys2Proof.Byte) (s : State) (hK0 : Keeps q n b k s) :
    Keeps q n b k (sendFrame link p tc frame s) := by
  unfold sendFrame
  repeat' (first
    | (with_reducible first | assumption | apply countTx_keeps | apply answer_keeps)
    | (fail_if_no_progress refine Keeps.mk rfl ?_))

theorem followBacklog_keeps (port : Nat) (c : Cand) (s : State) (hK0 : Keeps q n b k s) (k_sched : k.sched = none := by assumption) :
    Keeps q n b k (followBacklog port c s) := by
  unfold followBacklog
  repeat' (first
    | (with_reducible first | assumption)
    | (fail_if_no_progress refine Keeps.mk rfl ?_))

theorem transmitOn_keeps (port : Nat) (fetched : List Sys2Proof.Byte) (s : State) (hK0 : Keeps q n b k s) (k_sched : k.sched = none := by assumption) :
    Keeps q n b k (transmitOn port fetched s) := by
  unfold transmitOn
  repeat' (first
    | (with_reducible first
        | assumption | apply followBacklog_keeps | apply sendFrame_keeps | apply releasePacket_keeps | apply sendUnit_keeps
        | apply chargeQueues_keeps | apply shaperTake_keeps)
    | split)

theorem execPacketTransmit_keeps (port : Nat) (fetched : List Sys2Proof.Byte) (s : State) (hK0 : Keeps q n b k s) (k_sched : k.sched = none := by assumption) :
    KeepsO q n b k (execPacketTransmit port fetched s) := by
  unfold execPacketTransmit
  repeat' (with_reducible first | assumption | apply transmitOn_keeps | apply dueRefills_keeps | apply whileLit_keeps | apply KeepsO.next)

theorem startEntry_keeps (o : WorkOp) (rec : Nat) (s : State) (hK0 : Keeps q n b k s) :
    Keeps q n b k (startEntry o rec s) := by
  unfold startEntry
  repeat' (first
    | (with_reducible first | assumption | apply buildWork_keeps | apply failEntry_keeps | apply workMod_keeps | intro _)
    | dsimp only | split)

theorem execWorkAtomicCswap_keeps (rec : Nat) (s : State) (hK0 : Keeps q n b k s) :
    KeepsO q n b k (execWorkAtomicCswap rec s) := by
  unfold execWorkAtomicCswap
  repeat' (with_reducible first | assumption | apply startEntry_keeps | apply whileLit_keeps | apply KeepsO.next)

theorem execWorkAtomicFadd_keeps (rec : Nat) (s : State) (hK0 : Keeps q n b k s) :
    KeepsO q n b k (execWorkAtomicFadd rec s) := by
  unfold execWorkAtomicFadd
  repeat' (with_reducible first | assumption | apply startEntry_keeps | apply whileLit_keeps | apply KeepsO.next)

theorem execWorkFence_keeps (rec : Nat) (s : State) (hK0 : Keeps q n b k s) :
    KeepsO q n b k (execWorkFence rec s) := by
  unfold execWorkFence
  repeat' (first
    | (with_reducible first | assumption | apply complete_keeps | apply whileLit_keeps | apply KeepsO.next | intro _)
    | split)

theorem execWorkFlush_keeps (rec : Nat) (s : State) (hK0 : Keeps q n b k s) :
    KeepsO q n b k (execWorkFlush rec s) := by
  unfold execWorkFlush
  repeat' (with_reducible first | assumption | apply startEntry_keeps | apply whileLit_keeps | apply KeepsO.next)

theorem execWorkRead_keeps (rec : Nat) (s : State) (hK0 : Keeps q n b k s) :
    KeepsO q n b k (execWorkRead rec s) := by
  unfold execWorkRead
  repeat' (with_reducible first | assumption | apply startEntry_keeps | apply whileLit_keeps | apply KeepsO.next)

theorem execWorkSend_keeps (rec : Nat) (s : State) (hK0 : Keeps q n b k s) :
    KeepsO q n b k (execWorkSend rec s) := by
  unfold execWorkSend
  repeat' (with_reducible first | assumption | apply startEntry_keeps | apply whileLit_keeps | apply KeepsO.next)

theorem execWorkWrite_keeps (rec : Nat) (s : State) (hK0 : Keeps q n b k s) :
    KeepsO q n b k (execWorkWrite rec s) := by
  unfold execWorkWrite
  repeat' (with_reducible first | assumption | apply startEntry_keeps | apply whileLit_keeps | apply KeepsO.next)

theorem execWorkWriteImm_keeps (rec : Nat) (s : State) (hK0 : Keeps q n b k s) :
    KeepsO q n b k (execWorkWriteImm rec s) := by
  unfold execWorkWriteImm
  repeat' (with_reducible first | assumption | apply startEntry_keeps | apply whileLit_keeps | apply KeepsO.next)

theorem finishMessage_keeps (n0 : Nat) (m : TxMessage) (result : Nat) (s : State) (hK0 : Keeps q n b k s) :
    Keeps q n b k (finishMessage n0 m result s) := by
  unfold finishMessage
  repeat' (first
    | (with_reducible first | assumption | apply sendMod_keeps | apply complete_keeps)
    | split)

theorem retire_keeps (fuel : Nat) (n0 : Nat) (s : State) (hK0 : Keeps q n b k s) :
    Keeps q n b k (retire fuel n0 s) := by
  induction fuel generalizing n0 s with
  | zero =>
    unfold retire
    repeat' (with_reducible first | assumption)
  | succ j ih =>
    unfold retire
    repeat' (first
      | (with_reducible first | assumption | apply ih | apply sendMod_keeps | intro _)
      | split)

theorem retireAll_keeps (n0 : Nat) (s : State) (hK0 : Keeps q n b k s) :
    Keeps q n b k (retireAll n0 s) := by
  unfold retireAll
  repeat' (first
    | (with_reducible first | assumption | apply retire_keeps)
    | split)

theorem resendWhere_keeps (n0 : Nat) (sel : TxPacket → Bool) (s : State) (hK0 : Keeps q n b k s) :
    Keeps q n b k (resendWhere n0 sel s) := by
  unfold resendWhere
  repeat' (with_reducible first | assumption | apply sendMod_keeps)

theorem losePacket_keeps (n0 : Nat) (seq : Sys2Proof.W32) (s : State) (hK0 : Keeps q n b k s) :
    Keeps q n b k (losePacket n0 seq s) := by
  unfold losePacket
  repeat' (first
    | (with_reducible first
        | assumption | apply resendWhere_keeps | apply sendMod_keeps | apply failEntry_keeps | apply Keeps.ite | intro _)
    | split)

theorem loseAll_keeps (n0 : Nat) (l : List Sys2Proof.W32) (s : State) (hK0 : Keeps q n b k s) :
    Keeps q n b k (loseAll n0 l s) := by
  unfold loseAll
  repeat' (with_reducible first | assumption | apply losePacket_keeps | apply Keeps.foldl | intro _)

theorem applyCum_keeps (n0 : Nat) (cum0 : Sys2Proof.W32) (ranges : List (Sys2Proof.W32 × Sys2Proof.W32)) (s : State) (hK0 : Keeps q n b k s) :
    Keeps q n b k (applyCum n0 cum0 ranges s) := by
  unfold applyCum
  repeat' (first
    | (with_reducible first
        | assumption | apply loseAll_keeps | apply retireAll_keeps | apply finishMessage_keeps | apply sendMod_keeps | apply Keeps.foldl
        | intro _)
    | dsimp only | split)

theorem sendRepair_keeps (n0 : Nat) (m : TxMessage) (missing : List Sys2Proof.W32) (s : State) (hK0 : Keeps q n b k s) (k_sched : k.sched = none := by assumption) :
    Keeps q n b k (sendRepair n0 m missing s) := by
  unfold sendRepair
  repeat' (first
    | (with_reducible first
        | assumption | apply messageMod_keeps | apply sendWire_keeps | apply failEntry_keeps | apply Keeps.ite | intro _)
    | split)

theorem gotResponses_keeps (n0 : Nat) (rec : Nat) (nums : List Sys2Proof.W32) (path : Nat) (s : State) (hK0 : Keeps q n b k s) (k_sched : k.sched = none := by assumption) :
    Keeps q n b k (gotResponses n0 rec nums path s) := by
  unfold gotResponses
  repeat' (first
    | (with_reducible first
        | assumption | apply sendRepair_keeps | apply retireAll_keeps | apply finishMessage_keeps | apply messageMod_keeps | intro _)
    | dsimp only | split)

theorem landUnit_keeps (n0 : Nat) (q0 : Qp) (u : RxUnit) (nums : List Sys2Proof.W32) (s : State) (hK0 : Keeps q n b k s) (k_sched : k.sched = none := by assumption) :
    Keeps q n b k (landUnit n0 q0 u nums s) := by
  unfold landUnit
  repeat' (first
    | (with_reducible first | assumption | apply gotResponses_keeps | apply settle_keeps | intro _)
    | split)

theorem closeUnit_keeps (n0 : Nat) (q0 : Qp) (u : RxUnit) (s : State) (hK0 : Keeps q n b k s) (k_sched : k.sched = none := by assumption) :
    Keeps q n b k (closeUnit n0 q0 u s) := by
  unfold closeUnit
  repeat' (with_reducible first | assumption | apply landUnit_keeps | apply closeRekey_keeps | apply recvMod_keeps)

theorem execAckCoalesceTimer_keeps (qp : Nat) (s : State) (hK0 : Keeps q n b k s) (k_sched : k.sched = none := by assumption) :
    KeepsO q n b k (execAckCoalesceTimer qp s) := by
  unfold execAckCoalesceTimer
  repeat' (first
    | (with_reducible first
        | assumption | apply sendAck_keeps | apply whileLit_keeps | apply advanceTo_keeps | apply KeepsO.next | intro _)
    | split)

theorem execCcEpochEnd_keeps (qp : Nat) (s : State) (hK0 : Keeps q n b k s) :
    KeepsO q n b k (execCcEpochEnd qp s) := by
  unfold execCcEpochEnd
  repeat' (first
    | (with_reducible first | assumption | apply ccMod_keeps | apply whileLit_keeps | apply advanceTo_keeps | apply KeepsO.next | intro _)
    | split)

theorem violate_keeps (n0 : Nat) (q0 : Qp) (a : Admission) (s : State) (hK0 : Keeps q n b k s) :
    Keeps q n b k (violate n0 q0 a s) := by
  unfold violate
  repeat' (with_reducible first | assumption | apply qpMod_keeps | apply raiseEvent_keeps)

theorem execCopyAckDeadline_keeps (qp : Nat) (seq : Sys2Proof.W32) (s : State) (hK0 : Keeps q n b k s) :
    KeepsO q n b k (execCopyAckDeadline qp seq s) := by
  unfold execCopyAckDeadline
  repeat' (first
    | (with_reducible first
        | assumption | apply violate_keeps | apply sendMod_keeps | apply whileLit_keeps | apply advanceTo_keeps | apply KeepsO.next
        | intro _)
    | split)

theorem execFaultWaitResend_keeps (qp : Nat) (s : State) (hK0 : Keeps q n b k s) :
    KeepsO q n b k (execFaultWaitResend qp s) := by
  unfold execFaultWaitResend
  repeat' (first
    | (with_reducible first
        | assumption | apply resendWhere_keeps | apply sendMod_keeps | apply whileLit_keeps | apply advanceTo_keeps | apply KeepsO.next)
    | split)

theorem execNoPathTimeout_keeps (qp : Nat) (s : State) (hK0 : Keeps q n b k s) :
    KeepsO q n b k (execNoPathTimeout qp s) := by
  unfold execNoPathTimeout
  repeat' (first
    | (with_reducible first
        | assumption | apply failEntry_keeps | apply whileLit_keeps | apply advanceTo_keeps | apply KeepsO.next | intro _)
    | split)

theorem peerRetires_keeps (n0 : Nat) (x : Sys2Proof.W32) (s : State) (hK0 : Keeps q n b k s) :
    Keeps q n b k (peerRetires n0 x s) := by
  unfold peerRetires
  repeat' (first
    | (with_reducible first
        | assumption | apply sendMod_keeps | apply recvMod_keeps | apply journalFree_keeps | apply Keeps.foldl | intro _)
    | split)

theorem sampleCc_keeps (n0 : Nat) (q0 : Qp) (b0 : Sys2Proof.AckBody) (settled : Nat) (s : State) (hK0 : Keeps q n b k s) :
    Keeps q n b k (sampleCc n0 q0 b0 settled s) := by
  unfold sampleCc
  repeat' (with_reducible first | assumption | apply ccMod_keeps | apply Keeps.ite | intro _)

theorem hearAck_keeps (n0 : Nat) (p : Sys2Proof.RxPacket) (s : State) (hK0 : Keeps q n b k s) :
    Keeps q n b k (hearAck n0 p s) := by
  unfold hearAck
  repeat' (with_reducible first | assumption | apply hearPeer_keeps | apply recvMod_keeps)

theorem sampleRtt_keeps (n0 : Nat) (q0 : Qp) (rtt : Nat) (s : State) (hK0 : Keeps q n b k s) :
    Keeps q n b k (sampleRtt n0 q0 rtt s) := by
  unfold sampleRtt
  repeat' (first
    | (with_reducible first | assumption | apply violate_keeps | apply sendMod_keeps | apply ccMod_keeps | intro _)
    | split)

theorem takeAck_keeps (p : Sys2Proof.RxPacket) (b0 : Sys2Proof.AckBody) (s : State) (hK0 : Keeps q n b k s) :
    Keeps q n b k (takeAck p b0 s) := by
  unfold takeAck
  repeat' (first
    | (with_reducible first
        | assumption | apply sampleRtt_keeps | apply hearAck_keeps | apply sampleCc_keeps | apply peerRetires_keeps | apply applyCum_keeps
        | apply resendWhere_keeps | apply sendMod_keeps | apply countDrop_keeps | intro _)
    | split)

theorem execPktAck_keeps (p : Sys2Proof.RxPacket) (b0 : Sys2Proof.AckBody) (s : State) (hK0 : Keeps q n b k s) :
    KeepsO q n b k (execPktAck p b0 s) := by
  unfold execPktAck
  repeat' (with_reducible first | assumption | apply takeAck_keeps | apply whileLit_keeps | apply KeepsO.next)

theorem returnAtomic_keeps (n0 : Nat) (q0 : Qp) (m : TxMessage) (w : Work) (prior : Sys2Proof.W64) (s : State) (hK0 : Keeps q n b k s) (k_mem : k.mem = none := by assumption) :
    Keeps q n b k (returnAtomic n0 q0 m w prior s) := by
  unfold returnAtomic
  repeat' (with_reducible first
    | assumption | apply retireAll_keeps | apply finishMessage_keeps | apply placeAt_keeps | apply Keeps.ite | intro _)

theorem keepPrior_keeps (n0 : Nat) (rec : Nat) (prior : Sys2Proof.W64) (s : State) (hK0 : Keeps q n b k s) :
    Keeps q n b k (keepPrior n0 rec prior s) := by
  unfold keepPrior
  repeat' (first
    | (with_reducible first | assumption)
    | (fail_if_no_progress refine Keeps.mk rfl ?_))

theorem finishAtomic_keeps (n0 : Nat) (q0 : Qp) (m : TxMessage) (w : Work) (p : Sys2Proof.RxPacket) (prior : Sys2Proof.W64) (s : State) (hK0 : Keeps q n b k s) (k_mem : k.mem = none := by assumption) (k_sched : k.sched = none := by assumption) :
    Keeps q n b k (finishAtomic n0 q0 m w p prior s) := by
  unfold finishAtomic
  repeat' (with_reducible first
    | assumption | apply keepPrior_keeps | apply returnAtomic_keeps | apply retireAll_keeps | apply finishMessage_keeps
    | apply sendNak_keeps | apply recvMod_keeps | apply failEntry_keeps | apply suspend_keeps | apply Keeps.ite | intro _)

theorem takeAtomicResp_keeps (p : Sys2Proof.RxPacket) (n0 : Nat) (q0 : Qp) (s : State) (hK0 : Keeps q n b k s) (k_mem : k.mem = none := by assumption) (k_sched : k.sched = none := by assumption) :
    Keeps q n b k (takeAtomicResp p n0 q0 s) := by
  unfold takeAtomicResp
  repeat' (first
    | (with_reducible first
        | assumption | apply finishAtomic_keeps | apply sealedArrive_keeps | apply sendNak_keeps | apply countQp_keeps | intro _)
    | split)

theorem ownSpace_keeps (kind : TxKind) (p : Sys2Proof.RxPacket) (k0 : Sys2Proof.RxPacket → Nat → Qp → State → State) (s : State) (hK0 : ∀ v0 v1 v2 v3, Keeps q n b k v3 → Keeps q n b k (k0 v0 v1 v2 v3)) (hK1 : Keeps q n b k s) (k_sched : k.sched = none := by assumption) :
    Keeps q n b k (ownSpace kind p k0 s) := by
  unfold ownSpace
  repeat' (first
    | (with_reducible first
        | assumption | apply hearAck_keeps | apply repeatNak_keeps | apply refuseOrDrop_keeps | apply refuseUnknown_keeps
        | apply countQp_keeps | apply countDrop_keeps | apply hK0 | apply Keeps.ite | intro _)
    | split)

theorem execPktAtomicResp_keeps (p : Sys2Proof.RxPacket) (s : State) (hK0 : Keeps q n b k s) (k_mem : k.mem = none := by assumption) (k_sched : k.sched = none := by assumption) :
    KeepsO q n b k (execPktAtomicResp p s) := by
  unfold execPktAtomicResp
  repeat' (with_reducible first
    | assumption | apply ownSpace_keeps | apply takeAtomicResp_keeps | apply whileLit_keeps | apply KeepsO.next | intro _)

theorem takeRnr_keeps (n0 : Nat) (q0 : Qp) (m : TxMessage) (s : State) (hK0 : Keeps q n b k s) :
    Keeps q n b k (takeRnr n0 q0 m s) := by
  unfold takeRnr
  repeat' (with_reducible first | assumption | apply messageMod_keeps | apply failEntry_keeps | apply Keeps.ite | intro _)

theorem takeReason_keeps (n0 : Nat) (q0 : Qp) (r : NakReason) (x : W32) (m : TxMessage) (s : State) (h : Keeps q n b k s) :
    Keeps q n b k (takeReason n0 q0 r x m s) := by
  have hf : Keeps q n b k (match nakStatus r with | some st => failEntry n0 m.work st 0 s | none => s) := by
    split
    · exact failEntry_keeps _ _ _ _ _ h
    · exact h
  cases r with
  | rnr => exact takeRnr_keeps _ _ _ _ h
  | faultWait =>
    exact Keeps.ite (c := q0.send.faultWait.isSome = true) (fun _ => h) (fun _ => sendMod_keeps _ _ _ h)
  | seqGap =>
    exact Keeps.ite (c := goBackN s q0 = true) (fun _ => losePacket_keeps _ _ _ (resendWhere_keeps _ _ _ h)) (fun _ => h)
  | qpNotReady => exact hf
  | keyInvalid => exact hf
  | keyStale => exact hf
  | accessDenied => exact hf
  | bounds => exact hf
  | translationFault => exact hf

theorem takeNak_keeps (p : Sys2Proof.RxPacket) (b0 : Sys2Proof.NakBody) (s : State) (hK0 : Keeps q n b k s) :
    Keeps q n b k (takeNak p b0 s) := by
  unfold takeNak
  repeat' (first
    | (with_reducible first
        | assumption | apply takeReason_keeps | apply hearAck_keeps | apply peerRetires_keeps | apply applyCum_keeps | apply countQp_keeps
        | apply countDrop_keeps | intro _)
    | dsimp only | split)

theorem execPktNak_keeps (p : Sys2Proof.RxPacket) (b0 : Sys2Proof.NakBody) (s : State) (hK0 : Keeps q n b k s) :
    KeepsO q n b k (execPktNak p b0 s) := by
  unfold execPktNak
  repeat' (with_reducible first | assumption | apply takeNak_keeps | apply whileLit_keeps | apply KeepsO.next)

theorem takeRepair_keeps (p0 : Sys2Proof.RxPacket) (b0 : Sys2Proof.RepairBody) (s : State) (hK0 : Keeps q n b k s) (k_sched : k.sched = none := by assumption) :
    Keeps q n b k (takeRepair p0 b0 s) := by
  unfold takeRepair
  repeat' (first
    | (with_reducible first
        | assumption | apply hearAck_keeps | apply serveRead_keeps | apply repeatNak_keeps | apply refuseKey_keeps
        | apply refuseMessage_keeps | apply sendNak_keeps | apply countQp_keeps | apply countDrop_keeps | apply Keeps.ite | intro _)
    | split)

theorem execPktReadRepair_keeps (p : Sys2Proof.RxPacket) (b0 : Sys2Proof.RepairBody) (s : State) (hK0 : Keeps q n b k s) (k_sched : k.sched = none := by assumption) :
    KeepsO q n b k (execPktReadRepair p b0 s) := by
  unfold execPktReadRepair
  repeat' (with_reducible first | assumption | apply takeRepair_keeps | apply whileLit_keeps | apply KeepsO.next)

theorem placeResponse_keeps (n0 : Nat) (q0 : Qp) (m : TxMessage) (w : Work) (p : Sys2Proof.RxPacket) (s : State) (hK0 : Keeps q n b k s) (k_mem : k.mem = none := by assumption) (k_sched : k.sched = none := by assumption) :
    Keeps q n b k (placeResponse n0 q0 m w p s) := by
  unfold placeResponse
  repeat' (first
    | (with_reducible first
        | assumption | apply gotResponses_keeps | apply sealedArrive_keeps | apply sendNak_keeps | apply recvMod_keeps
        | apply failEntry_keeps | apply placeAt_keeps | apply suspend_keeps | apply Keeps.ite | intro _)
    | split)

theorem takeReadResp_keeps (p : Sys2Proof.RxPacket) (n0 : Nat) (q0 : Qp) (s : State) (hK0 : Keeps q n b k s) (k_mem : k.mem = none := by assumption) (k_sched : k.sched = none := by assumption) :
    Keeps q n b k (takeReadResp p n0 q0 s) := by
  unfold takeReadResp
  repeat' (first
    | (with_reducible first
        | assumption | apply placeResponse_keeps | apply sendNak_keeps | apply countQp_keeps | apply Keeps.ite | intro _)
    | split)

theorem execPktReadResp_keeps (p : Sys2Proof.RxPacket) (s : State) (hK0 : Keeps q n b k s) (k_mem : k.mem = none := by assumption) (k_sched : k.sched = none := by assumption) :
    KeepsO q n b k (execPktReadResp p s) := by
  unfold execPktReadResp
  repeat' (with_reducible first
    | assumption | apply takeReadResp_keeps | apply ownSpace_keeps | apply whileLit_keeps | apply KeepsO.next | intro _)

theorem renewRead_keeps (n0 : Nat) (s : State) (r : TxMessage × TxPacket) (hK0 : Keeps q n b k s) (k_sched : k.sched = none := by assumption) :
    Keeps q n b k (renewRead n0 s r) := by
  unfold renewRead
  repeat' (first
    | (with_reducible first
        | assumption | apply sendRepair_keeps | apply sendMod_keeps | apply failEntry_keeps | apply Keeps.ite | intro _)
    | split)

theorem expireTimer_keeps (n0 : Nat) (s : State) (hK0 : Keeps q n b k s) (k_sched : k.sched = none := by assumption) :
    Keeps q n b k (expireTimer n0 s) := by
  unfold expireTimer
  repeat' (first
    | (with_reducible first
        | assumption | apply renewRead_keeps | apply loseAll_keeps | apply sendMod_keeps | apply ccMod_keeps | apply advanceTo_keeps
        | apply Keeps.foldl | intro _)
    | split)

theorem execRetransmitTimeout_keeps (qp : Nat) (s : State) (hK0 : Keeps q n b k s) (k_sched : k.sched = none := by assumption) :
    KeepsO q n b k (execRetransmitTimeout qp s) := by
  unfold execRetransmitTimeout
  repeat' (with_reducible first | assumption | apply expireTimer_keeps | apply whileLit_keeps | apply KeepsO.next)

theorem execRnrResend_keeps (qp : Nat) (s : State) (hK0 : Keeps q n b k s) :
    KeepsO q n b k (execRnrResend qp s) := by
  unfold execRnrResend
  repeat' (first
    | (with_reducible first
        | assumption | apply resendWhere_keeps | apply messageMod_keeps | apply whileLit_keeps | apply advanceTo_keeps | apply KeepsO.next)
    | split)

theorem execSilenceLimit_keeps (qp : Nat) (s : State) (hK0 : Keeps q n b k s) :
    KeepsO q n b k (execSilenceLimit qp s) := by
  unfold execSilenceLimit
  repeat' (first
    | (with_reducible first
        | assumption | apply failEntry_keeps | apply whileLit_keeps | apply advanceTo_keeps | apply KeepsO.next | intro _)
    | split)

theorem judgePaths_keeps (s : State) (hK0 : Keeps q n b k s) :
    Keeps q n b k (judgePaths s) := by
  unfold judgePaths
  repeat' (first
    | (with_reducible first | assumption)
    | (fail_if_no_progress refine Keeps.mk rfl ?_))

theorem doHostWatchdog_keeps (c : Cmd) (s : State) (hK0 : Keeps q n b k s) :
    KeepsC q n b k (doHostWatchdog c s) := by
  unfold doHostWatchdog
  try dsimp only
  repeat' (with_reducible first | assumption | apply needParam_keeps | apply cmdOk_keeps | apply fnMod_keeps)

theorem doRingCqCreate_keeps (c : Cmd) (s : State) (hK0 : Keeps q n b k s) :
    KeepsC q n b k (doRingCqCreate c s) := by
  unfold doRingCqCreate
  try dsimp only
  repeat' (first
    | (with_reducible first
        | assumption | apply cmdFail_keeps | apply KeepsC.done | apply KeepsC.deferred | apply KeepsC.later | apply KeepsC.ite
        | apply Keeps.foldl | apply Keeps.foldl_fst | apply Keeps.foldl_snd | apply Keeps.ite | intro _)
    | dsimp only | (fail_if_no_progress refine Keeps.mk rfl ?_))

theorem dropRingRecords_keeps (key : Nat) (s : State) (hK0 : Keeps q n b k s) (k_cache : k.cache = none := by assumption) :
    Keeps q n b k (dropRingRecords key s) := by
  unfold dropRingRecords
  try dsimp only
  repeat' (first
    | (with_reducible first
        | assumption | apply freeWork_keeps | apply Keeps.foldl | apply Keeps.foldl_fst | apply Keeps.foldl_snd | apply Keeps.ite | intro _)
    | dsimp only)

theorem doRingDestroy_keeps (c : Cmd) (s : State) (hK0 : Keeps q n b k s) (k_sqs : k.sqs = none := by assumption) (k_cache : k.cache = none := by assumption) :
    KeepsC q n b k (doRingDestroy c s) := by
  unfold doRingDestroy
  try dsimp only
  repeat' (first
    | (with_reducible first
        | assumption | apply dropRingRecords_keeps | apply cmdOk_keeps | apply cmdFail_keeps | apply emit_keeps | apply KeepsC.done
        | apply KeepsC.deferred | apply KeepsC.later | apply KeepsC.ite | apply Keeps.foldl | apply Keeps.foldl_fst | apply Keeps.foldl_snd
        | apply Keeps.ite | intro _)
    | dsimp only | (fail_if_no_progress refine Keeps.mk rfl ?_) | split)

theorem doRingModerate_keeps (c : Cmd) (s : State) (hK0 : Keeps q n b k s) :
    KeepsC q n b k (doRingModerate c s) := by
  unfold doRingModerate
  try dsimp only
  repeat' (with_reducible first | assumption | apply needParam_keeps | apply cmdOk_keeps | apply cqMod_keeps)

theorem doRingQuota_keeps (c : Cmd) (s : State) (hK0 : Keeps q n b k s) :
    KeepsC q n b k (doRingQuota c s) := by
  unfold doRingQuota
  try dsimp only
  repeat' (first
    | (with_reducible first
        | assumption | apply cmdOk_keeps | apply cmdFail_keeps | apply fnMod_keeps | apply KeepsC.done | apply KeepsC.deferred
        | apply KeepsC.later | apply KeepsC.ite | apply Keeps.foldl | apply Keeps.foldl_fst | apply Keeps.foldl_snd | apply Keeps.ite
        | intro _)
    | dsimp only)

theorem doRingRetry_keeps (c : Cmd) (s : State) (hK0 : Keeps q n b k s) :
    KeepsC q n b k (doRingRetry c s) := by
  unfold doRingRetry
  try dsimp only
  repeat' (with_reducible first | assumption | apply needParam_keeps | apply cmdOk_keeps | apply fnMod_keeps)

theorem doRingSched_keeps (c : Cmd) (s : State) (hK0 : Keeps q n b k s) (k_sqs : k.sqs = none := by assumption) :
    KeepsC q n b k (doRingSched c s) := by
  unfold doRingSched
  try dsimp only
  repeat' (first
    | (with_reducible first
        | assumption | apply needParam_keeps | apply cmdOk_keeps | apply KeepsC.done | apply KeepsC.deferred | apply KeepsC.later
        | apply KeepsC.ite | apply Keeps.foldl | apply Keeps.foldl_fst | apply Keeps.foldl_snd | apply Keeps.ite | intro _)
    | dsimp only | (fail_if_no_progress refine Keeps.mk rfl ?_))

theorem doRingSqCreate_keeps (c : Cmd) (s : State) (hK0 : Keeps q n b k s) (k_sqs : k.sqs = none := by assumption) :
    KeepsC q n b k (doRingSqCreate c s) := by
  unfold doRingSqCreate
  try dsimp only
  repeat' (first
    | (with_reducible first
        | assumption | apply cmdFail_keeps | apply emitHost_keeps | apply KeepsC.done | apply KeepsC.deferred | apply KeepsC.later
        | apply KeepsC.ite | apply Keeps.foldl | apply Keeps.foldl_fst | apply Keeps.foldl_snd | apply Keeps.ite | intro _)
    | dsimp only | (fail_if_no_progress refine Keeps.mk rfl ?_) | split)

theorem execHostWatchdog_keeps (c : Cmd) (s : State) (hK0 : Keeps q n b k s) :
    KeepsO q n b k (execHostWatchdog c s) := by
  unfold execHostWatchdog
  try dsimp only
  repeat' (with_reducible first | assumption | apply doHostWatchdog_keeps | apply runCmd_keeps | apply KeepsO.next)

theorem execModTimeExpiry_keeps (fn : Nat) (cq : Nat) (s : State) (hK0 : Keeps q n b k s) :
    KeepsO q n b k (execModTimeExpiry fn cq s) := by
  unfold execModTimeExpiry
  try dsimp only
  repeat' (first
    | (with_reducible first
        | assumption | apply whileLit_keeps | apply judgeCq_keeps | apply advanceTo_keeps | apply KeepsO.next | apply KeepsO.ite
        | apply KeepsO.fault | apply KeepsO.refused | apply Keeps.foldl | apply Keeps.foldl_fst | apply Keeps.foldl_snd | apply Keeps.ite
        | refine KeepsO.elim ?_ (by with_reducible assumption) | intro _)
    | dsimp only | (fail_if_no_progress refine Keeps.mk rfl ?_) | split)

theorem execRingCqCreate_keeps (c : Cmd) (s : State) (hK0 : Keeps q n b k s) :
    KeepsO q n b k (execRingCqCreate c s) := by
  unfold execRingCqCreate
  try dsimp only
  repeat' (with_reducible first | assumption | apply doRingCqCreate_keeps | apply runCmd_keeps | apply KeepsO.next)

theorem execRingDestroy_keeps (c : Cmd) (s : State) (hK0 : Keeps q n b k s) (k_sqs : k.sqs = none := by assumption) (k_cache : k.cache = none := by assumption) :
    KeepsO q n b k (execRingDestroy c s) := by
  unfold execRingDestroy
  try dsimp only
  repeat' (first
    | (with_reducible first
        | assumption | apply doRingDestroy_keeps | apply runCmd_keeps | apply KeepsO.next | apply KeepsO.ite | apply KeepsO.fault
        | apply KeepsO.refused | apply Keeps.foldl | apply Keeps.foldl_fst | apply Keeps.foldl_snd | apply Keeps.ite | intro _)
    | dsimp only)

theorem execRingModerate_keeps (c : Cmd) (s : State) (hK0 : Keeps q n b k s) :
    KeepsO q n b k (execRingModerate c s) := by
  unfold execRingModerate
  try dsimp only
  repeat' (first
    | (with_reducible first
        | assumption | apply doRingModerate_keeps | apply runCmd_keeps | apply consumeSlot_keeps | apply judgeCq_keeps | apply KeepsO.next
        | apply KeepsO.ite | apply KeepsO.fault | apply KeepsO.refused | apply Keeps.foldl | apply Keeps.foldl_fst | apply Keeps.foldl_snd
        | apply Keeps.ite | intro _)
    | dsimp only)

theorem execRingQuota_keeps (c : Cmd) (s : State) (hK0 : Keeps q n b k s) :
    KeepsO q n b k (execRingQuota c s) := by
  unfold execRingQuota
  try dsimp only
  repeat' (with_reducible first | assumption | apply doRingQuota_keeps | apply runCmd_keeps | apply KeepsO.next)

theorem execRingRetry_keeps (c : Cmd) (s : State) (hK0 : Keeps q n b k s) :
    KeepsO q n b k (execRingRetry c s) := by
  unfold execRingRetry
  try dsimp only
  repeat' (with_reducible first | assumption | apply doRingRetry_keeps | apply runCmd_keeps | apply KeepsO.next)

theorem execRingSched_keeps (c : Cmd) (s : State) (hK0 : Keeps q n b k s) (k_sqs : k.sqs = none := by assumption) :
    KeepsO q n b k (execRingSched c s) := by
  unfold execRingSched
  try dsimp only
  repeat' (first
    | (with_reducible first
        | assumption | apply doRingSched_keeps | apply runCmd_keeps | apply KeepsO.next | apply KeepsO.ite | apply KeepsO.fault
        | apply KeepsO.refused | apply Keeps.foldl | apply Keeps.foldl_fst | apply Keeps.foldl_snd | apply Keeps.ite | intro _)
    | dsimp only)

theorem execRingSqCreate_keeps (c : Cmd) (s : State) (hK0 : Keeps q n b k s) (k_sqs : k.sqs = none := by assumption) :
    KeepsO q n b k (execRingSqCreate c s) := by
  unfold execRingSqCreate
  try dsimp only
  repeat' (first
    | (with_reducible first
        | assumption | apply doRingSqCreate_keeps | apply runCmd_keeps | apply KeepsO.next | apply KeepsO.ite | apply KeepsO.fault
        | apply KeepsO.refused | apply Keeps.foldl | apply Keeps.foldl_fst | apply Keeps.foldl_snd | apply Keeps.ite | intro _)
    | dsimp only)

theorem touchWatchdog_keeps (fn : Nat) (s : State) (hK0 : Keeps q n b k s) :
    Keeps q n b k (touchWatchdog fn s) := by
  unfold touchWatchdog
  try dsimp only
  repeat' (with_reducible first | assumption | apply fnMod_keeps)

theorem readHeadOf_keeps (fn : Nat) (ring : Nat) (head : Option Sys2Proof.W32) (s : State) (hK0 : Keeps q n b k s) (k_cache : k.cache = none := by assumption) :
    Keeps q n b k (readHeadOf fn ring head s) := by
  unfold readHeadOf
  try dsimp only
  repeat' (first
    | (with_reducible first
        | assumption | apply readCqHead_keeps | apply Keeps.foldl | apply Keeps.foldl_fst | apply Keeps.foldl_snd | apply Keeps.ite
        | intro _)
    | dsimp only | (fail_if_no_progress refine Keeps.mk rfl ?_) | split)

theorem scanRing_keeps (key : Nat) (l : List Sys2Proof.W512) (s : State) (hK0 : Keeps q n b k s) (k_sqs : k.sqs = none := by assumption) :
    Keeps q n b k (scanRing key l s) := by
  unfold scanRing
  try dsimp only
  repeat' (first
    | (with_reducible first | assumption | apply Keeps.foldl | apply Keeps.foldl_fst | apply Keeps.foldl_snd | apply Keeps.ite | intro _)
    | dsimp only | (fail_if_no_progress refine Keeps.mk rfl ?_) | split)

theorem ringDoorbell_keeps (fn : Nat) (ring : Nat) (width : Nat) (entries : List Sys2Proof.W512) (head : Option Sys2Proof.W32) (s : State) (hK0 : Keeps q n b k s) (k_sqs : k.sqs = none := by assumption) (k_cache : k.cache = none := by assumption) :
    Keeps q n b k (ringDoorbell fn ring width entries head s) := by
  unfold ringDoorbell
  try dsimp only
  repeat' (first
    | (with_reducible first
        | assumption | apply scanRing_keeps | apply readHeadOf_keeps | apply Keeps.foldl | apply Keeps.foldl_fst | apply Keeps.foldl_snd
        | apply Keeps.ite | intro _)
    | dsimp only | (fail_if_no_progress refine Keeps.mk rfl ?_))

theorem execSqDoorbell_keeps (fn : Nat) (offset : Nat) (width : Nat) (x____Sys2Proof_Machine_Rings_2078196991__hygCtx__hyg_5 : Sys2Proof.W64) (entries : List Sys2Proof.W512) (head : Option Sys2Proof.W32) (s : State) (hK0 : Keeps q n b k s) (k_sqs : k.sqs = none := by assumption) (k_cache : k.cache = none := by assumption) :
    KeepsO q n b k (execSqDoorbell fn offset width x____Sys2Proof_Machine_Rings_2078196991__hygCtx__hyg_5 entries head s) := by
  unfold execSqDoorbell
  try dsimp only
  repeat' (first
    | (with_reducible first
        | assumption | apply ringDoorbell_keeps | apply touchWatchdog_keeps | apply whileLit_keeps | apply hearHost_keeps
        | apply KeepsO.next | apply KeepsO.ite | apply KeepsO.fault | apply KeepsO.refused | apply Keeps.foldl | apply Keeps.foldl_fst
        | apply Keeps.foldl_snd | apply Keeps.ite | refine KeepsO.elim ?_ (by with_reducible assumption) | intro _)
    | dsimp only | (fail_if_no_progress refine Keeps.mk rfl ?_) | split)

theorem ringDoorbellLevel1_keeps (fn : Nat) (ring : Nat) (width : Nat) (value : Sys2Proof.W64) (entries : List Sys2Proof.W512) (head : Option Sys2Proof.W32) (s : State) (hK0 : Keeps q n b k s) (k_sqs : k.sqs = none := by assumption) (k_cache : k.cache = none := by assumption) :
    Keeps q n b k (ringDoorbellLevel1 fn ring width value entries head s) := by
  unfold ringDoorbellLevel1
  try dsimp only
  repeat' (first
    | (with_reducible first
        | assumption | apply readHeadOf_keeps | apply raiseEvent_keeps | apply Keeps.foldl | apply Keeps.foldl_fst | apply Keeps.foldl_snd
        | apply Keeps.ite | intro _)
    | dsimp only | (fail_if_no_progress refine Keeps.mk rfl ?_) | split)

theorem execSqDoorbellLevel1_keeps (fn : Nat) (offset : Nat) (width : Nat) (value : Sys2Proof.W64) (entries : List Sys2Proof.W512) (head : Option Sys2Proof.W32) (s : State) (hK0 : Keeps q n b k s) (k_sqs : k.sqs = none := by assumption) (k_cache : k.cache = none := by assumption) :
    KeepsO q n b k (execSqDoorbellLevel1 fn offset width value entries head s) := by
  unfold execSqDoorbellLevel1
  try dsimp only
  repeat' (first
    | (with_reducible first
        | assumption | apply ringDoorbellLevel1_keeps | apply touchWatchdog_keeps | apply whileLit_keeps | apply hearHost_keeps
        | apply KeepsO.next | apply KeepsO.ite | apply KeepsO.fault | apply KeepsO.refused | apply Keeps.foldl | apply Keeps.foldl_fst
        | apply Keeps.foldl_snd | apply Keeps.ite | refine KeepsO.elim ?_ (by with_reducible assumption) | intro _)
    | dsimp only | (fail_if_no_progress refine Keeps.mk rfl ?_) | split)

theorem rereadRing_keeps (fn : Nat) (ring : Nat) (entries : List Sys2Proof.W512) (s : State) (hK0 : Keeps q n b k s) (k_sqs : k.sqs = none := by assumption) :
    Keeps q n b k (rereadRing fn ring entries s) := by
  unfold rereadRing
  try dsimp only
  repeat' (first
    | (with_reducible first
        | assumption | apply scanRing_keeps | apply advanceTo_keeps | apply Keeps.foldl | apply Keeps.foldl_fst | apply Keeps.foldl_snd
        | apply Keeps.ite | intro _)
    | dsimp only | (fail_if_no_progress refine Keeps.mk rfl ?_) | split)

end Sys2Proof.Machine
end

