-- ==== Sys2Proof/Laws/KeepsDevice.lean ====
section
/-! SUPPORT. What each function of Machine/Device.lean, Machine/Qos.lean, Machine/Regions.lean, Machine/Qps.lean, Machine/Admission.lean keeps: the parts of State that stand in `Kept`, the queue, and the invariant. -/

set_option linter.unusedTactic false
set_option linter.unreachableTactic false
set_option linter.unusedVariables false
namespace Sys2Proof.Machine
set_option Elab.async false
variable {q : List Instr} {n : Nat} {b : Bool} {k : Kept}

theorem attachRecords_keeps (fn : Nat) (hpa : Nat) (s : State) (hK0 : Keeps q n b k s) :
    Keeps q n b k (attachRecords fn hpa s) := by
  unfold attachRecords
  try dsimp only
  repeat' (first
    | (with_reducible first
        | assumption | apply emit_keeps | apply Keeps.foldl | apply Keeps.foldl_fst | apply Keeps.foldl_snd | apply Keeps.ite | intro _)
    | dsimp only)

theorem attachSignals_keeps (fn : Nat) (channels : List Nat) (rings : List Nat) (s : State) (hK0 : Keeps q n b k s) (k_srqs : k.srqs = none := by assumption) :
    Keeps q n b k (attachSignals fn channels rings s) := by
  unfold attachSignals
  try dsimp only
  repeat' (first
    | (with_reducible first
        | assumption | apply signalVec_keeps | apply fnMod_keeps | apply Keeps.foldl | apply Keeps.foldl_fst | apply Keeps.foldl_snd
        | apply Keeps.ite | intro _)
    | dsimp only | (fail_if_no_progress refine Keeps.mk rfl ?_) | split)

theorem cfgWrite_keeps (fn : Nat) (r : Sys2Proof.CfgReg) (v : Nat) (s : State) (hK0 : Keeps q n b k s) (k_pcie : k.pcie = none := by assumption) :
    Keeps q n b k (cfgWrite fn r v s) := by
  unfold cfgWrite
  try dsimp only
  repeat' (first
    | (with_reducible first
        | assumption | apply fnMod_keeps | apply Keeps.foldl | apply Keeps.foldl_fst | apply Keeps.foldl_snd | apply Keeps.ite | intro _)
    | dsimp only | (fail_if_no_progress refine Keeps.mk rfl ?_) | split)

theorem deliverCompletions_keeps (fn : Nat) (s : State) (hK0 : Keeps q n b k s) :
    Keeps q n b k (deliverCompletions fn s) := by
  unfold deliverCompletions
  try dsimp only
  repeat' (first
    | (with_reducible first
        | assumption | apply writeCqe_keeps | apply Keeps.foldl | apply Keeps.foldl_fst | apply Keeps.foldl_snd | apply Keeps.ite | intro _)
    | dsimp only | (fail_if_no_progress refine Keeps.mk rfl ?_) | split)

theorem deliverReplies_keeps (signal : Bool) (fn : Nat) (s : State) (hK0 : Keeps q n b k s) :
    Keeps q n b k (deliverReplies signal fn s) := by
  unfold deliverReplies
  try dsimp only
  repeat' (first
    | (with_reducible first
        | assumption | apply journalFree_keeps | apply writeReply_keeps | apply Keeps.foldl | apply Keeps.foldl_fst | apply Keeps.foldl_snd
        | apply Keeps.ite | intro _)
    | dsimp only | (fail_if_no_progress refine Keeps.mk rfl ?_))

theorem disableChannel_keeps (fn : Nat) (ctrl : Nat) (s : State) (hK0 : Keeps q n b k s) :
    Keeps q n b k (disableChannel fn ctrl s) := by
  unfold disableChannel
  try dsimp only
  repeat' (first
    | (with_reducible first
        | assumption | apply chanMod_keeps | apply Keeps.foldl | apply Keeps.foldl_fst | apply Keeps.foldl_snd | apply Keeps.ite | intro _)
    | dsimp only)

theorem doDevProfile_keeps (c : Cmd) (s : State) (hK0 : Keeps q n b k s) :
    KeepsC q n b k (doDevProfile c s) := by
  unfold doDevProfile
  try dsimp only
  repeat' (first
    | (with_reducible first
        | assumption | apply cmdFail_keeps | apply KeepsC.done | apply KeepsC.deferred | apply KeepsC.later | apply KeepsC.ite
        | apply Keeps.foldl | apply Keeps.foldl_fst | apply Keeps.foldl_snd | apply Keeps.ite | intro _)
    | dsimp only | (fail_if_no_progress refine Keeps.mk rfl ?_) | split)

theorem doDevQuery_keeps (c : Cmd) (s : State) (hK0 : Keeps q n b k s) :
    KeepsC q n b k (doDevQuery c s) := by
  unfold doDevQuery
  try dsimp only
  repeat' (with_reducible first | assumption | apply needParam_keeps | apply writeResult_keeps | apply KeepsC.done)

theorem doDevReset_keeps (c : Cmd) (s : State) (hK0 : Keeps q n b k s) :
    KeepsC q n b k (doDevReset c s) := by
  unfold doDevReset
  try dsimp only
  repeat' (first
    | (with_reducible first
        | assumption | apply needParam_keeps | apply cmdOk_keeps | apply KeepsC.done | apply KeepsC.deferred | apply KeepsC.later
        | apply KeepsC.ite | apply Keeps.foldl | apply Keeps.foldl_fst | apply Keeps.foldl_snd | apply Keeps.ite | intro _)
    | dsimp only | (fail_if_no_progress refine Keeps.mk rfl ?_))

theorem rewindRings_keeps (fn : Nat) (s : State) (hK0 : Keeps q n b k s) (k_sqs : k.sqs = none := by assumption) :
    Keeps q n b k (rewindRings fn s) := by
  unfold rewindRings
  try dsimp only
  repeat' (first
    | (with_reducible first
        | assumption | apply emit_keeps | apply spaceMod_keeps | apply Keeps.foldl | apply Keeps.foldl_fst | apply Keeps.foldl_snd
        | apply Keeps.ite | intro _)
    | dsimp only | (fail_if_no_progress refine Keeps.mk rfl ?_) | split)

theorem releaseReplies_keeps (fn : Nat) (s : State) (hK0 : Keeps q n b k s) :
    Keeps q n b k (releaseReplies fn s) := by
  unfold releaseReplies
  try dsimp only
  repeat' (first
    | (with_reducible first | assumption | apply Keeps.foldl | apply Keeps.foldl_fst | apply Keeps.foldl_snd | apply Keeps.ite | intro _)
    | dsimp only | (fail_if_no_progress refine Keeps.mk rfl ?_))

theorem doFnAttach_keeps (c : Cmd) (s : State) (hK0 : Keeps q n b k s) (k_sqs : k.sqs = none := by assumption) (k_srqs : k.srqs = none := by assumption) :
    KeepsC q n b k (doFnAttach c s) := by
  unfold doFnAttach
  try dsimp only
  repeat' (first
    | (with_reducible first
        | assumption | apply releaseReplies_keeps | apply rewindRings_keeps | apply deliverReplies_keeps | apply deliverCompletions_keeps
        | apply attachSignals_keeps | apply attachRecords_keeps | apply replyNow_keeps | apply cmdFail_keeps | apply fnMod_keeps
        | apply KeepsC.done | apply KeepsC.deferred | apply KeepsC.later | apply KeepsC.ite | apply Keeps.foldl | apply Keeps.foldl_fst
        | apply Keeps.foldl_snd | apply Keeps.ite | intro _)
    | dsimp only | (fail_if_no_progress refine Keeps.mk rfl ?_) | split)

theorem doFnLevel_keeps (c : Cmd) (s : State) (hK0 : Keeps q n b k s) :
    KeepsC q n b k (doFnLevel c s) := by
  unfold doFnLevel
  try dsimp only
  repeat' (first
    | (with_reducible first
        | assumption | apply cmdFail_keeps | apply fnMod_keeps | apply KeepsC.done | apply KeepsC.deferred | apply KeepsC.later
        | apply KeepsC.ite | apply Keeps.foldl | apply Keeps.foldl_fst | apply Keeps.foldl_snd | apply Keeps.ite | intro _)
    | dsimp only)

theorem doFnQuery_keeps (c : Cmd) (s : State) (hK0 : Keeps q n b k s) :
    KeepsC q n b k (doFnQuery c s) := by
  unfold doFnQuery
  try dsimp only
  repeat' (first
    | (with_reducible first
        | assumption | apply cmdFail_keeps | apply KeepsC.done | apply KeepsC.deferred | apply KeepsC.later | apply KeepsC.ite
        | apply Keeps.foldl | apply Keeps.foldl_fst | apply Keeps.foldl_snd | apply Keeps.ite | intro _)
    | dsimp only | (fail_if_no_progress refine Keeps.mk rfl ?_) | split)

theorem doFnRetain_keeps (c : Cmd) (s : State) (hK0 : Keeps q n b k s) :
    KeepsC q n b k (doFnRetain c s) := by
  unfold doFnRetain
  try dsimp only
  repeat' (with_reducible first | assumption | apply needParam_keeps | apply fnMod_keeps | apply KeepsC.done)

theorem doFnStart_keeps (found : List Sys2Proof.RingRead) (c : Cmd) (s : State) (hK0 : Keeps q n b k s) (k_sqs : k.sqs = none := by assumption) :
    KeepsC q n b k (doFnStart found c s) := by
  unfold doFnStart
  try dsimp only
  repeat' (first
    | (with_reducible first
        | assumption | apply scanRing_keeps | apply takeFresh_keeps | apply fnMod_keeps | apply KeepsC.done | apply KeepsC.deferred
        | apply KeepsC.later | apply KeepsC.ite | apply Keeps.foldl | apply Keeps.foldl_fst | apply Keeps.foldl_snd | apply Keeps.ite
        | intro _)
    | dsimp only | (fail_if_no_progress refine Keeps.mk rfl ?_))

theorem stopRings_keeps (fn : Nat) (s : State) (hK0 : Keeps q n b k s) (k_sqs : k.sqs = none := by assumption) :
    Keeps q n b k (stopRings fn s) := by
  unfold stopRings
  try dsimp only
  repeat' (first
    | (with_reducible first | assumption | apply Keeps.foldl | apply Keeps.foldl_fst | apply Keeps.foldl_snd | apply Keeps.ite | intro _)
    | dsimp only | (fail_if_no_progress refine Keeps.mk rfl ?_))

theorem doFnStop_keeps (c : Cmd) (s : State) (hK0 : Keeps q n b k s) (k_sqs : k.sqs = none := by assumption) :
    KeepsC q n b k (doFnStop c s) := by
  unfold doFnStop
  try dsimp only
  repeat' (with_reducible first | assumption | apply stopRings_keeps | apply fnMod_keeps | apply KeepsC.done | apply KeepsC.deferred)

theorem lateReplies_keeps (fn : Nat) (s : State) (hK0 : Keeps q n b k s) :
    Keeps q n b k (lateReplies fn s) := by
  unfold lateReplies
  try dsimp only
  repeat' (first
    | (with_reducible first
        | assumption | apply releaseReplies_keeps | apply deliverReplies_keeps | apply Keeps.foldl | apply Keeps.foldl_fst
        | apply Keeps.foldl_snd | apply Keeps.ite | intro _)
    | dsimp only)

theorem enableChannel_keeps (fn : Nat) (ctrl : Nat) (s : State) (hK0 : Keeps q n b k s) :
    Keeps q n b k (enableChannel fn ctrl s) := by
  unfold enableChannel
  try dsimp only
  repeat' (first
    | (with_reducible first
        | assumption | apply lateReplies_keeps | apply chanMod_keeps | apply Keeps.foldl | apply Keeps.foldl_fst | apply Keeps.foldl_snd
        | apply Keeps.ite | intro _)
    | dsimp only)

theorem execChannelDisable_keeps (fn : Nat) (value : Sys2Proof.W32) (s : State) (hK0 : Keeps q n b k s) :
    KeepsO q n b k (execChannelDisable fn value s) := by
  unfold execChannelDisable
  try dsimp only
  repeat' (first
    | (with_reducible first
        | assumption | apply disableChannel_keeps | apply hearHost_keeps | apply KeepsO.next | apply KeepsO.ite | apply KeepsO.fault
        | apply KeepsO.refused | apply Keeps.foldl | apply Keeps.foldl_fst | apply Keeps.foldl_snd | apply Keeps.ite | intro _)
    | dsimp only)

theorem execChannelDownComplete_keeps (fn : Nat) (s : State) (hK0 : Keeps q n b k s) :
    KeepsO q n b k (execChannelDownComplete fn s) := by
  unfold execChannelDownComplete
  try dsimp only
  repeat' (first
    | (with_reducible first
        | assumption | apply chanMod_keeps | apply KeepsO.next | apply KeepsO.ite | apply KeepsO.fault | apply KeepsO.refused
        | apply Keeps.foldl | apply Keeps.foldl_fst | apply Keeps.foldl_snd | apply Keeps.ite | intro _)
    | dsimp only | (fail_if_no_progress refine Keeps.mk rfl ?_) | split)

theorem execChannelEnable_keeps (fn : Nat) (value : Sys2Proof.W32) (s : State) (hK0 : Keeps q n b k s) :
    KeepsO q n b k (execChannelEnable fn value s) := by
  unfold execChannelEnable
  try dsimp only
  repeat' (first
    | (with_reducible first
        | assumption | apply enableChannel_keeps | apply hearHost_keeps | apply KeepsO.next | apply KeepsO.ite | apply KeepsO.fault
        | apply KeepsO.refused | apply Keeps.foldl | apply Keeps.foldl_fst | apply Keeps.foldl_snd | apply Keeps.ite | intro _)
    | dsimp only)

theorem execDevPps_keeps (c : Cmd) (s : State) (hK0 : Keeps q n b k s) :
    KeepsO q n b k (execDevPps c s) := by
  unfold execDevPps
  try dsimp only
  repeat' (first
    | (with_reducible first
        | assumption | apply runCmd_keeps | apply KeepsO.next | apply KeepsO.ite | apply KeepsO.fault | apply KeepsO.refused
        | apply Keeps.foldl | apply Keeps.foldl_fst | apply Keeps.foldl_snd | apply Keeps.ite | intro _)
    | dsimp only | (fail_if_no_progress refine Keeps.mk rfl ?_))

theorem execDevProfile_keeps (c : Cmd) (s : State) (hK0 : Keeps q n b k s) :
    KeepsO q n b k (execDevProfile c s) := by
  unfold execDevProfile
  try dsimp only
  repeat' (with_reducible first | assumption | apply doDevProfile_keeps | apply runCmd_keeps | apply KeepsO.next)

theorem execDevQuery_keeps (c : Cmd) (s : State) (hK0 : Keeps q n b k s) :
    KeepsO q n b k (execDevQuery c s) := by
  unfold execDevQuery
  try dsimp only
  repeat' (with_reducible first | assumption | apply doDevQuery_keeps | apply runCmd_keeps | apply KeepsO.next)

theorem execDevReset_keeps (c : Cmd) (s : State) (hK0 : Keeps q n b k s) :
    KeepsO q n b k (execDevReset c s) := by
  unfold execDevReset
  try dsimp only
  repeat' (with_reducible first | assumption | apply doDevReset_keeps | apply runCmd_keeps | apply KeepsO.next)

theorem execDevTime_keeps (c : Cmd) (s : State) (hK0 : Keeps q n b k s) :
    KeepsO q n b k (execDevTime c s) := by
  unfold execDevTime
  try dsimp only
  repeat' (first
    | (with_reducible first
        | assumption | apply runCmd_keeps | apply KeepsO.next | apply KeepsO.ite | apply KeepsO.fault | apply KeepsO.refused
        | apply Keeps.foldl | apply Keeps.foldl_fst | apply Keeps.foldl_snd | apply Keeps.ite | intro _)
    | dsimp only | (fail_if_no_progress refine Keeps.mk rfl ?_))

theorem execFnAttach_keeps (c : Cmd) (s : State) (hK0 : Keeps q n b k s) (k_sqs : k.sqs = none := by assumption) (k_srqs : k.srqs = none := by assumption) :
    KeepsO q n b k (execFnAttach c s) := by
  unfold execFnAttach
  try dsimp only
  repeat' (first
    | (with_reducible first
        | assumption | apply doFnAttach_keeps | apply runCmd_keeps | apply consumeSlot_keeps | apply pumpPartition_keeps | apply KeepsO.next
        | apply KeepsO.ite | apply KeepsO.fault | apply KeepsO.refused | apply Keeps.foldl | apply Keeps.foldl_fst | apply Keeps.foldl_snd
        | apply Keeps.ite | intro _)
    | dsimp only)

theorem execFnLevel_keeps (c : Cmd) (s : State) (hK0 : Keeps q n b k s) :
    KeepsO q n b k (execFnLevel c s) := by
  unfold execFnLevel
  try dsimp only
  repeat' (with_reducible first | assumption | apply doFnLevel_keeps | apply runCmd_keeps | apply KeepsO.next)

theorem execFnQuery_keeps (c : Cmd) (s : State) (hK0 : Keeps q n b k s) :
    KeepsO q n b k (execFnQuery c s) := by
  unfold execFnQuery
  try dsimp only
  repeat' (with_reducible first | assumption | apply doFnQuery_keeps | apply runCmd_keeps | apply KeepsO.next)

theorem execFnRetain_keeps (c : Cmd) (s : State) (hK0 : Keeps q n b k s) :
    KeepsO q n b k (execFnRetain c s) := by
  unfold execFnRetain
  try dsimp only
  repeat' (with_reducible first | assumption | apply doFnRetain_keeps | apply runCmd_keeps | apply KeepsO.next)

theorem execFnStart_keeps (c : Cmd) (found : List Sys2Proof.RingRead) (s : State) (hK0 : Keeps q n b k s) (k_sqs : k.sqs = none := by assumption) :
    KeepsO q n b k (execFnStart c found s) := by
  unfold execFnStart
  try dsimp only
  repeat' (first
    | (with_reducible first
        | assumption | apply doFnStart_keeps | apply runCmd_keeps | apply KeepsO.next | apply KeepsO.ite | apply KeepsO.fault
        | apply KeepsO.refused | apply Keeps.foldl | apply Keeps.foldl_fst | apply Keeps.foldl_snd | apply Keeps.ite | intro _)
    | dsimp only)

theorem execFnStop_keeps (c : Cmd) (s : State) (hK0 : Keeps q n b k s) (k_sqs : k.sqs = none := by assumption) :
    KeepsO q n b k (execFnStop c s) := by
  unfold execFnStop
  try dsimp only
  repeat' (first
    | (with_reducible first
        | assumption | apply doFnStop_keeps | apply runCmd_keeps | apply KeepsO.next | apply KeepsO.ite | apply KeepsO.fault
        | apply KeepsO.refused | apply Keeps.foldl | apply Keeps.foldl_fst | apply Keeps.foldl_snd | apply Keeps.ite | intro _)
    | dsimp only)

theorem execFnStopQuiesced_keeps (fn : Nat) (s : State) (hK0 : Keeps q n b k s) :
    KeepsO q n b k (execFnStopQuiesced fn s) := by
  unfold execFnStopQuiesced
  try dsimp only
  repeat' (first
    | (with_reducible first
        | assumption | apply whileLit_keeps | apply finishCmds_keeps | apply fnMod_keeps | apply KeepsO.next | apply KeepsO.ite
        | apply KeepsO.fault | apply KeepsO.refused | apply Keeps.foldl | apply Keeps.foldl_fst | apply Keeps.foldl_snd | apply Keeps.ite
        | refine KeepsO.elim ?_ (by with_reducible assumption) | intro _)
    | dsimp only)

theorem execPpsEdge_keeps (highNs : Nat) (s : State) (h : Keeps q n b k s) : KeepsO q n b k (execPpsEdge highNs s) := by
  unfold execPpsEdge
  refine KeepsO.ite (fun _ => KeepsO.next h) fun _ => KeepsO.next (Keeps.mk rfl h rfl ?_ ?_)
  all_goals
    dsimp only
    repeat' (first | rfl | split)

theorem startScan_keeps (fn : Nat) (s : State) (hK0 : Keeps q n b k s) :
    Keeps q n b k (startScan fn s) := by
  unfold startScan
  try dsimp only
  repeat' (with_reducible first | assumption | apply chanMod_keeps)

theorem takeReplyHead_keeps (fn : Nat) (v : Nat) (s : State) (hK0 : Keeps q n b k s) :
    Keeps q n b k (takeReplyHead fn v s) := by
  unfold takeReplyHead
  try dsimp only
  repeat' (first
    | (with_reducible first
        | assumption | apply startScan_keeps | apply chanMod_keeps | apply Keeps.foldl | apply Keeps.foldl_fst | apply Keeps.foldl_snd
        | apply Keeps.ite | intro _)
    | dsimp only | (fail_if_no_progress refine Keeps.mk rfl ?_) | split)

theorem writeCtrl_keeps (fn : Nat) (ctrl : Nat) (s : State) (hK0 : Keeps q n b k s) :
    Keeps q n b k (writeCtrl fn ctrl s) := by
  unfold writeCtrl
  try dsimp only
  repeat' (first
    | (with_reducible first
        | assumption | apply enableChannel_keeps | apply disableChannel_keeps | apply Keeps.foldl | apply Keeps.foldl_fst
        | apply Keeps.foldl_snd | apply Keeps.ite | intro _)
    | dsimp only)

theorem writeWord_keeps (fn : Nat) (off : Nat) (v : Nat) (s : State) (hK0 : Keeps q n b k s) :
    Keeps q n b k (writeWord fn off v s) := by
  unfold writeWord
  try dsimp only
  repeat' (first
    | (with_reducible first
        | assumption | apply writeCtrl_keeps | apply takeReplyHead_keeps | apply startScan_keeps | apply touchWatchdog_keeps
        | apply chanMod_keeps | apply Keeps.foldl | apply Keeps.foldl_fst | apply Keeps.foldl_snd | apply Keeps.ite | intro _)
    | dsimp only | (fail_if_no_progress refine Keeps.mk rfl ?_) | split)

theorem writeDouble_keeps (fn : Nat) (off : Nat) (v : Nat) (s : State) (hK0 : Keeps q n b k s) :
    Keeps q n b k (writeDouble fn off v s) := by
  unfold writeDouble
  try dsimp only
  repeat' (first
    | (with_reducible first
        | assumption | apply writeWord_keeps | apply Keeps.foldl | apply Keeps.foldl_fst | apply Keeps.foldl_snd | apply Keeps.ite | intro _)
    | dsimp only | (fail_if_no_progress refine Keeps.mk rfl ?_) | split)

theorem writeBar0_keeps (fn : Nat) (offset : Nat) (width : Nat) (v : Sys2Proof.W64) (s : State) (hK0 : Keeps q n b k s) (k_sqs : k.sqs = none := by assumption) (k_cache : k.cache = none := by assumption) :
    Keeps q n b k (writeBar0 fn offset width v s) := by
  unfold writeBar0
  try dsimp only
  repeat' (first
    | (with_reducible first
        | assumption | apply writeDouble_keeps | apply writeWord_keeps | apply ringDoorbellLevel1_keeps | apply ringDoorbell_keeps
        | apply touchWatchdog_keeps | apply Keeps.foldl | apply Keeps.foldl_fst | apply Keeps.foldl_snd | apply Keeps.ite | intro _)
    | dsimp only | (fail_if_no_progress refine Keeps.mk rfl ?_) | split)

theorem sendPending_keeps (fn : Nat) (v : Nat) (s : State) (hK0 : Keeps q n b k s) :
    Keeps q n b k (sendPending fn v s) := by
  unfold sendPending
  try dsimp only
  repeat' (first
    | (with_reducible first
        | assumption | apply signalVec_keeps | apply fnMod_keeps | apply Keeps.foldl | apply Keeps.foldl_fst | apply Keeps.foldl_snd
        | apply Keeps.ite | intro _)
    | dsimp only | (fail_if_no_progress refine Keeps.mk rfl ?_) | split)

theorem writeMsixWord_keeps (fn : Nat) (off : Nat) (v : Nat) (s : State) (hK0 : Keeps q n b k s) :
    Keeps q n b k (writeMsixWord fn off v s) := by
  unfold writeMsixWord
  try dsimp only
  repeat' (first
    | (with_reducible first
        | assumption | apply sendPending_keeps | apply fnMod_keeps | apply Keeps.foldl | apply Keeps.foldl_fst | apply Keeps.foldl_snd
        | apply Keeps.ite | intro _)
    | dsimp only)

theorem writeBar2_keeps (fn : Nat) (offset : Nat) (width : Nat) (v : Sys2Proof.W64) (s : State) (hK0 : Keeps q n b k s) :
    Keeps q n b k (writeBar2 fn offset width v s) := by
  unfold writeBar2
  try dsimp only
  repeat' (first
    | (with_reducible first
        | assumption | apply writeMsixWord_keeps | apply Keeps.foldl | apply Keeps.foldl_fst | apply Keeps.foldl_snd | apply Keeps.ite
        | intro _)
    | dsimp only)

theorem hostAccess_keeps (fn : Nat) (a : Sys2Proof.HostPlace) (width : Nat) (value : Option W64) (s : State) (hK0 : Keeps q n b k s) (k_sqs : k.sqs = none := by assumption) (k_cache : k.cache = none := by assumption) (k_pcie : k.pcie = none := by assumption) :
    Keeps q n b k (hostAccess fn a width value s) := by
  unfold hostAccess
  try dsimp only
  repeat' (first
    | (with_reducible first
        | assumption | apply writeBar2_keeps | apply writeBar0_keeps | apply cfgWrite_keeps | apply controlAccess_keeps | apply emit_keeps
        | apply Keeps.foldl | apply Keeps.foldl_fst | apply Keeps.foldl_snd | apply Keeps.ite | intro _)
    | dsimp only | (fail_if_no_progress refine Keeps.mk rfl ?_) | split)

theorem execRegisterWrite_keeps (fn : Nat) (place : Sys2Proof.HostPlace) (width : Nat) (value : Option W64) (s : State) (hK0 : Keeps q n b k s) (k_sqs : k.sqs = none := by assumption) (k_cache : k.cache = none := by assumption) (k_pcie : k.pcie = none := by assumption) :
    KeepsO q n b k (execRegisterWrite fn place width value s) := by
  unfold execRegisterWrite
  try dsimp only
  repeat' (first
    | (with_reducible first
        | assumption | apply hostAccess_keeps | apply hearHost_keeps | apply KeepsO.next | apply KeepsO.ite | apply KeepsO.fault
        | apply KeepsO.refused | apply Keeps.foldl | apply Keeps.foldl_fst | apply Keeps.foldl_snd | apply Keeps.ite | intro _)
    | dsimp only)

theorem schedMod_keeps (f : Sched → Sched) (s : State) (hK0 : Keeps q n b k s) (k_sched : k.sched = none := by assumption) :
    Keeps q n b k (schedMod f s) := by
  unfold schedMod
  try dsimp only
  repeat' (first
    | (with_reducible first | assumption | apply Keeps.foldl | apply Keeps.foldl_fst | apply Keeps.foldl_snd | apply Keeps.ite | intro _)
    | dsimp only | (fail_if_no_progress refine Keeps.mk rfl ?_))

theorem doCcClass_keeps (c : Cmd) (s : State) (hK0 : Keeps q n b k s) (k_sched : k.sched = none := by assumption) :
    KeepsC q n b k (doCcClass c s) := by
  unfold doCcClass
  try dsimp only
  repeat' (with_reducible first | assumption | apply schedMod_keeps | apply needParam_keeps | apply cmdOk_keeps)

theorem doPolicerSet_keeps (c : Cmd) (s0 : State) (hK0 : Keeps q n b k s0) (k_sched : k.sched = none := by assumption) :
    KeepsC q n b k (doPolicerSet c s0) := by
  unfold doPolicerSet
  try dsimp only
  repeat' (with_reducible first
    | assumption | apply schedMod_keeps | apply dueRefills_keeps | apply needParam_keeps | apply KeepsC.done | apply KeepsC.deferred
    | apply KeepsC.later)

theorem doQosShare_keeps (c : Cmd) (s : State) (hK0 : Keeps q n b k s) :
    KeepsC q n b k (doQosShare c s) := by
  unfold doQosShare
  try dsimp only
  repeat' (with_reducible first | assumption | apply needParam_keeps | apply fnMod_keeps | apply KeepsC.done)

theorem doSchedQp_keeps (c : Cmd) (s : State) (hK0 : Keeps q n b k s) :
    KeepsC q n b k (doSchedQp c s) := by
  unfold doSchedQp
  try dsimp only
  repeat' (with_reducible first | assumption | apply qpMod_keeps | apply needParam_keeps | apply cmdOk_keeps)

theorem doSchedTc_keeps (c : Cmd) (s : State) (hK0 : Keeps q n b k s) (k_sched : k.sched = none := by assumption) :
    KeepsC q n b k (doSchedTc c s) := by
  unfold doSchedTc
  try dsimp only
  repeat' (first
    | (with_reducible first
        | assumption | apply needParam_keeps | apply cmdOk_keeps | apply KeepsC.done | apply KeepsC.deferred | apply KeepsC.later
        | apply KeepsC.ite | apply Keeps.foldl | apply Keeps.foldl_fst | apply Keeps.foldl_snd | apply Keeps.ite | intro _)
    | dsimp only | (fail_if_no_progress refine Keeps.mk rfl ?_))

theorem doShaperSet_keeps (c : Cmd) (s0 : State) (hK0 : Keeps q n b k s0) (k_sched : k.sched = none := by assumption) :
    KeepsC q n b k (doShaperSet c s0) := by
  unfold doShaperSet
  try dsimp only
  repeat' (first
    | (with_reducible first
        | assumption | apply schedMod_keeps | apply dueRefills_keeps | apply cmdFail_keeps | apply KeepsC.done | apply KeepsC.deferred
        | apply KeepsC.later | apply KeepsC.ite | apply Keeps.foldl | apply Keeps.foldl_fst | apply Keeps.foldl_snd | apply Keeps.ite
        | intro _)
    | dsimp only | (fail_if_no_progress refine Keeps.mk rfl ?_) | split)

theorem doSndAdd_keeps (c : Cmd) (s : State) (hK0 : Keeps q n b k s) (k_sched : k.sched = none := by assumption) :
    KeepsC q n b k (doSndAdd c s) := by
  unfold doSndAdd
  try dsimp only
  repeat' (first
    | (with_reducible first
        | assumption | apply schedMod_keeps | apply cmdOk_keeps | apply cmdFail_keeps | apply KeepsC.done | apply KeepsC.deferred
        | apply KeepsC.later | apply KeepsC.ite | apply Keeps.foldl | apply Keeps.foldl_fst | apply Keeps.foldl_snd | apply Keeps.ite
        | intro _)
    | dsimp only)

theorem doSndRemove_keeps (c : Cmd) (s : State) (hK0 : Keeps q n b k s) (k_sched : k.sched = none := by assumption) :
    KeepsC q n b k (doSndRemove c s) := by
  unfold doSndRemove
  try dsimp only
  repeat' (first
    | (with_reducible first
        | assumption | apply needParam_keeps | apply cmdOk_keeps | apply KeepsC.done | apply KeepsC.deferred | apply KeepsC.later
        | apply KeepsC.ite | apply Keeps.foldl | apply Keeps.foldl_fst | apply Keeps.foldl_snd | apply Keeps.ite | intro _)
    | dsimp only | (fail_if_no_progress refine Keeps.mk rfl ?_))

theorem doSndRing_keeps (c : Cmd) (s : State) (hK0 : Keeps q n b k s) :
    KeepsC q n b k (doSndRing c s) := by
  unfold doSndRing
  try dsimp only
  repeat' (with_reducible first | assumption | apply needParam_keeps | apply cmdOk_keeps | apply fnMod_keeps)

theorem execCcClass_keeps (c : Cmd) (s : State) (hK0 : Keeps q n b k s) (k_sched : k.sched = none := by assumption) :
    KeepsO q n b k (execCcClass c s) := by
  unfold execCcClass
  try dsimp only
  repeat' (first
    | (with_reducible first
        | assumption | apply doCcClass_keeps | apply runCmd_keeps | apply KeepsO.next | apply KeepsO.ite | apply KeepsO.fault
        | apply KeepsO.refused | apply Keeps.foldl | apply Keeps.foldl_fst | apply Keeps.foldl_snd | apply Keeps.ite | intro _)
    | dsimp only)

theorem execPolicerRefill_keeps (s : State) (hK0 : Keeps q n b k s) (k_sched : k.sched = none := by assumption) :
    KeepsO q n b k (execPolicerRefill s) := by
  unfold execPolicerRefill
  try dsimp only
  repeat' (with_reducible first | assumption | apply duePolicers_keeps | apply whileLit_keeps | apply advanceTo_keeps | apply KeepsO.next)

theorem execPolicerSet_keeps (c : Cmd) (s : State) (hK0 : Keeps q n b k s) (k_sched : k.sched = none := by assumption) :
    KeepsO q n b k (execPolicerSet c s) := by
  unfold execPolicerSet
  try dsimp only
  repeat' (first
    | (with_reducible first
        | assumption | apply doPolicerSet_keeps | apply runCmd_keeps | apply KeepsO.next | apply KeepsO.ite | apply KeepsO.fault
        | apply KeepsO.refused | apply Keeps.foldl | apply Keeps.foldl_fst | apply Keeps.foldl_snd | apply Keeps.ite | intro _)
    | dsimp only)

theorem execQosShare_keeps (c : Cmd) (s : State) (hK0 : Keeps q n b k s) :
    KeepsO q n b k (execQosShare c s) := by
  unfold execQosShare
  try dsimp only
  repeat' (with_reducible first | assumption | apply doQosShare_keeps | apply runCmd_keeps | apply KeepsO.next)

theorem execSchedQp_keeps (c : Cmd) (s : State) (hK0 : Keeps q n b k s) :
    KeepsO q n b k (execSchedQp c s) := by
  unfold execSchedQp
  try dsimp only
  repeat' (with_reducible first | assumption | apply doSchedQp_keeps | apply runCmd_keeps | apply KeepsO.next)

theorem execSchedTc_keeps (c : Cmd) (s : State) (hK0 : Keeps q n b k s) (k_sched : k.sched = none := by assumption) :
    KeepsO q n b k (execSchedTc c s) := by
  unfold execSchedTc
  try dsimp only
  repeat' (first
    | (with_reducible first
        | assumption | apply doSchedTc_keeps | apply runCmd_keeps | apply KeepsO.next | apply KeepsO.ite | apply KeepsO.fault
        | apply KeepsO.refused | apply Keeps.foldl | apply Keeps.foldl_fst | apply Keeps.foldl_snd | apply Keeps.ite | intro _)
    | dsimp only)

theorem execShaperRefill_keeps (s : State) (hK0 : Keeps q n b k s) (k_sched : k.sched = none := by assumption) :
    KeepsO q n b k (execShaperRefill s) := by
  unfold execShaperRefill
  try dsimp only
  repeat' (with_reducible first | assumption | apply dueShapers_keeps | apply whileLit_keeps | apply advanceTo_keeps | apply KeepsO.next)

theorem execShaperSet_keeps (c : Cmd) (s : State) (hK0 : Keeps q n b k s) (k_sched : k.sched = none := by assumption) :
    KeepsO q n b k (execShaperSet c s) := by
  unfold execShaperSet
  try dsimp only
  repeat' (first
    | (with_reducible first
        | assumption | apply doShaperSet_keeps | apply runCmd_keeps | apply KeepsO.next | apply KeepsO.ite | apply KeepsO.fault
        | apply KeepsO.refused | apply Keeps.foldl | apply Keeps.foldl_fst | apply Keeps.foldl_snd | apply Keeps.ite | intro _)
    | dsimp only)

theorem execSndAdd_keeps (c : Cmd) (s : State) (hK0 : Keeps q n b k s) (k_sched : k.sched = none := by assumption) :
    KeepsO q n b k (execSndAdd c s) := by
  unfold execSndAdd
  try dsimp only
  repeat' (first
    | (with_reducible first
        | assumption | apply doSndAdd_keeps | apply runCmd_keeps | apply KeepsO.next | apply KeepsO.ite | apply KeepsO.fault
        | apply KeepsO.refused | apply Keeps.foldl | apply Keeps.foldl_fst | apply Keeps.foldl_snd | apply Keeps.ite | intro _)
    | dsimp only)

theorem execSndRemove_keeps (c : Cmd) (s : State) (hK0 : Keeps q n b k s) (k_sched : k.sched = none := by assumption) :
    KeepsO q n b k (execSndRemove c s) := by
  unfold execSndRemove
  try dsimp only
  repeat' (first
    | (with_reducible first
        | assumption | apply doSndRemove_keeps | apply runCmd_keeps | apply KeepsO.next | apply KeepsO.ite | apply KeepsO.fault
        | apply KeepsO.refused | apply Keeps.foldl | apply Keeps.foldl_fst | apply Keeps.foldl_snd | apply Keeps.ite | intro _)
    | dsimp only)

theorem execSndRing_keeps (c : Cmd) (s : State) (hK0 : Keeps q n b k s) :
    KeepsO q n b k (execSndRing c s) := by
  unfold execSndRing
  try dsimp only
  repeat' (with_reducible first | assumption | apply doSndRing_keeps | apply runCmd_keeps | apply KeepsO.next)

theorem writeSounding_keeps (fn : Nat) (kind : Nat) (id : Nat) (s : State) (hK0 : Keeps q n b k s) :
    Keeps q n b k (writeSounding fn kind id s) := by
  unfold writeSounding
  try dsimp only
  repeat' (first
    | (with_reducible first
        | assumption | apply signalVec_keeps | apply fnMod_keeps | apply emit_keeps | apply Keeps.foldl | apply Keeps.foldl_fst
        | apply Keeps.foldl_snd | apply Keeps.ite | intro _)
    | dsimp only | (fail_if_no_progress refine Keeps.mk rfl ?_) | split)

theorem execSoundingSample_keeps (kind : Nat) (queueId : Sys2Proof.W20) (head : Option Sys2Proof.W32) (s : State) (hK0 : Keeps q n b k s) (k_sched : k.sched = none := by assumption) :
    KeepsO q n b k (execSoundingSample kind queueId head s) := by
  unfold execSoundingSample
  try dsimp only
  repeat' (first
    | (with_reducible first
        | assumption | apply writeSounding_keeps | apply schedMod_keeps | apply dueRefills_keeps | apply whileLit_keeps | apply fnMod_keeps
        | apply advanceTo_keeps | apply KeepsO.next | apply KeepsO.ite | apply KeepsO.fault | apply KeepsO.refused | apply Keeps.foldl
        | apply Keeps.foldl_fst | apply Keeps.foldl_snd | apply Keeps.ite | refine KeepsO.elim ?_ (by with_reducible assumption) | intro _)
    | dsimp only | (fail_if_no_progress refine Keeps.mk rfl ?_) | split)

theorem bar4Fault_keeps (fn : Nat) (offset : Nat) (write : Bool) (e : Nat × Nat × Nat) (s : State) (hK0 : Keeps q n b k s) :
    Keeps q n b k (bar4Fault fn offset write e s) := by
  unfold bar4Fault
  try dsimp only
  repeat' (first
    | (with_reducible first
        | assumption | apply recordFault_keeps | apply Keeps.foldl | apply Keeps.foldl_fst | apply Keeps.foldl_snd | apply Keeps.ite
        | intro _)
    | dsimp only)

theorem commitEpoch_keeps (fn : Nat) (s : State) (hK0 : Keeps q n b k s) :
    Keeps q n b k (commitEpoch fn s) := by
  unfold commitEpoch
  try dsimp only
  repeat' (with_reducible first | assumption | apply keepAwake_keeps | apply spaceMod_keeps)

theorem withSpace_keeps (c : Cmd) (s : State) (k0 : AddrSpace → CmdOut) (hK0 : Keeps q n b k s) (hK1 : ∀ v0, KeepsC q n b k (k0 v0)) :
    KeepsC q n b k (withSpace c s k0) := by
  unfold withSpace
  try dsimp only
  repeat' (first
    | (with_reducible first
        | assumption | apply cmdFail_keeps | apply hK1 | apply KeepsC.done | apply KeepsC.deferred | apply KeepsC.later | apply KeepsC.ite
        | apply Keeps.foldl | apply Keeps.foldl_fst | apply Keeps.foldl_snd | apply Keeps.ite | intro _)
    | dsimp only | (fail_if_no_progress refine Keeps.mk rfl ?_) | split)

theorem doMrBar4Close_keeps (c : Cmd) (s : State) (hK0 : Keeps q n b k s) :
    KeepsC q n b k (doMrBar4Close c s) := by
  unfold doMrBar4Close
  try dsimp only
  repeat' (first
    | (with_reducible first
        | assumption | apply withSpace_keeps | apply cmdOk_keeps | apply spaceMod_keeps | apply KeepsC.done | apply KeepsC.deferred
        | apply KeepsC.later | apply KeepsC.ite | apply Keeps.foldl | apply Keeps.foldl_fst | apply Keeps.foldl_snd | apply Keeps.ite
        | intro _)
    | dsimp only)

theorem withKey_keeps (c : Cmd) (off : Nat) (s : State) (k0 : Sys2Proof.W32 → Region → CmdOut) (hK0 : Keeps q n b k s) (hK1 : ∀ v0 v1, KeepsC q n b k (k0 v0 v1)) :
    KeepsC q n b k (withKey c off s k0) := by
  unfold withKey
  try dsimp only
  repeat' (first
    | (with_reducible first
        | assumption | apply withSpace_keeps | apply cmdFail_keeps | apply hK1 | apply KeepsC.done | apply KeepsC.deferred
        | apply KeepsC.later | apply KeepsC.ite | apply Keeps.foldl | apply Keeps.foldl_fst | apply Keeps.foldl_snd | apply Keeps.ite
        | intro _)
    | dsimp only | (fail_if_no_progress refine Keeps.mk rfl ?_) | split)

theorem doMrBar4Open_keeps (c : Cmd) (s : State) (hK0 : Keeps q n b k s) :
    KeepsC q n b k (doMrBar4Open c s) := by
  unfold doMrBar4Open
  try dsimp only
  repeat' (first
    | (with_reducible first
        | assumption | apply withKey_keeps | apply cmdOk_keeps | apply cmdFail_keeps | apply spaceMod_keeps | apply KeepsC.done
        | apply KeepsC.deferred | apply KeepsC.later | apply KeepsC.ite | apply Keeps.foldl | apply Keeps.foldl_fst | apply Keeps.foldl_snd
        | apply Keeps.ite | intro _)
    | dsimp only)

theorem regionMod_keeps (i : Nat) (f : Region → Region) (s : State) (hK0 : Keeps q n b k s) (k_regions : k.regions = none := by assumption) :
    Keeps q n b k (regionMod i f s) := by
  unfold regionMod
  try dsimp only
  repeat' (first
    | (with_reducible first | assumption | apply Keeps.foldl | apply Keeps.foldl_fst | apply Keeps.foldl_snd | apply Keeps.ite | intro _)
    | dsimp only | (fail_if_no_progress refine Keeps.mk rfl ?_))

theorem dropPins_keeps (gone : Pin → Bool) (s : State) (hK0 : Keeps q n b k s) (k_cache : k.cache = none := by assumption) :
    Keeps q n b k (dropPins gone s) := by
  unfold dropPins
  try dsimp only
  repeat' (first
    | (with_reducible first | assumption | apply Keeps.foldl | apply Keeps.foldl_fst | apply Keeps.foldl_snd | apply Keeps.ite | intro _)
    | dsimp only | (fail_if_no_progress refine Keeps.mk rfl ?_))

theorem unpinKey_keeps (key : Sys2Proof.W32) (s : State) (hK0 : Keeps q n b k s) (k_cache : k.cache = none := by assumption) :
    Keeps q n b k (unpinKey key s) := by
  unfold unpinKey
  try dsimp only
  repeat' (with_reducible first | assumption | apply dropPins_keeps)

theorem retirePair_keeps (index : Nat) (gen : Sys2Proof.W8) (s : State) (hK0 : Keeps q n b k s) (k_retired : k.retired = none := by assumption) :
    Keeps q n b k (retirePair index gen s) := by
  unfold retirePair
  try dsimp only
  repeat' (first
    | (with_reducible first | assumption | apply Keeps.foldl | apply Keeps.foldl_fst | apply Keeps.foldl_snd | apply Keeps.ite | intro _)
    | dsimp only | (fail_if_no_progress refine Keeps.mk rfl ?_))

theorem unbindKey_keeps (fn : Nat) (index : Nat) (gen : Sys2Proof.W8) (s : State) (hK0 : Keeps q n b k s) :
    Keeps q n b k (unbindKey fn index gen s) := by
  unfold unbindKey
  try dsimp only
  repeat' (with_reducible first | assumption | apply spaceMod_keeps)

theorem retireKey_keeps (fn : Nat) (index : Nat) (gen : Sys2Proof.W8) (s : State) (hK0 : Keeps q n b k s) (k_retired : k.retired = none := by assumption) (k_cache : k.cache = none := by assumption) :
    Keeps q n b k (retireKey fn index gen s) := by
  unfold retireKey
  try dsimp only
  repeat' (with_reducible first | assumption | apply unbindKey_keeps | apply retirePair_keeps | apply unpinKey_keeps)

theorem doMrDeregister_keeps (c : Cmd) (s : State) (hK0 : Keeps q n b k s) (k_regions : k.regions = none := by assumption) (k_retired : k.retired = none := by assumption) (k_cache : k.cache = none := by assumption) :
    KeepsC q n b k (doMrDeregister c s) := by
  unfold doMrDeregister
  try dsimp only
  repeat' (first
    | (with_reducible first
        | assumption | apply retireKey_keeps | apply regionMod_keeps | apply withKey_keeps | apply KeepsC.done | apply KeepsC.deferred
        | apply KeepsC.later | apply KeepsC.ite | apply Keeps.foldl | apply Keeps.foldl_fst | apply Keeps.foldl_snd | apply Keeps.ite
        | intro _)
    | dsimp only)

theorem stageDescs_keeps (c : Cmd) (hpa : Nat) (i : Nat) (l : List MapDesc) (s : State) (hK0 : Keeps q n b k s) :
    KeepsM q n b k (stageDescs c hpa i l s) := by
  induction l generalizing c hpa i s with
  | nil =>
    unfold stageDescs
    try dsimp only
    repeat' (with_reducible first | assumption | apply tarnMod_keeps | apply emit_keeps | apply spaceMod_keeps | apply KeepsM.some)
  | cons hd tl ih =>
    unfold stageDescs
    try dsimp only
    repeat' (first
      | (with_reducible first
          | assumption | apply ih | apply tarnMod_keeps | apply emit_keeps | apply spaceMod_keeps | apply KeepsM.some | apply KeepsM.none
          | apply Keeps.foldl | apply Keeps.foldl_fst | apply Keeps.foldl_snd | apply Keeps.ite | intro _)
      | dsimp only | (fail_if_no_progress refine Keeps.mk rfl ?_) | split)

theorem doMrMap_keeps (c : Cmd) (s : State) (hK0 : Keeps q n b k s) :
    KeepsC q n b k (doMrMap c s) := by
  unfold doMrMap
  try dsimp only
  repeat' (first
    | (with_reducible first
        | assumption | apply stageDescs_keeps | apply withSpace_keeps | apply cmdFail_keeps | apply KeepsC.done | apply KeepsC.deferred
        | apply KeepsC.later | apply KeepsC.ite | apply Keeps.foldl | apply Keeps.foldl_fst | apply Keeps.foldl_snd | apply Keeps.ite
        | refine KeepsM.elim ?_ (by with_reducible assumption) | intro _)
    | dsimp only | (fail_if_no_progress refine Keeps.mk rfl ?_) | split)

theorem doMrQuery_keeps (c : Cmd) (s : State) (hK0 : Keeps q n b k s) :
    KeepsC q n b k (doMrQuery c s) := by
  unfold doMrQuery
  try dsimp only
  repeat' (first
    | (with_reducible first
        | assumption | apply withSpace_keeps | apply cmdFail_keeps | apply KeepsC.done | apply KeepsC.deferred | apply KeepsC.later
        | apply KeepsC.ite | apply Keeps.foldl | apply Keeps.foldl_fst | apply Keeps.foldl_snd | apply Keeps.ite | intro _)
    | dsimp only | (fail_if_no_progress refine Keeps.mk rfl ?_) | split)

theorem doMrRegister_keeps (c : Cmd) (s : State) (hK0 : Keeps q n b k s) (k_regions : k.regions = none := by assumption) :
    KeepsC q n b k (doMrRegister c s) := by
  unfold doMrRegister
  try dsimp only
  repeat' (first
    | (with_reducible first
        | assumption | apply withSpace_keeps | apply cmdFail_keeps | apply KeepsC.done | apply KeepsC.deferred | apply KeepsC.later
        | apply KeepsC.ite | apply Keeps.foldl | apply Keeps.foldl_fst | apply Keeps.foldl_snd | apply Keeps.ite | intro _)
    | dsimp only | (fail_if_no_progress refine Keeps.mk rfl ?_) | split)

theorem doMrRekey_keeps (c : Cmd) (s : State) (hK0 : Keeps q n b k s) (k_regions : k.regions = none := by assumption) (k_retired : k.retired = none := by assumption) (k_cache : k.cache = none := by assumption) :
    KeepsC q n b k (doMrRekey c s) := by
  unfold doMrRekey
  try dsimp only
  repeat' (first
    | (with_reducible first
        | assumption | apply retireKey_keeps | apply regionMod_keeps | apply withKey_keeps | apply cmdFail_keeps | apply KeepsC.done
        | apply KeepsC.deferred | apply KeepsC.later | apply KeepsC.ite | apply Keeps.foldl | apply Keeps.foldl_fst | apply Keeps.foldl_snd
        | apply Keeps.ite | intro _)
    | dsimp only)

theorem doMrSpace_keeps (c : Cmd) (s : State) (hK0 : Keeps q n b k s) :
    KeepsC q n b k (doMrSpace c s) := by
  unfold doMrSpace
  try dsimp only
  repeat' (first
    | (with_reducible first
        | assumption | apply cmdFail_keeps | apply pumpPartition_keeps | apply spaceMod_keeps | apply KeepsC.done | apply KeepsC.deferred
        | apply KeepsC.later | apply KeepsC.ite | apply Keeps.foldl | apply Keeps.foldl_fst | apply Keeps.foldl_snd | apply Keeps.ite
        | intro _)
    | dsimp only)

theorem doMrSpurGrant_keeps (c : Cmd) (s : State) (h : Keeps q n b k s) : KeepsC q n b k (doMrSpurGrant c s) := by
  unfold doMrSpurGrant
  simp only
  split
  · exact cmdFail_keeps _ _ h
  · refine KeepsC.ite (fun _ => cmdFail_keeps _ _ h) fun _ => ?_
    refine KeepsC.ite (fun _ => ?_) fun _ => ?_
    · split
      · exact cmdFail_keeps _ _ h
      · exact KeepsC.later (spaceMod_keeps _ _ _ h)
    · refine KeepsC.ite (fun _ => cmdFail_keeps _ _ h) fun _ => ?_
      refine KeepsC.ite (fun _ => cmdFail_keeps _ _ h) fun _ => ?_
      exact cmdOk_keeps _ (spaceMod_keeps _ _ _ h)

theorem doMrSync_keeps (c : Cmd) (s : State) (hK0 : Keeps q n b k s) :
    KeepsC q n b k (doMrSync c s) := by
  unfold doMrSync
  try dsimp only
  repeat' (first
    | (with_reducible first
        | assumption | apply withSpace_keeps | apply commitEpoch_keeps | apply KeepsC.done | apply KeepsC.deferred | apply KeepsC.later
        | apply KeepsC.ite | apply Keeps.foldl | apply Keeps.foldl_fst | apply Keeps.foldl_snd | apply Keeps.ite | intro _)
    | dsimp only)

theorem doMrUnmap_keeps (c : Cmd) (s : State) (hK0 : Keeps q n b k s) :
    KeepsC q n b k (doMrUnmap c s) := by
  unfold doMrUnmap
  try dsimp only
  repeat' (first
    | (with_reducible first
        | assumption | apply withSpace_keeps | apply needParam_keeps | apply cmdOk_keeps | apply spaceMod_keeps | apply KeepsC.done
        | apply KeepsC.deferred | apply KeepsC.later | apply KeepsC.ite | apply Keeps.foldl | apply Keeps.foldl_fst | apply Keeps.foldl_snd
        | apply Keeps.ite | intro _)
    | dsimp only)

theorem execBar4Read_keeps (fn : Nat) (offset : Nat) (len : Nat) (s : State) (hK0 : Keeps q n b k s) :
    KeepsO q n b k (execBar4Read fn offset len s) := by
  unfold execBar4Read
  try dsimp only
  repeat' (first
    | (with_reducible first
        | assumption | apply bar4Fault_keeps | apply wakeDva_keeps | apply whileLit_keeps | apply hearHost_keeps | apply emit_keeps
        | apply KeepsO.next | apply KeepsO.ite | apply KeepsO.fault | apply KeepsO.refused | apply Keeps.foldl | apply Keeps.foldl_fst
        | apply Keeps.foldl_snd | apply Keeps.ite | refine KeepsO.elim ?_ (by with_reducible assumption) | intro _)
    | dsimp only | (fail_if_no_progress refine Keeps.mk rfl ?_) | split)

theorem execBar4Write_keeps (fn : Nat) (offset : Nat) (bytes : List Sys2Proof.Byte) (s : State) (hK0 : Keeps q n b k s) (k_mem : k.mem = none := by assumption) :
    KeepsO q n b k (execBar4Write fn offset bytes s) := by
  unfold execBar4Write
  try dsimp only
  repeat' (first
    | (with_reducible first
        | assumption | apply bar4Fault_keeps | apply placeAt_keeps | apply whileLit_keeps | apply hearHost_keeps | apply KeepsO.next
        | apply KeepsO.ite | apply KeepsO.fault | apply KeepsO.refused | apply Keeps.foldl | apply Keeps.foldl_fst | apply Keeps.foldl_snd
        | apply Keeps.ite | refine KeepsO.elim ?_ (by with_reducible assumption) | intro _)
    | dsimp only | (fail_if_no_progress refine Keeps.mk rfl ?_) | split)

theorem execFqHeadReread_keeps (fn : Nat) (head : Sys2Proof.W32) (s : State) (hK0 : Keeps q n b k s) :
    KeepsO q n b k (execFqHeadReread fn head s) := by
  unfold execFqHeadReread
  try dsimp only
  repeat' (first
    | (with_reducible first
        | assumption | apply whileLit_keeps | apply readFqHead_keeps | apply KeepsO.next | apply KeepsO.ite | apply KeepsO.fault
        | apply KeepsO.refused | apply Keeps.foldl | apply Keeps.foldl_fst | apply Keeps.foldl_snd | apply Keeps.ite
        | refine KeepsO.elim ?_ (by with_reducible assumption) | intro _)
    | dsimp only | (fail_if_no_progress refine Keeps.mk rfl ?_) | split)

theorem execMrBar4Close_keeps (c : Cmd) (s : State) (hK0 : Keeps q n b k s) :
    KeepsO q n b k (execMrBar4Close c s) := by
  unfold execMrBar4Close
  try dsimp only
  repeat' (with_reducible first | assumption | apply doMrBar4Close_keeps | apply runCmd_keeps | apply KeepsO.next)

theorem execMrBar4Open_keeps (c : Cmd) (s : State) (hK0 : Keeps q n b k s) :
    KeepsO q n b k (execMrBar4Open c s) := by
  unfold execMrBar4Open
  try dsimp only
  repeat' (with_reducible first | assumption | apply doMrBar4Open_keeps | apply runCmd_keeps | apply KeepsO.next)

theorem execMrDeregister_keeps (c : Cmd) (s : State) (hK0 : Keeps q n b k s) (k_regions : k.regions = none := by assumption) (k_retired : k.retired = none := by assumption) (k_cache : k.cache = none := by assumption) :
    KeepsO q n b k (execMrDeregister c s) := by
  unfold execMrDeregister
  try dsimp only
  repeat' (first
    | (with_reducible first
        | assumption | apply doMrDeregister_keeps | apply runCmd_keeps | apply KeepsO.next | apply KeepsO.ite | apply KeepsO.fault
        | apply KeepsO.refused | apply Keeps.foldl | apply Keeps.foldl_fst | apply Keeps.foldl_snd | apply Keeps.ite | intro _)
    | dsimp only)

theorem execMrDeregisterDone_keeps (key : Sys2Proof.W32) (s : State) (hK0 : Keeps q n b k s) :
    KeepsO q n b k (execMrDeregisterDone key s) := by
  unfold execMrDeregisterDone
  try dsimp only
  repeat' (first
    | (with_reducible first
        | assumption | apply whileLit_keeps | apply finishCmds_keeps | apply KeepsO.next | apply KeepsO.ite | apply KeepsO.fault
        | apply KeepsO.refused | apply Keeps.foldl | apply Keeps.foldl_fst | apply Keeps.foldl_snd | apply Keeps.ite
        | refine KeepsO.elim ?_ (by with_reducible assumption) | intro _)
    | dsimp only)

theorem execMrMap_keeps (c : Cmd) (s : State) (hK0 : Keeps q n b k s) :
    KeepsO q n b k (execMrMap c s) := by
  unfold execMrMap
  try dsimp only
  repeat' (with_reducible first | assumption | apply doMrMap_keeps | apply runCmd_keeps | apply KeepsO.next)

theorem execMrQuery_keeps (c : Cmd) (s : State) (hK0 : Keeps q n b k s) :
    KeepsO q n b k (execMrQuery c s) := by
  unfold execMrQuery
  try dsimp only
  repeat' (with_reducible first | assumption | apply doMrQuery_keeps | apply runCmd_keeps | apply KeepsO.next)

theorem execMrRegister_keeps (c : Cmd) (s : State) (hK0 : Keeps q n b k s) (k_regions : k.regions = none := by assumption) :
    KeepsO q n b k (execMrRegister c s) := by
  unfold execMrRegister
  try dsimp only
  repeat' (first
    | (with_reducible first
        | assumption | apply doMrRegister_keeps | apply runCmd_keeps | apply KeepsO.next | apply KeepsO.ite | apply KeepsO.fault
        | apply KeepsO.refused | apply Keeps.foldl | apply Keeps.foldl_fst | apply Keeps.foldl_snd | apply Keeps.ite | intro _)
    | dsimp only)

theorem execMrRekey_keeps (c : Cmd) (s : State) (hK0 : Keeps q n b k s) (k_regions : k.regions = none := by assumption) (k_retired : k.retired = none := by assumption) (k_cache : k.cache = none := by assumption) :
    KeepsO q n b k (execMrRekey c s) := by
  unfold execMrRekey
  try dsimp only
  repeat' (first
    | (with_reducible first
        | assumption | apply doMrRekey_keeps | apply runCmd_keeps | apply KeepsO.next | apply KeepsO.ite | apply KeepsO.fault
        | apply KeepsO.refused | apply Keeps.foldl | apply Keeps.foldl_fst | apply Keeps.foldl_snd | apply Keeps.ite | intro _)
    | dsimp only)

theorem execMrSpace_keeps (c : Cmd) (s : State) (hK0 : Keeps q n b k s) :
    KeepsO q n b k (execMrSpace c s) := by
  unfold execMrSpace
  try dsimp only
  repeat' (with_reducible first | assumption | apply doMrSpace_keeps | apply runCmd_keeps | apply KeepsO.next)

theorem execMrSpurGrant_keeps (c : Cmd) (s : State) (hK0 : Keeps q n b k s) :
    KeepsO q n b k (execMrSpurGrant c s) := by
  unfold execMrSpurGrant
  try dsimp only
  repeat' (with_reducible first | assumption | apply doMrSpurGrant_keeps | apply runCmd_keeps | apply KeepsO.next)

theorem execMrSync_keeps (c : Cmd) (s : State) (hK0 : Keeps q n b k s) :
    KeepsO q n b k (execMrSync c s) := by
  unfold execMrSync
  try dsimp only
  repeat' (with_reducible first | assumption | apply doMrSync_keeps | apply runCmd_keeps | apply KeepsO.next)

theorem freeBacking_keeps (fn : Nat) (pages : List Nat) (s : State) (hK0 : Keeps q n b k s) :
    Keeps q n b k (freeBacking fn pages s) := by
  unfold freeBacking
  try dsimp only
  repeat' (first
    | (with_reducible first
        | assumption | apply tarnMod_keeps | apply Keeps.foldl | apply Keeps.foldl_fst | apply Keeps.foldl_snd | apply Keeps.ite)
    | dsimp only)

theorem execMrSyncDone_keeps (fn : Nat) (s : State) (hK0 : Keeps q n b k s) :
    KeepsO q n b k (execMrSyncDone fn s) := by
  unfold execMrSyncDone
  try dsimp only
  repeat' (first
    | (with_reducible first
        | assumption | apply freeBacking_keeps | apply tarnMod_keeps | apply whileLit_keeps | apply finishCmds_keeps | apply KeepsO.next
        | apply KeepsO.ite | apply KeepsO.fault | apply KeepsO.refused | apply Keeps.foldl | apply Keeps.foldl_fst | apply Keeps.foldl_snd
        | apply Keeps.ite | refine KeepsO.elim ?_ (by with_reducible assumption))
    | dsimp only)

theorem execMrUnmap_keeps (c : Cmd) (s : State) (hK0 : Keeps q n b k s) :
    KeepsO q n b k (execMrUnmap c s) := by
  unfold execMrUnmap
  try dsimp only
  repeat' (with_reducible first | assumption | apply doMrUnmap_keeps | apply runCmd_keeps | apply KeepsO.next)

theorem execSpurRevokeDone_keeps (fn : Nat) (s : State) (hK0 : Keeps q n b k s) :
    KeepsO q n b k (execSpurRevokeDone fn s) := by
  unfold execSpurRevokeDone
  try dsimp only
  repeat' (with_reducible first | assumption | apply whileLit_keeps | apply finishCmds_keeps | apply KeepsO.next)

theorem takeSlot_keeps (x : Sys2Proof.StreamId) (s : State) (hK0 : Keeps q n b k s) (k_missSlots : k.missSlots = none := by assumption) (k_missWait : k.missWait = none := by assumption) :
    Keeps q n b k (takeSlot x s) := by
  unfold takeSlot
  try dsimp only
  repeat' (first
    | (with_reducible first | assumption | apply Keeps.foldl | apply Keeps.foldl_fst | apply Keeps.foldl_snd | apply Keeps.ite | intro _)
    | dsimp only | (fail_if_no_progress refine Keeps.mk rfl ?_) | split)

theorem execTranslationMissWalk_keeps (x : Sys2Proof.StreamId) (x____Sys2Proof_Machine_Regions_2448064340__hygCtx__hyg_3 : Sys2Proof.W64) (s : State) (hK0 : Keeps q n b k s) (k_missSlots : k.missSlots = none := by assumption) (k_missWait : k.missWait = none := by assumption) :
    KeepsO q n b k (execTranslationMissWalk x x____Sys2Proof_Machine_Regions_2448064340__hygCtx__hyg_3 s) := by
  unfold execTranslationMissWalk
  try dsimp only
  repeat' (with_reducible first | assumption | apply takeSlot_keeps | apply whileLit_keeps | apply KeepsO.next)

theorem grantWaiting_keeps (s : State) (hK0 : Keeps q n b k s) (k_missSlots : k.missSlots = none := by assumption) (k_missWait : k.missWait = none := by assumption) :
    Keeps q n b k (grantWaiting s) := by
  unfold grantWaiting
  try dsimp only
  repeat' (first
    | (with_reducible first
        | assumption | apply takeSlot_keeps | apply Keeps.foldl | apply Keeps.foldl_fst | apply Keeps.foldl_snd | apply Keeps.ite | intro _)
    | dsimp only | (fail_if_no_progress refine Keeps.mk rfl ?_) | split)

theorem changeClassShaper_keeps (up : Bool) (tc : Nat) (rate : Nat) (burst : Nat) (s : State) (port : Nat) (hK0 : Keeps q n b k s) (k_sched : k.sched = none := by assumption) :
    Keeps q n b k (changeClassShaper up tc rate burst s port) := by
  unfold changeClassShaper
  try dsimp only
  repeat' (with_reducible first | assumption | apply schedMod_keeps)

theorem ethMod_keeps (f : Ethernet → Ethernet) (s : State) (hK0 : Keeps q n b k s) :
    Keeps q n b k (ethMod f s) := by
  unfold ethMod
  try dsimp only
  repeat' (first
    | (with_reducible first | assumption | apply Keeps.foldl | apply Keeps.foldl_fst | apply Keeps.foldl_snd | apply Keeps.ite | intro _)
    | dsimp only | (fail_if_no_progress refine Keeps.mk rfl ?_))

theorem doEhtAddr_keeps (c : Cmd) (s : State) (hK0 : Keeps q n b k s) :
    KeepsC q n b k (doEhtAddr c s) := by
  unfold doEhtAddr
  try dsimp only
  repeat' (with_reducible first | assumption | apply ethMod_keeps | apply needParam_keeps | apply cmdOk_keeps)

theorem doEhtPort_keeps (c : Cmd) (s : State) (hK0 : Keeps q n b k s) :
    KeepsC q n b k (doEhtPort c s) := by
  unfold doEhtPort
  try dsimp only
  repeat' (first
    | (with_reducible first
        | assumption | apply ethMod_keeps | apply cmdOk_keeps | apply cmdFail_keeps | apply KeepsC.done | apply KeepsC.deferred
        | apply KeepsC.later | apply KeepsC.ite | apply Keeps.foldl | apply Keeps.foldl_fst | apply Keeps.foldl_snd | apply Keeps.ite
        | intro _)
    | dsimp only)

theorem journalConnect_keeps (n0 : Nat) (conf : QpConf) (s : State) (h : Keeps q n b k s) : KeepsM q n b k (journalConnect n0 conf s) := by
  unfold journalConnect
  split
  · exact KeepsM.none
  · rename_i heq
    intro t e
    simp only [Option.map_eq_some_iff] at e
    obtain ⟨⟨a, u⟩, hp, rfl⟩ := e
    exact KeepsN.elim (journalPut_keeps _ _ _ (KeepsN.elim (journalPut_keeps _ _ _ h) heq)) hp

theorem enterReady_keeps (n0 : Nat) (conf : QpConf) (s : State) (hK0 : Keeps q n b k s) :
    Keeps q n b k (enterReady n0 conf s) := by
  unfold enterReady
  try dsimp only
  repeat' (first
    | (with_reducible first
        | assumption | apply judgePaths_keeps | apply assignNumbers_keeps | apply qpMod_keeps | apply Keeps.foldl | apply Keeps.foldl_fst
        | apply Keeps.foldl_snd | apply Keeps.ite | intro _)
    | dsimp only | (fail_if_no_progress refine Keeps.mk rfl ?_) | split)

theorem doQpConnect_keeps (c : Cmd) (s : State) (hK0 : Keeps q n b k s) :
    KeepsC q n b k (doQpConnect c s) := by
  unfold doQpConnect
  try dsimp only
  repeat' (first
    | (with_reducible first
        | assumption | apply enterReady_keeps | apply journalConnect_keeps | apply cmdOk_keeps | apply cmdFail_keeps | apply KeepsC.done
        | apply KeepsC.deferred | apply KeepsC.later | apply KeepsC.ite | apply Keeps.foldl | apply Keeps.foldl_fst | apply Keeps.foldl_snd
        | apply Keeps.ite | refine KeepsM.elim ?_ (by with_reducible assumption) | intro _)
    | dsimp only | (fail_if_no_progress refine Keeps.mk rfl ?_) | split)

theorem doQpCreate_keeps (c : Cmd) (s : State) (hK0 : Keeps q n b k s) :
    KeepsC q n b k (doQpCreate c s) := by
  unfold doQpCreate
  try dsimp only
  repeat' (first
    | (with_reducible first
        | assumption | apply cmdFail_keeps | apply KeepsC.done | apply KeepsC.deferred | apply KeepsC.later | apply KeepsC.ite
        | apply Keeps.foldl | apply Keeps.foldl_fst | apply Keeps.foldl_snd | apply Keeps.ite | intro _)
    | dsimp only | (fail_if_no_progress refine Keeps.mk rfl ?_))

theorem endAdmission_keeps (n0 : Nat) (s0 : State) (hK0 : Keeps q n b k s0) (k_sched : k.sched = none := by assumption) :
    Keeps q n b k (endAdmission n0 s0) := by
  unfold endAdmission
  try dsimp only
  repeat' (first
    | (with_reducible first
        | assumption | apply changeClassShaper_keeps | apply schedMod_keeps | apply dueShapers_keeps | apply qpMod_keeps | apply Keeps.foldl
        | apply Keeps.foldl_fst | apply Keeps.foldl_snd | apply Keeps.ite | intro _)
    | dsimp only | (fail_if_no_progress refine Keeps.mk rfl ?_) | split)

theorem flushQp_keeps (n0 : Nat) (destroy : Bool) (s : State) (hK0 : Keeps q n b k s) (k_sched : k.sched = none := by assumption) :
    Keeps q n b k (flushQp n0 destroy s) := by
  unfold flushQp
  try dsimp only
  repeat' (with_reducible first
    | assumption | apply endAdmission_keeps | apply quietQp_keeps | apply qpMod_keeps | apply completeAll_keeps)

theorem doQpDestroy_keeps (c : Cmd) (s : State) (hK0 : Keeps q n b k s) (k_sched : k.sched = none := by assumption) :
    KeepsC q n b k (doQpDestroy c s) := by
  unfold doQpDestroy
  try dsimp only
  repeat' (first
    | (with_reducible first
        | assumption | apply flushQp_keeps | apply cmdFail_keeps | apply KeepsC.done | apply KeepsC.deferred | apply KeepsC.later
        | apply KeepsC.ite | apply Keeps.foldl | apply Keeps.foldl_fst | apply Keeps.foldl_snd | apply Keeps.ite | intro _)
    | dsimp only | (fail_if_no_progress refine Keeps.mk rfl ?_) | split)

theorem doQpQuery_keeps (c : Cmd) (s : State) (hK0 : Keeps q n b k s) :
    KeepsC q n b k (doQpQuery c s) := by
  unfold doQpQuery
  try dsimp only
  repeat' (first
    | (with_reducible first
        | assumption | apply cmdFail_keeps | apply KeepsC.done | apply KeepsC.deferred | apply KeepsC.later | apply KeepsC.ite
        | apply Keeps.foldl | apply Keeps.foldl_fst | apply Keeps.foldl_snd | apply Keeps.ite | intro _)
    | dsimp only | (fail_if_no_progress refine Keeps.mk rfl ?_) | split)

theorem doQpReset_keeps (c : Cmd) (s : State) (hK0 : Keeps q n b k s) (k_sched : k.sched = none := by assumption) :
    KeepsC q n b k (doQpReset c s) := by
  unfold doQpReset
  try dsimp only
  repeat' (first
    | (with_reducible first
        | assumption | apply flushQp_keeps | apply cmdFail_keeps | apply KeepsC.done | apply KeepsC.deferred | apply KeepsC.later
        | apply KeepsC.ite | apply Keeps.foldl | apply Keeps.foldl_fst | apply Keeps.foldl_snd | apply Keeps.ite | intro _)
    | dsimp only | (fail_if_no_progress refine Keeps.mk rfl ?_) | split)

theorem doSrqCreate_keeps (c : Cmd) (s : State) (hK0 : Keeps q n b k s) (k_srqs : k.srqs = none := by assumption) :
    KeepsC q n b k (doSrqCreate c s) := by
  unfold doSrqCreate
  try dsimp only
  repeat' (first
    | (with_reducible first
        | assumption | apply cmdFail_keeps | apply KeepsC.done | apply KeepsC.deferred | apply KeepsC.later | apply KeepsC.ite
        | apply Keeps.foldl | apply Keeps.foldl_fst | apply Keeps.foldl_snd | apply Keeps.ite | intro _)
    | dsimp only | (fail_if_no_progress refine Keeps.mk rfl ?_))

theorem doSrqDestroy_keeps (c : Cmd) (s : State) (hK0 : Keeps q n b k s) (k_srqs : k.srqs = none := by assumption) :
    KeepsC q n b k (doSrqDestroy c s) := by
  unfold doSrqDestroy
  try dsimp only
  repeat' (first
    | (with_reducible first
        | assumption | apply cmdOk_keeps | apply cmdFail_keeps | apply completeAll_keeps | apply KeepsC.done | apply KeepsC.deferred
        | apply KeepsC.later | apply KeepsC.ite | apply Keeps.foldl | apply Keeps.foldl_fst | apply Keeps.foldl_snd | apply Keeps.ite
        | intro _)
    | dsimp only | (fail_if_no_progress refine Keeps.mk rfl ?_))

theorem execEhtAddr_keeps (c : Cmd) (s : State) (hK0 : Keeps q n b k s) :
    KeepsO q n b k (execEhtAddr c s) := by
  unfold execEhtAddr
  try dsimp only
  repeat' (with_reducible first | assumption | apply doEhtAddr_keeps | apply runCmd_keeps | apply KeepsO.next)

theorem execEhtPort_keeps (c : Cmd) (s : State) (hK0 : Keeps q n b k s) :
    KeepsO q n b k (execEhtPort c s) := by
  unfold execEhtPort
  try dsimp only
  repeat' (with_reducible first | assumption | apply doEhtPort_keeps | apply runCmd_keeps | apply KeepsO.next)

theorem runQpConnect_keeps (c : Cmd) (s : State) (hK0 : Keeps q n b k s) :
    Keeps q n b k (runQpConnect c s) := by
  unfold runQpConnect
  try dsimp only
  repeat' (first
    | (with_reducible first
        | assumption | apply doQpConnect_keeps | apply runCmd_keeps | apply Keeps.foldl | apply Keeps.foldl_fst | apply Keeps.foldl_snd
        | apply Keeps.ite | intro _)
    | dsimp only)

theorem execQpConnect_keeps (c : Cmd) (s : State) (hK0 : Keeps q n b k s) :
    KeepsO q n b k (execQpConnect c s) := by
  unfold execQpConnect
  try dsimp only
  repeat' (with_reducible first | assumption | apply runQpConnect_keeps | apply KeepsO.next)

theorem execQpCreate_keeps (c : Cmd) (s : State) (hK0 : Keeps q n b k s) :
    KeepsO q n b k (execQpCreate c s) := by
  unfold execQpCreate
  try dsimp only
  repeat' (with_reducible first | assumption | apply doQpCreate_keeps | apply runCmd_keeps | apply KeepsO.next)

theorem execQpDestroy_keeps (c : Cmd) (s : State) (hK0 : Keeps q n b k s) (k_sched : k.sched = none := by assumption) :
    KeepsO q n b k (execQpDestroy c s) := by
  unfold execQpDestroy
  try dsimp only
  repeat' (first
    | (with_reducible first
        | assumption | apply doQpDestroy_keeps | apply runCmd_keeps | apply KeepsO.next | apply KeepsO.ite | apply KeepsO.fault
        | apply KeepsO.refused | apply Keeps.foldl | apply Keeps.foldl_fst | apply Keeps.foldl_snd | apply Keeps.ite | intro _)
    | dsimp only)

theorem freeConnection_keeps (n0 : Nat) (s : State) (hK0 : Keeps q n b k s) :
    Keeps q n b k (freeConnection n0 s) := by
  unfold freeConnection
  try dsimp only
  repeat' (first
    | (with_reducible first | assumption | apply Keeps.foldl | apply Keeps.foldl_fst | apply Keeps.foldl_snd | apply Keeps.ite | intro _)
    | dsimp only | (fail_if_no_progress refine Keeps.mk rfl ?_))

theorem removeQp_keeps (n0 : Nat) (s : State) (hK0 : Keeps q n b k s) (k_sched : k.sched = none := by assumption) :
    Keeps q n b k (removeQp n0 s) := by
  unfold removeQp
  try dsimp only
  repeat' (first
    | (with_reducible first
        | assumption | apply freeConnection_keeps | apply schedMod_keeps | apply Keeps.foldl | apply Keeps.foldl_fst | apply Keeps.foldl_snd
        | apply Keeps.ite | intro _)
    | dsimp only | (fail_if_no_progress refine Keeps.mk rfl ?_))

theorem execQpDestroyDone_keeps (qp : Nat) (s : State) (hK0 : Keeps q n b k s) (k_sched : k.sched = none := by assumption) :
    KeepsO q n b k (execQpDestroyDone qp s) := by
  unfold execQpDestroyDone
  try dsimp only
  repeat' (first
    | (with_reducible first
        | assumption | apply removeQp_keeps | apply whileLit_keeps | apply finishCmds_keeps | apply KeepsO.next | apply KeepsO.ite
        | apply KeepsO.fault | apply KeepsO.refused | apply Keeps.foldl | apply Keeps.foldl_fst | apply Keeps.foldl_snd | apply Keeps.ite
        | refine KeepsO.elim ?_ (by with_reducible assumption) | intro _)
    | dsimp only | (fail_if_no_progress refine Keeps.mk rfl ?_) | split)

theorem execQpQuery_keeps (c : Cmd) (s : State) (hK0 : Keeps q n b k s) :
    KeepsO q n b k (execQpQuery c s) := by
  unfold execQpQuery
  try dsimp only
  repeat' (with_reducible first | assumption | apply doQpQuery_keeps | apply runCmd_keeps | apply KeepsO.next)

theorem execQpReset_keeps (c : Cmd) (s : State) (hK0 : Keeps q n b k s) (k_sched : k.sched = none := by assumption) :
    KeepsO q n b k (execQpReset c s) := by
  unfold execQpReset
  try dsimp only
  repeat' (first
    | (with_reducible first
        | assumption | apply doQpReset_keeps | apply runCmd_keeps | apply KeepsO.next | apply KeepsO.ite | apply KeepsO.fault
        | apply KeepsO.refused | apply Keeps.foldl | apply Keeps.foldl_fst | apply Keeps.foldl_snd | apply Keeps.ite | intro _)
    | dsimp only)

theorem execQpResetDone_keeps (qp : Nat) (s : State) (hK0 : Keeps q n b k s) :
    KeepsO q n b k (execQpResetDone qp s) := by
  unfold execQpResetDone
  try dsimp only
  repeat' (first
    | (with_reducible first
        | assumption | apply freeConnection_keeps | apply qpMod_keeps | apply whileLit_keeps | apply finishCmds_keeps | apply KeepsO.next
        | apply KeepsO.ite | apply KeepsO.fault | apply KeepsO.refused | apply Keeps.foldl | apply Keeps.foldl_fst | apply Keeps.foldl_snd
        | apply Keeps.ite | refine KeepsO.elim ?_ (by with_reducible assumption) | intro _)
    | dsimp only | (fail_if_no_progress refine Keeps.mk rfl ?_) | split)

theorem execSrqCreate_keeps (c : Cmd) (s : State) (hK0 : Keeps q n b k s) (k_srqs : k.srqs = none := by assumption) :
    KeepsO q n b k (execSrqCreate c s) := by
  unfold execSrqCreate
  try dsimp only
  repeat' (first
    | (with_reducible first
        | assumption | apply doSrqCreate_keeps | apply runCmd_keeps | apply KeepsO.next | apply KeepsO.ite | apply KeepsO.fault
        | apply KeepsO.refused | apply Keeps.foldl | apply Keeps.foldl_fst | apply Keeps.foldl_snd | apply Keeps.ite | intro _)
    | dsimp only)

theorem execSrqDestroy_keeps (c : Cmd) (s : State) (hK0 : Keeps q n b k s) (k_srqs : k.srqs = none := by assumption) :
    KeepsO q n b k (execSrqDestroy c s) := by
  unfold execSrqDestroy
  try dsimp only
  repeat' (first
    | (with_reducible first
        | assumption | apply doSrqDestroy_keeps | apply runCmd_keeps | apply KeepsO.next | apply KeepsO.ite | apply KeepsO.fault
        | apply KeepsO.refused | apply Keeps.foldl | apply Keeps.foldl_fst | apply Keeps.foldl_snd | apply Keeps.ite | intro _)
    | dsimp only)

theorem grantAdmission_keeps (n0 : Nat) (a : Admission) (s : State) (hK0 : Keeps q n b k s) (k_sched : k.sched = none := by assumption) :
    Keeps q n b k (grantAdmission n0 a s) := by
  unfold grantAdmission
  try dsimp only
  repeat' (first
    | (with_reducible first
        | assumption | apply endAdmission_keeps | apply changeClassShaper_keeps | apply schedMod_keeps | apply keepAwake_keeps
        | apply qpMod_keeps | apply leaveTxLpi_keeps | apply Keeps.foldl | apply Keeps.foldl_fst | apply Keeps.foldl_snd | apply Keeps.ite | intro _)
    | dsimp only)

theorem doQpAdmit_keeps (c : Cmd) (s : State) (hK0 : Keeps q n b k s) (k_sched : k.sched = none := by assumption) :
    KeepsC q n b k (doQpAdmit c s) := by
  unfold doQpAdmit
  try dsimp only
  repeat' (first
    | (with_reducible first
        | assumption | apply grantAdmission_keeps | apply cmdFail_keeps | apply KeepsC.done | apply KeepsC.deferred | apply KeepsC.later
        | apply KeepsC.ite | apply Keeps.foldl | apply Keeps.foldl_fst | apply Keeps.foldl_snd | apply Keeps.ite | intro _)
    | dsimp only | (fail_if_no_progress refine Keeps.mk rfl ?_) | split)

theorem doQpAdmitQuery_keeps (c : Cmd) (s : State) (hK0 : Keeps q n b k s) :
    KeepsC q n b k (doQpAdmitQuery c s) := by
  unfold doQpAdmitQuery
  try dsimp only
  repeat' (first
    | (with_reducible first
        | assumption | apply cmdFail_keeps | apply KeepsC.done | apply KeepsC.deferred | apply KeepsC.later | apply KeepsC.ite
        | apply Keeps.foldl | apply Keeps.foldl_fst | apply Keeps.foldl_snd | apply Keeps.ite | intro _)
    | dsimp only | (fail_if_no_progress refine Keeps.mk rfl ?_) | split)

theorem doQpRelease_keeps (c : Cmd) (s : State) (hK0 : Keeps q n b k s) (k_sched : k.sched = none := by assumption) :
    KeepsC q n b k (doQpRelease c s) := by
  unfold doQpRelease
  try dsimp only
  repeat' (first
    | (with_reducible first
        | assumption | apply endAdmission_keeps | apply cmdOk_keeps | apply cmdFail_keeps | apply KeepsC.done | apply KeepsC.deferred
        | apply KeepsC.later | apply KeepsC.ite | apply Keeps.foldl | apply Keeps.foldl_fst | apply Keeps.foldl_snd | apply Keeps.ite
        | intro _)
    | dsimp only | (fail_if_no_progress refine Keeps.mk rfl ?_) | split)

theorem withdrawAdmission_keeps (n0 : Nat) (s : State) (hK0 : Keeps q n b k s) :
    Keeps q n b k (withdrawAdmission n0 s) := by
  unfold withdrawAdmission
  try dsimp only
  repeat' (first
    | (with_reducible first
        | assumption | apply qpMod_keeps | apply raiseEvent_keeps | apply Keeps.foldl | apply Keeps.foldl_fst | apply Keeps.foldl_snd
        | apply Keeps.ite | intro _)
    | dsimp only | (fail_if_no_progress refine Keeps.mk rfl ?_) | split)

theorem recheckAll_keeps (s : State) (hK0 : Keeps q n b k s) :
    Keeps q n b k (recheckAll s) := by
  unfold recheckAll
  try dsimp only
  repeat' (first
    | (with_reducible first
        | assumption | apply withdrawAdmission_keeps | apply Keeps.foldl | apply Keeps.foldl_fst | apply Keeps.foldl_snd | apply Keeps.ite
        | intro _)
    | dsimp only | (fail_if_no_progress refine Keeps.mk rfl ?_) | split)

theorem execAdmissionRecheck_keeps (s : State) (hK0 : Keeps q n b k s) (k_sched : k.sched = none := by assumption) :
    KeepsO q n b k (execAdmissionRecheck s) := by
  unfold execAdmissionRecheck
  try dsimp only
  repeat' (first
    | (with_reducible first
        | assumption | apply recheckAll_keeps | apply schedMod_keeps | apply whileLit_keeps | apply KeepsO.next | apply KeepsO.ite
        | apply KeepsO.fault | apply KeepsO.refused | apply Keeps.foldl | apply Keeps.foldl_fst | apply Keeps.foldl_snd | apply Keeps.ite
        | refine KeepsO.elim ?_ (by with_reducible assumption) | intro _)
    | dsimp only | (fail_if_no_progress refine Keeps.mk rfl ?_) | split)

theorem execQpAdmit_keeps (c : Cmd) (s : State) (hK0 : Keeps q n b k s) (k_sched : k.sched = none := by assumption) :
    KeepsO q n b k (execQpAdmit c s) := by
  unfold execQpAdmit
  try dsimp only
  repeat' (first
    | (with_reducible first
        | assumption | apply doQpAdmit_keeps | apply runCmd_keeps | apply KeepsO.next | apply KeepsO.ite | apply KeepsO.fault
        | apply KeepsO.refused | apply Keeps.foldl | apply Keeps.foldl_fst | apply Keeps.foldl_snd | apply Keeps.ite | intro _)
    | dsimp only)

theorem execQpAdmitQuery_keeps (c : Cmd) (s : State) (hK0 : Keeps q n b k s) :
    KeepsO q n b k (execQpAdmitQuery c s) := by
  unfold execQpAdmitQuery
  try dsimp only
  repeat' (with_reducible first | assumption | apply doQpAdmitQuery_keeps | apply runCmd_keeps | apply KeepsO.next)

theorem execQpRelease_keeps (c : Cmd) (s : State) (hK0 : Keeps q n b k s) (k_sched : k.sched = none := by assumption) :
    KeepsO q n b k (execQpRelease c s) := by
  unfold execQpRelease
  try dsimp only
  repeat' (first
    | (with_reducible first
        | assumption | apply doQpRelease_keeps | apply runCmd_keeps | apply KeepsO.next | apply KeepsO.ite | apply KeepsO.fault
        | apply KeepsO.refused | apply Keeps.foldl | apply Keeps.foldl_fst | apply Keeps.foldl_snd | apply Keeps.ite | intro _)
    | dsimp only)

theorem wantRecheck_keeps (s : State) (hK0 : Keeps q n b k s) (k_sched : k.sched = none := by assumption) :
    Keeps q n b k (wantRecheck s) := by
  unfold wantRecheck
  try dsimp only
  repeat' (first
    | (with_reducible first | assumption | apply Keeps.foldl | apply Keeps.foldl_fst | apply Keeps.foldl_snd | apply Keeps.ite | intro _)
    | dsimp only | (fail_if_no_progress refine Keeps.mk rfl ?_))

end Sys2Proof.Machine
end

