-- ==== Sys2Proof/Laws/KeepsFabric.lean ====
section
/-! SUPPORT. What each function of Machine/Fabric.lean keeps: the parts of State that stand in `Kept`, the queue, and the invariant. -/

set_option linter.unusedTactic false
set_option linter.unreachableTactic false
set_option linter.unusedVariables false
namespace Sys2Proof.Machine
set_option Elab.async false
variable {q : List Instr} {n : Nat} {b : Bool} {k : Kept}

theorem fabMod_keeps (f : Fabric → Fabric) (s : State) (hK0 : Keeps q n b k s) :
    Keeps q n b k (fabMod f s) := by
  unfold fabMod
  try dsimp only
  repeat' (first
    | (with_reducible first | assumption | apply Keeps.foldl | apply Keeps.foldl_fst | apply Keeps.foldl_snd | apply Keeps.ite | intro _)
    | dsimp only | (fail_if_no_progress refine Keeps.mk rfl ?_))

theorem putFlood_keeps (f : Sys2Proof.Flit) (s : State) (p : Nat × Nat) (hK0 : Keeps q n b k s) :
    Keeps q n b k (putFlood f s p) := by
  unfold putFlood
  try dsimp only
  repeat' (first
    | (with_reducible first
        | assumption | apply fabMod_keeps | apply sendFlit_keeps | apply Keeps.foldl | apply Keeps.foldl_fst | apply Keeps.foldl_snd
        | apply Keeps.ite | intro _)
    | dsimp only)

theorem floodFlit_keeps (f : Sys2Proof.Flit) (dirs : List Nat) (s : State) (hK0 : Keeps q n b k s) :
    Keeps q n b k (floodFlit f dirs s) := by
  unfold floodFlit
  try dsimp only
  repeat' (with_reducible first | assumption | apply putFlood_keeps | apply Keeps.foldl)

theorem setRing_keeps (axis : Nat) (f : RingInfo → RingInfo) (s : State) (hK0 : Keeps q n b k s) :
    Keeps q n b k (setRing axis f s) := by
  unfold setRing
  try dsimp only
  repeat' (with_reducible first | assumption | apply fabMod_keeps)

theorem raiseDrain_keeps (axis : Nat) (s : State) (hK0 : Keeps q n b k s) :
    Keeps q n b k (raiseDrain axis s) := by
  unfold raiseDrain
  try dsimp only
  repeat' (first
    | (with_reducible first
        | assumption | apply fabMod_keeps | apply raiseEvent_keeps | apply Keeps.foldl | apply Keeps.foldl_fst | apply Keeps.foldl_snd
        | apply Keeps.ite | intro _)
    | dsimp only)

theorem formRing_keeps (axis : Nat) (s : State) (hK0 : Keeps q n b k s) :
    Keeps q n b k (formRing axis s) := by
  unfold formRing
  try dsimp only
  repeat' (with_reducible first | assumption | apply raiseDrain_keeps | apply setRing_keeps | apply fabMod_keeps)

theorem finishCommits_keeps (s : State) (hK0 : Keeps q n b k s) :
    Keeps q n b k (finishCommits s) := by
  unfold finishCommits
  try dsimp only
  repeat' (with_reducible first | assumption | apply finishCmds_keeps)

theorem crossFlood_keeps (s : State) (hK0 : Keeps q n b k s) :
    Keeps q n b k (crossFlood s) := by
  unfold crossFlood
  try dsimp only
  repeat' (first
    | (with_reducible first
        | assumption | apply finishCommits_keeps | apply fabMod_keeps | apply sendFlit_keeps | apply Keeps.foldl | apply Keeps.foldl_fst
        | apply Keeps.foldl_snd | apply Keeps.ite | intro _)
    | dsimp only)

theorem foldHere_keeps (d : Nat) (s : State) (hK0 : Keeps q n b k s) (k_sched : k.sched = none := by assumption) :
    Keeps q n b k (foldHere d s) := by
  unfold foldHere
  try dsimp only
  repeat' (first
    | (with_reducible first
        | assumption | apply crossFlood_keeps | apply formRing_keeps | apply setRing_keeps | apply floodFlit_keeps | apply fabMod_keeps
        | apply wantRecheck_keeps | apply raiseEvent_keeps | apply Keeps.foldl | apply Keeps.foldl_fst | apply Keeps.foldl_snd
        | apply Keeps.ite | intro _)
    | dsimp only)

theorem unfoldRing_keeps (axis : Nat) (s : State) (hK0 : Keeps q n b k s) :
    Keeps q n b k (unfoldRing axis s) := by
  unfold unfoldRing
  try dsimp only
  repeat' (first
    | (with_reducible first
        | assumption | apply formRing_keeps | apply setRing_keeps | apply fabMod_keeps | apply closeEvent_keeps | apply Keeps.foldl
        | apply Keeps.foldl_fst | apply Keeps.foldl_snd | apply Keeps.ite | intro _)
    | dsimp only)

theorem applyLinkUse_keeps (use : Sys2Proof.W8) (axis : Nat) (first : Bool) (s : State) (hK0 : Keeps q n b k s) (k_sched : k.sched = none := by assumption) :
    Keeps q n b k (applyLinkUse use axis first s) := by
  unfold applyLinkUse
  try dsimp only
  repeat' (first
    | (with_reducible first
        | assumption | apply unfoldRing_keeps | apply foldHere_keeps | apply formRing_keeps | apply floodFlit_keeps | apply fabMod_keeps
        | apply Keeps.foldl | apply Keeps.foldl_fst | apply Keeps.foldl_snd | apply Keeps.ite | intro _)
    | dsimp only)

theorem bearingMod_keeps (b0 : Bool) (f : Bearing → Bearing) (s : State) (hK0 : Keeps q n b k s) :
    Keeps q n b k (bearingMod b0 f s) := by
  unfold bearingMod
  try dsimp only
  repeat' (with_reducible first | assumption | apply fabMod_keeps)

theorem doFabIdent_keeps (c : Cmd) (s : State) (hK0 : Keeps q n b k s) :
    KeepsC q n b k (doFabIdent c s) := by
  unfold doFabIdent
  try dsimp only
  repeat' (first
    | (with_reducible first
        | assumption | apply fabMod_keeps | apply cmdOk_keeps | apply cmdFail_keeps | apply KeepsC.done | apply KeepsC.deferred
        | apply KeepsC.later | apply KeepsC.ite | apply Keeps.foldl | apply Keeps.foldl_fst | apply Keeps.foldl_snd | apply Keeps.ite
        | intro _)
    | dsimp only)

theorem doFabPortQuery_keeps (c : Cmd) (s : State) (hK0 : Keeps q n b k s) :
    KeepsC q n b k (doFabPortQuery c s) := by
  unfold doFabPortQuery
  try dsimp only
  repeat' (with_reducible first | assumption | apply needParam_keeps | apply KeepsC.done)

theorem loseEgress_keeps (s : State) (u : EgressUnit) (hK0 : Keeps q n b k s) (k_sched : k.sched = none := by assumption) :
    Keeps q n b k (loseEgress s u) := by
  unfold loseEgress
  try dsimp only
  repeat' (first
    | (with_reducible first
        | assumption | apply resultGone_keeps | apply Keeps.foldl | apply Keeps.foldl_fst | apply Keeps.foldl_snd | apply Keeps.ite
        | intro _)
    | dsimp only | (fail_if_no_progress refine Keeps.mk rfl ?_) | split)

theorem portDown_keeps (port : Nat) (s : State) (hK0 : Keeps q n b k s) (k_sched : k.sched = none := by assumption) :
    Keeps q n b k (portDown port s) := by
  unfold portDown
  try dsimp only
  repeat' (first
    | (with_reducible first
        | assumption | apply loseEgress_keeps | apply foldHere_keeps | apply wantRecheck_keeps | apply judgePaths_keeps
        | apply settleClock_keeps | apply streamMod_keeps | apply portMod_keeps | apply raiseEvent_keeps | apply Keeps.foldl
        | apply Keeps.foldl_fst | apply Keeps.foldl_snd | apply Keeps.ite | intro _)
    | dsimp only | (fail_if_no_progress refine Keeps.mk rfl ?_) | split)

theorem doFabPortSet_keeps (c : Cmd) (s : State) (hK0 : Keeps q n b k s) (k_sched : k.sched = none := by assumption) :
    KeepsC q n b k (doFabPortSet c s) := by
  unfold doFabPortSet
  try dsimp only
  repeat' (first
    | (with_reducible first
        | assumption | apply portDown_keeps | apply fabMod_keeps | apply cmdOk_keeps | apply cmdFail_keeps | apply settleClock_keeps
        | apply KeepsC.done | apply KeepsC.deferred | apply KeepsC.later | apply KeepsC.ite | apply Keeps.foldl | apply Keeps.foldl_fst
        | apply Keeps.foldl_snd | apply Keeps.ite | intro _)
    | dsimp only | (fail_if_no_progress refine Keeps.mk rfl ?_) | split)

theorem doFabRingQuery_keeps (c : Cmd) (s : State) (hK0 : Keeps q n b k s) :
    KeepsC q n b k (doFabRingQuery c s) := by
  unfold doFabRingQuery
  try dsimp only
  repeat' (with_reducible first | assumption | apply needParam_keeps | apply KeepsC.done)

theorem withBearing_keeps (c : Cmd) (m : BearingMode) (s : State) (k0 : Bool → Bearing → CmdOut) (hK0 : Keeps q n b k s) (hK1 : ∀ v0 v1, KeepsC q n b k (k0 v0 v1)) :
    KeepsC q n b k (withBearing c m s k0) := by
  unfold withBearing
  try dsimp only
  repeat' (first
    | (with_reducible first
        | assumption | apply cmdFail_keeps | apply hK1 | apply KeepsC.done | apply KeepsC.deferred | apply KeepsC.later | apply KeepsC.ite
        | apply Keeps.foldl | apply Keeps.foldl_fst | apply Keeps.foldl_snd | apply Keeps.ite | intro _)
    | dsimp only)

theorem doRouteArm_keeps (c : Cmd) (s : State) (hK0 : Keeps q n b k s) :
    KeepsC q n b k (doRouteArm c s) := by
  unfold doRouteArm
  try dsimp only
  repeat' (first
    | (with_reducible first
        | assumption | apply withBearing_keeps | apply bearingMod_keeps | apply cmdOk_keeps | apply cmdFail_keeps | apply KeepsC.done
        | apply KeepsC.deferred | apply KeepsC.later | apply KeepsC.ite | apply Keeps.foldl | apply Keeps.foldl_fst | apply Keeps.foldl_snd
        | apply Keeps.ite | intro _)
    | dsimp only)

theorem flipBearing_keeps (b0 : Bool) (s : State) (hK0 : Keeps q n b k s) (k_sched : k.sched = none := by assumption) :
    Keeps q n b k (flipBearing b0 s) := by
  unfold flipBearing
  try dsimp only
  repeat' (with_reducible first
    | assumption | apply bearingMod_keeps | apply applyLinkUse_keeps | apply floodFlit_keeps | apply fabMod_keeps | apply wantRecheck_keeps
    | apply judgePaths_keeps)

theorem doRouteCommit_keeps (c : Cmd) (s : State) (hK0 : Keeps q n b k s) (k_sched : k.sched = none := by assumption) :
    KeepsC q n b k (doRouteCommit c s) := by
  unfold doRouteCommit
  try dsimp only
  repeat' (first
    | (with_reducible first
        | assumption | apply flipBearing_keeps | apply cmdFail_keeps | apply KeepsC.done | apply KeepsC.deferred | apply KeepsC.later
        | apply KeepsC.ite | apply Keeps.foldl | apply Keeps.foldl_fst | apply Keeps.foldl_snd | apply Keeps.ite | intro _)
    | dsimp only | (fail_if_no_progress refine Keeps.mk rfl ?_) | split)

theorem doRouteDisarm_keeps (c : Cmd) (s : State) (hK0 : Keeps q n b k s) :
    KeepsC q n b k (doRouteDisarm c s) := by
  unfold doRouteDisarm
  try dsimp only
  repeat' (first
    | (with_reducible first
        | assumption | apply withBearing_keeps | apply bearingMod_keeps | apply cmdOk_keeps | apply KeepsC.done | apply KeepsC.deferred
        | apply KeepsC.later | apply KeepsC.ite | apply Keeps.foldl | apply Keeps.foldl_fst | apply Keeps.foldl_snd | apply Keeps.ite
        | intro _)
    | dsimp only)

theorem doRouteDrain_keeps (c : Cmd) (s : State) (hK0 : Keeps q n b k s) :
    KeepsC q n b k (doRouteDrain c s) := by
  unfold doRouteDrain
  try dsimp only
  repeat' (with_reducible first | assumption | apply fabMod_keeps | apply needParam_keeps | apply cmdOk_keeps)

theorem doRouteQuery_keeps (x____Sys2Proof_Machine_Fabric_3034221011__hygCtx__hyg_2 : Cmd) (s : State) (hK0 : Keeps q n b k s) :
    KeepsC q n b k (doRouteQuery x____Sys2Proof_Machine_Fabric_3034221011__hygCtx__hyg_2 s) := by
  unfold doRouteQuery
  try dsimp only
  repeat' (with_reducible first | assumption | apply KeepsC.done)

theorem doRouteWrite_keeps (c : Cmd) (s : State) (hK0 : Keeps q n b k s) :
    KeepsC q n b k (doRouteWrite c s) := by
  unfold doRouteWrite
  try dsimp only
  repeat' (first
    | (with_reducible first
        | assumption | apply withBearing_keeps | apply bearingMod_keeps | apply cmdOk_keeps | apply cmdFail_keeps | apply KeepsC.done
        | apply KeepsC.deferred | apply KeepsC.later | apply KeepsC.ite | apply Keeps.foldl | apply Keeps.foldl_fst | apply Keeps.foldl_snd
        | apply Keeps.ite | intro _)
    | dsimp only)

theorem dropFlit_keeps (s : State) (hK0 : Keeps q n b k s) :
    Keeps q n b k (dropFlit s) := by
  unfold dropFlit
  try dsimp only
  repeat' (with_reducible first | assumption | apply fabMod_keeps)

theorem execBearingDrainEnd_keeps (s : State) (hK0 : Keeps q n b k s) :
    KeepsO q n b k (execBearingDrainEnd s) := by
  unfold execBearingDrainEnd
  try dsimp only
  repeat' (first
    | (with_reducible first
        | assumption | apply bearingMod_keeps | apply whileLit_keeps | apply advanceTo_keeps | apply KeepsO.next | apply KeepsO.ite
        | apply KeepsO.fault | apply KeepsO.refused | apply Keeps.foldl | apply Keeps.foldl_fst | apply Keeps.foldl_snd | apply Keeps.ite
        | refine KeepsO.elim ?_ (by with_reducible assumption) | intro _)
    | dsimp only)

theorem execFabIdent_keeps (c : Cmd) (s : State) (hK0 : Keeps q n b k s) :
    KeepsO q n b k (execFabIdent c s) := by
  unfold execFabIdent
  try dsimp only
  repeat' (with_reducible first | assumption | apply doFabIdent_keeps | apply runCmd_keeps | apply KeepsO.next)

theorem execFabPortQuery_keeps (c : Cmd) (s : State) (hK0 : Keeps q n b k s) :
    KeepsO q n b k (execFabPortQuery c s) := by
  unfold execFabPortQuery
  try dsimp only
  repeat' (with_reducible first | assumption | apply doFabPortQuery_keeps | apply runCmd_keeps | apply KeepsO.next)

theorem execFabPortSet_keeps (c : Cmd) (s : State) (hK0 : Keeps q n b k s) (k_sched : k.sched = none := by assumption) :
    KeepsO q n b k (execFabPortSet c s) := by
  unfold execFabPortSet
  try dsimp only
  repeat' (first
    | (with_reducible first
        | assumption | apply doFabPortSet_keeps | apply runCmd_keeps | apply KeepsO.next | apply KeepsO.ite | apply KeepsO.fault
        | apply KeepsO.refused | apply Keeps.foldl | apply Keeps.foldl_fst | apply Keeps.foldl_snd | apply Keeps.ite | intro _)
    | dsimp only)

theorem execFabRingQuery_keeps (c : Cmd) (s : State) (hK0 : Keeps q n b k s) :
    KeepsO q n b k (execFabRingQuery c s) := by
  unfold execFabRingQuery
  try dsimp only
  repeat' (with_reducible first | assumption | apply doFabRingQuery_keeps | apply runCmd_keeps | apply KeepsO.next)

theorem execFabricPortLost_keeps (port : Nat) (s : State) (hK0 : Keeps q n b k s) (k_sched : k.sched = none := by assumption) :
    KeepsO q n b k (execFabricPortLost port s) := by
  unfold execFabricPortLost
  try dsimp only
  repeat' (first
    | (with_reducible first
        | assumption | apply portDown_keeps | apply KeepsO.next | apply KeepsO.ite | apply KeepsO.fault | apply KeepsO.refused
        | apply Keeps.foldl | apply Keeps.foldl_fst | apply Keeps.foldl_snd | apply Keeps.ite | intro _)
    | dsimp only)

theorem resendCompletions_keeps (withResults : Bool) (which : Nat × Nat → Bool) (port : Nat) (stream : Nat) (s : State) (hK0 : Keeps q n b k s) :
    Keeps q n b k (resendCompletions withResults which port stream s) := by
  unfold resendCompletions
  try dsimp only
  repeat' (first
    | (with_reducible first
        | assumption | apply sendKvResult_keeps | apply sendFlit_keeps | apply streamMod_keeps | apply Keeps.foldl | apply Keeps.foldl_fst
        | apply Keeps.foldl_snd | apply Keeps.ite | intro _)
    | dsimp only | (fail_if_no_progress refine Keeps.mk rfl ?_) | split)

theorem formTrained_keeps (axis : Nat) (s : State) (hK0 : Keeps q n b k s) :
    Keeps q n b k (formTrained axis s) := by
  unfold formTrained
  try dsimp only
  repeat' (first
    | (with_reducible first
        | assumption | apply formRing_keeps | apply Keeps.foldl | apply Keeps.foldl_fst | apply Keeps.foldl_snd | apply Keeps.ite | intro _)
    | dsimp only)

theorem execFabricPortTrained_keeps (port : Nat) (t : Sys2Proof.TrainInfo) (s : State) (hK0 : Keeps q n b k s) :
    KeepsO q n b k (execFabricPortTrained port t s) := by
  unfold execFabricPortTrained
  try dsimp only
  repeat' (first
    | (with_reducible first
        | assumption | apply formTrained_keeps | apply resendCompletions_keeps | apply judgePaths_keeps | apply portMod_keeps
        | apply KeepsO.next | apply KeepsO.ite | apply KeepsO.fault | apply KeepsO.refused | apply Keeps.foldl | apply Keeps.foldl_fst
        | apply Keeps.foldl_snd | apply Keeps.ite | intro _)
    | dsimp only | (fail_if_no_progress refine Keeps.mk rfl ?_) | split)

theorem execFabricTrainingRetry_keeps (port : Nat) (s : State) (hK0 : Keeps q n b k s) :
    KeepsO q n b k (execFabricTrainingRetry port s) := by
  unfold execFabricTrainingRetry
  try dsimp only
  repeat' (first
    | (with_reducible first
        | assumption | apply portMod_keeps | apply raiseEvent_keeps | apply advanceTo_keeps | apply KeepsO.next | apply KeepsO.ite
        | apply KeepsO.fault | apply KeepsO.refused | apply Keeps.foldl | apply Keeps.foldl_fst | apply Keeps.foldl_snd | apply Keeps.ite
        | intro _)
    | dsimp only | (fail_if_no_progress refine Keeps.mk rfl ?_) | split)

theorem takeMarker_keeps (port : Nat) (g : Nat) (f : Sys2Proof.Flit) (s : State) (hK0 : Keeps q n b k s) (k_sched : k.sched = none := by assumption) :
    Keeps q n b k (takeMarker port g f s) := by
  unfold takeMarker
  try dsimp only
  repeat' (first
    | (with_reducible first
        | assumption | apply flipBearing_keeps | apply putFlood_keeps | apply fabMod_keeps | apply raiseEvent_keeps | apply Keeps.foldl
        | apply Keeps.foldl_fst | apply Keeps.foldl_snd | apply Keeps.ite | intro _)
    | dsimp only | (fail_if_no_progress refine Keeps.mk rfl ?_) | split)

theorem execFlitMarker_keeps (port : Nat) (f : Sys2Proof.Flit) (s : State) (hK0 : Keeps q n b k s) (k_sched : k.sched = none := by assumption) :
    KeepsO q n b k (execFlitMarker port f s) := by
  unfold execFlitMarker
  try dsimp only
  repeat' (first
    | (with_reducible first
        | assumption | apply takeMarker_keeps | apply dropFlit_keeps | apply hearFlit_keeps | apply whileLit_keeps | apply KeepsO.next
        | apply KeepsO.ite | apply KeepsO.fault | apply KeepsO.refused | apply Keeps.foldl | apply Keeps.foldl_fst | apply Keeps.foldl_snd
        | apply Keeps.ite | refine KeepsO.elim ?_ (by with_reducible assumption) | intro _)
    | dsimp only)

theorem takeStatus_keeps (port : Nat) (f : Sys2Proof.Flit) (s : State) (hK0 : Keeps q n b k s) (k_sched : k.sched = none := by assumption) :
    Keeps q n b k (takeStatus port f s) := by
  unfold takeStatus
  try dsimp only
  repeat' (first
    | (with_reducible first
        | assumption | apply formRing_keeps | apply setRing_keeps | apply floodFlit_keeps | apply wantRecheck_keeps | apply Keeps.foldl
        | apply Keeps.foldl_fst | apply Keeps.foldl_snd | apply Keeps.ite | intro _)
    | dsimp only | (fail_if_no_progress refine Keeps.mk rfl ?_) | split)

theorem execFlitRingStatus_keeps (port : Nat) (f : Sys2Proof.Flit) (s : State) (hK0 : Keeps q n b k s) (k_sched : k.sched = none := by assumption) :
    KeepsO q n b k (execFlitRingStatus port f s) := by
  unfold execFlitRingStatus
  try dsimp only
  repeat' (first
    | (with_reducible first
        | assumption | apply takeStatus_keeps | apply dropFlit_keeps | apply hearFlit_keeps | apply whileLit_keeps | apply KeepsO.next
        | apply KeepsO.ite | apply KeepsO.fault | apply KeepsO.refused | apply Keeps.foldl | apply Keeps.foldl_fst | apply Keeps.foldl_snd
        | apply Keeps.ite | refine KeepsO.elim ?_ (by with_reducible assumption) | intro _)
    | dsimp only)

theorem execPilotNarrow_keeps (port : Nat) (s : State) (hK0 : Keeps q n b k s) :
    KeepsO q n b k (execPilotNarrow port s) := by
  unfold execPilotNarrow
  try dsimp only
  repeat' (first
    | (with_reducible first
        | assumption | apply portMod_keeps | apply whileLit_keeps | apply KeepsO.next | apply KeepsO.ite | apply KeepsO.fault
        | apply KeepsO.refused | apply Keeps.foldl | apply Keeps.foldl_fst | apply Keeps.foldl_snd | apply Keeps.ite
        | refine KeepsO.elim ?_ (by with_reducible assumption) | intro _)
    | dsimp only | (fail_if_no_progress refine Keeps.mk rfl ?_) | split)

theorem execPilotWiden_keeps (port : Nat) (s : State) (hK0 : Keeps q n b k s) :
    KeepsO q n b k (execPilotWiden port s) := by
  unfold execPilotWiden
  try dsimp only
  repeat' (first
    | (with_reducible first
        | assumption | apply portMod_keeps | apply whileLit_keeps | apply KeepsO.next | apply KeepsO.ite | apply KeepsO.fault
        | apply KeepsO.refused | apply Keeps.foldl | apply Keeps.foldl_fst | apply Keeps.foldl_snd | apply Keeps.ite
        | refine KeepsO.elim ?_ (by with_reducible assumption) | intro _)
    | dsimp only | (fail_if_no_progress refine Keeps.mk rfl ?_) | split)

theorem execRouteArm_keeps (c : Cmd) (s : State) (hK0 : Keeps q n b k s) :
    KeepsO q n b k (execRouteArm c s) := by
  unfold execRouteArm
  try dsimp only
  repeat' (with_reducible first | assumption | apply doRouteArm_keeps | apply runCmd_keeps | apply KeepsO.next)

theorem execRouteCommit_keeps (c : Cmd) (s : State) (hK0 : Keeps q n b k s) (k_sched : k.sched = none := by assumption) :
    KeepsO q n b k (execRouteCommit c s) := by
  unfold execRouteCommit
  try dsimp only
  repeat' (first
    | (with_reducible first
        | assumption | apply doRouteCommit_keeps | apply runCmd_keeps | apply KeepsO.next | apply KeepsO.ite | apply KeepsO.fault
        | apply KeepsO.refused | apply Keeps.foldl | apply Keeps.foldl_fst | apply Keeps.foldl_snd | apply Keeps.ite | intro _)
    | dsimp only)

theorem execRouteDisarm_keeps (c : Cmd) (s : State) (hK0 : Keeps q n b k s) :
    KeepsO q n b k (execRouteDisarm c s) := by
  unfold execRouteDisarm
  try dsimp only
  repeat' (with_reducible first | assumption | apply doRouteDisarm_keeps | apply runCmd_keeps | apply KeepsO.next)

theorem execRouteDrain_keeps (c : Cmd) (s : State) (hK0 : Keeps q n b k s) :
    KeepsO q n b k (execRouteDrain c s) := by
  unfold execRouteDrain
  try dsimp only
  repeat' (with_reducible first | assumption | apply doRouteDrain_keeps | apply runCmd_keeps | apply KeepsO.next)

theorem execRouteQuery_keeps (c : Cmd) (s : State) (hK0 : Keeps q n b k s) :
    KeepsO q n b k (execRouteQuery c s) := by
  unfold execRouteQuery
  try dsimp only
  repeat' (with_reducible first | assumption | apply doRouteQuery_keeps | apply runCmd_keeps | apply KeepsO.next)

theorem execRouteWrite_keeps (c : Cmd) (s : State) (hK0 : Keeps q n b k s) :
    KeepsO q n b k (execRouteWrite c s) := by
  unfold execRouteWrite
  try dsimp only
  repeat' (with_reducible first | assumption | apply doRouteWrite_keeps | apply runCmd_keeps | apply KeepsO.next)

theorem execSpurIdleEntry_keeps (port : Nat) (s : State) (hK0 : Keeps q n b k s) :
    KeepsO q n b k (execSpurIdleEntry port s) := by
  unfold execSpurIdleEntry
  try dsimp only
  repeat' (first
    | (with_reducible first
        | assumption | apply settleClock_keeps | apply portMod_keeps | apply whileLit_keeps | apply advanceTo_keeps | apply KeepsO.next
        | apply KeepsO.ite | apply KeepsO.fault | apply KeepsO.refused | apply Keeps.foldl | apply Keeps.foldl_fst | apply Keeps.foldl_snd
        | apply Keeps.ite | refine KeepsO.elim ?_ (by with_reducible assumption) | intro _)
    | dsimp only | (fail_if_no_progress refine Keeps.mk rfl ?_) | split)

theorem execSpurWake_keeps (port : Nat) (s : State) (hK0 : Keeps q n b k s) :
    KeepsO q n b k (execSpurWake port s) := by
  unfold execSpurWake
  try dsimp only
  repeat' (first
    | (with_reducible first
        | assumption | apply settleClock_keeps | apply portMod_keeps | apply whileLit_keeps | apply advanceTo_keeps | apply KeepsO.next
        | apply KeepsO.ite | apply KeepsO.fault | apply KeepsO.refused | apply Keeps.foldl | apply Keeps.foldl_fst | apply Keeps.foldl_snd
        | apply Keeps.ite | refine KeepsO.elim ?_ (by with_reducible assumption) | intro _)
    | dsimp only | (fail_if_no_progress refine Keeps.mk rfl ?_) | split)

end Sys2Proof.Machine
end

