-- ==== Sys2Proof/Laws/KeepsCollectives.lean ====
section
/-! SUPPORT. What each function of Machine/Coll.lean, Machine/CollCmds.lean, Machine/Attention.lean, Machine/Ramp.lean keeps: the parts of State that stand in `Kept`, the queue, and the invariant. -/

set_option linter.unusedTactic false
set_option linter.unreachableTactic false
set_option linter.unusedVariables false
namespace Sys2Proof.Machine
set_option Elab.async false
variable {q : List Instr} {n : Nat} {b : Bool} {k : Kept}

theorem collMod_keeps (f : Collectives → Collectives) (s : State) (hK0 : Keeps q n b k s) (k_coll : k.coll = none := by assumption) :
    Keeps q n b k (collMod f s) := by
  unfold collMod
  try dsimp only
  repeat' (first
    | (with_reducible first | assumption | apply Keeps.foldl | apply Keeps.foldl_fst | apply Keeps.foldl_snd | apply Keeps.ite | intro _)
    | dsimp only | (fail_if_no_progress refine Keeps.mk rfl ?_))

theorem groupMod_keeps (slot : Nat) (f : CollGroup → CollGroup) (s : State) (hK0 : Keeps q n b k s) (k_coll : k.coll = none := by assumption) :
    Keeps q n b k (groupMod slot f s) := by
  unfold groupMod
  try dsimp only
  repeat' (with_reducible first | assumption | apply collMod_keeps)

theorem runMod_keeps (slot : Nat) (seq : Sys2Proof.W32) (f : CollRun → CollRun) (s : State) (hK0 : Keeps q n b k s) (k_coll : k.coll = none := by assumption) :
    Keeps q n b k (runMod slot seq f s) := by
  unfold runMod
  try dsimp only
  repeat' (with_reducible first | assumption | apply groupMod_keeps)

theorem quietRun_keeps (slot : Nat) (seq : Sys2Proof.W32) (s : State) (hK0 : Keeps q n b k s) (k_coll : k.coll = none := by assumption) :
    Keeps q n b k (quietRun slot seq s) := by
  unfold quietRun
  try dsimp only
  repeat' (with_reducible first | assumption | apply runMod_keeps | apply collMod_keeps)

theorem abortSeq_keeps (slot : Nat) (seq : Sys2Proof.W32) (status : Status) (broken : Bool) (s : State) (hK0 : Keeps q n b k s) (k_coll : k.coll = none := by assumption) :
    Keeps q n b k (abortSeq slot seq status broken s) := by
  unfold abortSeq
  try dsimp only
  repeat' (first
    | (with_reducible first
        | assumption | apply quietRun_keeps | apply runMod_keeps | apply groupMod_keeps | apply Keeps.foldl | apply Keeps.foldl_fst
        | apply Keeps.foldl_snd | apply Keeps.ite | intro _)
    | dsimp only | (fail_if_no_progress refine Keeps.mk rfl ?_) | split)

theorem dutyDone_keeps (slot : Nat) (seq : Sys2Proof.W32) (n0 : Nat) (s : State) (hK0 : Keeps q n b k s) (k_coll : k.coll = none := by assumption) :
    Keeps q n b k (dutyDone slot seq n0 s) := by
  unfold dutyDone
  try dsimp only
  repeat' (with_reducible first | assumption | apply runMod_keeps)

theorem keepFinal_keeps (slot : Nat) (seq : Sys2Proof.W32) (k0 : Nat) (bytes : List Sys2Proof.Byte) (s : State) (hK0 : Keeps q n b k s) (k_coll : k.coll = none := by assumption) :
    Keeps q n b k (keepFinal slot seq k0 bytes s) := by
  unfold keepFinal
  try dsimp only
  repeat' (with_reducible first | assumption | apply runMod_keeps)

theorem putChunk_keeps (slot : Nat) (seq : Sys2Proof.W32) (id : Sys2Proof.ChunkId) (peer : Nat) (bytes : List Sys2Proof.Byte) (block : Nat) (ranks : Nat) (s : State) (hK0 : Keeps q n b k s) (k_coll : k.coll = none := by assumption) :
    Keeps q n b k (putChunk slot seq id peer bytes block ranks s) := by
  unfold putChunk
  try dsimp only
  repeat' (with_reducible first | assumption | apply runMod_keeps)

theorem forwardChunk_keeps (slot : Nat) (seq : Sys2Proof.W32) (leg : Nat) (west : Bool) (k0 : Nat) (bytes : List Sys2Proof.Byte) (s : State) (hK0 : Keeps q n b k s) (k_coll : k.coll = none := by assumption) :
    Keeps q n b k (forwardChunk slot seq leg west k0 bytes s) := by
  unfold forwardChunk
  try dsimp only
  repeat' (first
    | (with_reducible first
        | assumption | apply putChunk_keeps | apply Keeps.foldl | apply Keeps.foldl_fst | apply Keeps.foldl_snd | apply Keeps.ite | intro _)
    | dsimp only | (fail_if_no_progress refine Keeps.mk rfl ?_) | split)

theorem homeFinal_keeps (slot : Nat) (seq : Sys2Proof.W32) (g : CollGroup) (d : CollDesc) (k0 : Nat) (bytes : List Sys2Proof.Byte) (s : State) (hK0 : Keeps q n b k s) (k_coll : k.coll = none := by assumption) :
    Keeps q n b k (homeFinal slot seq g d k0 bytes s) := by
  unfold homeFinal
  try dsimp only
  repeat' (first
    | (with_reducible first
        | assumption | apply forwardChunk_keeps | apply keepFinal_keeps | apply dutyDone_keeps | apply Keeps.foldl | apply Keeps.foldl_fst
        | apply Keeps.foldl_snd | apply Keeps.ite | intro _)
    | dsimp only)

theorem endX_keeps (slot : Nat) (seq : Sys2Proof.W32) (g : CollGroup) (d : CollDesc) (k0 : Nat) (bytes : List Sys2Proof.Byte) (s : State) (hK0 : Keeps q n b k s) (k_coll : k.coll = none := by assumption) :
    Keeps q n b k (endX slot seq g d k0 bytes s) := by
  unfold endX
  try dsimp only
  repeat' (first
    | (with_reducible first
        | assumption | apply homeFinal_keeps | apply forwardChunk_keeps | apply dutyDone_keeps | apply runMod_keeps | apply Keeps.foldl
        | apply Keeps.foldl_fst | apply Keeps.foldl_snd | apply Keeps.ite | intro _)
    | dsimp only)

theorem afterX_keeps (slot : Nat) (seq : Sys2Proof.W32) (g : CollGroup) (d : CollDesc) (k0 : Nat) (bytes : List Sys2Proof.Byte) (s : State) (hK0 : Keeps q n b k s) (k_coll : k.coll = none := by assumption) :
    Keeps q n b k (afterX slot seq g d k0 bytes s) := by
  unfold afterX
  try dsimp only
  repeat' (first
    | (with_reducible first
        | assumption | apply endX_keeps | apply forwardChunk_keeps | apply dutyDone_keeps | apply Keeps.foldl | apply Keeps.foldl_fst
        | apply Keeps.foldl_snd | apply Keeps.ite | intro _)
    | dsimp only)

theorem afterY_keeps (slot : Nat) (seq : Sys2Proof.W32) (g : CollGroup) (d : CollDesc) (k0 : Nat) (bytes : List Sys2Proof.Byte) (s : State) (hK0 : Keeps q n b k s) (k_coll : k.coll = none := by assumption) :
    Keeps q n b k (afterY slot seq g d k0 bytes s) := by
  unfold afterY
  try dsimp only
  repeat' (first
    | (with_reducible first
        | assumption | apply homeFinal_keeps | apply forwardChunk_keeps | apply dutyDone_keeps | apply runMod_keeps | apply Keeps.foldl
        | apply Keeps.foldl_fst | apply Keeps.foldl_snd | apply Keeps.ite | intro _)
    | dsimp only)

theorem closeRun_keeps (slot : Nat) (s : State) (hK0 : Keeps q n b k s) (k_coll : k.coll = none := by assumption) :
    Keeps q n b k (closeRun slot s) := by
  unfold closeRun
  try dsimp only
  repeat' (first
    | (with_reducible first
        | assumption | apply groupMod_keeps | apply collMod_keeps | apply Keeps.foldl | apply Keeps.foldl_fst | apply Keeps.foldl_snd
        | apply Keeps.ite | intro _)
    | dsimp only | (fail_if_no_progress refine Keeps.mk rfl ?_) | split)

theorem queueFlits_keeps (slot : Nat) (dir : Option Nat) (l : List Sys2Proof.Flit) (s : State) (hK0 : Keeps q n b k s) (k_sched : k.sched = none := by assumption) :
    Keeps q n b k (queueFlits slot dir l s) := by
  unfold queueFlits
  try dsimp only
  repeat' (first
    | (with_reducible first
        | assumption | apply queueUnit_keeps | apply Keeps.foldl | apply Keeps.foldl_fst | apply Keeps.foldl_snd | apply Keeps.ite | intro _)
    | dsimp only | (fail_if_no_progress refine Keeps.mk rfl ?_) | split)

theorem floodAbort_keeps (slot : Nat) (seq : Sys2Proof.W32) (status : Status) (broken : Bool) (s : State) (hK0 : Keeps q n b k s) (k_sched : k.sched = none := by assumption) :
    Keeps q n b k (floodAbort slot seq status broken s) := by
  unfold floodAbort
  try dsimp only
  repeat' (first
    | (with_reducible first
        | assumption | apply queueFlits_keeps | apply Keeps.foldl | apply Keeps.foldl_fst | apply Keeps.foldl_snd | apply Keeps.ite
        | intro _)
    | dsimp only | (fail_if_no_progress refine Keeps.mk rfl ?_) | split)

theorem startAbort_keeps (slot : Nat) (seq : Sys2Proof.W32) (status : Status) (broken : Bool) (s : State) (hK0 : Keeps q n b k s) (k_sched : k.sched = none := by assumption) (k_coll : k.coll = none := by assumption) :
    Keeps q n b k (startAbort slot seq status broken s) := by
  unfold startAbort
  try dsimp only
  repeat' (with_reducible first | assumption | apply floodAbort_keeps | apply abortSeq_keeps)

theorem loseMember_keeps (slot : Nat) (seq : Sys2Proof.W32) (peer : Nat) (s : State) (hK0 : Keeps q n b k s) (k_sched : k.sched = none := by assumption) (k_coll : k.coll = none := by assumption) :
    Keeps q n b k (loseMember slot seq peer s) := by
  unfold loseMember
  try dsimp only
  repeat' (first
    | (with_reducible first
        | assumption | apply startAbort_keeps | apply raiseEvent_keeps | apply Keeps.foldl | apply Keeps.foldl_fst | apply Keeps.foldl_snd
        | apply Keeps.ite | intro _)
    | dsimp only | (fail_if_no_progress refine Keeps.mk rfl ?_) | split)

theorem collAbsent_keeps (slot : Nat) (seq : Sys2Proof.W32) (access : Nat) (rec : Nat) (x : Nat × Nat × Nat) (s : State) (hK0 : Keeps q n b k s) (k_sched : k.sched = none := by assumption) (k_coll : k.coll = none := by assumption) :
    Keeps q n b k (collAbsent slot seq access rec x s) := by
  unfold collAbsent
  try dsimp only
  repeat' (first
    | (with_reducible first
        | assumption | apply loseMember_keeps | apply complete_keeps | apply suspend_keeps | apply Keeps.foldl | apply Keeps.foldl_fst
        | apply Keeps.foldl_snd | apply Keeps.ite | intro _)
    | dsimp only | (fail_if_no_progress refine Keeps.mk rfl ?_) | split)

theorem sendAgree_keeps (slot : Nat) (seq : Sys2Proof.W32) (result : Bool) (mismatch : Bool) (hop : Nat × Nat × Bool) (s : State) (hK0 : Keeps q n b k s) (k_sched : k.sched = none := by assumption) (k_coll : k.coll = none := by assumption) :
    Keeps q n b k (sendAgree slot seq result mismatch hop s) := by
  unfold sendAgree
  try dsimp only
  repeat' (first
    | (with_reducible first
        | assumption | apply queueFlits_keeps | apply runMod_keeps | apply Keeps.foldl | apply Keeps.foldl_fst | apply Keeps.foldl_snd
        | apply Keeps.ite | intro _)
    | dsimp only | (fail_if_no_progress refine Keeps.mk rfl ?_) | split)

theorem takeResult_keeps (slot : Nat) (seq : Sys2Proof.W32) (mismatch : Bool) (s : State) (hK0 : Keeps q n b k s) (k_sched : k.sched = none := by assumption) (k_coll : k.coll = none := by assumption) :
    Keeps q n b k (takeResult slot seq mismatch s) := by
  unfold takeResult
  try dsimp only
  repeat' (first
    | (with_reducible first
        | assumption | apply sendAgree_keeps | apply runMod_keeps | apply Keeps.foldl | apply Keeps.foldl_fst | apply Keeps.foldl_snd
        | apply Keeps.ite | intro _)
    | dsimp only | (fail_if_no_progress refine Keeps.mk rfl ?_) | split)

theorem combineWords_keeps (slot : Nat) (seq : Sys2Proof.W32) (s : State) (hK0 : Keeps q n b k s) (k_sched : k.sched = none := by assumption) (k_coll : k.coll = none := by assumption) :
    Keeps q n b k (combineWords slot seq s) := by
  unfold combineWords
  try dsimp only
  repeat' (first
    | (with_reducible first
        | assumption | apply takeResult_keeps | apply sendAgree_keeps | apply runMod_keeps | apply Keeps.foldl | apply Keeps.foldl_fst
        | apply Keeps.foldl_snd | apply Keeps.ite | intro _)
    | dsimp only | (fail_if_no_progress refine Keeps.mk rfl ?_) | split)

theorem completeRun_keeps (slot : Nat) (seq : Sys2Proof.W32) (status : Status) (s : State) (hK0 : Keeps q n b k s) (k_coll : k.coll = none := by assumption) :
    Keeps q n b k (completeRun slot seq status s) := by
  unfold completeRun
  try dsimp only
  repeat' (first
    | (with_reducible first
        | assumption | apply runMod_keeps | apply complete_keeps | apply Keeps.foldl | apply Keeps.foldl_fst | apply Keeps.foldl_snd
        | apply Keeps.ite | intro _)
    | dsimp only | (fail_if_no_progress refine Keeps.mk rfl ?_) | split)

theorem sendCollAck_keeps (slot : Nat) (sig : Sys2Proof.W64) (peer : Nat) (id : Sys2Proof.ChunkId) (status : Nat) (num : Nat) (limit : Nat) (s : State) (hK0 : Keeps q n b k s) (k_sched : k.sched = none := by assumption) :
    Keeps q n b k (sendCollAck slot sig peer id status num limit s) := by
  unfold sendCollAck
  try dsimp only
  repeat' (first
    | (with_reducible first
        | assumption | apply queueFlits_keeps | apply Keeps.foldl | apply Keeps.foldl_fst | apply Keeps.foldl_snd | apply Keeps.ite
        | intro _)
    | dsimp only | (fail_if_no_progress refine Keeps.mk rfl ?_) | split)

theorem grantDirect_keeps (slot : Nat) (seq : Sys2Proof.W32) (s : State) (dev : Nat) (hK0 : Keeps q n b k s) (k_sched : k.sched = none := by assumption) (k_coll : k.coll = none := by assumption) :
    Keeps q n b k (grantDirect slot seq s dev) := by
  unfold grantDirect
  try dsimp only
  repeat' (first
    | (with_reducible first
        | assumption | apply sendCollAck_keeps | apply runMod_keeps | apply Keeps.foldl | apply Keeps.foldl_fst | apply Keeps.foldl_snd
        | apply Keeps.ite | intro _)
    | dsimp only | (fail_if_no_progress refine Keeps.mk rfl ?_) | split)

theorem noteLimit_keeps (slot : Nat) (seq : Sys2Proof.W32) (id : Sys2Proof.ChunkId) (limit : Nat) (s : State) (hK0 : Keeps q n b k s) (k_coll : k.coll = none := by assumption) :
    Keeps q n b k (noteLimit slot seq id limit s) := by
  unfold noteLimit
  try dsimp only
  repeat' (with_reducible first | assumption | apply runMod_keeps)

theorem grantStream_keeps (slot : Nat) (seq : Sys2Proof.W32) (s : State) (p : Nat × Bool) (hK0 : Keeps q n b k s) (k_sched : k.sched = none := by assumption) (k_coll : k.coll = none := by assumption) :
    Keeps q n b k (grantStream slot seq s p) := by
  unfold grantStream
  try dsimp only
  repeat' (first
    | (with_reducible first
        | assumption | apply noteLimit_keeps | apply sendCollAck_keeps | apply Keeps.foldl | apply Keeps.foldl_fst | apply Keeps.foldl_snd
        | apply Keeps.ite | intro _)
    | dsimp only | (fail_if_no_progress refine Keeps.mk rfl ?_) | split)

theorem grantCredits_keeps (slot : Nat) (seq : Sys2Proof.W32) (s : State) (hK0 : Keeps q n b k s) (k_sched : k.sched = none := by assumption) (k_coll : k.coll = none := by assumption) :
    Keeps q n b k (grantCredits slot seq s) := by
  unfold grantCredits
  try dsimp only
  repeat' (first
    | (with_reducible first
        | assumption | apply grantStream_keeps | apply grantDirect_keeps | apply Keeps.foldl | apply Keeps.foldl_fst | apply Keeps.foldl_snd
        | apply Keeps.ite | intro _)
    | dsimp only | (fail_if_no_progress refine Keeps.mk rfl ?_) | split)

theorem readRanges_keeps (fn : Nat) (ranges : List (Nat × Nat × Nat)) (s : State) (hK0 : Keeps q n b k s) :
    Keeps q n b k (readRanges fn ranges s).2 := by
  unfold readRanges
  try dsimp only
  repeat' (first
    | (with_reducible first
        | assumption | apply readAny_keeps | apply Keeps.foldl | apply Keeps.foldl_fst | apply Keeps.foldl_snd | apply Keeps.ite
        | refine Keeps.snd_elim ?_ (by with_reducible assumption) | intro _)
    | dsimp only)

theorem readLocals_keeps (g : CollGroup) (r : CollRun) (d : CollDesc) (k0 : Nat) (ms : List Nat) (s : State) (hK0 : Keeps q n b k s) :
    Keeps q n b k (readLocals g r d k0 ms s).2 := by
  unfold readLocals
  try dsimp only
  repeat' (first
    | (with_reducible first
        | assumption | apply readRanges_keeps | apply Keeps.foldl | apply Keeps.foldl_fst | apply Keeps.foldl_snd | apply Keeps.ite
        | refine Keeps.snd_elim ?_ (by with_reducible assumption) | intro _)
    | dsimp only)

theorem readChunk_keeps (slot : Nat) (seq : Sys2Proof.W32) (g : CollGroup) (r : CollRun) (d : CollDesc) (k0 : Nat) (s : State) (hK0 : Keeps q n b k s) (k_coll : k.coll = none := by assumption) :
    Keeps q n b k (readChunk slot seq g r d k0 s) := by
  unfold readChunk
  try dsimp only
  repeat' (first
    | (with_reducible first
        | assumption | apply readLocals_keeps | apply runMod_keeps | apply Keeps.foldl | apply Keeps.foldl_fst | apply Keeps.foldl_snd
        | apply Keeps.ite | refine Keeps.snd_elim ?_ (by with_reducible assumption) | intro _)
    | dsimp only | (fail_if_no_progress refine Keeps.mk rfl ?_))

theorem readAhead_keeps (fuel : Nat) (west : Bool) (slot : Nat) (seq : Sys2Proof.W32) (s : State) (hK0 : Keeps q n b k s) (k_sched : k.sched = none := by assumption) (k_coll : k.coll = none := by assumption) :
    Keeps q n b k (readAhead fuel west slot seq s) := by
  induction fuel generalizing west slot seq s with
  | zero =>
    unfold readAhead
    try dsimp only
    repeat' (with_reducible first | assumption)
  | succ j ih =>
    unfold readAhead
    try dsimp only
    repeat' (first
      | (with_reducible first
          | assumption | apply ih | apply readChunk_keeps | apply collAbsent_keeps | apply runMod_keeps | apply Keeps.foldl
          | apply Keeps.foldl_fst | apply Keeps.foldl_snd | apply Keeps.ite | intro _)
      | dsimp only | (fail_if_no_progress refine Keeps.mk rfl ?_) | split)

theorem markWriting_keeps (slot : Nat) (seq : Sys2Proof.W32) (s : State) (hK0 : Keeps q n b k s) (k_coll : k.coll = none := by assumption) :
    Keeps q n b k (markWriting slot seq s) := by
  unfold markWriting
  try dsimp only
  repeat' (first
    | (with_reducible first
        | assumption | apply runMod_keeps | apply workMod_keeps | apply Keeps.foldl | apply Keeps.foldl_fst | apply Keeps.foldl_snd
        | apply Keeps.ite | intro _)
    | dsimp only | (fail_if_no_progress refine Keeps.mk rfl ?_) | split)

theorem finishCombine_keeps (slot : Nat) (seq : Sys2Proof.W32) (s : State) (hK0 : Keeps q n b k s) (k_mem : k.mem = none := by assumption) (k_sched : k.sched = none := by assumption) (k_coll : k.coll = none := by assumption) :
    Keeps q n b k (finishCombine slot seq s) := by
  unfold finishCombine
  try dsimp only
  repeat' (first
    | (with_reducible first
        | assumption | apply markWriting_keeps | apply collAbsent_keeps | apply placeAt_keeps | apply Keeps.foldl | apply Keeps.foldl_fst
        | apply Keeps.foldl_snd | apply Keeps.ite | intro _)
    | dsimp only | (fail_if_no_progress refine Keeps.mk rfl ?_) | split)

theorem writeMember_keeps (slot : Nat) (g : CollGroup) (r : CollRun) (d : CollDesc) (k0 : Nat) (bytes : List Sys2Proof.Byte) (s : State) (m : Nat) (hK0 : Keeps q n b k s) (k_mem : k.mem = none := by assumption) :
    Keeps q n b k (writeMember slot g r d k0 bytes s m) := by
  unfold writeMember
  try dsimp only
  repeat' (first
    | (with_reducible first
        | assumption | apply placeAt_keeps | apply Keeps.foldl | apply Keeps.foldl_fst | apply Keeps.foldl_snd | apply Keeps.ite | intro _)
    | dsimp only)

theorem writeFinals_keeps (fuel : Nat) (slot : Nat) (seq : Sys2Proof.W32) (s : State) (hK0 : Keeps q n b k s) (k_mem : k.mem = none := by assumption) (k_sched : k.sched = none := by assumption) (k_coll : k.coll = none := by assumption) :
    Keeps q n b k (writeFinals fuel slot seq s) := by
  induction fuel generalizing slot seq s with
  | zero =>
    unfold writeFinals
    try dsimp only
    repeat' (with_reducible first | assumption)
  | succ j ih =>
    unfold writeFinals
    try dsimp only
    repeat' (first
      | (with_reducible first
          | assumption | apply ih | apply writeMember_keeps | apply markWriting_keeps | apply collAbsent_keeps | apply runMod_keeps
          | apply Keeps.foldl | apply Keeps.foldl_fst | apply Keeps.foldl_snd | apply Keeps.ite | intro _)
      | dsimp only | (fail_if_no_progress refine Keeps.mk rfl ?_) | split)

theorem originate_keeps (slot : Nat) (seq : Sys2Proof.W32) (g : CollGroup) (d : CollDesc) (k0 : Nat) (bytes : List Sys2Proof.Byte) (s : State) (hK0 : Keeps q n b k s) (k_coll : k.coll = none := by assumption) :
    Keeps q n b k (originate slot seq g d k0 bytes s) := by
  unfold originate
  try dsimp only
  repeat' (first
    | (with_reducible first
        | assumption | apply afterX_keeps | apply homeFinal_keeps | apply runMod_keeps | apply Keeps.foldl | apply Keeps.foldl_fst
        | apply Keeps.foldl_snd | apply Keeps.ite | intro _)
    | dsimp only)

theorem originateAll_keeps (slot : Nat) (seq : Sys2Proof.W32) (s : State) (hK0 : Keeps q n b k s) (k_coll : k.coll = none := by assumption) :
    Keeps q n b k (originateAll slot seq s) := by
  unfold originateAll
  try dsimp only
  repeat' (first
    | (with_reducible first
        | assumption | apply originate_keeps | apply Keeps.foldl | apply Keeps.foldl_fst | apply Keeps.foldl_snd | apply Keeps.ite | intro _)
    | dsimp only | (fail_if_no_progress refine Keeps.mk rfl ?_) | split)

theorem writeRanges_keeps (fn : Nat) (slot : Nat) (ranges : List (Nat × Nat)) (bytes : List Sys2Proof.Byte) (s : State) (hK0 : Keeps q n b k s) (k_mem : k.mem = none := by assumption) :
    Keeps q n b k (writeRanges fn slot ranges bytes s) := by
  unfold writeRanges
  try dsimp only
  repeat' (first
    | (with_reducible first
        | assumption | apply placeAt_keeps | apply Keeps.foldl | apply Keeps.foldl_fst | apply Keeps.foldl_snd | apply Keeps.ite | intro _)
    | dsimp only)

theorem placeDirect_keeps (slot : Nat) (seq : Sys2Proof.W32) (g : CollGroup) (r : CollRun) (d : CollDesc) (src : Nat) (dst : Nat) (off : Nat) (bytes : List Sys2Proof.Byte) (s : State) (hK0 : Keeps q n b k s) (k_mem : k.mem = none := by assumption) (k_coll : k.coll = none := by assumption) :
    Keeps q n b k (placeDirect slot seq g r d src dst off bytes s) := by
  unfold placeDirect
  try dsimp only
  repeat' (first
    | (with_reducible first
        | assumption | apply writeRanges_keeps | apply markWriting_keeps | apply runMod_keeps | apply Keeps.foldl | apply Keeps.foldl_fst
        | apply Keeps.foldl_snd | apply Keeps.ite | intro _)
    | dsimp only)

theorem placeWaits_keeps (fuel : Nat) (slot : Nat) (seq : Sys2Proof.W32) (s : State) (hK0 : Keeps q n b k s) (k_mem : k.mem = none := by assumption) (k_sched : k.sched = none := by assumption) (k_coll : k.coll = none := by assumption) :
    Keeps q n b k (placeWaits fuel slot seq s) := by
  induction fuel generalizing slot seq s with
  | zero =>
    unfold placeWaits
    try dsimp only
    repeat' (with_reducible first | assumption)
  | succ j ih =>
    unfold placeWaits
    try dsimp only
    repeat' (first
      | (with_reducible first
          | assumption | apply ih | apply placeDirect_keeps | apply collAbsent_keeps | apply dutyDone_keeps | apply runMod_keeps
          | apply Keeps.foldl | apply Keeps.foldl_fst | apply Keeps.foldl_snd | apply Keeps.ite | intro _)
      | dsimp only | (fail_if_no_progress refine Keeps.mk rfl ?_) | split)

theorem landDirect_keeps (slot : Nat) (seq : Sys2Proof.W32) (w : DirectWait) (s : State) (hK0 : Keeps q n b k s) (k_mem : k.mem = none := by assumption) (k_sched : k.sched = none := by assumption) (k_coll : k.coll = none := by assumption) :
    Keeps q n b k (landDirect slot seq w s) := by
  unfold landDirect
  try dsimp only
  repeat' (with_reducible first | assumption | apply placeWaits_keeps | apply runMod_keeps)

theorem sendDirect_keeps (fuel : Nat) (slot : Nat) (seq : Sys2Proof.W32) (dev : Nat) (s : State) (hK0 : Keeps q n b k s) (k_mem : k.mem = none := by assumption) (k_sched : k.sched = none := by assumption) (k_coll : k.coll = none := by assumption) :
    Keeps q n b k (sendDirect fuel slot seq dev s) := by
  induction fuel generalizing slot seq dev s with
  | zero =>
    unfold sendDirect
    try dsimp only
    repeat' (with_reducible first | assumption)
  | succ j ih =>
    unfold sendDirect
    try dsimp only
    repeat' (first
      | (with_reducible first
          | assumption | apply ih | apply landDirect_keeps | apply readRanges_keeps | apply collAbsent_keeps | apply putChunk_keeps
          | apply runMod_keeps | apply Keeps.foldl | apply Keeps.foldl_fst | apply Keeps.foldl_snd | apply Keeps.ite
          | refine Keeps.snd_elim ?_ (by with_reducible assumption) | intro _)
      | dsimp only | (fail_if_no_progress refine Keeps.mk rfl ?_) | split)

theorem sendDirects_keeps (slot : Nat) (seq : Sys2Proof.W32) (s : State) (hK0 : Keeps q n b k s) (k_mem : k.mem = none := by assumption) (k_sched : k.sched = none := by assumption) (k_coll : k.coll = none := by assumption) :
    Keeps q n b k (sendDirects slot seq s) := by
  unfold sendDirects
  try dsimp only
  repeat' (first
    | (with_reducible first
        | assumption | apply sendDirect_keeps | apply Keeps.foldl | apply Keeps.foldl_fst | apply Keeps.foldl_snd | apply Keeps.ite
        | intro _)
    | dsimp only | (fail_if_no_progress refine Keeps.mk rfl ?_) | split)

theorem runLegs_keeps (slot : Nat) (seq : Sys2Proof.W32) (s : State) (hK0 : Keeps q n b k s) (k_mem : k.mem = none := by assumption) (k_sched : k.sched = none := by assumption) (k_coll : k.coll = none := by assumption) :
    Keeps q n b k (runLegs slot seq s) := by
  unfold runLegs
  try dsimp only
  repeat' (first
    | (with_reducible first
        | assumption | apply sendDirects_keeps | apply placeWaits_keeps | apply originateAll_keeps | apply writeFinals_keeps
        | apply finishCombine_keeps | apply readAhead_keeps | apply Keeps.foldl | apply Keeps.foldl_fst | apply Keeps.foldl_snd
        | apply Keeps.ite | intro _)
    | dsimp only | (fail_if_no_progress refine Keeps.mk rfl ?_) | split)

theorem sendCounts_keeps (slot : Nat) (seq : Sys2Proof.W32) (d : CollDesc) (s : State) (hK0 : Keeps q n b k s) (k_coll : k.coll = none := by assumption) :
    Keeps q n b k (sendCounts slot seq d s) := by
  unfold sendCounts
  try dsimp only
  repeat' (first
    | (with_reducible first
        | assumption | apply putChunk_keeps | apply runMod_keeps | apply Keeps.foldl | apply Keeps.foldl_fst | apply Keeps.foldl_snd
        | apply Keeps.ite | intro _)
    | dsimp only | (fail_if_no_progress refine Keeps.mk rfl ?_) | split)

theorem takeEarly_keeps (slot : Nat) (seq : Sys2Proof.W32) (sig : Sys2Proof.W64) (s : State) (hK0 : Keeps q n b k s) (k_coll : k.coll = none := by assumption) :
    Keeps q n b k (takeEarly slot seq sig s) := by
  unfold takeEarly
  try dsimp only
  repeat' (first
    | (with_reducible first
        | assumption | apply runMod_keeps | apply groupMod_keeps | apply Keeps.foldl | apply Keeps.foldl_fst | apply Keeps.foldl_snd
        | apply Keeps.ite | intro _)
    | dsimp only | (fail_if_no_progress refine Keeps.mk rfl ?_) | split)

theorem formWord_keeps (slot : Nat) (seq : Sys2Proof.W32) (s : State) (hK0 : Keeps q n b k s) (k_coll : k.coll = none := by assumption) :
    Keeps q n b k (formWord slot seq s) := by
  unfold formWord
  try dsimp only
  repeat' (first
    | (with_reducible first
        | assumption | apply takeEarly_keeps | apply sendCounts_keeps | apply runMod_keeps | apply Keeps.foldl | apply Keeps.foldl_fst
        | apply Keeps.foldl_snd | apply Keeps.ite | intro _)
    | dsimp only | (fail_if_no_progress refine Keeps.mk rfl ?_) | split)

theorem openRun_keeps (slot : Nat) (seq : Sys2Proof.W32) (s : State) (hK0 : Keeps q n b k s) (k_coll : k.coll = none := by assumption) :
    Keeps q n b k (openRun slot seq s) := by
  unfold openRun
  try dsimp only
  repeat' (first
    | (with_reducible first
        | assumption | apply groupMod_keeps | apply Keeps.foldl | apply Keeps.foldl_fst | apply Keeps.foldl_snd | apply Keeps.ite | intro _)
    | dsimp only | (fail_if_no_progress refine Keeps.mk rfl ?_) | split)

theorem postEntry_keeps (slot : Nat) (rec : Nat) (s : State) (hK0 : Keeps q n b k s) (k_coll : k.coll = none := by assumption) :
    Keeps q n b k (postEntry slot rec s) := by
  unfold postEntry
  try dsimp only
  repeat' (first
    | (with_reducible first
        | assumption | apply openRun_keeps | apply formWord_keeps | apply runMod_keeps | apply groupMod_keeps | apply complete_keeps
        | apply readAny_keeps | apply workMod_keeps | apply Keeps.foldl | apply Keeps.foldl_fst | apply Keeps.foldl_snd | apply Keeps.ite
        | refine Keeps.snd_elim ?_ (by with_reducible assumption) | intro _)
    | dsimp only | (fail_if_no_progress refine Keeps.mk rfl ?_) | split)

theorem postWaiting_keeps (fuel : Nat) (slot : Nat) (s : State) (hK0 : Keeps q n b k s) (k_sched : k.sched = none := by assumption) (k_coll : k.coll = none := by assumption) :
    Keeps q n b k (postWaiting fuel slot s) := by
  induction fuel generalizing slot s with
  | zero =>
    unfold postWaiting
    try dsimp only
    repeat' (with_reducible first | assumption)
  | succ j ih =>
    unfold postWaiting
    try dsimp only
    repeat' (first
      | (with_reducible first
          | assumption | apply ih | apply postEntry_keeps | apply collAbsent_keeps | apply groupMod_keeps | apply Keeps.foldl
          | apply Keeps.foldl_fst | apply Keeps.foldl_snd | apply Keeps.ite | intro _)
      | dsimp only | (fail_if_no_progress refine Keeps.mk rfl ?_) | split)

theorem sendChunk_keeps (slot : Nat) (seq : Sys2Proof.W32) (again : Bool) (h0 : HeldChunk) (s : State) (hK0 : Keeps q n b k s) (k_sched : k.sched = none := by assumption) :
    Keeps q n b k (sendChunk slot seq again h0 s) := by
  unfold sendChunk
  try dsimp only
  repeat' (first
    | (with_reducible first
        | assumption | apply queueFlits_keeps | apply Keeps.foldl | apply Keeps.foldl_fst | apply Keeps.foldl_snd | apply Keeps.ite
        | intro _)
    | dsimp only | (fail_if_no_progress refine Keeps.mk rfl ?_) | split)

theorem flushChunks_keeps (slot : Nat) (seq : Sys2Proof.W32) (s : State) (hK0 : Keeps q n b k s) (k_sched : k.sched = none := by assumption) (k_coll : k.coll = none := by assumption) :
    Keeps q n b k (flushChunks slot seq s) := by
  unfold flushChunks
  try dsimp only
  repeat' (first
    | (with_reducible first
        | assumption | apply sendChunk_keeps | apply runMod_keeps | apply Keeps.foldl | apply Keeps.foldl_fst | apply Keeps.foldl_snd
        | apply Keeps.ite | intro _)
    | dsimp only | (fail_if_no_progress refine Keeps.mk rfl ?_) | split)

theorem flushAll_keeps (slot : Nat) (s : State) (hK0 : Keeps q n b k s) (k_sched : k.sched = none := by assumption) (k_coll : k.coll = none := by assumption) :
    Keeps q n b k (flushAll slot s) := by
  unfold flushAll
  try dsimp only
  repeat' (first
    | (with_reducible first
        | assumption | apply flushChunks_keeps | apply Keeps.foldl | apply Keeps.foldl_fst | apply Keeps.foldl_snd | apply Keeps.ite
        | intro _)
    | dsimp only | (fail_if_no_progress refine Keeps.mk rfl ?_) | split)

theorem readCountsOf_keeps (slot : Nat) (seq : Sys2Proof.W32) (s : State) (src : Nat) (hK0 : Keeps q n b k s) (k_sched : k.sched = none := by assumption) (k_coll : k.coll = none := by assumption) :
    Keeps q n b k (readCountsOf slot seq s src) := by
  unfold readCountsOf
  try dsimp only
  repeat' (first
    | (with_reducible first
        | assumption | apply startAbort_keeps | apply runMod_keeps | apply dropFlit_keeps | apply Keeps.foldl | apply Keeps.foldl_fst
        | apply Keeps.foldl_snd | apply Keeps.ite | intro _)
    | dsimp only | (fail_if_no_progress refine Keeps.mk rfl ?_) | split)

theorem readCounts_keeps (slot : Nat) (seq : Sys2Proof.W32) (s : State) (hK0 : Keeps q n b k s) (k_sched : k.sched = none := by assumption) (k_coll : k.coll = none := by assumption) :
    Keeps q n b k (readCounts slot seq s) := by
  unfold readCounts
  try dsimp only
  repeat' (first
    | (with_reducible first
        | assumption | apply readCountsOf_keeps | apply Keeps.foldl | apply Keeps.foldl_fst | apply Keeps.foldl_snd | apply Keeps.ite
        | intro _)
    | dsimp only | (fail_if_no_progress refine Keeps.mk rfl ?_) | split)

theorem dropGroup_keeps (slot : Nat) (s : State) (hK0 : Keeps q n b k s) (k_coll : k.coll = none := by assumption) :
    Keeps q n b k (dropGroup slot s) := by
  unfold dropGroup
  try dsimp only
  repeat' (first
    | (with_reducible first
        | assumption | apply collMod_keeps | apply unsuspend_keeps | apply journalFree_keeps | apply Keeps.foldl | apply Keeps.foldl_fst
        | apply Keeps.foldl_snd | apply Keeps.ite | intro _)
    | dsimp only | (fail_if_no_progress refine Keeps.mk rfl ?_) | split)

theorem failSetup_keeps (slot : Nat) (status : Status) (s : State) (hK0 : Keeps q n b k s) (k_coll : k.coll = none := by assumption) :
    Keeps q n b k (failSetup slot status s) := by
  unfold failSetup
  try dsimp only
  repeat' (with_reducible first | assumption | apply dropGroup_keeps | apply completeAll_keeps | apply finishCmds_keeps)

theorem endBroken_keeps (slot : Nat) (s : State) (hK0 : Keeps q n b k s) (k_coll : k.coll = none := by assumption) :
    Keeps q n b k (endBroken slot s) := by
  unfold endBroken
  try dsimp only
  repeat' (first
    | (with_reducible first
        | assumption | apply failSetup_keeps | apply completeRun_keeps | apply groupMod_keeps | apply unsuspend_keeps
        | apply completeAll_keeps | apply Keeps.foldl | apply Keeps.foldl_fst | apply Keeps.foldl_snd | apply Keeps.ite | intro _)
    | dsimp only | (fail_if_no_progress refine Keeps.mk rfl ?_) | split)

theorem writeAux_keeps (slot : Nat) (seq : Sys2Proof.W32) (g : CollGroup) (r : CollRun) (d : CollDesc) (s : State) (m : Nat) (hK0 : Keeps q n b k s) (k_mem : k.mem = none := by assumption) (k_coll : k.coll = none := by assumption) :
    Keeps q n b k (writeAux slot seq g r d s m) := by
  unfold writeAux
  try dsimp only
  repeat' (first
    | (with_reducible first
        | assumption | apply markWriting_keeps | apply placeAt_keeps | apply Keeps.foldl | apply Keeps.foldl_fst | apply Keeps.foldl_snd
        | apply Keeps.ite | intro _)
    | dsimp only | (fail_if_no_progress refine Keeps.mk rfl ?_) | split)

theorem startLegs_keeps (slot : Nat) (s : State) (hK0 : Keeps q n b k s) (k_mem : k.mem = none := by assumption) (k_sched : k.sched = none := by assumption) (k_coll : k.coll = none := by assumption) :
    Keeps q n b k (startLegs slot s) := by
  unfold startLegs
  try dsimp only
  repeat' (first
    | (with_reducible first
        | assumption | apply writeAux_keeps | apply collAbsent_keeps | apply loseMember_keeps | apply startAbort_keeps | apply runMod_keeps
        | apply completeAll_keeps | apply Keeps.foldl | apply Keeps.foldl_fst | apply Keeps.foldl_snd | apply Keeps.ite | intro _)
    | dsimp only | (fail_if_no_progress refine Keeps.mk rfl ?_) | split)

theorem collPump_keeps (fuel : Nat) (slot : Nat) (s : State) (hK0 : Keeps q n b k s) (k_mem : k.mem = none := by assumption) (k_sched : k.sched = none := by assumption) (k_coll : k.coll = none := by assumption) :
    Keeps q n b k (collPump fuel slot s) := by
  induction fuel generalizing slot s with
  | zero => exact hK0
  | succ j ih =>
    unfold collPump
    split
    · exact hK0
    · refine Keeps.ite (fun _ => endBroken_keeps _ _ hK0) fun _ => ?_
      extract_lets s1 each s3
      have he : ∀ (f : Nat → W32 → State → State) (t : State), (∀ a c u, Keeps q n b k u → Keeps q n b k (f a c u)) →
          Keeps q n b k t → Keeps q n b k (each f t) := by
        intro f t hf ht
        show Keeps q n b k (match groupGet t slot with | some g => g.runs.foldl (fun u p => f slot (BitVec.ofNat 32 p.1) u) t | none => t)
        split
        · exact Keeps.foldl _ (fun _ _ hu => hf _ _ _ hu) ht
        · exact ht
      have h3 : Keeps q n b k s3 := startLegs_keeps _ _ (he _ _ (fun _ _ _ hu => readCounts_keeps _ _ _ hu) (he _ _ (fun _ _ _ hu => combineWords_keeps _ _ _ hu) (postWaiting_keeps _ _ _ hK0)))
      clear_value s3
      clear he each s1
      split
      · exact h3
      · extract_lets z
        have h6 : Keeps q n b k (flushAll slot (grantCredits slot z (runLegs slot z s3))) := flushAll_keeps _ _ (grantCredits_keeps _ _ _ (runLegs_keeps _ _ _ h3))
        refine Keeps.ite (fun _ => endBroken_keeps _ _ h3) fun _ => ?_
        split
        · exact Keeps.ite (fun _ => ih _ _ (closeRun_keeps _ _ h3)) fun _ => h3
        · split
          · exact Keeps.ite (fun _ => ih _ _ (closeRun_keeps _ _ h3)) fun _ => flushAll_keeps _ _ h3
          · exact ih _ _ (closeRun_keeps _ _ (completeRun_keeps _ _ _ _ h3))
          · refine Keeps.ite (fun _ => ih _ _ (closeRun_keeps _ _ (completeRun_keeps _ _ _ _ h3))) fun _ => ?_
            split
            · exact Keeps.ite (fun _ => endBroken_keeps _ _ h6) fun _ => Keeps.ite (fun _ => ih _ _ h6) fun _ =>
                Keeps.ite (fun _ => ih _ _ (completeRun_keeps _ _ _ _ h6)) fun _ => h6
            · exact h6

theorem collGo_keeps (slot : Nat) (s : State) (hK0 : Keeps q n b k s) (k_mem : k.mem = none := by assumption) (k_sched : k.sched = none := by assumption) (k_coll : k.coll = none := by assumption) :
    Keeps q n b k (collGo slot s) := by
  unfold collGo
  try dsimp only
  repeat' (first
    | (with_reducible first
        | assumption | apply collPump_keeps | apply Keeps.foldl | apply Keeps.foldl_fst | apply Keeps.foldl_snd | apply Keeps.ite | intro _)
    | dsimp only | (fail_if_no_progress refine Keeps.mk rfl ?_) | split)

theorem takeGather_keeps (slot : Nat) (seq : Sys2Proof.W32) (g : CollGroup) (d : CollDesc) (leg : Nat) (k0 : Nat) (bytes : List Sys2Proof.Byte) (s : State) (hK0 : Keeps q n b k s) (k_coll : k.coll = none := by assumption) :
    Keeps q n b k (takeGather slot seq g d leg k0 bytes s) := by
  unfold takeGather
  try dsimp only
  repeat' (first
    | (with_reducible first
        | assumption | apply forwardChunk_keeps | apply keepFinal_keeps | apply dutyDone_keeps | apply Keeps.foldl | apply Keeps.foldl_fst
        | apply Keeps.foldl_snd | apply Keeps.ite | intro _)
    | dsimp only)

theorem ackChunk_keeps (slot : Nat) (seq : Sys2Proof.W32) (sig : Sys2Proof.W64) (src : Nat) (id : Sys2Proof.ChunkId) (status : Nat) (s : State) (hK0 : Keeps q n b k s) (k_sched : k.sched = none := by assumption) (k_coll : k.coll = none := by assumption) :
    Keeps q n b k (ackChunk slot seq sig src id status s) := by
  unfold ackChunk
  try dsimp only
  repeat' (first
    | (with_reducible first
        | assumption | apply noteLimit_keeps | apply sendCollAck_keeps | apply runMod_keeps | apply Keeps.foldl | apply Keeps.foldl_fst
        | apply Keeps.foldl_snd | apply Keeps.ite | intro _)
    | dsimp only | (fail_if_no_progress refine Keeps.mk rfl ?_) | split)

theorem awaitAgain_keeps (slot : Nat) (x : RxChunk) (s : State) (hK0 : Keeps q n b k s) (k_coll : k.coll = none := by assumption) :
    Keeps q n b k (awaitAgain slot x s) := by
  unfold awaitAgain
  try dsimp only
  repeat' (with_reducible first | assumption | apply groupMod_keeps)

theorem collEndMember_keeps (slot : Nat) (rec : Nat) (status : Status) (s : State) (hK0 : Keeps q n b k s) (k_mem : k.mem = none := by assumption) (k_sched : k.sched = none := by assumption) (k_coll : k.coll = none := by assumption) :
    Keeps q n b k (collEndMember slot rec status s) := by
  unfold collEndMember
  try dsimp only
  repeat' (first
    | (with_reducible first
        | assumption | apply collGo_keeps | apply loseMember_keeps | apply runMod_keeps | apply groupMod_keeps | apply unsuspend_keeps
        | apply complete_keeps | apply Keeps.foldl | apply Keeps.foldl_fst | apply Keeps.foldl_snd | apply Keeps.ite | intro _)
    | dsimp only | (fail_if_no_progress refine Keeps.mk rfl ?_) | split)

theorem collResume_keeps (slot : Nat) (s : State) (hK0 : Keeps q n b k s) (k_mem : k.mem = none := by assumption) (k_sched : k.sched = none := by assumption) (k_coll : k.coll = none := by assumption) :
    Keeps q n b k (collResume slot s) := by
  unfold collResume
  try dsimp only
  repeat' (with_reducible first | assumption | apply collGo_keeps | apply unsuspend_keeps)

theorem withGroup_keeps (c : Cmd) (s : State) (k0 : Nat → CollGroup → CmdOut) (hK0 : Keeps q n b k s) (hK1 : ∀ v0 v1, KeepsC q n b k (k0 v0 v1)) :
    KeepsC q n b k (withGroup c s k0) := by
  unfold withGroup
  try dsimp only
  repeat' (first
    | (with_reducible first
        | assumption | apply cmdFail_keeps | apply hK1 | apply KeepsC.done | apply KeepsC.deferred | apply KeepsC.later | apply KeepsC.ite
        | apply Keeps.foldl | apply Keeps.foldl_fst | apply Keeps.foldl_snd | apply Keeps.ite | intro _)
    | dsimp only | (fail_if_no_progress refine Keeps.mk rfl ?_) | split)

theorem doCollAbort_keeps (c : Cmd) (s : State) (hK0 : Keeps q n b k s) (k_mem : k.mem = none := by assumption) (k_sched : k.sched = none := by assumption) (k_coll : k.coll = none := by assumption) :
    KeepsC q n b k (doCollAbort c s) := by
  unfold doCollAbort
  try dsimp only
  repeat' (first
    | (with_reducible first
        | assumption | apply withGroup_keeps | apply collGo_keeps | apply startAbort_keeps | apply cmdOk_keeps | apply KeepsC.done
        | apply KeepsC.deferred | apply KeepsC.later | apply KeepsC.ite | apply Keeps.foldl | apply Keeps.foldl_fst | apply Keeps.foldl_snd
        | apply Keeps.ite | intro _)
    | dsimp only)

theorem doCollQuery_keeps (c : Cmd) (s : State) (hK0 : Keeps q n b k s) :
    KeepsC q n b k (doCollQuery c s) := by
  unfold doCollQuery
  try dsimp only
  repeat' (first
    | (with_reducible first
        | assumption | apply withGroup_keeps | apply KeepsC.done | apply KeepsC.deferred | apply KeepsC.later | apply KeepsC.ite
        | apply Keeps.foldl | apply Keeps.foldl_fst | apply Keeps.foldl_snd | apply Keeps.ite | intro _)
    | dsimp only)

theorem keepRecord_keeps (slot : Nat) (v : Nat) (s : State) (hK0 : Keeps q n b k s) (k_coll : k.coll = none := by assumption) :
    Keeps q n b k (keepRecord slot v s) := by
  unfold keepRecord
  try dsimp only
  repeat' (with_reducible first | assumption | apply groupMod_keeps)

theorem putRecord_keeps (slot : Nat) (id : Sys2Proof.ChunkId) (peer : Nat) (bytes : List Sys2Proof.Byte) (s : State) (hK0 : Keeps q n b k s) (k_sched : k.sched = none := by assumption) (k_coll : k.coll = none := by assumption) :
    Keeps q n b k (putRecord slot id peer bytes s) := by
  unfold putRecord
  try dsimp only
  repeat' (with_reducible first | assumption | apply sendChunk_keeps | apply groupMod_keeps)

theorem passRecord_keeps (slot : Nat) (origin : Nat) (column : Bool) (bytes : List Sys2Proof.Byte) (s : State) (hK0 : Keeps q n b k s) (k_sched : k.sched = none := by assumption) (k_coll : k.coll = none := by assumption) :
    Keeps q n b k (passRecord slot origin column bytes s) := by
  unfold passRecord
  try dsimp only
  repeat' (first
    | (with_reducible first
        | assumption | apply putRecord_keeps | apply Keeps.foldl | apply Keeps.foldl_fst | apply Keeps.foldl_snd | apply Keeps.ite | intro _)
    | dsimp only | (fail_if_no_progress refine Keeps.mk rfl ?_) | split)

theorem startExchange_keeps (slot : Nat) (s : State) (hK0 : Keeps q n b k s) (k_sched : k.sched = none := by assumption) (k_coll : k.coll = none := by assumption) :
    Keeps q n b k (startExchange slot s) := by
  unfold startExchange
  try dsimp only
  repeat' (first
    | (with_reducible first
        | assumption | apply passRecord_keeps | apply keepRecord_keeps | apply Keeps.foldl | apply Keeps.foldl_fst | apply Keeps.foldl_snd
        | apply Keeps.ite | intro _)
    | dsimp only | (fail_if_no_progress refine Keeps.mk rfl ?_) | split)

theorem doCollSetup_keeps (c : Cmd) (s : State) (hK0 : Keeps q n b k s) (k_sched : k.sched = none := by assumption) (k_coll : k.coll = none := by assumption) :
    KeepsC q n b k (doCollSetup c s) := by
  unfold doCollSetup
  try dsimp only
  repeat' (first
    | (with_reducible first
        | assumption | apply startExchange_keeps | apply collMod_keeps | apply needParam_keeps | apply cmdFail_keeps | apply KeepsC.done
        | apply KeepsC.deferred | apply KeepsC.later | apply KeepsC.ite | apply Keeps.foldl | apply Keeps.foldl_fst | apply Keeps.foldl_snd
        | apply Keeps.ite | intro _)
    | dsimp only | (fail_if_no_progress refine Keeps.mk rfl ?_) | split)

theorem tearDown_keeps (slot : Nat) (s : State) (hK0 : Keeps q n b k s) (k_mem : k.mem = none := by assumption) (k_sched : k.sched = none := by assumption) (k_coll : k.coll = none := by assumption) :
    Keeps q n b k (tearDown slot s) := by
  unfold tearDown
  try dsimp only
  repeat' (first
    | (with_reducible first
        | assumption | apply collGo_keeps | apply startAbort_keeps | apply groupMod_keeps | apply unsuspend_keeps | apply finishCmds_keeps
        | apply Keeps.foldl | apply Keeps.foldl_fst | apply Keeps.foldl_snd | apply Keeps.ite | intro _)
    | dsimp only | (fail_if_no_progress refine Keeps.mk rfl ?_) | split)

theorem doCollTeardown_keeps (c : Cmd) (s : State) (hK0 : Keeps q n b k s) (k_mem : k.mem = none := by assumption) (k_sched : k.sched = none := by assumption) (k_coll : k.coll = none := by assumption) :
    KeepsC q n b k (doCollTeardown c s) := by
  unfold doCollTeardown
  try dsimp only
  repeat' (first
    | (with_reducible first
        | assumption | apply tearDown_keeps | apply withGroup_keeps | apply cmdFail_keeps | apply KeepsC.done | apply KeepsC.deferred
        | apply KeepsC.later | apply KeepsC.ite | apply Keeps.foldl | apply Keeps.foldl_fst | apply Keeps.foldl_snd | apply Keeps.ite
        | intro _)
    | dsimp only)

theorem hearColl_keeps (slot : Nat) (src : Nat) (s : State) (hK0 : Keeps q n b k s) (k_coll : k.coll = none := by assumption) :
    Keeps q n b k (hearColl slot src s) := by
  unfold hearColl
  try dsimp only
  repeat' (with_reducible first | assumption | apply groupMod_keeps)

theorem takeCollAbort_keeps (f : Sys2Proof.Flit) (s : State) (hK0 : Keeps q n b k s) (k_mem : k.mem = none := by assumption) (k_sched : k.sched = none := by assumption) (k_coll : k.coll = none := by assumption) :
    Keeps q n b k (takeCollAbort f s) := by
  unfold takeCollAbort
  try dsimp only
  repeat' (first
    | (with_reducible first
        | assumption | apply hearColl_keeps | apply collGo_keeps | apply startAbort_keeps | apply groupMod_keeps | apply dropFlit_keeps
        | apply Keeps.foldl | apply Keeps.foldl_fst | apply Keeps.foldl_snd | apply Keeps.ite | intro _)
    | dsimp only | (fail_if_no_progress refine Keeps.mk rfl ?_) | split)

theorem execCollAbort_keeps (port : Nat) (f : Sys2Proof.Flit) (s : State) (hK0 : Keeps q n b k s) (k_mem : k.mem = none := by assumption) (k_sched : k.sched = none := by assumption) (k_coll : k.coll = none := by assumption) :
    KeepsO q n b k (execCollAbort port f s) := by
  unfold execCollAbort
  try dsimp only
  repeat' (first
    | (with_reducible first
        | assumption | apply takeCollAbort_keeps | apply dropFlit_keeps | apply hearFlit_keeps | apply whileLit_keeps | apply KeepsO.next
        | apply KeepsO.ite | apply KeepsO.fault | apply KeepsO.refused | apply Keeps.foldl | apply Keeps.foldl_fst | apply Keeps.foldl_snd
        | apply Keeps.ite | refine KeepsO.elim ?_ (by with_reducible assumption) | intro _)
    | dsimp only)

theorem execCollAbortCmd_keeps (c : Cmd) (s : State) (hK0 : Keeps q n b k s) (k_mem : k.mem = none := by assumption) (k_sched : k.sched = none := by assumption) (k_coll : k.coll = none := by assumption) :
    KeepsO q n b k (execCollAbortCmd c s) := by
  unfold execCollAbortCmd
  try dsimp only
  repeat' (first
    | (with_reducible first
        | assumption | apply doCollAbort_keeps | apply runCmd_keeps | apply KeepsO.next | apply KeepsO.ite | apply KeepsO.fault
        | apply KeepsO.refused | apply Keeps.foldl | apply Keeps.foldl_fst | apply Keeps.foldl_snd | apply Keeps.ite | intro _)
    | dsimp only)

theorem resendHeld_keeps (slot : Nat) (seq : Sys2Proof.W32) (h0 : Option HeldChunk) (s : State) (hK0 : Keeps q n b k s) (k_sched : k.sched = none := by assumption) :
    Keeps q n b k (resendHeld slot seq h0 s) := by
  unfold resendHeld
  try dsimp only
  repeat' (first
    | (with_reducible first
        | assumption | apply sendChunk_keeps | apply Keeps.foldl | apply Keeps.foldl_fst | apply Keeps.foldl_snd | apply Keeps.ite | intro _)
    | dsimp only | (fail_if_no_progress refine Keeps.mk rfl ?_) | split)

theorem takeCollAck_keeps (f : Sys2Proof.Flit) (s0 : State) (hK0 : Keeps q n b k s0) (k_mem : k.mem = none := by assumption) (k_sched : k.sched = none := by assumption) (k_coll : k.coll = none := by assumption) :
    Keeps q n b k (takeCollAck f s0) := by
  unfold takeCollAck
  try dsimp only
  repeat' (first
    | (with_reducible first
        | assumption | apply resendHeld_keeps | apply hearColl_keeps | apply collGo_keeps | apply runMod_keeps | apply groupMod_keeps
        | apply dropFlit_keeps | apply Keeps.foldl | apply Keeps.foldl_fst | apply Keeps.foldl_snd | apply Keeps.ite | intro _)
    | dsimp only | (fail_if_no_progress refine Keeps.mk rfl ?_) | split)

theorem execCollAck_keeps (port : Nat) (f : Sys2Proof.Flit) (s : State) (hK0 : Keeps q n b k s) (k_mem : k.mem = none := by assumption) (k_sched : k.sched = none := by assumption) (k_coll : k.coll = none := by assumption) :
    KeepsO q n b k (execCollAck port f s) := by
  unfold execCollAck
  try dsimp only
  repeat' (first
    | (with_reducible first
        | assumption | apply takeCollAck_keeps | apply dropFlit_keeps | apply hearFlit_keeps | apply whileLit_keeps | apply KeepsO.next
        | apply KeepsO.ite | apply KeepsO.fault | apply KeepsO.refused | apply Keeps.foldl | apply Keeps.foldl_fst | apply Keeps.foldl_snd
        | apply Keeps.ite | refine KeepsO.elim ?_ (by with_reducible assumption) | intro _)
    | dsimp only)

theorem takeCollAgree_keeps (f : Sys2Proof.Flit) (s : State) (hK0 : Keeps q n b k s) (k_mem : k.mem = none := by assumption) (k_sched : k.sched = none := by assumption) (k_coll : k.coll = none := by assumption) :
    Keeps q n b k (takeCollAgree f s) := by
  unfold takeCollAgree
  try dsimp only
  repeat' (first
    | (with_reducible first
        | assumption | apply hearColl_keeps | apply collGo_keeps | apply openRun_keeps | apply sendCollAck_keeps | apply takeResult_keeps
        | apply runMod_keeps | apply dropFlit_keeps | apply Keeps.foldl | apply Keeps.foldl_fst | apply Keeps.foldl_snd | apply Keeps.ite
        | intro _)
    | dsimp only | (fail_if_no_progress refine Keeps.mk rfl ?_) | split)

theorem execCollAgree_keeps (port : Nat) (f : Sys2Proof.Flit) (s : State) (hK0 : Keeps q n b k s) (k_mem : k.mem = none := by assumption) (k_sched : k.sched = none := by assumption) (k_coll : k.coll = none := by assumption) :
    KeepsO q n b k (execCollAgree port f s) := by
  unfold execCollAgree
  try dsimp only
  repeat' (first
    | (with_reducible first
        | assumption | apply takeCollAgree_keeps | apply dropFlit_keeps | apply hearFlit_keeps | apply whileLit_keeps | apply KeepsO.next
        | apply KeepsO.ite | apply KeepsO.fault | apply KeepsO.refused | apply Keeps.foldl | apply Keeps.foldl_fst | apply Keeps.foldl_snd
        | apply Keeps.ite | refine KeepsO.elim ?_ (by with_reducible assumption) | intro _)
    | dsimp only)

theorem execCollChunkTimer_keeps (slot : Nat) (chunk : Sys2Proof.ChunkId) (s : State) (hK0 : Keeps q n b k s) (k_sched : k.sched = none := by assumption) (k_coll : k.coll = none := by assumption) :
    KeepsO q n b k (execCollChunkTimer slot chunk s) := by
  unfold execCollChunkTimer
  try dsimp only
  repeat' (first
    | (with_reducible first
        | assumption | apply sendChunk_keeps | apply runMod_keeps | apply groupMod_keeps | apply whileLit_keeps | apply advanceTo_keeps
        | apply KeepsO.next | apply KeepsO.ite | apply KeepsO.fault | apply KeepsO.refused | apply Keeps.foldl | apply Keeps.foldl_fst
        | apply Keeps.foldl_snd | apply Keeps.ite | refine KeepsO.elim ?_ (by with_reducible assumption) | intro _)
    | dsimp only | (fail_if_no_progress refine Keeps.mk rfl ?_) | split)

theorem takeRecord_keeps (slot : Nat) (src : Nat) (bytes : List Sys2Proof.Byte) (s : State) (hK0 : Keeps q n b k s) (k_sched : k.sched = none := by assumption) (k_coll : k.coll = none := by assumption) :
    Keeps q n b k (takeRecord slot src bytes s) := by
  unfold takeRecord
  try dsimp only
  repeat' (first
    | (with_reducible first
        | assumption | apply passRecord_keeps | apply keepRecord_keeps | apply Keeps.foldl | apply Keeps.foldl_fst | apply Keeps.foldl_snd
        | apply Keeps.ite | intro _)
    | dsimp only | (fail_if_no_progress refine Keeps.mk rfl ?_) | split)

theorem judgeRecord_keeps (slot : Nat) (x : RxChunk) (id : Sys2Proof.ChunkId) (good : Bool) (bytes : List Sys2Proof.Byte) (s : State) (hK0 : Keeps q n b k s) (k_sched : k.sched = none := by assumption) (k_coll : k.coll = none := by assumption) :
    Keeps q n b k (judgeRecord slot x id good bytes s) := by
  unfold judgeRecord
  try dsimp only
  repeat' (first
    | (with_reducible first
        | assumption | apply takeRecord_keeps | apply awaitAgain_keeps | apply sendCollAck_keeps | apply groupMod_keeps | apply Keeps.foldl
        | apply Keeps.foldl_fst | apply Keeps.foldl_snd | apply Keeps.ite | intro _)
    | dsimp only)

theorem startPasses_keeps (fuel : Nat) (s : State) (hK0 : Keeps q n b k s) (k_coll : k.coll = none := by assumption) :
    Keeps q n b k (startPasses fuel s) := by
  induction fuel generalizing s with
  | zero =>
    unfold startPasses
    try dsimp only
    repeat' (with_reducible first | assumption)
  | succ j ih =>
    unfold startPasses
    try dsimp only
    repeat' (first
      | (with_reducible first
          | assumption | apply ih | apply collMod_keeps | apply Keeps.foldl | apply Keeps.foldl_fst | apply Keeps.foldl_snd
          | apply Keeps.ite | intro _)
      | dsimp only | (fail_if_no_progress refine Keeps.mk rfl ?_) | split)

theorem useChunk_keeps (slot : Nat) (seq : Sys2Proof.W32) (id : Sys2Proof.ChunkId) (bytes : List Sys2Proof.Byte) (tail : List Sys2Proof.Byte) (fails : Nat) (s : State) (hK0 : Keeps q n b k s) (k_mem : k.mem = none := by assumption) (k_sched : k.sched = none := by assumption) (k_coll : k.coll = none := by assumption) :
    Keeps q n b k (useChunk slot seq id bytes tail fails s) := by
  unfold useChunk
  try dsimp only
  repeat' (first
    | (with_reducible first
        | assumption | apply startPasses_keeps | apply takeGather_keeps | apply landDirect_keeps | apply collMod_keeps | apply Keeps.foldl
        | apply Keeps.foldl_fst | apply Keeps.foldl_snd | apply Keeps.ite | intro _)
    | dsimp only | (fail_if_no_progress refine Keeps.mk rfl ?_) | split)

theorem failCheck_keeps (slot : Nat) (seq : Sys2Proof.W32) (fails : Nat) (s : State) (hK0 : Keeps q n b k s) (k_sched : k.sched = none := by assumption) (k_coll : k.coll = none := by assumption) :
    Keeps q n b k (failCheck slot seq fails s) := by
  unfold failCheck
  try dsimp only
  repeat' (first
    | (with_reducible first
        | assumption | apply startAbort_keeps | apply groupMod_keeps | apply Keeps.foldl | apply Keeps.foldl_fst | apply Keeps.foldl_snd
        | apply Keeps.ite | intro _)
    | dsimp only)

theorem judgeData_keeps (slot : Nat) (g : CollGroup) (r : CollRun) (x : RxChunk) (id : Sys2Proof.ChunkId) (sig : Sys2Proof.W64) (good : Bool) (tail : List Sys2Proof.Byte) (bytes : List Sys2Proof.Byte) (s : State) (hK0 : Keeps q n b k s) (k_mem : k.mem = none := by assumption) (k_sched : k.sched = none := by assumption) (k_coll : k.coll = none := by assumption) :
    Keeps q n b k (judgeData slot g r x id sig good tail bytes s) := by
  unfold judgeData
  try dsimp only
  repeat' (first
    | (with_reducible first
        | assumption | apply failCheck_keeps | apply useChunk_keeps | apply awaitAgain_keeps | apply ackChunk_keeps
        | apply placeDirect_keeps | apply startAbort_keeps | apply runMod_keeps | apply dropFlit_keeps | apply Keeps.foldl
        | apply Keeps.foldl_fst | apply Keeps.foldl_snd | apply Keeps.ite | intro _)
    | dsimp only | (fail_if_no_progress refine Keeps.mk rfl ?_) | split)

theorem judgeCounts_keeps (slot : Nat) (seq : Sys2Proof.W32) (sig : Sys2Proof.W64) (x : RxChunk) (id : Sys2Proof.ChunkId) (good : Bool) (bytes : List Sys2Proof.Byte) (s : State) (hK0 : Keeps q n b k s) (k_sched : k.sched = none := by assumption) (k_coll : k.coll = none := by assumption) :
    Keeps q n b k (judgeCounts slot seq sig x id good bytes s) := by
  unfold judgeCounts
  try dsimp only
  repeat' (first
    | (with_reducible first
        | assumption | apply failCheck_keeps | apply awaitAgain_keeps | apply ackChunk_keeps | apply openRun_keeps | apply runMod_keeps
        | apply Keeps.foldl | apply Keeps.foldl_fst | apply Keeps.foldl_snd | apply Keeps.ite | intro _)
    | dsimp only)

theorem judgeChunk_keeps (slot : Nat) (x : RxChunk) (tail : List Sys2Proof.Byte) (bytes : List Sys2Proof.Byte) (s : State) (hK0 : Keeps q n b k s) (k_mem : k.mem = none := by assumption) (k_sched : k.sched = none := by assumption) (k_coll : k.coll = none := by assumption) :
    Keeps q n b k (judgeChunk slot x tail bytes s) := by
  unfold judgeChunk
  try dsimp only
  repeat' (first
    | (with_reducible first
        | assumption | apply judgeCounts_keeps | apply judgeData_keeps | apply judgeRecord_keeps | apply sendCollAck_keeps
        | apply dropFlit_keeps | apply Keeps.foldl | apply Keeps.foldl_fst | apply Keeps.foldl_snd | apply Keeps.ite | intro _)
    | dsimp only | (fail_if_no_progress refine Keeps.mk rfl ?_) | split)

theorem takeChunkFlit_keeps (f : Sys2Proof.Flit) (s : State) (hK0 : Keeps q n b k s) (k_mem : k.mem = none := by assumption) (k_sched : k.sched = none := by assumption) (k_coll : k.coll = none := by assumption) :
    Keeps q n b k (takeChunkFlit f s) := by
  unfold takeChunkFlit
  try dsimp only
  repeat' (first
    | (with_reducible first
        | assumption | apply judgeChunk_keeps | apply hearColl_keeps | apply collGo_keeps | apply groupMod_keeps | apply dropFlit_keeps
        | apply Keeps.foldl | apply Keeps.foldl_fst | apply Keeps.foldl_snd | apply Keeps.ite | intro _)
    | dsimp only | (fail_if_no_progress refine Keeps.mk rfl ?_) | split)

theorem execCollData_keeps (port : Nat) (f : Sys2Proof.Flit) (s : State) (hK0 : Keeps q n b k s) (k_mem : k.mem = none := by assumption) (k_sched : k.sched = none := by assumption) (k_coll : k.coll = none := by assumption) :
    KeepsO q n b k (execCollData port f s) := by
  unfold execCollData
  try dsimp only
  repeat' (first
    | (with_reducible first
        | assumption | apply takeChunkFlit_keeps | apply dropFlit_keeps | apply hearFlit_keeps | apply whileLit_keeps | apply KeepsO.next
        | apply KeepsO.ite | apply KeepsO.fault | apply KeepsO.refused | apply Keeps.foldl | apply Keeps.foldl_fst | apply Keeps.foldl_snd
        | apply Keeps.ite | refine KeepsO.elim ?_ (by with_reducible assumption) | intro _)
    | dsimp only)

theorem execCollMemberTimeout_keeps (slot : Nat) (chunk : Sys2Proof.ChunkId) (s : State) (hK0 : Keeps q n b k s) (k_mem : k.mem = none := by assumption) (k_sched : k.sched = none := by assumption) (k_coll : k.coll = none := by assumption) :
    KeepsO q n b k (execCollMemberTimeout slot chunk s) := by
  unfold execCollMemberTimeout
  try dsimp only
  repeat' (first
    | (with_reducible first
        | assumption | apply collGo_keeps | apply loseMember_keeps | apply whileLit_keeps | apply advanceTo_keeps | apply KeepsO.next
        | apply KeepsO.ite | apply KeepsO.fault | apply KeepsO.refused | apply Keeps.foldl | apply Keeps.foldl_fst | apply Keeps.foldl_snd
        | apply Keeps.ite | refine KeepsO.elim ?_ (by with_reducible assumption) | intro _)
    | dsimp only | (fail_if_no_progress refine Keeps.mk rfl ?_) | split)

theorem execCollQuery_keeps (c : Cmd) (s : State) (hK0 : Keeps q n b k s) :
    KeepsO q n b k (execCollQuery c s) := by
  unfold execCollQuery
  try dsimp only
  repeat' (with_reducible first | assumption | apply doCollQuery_keeps | apply runCmd_keeps | apply KeepsO.next)

theorem execCollSetup_keeps (c : Cmd) (s : State) (hK0 : Keeps q n b k s) (k_sched : k.sched = none := by assumption) (k_coll : k.coll = none := by assumption) :
    KeepsO q n b k (execCollSetup c s) := by
  unfold execCollSetup
  try dsimp only
  repeat' (first
    | (with_reducible first
        | assumption | apply doCollSetup_keeps | apply runCmd_keeps | apply KeepsO.next | apply KeepsO.ite | apply KeepsO.fault
        | apply KeepsO.refused | apply Keeps.foldl | apply Keeps.foldl_fst | apply Keeps.foldl_snd | apply Keeps.ite | intro _)
    | dsimp only)

theorem execCollSetupReady_keeps (slot : Nat) (records : List W64) (s : State) (hK0 : Keeps q n b k s) (k_mem : k.mem = none := by assumption) (k_sched : k.sched = none := by assumption) (k_coll : k.coll = none := by assumption) :
    KeepsO q n b k (execCollSetupReady slot records s) := by
  unfold execCollSetupReady
  try dsimp only
  repeat' (first
    | (with_reducible first
        | assumption | apply collGo_keeps | apply failSetup_keeps | apply groupMod_keeps | apply whileLit_keeps | apply finishCmds_keeps
        | apply journalPut_keeps | apply KeepsO.next | apply KeepsO.ite | apply KeepsO.fault | apply KeepsO.refused | apply Keeps.foldl
        | apply Keeps.foldl_fst | apply Keeps.foldl_snd | apply Keeps.ite | refine KeepsN.elim ?_ (by with_reducible assumption)
        | refine KeepsO.elim ?_ (by with_reducible assumption) | intro _)
    | dsimp only | (fail_if_no_progress refine Keeps.mk rfl ?_) | split)

theorem execCollSetupTimeout_keeps (slot : Nat) (s : State) (hK0 : Keeps q n b k s) (k_coll : k.coll = none := by assumption) :
    KeepsO q n b k (execCollSetupTimeout slot s) := by
  unfold execCollSetupTimeout
  try dsimp only
  repeat' (first
    | (with_reducible first
        | assumption | apply failSetup_keeps | apply whileLit_keeps | apply advanceTo_keeps | apply KeepsO.next | apply KeepsO.ite
        | apply KeepsO.fault | apply KeepsO.refused | apply Keeps.foldl | apply Keeps.foldl_fst | apply Keeps.foldl_snd | apply Keeps.ite
        | refine KeepsO.elim ?_ (by with_reducible assumption) | intro _)
    | dsimp only | (fail_if_no_progress refine Keeps.mk rfl ?_) | split)

theorem execCollTail_keeps (port : Nat) (f : Sys2Proof.Flit) (s : State) (hK0 : Keeps q n b k s) (k_mem : k.mem = none := by assumption) (k_sched : k.sched = none := by assumption) (k_coll : k.coll = none := by assumption) :
    KeepsO q n b k (execCollTail port f s) := by
  unfold execCollTail
  try dsimp only
  repeat' (first
    | (with_reducible first
        | assumption | apply takeChunkFlit_keeps | apply dropFlit_keeps | apply hearFlit_keeps | apply whileLit_keeps | apply KeepsO.next
        | apply KeepsO.ite | apply KeepsO.fault | apply KeepsO.refused | apply Keeps.foldl | apply Keeps.foldl_fst | apply Keeps.foldl_snd
        | apply Keeps.ite | refine KeepsO.elim ?_ (by with_reducible assumption) | intro _)
    | dsimp only)

theorem execCollTeardown_keeps (c : Cmd) (s : State) (hK0 : Keeps q n b k s) (k_mem : k.mem = none := by assumption) (k_sched : k.sched = none := by assumption) (k_coll : k.coll = none := by assumption) :
    KeepsO q n b k (execCollTeardown c s) := by
  unfold execCollTeardown
  try dsimp only
  repeat' (first
    | (with_reducible first
        | assumption | apply doCollTeardown_keeps | apply runCmd_keeps | apply KeepsO.next | apply KeepsO.ite | apply KeepsO.fault
        | apply KeepsO.refused | apply Keeps.foldl | apply Keeps.foldl_fst | apply Keeps.foldl_snd | apply Keeps.ite | intro _)
    | dsimp only)

theorem execCollTeardownDone_keeps (slot : Nat) (s : State) (hK0 : Keeps q n b k s) (k_coll : k.coll = none := by assumption) :
    KeepsO q n b k (execCollTeardownDone slot s) := by
  unfold execCollTeardownDone
  try dsimp only
  repeat' (first
    | (with_reducible first
        | assumption | apply dropGroup_keeps | apply whileLit_keeps | apply finishCmds_keeps | apply KeepsO.next | apply KeepsO.ite
        | apply KeepsO.fault | apply KeepsO.refused | apply Keeps.foldl | apply Keeps.foldl_fst | apply Keeps.foldl_snd | apply Keeps.ite
        | refine KeepsO.elim ?_ (by with_reducible assumption) | intro _)
    | dsimp only | (fail_if_no_progress refine Keeps.mk rfl ?_) | split)

theorem execFathomReservationGrant_keeps (s : State) (hK0 : Keeps q n b k s) (k_sched : k.sched = none := by assumption) (k_coll : k.coll = none := by assumption) :
    KeepsO q n b k (execFathomReservationGrant s) := by
  unfold execFathomReservationGrant
  try dsimp only
  repeat' (first
    | (with_reducible first
        | assumption | apply startExchange_keeps | apply collMod_keeps | apply whileLit_keeps | apply KeepsO.next | apply KeepsO.ite
        | apply KeepsO.fault | apply KeepsO.refused | apply Keeps.foldl | apply Keeps.foldl_fst | apply Keeps.foldl_snd | apply Keeps.ite
        | refine KeepsO.elim ?_ (by with_reducible assumption) | intro _)
    | dsimp only | (fail_if_no_progress refine Keeps.mk rfl ?_) | split)

theorem execPostCollective_keeps (rec : Nat) (s : State) (hK0 : Keeps q n b k s) (k_mem : k.mem = none := by assumption) (k_sched : k.sched = none := by assumption) (k_coll : k.coll = none := by assumption) :
    KeepsO q n b k (execPostCollective rec s) := by
  unfold execPostCollective
  try dsimp only
  repeat' (first
    | (with_reducible first
        | assumption | apply collGo_keeps | apply groupMod_keeps | apply complete_keeps | apply workMod_keeps | apply whileLit_keeps
        | apply KeepsO.next | apply KeepsO.ite | apply KeepsO.fault | apply KeepsO.refused | apply Keeps.foldl | apply Keeps.foldl_fst
        | apply Keeps.foldl_snd | apply Keeps.ite | refine KeepsO.elim ?_ (by with_reducible assumption) | intro _)
    | dsimp only | (fail_if_no_progress refine Keeps.mk rfl ?_) | split)

theorem finishPass_keeps (p : EnginePass) (s : State) (hK0 : Keeps q n b k s) (k_coll : k.coll = none := by assumption) :
    Keeps q n b k (finishPass p s) := by
  unfold finishPass
  try dsimp only
  repeat' (first
    | (with_reducible first
        | assumption | apply afterY_keeps | apply afterX_keeps | apply runMod_keeps | apply Keeps.foldl | apply Keeps.foldl_fst
        | apply Keeps.foldl_snd | apply Keeps.ite | intro _)
    | dsimp only | (fail_if_no_progress refine Keeps.mk rfl ?_) | split)

theorem execReductionPassDone_keeps (engine : Nat) (residueOk : Bool) (s : State) (hK0 : Keeps q n b k s) (k_mem : k.mem = none := by assumption) (k_sched : k.sched = none := by assumption) (k_coll : k.coll = none := by assumption) :
    KeepsO q n b k (execReductionPassDone engine residueOk s) := by
  unfold execReductionPassDone
  try dsimp only
  repeat' (first
    | (with_reducible first
        | assumption | apply finishPass_keeps | apply failCheck_keeps | apply startPasses_keeps | apply collGo_keeps | apply collMod_keeps
        | apply whileLit_keeps | apply raiseEvent_keeps | apply KeepsO.next | apply KeepsO.ite | apply KeepsO.fault | apply KeepsO.refused
        | apply Keeps.foldl | apply Keeps.foldl_fst | apply Keeps.foldl_snd | apply Keeps.ite
        | refine KeepsO.elim ?_ (by with_reducible assumption) | intro _)
    | dsimp only | (fail_if_no_progress refine Keeps.mk rfl ?_) | split)

theorem poolWrite_keeps (p : Pool) (dva : Nat) (bytes : List Sys2Proof.Byte) (s : State) (hK0 : Keeps q n b k s) (k_mem : k.mem = none := by assumption) :
    Keeps q n b k (poolWrite p dva bytes s) := by
  unfold poolWrite
  try dsimp only
  repeat' (with_reducible first | assumption | apply placeAt_keeps)

theorem appendToken_keeps (p : Pool) (d : AttnDesc) (q0 : List Sys2Proof.Byte) (s : State) (hK0 : Keeps q n b k s) (k_mem : k.mem = none := by assumption) :
    Keeps q n b k (appendToken p d q0 s) := by
  unfold appendToken
  try dsimp only
  repeat' (with_reducible first | assumption | apply poolWrite_keeps)

theorem keepSummary_keeps (pool : Nat) (user : Nat) (layer : Nat) (block : Nat) (bytes : List Sys2Proof.Byte) (s : State) (hK0 : Keeps q n b k s) (k_cache : k.cache = none := by assumption) :
    Keeps q n b k (keepSummary pool user layer block bytes s) := by
  unfold keepSummary
  try dsimp only
  repeat' (first
    | (with_reducible first | assumption | apply Keeps.foldl | apply Keeps.foldl_fst | apply Keeps.foldl_snd | apply Keeps.ite | intro _)
    | dsimp only | (fail_if_no_progress refine Keeps.mk rfl ?_))

theorem loadSummaries_keeps (pool : Nat) (p : Pool) (user : Nat) (s : State) (hK0 : Keeps q n b k s) (k_cache : k.cache = none := by assumption) :
    Keeps q n b k (loadSummaries pool p user s) := by
  unfold loadSummaries
  try dsimp only
  repeat' (first
    | (with_reducible first
        | assumption | apply keepSummary_keeps | apply Keeps.foldl | apply Keeps.foldl_fst | apply Keeps.foldl_snd | apply Keeps.ite
        | intro _)
    | dsimp only)

theorem sealBlock_keeps (pool : Nat) (p : Pool) (u : Nat) (l : Nat) (b0 : Nat) (s : State) (hK0 : Keeps q n b k s) (k_mem : k.mem = none := by assumption) (k_cache : k.cache = none := by assumption) :
    Keeps q n b k (sealBlock pool p u l b0 s) := by
  unfold sealBlock
  try dsimp only
  repeat' (first
    | (with_reducible first
        | assumption | apply keepSummary_keeps | apply poolWrite_keeps | apply Keeps.foldl | apply Keeps.foldl_fst | apply Keeps.foldl_snd
        | apply Keeps.ite | intro _)
    | dsimp only | (fail_if_no_progress refine Keeps.mk rfl ?_))

theorem rampMod_keeps (f : Ramp → Ramp) (s : State) (hK0 : Keeps q n b k s) (k_ramp : k.ramp = none := by assumption) :
    Keeps q n b k (rampMod f s) := by
  unfold rampMod
  try dsimp only
  repeat' (first
    | (with_reducible first | assumption | apply Keeps.foldl | apply Keeps.foldl_fst | apply Keeps.foldl_snd | apply Keeps.ite | intro _)
    | dsimp only | (fail_if_no_progress refine Keeps.mk rfl ?_))

theorem rampWindow_keeps (s : State) (hK0 : Keeps q n b k s) (k_ramp : k.ramp = none := by assumption) :
    Keeps q n b k (rampWindow s) := by
  unfold rampWindow
  try dsimp only
  repeat' (first
    | (with_reducible first
        | assumption | apply rampMod_keeps | apply Keeps.foldl | apply Keeps.foldl_fst | apply Keeps.foldl_snd | apply Keeps.ite | intro _)
    | dsimp only)

theorem doWave_keeps (s0 : State) (hK0 : Keeps q n b k s0) (k_ramp : k.ramp = none := by assumption) :
    Keeps q n b k (doWave s0) := by
  unfold doWave
  try dsimp only
  repeat' (with_reducible first | assumption | apply rampWindow_keeps | apply rampMod_keeps)

theorem beginWaves_keeps (period : Nat) (s : State) (hK0 : Keeps q n b k s) (k_ramp : k.ramp = none := by assumption) :
    Keeps q n b k (beginWaves period s) := by
  unfold beginWaves
  try dsimp only
  repeat' (first
    | (with_reducible first
        | assumption | apply doWave_keeps | apply rampMod_keeps | apply Keeps.foldl | apply Keeps.foldl_fst | apply Keeps.foldl_snd
        | apply Keeps.ite | intro _)
    | dsimp only)

theorem restUnits_keeps (cls : Nat) (units : List Nat) (s0 : State) (hK0 : Keeps q n b k s0) (k_ramp : k.ramp = none := by assumption) :
    Keeps q n b k (restUnits cls units s0) := by
  unfold restUnits
  try dsimp only
  repeat' (first
    | (with_reducible first
        | assumption | apply beginWaves_keeps | apply rampWindow_keeps | apply rampMod_keeps | apply Keeps.foldl | apply Keeps.foldl_fst
        | apply Keeps.foldl_snd | apply Keeps.ite | intro _)
    | dsimp only)

theorem endHold_keeps (s : State) (hK0 : Keeps q n b k s) (k_cache : k.cache = none := by assumption) (k_ramp : k.ramp = none := by assumption) :
    Keeps q n b k (endHold s) := by
  unfold endHold
  try dsimp only
  repeat' (first
    | (with_reducible first
        | assumption | apply restUnits_keeps | apply Keeps.foldl | apply Keeps.foldl_fst | apply Keeps.foldl_snd | apply Keeps.ite | intro _)
    | dsimp only | (fail_if_no_progress refine Keeps.mk rfl ?_))

theorem execHoldRelease_keeps (s : State) (hK0 : Keeps q n b k s) (k_cache : k.cache = none := by assumption) (k_ramp : k.ramp = none := by assumption) :
    KeepsO q n b k (execHoldRelease s) := by
  unfold execHoldRelease
  try dsimp only
  repeat' (first
    | (with_reducible first
        | assumption | apply endHold_keeps | apply whileLit_keeps | apply advanceTo_keeps | apply KeepsO.next | apply KeepsO.ite
        | apply KeepsO.fault | apply KeepsO.refused | apply Keeps.foldl | apply Keeps.foldl_fst | apply Keeps.foldl_snd | apply Keeps.ite
        | refine KeepsO.elim ?_ (by with_reducible assumption) | intro _)
    | dsimp only | (fail_if_no_progress refine Keeps.mk rfl ?_) | split)

theorem execRampWave_keeps (s : State) (hK0 : Keeps q n b k s) (k_ramp : k.ramp = none := by assumption) :
    KeepsO q n b k (execRampWave s) := by
  unfold execRampWave
  try dsimp only
  repeat' (first
    | (with_reducible first
        | assumption | apply doWave_keeps | apply rampMod_keeps | apply whileLit_keeps | apply advanceTo_keeps | apply KeepsO.next
        | apply KeepsO.ite | apply KeepsO.fault | apply KeepsO.refused | apply Keeps.foldl | apply Keeps.foldl_fst | apply Keeps.foldl_snd
        | apply Keeps.ite | refine KeepsO.elim ?_ (by with_reducible assumption) | intro _)
    | dsimp only | (fail_if_no_progress refine Keeps.mk rfl ?_) | split)

theorem execUnitAtRest_keeps (shoal : Nat) (unit : Nat) (s : State) (hK0 : Keeps q n b k s) (k_ramp : k.ramp = none := by assumption) :
    KeepsO q n b k (execUnitAtRest shoal unit s) := by
  unfold execUnitAtRest
  try dsimp only
  repeat' (first
    | (with_reducible first
        | assumption | apply restUnits_keeps | apply whileLit_keeps | apply advanceTo_keeps | apply KeepsO.next | apply KeepsO.ite
        | apply KeepsO.fault | apply KeepsO.refused | apply Keeps.foldl | apply Keeps.foldl_fst | apply Keeps.foldl_snd | apply Keeps.ite
        | refine KeepsO.elim ?_ (by with_reducible assumption) | intro _)
    | dsimp only | (fail_if_no_progress refine Keeps.mk rfl ?_) | split)

theorem startUnits_keeps (cls : Nat) (units : List Nat) (s0 : State) (hK0 : Keeps q n b k s0) (k_ramp : k.ramp = none := by assumption) :
    Keeps q n b k (startUnits cls units s0) := by
  unfold startUnits
  try dsimp only
  repeat' (first
    | (with_reducible first
        | assumption | apply beginWaves_keeps | apply rampWindow_keeps | apply rampMod_keeps | apply Keeps.foldl | apply Keeps.foldl_fst
        | apply Keeps.foldl_snd | apply Keeps.ite | intro _)
    | dsimp only)

theorem startHold_keeps (s : State) (hK0 : Keeps q n b k s) (k_cache : k.cache = none := by assumption) (k_ramp : k.ramp = none := by assumption) :
    Keeps q n b k (startHold s) := by
  unfold startHold
  try dsimp only
  repeat' (first
    | (with_reducible first
        | assumption | apply startUnits_keeps | apply Keeps.foldl | apply Keeps.foldl_fst | apply Keeps.foldl_snd | apply Keeps.ite
        | intro _)
    | dsimp only | (fail_if_no_progress refine Keeps.mk rfl ?_))

theorem unitsBusy_keeps (units : List Nat) (s : State) (hK0 : Keeps q n b k s) (k_ramp : k.ramp = none := by assumption) :
    Keeps q n b k (unitsBusy units s) := by
  unfold unitsBusy
  try dsimp only
  repeat' (with_reducible first | assumption | apply rampMod_keeps)

theorem unitsIdle_keeps (units : List Nat) (s : State) (hK0 : Keeps q n b k s) (k_ramp : k.ramp = none := by assumption) :
    Keeps q n b k (unitsIdle units s) := by
  unfold unitsIdle
  try dsimp only
  repeat' (with_reducible first | assumption | apply rampMod_keeps)

end Sys2Proof.Machine
end

