-- ==== Sys2Proof/Laws/KeepsCache.lean ====
section
/-! SUPPORT. What each function of Machine/Cache.lean, Machine/Operators.lean, Machine/OperRuns.lean, Machine/Spur.lean keeps: the parts of State that stand in `Kept`, the queue, and the invariant. -/

set_option linter.unusedTactic false
set_option linter.unreachableTactic false
set_option linter.unusedVariables false
namespace Sys2Proof.Machine
set_option Elab.async false
variable {q : List Instr} {n : Nat} {b : Bool} {k : Kept}

theorem cacheMod_keeps (f : Cache → Cache) (s : State) (hK0 : Keeps q n b k s) (k_cache : k.cache = none := by assumption) :
    Keeps q n b k (cacheMod f s) := by
  unfold cacheMod
  try dsimp only
  repeat' (first
    | (with_reducible first | assumption | apply Keeps.foldl | apply Keeps.foldl_fst | apply Keeps.foldl_snd | apply Keeps.ite | intro _)
    | dsimp only | (fail_if_no_progress refine Keeps.mk rfl ?_))

theorem dropAttn_keeps (rec : Nat) (status : Status) (s : State) (hK0 : Keeps q n b k s) (k_cache : k.cache = none := by assumption) :
    Keeps q n b k (dropAttn rec status s) := by
  unfold dropAttn
  try dsimp only
  repeat' (with_reducible first | assumption | apply cacheMod_keeps | apply complete_keeps)

theorem attnAbsent_keeps (fn : Nat) (pool : Nat) (rec : Nat) (access : Nat) (dva : Nat) (len : Nat) (key : Sys2Proof.W32) (s : State) (hK0 : Keeps q n b k s) (k_cache : k.cache = none := by assumption) :
    Keeps q n b k (attnAbsent fn pool rec access dva len key s) := by
  unfold attnAbsent
  try dsimp only
  repeat' (first
    | (with_reducible first
        | assumption | apply dropAttn_keeps | apply suspend_keeps | apply Keeps.foldl | apply Keeps.foldl_fst | apply Keeps.foldl_snd
        | apply Keeps.ite | intro _)
    | dsimp only)

theorem releaseResult_keeps (s : State) (u : EgressUnit) (hK0 : Keeps q n b k s) (k_sched : k.sched = none := by assumption) :
    Keeps q n b k (releaseResult s u) := by
  unfold releaseResult
  try dsimp only
  repeat' (first
    | (with_reducible first | assumption | apply resultGone_keeps | apply sendFlits_keeps)
    | dsimp only | (fail_if_no_progress refine Keeps.mk rfl ?_) | split)

theorem finishAttn_keeps (rec : Nat) (s : State) (hK0 : Keeps q n b k s) (k_sched : k.sched = none := by assumption) (k_cache : k.cache = none := by assumption) :
    Keeps q n b k (finishAttn rec s) := by
  unfold finishAttn
  try dsimp only
  repeat' (first
    | (with_reducible first
        | assumption | apply releaseResult_keeps | apply cacheMod_keeps | apply resultGone_keeps | apply queueKvResult_keeps | apply sendKvResult_keeps
        | apply complete_keeps | apply Keeps.foldl | apply Keeps.foldl_fst | apply Keeps.foldl_snd | apply Keeps.ite | intro _)
    | dsimp only | (fail_if_no_progress refine Keeps.mk rfl ?_) | split)

theorem missAttn_keeps (rec : Nat) (pool : Nat) (m : Nat × Nat × Nat) (s : State) (hK0 : Keeps q n b k s) (k_cache : k.cache = none := by assumption) :
    Keeps q n b k (missAttn rec pool m s) := by
  unfold missAttn
  try dsimp only
  repeat' (with_reducible first | assumption | apply cacheMod_keeps | apply complete_keeps)

theorem serveAttn_keeps (r : AttnRun) (q0 : List Sys2Proof.Byte) (s : State) (hK0 : Keeps q n b k s) (k_mem : k.mem = none := by assumption) (k_sched : k.sched = none := by assumption) (k_cache : k.cache = none := by assumption) :
    Keeps q n b k (serveAttn r q0 s) := by
  unfold serveAttn
  try dsimp only
  repeat' (first
    | (with_reducible first
        | assumption | apply missAttn_keeps | apply finishAttn_keeps | apply attnAbsent_keeps | apply cacheMod_keeps
        | apply appendToken_keeps | apply placeAt_keeps | apply wakeRange_keeps | apply Keeps.foldl | apply Keeps.foldl_fst
        | apply Keeps.foldl_snd | apply Keeps.ite | intro _)
    | dsimp only | (fail_if_no_progress refine Keeps.mk rfl ?_) | split)

theorem attnGo_keeps (fuel : Nat) (s : State) (hK0 : Keeps q n b k s) (k_mem : k.mem = none := by assumption) (k_sched : k.sched = none := by assumption) (k_cache : k.cache = none := by assumption) :
    Keeps q n b k (attnGo fuel s) := by
  induction fuel generalizing s with
  | zero =>
    unfold attnGo
    try dsimp only
    repeat' (with_reducible first | assumption)
  | succ j ih =>
    unfold attnGo
    try dsimp only
    repeat' (first
      | (with_reducible first
          | assumption | apply ih | apply serveAttn_keeps | apply cacheMod_keeps | apply Keeps.foldl | apply Keeps.foldl_fst
          | apply Keeps.foldl_snd | apply Keeps.ite | intro _)
      | dsimp only | (fail_if_no_progress refine Keeps.mk rfl ?_) | split)

theorem attnPump_keeps (s : State) (hK0 : Keeps q n b k s) (k_mem : k.mem = none := by assumption) (k_sched : k.sched = none := by assumption) (k_cache : k.cache = none := by assumption) :
    Keeps q n b k (attnPump s) := by
  unfold attnPump
  try dsimp only
  repeat' (with_reducible first | assumption | apply attnGo_keeps)

theorem attnEnd_keeps (pool : Nat) (rec : Nat) (status : Status) (s : State) (hK0 : Keeps q n b k s) (k_mem : k.mem = none := by assumption) (k_sched : k.sched = none := by assumption) (k_cache : k.cache = none := by assumption) :
    Keeps q n b k (attnEnd pool rec status s) := by
  unfold attnEnd
  try dsimp only
  repeat' (with_reducible first | assumption | apply attnPump_keeps | apply cacheMod_keeps | apply unsuspend_keeps | apply complete_keeps)

theorem attnRunMod_keeps (rec : Nat) (f : AttnRun → AttnRun) (s : State) (hK0 : Keeps q n b k s) (k_cache : k.cache = none := by assumption) :
    Keeps q n b k (attnRunMod rec f s) := by
  unfold attnRunMod
  try dsimp only
  repeat' (with_reducible first | assumption | apply cacheMod_keeps)

theorem readQuery_keeps (rec : Nat) (fetched : Option (List Sys2Proof.Byte)) (s : State) (hK0 : Keeps q n b k s) (k_cache : k.cache = none := by assumption) :
    Keeps q n b k (readQuery rec fetched s) := by
  unfold readQuery
  try dsimp only
  repeat' (first
    | (with_reducible first
        | assumption | apply attnRunMod_keeps | apply attnAbsent_keeps | apply readAny_keeps | apply wakeDva_keeps | apply Keeps.foldl
        | apply Keeps.foldl_fst | apply Keeps.foldl_snd | apply Keeps.ite | refine Keeps.snd_elim ?_ (by with_reducible assumption)
        | intro _)
    | dsimp only | (fail_if_no_progress refine Keeps.mk rfl ?_) | split)

theorem attnGoOn_keeps (rec : Nat) (flits : Bool) (s : State) (hK0 : Keeps q n b k s) (k_mem : k.mem = none := by assumption) (k_sched : k.sched = none := by assumption) (k_cache : k.cache = none := by assumption) :
    Keeps q n b k (attnGoOn rec flits s) := by
  unfold attnGoOn
  try dsimp only
  repeat' (first
    | (with_reducible first
        | assumption | apply readQuery_keeps | apply attnPump_keeps | apply Keeps.foldl | apply Keeps.foldl_fst | apply Keeps.foldl_snd
        | apply Keeps.ite | intro _)
    | dsimp only | (fail_if_no_progress refine Keeps.mk rfl ?_) | split)

theorem attnResume_keeps (pool : Nat) (rec : Nat) (s : State) (hK0 : Keeps q n b k s) (k_mem : k.mem = none := by assumption) (k_sched : k.sched = none := by assumption) (k_cache : k.cache = none := by assumption) :
    Keeps q n b k (attnResume pool rec s) := by
  unfold attnResume
  try dsimp only
  repeat' (with_reducible first | assumption | apply attnGoOn_keeps | apply unsuspend_keeps)

theorem beginAttn_keeps (rec : Nat) (w : Work) (fetched : List Sys2Proof.Byte) (s0 : State) (hK0 : Keeps q n b k s0) (k_mem : k.mem = none := by assumption) (k_sched : k.sched = none := by assumption) (k_cache : k.cache = none := by assumption) (k_ramp : k.ramp = none := by assumption) :
    Keeps q n b k (beginAttn rec w fetched s0) := by
  unfold beginAttn
  try dsimp only
  repeat' (first
    | (with_reducible first
        | assumption | apply readQuery_keeps | apply attnPump_keeps | apply cacheMod_keeps | apply startHold_keeps | apply complete_keeps
        | apply workMod_keeps | apply Keeps.foldl | apply Keeps.foldl_fst | apply Keeps.foldl_snd | apply Keeps.ite | intro _)
    | dsimp only | (fail_if_no_progress refine Keeps.mk rfl ?_) | split)

theorem partPorts_keeps (a b0 : Nat) (s : State) (hK0 : Keeps q n b k s) : Keeps q n b k (partPorts a b0 s) :=
  fabMod_keeps _ _ hK0

theorem doPartner_keeps (c : Cmd) (s : State) (hK0 : Keeps q n b k s) :
    KeepsC q n b k (doPartner c s) := by
  unfold doPartner
  try dsimp only
  repeat' (first
    | (with_reducible first
        | assumption | apply needParam_keeps | apply cmdOk_keeps | apply cmdFail_keeps | apply portMod_keeps | apply partPorts_keeps
        | apply KeepsC.done | apply KeepsC.deferred | apply KeepsC.later | apply KeepsC.ite | apply Keeps.foldl | apply Keeps.foldl_fst
        | apply Keeps.foldl_snd | apply Keeps.ite | intro _)
    | dsimp only | (fail_if_no_progress refine Keeps.mk rfl ?_) | split)

theorem doPoolCreate_keeps (c : Cmd) (s : State) (hK0 : Keeps q n b k s) (k_cache : k.cache = none := by assumption) :
    KeepsC q n b k (doPoolCreate c s) := by
  unfold doPoolCreate
  try dsimp only
  repeat' (first
    | (with_reducible first
        | assumption | apply cacheMod_keeps | apply needParam_keeps | apply cmdFail_keeps | apply KeepsC.done | apply KeepsC.deferred
        | apply KeepsC.later | apply KeepsC.ite | apply Keeps.foldl | apply Keeps.foldl_fst | apply Keeps.foldl_snd | apply Keeps.ite
        | intro _)
    | dsimp only | (fail_if_no_progress refine Keeps.mk rfl ?_) | split)

theorem withPool_keeps (c : Cmd) (s : State) (k0 : Nat → Pool → CmdOut) (hK0 : Keeps q n b k s) (hK1 : ∀ v0 v1, KeepsC q n b k (k0 v0 v1)) :
    KeepsC q n b k (withPool c s k0) := by
  unfold withPool
  try dsimp only
  repeat' (first
    | (with_reducible first
        | assumption | apply cmdFail_keeps | apply hK1 | apply KeepsC.done | apply KeepsC.deferred | apply KeepsC.later | apply KeepsC.ite
        | apply Keeps.foldl | apply Keeps.foldl_fst | apply Keeps.foldl_snd | apply Keeps.ite | intro _)
    | dsimp only | (fail_if_no_progress refine Keeps.mk rfl ?_) | split)

theorem doPoolDestroy_keeps (c : Cmd) (s : State) (hK0 : Keeps q n b k s) (k_cache : k.cache = none := by assumption) :
    KeepsC q n b k (doPoolDestroy c s) := by
  unfold doPoolDestroy
  try dsimp only
  repeat' (first
    | (with_reducible first
        | assumption | apply withPool_keeps | apply cacheMod_keeps | apply cmdFail_keeps | apply KeepsC.done | apply KeepsC.deferred
        | apply KeepsC.later | apply KeepsC.ite | apply Keeps.foldl | apply Keeps.foldl_fst | apply Keeps.foldl_snd | apply Keeps.ite
        | intro _)
    | dsimp only)

theorem doPoolQuery_keeps (c : Cmd) (s : State) (hK0 : Keeps q n b k s) :
    KeepsC q n b k (doPoolQuery c s) := by
  unfold doPoolQuery
  try dsimp only
  repeat' (first
    | (with_reducible first
        | assumption | apply withPool_keeps | apply KeepsC.done | apply KeepsC.deferred | apply KeepsC.later | apply KeepsC.ite
        | apply Keeps.foldl | apply Keeps.foldl_fst | apply Keeps.foldl_snd | apply Keeps.ite | intro _)
    | dsimp only)

theorem doSeal_keeps (c : Cmd) (s : State) (hK0 : Keeps q n b k s) :
    KeepsC q n b k (doSeal c s) := by
  unfold doSeal
  try dsimp only
  repeat' (first
    | (with_reducible first
        | assumption | apply withPool_keeps | apply needParam_keeps | apply KeepsC.done | apply KeepsC.deferred | apply KeepsC.later
        | apply KeepsC.ite | apply Keeps.foldl | apply Keeps.foldl_fst | apply Keeps.foldl_snd | apply Keeps.ite | intro _)
    | dsimp only)

theorem withUser_keeps (c : Cmd) (s : State) (k0 : Nat → Pool → Nat → CmdOut) (hK0 : Keeps q n b k s) (hK1 : ∀ v0 v1 v2, KeepsC q n b k (k0 v0 v1 v2)) :
    KeepsC q n b k (withUser c s k0) := by
  unfold withUser
  try dsimp only
  repeat' (first
    | (with_reducible first
        | assumption | apply withPool_keeps | apply cmdFail_keeps | apply hK1 | apply KeepsC.done | apply KeepsC.deferred
        | apply KeepsC.later | apply KeepsC.ite | apply Keeps.foldl | apply Keeps.foldl_fst | apply Keeps.foldl_snd | apply Keeps.ite
        | intro _)
    | dsimp only)

theorem doUserPin_keeps (c : Cmd) (s : State) (hK0 : Keeps q n b k s) (k_cache : k.cache = none := by assumption) :
    KeepsC q n b k (doUserPin c s) := by
  unfold doUserPin
  try dsimp only
  repeat' (first
    | (with_reducible first
        | assumption | apply withUser_keeps | apply cacheMod_keeps | apply cmdFail_keeps | apply KeepsC.done | apply KeepsC.deferred
        | apply KeepsC.later | apply KeepsC.ite | apply Keeps.foldl | apply Keeps.foldl_fst | apply Keeps.foldl_snd | apply Keeps.ite
        | intro _)
    | dsimp only)

theorem doUserReset_keeps (c : Cmd) (s : State) (hK0 : Keeps q n b k s) (k_mem : k.mem = none := by assumption) (k_cache : k.cache = none := by assumption) :
    KeepsC q n b k (doUserReset c s) := by
  unfold doUserReset
  try dsimp only
  repeat' (first
    | (with_reducible first
        | assumption | apply withUser_keeps | apply cacheMod_keeps | apply poolWrite_keeps | apply cmdOk_keeps | apply cmdFail_keeps
        | apply KeepsC.done | apply KeepsC.deferred | apply KeepsC.later | apply KeepsC.ite | apply Keeps.foldl | apply Keeps.foldl_fst
        | apply Keeps.foldl_snd | apply Keeps.ite | intro _)
    | dsimp only)

theorem pinMod_keeps (pool : Nat) (user : Nat) (f : Pin → Pin) (s : State) (hK0 : Keeps q n b k s) (k_cache : k.cache = none := by assumption) :
    Keeps q n b k (pinMod pool user f s) := by
  unfold pinMod
  try dsimp only
  repeat' (with_reducible first | assumption | apply cacheMod_keeps)

theorem doUserUnpin_keeps (c : Cmd) (s : State) (hK0 : Keeps q n b k s) (k_cache : k.cache = none := by assumption) :
    KeepsC q n b k (doUserUnpin c s) := by
  unfold doUserUnpin
  try dsimp only
  repeat' (first
    | (with_reducible first
        | assumption | apply pinMod_keeps | apply withUser_keeps | apply cmdFail_keeps | apply KeepsC.done | apply KeepsC.deferred
        | apply KeepsC.later | apply KeepsC.ite | apply Keeps.foldl | apply Keeps.foldl_fst | apply Keeps.foldl_snd | apply Keeps.ite
        | intro _)
    | dsimp only)

theorem dropPool_keeps (n0 : Nat) (s : State) (hK0 : Keeps q n b k s) (k_cache : k.cache = none := by assumption) :
    Keeps q n b k (dropPool n0 s) := by
  unfold dropPool
  try dsimp only
  repeat' (with_reducible first | assumption | apply cacheMod_keeps | apply dropPins_keeps)

theorem execAppendSeal_keeps (rec : Nat) (s : State) (hK0 : Keeps q n b k s) (k_mem : k.mem = none := by assumption) (k_cache : k.cache = none := by assumption) :
    KeepsO q n b k (execAppendSeal rec s) := by
  unfold execAppendSeal
  try dsimp only
  repeat' (first
    | (with_reducible first
        | assumption | apply cacheMod_keeps | apply sealBlock_keeps | apply whileLit_keeps | apply KeepsO.next | apply KeepsO.ite
        | apply KeepsO.fault | apply KeepsO.refused | apply Keeps.foldl | apply Keeps.foldl_fst | apply Keeps.foldl_snd | apply Keeps.ite
        | refine KeepsO.elim ?_ (by with_reducible assumption) | intro _)
    | dsimp only | (fail_if_no_progress refine Keeps.mk rfl ?_) | split)

theorem execAttentionRequest_keeps (rec : Nat) (query : List Sys2Proof.Byte) (s : State) (hK0 : Keeps q n b k s) (k_mem : k.mem = none := by assumption) (k_sched : k.sched = none := by assumption) (k_cache : k.cache = none := by assumption) (k_ramp : k.ramp = none := by assumption) :
    KeepsO q n b k (execAttentionRequest rec query s) := by
  unfold execAttentionRequest
  try dsimp only
  repeat' (first
    | (with_reducible first
        | assumption | apply beginAttn_keeps | apply whileLit_keeps | apply KeepsO.next | apply KeepsO.ite | apply KeepsO.fault
        | apply KeepsO.refused | apply Keeps.foldl | apply Keeps.foldl_fst | apply Keeps.foldl_snd | apply Keeps.ite
        | refine KeepsO.elim ?_ (by with_reducible assumption) | intro _)
    | dsimp only | (fail_if_no_progress refine Keeps.mk rfl ?_) | split)

theorem execKvPartner_keeps (c : Cmd) (s : State) (hK0 : Keeps q n b k s) :
    KeepsO q n b k (execKvPartner c s) := by
  unfold execKvPartner
  try dsimp only
  repeat' (with_reducible first | assumption | apply doPartner_keeps | apply runCmd_keeps | apply KeepsO.next)

theorem execKvPoolCreate_keeps (c : Cmd) (s : State) (hK0 : Keeps q n b k s) (k_cache : k.cache = none := by assumption) :
    KeepsO q n b k (execKvPoolCreate c s) := by
  unfold execKvPoolCreate
  try dsimp only
  repeat' (first
    | (with_reducible first
        | assumption | apply doPoolCreate_keeps | apply runCmd_keeps | apply KeepsO.next | apply KeepsO.ite | apply KeepsO.fault
        | apply KeepsO.refused | apply Keeps.foldl | apply Keeps.foldl_fst | apply Keeps.foldl_snd | apply Keeps.ite | intro _)
    | dsimp only)

theorem execKvPoolDestroy_keeps (c : Cmd) (s : State) (hK0 : Keeps q n b k s) (k_cache : k.cache = none := by assumption) :
    KeepsO q n b k (execKvPoolDestroy c s) := by
  unfold execKvPoolDestroy
  try dsimp only
  repeat' (first
    | (with_reducible first
        | assumption | apply doPoolDestroy_keeps | apply runCmd_keeps | apply KeepsO.next | apply KeepsO.ite | apply KeepsO.fault
        | apply KeepsO.refused | apply Keeps.foldl | apply Keeps.foldl_fst | apply Keeps.foldl_snd | apply Keeps.ite | intro _)
    | dsimp only)

theorem execKvPoolDestroyDone_keeps (pool : Nat) (s : State) (hK0 : Keeps q n b k s) (k_cache : k.cache = none := by assumption) :
    KeepsO q n b k (execKvPoolDestroyDone pool s) := by
  unfold execKvPoolDestroyDone
  try dsimp only
  repeat' (first
    | (with_reducible first
        | assumption | apply dropPool_keeps | apply whileLit_keeps | apply finishCmds_keeps | apply KeepsO.next | apply KeepsO.ite
        | apply KeepsO.fault | apply KeepsO.refused | apply Keeps.foldl | apply Keeps.foldl_fst | apply Keeps.foldl_snd | apply Keeps.ite
        | refine KeepsO.elim ?_ (by with_reducible assumption) | intro _)
    | dsimp only | (fail_if_no_progress refine Keeps.mk rfl ?_) | split)

theorem execKvPoolQuery_keeps (c : Cmd) (s : State) (hK0 : Keeps q n b k s) :
    KeepsO q n b k (execKvPoolQuery c s) := by
  unfold execKvPoolQuery
  try dsimp only
  repeat' (with_reducible first | assumption | apply doPoolQuery_keeps | apply runCmd_keeps | apply KeepsO.next)

theorem takeKvQuery_keeps (port : Nat) (f : Sys2Proof.Flit) (s : State) (hK0 : Keeps q n b k s) (k_mem : k.mem = none := by assumption) (k_sched : k.sched = none := by assumption) (k_cache : k.cache = none := by assumption) :
    Keeps q n b k (takeKvQuery port f s) := by
  unfold takeKvQuery
  try dsimp only
  repeat' (first
    | (with_reducible first
        | assumption | apply attnRunMod_keeps | apply attnPump_keeps | apply cacheMod_keeps | apply dropFlit_keeps | apply Keeps.foldl
        | apply Keeps.foldl_fst | apply Keeps.foldl_snd | apply Keeps.ite | intro _)
    | dsimp only | (fail_if_no_progress refine Keeps.mk rfl ?_) | split)

theorem execKvQuery_keeps (port : Nat) (f : Sys2Proof.Flit) (s : State) (hK0 : Keeps q n b k s) (k_mem : k.mem = none := by assumption) (k_sched : k.sched = none := by assumption) (k_cache : k.cache = none := by assumption) :
    KeepsO q n b k (execKvQuery port f s) := by
  unfold execKvQuery
  try dsimp only
  repeat' (first
    | (with_reducible first
        | assumption | apply takeKvQuery_keeps | apply dropFlit_keeps | apply hearFlit_keeps | apply whileLit_keeps | apply KeepsO.next
        | apply KeepsO.ite | apply KeepsO.fault | apply KeepsO.refused | apply Keeps.foldl | apply Keeps.foldl_fst | apply Keeps.foldl_snd
        | apply Keeps.ite | refine KeepsO.elim ?_ (by with_reducible assumption) | intro _)
    | dsimp only)

theorem execKvQueryFallback_keeps (rec : Nat) (fetched : List Sys2Proof.Byte) (s : State) (hK0 : Keeps q n b k s) (k_mem : k.mem = none := by assumption) (k_sched : k.sched = none := by assumption) (k_cache : k.cache = none := by assumption) :
    KeepsO q n b k (execKvQueryFallback rec fetched s) := by
  unfold execKvQueryFallback
  try dsimp only
  repeat' (first
    | (with_reducible first
        | assumption | apply readQuery_keeps | apply attnPump_keeps | apply whileLit_keeps | apply advanceTo_keeps | apply KeepsO.next
        | apply KeepsO.ite | apply KeepsO.fault | apply KeepsO.refused | apply Keeps.foldl | apply Keeps.foldl_fst | apply Keeps.foldl_snd
        | apply Keeps.ite | refine KeepsO.elim ?_ (by with_reducible assumption) | intro _)
    | dsimp only | (fail_if_no_progress refine Keeps.mk rfl ?_) | split)

theorem execKvSeal_keeps (c : Cmd) (s : State) (hK0 : Keeps q n b k s) :
    KeepsO q n b k (execKvSeal c s) := by
  unfold execKvSeal
  try dsimp only
  repeat' (with_reducible first | assumption | apply doSeal_keeps | apply runCmd_keeps | apply KeepsO.next)

theorem sealUpTo_keeps (fuel : Nat) (pool : Nat) (p : Pool) (u : Nat) (l : Nat) (goal : Nat) (s : State) (n0 : Nat) (hK0 : Keeps q n b k s) (k_mem : k.mem = none := by assumption) (k_cache : k.cache = none := by assumption) :
    Keeps q n b k (sealUpTo fuel pool p u l goal s n0).1 := by
  induction fuel generalizing pool p u l goal s n0 with
  | zero =>
    unfold sealUpTo
    try dsimp only
    repeat' (with_reducible first | assumption)
  | succ j ih =>
    unfold sealUpTo
    try dsimp only
    repeat' (first
      | (with_reducible first
          | assumption | apply ih | apply sealBlock_keeps | apply Keeps.foldl | apply Keeps.foldl_fst | apply Keeps.foldl_snd
          | apply Keeps.ite | intro _)
      | dsimp only | (fail_if_no_progress refine Keeps.mk rfl ?_) | split)

theorem execKvSealDone_keeps (pool : Nat) (user : Nat) (s : State) (hK0 : Keeps q n b k s) (k_mem : k.mem = none := by assumption) (k_cache : k.cache = none := by assumption) :
    KeepsO q n b k (execKvSealDone pool user s) := by
  unfold execKvSealDone
  try dsimp only
  repeat' (first
    | (with_reducible first
        | assumption | apply sealUpTo_keeps | apply whileLit_keeps | apply answer_keeps | apply KeepsO.next | apply KeepsO.ite
        | apply KeepsO.fault | apply KeepsO.refused | apply Keeps.foldl | apply Keeps.foldl_fst | apply Keeps.foldl_snd | apply Keeps.ite
        | refine KeepsO.elim ?_ (by with_reducible assumption) | refine Keeps.fst_elim ?_ (by with_reducible assumption) | intro _)
    | dsimp only | (fail_if_no_progress refine Keeps.mk rfl ?_) | split)

theorem execKvUserPin_keeps (c : Cmd) (s : State) (hK0 : Keeps q n b k s) (k_cache : k.cache = none := by assumption) :
    KeepsO q n b k (execKvUserPin c s) := by
  unfold execKvUserPin
  try dsimp only
  repeat' (first
    | (with_reducible first
        | assumption | apply doUserPin_keeps | apply runCmd_keeps | apply KeepsO.next | apply KeepsO.ite | apply KeepsO.fault
        | apply KeepsO.refused | apply Keeps.foldl | apply Keeps.foldl_fst | apply Keeps.foldl_snd | apply Keeps.ite | intro _)
    | dsimp only)

theorem execKvUserPinDone_keeps (pool : Nat) (user : Nat) (s : State) (hK0 : Keeps q n b k s) (k_cache : k.cache = none := by assumption) :
    KeepsO q n b k (execKvUserPinDone pool user s) := by
  unfold execKvUserPinDone
  try dsimp only
  repeat' (first
    | (with_reducible first
        | assumption | apply pinMod_keeps | apply loadSummaries_keeps | apply whileLit_keeps | apply finishCmds_keeps | apply KeepsO.next
        | apply KeepsO.ite | apply KeepsO.fault | apply KeepsO.refused | apply Keeps.foldl | apply Keeps.foldl_fst | apply Keeps.foldl_snd
        | apply Keeps.ite | refine KeepsO.elim ?_ (by with_reducible assumption) | intro _)
    | dsimp only | (fail_if_no_progress refine Keeps.mk rfl ?_) | split)

theorem execKvUserReset_keeps (c : Cmd) (s : State) (hK0 : Keeps q n b k s) (k_mem : k.mem = none := by assumption) (k_cache : k.cache = none := by assumption) :
    KeepsO q n b k (execKvUserReset c s) := by
  unfold execKvUserReset
  try dsimp only
  repeat' (first
    | (with_reducible first
        | assumption | apply doUserReset_keeps | apply runCmd_keeps | apply KeepsO.next | apply KeepsO.ite | apply KeepsO.fault
        | apply KeepsO.refused | apply Keeps.foldl | apply Keeps.foldl_fst | apply Keeps.foldl_snd | apply Keeps.ite | intro _)
    | dsimp only)

theorem execKvUserUnpin_keeps (c : Cmd) (s : State) (hK0 : Keeps q n b k s) (k_cache : k.cache = none := by assumption) :
    KeepsO q n b k (execKvUserUnpin c s) := by
  unfold execKvUserUnpin
  try dsimp only
  repeat' (first
    | (with_reducible first
        | assumption | apply doUserUnpin_keeps | apply runCmd_keeps | apply KeepsO.next | apply KeepsO.ite | apply KeepsO.fault
        | apply KeepsO.refused | apply Keeps.foldl | apply Keeps.foldl_fst | apply Keeps.foldl_snd | apply Keeps.ite | intro _)
    | dsimp only)

theorem execKvUserUnpinDone_keeps (pool : Nat) (user : Nat) (s : State) (hK0 : Keeps q n b k s) (k_cache : k.cache = none := by assumption) :
    KeepsO q n b k (execKvUserUnpinDone pool user s) := by
  unfold execKvUserUnpinDone
  try dsimp only
  repeat' (first
    | (with_reducible first
        | assumption | apply dropPins_keeps | apply whileLit_keeps | apply finishCmds_keeps | apply KeepsO.next | apply KeepsO.ite
        | apply KeepsO.fault | apply KeepsO.refused | apply Keeps.foldl | apply Keeps.foldl_fst | apply Keeps.foldl_snd | apply Keeps.ite
        | refine KeepsO.elim ?_ (by with_reducible assumption) | intro _)
    | dsimp only)

theorem placeRow_keeps (fn : Nat) (rec : Nat) (x : Operand) (dt : Nat) (s : State) (q0 : RowOut) (hK0 : Keeps q n b k s) (k_mem : k.mem = none := by assumption) :
    Keeps q n b k (placeRow fn rec x dt s q0) := by
  unfold placeRow
  try dsimp only
  repeat' (first
    | (with_reducible first
        | assumption | apply placeAt_keeps | apply Keeps.foldl | apply Keeps.foldl_fst | apply Keeps.foldl_snd | apply Keeps.ite | intro _)
    | dsimp only)

theorem opEnd_keeps (rec : Nat) (status : Status) (result : Nat) (s : State) (hK0 : Keeps q n b k s) (k_opers : k.opers = none := by assumption) :
    Keeps q n b k (opEnd rec status result s) := by
  unfold opEnd
  try dsimp only
  repeat' (first
    | (with_reducible first
        | assumption | apply unsuspend_keeps | apply complete_keeps | apply Keeps.foldl | apply Keeps.foldl_fst | apply Keeps.foldl_snd
        | apply Keeps.ite | intro _)
    | dsimp only | (fail_if_no_progress refine Keeps.mk rfl ?_) | split)

theorem finishOper_keeps (rec : Nat) (s : State) (hK0 : Keeps q n b k s) (k_opers : k.opers = none := by assumption) :
    Keeps q n b k (finishOper rec s) := by
  unfold finishOper
  try dsimp only
  repeat' (first
    | (with_reducible first
        | assumption | apply opEnd_keeps | apply Keeps.foldl | apply Keeps.foldl_fst | apply Keeps.foldl_snd | apply Keeps.ite | intro _)
    | dsimp only | (fail_if_no_progress refine Keeps.mk rfl ?_) | split)

theorem operAbsent_keeps (fn : Nat) (stream : Nat) (access : Nat) (rec : Nat) (done : Nat) (ranges : List (Nat × Nat)) (key : Sys2Proof.W32) (s : State) (hK0 : Keeps q n b k s) (k_opers : k.opers = none := by assumption) :
    Keeps q n b k (operAbsent fn stream access rec done ranges key s) := by
  unfold operAbsent
  try dsimp only
  repeat' (first
    | (with_reducible first
        | assumption | apply opEnd_keeps | apply suspendOn_keeps | apply Keeps.foldl | apply Keeps.foldl_fst | apply Keeps.foldl_snd
        | apply Keeps.ite | intro _)
    | dsimp only)

theorem beginOper_keeps (rec : Nat) (w : Work) (fetched : List Sys2Proof.Byte) (s : State) (hK0 : Keeps q n b k s) (k_opers : k.opers = none := by assumption) :
    Keeps q n b k (beginOper rec w fetched s) := by
  unfold beginOper
  try dsimp only
  repeat' (first
    | (with_reducible first
        | assumption | apply operAbsent_keeps | apply finishOper_keeps | apply opEnd_keeps | apply workMod_keeps | apply Keeps.foldl
        | apply Keeps.foldl_fst | apply Keeps.foldl_snd | apply Keeps.ite | intro _)
    | dsimp only | (fail_if_no_progress refine Keeps.mk rfl ?_) | split)

theorem execShoalOperator_keeps (rec : Nat) (fetched : List Sys2Proof.Byte) (s : State) (hK0 : Keeps q n b k s) (k_opers : k.opers = none := by assumption) :
    KeepsO q n b k (execShoalOperator rec fetched s) := by
  unfold execShoalOperator
  try dsimp only
  repeat' (first
    | (with_reducible first
        | assumption | apply beginOper_keeps | apply whileLit_keeps | apply KeepsO.next | apply KeepsO.ite | apply KeepsO.fault
        | apply KeepsO.refused | apply Keeps.foldl | apply Keeps.foldl_fst | apply Keeps.foldl_snd | apply Keeps.ite
        | refine KeepsO.elim ?_ (by with_reducible assumption) | intro _)
    | dsimp only | (fail_if_no_progress refine Keeps.mk rfl ?_) | split)

theorem opRunMod_keeps (rec : Nat) (f : OpRun → OpRun) (s : State) (hK0 : Keeps q n b k s) (k_opers : k.opers = none := by assumption) :
    Keeps q n b k (opRunMod rec f s) := by
  unfold opRunMod
  try dsimp only
  repeat' (first
    | (with_reducible first | assumption | apply Keeps.foldl | apply Keeps.foldl_fst | apply Keeps.foldl_snd | apply Keeps.ite | intro _)
    | dsimp only | (fail_if_no_progress refine Keeps.mk rfl ?_))

theorem runTile_keeps (o : OpKind) (d : OpDesc) (run : OpRun) (fetched : List Sys2Proof.Byte) (t0 : State) (hK0 : Keeps q n b k t0) (k_mem : k.mem = none := by assumption) (k_opers : k.opers = none := by assumption) :
    Keeps q n b k (runTile o d run fetched t0) := by
  unfold runTile
  try dsimp only
  repeat' (first
    | (with_reducible first
        | assumption | apply opRunMod_keeps | apply placeRow_keeps | apply wakeDva_keeps | apply Keeps.foldl | apply Keeps.foldl_fst
        | apply Keeps.foldl_snd | apply Keeps.ite | intro _)
    | dsimp only | (fail_if_no_progress refine Keeps.mk rfl ?_))

theorem startTile_keeps (o : OpKind) (d : OpDesc) (run : OpRun) (fetched : List Sys2Proof.Byte) (s : State) (hK0 : Keeps q n b k s) (k_mem : k.mem = none := by assumption) (k_ramp : k.ramp = none := by assumption) (k_opers : k.opers = none := by assumption) :
    Keeps q n b k (startTile o d run fetched s) := by
  unfold startTile
  try dsimp only
  repeat' (first
    | (with_reducible first
        | assumption | apply runTile_keeps | apply operAbsent_keeps | apply finishOper_keeps | apply opEnd_keeps | apply unitsIdle_keeps
        | apply unitsBusy_keeps | apply startUnits_keeps | apply Keeps.foldl | apply Keeps.foldl_fst | apply Keeps.foldl_snd
        | apply Keeps.ite | intro _)
    | dsimp only | (fail_if_no_progress refine Keeps.mk rfl ?_) | split)

theorem execTileStart_keeps (rec : Nat) (fetched : List Sys2Proof.Byte) (s : State) (hK0 : Keeps q n b k s) (k_mem : k.mem = none := by assumption) (k_ramp : k.ramp = none := by assumption) (k_opers : k.opers = none := by assumption) :
    KeepsO q n b k (execTileStart rec fetched s) := by
  unfold execTileStart
  try dsimp only
  repeat' (first
    | (with_reducible first
        | assumption | apply startTile_keeps | apply whileLit_keeps | apply KeepsO.next | apply KeepsO.ite | apply KeepsO.fault
        | apply KeepsO.refused | apply Keeps.foldl | apply Keeps.foldl_fst | apply Keeps.foldl_snd | apply Keeps.ite
        | refine KeepsO.elim ?_ (by with_reducible assumption) | intro _)
    | dsimp only | (fail_if_no_progress refine Keeps.mk rfl ?_) | split)

theorem opResume_keeps (fn : Nat) (stream : Nat) (s : State) (hK0 : Keeps q n b k s) :
    Keeps q n b k (opResume fn stream s) := by
  unfold opResume
  try dsimp only
  repeat' (with_reducible first | assumption | apply unsuspend_keeps)

theorem opStop_keeps (rec : Nat) (status : Status) (s : State) (hK0 : Keeps q n b k s) (k_opers : k.opers = none := by assumption) :
    Keeps q n b k (opStop rec status s) := by
  unfold opStop
  try dsimp only
  repeat' (with_reducible first | assumption | apply opEnd_keeps)

theorem acceptStream_keeps (fuel : Nat) (port : Nat) (n0 : Nat) (s : State) (hK0 : Keeps q n b k s) :
    Keeps q n b k (acceptStream fuel port n0 s) := by
  induction fuel generalizing port n0 s with
  | zero =>
    unfold acceptStream
    try dsimp only
    repeat' (with_reducible first | assumption)
  | succ j ih =>
    unfold acceptStream
    try dsimp only
    repeat' (first
      | (with_reducible first
          | assumption | apply ih | apply judgeEntry_keeps | apply journalEntry_keeps | apply streamMod_keeps | apply Keeps.foldl
          | apply Keeps.foldl_fst | apply Keeps.foldl_snd | apply Keeps.ite | refine KeepsN.elim ?_ (by with_reducible assumption) | intro _)
      | dsimp only | (fail_if_no_progress refine Keeps.mk rfl ?_) | split)

theorem sendCommit_keeps (port : Nat) (tag : Nat) (status : Nat) (s : State) (hK0 : Keeps q n b k s) :
    Keeps q n b k (sendCommit port tag status s) := by
  unfold sendCommit
  try dsimp only
  repeat' (first
    | (with_reducible first
        | assumption | apply sendFlit_keeps | apply Keeps.foldl | apply Keeps.foldl_fst | apply Keeps.foldl_snd | apply Keeps.ite | intro _)
    | dsimp only | (fail_if_no_progress refine Keeps.mk rfl ?_) | split)

theorem eraseAccess_keeps (port : Nat) (tag : Nat) (s : State) (hK0 : Keeps q n b k s) :
    Keeps q n b k (eraseAccess port tag s) := by
  unfold eraseAccess
  try dsimp only
  repeat' (with_reducible first | assumption | apply portMod_keeps)

theorem answerAccess_keeps (port : Nat) (tag : Nat) (a : SpurAccess) (s : State) (hK0 : Keeps q n b k s) :
    Keeps q n b k (answerAccess port tag a s) := by
  unfold answerAccess
  try dsimp only
  repeat' (first
    | (with_reducible first
        | assumption | apply eraseAccess_keeps | apply sendCommit_keeps | apply sendFlits_keeps | apply emitHost_keeps | apply Keeps.foldl
        | apply Keeps.foldl_fst | apply Keeps.foldl_snd | apply Keeps.ite | intro _)
    | dsimp only | (fail_if_no_progress refine Keeps.mk rfl ?_) | split)

theorem serveStep_keeps (port : Nat) (tag : Nat) (off : Nat) (part : List Sys2Proof.Byte) (s : State) (hK0 : Keeps q n b k s) :
    Keeps q n b k (serveStep port tag off part s) := by
  unfold serveStep
  try dsimp only
  repeat' (first
    | (with_reducible first
        | assumption | apply answerAccess_keeps | apply accessMod_keeps | apply Keeps.foldl | apply Keeps.foldl_fst | apply Keeps.foldl_snd
        | apply Keeps.ite | intro _)
    | dsimp only | (fail_if_no_progress refine Keeps.mk rfl ?_) | split)

theorem continueAfter_keeps (c : SpurCont) (part : List Sys2Proof.Byte) (s : State) (hK0 : Keeps q n b k s) (k_mem : k.mem = none := by assumption) (k_sched : k.sched = none := by assumption) (k_coll : k.coll = none := by assumption) (k_cache : k.cache = none := by assumption) (k_opers : k.opers = none := by assumption) :
    Keeps q n b k (continueAfter c part s) := by
  unfold continueAfter
  try dsimp only
  repeat' (first
    | (with_reducible first
        | assumption | apply serveStep_keeps | apply attnPump_keeps | apply finishOper_keeps | apply finishAttn_keeps | apply collGo_keeps | apply closeUnit_keeps
        | apply gotResponses_keeps | apply retireAll_keeps | apply finishMessage_keeps | apply settle_keeps | apply Keeps.foldl
        | apply Keeps.foldl_fst | apply Keeps.foldl_snd | apply Keeps.ite | intro _)
    | dsimp only | (fail_if_no_progress refine Keeps.mk rfl ?_) | split)

theorem discardHeld_keeps (fn : Nat) (retention : Nat) (s : State) (hK0 : Keeps q n b k s) (k_cache : k.cache = none := by assumption) :
    Keeps q n b k (discardHeld fn retention s) := by
  unfold discardHeld
  try dsimp only
  repeat' (first
    | (with_reducible first
        | assumption | apply freeWork_keeps | apply streamMod_keeps | apply Keeps.foldl | apply Keeps.foldl_fst | apply Keeps.foldl_snd
        | apply Keeps.ite | intro _)
    | dsimp only)

theorem doSpurStream_keeps (c : Cmd) (s : State) (hK0 : Keeps q n b k s) :
    KeepsC q n b k (doSpurStream c s) := by
  unfold doSpurStream
  try dsimp only
  repeat' (first
    | (with_reducible first
        | assumption | apply fabMod_keeps | apply cmdOk_keeps | apply cmdFail_keeps | apply KeepsC.done | apply KeepsC.deferred
        | apply KeepsC.later | apply KeepsC.ite | apply Keeps.foldl | apply Keeps.foldl_fst | apply Keeps.foldl_snd | apply Keeps.ite
        | intro _)
    | dsimp only)

theorem endOutbound_keeps (port : Nat) (tag : Nat) (status : Nat) (part : List Sys2Proof.Byte) (s : State) (hK0 : Keeps q n b k s) (k_mem : k.mem = none := by assumption) (k_sched : k.sched = none := by assumption) (k_coll : k.coll = none := by assumption) (k_cache : k.cache = none := by assumption) (k_opers : k.opers = none := by assumption) :
    Keeps q n b k (endOutbound port tag status part s) := by
  unfold endOutbound
  try dsimp only
  repeat' (first
    | (with_reducible first
        | assumption | apply continueAfter_keeps | apply eraseAccess_keeps | apply sendCommit_keeps | apply Keeps.foldl
        | apply Keeps.foldl_fst | apply Keeps.foldl_snd | apply Keeps.ite | intro _)
    | dsimp only | (fail_if_no_progress refine Keeps.mk rfl ?_) | split)

theorem execSpurAccessTimeout_keeps (port : Nat) (tag : Nat) (s : State) (hK0 : Keeps q n b k s) :
    KeepsO q n b k (execSpurAccessTimeout port tag s) := by
  unfold execSpurAccessTimeout
  try dsimp only
  repeat' (first
    | (with_reducible first
        | assumption | apply sendFlits_keeps | apply accessMod_keeps | apply whileLit_keeps | apply advanceTo_keeps | apply KeepsO.next
        | apply KeepsO.ite | apply KeepsO.fault | apply KeepsO.refused | apply Keeps.foldl | apply Keeps.foldl_fst | apply Keeps.foldl_snd
        | apply Keeps.ite | refine KeepsO.elim ?_ (by with_reducible assumption) | intro _)
    | dsimp only | (fail_if_no_progress refine Keeps.mk rfl ?_) | split)

theorem forwardRuns_keeps (port : Nat) (tag : Nat) (a : SpurAccess) (s : State) (hK0 : Keeps q n b k s) :
    Keeps q n b k (forwardRuns port tag a s) := by
  unfold forwardRuns
  try dsimp only
  repeat' (first
    | (with_reducible first
        | assumption | apply spurStart_keeps | apply Keeps.foldl | apply Keeps.foldl_fst | apply Keeps.foldl_snd | apply Keeps.ite | intro _)
    | dsimp only)

theorem gatherRead_keeps (port : Nat) (tag : Nat) (a : SpurAccess) (s : State) (hK0 : Keeps q n b k s) :
    Keeps q n b k (gatherRead port tag a s) := by
  unfold gatherRead
  try dsimp only
  repeat' (first
    | (with_reducible first
        | assumption | apply forwardRuns_keeps | apply answerAccess_keeps | apply accessMod_keeps | apply drawBytes_keeps
        | apply wakeRange_keeps | apply Keeps.foldl | apply Keeps.foldl_fst | apply Keeps.foldl_snd | apply Keeps.ite
        | refine Keeps.snd_elim ?_ (by with_reducible assumption) | intro _)
    | dsimp only | (fail_if_no_progress refine Keeps.mk rfl ?_) | split)

theorem takeSpurCmd_keeps (port : Nat) (f : Sys2Proof.Flit) (s : State) (hK0 : Keeps q n b k s) :
    Keeps q n b k (takeSpurCmd port f s) := by
  unfold takeSpurCmd
  try dsimp only
  repeat' (first
    | (with_reducible first
        | assumption | apply gatherRead_keeps | apply eraseAccess_keeps | apply sendCommit_keeps | apply dropFlit_keeps
        | apply portMod_keeps | apply Keeps.foldl | apply Keeps.foldl_fst | apply Keeps.foldl_snd | apply Keeps.ite | intro _)
    | dsimp only | (fail_if_no_progress refine Keeps.mk rfl ?_) | split)

theorem execSpurCmd_keeps (port : Nat) (f : Sys2Proof.Flit) (s : State) (hK0 : Keeps q n b k s) :
    KeepsO q n b k (execSpurCmd port f s) := by
  unfold execSpurCmd
  try dsimp only
  repeat' (first
    | (with_reducible first
        | assumption | apply takeSpurCmd_keeps | apply dropFlit_keeps | apply hearFlit_keeps | apply whileLit_keeps | apply KeepsO.next
        | apply KeepsO.ite | apply KeepsO.fault | apply KeepsO.refused | apply Keeps.foldl | apply Keeps.foldl_fst | apply Keeps.foldl_snd
        | apply Keeps.ite | refine KeepsO.elim ?_ (by with_reducible assumption) | intro _)
    | dsimp only)

theorem execSpurCommit_keeps (port : Nat) (f : Sys2Proof.Flit) (s : State) (hK0 : Keeps q n b k s) (k_mem : k.mem = none := by assumption) (k_sched : k.sched = none := by assumption) (k_coll : k.coll = none := by assumption) (k_cache : k.cache = none := by assumption) (k_opers : k.opers = none := by assumption) :
    KeepsO q n b k (execSpurCommit port f s) := by
  unfold execSpurCommit
  try dsimp only
  repeat' (first
    | (with_reducible first
        | assumption | apply endOutbound_keeps | apply dropFlit_keeps | apply hearFlit_keeps | apply whileLit_keeps | apply KeepsO.next
        | apply KeepsO.ite | apply KeepsO.fault | apply KeepsO.refused | apply Keeps.foldl | apply Keeps.foldl_fst | apply Keeps.foldl_snd
        | apply Keeps.ite | refine KeepsO.elim ?_ (by with_reducible assumption) | intro _)
    | dsimp only)

theorem placeRun_keeps (fn : Nat) (off : Nat) (base : Nat) (bytes : List Sys2Proof.Byte) (s : State) (p : Page) (hK0 : Keeps q n b k s) (k_mem : k.mem = none := by assumption) :
    Keeps q n b k (placeRun fn off base bytes s p) := by
  unfold placeRun
  try dsimp only
  repeat' (first
    | (with_reducible first
        | assumption | apply wakeRange_keeps | apply emit_keeps | apply Keeps.foldl | apply Keeps.foldl_fst | apply Keeps.foldl_snd
        | apply Keeps.ite | intro _)
    | refine tarnMod_mem_keeps _ _ (fun hw => memWriteList_wf _ _ hw) ?_ | dsimp only | (fail_if_no_progress refine Keeps.mk rfl ?_) | split)

theorem takeSpurData_keeps (port : Nat) (f : Sys2Proof.Flit) (s : State) (hK0 : Keeps q n b k s) (k_mem : k.mem = none := by assumption) (k_sched : k.sched = none := by assumption) (k_coll : k.coll = none := by assumption) (k_cache : k.cache = none := by assumption) (k_opers : k.opers = none := by assumption) :
    Keeps q n b k (takeSpurData port f s) := by
  unfold takeSpurData
  try dsimp only
  repeat' (first
    | (with_reducible first
        | assumption | apply placeRun_keeps | apply forwardRuns_keeps | apply endOutbound_keeps | apply answerAccess_keeps
        | apply dropFlit_keeps | apply accessMod_keeps | apply Keeps.foldl | apply Keeps.foldl_fst | apply Keeps.foldl_snd | apply Keeps.ite
        | intro _)
    | dsimp only | (fail_if_no_progress refine Keeps.mk rfl ?_) | split)

theorem execSpurData_keeps (port : Nat) (f : Sys2Proof.Flit) (s : State) (hK0 : Keeps q n b k s) (k_mem : k.mem = none := by assumption) (k_sched : k.sched = none := by assumption) (k_coll : k.coll = none := by assumption) (k_cache : k.cache = none := by assumption) (k_opers : k.opers = none := by assumption) :
    KeepsO q n b k (execSpurData port f s) := by
  unfold execSpurData
  try dsimp only
  repeat' (first
    | (with_reducible first
        | assumption | apply takeSpurData_keeps | apply dropFlit_keeps | apply hearFlit_keeps | apply whileLit_keeps | apply KeepsO.next
        | apply KeepsO.ite | apply KeepsO.fault | apply KeepsO.refused | apply Keeps.foldl | apply Keeps.foldl_fst | apply Keeps.foldl_snd
        | apply Keeps.ite | refine KeepsO.elim ?_ (by with_reducible assumption) | intro _)
    | dsimp only)

theorem execSpurStream_keeps (c : Cmd) (s : State) (hK0 : Keeps q n b k s) :
    KeepsO q n b k (execSpurStream c s) := by
  unfold execSpurStream
  try dsimp only
  repeat' (with_reducible first | assumption | apply doSpurStream_keeps | apply runCmd_keeps | apply KeepsO.next)

theorem sendStreamAck_keeps (port : Nat) (n0 : Nat) (s : State) (hK0 : Keeps q n b k s) :
    Keeps q n b k (sendStreamAck port n0 s) := by
  unfold sendStreamAck
  try dsimp only
  repeat' (first
    | (with_reducible first
        | assumption | apply sendFlit_keeps | apply streamMod_keeps | apply Keeps.foldl | apply Keeps.foldl_fst | apply Keeps.foldl_snd
        | apply Keeps.ite | intro _)
    | dsimp only | (fail_if_no_progress refine Keeps.mk rfl ?_) | split)

theorem serveStream_keeps (port : Nat) (n0 : Nat) (s : State) (hK0 : Keeps q n b k s) :
    Keeps q n b k (serveStream port n0 s) := by
  unfold serveStream
  try dsimp only
  repeat' (first
    | (with_reducible first
        | assumption | apply sendStreamAck_keeps | apply acceptStream_keeps | apply Keeps.foldl | apply Keeps.foldl_fst
        | apply Keeps.foldl_snd | apply Keeps.ite | intro _)
    | dsimp only | (fail_if_no_progress refine Keeps.mk rfl ?_) | split)

theorem takeCplAck_keeps (port : Nat) (f : Sys2Proof.Flit) (s : State) (hK0 : Keeps q n b k s) (k_cache : k.cache = none := by assumption) :
    Keeps q n b k (takeCplAck port f s) := by
  unfold takeCplAck
  try dsimp only
  repeat' (first
    | (with_reducible first
        | assumption | apply serveStream_keeps | apply dropFlit_keeps | apply freeWork_keeps | apply streamMod_keeps | apply Keeps.foldl
        | apply Keeps.foldl_fst | apply Keeps.foldl_snd | apply Keeps.ite | intro _)
    | dsimp only | (fail_if_no_progress refine Keeps.mk rfl ?_) | split)

theorem execStreamCplAck_keeps (port : Nat) (f : Sys2Proof.Flit) (s : State) (hK0 : Keeps q n b k s) (k_cache : k.cache = none := by assumption) :
    KeepsO q n b k (execStreamCplAck port f s) := by
  unfold execStreamCplAck
  try dsimp only
  repeat' (first
    | (with_reducible first
        | assumption | apply takeCplAck_keeps | apply dropFlit_keeps | apply hearFlit_keeps | apply whileLit_keeps | apply KeepsO.next
        | apply KeepsO.ite | apply KeepsO.fault | apply KeepsO.refused | apply Keeps.foldl | apply Keeps.foldl_fst | apply Keeps.foldl_snd
        | apply Keeps.ite | refine KeepsO.elim ?_ (by with_reducible assumption) | intro _)
    | dsimp only)

theorem takeStreamReq_keeps (port : Nat) (f : Sys2Proof.Flit) (s : State) (hK0 : Keeps q n b k s) :
    Keeps q n b k (takeStreamReq port f s) := by
  unfold takeStreamReq
  try dsimp only
  repeat' (first
    | (with_reducible first
        | assumption | apply serveStream_keeps | apply sendStreamAck_keeps | apply dropFlit_keeps | apply streamMod_keeps
        | apply Keeps.foldl | apply Keeps.foldl_fst | apply Keeps.foldl_snd | apply Keeps.ite | intro _)
    | dsimp only | (fail_if_no_progress refine Keeps.mk rfl ?_) | split)

theorem execStreamReq_keeps (port : Nat) (f : Sys2Proof.Flit) (s : State) (hK0 : Keeps q n b k s) :
    KeepsO q n b k (execStreamReq port f s) := by
  unfold execStreamReq
  try dsimp only
  repeat' (first
    | (with_reducible first
        | assumption | apply takeStreamReq_keeps | apply dropFlit_keeps | apply hearFlit_keeps | apply whileLit_keeps | apply KeepsO.next
        | apply KeepsO.ite | apply KeepsO.fault | apply KeepsO.refused | apply Keeps.foldl | apply Keeps.foldl_fst | apply Keeps.foldl_snd
        | apply Keeps.ite | refine KeepsO.elim ?_ (by with_reducible assumption) | intro _)
    | dsimp only)

theorem execStreamResend_keeps (port : Nat) (stream : Nat) (s : State) (hK0 : Keeps q n b k s) :
    KeepsO q n b k (execStreamResend port stream s) := by
  unfold execStreamResend
  try dsimp only
  repeat' (first
    | (with_reducible first
        | assumption | apply serveStream_keeps | apply resendCompletions_keeps | apply whileLit_keeps | apply advanceTo_keeps
        | apply KeepsO.next | apply KeepsO.ite | apply KeepsO.fault | apply KeepsO.refused | apply Keeps.foldl | apply Keeps.foldl_fst
        | apply Keeps.foldl_snd | apply Keeps.ite | refine KeepsO.elim ?_ (by with_reducible assumption) | intro _)
    | dsimp only | (fail_if_no_progress refine Keeps.mk rfl ?_) | split)

end Sys2Proof.Machine
end

