-- ==== Sys2Proof/Laws/KeepsTarns.lean ====
section
/-! SUPPORT. What each function of Machine/Tarn.lean, Machine/Faults.lean, Machine/Tables.lean, Machine/Reset.lean, Machine/Clocks.lean, Machine/Deliver.lean keeps: the parts of State that stand in `Kept`, the queue, and the invariant. -/

set_option linter.unusedTactic false
set_option linter.unreachableTactic false
set_option linter.unusedVariables false
namespace Sys2Proof.Machine
set_option Elab.async false
variable {q : List Instr} {n : Nat} {b : Bool} {k : Kept}

theorem flushReceive_keeps (rec : Nat) (s : State) (hK0 : Keeps q n b k s) (k_srqs : k.srqs = none := by assumption) :
    Keeps q n b k (flushReceive rec s) := by
  unfold flushReceive
  try dsimp only
  repeat' (first
    | (with_reducible first
        | assumption | apply recvMod_keeps | apply complete_keeps | apply Keeps.foldl | apply Keeps.foldl_fst | apply Keeps.foldl_snd
        | apply Keeps.ite | intro _)
    | dsimp only | (fail_if_no_progress refine Keeps.mk rfl ?_) | split)

theorem endWork_keeps (rec : Nat) (status : Status) (s : State) (hK0 : Keeps q n b k s) (k_mem : k.mem = none := by assumption) (k_srqs : k.srqs = none := by assumption) (k_sched : k.sched = none := by assumption) (k_coll : k.coll = none := by assumption) (k_cache : k.cache = none := by assumption) (k_opers : k.opers = none := by assumption) :
    Keeps q n b k (endWork rec status s) := by
  unfold endWork
  try dsimp only
  repeat' (first
    | (with_reducible first
        | assumption | apply flushReceive_keeps | apply opStop_keeps | apply attnEnd_keeps | apply collEndMember_keeps
        | apply failEntry_keeps | apply Keeps.foldl | apply Keeps.foldl_fst | apply Keeps.foldl_snd | apply Keeps.ite | intro _)
    | dsimp only | (fail_if_no_progress refine Keeps.mk rfl ?_) | split)

theorem endLost_keeps (rec : Nat) (w : Work) (s : State) (hK0 : Keeps q n b k s) (k_mem : k.mem = none := by assumption) (k_srqs : k.srqs = none := by assumption) (k_sched : k.sched = none := by assumption) (k_coll : k.coll = none := by assumption) (k_cache : k.cache = none := by assumption) (k_opers : k.opers = none := by assumption) :
    Keeps q n b k (endLost rec w s) := by
  unfold endLost
  try dsimp only
  repeat' (first
    | (with_reducible first
        | assumption | apply endWork_keeps | apply failEntry_keeps | apply Keeps.foldl | apply Keeps.foldl_fst | apply Keeps.foldl_snd
        | apply Keeps.ite | intro _)
    | dsimp only | (fail_if_no_progress refine Keeps.mk rfl ?_) | split)

theorem loseSpill_keeps (s : State) (hK0 : Keeps q n b k s) (k_mem : k.mem = none := by assumption) (k_sched : k.sched = none := by assumption) (k_coll : k.coll = none := by assumption) :
    Keeps q n b k (loseSpill s) := by
  unfold loseSpill
  try dsimp only
  repeat' (first
    | (with_reducible first
        | assumption | apply collGo_keeps | apply startAbort_keeps | apply takeFresh_keeps | apply Keeps.foldl | apply Keeps.foldl_fst
        | apply Keeps.foldl_snd | apply Keeps.ite | intro _)
    | dsimp only | (fail_if_no_progress refine Keeps.mk rfl ?_) | split)

theorem loseRecord_keeps (s : State) (rec : Nat) (hK0 : Keeps q n b k s) (k_mem : k.mem = none := by assumption) (k_srqs : k.srqs = none := by assumption) (k_sched : k.sched = none := by assumption) (k_coll : k.coll = none := by assumption) (k_cache : k.cache = none := by assumption) (k_opers : k.opers = none := by assumption) :
    Keeps q n b k (loseRecord s rec) := by
  unfold loseRecord
  try dsimp only
  repeat' (first
    | (with_reducible first
        | assumption | apply endLost_keeps | apply endWork_keeps | apply collGo_keeps | apply startAbort_keeps | apply qpToError_keeps
        | apply freeWork_keeps | apply workMod_keeps | apply raiseEvent_keeps | apply journalFree_keeps | apply Keeps.foldl
        | apply Keeps.foldl_fst | apply Keeps.foldl_snd | apply Keeps.ite | intro _)
    | dsimp only | (fail_if_no_progress refine Keeps.mk rfl ?_) | split)

theorem loseRecords_keeps (s : State) (hK0 : Keeps q n b k s) (k_mem : k.mem = none := by assumption) (k_srqs : k.srqs = none := by assumption) (k_sched : k.sched = none := by assumption) (k_coll : k.coll = none := by assumption) (k_cache : k.cache = none := by assumption) (k_opers : k.opers = none := by assumption) :
    Keeps q n b k (loseRecords s) := by
  unfold loseRecords
  try dsimp only
  repeat' (first
    | (with_reducible first
        | assumption | apply loseRecord_keeps | apply Keeps.foldl | apply Keeps.foldl_fst | apply Keeps.foldl_snd | apply Keeps.ite
        | intro _)
    | dsimp only)

theorem wantRebuild_keeps (s : State) (hK0 : Keeps q n b k s) :
    Keeps q n b k (wantRebuild s) := by
  unfold wantRebuild
  try dsimp only
  repeat' (first
    | (with_reducible first
        | assumption | apply tarnMod_keeps | apply Keeps.foldl | apply Keeps.foldl_fst | apply Keeps.foldl_snd | apply Keeps.ite)
    | dsimp only)

theorem loseOf_keeps (p : Nat → Bool) (cause : Cause) (s : State) (fn : Nat) (hK0 : Keeps q n b k s) :
    Keeps q n b k (loseOf p cause s fn) := by
  unfold loseOf
  try dsimp only
  repeat' (first
    | (with_reducible first
        | assumption | apply postRecord_keeps | apply spaceMod_keeps | apply Keeps.foldl | apply Keeps.foldl_fst | apply Keeps.foldl_snd
        | apply Keeps.ite | intro _)
    | dsimp only | (fail_if_no_progress refine Keeps.mk rfl ?_) | split)

theorem losePages_keeps (p : Nat → Bool) (cause : Cause) (s : State) (h : Keeps q n b k s) (k_mem : k.mem = none := by assumption) : Keeps q n b k (losePages p cause s) :=
  tarnMod_mem_keeps _ _ (fun hw => by dsimp only; exact memForget_wf _ hw) (Keeps.foldl _ (fun t a ht => loseOf_keeps _ _ _ _ ht) h)

theorem loseArea_keeps (cause : Cause) (s : State) (hK0 : Keeps q n b k s) (k_mem : k.mem = none := by assumption) (k_sched : k.sched = none := by assumption) :
    Keeps q n b k (loseArea cause s) := by
  unfold loseArea
  try dsimp only
  repeat' (first
    | (with_reducible first
        | assumption | apply losePages_keeps | apply wantRecheck_keeps | apply tarnMod_keeps | apply Keeps.foldl | apply Keeps.foldl_fst
        | apply Keeps.foldl_snd | apply Keeps.ite)
    | dsimp only)

theorem loseTarn_keeps (tarn : Nat) (s : State) (hK0 : Keeps q n b k s) (k_mem : k.mem = none := by assumption) (k_srqs : k.srqs = none := by assumption) (k_sched : k.sched = none := by assumption) (k_coll : k.coll = none := by assumption) (k_cache : k.cache = none := by assumption) (k_opers : k.opers = none := by assumption) :
    Keeps q n b k (loseTarn tarn s) := by
  unfold loseTarn
  try dsimp only
  repeat' (first
    | (with_reducible first
        | assumption | apply loseArea_keeps | apply wantRebuild_keeps | apply loseRecords_keeps | apply loseSpill_keeps
        | apply settleClock_keeps | apply tarnMod_keeps | apply raiseEvent_keeps | apply Keeps.foldl | apply Keeps.foldl_fst
        | apply Keeps.foldl_snd | apply Keeps.ite | intro _)
    | dsimp only | (fail_if_no_progress refine Keeps.mk rfl ?_))

theorem execChannelLost_keeps (tarn : Nat) (channel : Nat) (s : State) (hK0 : Keeps q n b k s) (k_mem : k.mem = none := by assumption) (k_srqs : k.srqs = none := by assumption) (k_sched : k.sched = none := by assumption) (k_coll : k.coll = none := by assumption) (k_cache : k.cache = none := by assumption) (k_opers : k.opers = none := by assumption) :
    KeepsO q n b k (execChannelLost tarn channel s) := by
  unfold execChannelLost
  try dsimp only
  repeat' (first
    | (with_reducible first
        | assumption | apply loseTarn_keeps | apply loseArea_keeps | apply wantRebuild_keeps | apply loseRecords_keeps
        | apply loseSpill_keeps | apply flushCrossing_keeps | apply tarnMod_keeps | apply whileLit_keeps | apply raiseEvent_keeps
        | apply KeepsO.next | apply KeepsO.ite | apply KeepsO.fault | apply KeepsO.refused | apply Keeps.foldl | apply Keeps.foldl_fst
        | apply Keeps.foldl_snd | apply Keeps.ite | refine KeepsO.elim ?_ (by with_reducible assumption) | intro _)
    | dsimp only)

theorem execChannelPowerDown_keeps (tarn : Nat) (channel : Nat) (s : State) (hK0 : Keeps q n b k s) :
    KeepsO q n b k (execChannelPowerDown tarn channel s) := by
  unfold execChannelPowerDown
  try dsimp only
  repeat' (first
    | (with_reducible first
        | assumption | apply tarnMod_keeps | apply whileLit_keeps | apply advanceTo_keeps | apply KeepsO.next | apply KeepsO.ite
        | apply KeepsO.fault | apply KeepsO.refused | apply Keeps.foldl | apply Keeps.foldl_fst | apply Keeps.foldl_snd | apply Keeps.ite
        | refine KeepsO.elim ?_ (by with_reducible assumption) | intro _)
    | dsimp only)

theorem execCoreSetRestored_keeps (s : State) (hK0 : Keeps q n b k s) :
    KeepsO q n b k (execCoreSetRestored s) := by
  unfold execCoreSetRestored
  try dsimp only
  repeat' (first
    | (with_reducible first
        | assumption | apply whileLit_keeps | apply advanceTo_keeps | apply KeepsO.next | apply KeepsO.ite | apply KeepsO.fault
        | apply KeepsO.refused | apply Keeps.foldl | apply Keeps.foldl_fst | apply Keeps.foldl_snd | apply Keeps.ite
        | refine KeepsO.elim ?_ (by with_reducible assumption) | intro _)
    | dsimp only | (fail_if_no_progress refine Keeps.mk rfl ?_) | split)

theorem execInterleaveReformed_keeps (s : State) (hK0 : Keeps q n b k s) :
    KeepsO q n b k (execInterleaveReformed s) := by
  unfold execInterleaveReformed
  try dsimp only
  repeat' (first
    | (with_reducible first
        | assumption | apply tarnMod_keeps | apply whileLit_keeps | apply KeepsO.next | apply KeepsO.ite | apply KeepsO.fault
        | apply KeepsO.refused | apply Keeps.foldl | apply Keeps.foldl_fst | apply Keeps.foldl_snd | apply Keeps.ite
        | refine KeepsO.elim ?_ (by with_reducible assumption))
    | dsimp only)

theorem execJournalRemirrored_keeps (tarn : Nat) (channel : Nat) (s : State) (hK0 : Keeps q n b k s) :
    KeepsO q n b k (execJournalRemirrored tarn channel s) := by
  unfold execJournalRemirrored
  try dsimp only
  repeat' (first
    | (with_reducible first
        | assumption | apply tarnMod_keeps | apply whileLit_keeps | apply KeepsO.next | apply KeepsO.ite | apply KeepsO.fault
        | apply KeepsO.refused | apply Keeps.foldl | apply Keeps.foldl_fst | apply Keeps.foldl_snd | apply Keeps.ite
        | refine KeepsO.elim ?_ (by with_reducible assumption) | intro _)
    | dsimp only)

theorem retireCore_keeps (core : Nat) (s : State) (hK0 : Keeps q n b k s) :
    Keeps q n b k (retireCore core s) := by
  unfold retireCore
  try dsimp only
  repeat' (first
    | (with_reducible first
        | assumption | apply raiseEvent_keeps | apply Keeps.foldl | apply Keeps.foldl_fst | apply Keeps.foldl_snd | apply Keeps.ite
        | intro _)
    | dsimp only | (fail_if_no_progress refine Keeps.mk rfl ?_))

theorem execLossOfOneControlCore_keeps (core : Nat) (s : State) (hK0 : Keeps q n b k s) :
    KeepsO q n b k (execLossOfOneControlCore core s) := by
  unfold execLossOfOneControlCore
  try dsimp only
  repeat' (first
    | (with_reducible first
        | assumption | apply retireCore_keeps | apply whileLit_keeps | apply KeepsO.next | apply KeepsO.ite | apply KeepsO.fault
        | apply KeepsO.refused | apply Keeps.foldl | apply Keeps.foldl_fst | apply Keeps.foldl_snd | apply Keeps.ite
        | refine KeepsO.elim ?_ (by with_reducible assumption) | intro _)
    | dsimp only)

theorem shedPins_keeps (fuel : Nat) (s : State) (hK0 : Keeps q n b k s) (k_cache : k.cache = none := by assumption) :
    Keeps q n b k (shedPins fuel s) := by
  induction fuel generalizing s with
  | zero =>
    unfold shedPins
    try dsimp only
    repeat' (with_reducible first | assumption)
  | succ j ih =>
    unfold shedPins
    try dsimp only
    repeat' (first
      | (with_reducible first
          | assumption | apply ih | apply dropPins_keeps | apply raiseEvent_keeps | apply finishCmds_keeps | apply Keeps.foldl
          | apply Keeps.foldl_fst | apply Keeps.foldl_snd | apply Keeps.ite | intro _)
      | dsimp only | (fail_if_no_progress refine Keeps.mk rfl ?_) | split)

theorem retireShoal_keeps (shoal : Nat) (s : State) (hK0 : Keeps q n b k s) (k_cache : k.cache = none := by assumption) (k_ramp : k.ramp = none := by assumption) :
    Keeps q n b k (retireShoal shoal s) := by
  unfold retireShoal
  try dsimp only
  repeat' (first
    | (with_reducible first
        | assumption | apply shedPins_keeps | apply rampMod_keeps | apply raiseEvent_keeps | apply Keeps.foldl | apply Keeps.foldl_fst
        | apply Keeps.foldl_snd | apply Keeps.ite | intro _)
    | dsimp only | (fail_if_no_progress refine Keeps.mk rfl ?_))

theorem execLossOfOneShoal_keeps (shoal : Nat) (s : State) (hK0 : Keeps q n b k s) (k_cache : k.cache = none := by assumption) (k_ramp : k.ramp = none := by assumption) :
    KeepsO q n b k (execLossOfOneShoal shoal s) := by
  unfold execLossOfOneShoal
  try dsimp only
  repeat' (first
    | (with_reducible first
        | assumption | apply retireShoal_keeps | apply whileLit_keeps | apply KeepsO.next | apply KeepsO.ite | apply KeepsO.fault
        | apply KeepsO.refused | apply Keeps.foldl | apply Keeps.foldl_fst | apply Keeps.foldl_snd | apply Keeps.ite
        | refine KeepsO.elim ?_ (by with_reducible assumption) | intro _)
    | dsimp only)

theorem startRepair_keeps (channel : Nat) (place : Option (Nat × Nat)) (s : State) (hK0 : Keeps q n b k s) :
    Keeps q n b k (startRepair channel place s) := by
  unfold startRepair
  try dsimp only
  repeat' (first
    | (with_reducible first
        | assumption | apply tarnMod_keeps | apply raiseEvent_keeps | apply Keeps.foldl | apply Keeps.foldl_fst | apply Keeps.foldl_snd
        | apply Keeps.ite | intro _)
    | dsimp only)

theorem scrubWord_keeps (tarn : Nat) (before : List Corrected) (s : State) (h0 : Sys2Proof.ScrubHit) (hK0 : Keeps q n b k s) (k_mem : k.mem = none := by assumption) :
    Keeps q n b k (scrubWord tarn before s h0) := by
  unfold scrubWord
  try dsimp only
  repeat' (first
    | (with_reducible first
        | assumption | apply startRepair_keeps | apply wakeRange_keeps | apply Keeps.foldl | apply Keeps.foldl_fst | apply Keeps.foldl_snd
        | apply Keeps.ite | intro _)
    | refine tarnMod_mem_keeps _ _ (fun hw => memWriteList_wf _ _ hw) ?_ | dsimp only | (fail_if_no_progress refine Keeps.mk rfl ?_))

theorem execPatrolScrub_keeps (tarn : Nat) (corrected : List Sys2Proof.ScrubHit) (s : State) (hK0 : Keeps q n b k s) (k_mem : k.mem = none := by assumption) :
    KeepsO q n b k (execPatrolScrub tarn corrected s) := by
  unfold execPatrolScrub
  try dsimp only
  repeat' (first
    | (with_reducible first
        | assumption | apply scrubWord_keeps | apply whileLit_keeps | apply KeepsO.next | apply KeepsO.ite | apply KeepsO.fault
        | apply KeepsO.refused | apply Keeps.foldl | apply Keeps.foldl_fst | apply Keeps.foldl_snd | apply Keeps.ite
        | refine KeepsO.elim ?_ (by with_reducible assumption) | intro _)
    | dsimp only)

theorem execRefresh_keeps (tarn : Nat) (s : State) (hK0 : Keeps q n b k s) :
    KeepsO q n b k (execRefresh tarn s) := by
  unfold execRefresh
  try dsimp only
  repeat' (first
    | (with_reducible first
        | assumption | apply tarnMod_keeps | apply whileLit_keeps | apply KeepsO.next | apply KeepsO.ite | apply KeepsO.fault
        | apply KeepsO.refused | apply Keeps.foldl | apply Keeps.foldl_fst | apply Keeps.foldl_snd | apply Keeps.ite
        | refine KeepsO.elim ?_ (by with_reducible assumption) | intro _)
    | dsimp only)

theorem execRowRepairDone_keeps (tarn : Nat) (channel : Nat) (bank : Nat) (row : Nat) (s : State) (hK0 : Keeps q n b k s) :
    KeepsO q n b k (execRowRepairDone tarn channel bank row s) := by
  unfold execRowRepairDone
  try dsimp only
  repeat' (first
    | (with_reducible first
        | assumption | apply tarnMod_keeps | apply whileLit_keeps | apply raiseEvent_keeps | apply KeepsO.next | apply KeepsO.ite
        | apply KeepsO.fault | apply KeepsO.refused | apply Keeps.foldl | apply Keeps.foldl_fst | apply Keeps.foldl_snd | apply Keeps.ite
        | refine KeepsO.elim ?_ (by with_reducible assumption) | intro _)
    | dsimp only | (fail_if_no_progress refine Keeps.mk rfl ?_) | split)

theorem execTarnLost_keeps (tarn : Nat) (s : State) (hK0 : Keeps q n b k s) (k_mem : k.mem = none := by assumption) (k_srqs : k.srqs = none := by assumption) (k_sched : k.sched = none := by assumption) (k_coll : k.coll = none := by assumption) (k_cache : k.cache = none := by assumption) (k_opers : k.opers = none := by assumption) :
    KeepsO q n b k (execTarnLost tarn s) := by
  unfold execTarnLost
  try dsimp only
  repeat' (first
    | (with_reducible first
        | assumption | apply loseTarn_keeps | apply whileLit_keeps | apply KeepsO.next | apply KeepsO.ite | apply KeepsO.fault
        | apply KeepsO.refused | apply Keeps.foldl | apply Keeps.foldl_fst | apply Keeps.foldl_snd | apply Keeps.ite
        | refine KeepsO.elim ?_ (by with_reducible assumption) | intro _)
    | dsimp only)

theorem execUncorrectableError_keeps (tpa : Nat) (s : State) (hK0 : Keeps q n b k s) (k_mem : k.mem = none := by assumption) (k_srqs : k.srqs = none := by assumption) (k_sched : k.sched = none := by assumption) (k_coll : k.coll = none := by assumption) (k_cache : k.cache = none := by assumption) (k_opers : k.opers = none := by assumption) :
    KeepsO q n b k (execUncorrectableError tpa s) := by
  unfold execUncorrectableError
  try dsimp only
  repeat' (first
    | (with_reducible first
        | assumption | apply startRepair_keeps | apply losePages_keeps | apply wantRebuild_keeps | apply loseRecords_keeps
        | apply loseSpill_keeps | apply tarnMod_keeps | apply whileLit_keeps | apply takeFresh_keeps | apply raiseEvent_keeps
        | apply KeepsO.next | apply KeepsO.ite | apply KeepsO.fault | apply KeepsO.refused | apply Keeps.foldl | apply Keeps.foldl_fst
        | apply Keeps.foldl_snd | apply Keeps.ite | refine KeepsO.elim ?_ (by with_reducible assumption) | intro _)
    | dsimp only)

theorem doFaultAck_keeps (c : Cmd) (s : State) (hK0 : Keeps q n b k s) :
    KeepsC q n b k (doFaultAck c s) := by
  unfold doFaultAck
  try dsimp only
  repeat' (first
    | (with_reducible first
        | assumption | apply needParam_keeps | apply cmdOk_keeps | apply KeepsC.done | apply KeepsC.deferred | apply KeepsC.later
        | apply KeepsC.ite | apply Keeps.foldl | apply Keeps.foldl_fst | apply Keeps.foldl_snd | apply Keeps.ite | intro _)
    | dsimp only | (fail_if_no_progress refine Keeps.mk rfl ?_))

theorem doFaultQuery_keeps (c : Cmd) (s : State) (hK0 : Keeps q n b k s) :
    KeepsC q n b k (doFaultQuery c s) := by
  unfold doFaultQuery
  try dsimp only
  repeat' (with_reducible first | assumption | apply KeepsC.done)

theorem dueAgg_keeps (sel : AggEntry → Bool) (f : AggEntry → AggEntry) (s : State) (hK0 : Keeps q n b k s) :
    Keeps q n b k (dueAgg sel f s) := by
  unfold dueAgg
  try dsimp only
  repeat' (first
    | (with_reducible first
        | assumption | apply nextOrder_keeps | apply pumpPartition_keeps | apply Keeps.foldl | apply Keeps.foldl_fst | apply Keeps.foldl_snd
        | apply Keeps.ite | intro _)
    | dsimp only | (fail_if_no_progress refine Keeps.mk rfl ?_))

theorem execAggEntryClose_keeps (s : State) (hK0 : Keeps q n b k s) :
    KeepsO q n b k (execAggEntryClose s) := by
  unfold execAggEntryClose
  try dsimp only
  repeat' (first
    | (with_reducible first
        | assumption | apply dueAgg_keeps | apply whileLit_keeps | apply advanceTo_keeps | apply KeepsO.next | apply KeepsO.ite
        | apply KeepsO.fault | apply KeepsO.refused | apply Keeps.foldl | apply Keeps.foldl_fst | apply Keeps.foldl_snd | apply Keeps.ite
        | refine KeepsO.elim ?_ (by with_reducible assumption) | intro _)
    | dsimp only | (fail_if_no_progress refine Keeps.mk rfl ?_))

theorem execAggWindowBoundary_keeps (s : State) (hK0 : Keeps q n b k s) :
    KeepsO q n b k (execAggWindowBoundary s) := by
  unfold execAggWindowBoundary
  try dsimp only
  repeat' (first
    | (with_reducible first
        | assumption | apply dueAgg_keeps | apply whileLit_keeps | apply advanceTo_keeps | apply KeepsO.next | apply KeepsO.ite
        | apply KeepsO.fault | apply KeepsO.refused | apply Keeps.foldl | apply Keeps.foldl_fst | apply Keeps.foldl_snd | apply Keeps.ite
        | refine KeepsO.elim ?_ (by with_reducible assumption) | intro _)
    | dsimp only | (fail_if_no_progress refine Keeps.mk rfl ?_))

theorem execFaultAck_keeps (c : Cmd) (s : State) (hK0 : Keeps q n b k s) :
    KeepsO q n b k (execFaultAck c s) := by
  unfold execFaultAck
  try dsimp only
  repeat' (with_reducible first | assumption | apply doFaultAck_keeps | apply runCmd_keeps | apply KeepsO.next)

theorem execFaultPendingWrite_keeps (fn : Nat) (head : Sys2Proof.W32) (s : State) (hK0 : Keeps q n b k s) :
    KeepsO q n b k (execFaultPendingWrite fn head s) := by
  unfold execFaultPendingWrite
  try dsimp only
  repeat' (first
    | (with_reducible first
        | assumption | apply whileLit_keeps | apply readFqHead_keeps | apply KeepsO.next | apply KeepsO.ite | apply KeepsO.fault
        | apply KeepsO.refused | apply Keeps.foldl | apply Keeps.foldl_fst | apply Keeps.foldl_snd | apply Keeps.ite
        | refine KeepsO.elim ?_ (by with_reducible assumption) | intro _)
    | dsimp only)

theorem execFaultQuery_keeps (c : Cmd) (s : State) (hK0 : Keeps q n b k s) :
    KeepsO q n b k (execFaultQuery c s) := by
  unfold execFaultQuery
  try dsimp only
  repeat' (with_reducible first | assumption | apply doFaultQuery_keeps | apply runCmd_keeps | apply KeepsO.next)

theorem reportSilence_keeps (t : Nat) (fn : Nat) (node : Sys2Proof.W16) (s : State) (hK0 : Keeps q n b k s) :
    Keeps q n b k (reportSilence t fn node s) := by
  unfold reportSilence
  try dsimp only
  repeat' (with_reducible first | assumption | apply raiseEvent_keeps | apply advanceTo_keeps)

theorem execPeerSilent_keeps (stream : Sys2Proof.StreamId) (s : State) (hK0 : Keeps q n b k s) (k_coll : k.coll = none := by assumption) :
    KeepsO q n b k (execPeerSilent stream s) := by
  unfold execPeerSilent
  try dsimp only
  repeat' (first
    | (with_reducible first
        | assumption | apply reportSilence_keeps | apply groupMod_keeps | apply sendMod_keeps | apply streamMod_keeps | apply whileLit_keeps
        | apply KeepsO.next | apply KeepsO.ite | apply KeepsO.fault | apply KeepsO.refused | apply Keeps.foldl | apply Keeps.foldl_fst
        | apply Keeps.foldl_snd | apply Keeps.ite | refine KeepsO.elim ?_ (by with_reducible assumption) | intro _)
    | dsimp only | (fail_if_no_progress refine Keeps.mk rfl ?_) | split)

theorem resumePlacement_keeps (n0 : Nat) (s : State) (hK0 : Keeps q n b k s) :
    Keeps q n b k (resumePlacement n0 s) := by
  unfold resumePlacement
  try dsimp only
  repeat' (with_reducible first | assumption | apply recvMod_keeps)

theorem resumeAtomic_keeps (n0 : Nat) (rec : Nat) (prior : Sys2Proof.W64) (s : State) (hK0 : Keeps q n b k s) (k_mem : k.mem = none := by assumption) :
    Keeps q n b k (resumeAtomic n0 rec prior s) := by
  unfold resumeAtomic
  try dsimp only
  repeat' (first
    | (with_reducible first
        | assumption | apply returnAtomic_keeps | apply Keeps.foldl | apply Keeps.foldl_fst | apply Keeps.foldl_snd | apply Keeps.ite
        | intro _)
    | dsimp only | (fail_if_no_progress refine Keeps.mk rfl ?_) | split)

theorem resumeBuild_keeps (n0 : Nat) (rec : Nat) (s : State) (hK0 : Keeps q n b k s) :
    Keeps q n b k (resumeBuild n0 rec s) := by
  unfold resumeBuild
  try dsimp only
  repeat' (first
    | (with_reducible first
        | assumption | apply buildWork_keeps | apply Keeps.foldl | apply Keeps.foldl_fst | apply Keeps.foldl_snd | apply Keeps.ite | intro _)
    | dsimp only | (fail_if_no_progress refine Keeps.mk rfl ?_) | split)

theorem resumeStream_keeps (x : Suspension) (s : State) (hK0 : Keeps q n b k s) (k_mem : k.mem = none := by assumption) (k_sched : k.sched = none := by assumption) (k_coll : k.coll = none := by assumption) (k_cache : k.cache = none := by assumption) :
    Keeps q n b k (resumeStream x s) := by
  unfold resumeStream
  try dsimp only
  repeat' (first
    | (with_reducible first
        | assumption | apply resumeBuild_keeps | apply resumeAtomic_keeps | apply resumePlacement_keeps | apply opResume_keeps
        | apply attnResume_keeps | apply collResume_keeps | apply Keeps.foldl | apply Keeps.foldl_fst | apply Keeps.foldl_snd
        | apply Keeps.ite | intro _)
    | dsimp only | (fail_if_no_progress refine Keeps.mk rfl ?_) | split)

theorem failStream_keeps (x : Suspension) (s : State) (hK0 : Keeps q n b k s) (k_mem : k.mem = none := by assumption) (k_srqs : k.srqs = none := by assumption) (k_sched : k.sched = none := by assumption) (k_coll : k.coll = none := by assumption) (k_cache : k.cache = none := by assumption) (k_opers : k.opers = none := by assumption) :
    Keeps q n b k (failStream x s) := by
  unfold failStream
  try dsimp only
  repeat' (first
    | (with_reducible first
        | assumption | apply endWork_keeps | apply refuseMessage_keeps | apply Keeps.foldl | apply Keeps.foldl_fst | apply Keeps.foldl_snd
        | apply Keeps.ite | intro _)
    | dsimp only | (fail_if_no_progress refine Keeps.mk rfl ?_) | split)

theorem doMrFaultReply_keeps (c : Cmd) (s : State) (hK0 : Keeps q n b k s) (k_mem : k.mem = none := by assumption) (k_srqs : k.srqs = none := by assumption) (k_sched : k.sched = none := by assumption) (k_coll : k.coll = none := by assumption) (k_cache : k.cache = none := by assumption) (k_opers : k.opers = none := by assumption) :
    KeepsC q n b k (doMrFaultReply c s) := by
  unfold doMrFaultReply
  try dsimp only
  repeat' (first
    | (with_reducible first
        | assumption | apply failStream_keeps | apply resumeStream_keeps | apply keepPrior_keeps | apply needParam_keeps | apply cmdOk_keeps
        | apply cmdFail_keeps | apply suspendOn_keeps | apply KeepsC.done | apply KeepsC.deferred | apply KeepsC.later | apply KeepsC.ite
        | apply Keeps.foldl | apply Keeps.foldl_fst | apply Keeps.foldl_snd | apply Keeps.ite | intro _)
    | dsimp only | (fail_if_no_progress refine Keeps.mk rfl ?_) | split)

theorem unstall_keeps (x : Sys2Proof.StreamId) (s : State) (hK0 : Keeps q n b k s) (k_mem : k.mem = none := by assumption) (k_sched : k.sched = none := by assumption) (k_coll : k.coll = none := by assumption) (k_cache : k.cache = none := by assumption) :
    Keeps q n b k (unstall x s) := by
  unfold unstall
  try dsimp only
  repeat' (first
    | (with_reducible first
        | assumption | apply attnGoOn_keeps | apply collGo_keeps | apply Keeps.foldl | apply Keeps.foldl_fst | apply Keeps.foldl_snd
        | apply Keeps.ite | intro _)
    | dsimp only | (fail_if_no_progress refine Keeps.mk rfl ?_) | split)

theorem execMissSlotGrant_keeps (s : State) (hK0 : Keeps q n b k s) (k_mem : k.mem = none := by assumption) (k_sched : k.sched = none := by assumption) (k_coll : k.coll = none := by assumption) (k_cache : k.cache = none := by assumption) (k_missSlots : k.missSlots = none := by assumption) (k_missWait : k.missWait = none := by assumption) :
    KeepsO q n b k (execMissSlotGrant s) := by
  unfold execMissSlotGrant
  try dsimp only
  repeat' (first
    | (with_reducible first
        | assumption | apply unstall_keeps | apply grantWaiting_keeps | apply whileLit_keeps | apply KeepsO.next | apply KeepsO.ite
        | apply KeepsO.fault | apply KeepsO.refused | apply Keeps.foldl | apply Keeps.foldl_fst | apply Keeps.foldl_snd | apply Keeps.ite
        | refine KeepsO.elim ?_ (by with_reducible assumption) | intro _)
    | dsimp only | (fail_if_no_progress refine Keeps.mk rfl ?_))

theorem execMrFaultReply_keeps (c : Cmd) (s : State) (hK0 : Keeps q n b k s) (k_mem : k.mem = none := by assumption) (k_srqs : k.srqs = none := by assumption) (k_sched : k.sched = none := by assumption) (k_coll : k.coll = none := by assumption) (k_cache : k.cache = none := by assumption) (k_opers : k.opers = none := by assumption) :
    KeepsO q n b k (execMrFaultReply c s) := by
  unfold execMrFaultReply
  try dsimp only
  repeat' (first
    | (with_reducible first
        | assumption | apply doMrFaultReply_keeps | apply runCmd_keeps | apply KeepsO.next | apply KeepsO.ite | apply KeepsO.fault
        | apply KeepsO.refused | apply Keeps.foldl | apply Keeps.foldl_fst | apply Keeps.foldl_snd | apply Keeps.ite | intro _)
    | dsimp only)

theorem execTableRebuilt_keeps (fn : Nat) (host : List Sys2Proof.HostEntry) (s : State) (hK0 : Keeps q n b k s) :
    KeepsO q n b k (execTableRebuilt fn host s) := by
  unfold execTableRebuilt
  try dsimp only
  repeat' (first
    | (with_reducible first
        | assumption | apply freeBacking_keeps | apply tarnMod_keeps | apply whileLit_keeps | apply raiseEvent_keeps | apply spaceMod_keeps
        | apply KeepsO.next | apply KeepsO.ite | apply KeepsO.fault | apply KeepsO.refused | apply Keeps.foldl | apply Keeps.foldl_fst
        | apply Keeps.foldl_snd | apply Keeps.ite | refine KeepsO.elim ?_ (by with_reducible assumption) | intro _)
    | dsimp only | (fail_if_no_progress refine Keeps.mk rfl ?_) | split)

theorem bumpRegion_keeps (fn : Nat) (s : State) (x : Nat × Region) (hK0 : Keeps q n b k s) (k_regions : k.regions = none := by assumption) (k_retired : k.retired = none := by assumption) (k_cache : k.cache = none := by assumption) :
    Keeps q n b k (bumpRegion fn s x) := by
  unfold bumpRegion
  try dsimp only
  repeat' (with_reducible first | assumption | apply retireKey_keeps | apply regionMod_keeps)

theorem bumpKeys_keeps (fn : Nat) (s : State) (hK0 : Keeps q n b k s) (k_regions : k.regions = none := by assumption) (k_retired : k.retired = none := by assumption) (k_cache : k.cache = none := by assumption) :
    Keeps q n b k (bumpKeys fn s) := by
  unfold bumpKeys
  try dsimp only
  repeat' (first
    | (with_reducible first
        | assumption | apply bumpRegion_keeps | apply Keeps.foldl | apply Keeps.foldl_fst | apply Keeps.foldl_snd | apply Keeps.ite
        | intro _)
    | dsimp only)

theorem dropRegion_keeps (fn : Nat) (s : State) (x : Nat × Region) (hK0 : Keeps q n b k s) (k_regions : k.regions = none := by assumption) (k_retired : k.retired = none := by assumption) (k_cache : k.cache = none := by assumption) :
    Keeps q n b k (dropRegion fn s x) := by
  unfold dropRegion
  try dsimp only
  repeat' (with_reducible first | assumption | apply retireKey_keeps | apply regionMod_keeps)

theorem dropReplies_keeps (fn : Nat) (s : State) (hK0 : Keeps q n b k s) :
    Keeps q n b k (dropReplies fn s) := by
  unfold dropReplies
  try dsimp only
  repeat' (first
    | (with_reducible first
        | assumption | apply journalFree_keeps | apply Keeps.foldl | apply Keeps.foldl_fst | apply Keeps.foldl_snd | apply Keeps.ite
        | intro _)
    | dsimp only | (fail_if_no_progress refine Keeps.mk rfl ?_))

theorem dropObjects_keeps (fn : Nat) (s : State) (hK0 : Keeps q n b k s) (k_mem : k.mem = none := by assumption) (k_regions : k.regions = none := by assumption) (k_retired : k.retired = none := by assumption) (k_sqs : k.sqs = none := by assumption) (k_sched : k.sched = none := by assumption) (k_coll : k.coll = none := by assumption) (k_cache : k.cache = none := by assumption) :
    Keeps q n b k (dropObjects fn s) := by
  unfold dropObjects
  try dsimp only
  repeat' (first
    | (with_reducible first
        | assumption | apply dropReplies_keeps | apply dropRegion_keeps | apply tearDown_keeps | apply removeQp_keeps
        | apply dropRingRecords_keeps | apply quietQp_keeps | apply freeWork_keeps | apply Keeps.foldl | apply Keeps.foldl_fst
        | apply Keeps.foldl_snd | apply Keeps.ite | intro _)
    | dsimp only | (fail_if_no_progress refine Keeps.mk rfl ?_))

theorem releaseFunction_keeps (fn : Nat) (s : State) (hK0 : Keeps q n b k s) (k_mem : k.mem = none := by assumption) (k_regions : k.regions = none := by assumption) (k_retired : k.retired = none := by assumption) (k_sqs : k.sqs = none := by assumption) (k_srqs : k.srqs = none := by assumption) (k_sched : k.sched = none := by assumption) (k_coll : k.coll = none := by assumption) (k_cache : k.cache = none := by assumption) (k_opers : k.opers = none := by assumption) (k_sec : k.sec = none := by assumption) :
    Keeps q n b k (releaseFunction fn s) := by
  unfold releaseFunction
  try dsimp only
  repeat' (first
    | (with_reducible first
        | assumption | apply dropObjects_keeps | apply endWork_keeps | apply dropPool_keeps | apply fabMod_keeps | apply tarnMod_keeps
        | apply Keeps.foldl | apply Keeps.foldl_fst | apply Keeps.foldl_snd | apply Keeps.ite | intro _)
    | dsimp only | (fail_if_no_progress refine Keeps.mk rfl ?_))

theorem flushHost_keeps (fn : Nat) (s : State) (hK0 : Keeps q n b k s) (k_mem : k.mem = none := by assumption) (k_srqs : k.srqs = none := by assumption) (k_sched : k.sched = none := by assumption) (k_coll : k.coll = none := by assumption) (k_cache : k.cache = none := by assumption) (k_opers : k.opers = none := by assumption) :
    Keeps q n b k (flushHost fn s) := by
  unfold flushHost
  try dsimp only
  repeat' (first
    | (with_reducible first
        | assumption | apply endWork_keeps | apply Keeps.foldl | apply Keeps.foldl_fst | apply Keeps.foldl_snd | apply Keeps.ite | intro _)
    | dsimp only | (fail_if_no_progress refine Keeps.mk rfl ?_) | split)

theorem dropResponses_keeps (fn : Nat) (s : State) (hK0 : Keeps q n b k s) :
    Keeps q n b k (dropResponses fn s) := by
  unfold dropResponses
  try dsimp only
  repeat' (first
    | (with_reducible first | assumption | apply Keeps.foldl | apply Keeps.foldl_fst | apply Keeps.foldl_snd | apply Keeps.ite | intro _)
    | dsimp only | (fail_if_no_progress refine Keeps.mk rfl ?_))

theorem enterReset_keeps (fn : Nat) (s : State) (hK0 : Keeps q n b k s) (k_sqs : k.sqs = none := by assumption) :
    Keeps q n b k (enterReset fn s) := by
  unfold enterReset
  try dsimp only
  repeat' (first
    | (with_reducible first
        | assumption | apply stopRings_keeps | apply fnMod_keeps | apply Keeps.foldl | apply Keeps.foldl_fst | apply Keeps.foldl_snd
        | apply Keeps.ite | intro _)
    | dsimp only | (fail_if_no_progress refine Keeps.mk rfl ?_))

theorem holdReplies_keeps (fn : Nat) (s : State) (hK0 : Keeps q n b k s) :
    Keeps q n b k (holdReplies fn s) := by
  unfold holdReplies
  try dsimp only
  repeat' (first
    | (with_reducible first | assumption | apply Keeps.foldl | apply Keeps.foldl_fst | apply Keeps.foldl_snd | apply Keeps.ite | intro _)
    | dsimp only | (fail_if_no_progress refine Keeps.mk rfl ?_))

theorem flushPartition_keeps (fn : Nat) (s : State) (hK0 : Keeps q n b k s) :
    Keeps q n b k (flushPartition fn s) := by
  unfold flushPartition
  try dsimp only
  repeat' (first
    | (with_reducible first
        | assumption | apply spaceMod_keeps | apply Keeps.foldl | apply Keeps.foldl_fst | apply Keeps.foldl_snd | apply Keeps.ite | intro _)
    | dsimp only | (fail_if_no_progress refine Keeps.mk rfl ?_))

theorem endSession_keeps (s : State) (hK0 : Keeps q n b k s) (k_sec : k.sec = none := by assumption) :
    Keeps q n b k (endSession s) := by
  unfold endSession
  try dsimp only
  repeat' (first
    | (with_reducible first | assumption | apply Keeps.foldl | apply Keeps.foldl_fst | apply Keeps.foldl_snd | apply Keeps.ite | intro _)
    | dsimp only | (fail_if_no_progress refine Keeps.mk rfl ?_))

theorem dropUnit_keeps (fn : Nat) (s : State) (x : Nat × RxUnit) (hK0 : Keeps q n b k s) :
    Keeps q n b k (dropUnit fn s x) := by
  unfold dropUnit
  try dsimp only
  repeat' (with_reducible first | assumption | apply recvMod_keeps | apply postRecord_keeps)

theorem failSuspended_keeps (fn : Nat) (s : State) (hK0 : Keeps q n b k s) (k_mem : k.mem = none := by assumption) (k_srqs : k.srqs = none := by assumption) (k_sched : k.sched = none := by assumption) (k_coll : k.coll = none := by assumption) (k_cache : k.cache = none := by assumption) (k_opers : k.opers = none := by assumption) :
    Keeps q n b k (failSuspended fn s) := by
  unfold failSuspended
  try dsimp only
  repeat' (first
    | (with_reducible first
        | assumption | apply failStream_keeps | apply Keeps.foldl | apply Keeps.foldl_fst | apply Keeps.foldl_snd | apply Keeps.ite
        | intro _)
    | dsimp only | (fail_if_no_progress refine Keeps.mk rfl ?_))

theorem holdCompletions_keeps (fn : Nat) (s : State) (hK0 : Keeps q n b k s) :
    Keeps q n b k (holdCompletions fn s) := by
  unfold holdCompletions
  try dsimp only
  repeat' (first
    | (with_reducible first | assumption | apply Keeps.foldl | apply Keeps.foldl_fst | apply Keeps.foldl_snd | apply Keeps.ite | intro _)
    | dsimp only | (fail_if_no_progress refine Keeps.mk rfl ?_))

theorem resetFunction_keeps (fn : Nat) (s : State) (hK0 : Keeps q n b k s) (k_mem : k.mem = none := by assumption) (k_regions : k.regions = none := by assumption) (k_retired : k.retired = none := by assumption) (k_sqs : k.sqs = none := by assumption) (k_srqs : k.srqs = none := by assumption) (k_sched : k.sched = none := by assumption) (k_coll : k.coll = none := by assumption) (k_cache : k.cache = none := by assumption) (k_opers : k.opers = none := by assumption) (k_sec : k.sec = none := by assumption) :
    Keeps q n b k (resetFunction fn s) := by
  unfold resetFunction
  try dsimp only
  repeat' (first
    | (with_reducible first
        | assumption | apply holdCompletions_keeps | apply failSuspended_keeps | apply dropUnit_keeps | apply endSession_keeps
        | apply flushPartition_keeps | apply holdReplies_keeps | apply enterReset_keeps | apply dropResponses_keeps | apply flushHost_keeps
        | apply bumpKeys_keeps | apply Keeps.foldl | apply Keeps.foldl_fst | apply Keeps.foldl_snd | apply Keeps.ite | intro _)
    | dsimp only | (fail_if_no_progress refine Keeps.mk rfl ?_) | split)

theorem disableVf_keeps (s : State) (n0 : Nat) (hK0 : Keeps q n b k s) (k_mem : k.mem = none := by assumption) (k_regions : k.regions = none := by assumption) (k_retired : k.retired = none := by assumption) (k_sqs : k.sqs = none := by assumption) (k_srqs : k.srqs = none := by assumption) (k_sched : k.sched = none := by assumption) (k_coll : k.coll = none := by assumption) (k_cache : k.cache = none := by assumption) (k_opers : k.opers = none := by assumption) (k_sec : k.sec = none := by assumption) :
    Keeps q n b k (disableVf s n0) := by
  unfold disableVf
  try dsimp only
  repeat' (first
    | (with_reducible first
        | assumption | apply resetFunction_keeps | apply releaseFunction_keeps | apply fnMod_keeps | apply Keeps.foldl
        | apply Keeps.foldl_fst | apply Keeps.foldl_snd | apply Keeps.ite | intro _)
    | dsimp only)

theorem enableVf_keeps (s : State) (n0 : Nat) (hK0 : Keeps q n b k s) :
    Keeps q n b k (enableVf s n0) := by
  unfold enableVf
  try dsimp only
  repeat' (first
    | (with_reducible first
        | assumption | apply fnMod_keeps | apply Keeps.foldl | apply Keeps.foldl_fst | apply Keeps.foldl_snd | apply Keeps.ite | intro _)
    | dsimp only | (fail_if_no_progress refine Keeps.mk rfl ?_) | split)

theorem latchVfs_keeps (s : State) (hK0 : Keeps q n b k s) (k_mem : k.mem = none := by assumption) (k_regions : k.regions = none := by assumption) (k_retired : k.retired = none := by assumption) (k_sqs : k.sqs = none := by assumption) (k_srqs : k.srqs = none := by assumption) (k_sched : k.sched = none := by assumption) (k_coll : k.coll = none := by assumption) (k_cache : k.cache = none := by assumption) (k_opers : k.opers = none := by assumption) (k_sec : k.sec = none := by assumption) (k_pcie : k.pcie = none := by assumption) :
    Keeps q n b k (latchVfs s) := by
  unfold latchVfs
  try dsimp only
  repeat' (first
    | (with_reducible first
        | assumption | apply resetFunction_keeps | apply fnMod_keeps | apply Keeps.foldl | apply Keeps.foldl_fst | apply Keeps.foldl_snd
        | apply Keeps.ite | intro _)
    | dsimp only | (fail_if_no_progress refine Keeps.mk rfl ?_))

theorem hostCrash_keeps (perst : Bool) (s : State) (hK0 : Keeps q n b k s) (k_mem : k.mem = none := by assumption) (k_regions : k.regions = none := by assumption) (k_retired : k.retired = none := by assumption) (k_sqs : k.sqs = none := by assumption) (k_srqs : k.srqs = none := by assumption) (k_sched : k.sched = none := by assumption) (k_coll : k.coll = none := by assumption) (k_cache : k.cache = none := by assumption) (k_opers : k.opers = none := by assumption) (k_sec : k.sec = none := by assumption) (k_pcie : k.pcie = none := by assumption) :
    Keeps q n b k (hostCrash perst s) := by
  unfold hostCrash
  try dsimp only
  repeat' (first
    | (with_reducible first
        | assumption | apply latchVfs_keeps | apply resetFunction_keeps | apply flushCrossing_keeps | apply Keeps.foldl
        | apply Keeps.foldl_fst | apply Keeps.foldl_snd | apply Keeps.ite | intro _)
    | dsimp only | (fail_if_no_progress refine Keeps.mk rfl ?_))

theorem execDlDown_keeps (s : State) (hK0 : Keeps q n b k s) (k_mem : k.mem = none := by assumption) (k_regions : k.regions = none := by assumption) (k_retired : k.retired = none := by assumption) (k_sqs : k.sqs = none := by assumption) (k_srqs : k.srqs = none := by assumption) (k_sched : k.sched = none := by assumption) (k_coll : k.coll = none := by assumption) (k_cache : k.cache = none := by assumption) (k_opers : k.opers = none := by assumption) (k_sec : k.sec = none := by assumption) (k_pcie : k.pcie = none := by assumption) :
    KeepsO q n b k (execDlDown s) := by
  unfold execDlDown
  try dsimp only
  repeat' (first
    | (with_reducible first
        | assumption | apply hostCrash_keeps | apply KeepsO.next | apply KeepsO.ite | apply KeepsO.fault | apply KeepsO.refused
        | apply Keeps.foldl | apply Keeps.foldl_fst | apply Keeps.foldl_snd | apply Keeps.ite | intro _)
    | dsimp only)

theorem readHeads_keeps (fn : Nat) (heads : List Sys2Proof.HeadRead) (s : State) (hK0 : Keeps q n b k s) (k_cache : k.cache = none := by assumption) :
    Keeps q n b k (readHeads fn heads s) := by
  unfold readHeads
  try dsimp only
  repeat' (first
    | (with_reducible first
        | assumption | apply readCqHead_keeps | apply Keeps.foldl | apply Keeps.foldl_fst | apply Keeps.foldl_snd | apply Keeps.ite
        | intro _)
    | dsimp only | (fail_if_no_progress refine Keeps.mk rfl ?_) | split)

theorem execFlr_keeps (fn : Nat) (heads : List Sys2Proof.HeadRead) (s : State) (hK0 : Keeps q n b k s) (k_mem : k.mem = none := by assumption) (k_regions : k.regions = none := by assumption) (k_retired : k.retired = none := by assumption) (k_sqs : k.sqs = none := by assumption) (k_srqs : k.srqs = none := by assumption) (k_sched : k.sched = none := by assumption) (k_coll : k.coll = none := by assumption) (k_cache : k.cache = none := by assumption) (k_opers : k.opers = none := by assumption) (k_sec : k.sec = none := by assumption) (k_pcie : k.pcie = none := by assumption) :
    KeepsO q n b k (execFlr fn heads s) := by
  unfold execFlr
  try dsimp only
  repeat' (first
    | (with_reducible first
        | assumption | apply readHeads_keeps | apply latchVfs_keeps | apply resetFunction_keeps | apply fnMod_keeps | apply KeepsO.next
        | apply KeepsO.ite | apply KeepsO.fault | apply KeepsO.refused | apply Keeps.foldl | apply Keeps.foldl_fst | apply Keeps.foldl_snd
        | apply Keeps.ite | intro _)
    | dsimp only | (fail_if_no_progress refine Keeps.mk rfl ?_) | split)

theorem execFnReset_keeps (c : Cmd) (heads : List Sys2Proof.HeadRead) (s : State) (hK0 : Keeps q n b k s) (k_mem : k.mem = none := by assumption) (k_regions : k.regions = none := by assumption) (k_retired : k.retired = none := by assumption) (k_sqs : k.sqs = none := by assumption) (k_srqs : k.srqs = none := by assumption) (k_sched : k.sched = none := by assumption) (k_coll : k.coll = none := by assumption) (k_cache : k.cache = none := by assumption) (k_opers : k.opers = none := by assumption) (k_sec : k.sec = none := by assumption) :
    KeepsO q n b k (execFnReset c heads s) := by
  unfold execFnReset
  try dsimp only
  repeat' (first
    | (with_reducible first
        | assumption | apply readHeads_keeps | apply resetFunction_keeps | apply runCmd_keeps | apply cmdOk_keeps | apply KeepsO.next
        | apply KeepsO.ite | apply KeepsO.fault | apply KeepsO.refused | apply Keeps.foldl | apply Keeps.foldl_fst | apply Keeps.foldl_snd
        | apply Keeps.ite | intro _)
    | dsimp only)

theorem execFnResetComplete_keeps (fn : Nat) (s : State) (hK0 : Keeps q n b k s) (k_mem : k.mem = none := by assumption) (k_regions : k.regions = none := by assumption) (k_retired : k.retired = none := by assumption) (k_sqs : k.sqs = none := by assumption) (k_srqs : k.srqs = none := by assumption) (k_sched : k.sched = none := by assumption) (k_coll : k.coll = none := by assumption) (k_cache : k.cache = none := by assumption) (k_opers : k.opers = none := by assumption) (k_sec : k.sec = none := by assumption) :
    KeepsO q n b k (execFnResetComplete fn s) := by
  unfold execFnResetComplete
  try dsimp only
  repeat' (first
    | (with_reducible first
        | assumption | apply releaseFunction_keeps | apply finishCmds_keeps | apply fnMod_keeps | apply KeepsO.next | apply KeepsO.ite
        | apply KeepsO.fault | apply KeepsO.refused | apply Keeps.foldl | apply Keeps.foldl_fst | apply Keeps.foldl_snd | apply Keeps.ite
        | intro _)
    | dsimp only | (fail_if_no_progress refine Keeps.mk rfl ?_) | split)

theorem execHostWatchdogExpiry_keeps (fn : Nat) (heads : List Sys2Proof.HeadRead) (s : State) (hK0 : Keeps q n b k s) (k_mem : k.mem = none := by assumption) (k_regions : k.regions = none := by assumption) (k_retired : k.retired = none := by assumption) (k_sqs : k.sqs = none := by assumption) (k_srqs : k.srqs = none := by assumption) (k_sched : k.sched = none := by assumption) (k_coll : k.coll = none := by assumption) (k_cache : k.cache = none := by assumption) (k_opers : k.opers = none := by assumption) (k_sec : k.sec = none := by assumption) :
    KeepsO q n b k (execHostWatchdogExpiry fn heads s) := by
  unfold execHostWatchdogExpiry
  try dsimp only
  repeat' (first
    | (with_reducible first
        | assumption | apply readHeads_keeps | apply resetFunction_keeps | apply whileLit_keeps | apply advanceTo_keeps | apply KeepsO.next
        | apply KeepsO.ite | apply KeepsO.fault | apply KeepsO.refused | apply Keeps.foldl | apply Keeps.foldl_fst | apply Keeps.foldl_snd
        | apply Keeps.ite | refine KeepsO.elim ?_ (by with_reducible assumption) | intro _)
    | dsimp only | (fail_if_no_progress refine Keeps.mk rfl ?_) | split)

theorem execHotReset_keeps (x0 : Bool) (s : State) (hK0 : Keeps q n b k s) (k_mem : k.mem = none := by assumption) (k_regions : k.regions = none := by assumption) (k_retired : k.retired = none := by assumption) (k_sqs : k.sqs = none := by assumption) (k_srqs : k.srqs = none := by assumption) (k_sched : k.sched = none := by assumption) (k_coll : k.coll = none := by assumption) (k_cache : k.cache = none := by assumption) (k_opers : k.opers = none := by assumption) (k_sec : k.sec = none := by assumption) (k_pcie : k.pcie = none := by assumption) :
    KeepsO q n b k (execHotReset x0 s) := by
  unfold execHotReset
  try dsimp only
  repeat' (first
    | (with_reducible first
        | assumption | apply hostCrash_keeps | apply KeepsO.next | apply KeepsO.ite | apply KeepsO.fault | apply KeepsO.refused
        | apply Keeps.foldl | apply Keeps.foldl_fst | apply Keeps.foldl_snd | apply Keeps.ite | intro _)
    | dsimp only)

theorem execPcieLinkRetrained_keeps (link : Sys2Proof.PcieTrained) (s : State) (hK0 : Keeps q n b k s) (k_pcie : k.pcie = none := by assumption) :
    KeepsO q n b k (execPcieLinkRetrained link s) := by
  unfold execPcieLinkRetrained
  try dsimp only
  repeat' (first
    | (with_reducible first
        | assumption | apply KeepsO.next | apply KeepsO.ite | apply KeepsO.fault | apply KeepsO.refused | apply Keeps.foldl
        | apply Keeps.foldl_fst | apply Keeps.foldl_snd | apply Keeps.ite | intro _)
    | dsimp only | (fail_if_no_progress refine Keeps.mk rfl ?_))

theorem execPerstNAssert_keeps (widthNs : Nat) (s : State) (hK0 : Keeps q n b k s) (k_mem : k.mem = none := by assumption) (k_regions : k.regions = none := by assumption) (k_retired : k.retired = none := by assumption) (k_sqs : k.sqs = none := by assumption) (k_srqs : k.srqs = none := by assumption) (k_sched : k.sched = none := by assumption) (k_coll : k.coll = none := by assumption) (k_cache : k.cache = none := by assumption) (k_opers : k.opers = none := by assumption) (k_sec : k.sec = none := by assumption) (k_pcie : k.pcie = none := by assumption) :
    KeepsO q n b k (execPerstNAssert widthNs s) := by
  unfold execPerstNAssert
  try dsimp only
  repeat' (first
    | (with_reducible first
        | assumption | apply hostCrash_keeps | apply KeepsO.next | apply KeepsO.ite | apply KeepsO.fault | apply KeepsO.refused
        | apply Keeps.foldl | apply Keeps.foldl_fst | apply Keeps.foldl_snd | apply Keeps.ite | intro _)
    | dsimp only)

theorem execPerstNRelease_keeps (s : State) (hK0 : Keeps q n b k s) (k_pcie : k.pcie = none := by assumption) :
    KeepsO q n b k (execPerstNRelease s) := by
  unfold execPerstNRelease
  try dsimp only
  repeat' (first
    | (with_reducible first
        | assumption | apply KeepsO.next | apply KeepsO.ite | apply KeepsO.fault | apply KeepsO.refused | apply Keeps.foldl
        | apply Keeps.foldl_fst | apply Keeps.foldl_snd | apply Keeps.ite | intro _)
    | dsimp only | (fail_if_no_progress refine Keeps.mk rfl ?_))

theorem expireRetention_keeps (fn : Nat) (s : State) (hK0 : Keeps q n b k s) (k_mem : k.mem = none := by assumption) (k_regions : k.regions = none := by assumption) (k_retired : k.retired = none := by assumption) (k_sqs : k.sqs = none := by assumption) (k_sched : k.sched = none := by assumption) (k_coll : k.coll = none := by assumption) (k_cache : k.cache = none := by assumption) :
    Keeps q n b k (expireRetention fn s) := by
  unfold expireRetention
  try dsimp only
  repeat' (with_reducible first | assumption | apply dropObjects_keeps | apply fnMod_keeps)

theorem execRetentionExpiry_keeps (fn : Nat) (s : State) (hK0 : Keeps q n b k s) (k_mem : k.mem = none := by assumption) (k_regions : k.regions = none := by assumption) (k_retired : k.retired = none := by assumption) (k_sqs : k.sqs = none := by assumption) (k_sched : k.sched = none := by assumption) (k_coll : k.coll = none := by assumption) (k_cache : k.cache = none := by assumption) :
    KeepsO q n b k (execRetentionExpiry fn s) := by
  unfold execRetentionExpiry
  try dsimp only
  repeat' (first
    | (with_reducible first
        | assumption | apply expireRetention_keeps | apply discardHeld_keeps | apply whileLit_keeps | apply advanceTo_keeps
        | apply KeepsO.next | apply KeepsO.ite | apply KeepsO.fault | apply KeepsO.refused | apply Keeps.foldl | apply Keeps.foldl_fst
        | apply Keeps.foldl_snd | apply Keeps.ite | refine KeepsO.elim ?_ (by with_reducible assumption) | intro _)
    | dsimp only | (fail_if_no_progress refine Keeps.mk rfl ?_) | split)

theorem execVfDisable_keeps (s : State) (hK0 : Keeps q n b k s) (k_mem : k.mem = none := by assumption) (k_regions : k.regions = none := by assumption) (k_retired : k.retired = none := by assumption) (k_sqs : k.sqs = none := by assumption) (k_srqs : k.srqs = none := by assumption) (k_sched : k.sched = none := by assumption) (k_coll : k.coll = none := by assumption) (k_cache : k.cache = none := by assumption) (k_opers : k.opers = none := by assumption) (k_sec : k.sec = none := by assumption) (k_pcie : k.pcie = none := by assumption) :
    KeepsO q n b k (execVfDisable s) := by
  unfold execVfDisable
  try dsimp only
  repeat' (first
    | (with_reducible first
        | assumption | apply disableVf_keeps | apply KeepsO.next | apply KeepsO.ite | apply KeepsO.fault | apply KeepsO.refused
        | apply Keeps.foldl | apply Keeps.foldl_fst | apply Keeps.foldl_snd | apply Keeps.ite | intro _)
    | dsimp only | (fail_if_no_progress refine Keeps.mk rfl ?_))

theorem execVfEnable_keeps (numVfs : Nat) (s : State) (hK0 : Keeps q n b k s) (k_mem : k.mem = none := by assumption) (k_regions : k.regions = none := by assumption) (k_retired : k.retired = none := by assumption) (k_sqs : k.sqs = none := by assumption) (k_srqs : k.srqs = none := by assumption) (k_sched : k.sched = none := by assumption) (k_coll : k.coll = none := by assumption) (k_cache : k.cache = none := by assumption) (k_opers : k.opers = none := by assumption) (k_sec : k.sec = none := by assumption) (k_pcie : k.pcie = none := by assumption) :
    KeepsO q n b k (execVfEnable numVfs s) := by
  unfold execVfEnable
  try dsimp only
  repeat' (first
    | (with_reducible first
        | assumption | apply enableVf_keeps | apply releaseFunction_keeps | apply KeepsO.next | apply KeepsO.ite | apply KeepsO.fault
        | apply KeepsO.refused | apply Keeps.foldl | apply Keeps.foldl_fst | apply Keeps.foldl_snd | apply Keeps.ite | intro _)
    | dsimp only | (fail_if_no_progress refine Keeps.mk rfl ?_))

theorem execCrossingReady_keeps (island : Nat) (s : State) (hK0 : Keeps q n b k s) :
    KeepsO q n b k (execCrossingReady island s) := by
  unfold execCrossingReady
  try dsimp only
  repeat' (first
    | (with_reducible first
        | assumption | apply crossingMod_keeps | apply KeepsO.next | apply KeepsO.ite | apply KeepsO.fault | apply KeepsO.refused
        | apply Keeps.foldl | apply Keeps.foldl_fst | apply Keeps.foldl_snd | apply Keeps.ite | intro _)
    | dsimp only | (fail_if_no_progress refine Keeps.mk rfl ?_) | split)

theorem execCrossingSync_keeps (island : Nat) (s : State) (hK0 : Keeps q n b k s) :
    KeepsO q n b k (execCrossingSync island s) := by
  unfold execCrossingSync
  try dsimp only
  repeat' (first
    | (with_reducible first
        | assumption | apply crossingMod_keeps | apply KeepsO.next | apply KeepsO.ite | apply KeepsO.fault | apply KeepsO.refused
        | apply Keeps.foldl | apply Keeps.foldl_fst | apply Keeps.foldl_snd | apply Keeps.ite | intro _)
    | dsimp only | (fail_if_no_progress refine Keeps.mk rfl ?_) | split)

theorem execIslandClockStop_keeps (island : Nat) (s : State) (hK0 : Keeps q n b k s) :
    KeepsO q n b k (execIslandClockStop island s) := by
  unfold execIslandClockStop
  try dsimp only
  repeat' (first
    | (with_reducible first
        | assumption | apply dropClockBit_keeps | apply advanceTo_keeps | apply KeepsO.next | apply KeepsO.ite | apply KeepsO.fault
        | apply KeepsO.refused | apply Keeps.foldl | apply Keeps.foldl_fst | apply Keeps.foldl_snd | apply Keeps.ite | intro _)
    | dsimp only | (fail_if_no_progress refine Keeps.mk rfl ?_))

theorem execIslandWake_keeps (island : Nat) (s : State) (hK0 : Keeps q n b k s) :
    KeepsO q n b k (execIslandWake island s) := by
  unfold execIslandWake
  try dsimp only
  repeat' (first
    | (with_reducible first
        | assumption | apply runClock_keeps | apply KeepsO.next | apply KeepsO.ite | apply KeepsO.fault | apply KeepsO.refused
        | apply Keeps.foldl | apply Keeps.foldl_fst | apply Keeps.foldl_snd | apply Keeps.ite | intro _)
    | dsimp only)

theorem execL1Entry_keeps (s : State) (hK0 : Keeps q n b k s) (k_pcie : k.pcie = none := by assumption) :
    KeepsO q n b k (execL1Entry s) := by
  unfold execL1Entry
  try dsimp only
  repeat' (first
    | (with_reducible first
        | assumption | apply advanceTo_keeps | apply KeepsO.next | apply KeepsO.ite | apply KeepsO.fault | apply KeepsO.refused
        | apply Keeps.foldl | apply Keeps.foldl_fst | apply Keeps.foldl_snd | apply Keeps.ite | intro _)
    | dsimp only | (fail_if_no_progress refine Keeps.mk rfl ?_) | split)

theorem execL1Exit_keeps (s : State) (hK0 : Keeps q n b k s) (k_pcie : k.pcie = none := by assumption) :
    KeepsO q n b k (execL1Exit s) := by
  unfold execL1Exit
  try dsimp only
  repeat' (first
    | (with_reducible first
        | assumption | apply KeepsO.next | apply KeepsO.ite | apply KeepsO.fault | apply KeepsO.refused | apply Keeps.foldl
        | apply Keeps.foldl_fst | apply Keeps.foldl_snd | apply Keeps.ite | intro _)
    | dsimp only | (fail_if_no_progress refine Keeps.mk rfl ?_))

theorem execPcieRefclkLoss_keeps (s : State) (hK0 : Keeps q n b k s) (k_pcie : k.pcie = none := by assumption) :
    KeepsO q n b k (execPcieRefclkLoss s) := by
  unfold execPcieRefclkLoss
  try dsimp only
  repeat' (first
    | (with_reducible first
        | assumption | apply KeepsO.next | apply KeepsO.ite | apply KeepsO.fault | apply KeepsO.refused | apply Keeps.foldl
        | apply Keeps.foldl_fst | apply Keeps.foldl_snd | apply Keeps.ite | intro _)
    | dsimp only | (fail_if_no_progress refine Keeps.mk rfl ?_))

theorem execPcieRefclkReturn_keeps (s : State) (hK0 : Keeps q n b k s) (k_pcie : k.pcie = none := by assumption) :
    KeepsO q n b k (execPcieRefclkReturn s) := by
  unfold execPcieRefclkReturn
  try dsimp only
  repeat' (first
    | (with_reducible first
        | assumption | apply KeepsO.next | apply KeepsO.ite | apply KeepsO.fault | apply KeepsO.refused | apply Keeps.foldl
        | apply Keeps.foldl_fst | apply Keeps.foldl_snd | apply Keeps.ite | intro _)
    | dsimp only | (fail_if_no_progress refine Keeps.mk rfl ?_))

theorem runPacket_keeps (k0 : TxKind) (p : Sys2Proof.RxPacket) (prior : Sys2Proof.W64) (s : State) (hK0 : Keeps q n b k s) (k_mem : k.mem = none := by assumption) (k_srqs : k.srqs = none := by assumption) (k_sched : k.sched = none := by assumption) :
    Keeps q n b k (runPacket k0 p prior s) := by
  unfold runPacket
  try dsimp only
  repeat' (first
    | (with_reducible first
        | assumption | apply takeReadResp_keeps | apply ownSpace_keeps | apply takeAtomicResp_keeps | apply writeFresh_keeps
        | apply sendFresh_keeps | apply readFresh_keeps | apply flushFresh_keeps | apply dupRead_keeps | apply dupNothing_keeps
        | apply dupAtomic_keeps | apply classify_keeps | apply atomicFresh_keeps | apply Keeps.foldl | apply Keeps.foldl_fst
        | apply Keeps.foldl_snd | apply Keeps.ite | intro _)
    | dsimp only | (fail_if_no_progress refine Keeps.mk rfl ?_) | split)

theorem deliverPacket_keeps (port : Nat) (env : Sys2Proof.Envelope) (exact : Bool) (l : List Sys2Proof.Byte) (s : State) (hK0 : Keeps q n b k s) (k_mem : k.mem = none := by assumption) (k_srqs : k.srqs = none := by assumption) (k_sched : k.sched = none := by assumption) :
    Keeps q n b k (deliverPacket port env exact l s) := by
  unfold deliverPacket
  try dsimp only
  repeat' (first
    | (with_reducible first
        | assumption | apply runPacket_keeps | apply takeRepair_keeps | apply takeNak_keeps | apply takeAck_keeps | apply countDrop_keeps
        | apply takeFresh_keeps | apply Keeps.foldl | apply Keeps.foldl_fst | apply Keeps.foldl_snd | apply Keeps.ite | intro _)
    | dsimp only | (fail_if_no_progress refine Keeps.mk rfl ?_) | split)

end Sys2Proof.Machine
end

