-- ==== Sys2Proof/Laws/KeepsEthernet.lean ====
section
/-! SUPPORT. What each function of Machine/Eth.lean, Machine/Sec.lean keeps: the parts of State that stand in `Kept`, the queue, and the invariant. -/

set_option linter.unusedTactic false
set_option linter.unreachableTactic false
set_option linter.unusedVariables false
namespace Sys2Proof.Machine
set_option Elab.async false
variable {q : List Instr} {n : Nat} {b : Bool} {k : Kept}

theorem frMod_keeps (f : FrameRing → FrameRing) (s : State) (hK0 : Keeps q n b k s) :
    Keeps q n b k (frMod f s) := by
  unfold frMod
  try dsimp only
  repeat' (with_reducible first | assumption | apply ethMod_keeps)

theorem writeDesc_keeps (len : Nat) (link : Nat) (kind : Nat) (data : Sys2Proof.W32) (stamp : Nat) (s : State) (hK0 : Keeps q n b k s) :
    Keeps q n b k (writeDesc len link kind data stamp s) := by
  unfold writeDesc
  try dsimp only
  repeat' (first
    | (with_reducible first
        | assumption | apply frMod_keeps | apply signalVec_keeps | apply emit_keeps | apply Keeps.foldl | apply Keeps.foldl_fst
        | apply Keeps.foldl_snd | apply Keeps.ite | intro _)
    | dsimp only | (fail_if_no_progress refine Keeps.mk rfl ?_) | split)

theorem frameToRing_keeps (link : Nat) (body : List Sys2Proof.Byte) (s : State) (hK0 : Keeps q n b k s) :
    Keeps q n b k (frameToRing link body s) := by
  unfold frameToRing
  try dsimp only
  repeat' (first
    | (with_reducible first
        | assumption | apply writeDesc_keeps | apply countLink_keeps | apply emit_keeps | apply Keeps.foldl | apply Keeps.foldl_fst
        | apply Keeps.foldl_snd | apply Keeps.ite | intro _)
    | dsimp only | (fail_if_no_progress refine Keeps.mk rfl ?_) | split)

theorem pumpEvents_keeps (fuel : Nat) (s : State) (hK0 : Keeps q n b k s) :
    Keeps q n b k (pumpEvents fuel s) := by
  induction fuel generalizing s with
  | zero =>
    unfold pumpEvents
    try dsimp only
    repeat' (with_reducible first | assumption)
  | succ j ih =>
    unfold pumpEvents
    try dsimp only
    repeat' (first
      | (with_reducible first
          | assumption | apply ih | apply writeDesc_keeps | apply frMod_keeps | apply Keeps.foldl | apply Keeps.foldl_fst
          | apply Keeps.foldl_snd | apply Keeps.ite | intro _)
      | dsimp only | (fail_if_no_progress refine Keeps.mk rfl ?_) | split)

theorem postLinkEvent_keeps (link : Nat) (kind : Nat) (data : Sys2Proof.W32) (s : State) (hK0 : Keeps q n b k s) :
    Keeps q n b k (postLinkEvent link kind data s) := by
  unfold postLinkEvent
  try dsimp only
  repeat' (with_reducible first | assumption | apply pumpEvents_keeps | apply frMod_keeps)

theorem takeLldp_keeps (link : Nat) (f : Sys2Proof.EthFrame) (s : State) (hK0 : Keeps q n b k s) :
    Keeps q n b k (takeLldp link f s) := by
  unfold takeLldp
  try dsimp only
  repeat' (first
    | (with_reducible first
        | assumption | apply leaveTxLpi_keeps | apply postLinkEvent_keeps | apply linkMod_keeps | apply Keeps.foldl | apply Keeps.foldl_fst
        | apply Keeps.foldl_snd | apply Keeps.ite | intro _)
    | dsimp only | (fail_if_no_progress refine Keeps.mk rfl ?_) | split)

theorem classifyFrame_keeps (link : Nat) (f : Sys2Proof.EthFrame) (s : State) (hK0 : Keeps q n b k s) (k_mem : k.mem = none := by assumption) (k_srqs : k.srqs = none := by assumption) (k_sched : k.sched = none := by assumption) :
    Keeps q n b k (classifyFrame link f s) := by
  unfold classifyFrame
  try dsimp only
  repeat' (first
    | (with_reducible first
        | assumption | apply takeLldp_keeps | apply frameToRing_keeps | apply deliverPacket_keeps | apply countLink_keeps
        | apply Keeps.foldl | apply Keeps.foldl_fst | apply Keeps.foldl_snd | apply Keeps.ite | intro _)
    | dsimp only | (fail_if_no_progress refine Keeps.mk rfl ?_) | split)

theorem countFec_keeps (link : Nat) (c : Sys2Proof.FecCount) (s : State) (hK0 : Keeps q n b k s) :
    Keeps q n b k (countFec link c s) := by
  unfold countFec
  try dsimp only
  repeat' (first
    | (with_reducible first
        | assumption | apply countLink_keeps | apply Keeps.foldl | apply Keeps.foldl_fst | apply Keeps.foldl_snd | apply Keeps.ite | intro _)
    | dsimp only)

theorem countRx_keeps (link : Nat) (n0 : Nat) (kind : Nat) (vlan : Bool) (control : Bool) (s : State) (hK0 : Keeps q n b k s) :
    Keeps q n b k (countRx link n0 kind vlan control s) := by
  unfold countRx
  try dsimp only
  repeat' (first
    | (with_reducible first
        | assumption | apply countLink_keeps | apply Keeps.foldl | apply Keeps.foldl_fst | apply Keeps.foldl_snd | apply Keeps.ite | intro _)
    | dsimp only)

theorem doCntNotify_keeps (c : Cmd) (s : State) (hK0 : Keeps q n b k s) :
    KeepsC q n b k (doCntNotify c s) := by
  unfold doCntNotify
  try dsimp only
  repeat' (with_reducible first | assumption | apply ethMod_keeps | apply needParam_keeps | apply cmdOk_keeps)

theorem countHeldNs_keeps (link : Nat) (s : State) (hK0 : Keeps q n b k s) : Keeps q n b k (countHeldNs link s) := by
  unfold countHeldNs
  try dsimp only
  repeat' (first
    | (with_reducible first
        | assumption | apply countLink_keeps | apply linkMod_keeps | apply Keeps.foldl | apply Keeps.ite | intro _)
    | dsimp only | split)

theorem doCntRead_keeps (c : Cmd) (s : State) (h : Keeps q n b k s) : KeepsC q n b k (doCntRead c s) := by
  have hs : Keeps q n b k { s with helm := { s.helm with halfCrossed := 0 } } :=
    Keeps.mk rfl h
  unfold doCntRead
  with_reducible refine KeepsC.ite (fun _ => cmdFail_keeps _ _ h) fun _ => ?_
  with_reducible refine KeepsC.ite (fun _ => cmdFail_keeps _ _ h) fun _ => ?_
  with_reducible refine KeepsC.ite (fun _ => cmdFail_keeps _ _ h) fun _ => ?_
  with_reducible refine KeepsC.ite (fun _ => cmdOk_keeps _ (writeResult_keeps _ _ _ _ _ hs)) fun _ => ?_
  dsimp only
  split
  · with_reducible refine KeepsC.ite (fun _ => cmdOk_keeps _ (writeResult_keeps _ _ _ _ _ (linkMod_keeps _ _ _ (countHeldNs_keeps _ _ h)))) fun _ => ?_
    with_reducible exact cmdOk_keeps _ (writeResult_keeps _ _ _ _ _ h)
  · with_reducible exact cmdOk_keeps _ (writeResult_keeps _ _ _ _ _ h)

theorem doEthFrameSend_keeps (c : Cmd) (s : State) (hK0 : Keeps q n b k s) :
    KeepsC q n b k (doEthFrameSend c s) := by
  unfold doEthFrameSend
  try dsimp only
  repeat' (first
    | (with_reducible first
        | assumption | apply needParam_keeps | apply cmdOk_keeps | apply KeepsC.done | apply KeepsC.deferred | apply KeepsC.later
        | apply KeepsC.ite | apply Keeps.foldl | apply Keeps.foldl_fst | apply Keeps.foldl_snd | apply Keeps.ite | intro _)
    | dsimp only)

theorem doEthFrames_keeps (c : Cmd) (s : State) (hK0 : Keeps q n b k s) :
    KeepsC q n b k (doEthFrames c s) := by
  unfold doEthFrames
  try dsimp only
  repeat' (first
    | (with_reducible first
        | assumption | apply ethMod_keeps | apply needParam_keeps | apply cmdOk_keeps | apply KeepsC.done | apply KeepsC.deferred
        | apply KeepsC.later | apply KeepsC.ite | apply Keeps.foldl | apply Keeps.foldl_fst | apply Keeps.foldl_snd | apply Keeps.ite
        | intro _)
    | dsimp only)

theorem doEthMcast_keeps (c : Cmd) (s : State) (hK0 : Keeps q n b k s) :
    KeepsC q n b k (doEthMcast c s) := by
  unfold doEthMcast
  try dsimp only
  repeat' (with_reducible first | assumption | apply needParam_keeps | apply cmdOk_keeps | apply linkMod_keeps)

theorem sendPfc_keeps (link : Nat) (enable : Nat) (time : Nat → Nat) (s : State) (hK0 : Keeps q n b k s) :
    Keeps q n b k (sendPfc link enable time s) := by
  unfold sendPfc
  try dsimp only
  repeat' (first
    | (with_reducible first
        | assumption | apply countTx_keeps | apply emit_keeps | apply Keeps.foldl | apply Keeps.foldl_fst | apply Keeps.foldl_snd
        | apply Keeps.ite | intro _)
    | dsimp only)

theorem judgePause_keeps (link : Nat) (s : State) (hK0 : Keeps q n b k s) :
    Keeps q n b k (judgePause link s) := by
  unfold judgePause
  try dsimp only
  repeat' (first
    | (with_reducible first
        | assumption | apply sendPfc_keeps | apply linkMod_keeps | apply Keeps.foldl | apply Keeps.foldl_fst | apply Keeps.foldl_snd
        | apply Keeps.ite | intro _)
    | dsimp only | (fail_if_no_progress refine Keeps.mk rfl ?_) | split)

theorem resumeTc_keeps (link : Nat) (tc : Nat) (s : State) (hK0 : Keeps q n b k s) :
    Keeps q n b k (resumeTc link tc s) := by
  unfold resumeTc
  try dsimp only
  repeat' (first
    | (with_reducible first
        | assumption | apply countLink_keeps | apply linkMod_keeps | apply Keeps.foldl | apply Keeps.foldl_fst | apply Keeps.foldl_snd
        | apply Keeps.ite | intro _)
    | dsimp only | (fail_if_no_progress refine Keeps.mk rfl ?_) | split)

theorem doEthPfc_keeps (c : Cmd) (s : State) (hK0 : Keeps q n b k s) :
    KeepsC q n b k (doEthPfc c s) := by
  unfold doEthPfc
  try dsimp only
  repeat' (first
    | (with_reducible first
        | assumption | apply resumeTc_keeps | apply judgePause_keeps | apply sendPfc_keeps | apply needParam_keeps | apply cmdOk_keeps
        | apply linkMod_keeps | apply KeepsC.done | apply KeepsC.deferred | apply KeepsC.later | apply KeepsC.ite | apply Keeps.foldl
        | apply Keeps.foldl_fst | apply Keeps.foldl_snd | apply Keeps.ite | intro _)
    | dsimp only)

theorem doEthPortQuery_keeps (c : Cmd) (s : State) (hK0 : Keeps q n b k s) :
    KeepsC q n b k (doEthPortQuery c s) := by
  unfold doEthPortQuery
  try dsimp only
  repeat' (first
    | (with_reducible first
        | assumption | apply cmdFail_keeps | apply KeepsC.done | apply KeepsC.deferred | apply KeepsC.later | apply KeepsC.ite
        | apply Keeps.foldl | apply Keeps.foldl_fst | apply Keeps.foldl_snd | apply Keeps.ite | intro _)
    | dsimp only | (fail_if_no_progress refine Keeps.mk rfl ?_) | split)

theorem dropFrames_keeps (link : Nat) (s : State) (hK0 : Keeps q n b k s) :
    Keeps q n b k (dropFrames link s) := by
  unfold dropFrames
  try dsimp only
  repeat' (with_reducible first | assumption | apply finishCmds_keeps)

theorem leaveRxLpi_keeps (link : Nat) (s : State) (hK0 : Keeps q n b k s) :
    Keeps q n b k (leaveRxLpi link s) := by
  unfold leaveRxLpi
  try dsimp only
  repeat' (first
    | (with_reducible first
        | assumption | apply countLink_keeps | apply linkMod_keeps | apply settleClock_keeps | apply Keeps.foldl | apply Keeps.foldl_fst
        | apply Keeps.foldl_snd | apply Keeps.ite | intro _)
    | dsimp only | (fail_if_no_progress refine Keeps.mk rfl ?_) | split)

theorem linkDown_keeps (link : Nat) (s : State) (hK0 : Keeps q n b k s) (k_sched : k.sched = none := by assumption) :
    Keeps q n b k (linkDown link s) := by
  unfold linkDown
  try dsimp only
  repeat' (first
    | (with_reducible first
        | assumption | apply leaveTxLpi_keeps | apply leaveRxLpi_keeps | apply dropFrames_keeps | apply resumeTc_keeps
        | apply postLinkEvent_keeps | apply wantRecheck_keeps | apply judgePaths_keeps | apply resendWhere_keeps | apply countLink_keeps
        | apply linkMod_keeps | apply settleClock_keeps | apply Keeps.foldl | apply Keeps.foldl_fst | apply Keeps.foldl_snd
        | apply Keeps.ite | intro _)
    | dsimp only | (fail_if_no_progress refine Keeps.mk rfl ?_))

theorem doEthPortSet_keeps (c : Cmd) (s : State) (hK0 : Keeps q n b k s) (k_sched : k.sched = none := by assumption) :
    KeepsC q n b k (doEthPortSet c s) := by
  unfold doEthPortSet
  try dsimp only
  repeat' (first
    | (with_reducible first
        | assumption | apply linkDown_keeps | apply ethMod_keeps | apply judgePaths_keeps | apply cmdOk_keeps | apply cmdFail_keeps
        | apply settleClock_keeps | apply KeepsC.done | apply KeepsC.deferred | apply KeepsC.later | apply KeepsC.ite | apply Keeps.foldl
        | apply Keeps.foldl_fst | apply Keeps.foldl_snd | apply Keeps.ite | intro _)
    | dsimp only)

theorem drainLink_keeps (link : Nat) (s : State) (hK0 : Keeps q n b k s) :
    Keeps q n b k (drainLink link s) := by
  unfold drainLink
  try dsimp only
  repeat' (first
    | (with_reducible first
        | assumption | apply linkMod_keeps | apply Keeps.foldl | apply Keeps.foldl_fst | apply Keeps.foldl_snd | apply Keeps.ite | intro _)
    | dsimp only | (fail_if_no_progress refine Keeps.mk rfl ?_) | split)

theorem execCntNotify_keeps (c : Cmd) (s : State) (hK0 : Keeps q n b k s) :
    KeepsO q n b k (execCntNotify c s) := by
  unfold execCntNotify
  try dsimp only
  repeat' (with_reducible first | assumption | apply doCntNotify_keeps | apply runCmd_keeps | apply KeepsO.next)

theorem execCntRead_keeps (c : Cmd) (s : State) (hK0 : Keeps q n b k s) :
    KeepsO q n b k (execCntRead c s) := by
  unfold execCntRead
  try dsimp only
  repeat' (with_reducible first | assumption | apply doCntRead_keeps | apply runCmd_keeps | apply KeepsO.next)

theorem readFrHead_keeps (head : Sys2Proof.W32) (s : State) (hK0 : Keeps q n b k s) :
    Keeps q n b k (readFrHead head s) := by
  unfold readFrHead
  try dsimp only
  repeat' (with_reducible first | assumption | apply pumpEvents_keeps | apply frMod_keeps)

theorem pfcPriority_keeps (link : Nat) (times : List Sys2Proof.W16) (s : State) (q0 : Nat) (hK0 : Keeps q n b k s) :
    Keeps q n b k (pfcPriority link times s q0) := by
  unfold pfcPriority
  try dsimp only
  repeat' (first
    | (with_reducible first
        | assumption | apply resumeTc_keeps | apply countLink_keeps | apply linkMod_keeps | apply Keeps.foldl | apply Keeps.foldl_fst
        | apply Keeps.foldl_snd | apply Keeps.ite | intro _)
    | dsimp only | (fail_if_no_progress refine Keeps.mk rfl ?_) | split)

theorem takePfc_keeps (link : Nat) (enable : Sys2Proof.W8) (times : List Sys2Proof.W16) (s : State) (hK0 : Keeps q n b k s) :
    Keeps q n b k (takePfc link enable times s) := by
  unfold takePfc
  try dsimp only
  repeat' (with_reducible first | assumption | apply pfcPriority_keeps | apply Keeps.foldl)

theorem policeFrame_keeps (link : Nat) (tc : Nat) (f : Sys2Proof.EthFrame) (s0 : State) (hK0 : Keeps q n b k s0) (k_mem : k.mem = none := by assumption) (k_srqs : k.srqs = none := by assumption) (k_sched : k.sched = none := by assumption) :
    Keeps q n b k (policeFrame link tc f s0) := by
  unfold policeFrame
  try dsimp only
  repeat' (first
    | (with_reducible first
        | assumption | apply classifyFrame_keeps | apply duePolicers_keeps | apply countLink_keeps | apply Keeps.foldl
        | apply Keeps.foldl_fst | apply Keeps.foldl_snd | apply Keeps.ite | intro _)
    | dsimp only | (fail_if_no_progress refine Keeps.mk rfl ?_) | split)

theorem takeFrame_keeps (link : Nat) (f : Sys2Proof.EthFrame) (s0 : State) (hK0 : Keeps q n b k s0) (k_mem : k.mem = none := by assumption) (k_srqs : k.srqs = none := by assumption) (k_sched : k.sched = none := by assumption) :
    Keeps q n b k (takeFrame link f s0) := by
  unfold takeFrame
  try dsimp only
  repeat' (first
    | (with_reducible first
        | assumption | apply policeFrame_keeps | apply takePfc_keeps | apply drainLink_keeps | apply judgePause_keeps | apply countRx_keeps
        | apply countFec_keeps | apply countLink_keeps | apply linkMod_keeps | apply Keeps.foldl | apply Keeps.foldl_fst
        | apply Keeps.foldl_snd | apply Keeps.ite | intro _)
    | dsimp only | (fail_if_no_progress refine Keeps.mk rfl ?_) | split)

theorem execEthFrameRx_keeps (link : Nat) (f : Sys2Proof.EthFrame) (head : Option Sys2Proof.W32) (s : State) (hK0 : Keeps q n b k s) (k_mem : k.mem = none := by assumption) (k_srqs : k.srqs = none := by assumption) (k_sched : k.sched = none := by assumption) :
    KeepsO q n b k (execEthFrameRx link f head s) := by
  unfold execEthFrameRx
  try dsimp only
  repeat' (first
    | (with_reducible first
        | assumption | apply takeFrame_keeps | apply readFrHead_keeps | apply whileLit_keeps | apply KeepsO.next | apply KeepsO.ite
        | apply KeepsO.fault | apply KeepsO.refused | apply Keeps.foldl | apply Keeps.foldl_fst | apply Keeps.foldl_snd | apply Keeps.ite
        | refine KeepsO.elim ?_ (by with_reducible assumption) | intro _)
    | dsimp only | (fail_if_no_progress refine Keeps.mk rfl ?_) | split)

theorem execEthFrameSend_keeps (c : Cmd) (s : State) (hK0 : Keeps q n b k s) :
    KeepsO q n b k (execEthFrameSend c s) := by
  unfold execEthFrameSend
  try dsimp only
  repeat' (with_reducible first | assumption | apply doEthFrameSend_keeps | apply runCmd_keeps | apply KeepsO.next)

theorem execEthFrames_keeps (c : Cmd) (s : State) (hK0 : Keeps q n b k s) :
    KeepsO q n b k (execEthFrames c s) := by
  unfold execEthFrames
  try dsimp only
  repeat' (with_reducible first | assumption | apply doEthFrames_keeps | apply runCmd_keeps | apply KeepsO.next)

theorem execEthLinkDown_keeps (link : Nat) (s : State) (hK0 : Keeps q n b k s) (k_sched : k.sched = none := by assumption) :
    KeepsO q n b k (execEthLinkDown link s) := by
  unfold execEthLinkDown
  try dsimp only
  repeat' (with_reducible first | assumption | apply linkDown_keeps | apply whileLit_keeps | apply KeepsO.next)

theorem execEthLinkUp_keeps (link : Nat) (s : State) (hK0 : Keeps q n b k s) :
    KeepsO q n b k (execEthLinkUp link s) := by
  unfold execEthLinkUp
  try dsimp only
  repeat' (first
    | (with_reducible first
        | assumption | apply postLinkEvent_keeps | apply judgePaths_keeps | apply linkMod_keeps | apply settleClock_keeps
        | apply KeepsO.next | apply KeepsO.ite | apply KeepsO.fault | apply KeepsO.refused | apply Keeps.foldl | apply Keeps.foldl_fst
        | apply Keeps.foldl_snd | apply Keeps.ite | intro _)
    | dsimp only)

theorem execEthMcast_keeps (c : Cmd) (s : State) (hK0 : Keeps q n b k s) :
    KeepsO q n b k (execEthMcast c s) := by
  unfold execEthMcast
  try dsimp only
  repeat' (with_reducible first | assumption | apply doEthMcast_keeps | apply runCmd_keeps | apply KeepsO.next)

theorem execEthPfc_keeps (c : Cmd) (s : State) (hK0 : Keeps q n b k s) :
    KeepsO q n b k (execEthPfc c s) := by
  unfold execEthPfc
  try dsimp only
  repeat' (with_reducible first | assumption | apply doEthPfc_keeps | apply runCmd_keeps | apply KeepsO.next)

theorem execEthPortQuery_keeps (c : Cmd) (s : State) (hK0 : Keeps q n b k s) :
    KeepsO q n b k (execEthPortQuery c s) := by
  unfold execEthPortQuery
  try dsimp only
  repeat' (with_reducible first | assumption | apply doEthPortQuery_keeps | apply runCmd_keeps | apply KeepsO.next)

theorem execEthPortSet_keeps (c : Cmd) (s : State) (hK0 : Keeps q n b k s) (k_sched : k.sched = none := by assumption) :
    KeepsO q n b k (execEthPortSet c s) := by
  unfold execEthPortSet
  try dsimp only
  repeat' (first
    | (with_reducible first
        | assumption | apply doEthPortSet_keeps | apply runCmd_keeps | apply KeepsO.next | apply KeepsO.ite | apply KeepsO.fault
        | apply KeepsO.refused | apply Keeps.foldl | apply Keeps.foldl_fst | apply Keeps.foldl_snd | apply Keeps.ite | intro _)
    | dsimp only)

theorem execLinkEventDeferredWrite_keeps (head : Sys2Proof.W32) (s : State) (hK0 : Keeps q n b k s) :
    KeepsO q n b k (execLinkEventDeferredWrite head s) := by
  unfold execLinkEventDeferredWrite
  try dsimp only
  repeat' (with_reducible first | assumption | apply readFrHead_keeps | apply whileLit_keeps | apply KeepsO.next)

theorem wakeLink_keeps (link : Nat) (s : State) (hK0 : Keeps q n b k s) :
    Keeps q n b k (wakeLink link s) := by
  unfold wakeLink
  try dsimp only
  repeat' (first
    | (with_reducible first
        | assumption | apply leaveTxLpi_keeps | apply advanceTo_keeps | apply Keeps.foldl | apply Keeps.foldl_fst | apply Keeps.foldl_snd
        | apply Keeps.ite | intro _)
    | dsimp only | (fail_if_no_progress refine Keeps.mk rfl ?_) | split)

theorem execLldpSend_keeps (s : State) (hK0 : Keeps q n b k s) :
    KeepsO q n b k (execLldpSend s) := by
  unfold execLldpSend
  try dsimp only
  repeat' (first
    | (with_reducible first
        | assumption | apply wakeLink_keeps | apply countTx_keeps | apply whileLit_keeps | apply emit_keeps | apply advanceTo_keeps
        | apply KeepsO.next | apply KeepsO.ite | apply KeepsO.fault | apply KeepsO.refused | apply Keeps.foldl | apply Keeps.foldl_fst
        | apply Keeps.foldl_snd | apply Keeps.ite | refine KeepsO.elim ?_ (by with_reducible assumption) | intro _)
    | dsimp only | (fail_if_no_progress refine Keeps.mk rfl ?_))

theorem execLpiEntry_keeps (link : Nat) (s : State) (hK0 : Keeps q n b k s) :
    KeepsO q n b k (execLpiEntry link s) := by
  unfold execLpiEntry
  try dsimp only
  repeat' (first
    | (with_reducible first
        | assumption | apply countLink_keeps | apply linkMod_keeps | apply settleClock_keeps | apply whileLit_keeps | apply advanceTo_keeps
        | apply KeepsO.next | apply KeepsO.ite | apply KeepsO.fault | apply KeepsO.refused | apply Keeps.foldl | apply Keeps.foldl_fst
        | apply Keeps.foldl_snd | apply Keeps.ite | refine KeepsO.elim ?_ (by with_reducible assumption) | intro _)
    | dsimp only | (fail_if_no_progress refine Keeps.mk rfl ?_) | split)

theorem execLpiWake_keeps (link : Nat) (s : State) (hK0 : Keeps q n b k s) :
    KeepsO q n b k (execLpiWake link s) := by
  unfold execLpiWake
  try dsimp only
  repeat' (with_reducible first | assumption | apply wakeLink_keeps | apply whileLit_keeps | apply KeepsO.next)

theorem execPartnerLpiEntry_keeps (link : Nat) (s : State) (hK0 : Keeps q n b k s) :
    KeepsO q n b k (execPartnerLpiEntry link s) := by
  unfold execPartnerLpiEntry
  try dsimp only
  repeat' (first
    | (with_reducible first
        | assumption | apply countLink_keeps | apply linkMod_keeps | apply settleClock_keeps | apply whileLit_keeps | apply KeepsO.next
        | apply KeepsO.ite | apply KeepsO.fault | apply KeepsO.refused | apply Keeps.foldl | apply Keeps.foldl_fst | apply Keeps.foldl_snd
        | apply Keeps.ite | refine KeepsO.elim ?_ (by with_reducible assumption) | intro _)
    | dsimp only | (fail_if_no_progress refine Keeps.mk rfl ?_) | split)

theorem execPartnerLpiExit_keeps (link : Nat) (s : State) (hK0 : Keeps q n b k s) :
    KeepsO q n b k (execPartnerLpiExit link s) := by
  unfold execPartnerLpiExit
  try dsimp only
  repeat' (with_reducible first | assumption | apply leaveRxLpi_keeps | apply whileLit_keeps | apply KeepsO.next)

theorem execPfcFrameRx_keeps (link : Nat) (enable : Sys2Proof.W8) (times : List Sys2Proof.W16) (s : State) (hK0 : Keeps q n b k s) :
    KeepsO q n b k (execPfcFrameRx link enable times s) := by
  unfold execPfcFrameRx
  try dsimp only
  repeat' (first
    | (with_reducible first
        | assumption | apply takePfc_keeps | apply countRx_keeps | apply whileLit_keeps | apply KeepsO.next | apply KeepsO.ite
        | apply KeepsO.fault | apply KeepsO.refused | apply Keeps.foldl | apply Keeps.foldl_fst | apply Keeps.foldl_snd | apply Keeps.ite
        | refine KeepsO.elim ?_ (by with_reducible assumption) | intro _)
    | dsimp only)

theorem execPfcPauseExpire_keeps (link : Nat) (tc : Nat) (s : State) (hK0 : Keeps q n b k s) :
    KeepsO q n b k (execPfcPauseExpire link tc s) := by
  unfold execPfcPauseExpire
  try dsimp only
  repeat' (first
    | (with_reducible first
        | assumption | apply resumeTc_keeps | apply whileLit_keeps | apply advanceTo_keeps | apply KeepsO.next | apply KeepsO.ite
        | apply KeepsO.fault | apply KeepsO.refused | apply Keeps.foldl | apply Keeps.foldl_fst | apply Keeps.foldl_snd | apply Keeps.ite
        | refine KeepsO.elim ?_ (by with_reducible assumption) | intro _)
    | dsimp only | (fail_if_no_progress refine Keeps.mk rfl ?_) | split)

theorem execPfcRefresh_keeps (link : Nat) (s : State) (hK0 : Keeps q n b k s) :
    KeepsO q n b k (execPfcRefresh link s) := by
  unfold execPfcRefresh
  try dsimp only
  repeat' (first
    | (with_reducible first
        | assumption | apply drainLink_keeps | apply sendPfc_keeps | apply linkMod_keeps | apply whileLit_keeps | apply advanceTo_keeps
        | apply KeepsO.next | apply KeepsO.ite | apply KeepsO.fault | apply KeepsO.refused | apply Keeps.foldl | apply Keeps.foldl_fst
        | apply Keeps.foldl_snd | apply Keeps.ite | refine KeepsO.elim ?_ (by with_reducible assumption) | intro _)
    | dsimp only | (fail_if_no_progress refine Keeps.mk rfl ?_) | split)

theorem needBoundary_keeps (s : State) (k0 : CmdOut) (hK0 : Keeps q n b k s) (hK1 : KeepsC q n b k k0) :
    KeepsC q n b k (needBoundary s k0) := by
  unfold needBoundary
  try dsimp only
  repeat' (first
    | (with_reducible first
        | assumption | apply cmdFail_keeps | apply KeepsC.done | apply KeepsC.deferred | apply KeepsC.later | apply KeepsC.ite
        | apply Keeps.foldl | apply Keeps.foldl_fst | apply Keeps.foldl_snd | apply Keeps.ite | intro _)
    | dsimp only)

theorem secMod_keeps (f : Security → Security) (s : State) (hK0 : Keeps q n b k s) (k_sec : k.sec = none := by assumption) :
    Keeps q n b k (secMod f s) := by
  unfold secMod
  try dsimp only
  repeat' (first
    | (with_reducible first | assumption | apply Keeps.foldl | apply Keeps.foldl_fst | apply Keeps.foldl_snd | apply Keeps.ite | intro _)
    | dsimp only | (fail_if_no_progress refine Keeps.mk rfl ?_))

theorem doSecAccordDrop_keeps (c : Cmd) (s : State) (hK0 : Keeps q n b k s) (k_sec : k.sec = none := by assumption) :
    KeepsC q n b k (doSecAccordDrop c s) := by
  unfold doSecAccordDrop
  try dsimp only
  repeat' (first
    | (with_reducible first
        | assumption | apply secMod_keeps | apply needBoundary_keeps | apply needParam_keeps | apply cmdOk_keeps | apply cmdFail_keeps
        | apply KeepsC.done | apply KeepsC.deferred | apply KeepsC.later | apply KeepsC.ite | apply Keeps.foldl | apply Keeps.foldl_fst
        | apply Keeps.foldl_snd | apply Keeps.ite | intro _)
    | dsimp only)

theorem drbgDraw_keeps (s : State) (hK0 : Keeps q n b k s) (k_sec : k.sec = none := by assumption) :
    Keeps q n b k (drbgDraw s).2 := by
  unfold drbgDraw
  try dsimp only
  repeat' (with_reducible first | assumption | apply secMod_keeps | apply takeFresh_keeps)

theorem doSecAttest_keeps (c : Cmd) (s : State) (hK0 : Keeps q n b k s) (k_sec : k.sec = none := by assumption) :
    KeepsC q n b k (doSecAttest c s) := by
  unfold doSecAttest
  try dsimp only
  repeat' (with_reducible first
    | assumption | apply drbgDraw_keeps | apply needBoundary_keeps | apply needParam_keeps | apply writeResult_keeps | apply KeepsC.done)

theorem doSecFwBegin_keeps (c : Cmd) (s : State) (hK0 : Keeps q n b k s) (k_sec : k.sec = none := by assumption) :
    KeepsC q n b k (doSecFwBegin c s) := by
  unfold doSecFwBegin
  try dsimp only
  repeat' (with_reducible first | assumption | apply secMod_keeps | apply needBoundary_keeps | apply needParam_keeps | apply cmdOk_keeps)

theorem doSecFwChunk_keeps (c : Cmd) (s : State) (hK0 : Keeps q n b k s) (k_sec : k.sec = none := by assumption) :
    KeepsC q n b k (doSecFwChunk c s) := by
  unfold doSecFwChunk
  try dsimp only
  repeat' (first
    | (with_reducible first
        | assumption | apply secMod_keeps | apply needBoundary_keeps | apply needParam_keeps | apply cmdOk_keeps | apply cmdFail_keeps
        | apply KeepsC.done | apply KeepsC.deferred | apply KeepsC.later | apply KeepsC.ite | apply Keeps.foldl | apply Keeps.foldl_fst
        | apply Keeps.foldl_snd | apply Keeps.ite | intro _)
    | dsimp only | (fail_if_no_progress refine Keeps.mk rfl ?_) | split)

theorem doSecFwCommit_keeps (x____Sys2Proof_Machine_Sec_2573261147__hygCtx__hyg_2 : Cmd) (s : State) (hK0 : Keeps q n b k s) :
    KeepsC q n b k (doSecFwCommit x____Sys2Proof_Machine_Sec_2573261147__hygCtx__hyg_2 s) := by
  unfold doSecFwCommit
  try dsimp only
  repeat' (first
    | (with_reducible first
        | assumption | apply needBoundary_keeps | apply cmdFail_keeps | apply KeepsC.done | apply KeepsC.deferred | apply KeepsC.later
        | apply KeepsC.ite | apply Keeps.foldl | apply Keeps.foldl_fst | apply Keeps.foldl_snd | apply Keeps.ite | intro _)
    | dsimp only)

theorem doSecIdentity_keeps (c : Cmd) (s : State) (hK0 : Keeps q n b k s) :
    KeepsC q n b k (doSecIdentity c s) := by
  unfold doSecIdentity
  try dsimp only
  repeat' (with_reducible first | assumption | apply needParam_keeps | apply writeResult_keeps | apply KeepsC.done)

theorem newAccord_keeps (fn : Nat) (peer : Sys2Proof.W64) (secret : Sys2Proof.W256) (s : State) (hK0 : Keeps q n b k s) (k_sec : k.sec = none := by assumption) :
    Keeps q n b k (newAccord fn peer secret s).2 := by
  unfold newAccord
  try dsimp only
  repeat' (with_reducible first | assumption | apply secMod_keeps)

theorem doSecKemAccept_keeps (c : Cmd) (s : State) (hK0 : Keeps q n b k s) (k_sec : k.sec = none := by assumption) :
    KeepsC q n b k (doSecKemAccept c s) := by
  unfold doSecKemAccept
  try dsimp only
  repeat' (first
    | (with_reducible first
        | assumption | apply newAccord_keeps | apply drbgDraw_keeps | apply needBoundary_keeps | apply needParam_keeps | apply cmdFail_keeps
        | apply writeResult_keeps | apply KeepsC.done | apply KeepsC.deferred | apply KeepsC.later | apply KeepsC.ite | apply Keeps.foldl
        | apply Keeps.foldl_fst | apply Keeps.foldl_snd | apply Keeps.ite | refine Keeps.snd_elim ?_ (by with_reducible assumption)
        | intro _)
    | dsimp only)

theorem doSecKemFinish_keeps (c : Cmd) (s : State) (hK0 : Keeps q n b k s) (k_sec : k.sec = none := by assumption) :
    KeepsC q n b k (doSecKemFinish c s) := by
  unfold doSecKemFinish
  try dsimp only
  repeat' (first
    | (with_reducible first
        | assumption | apply newAccord_keeps | apply secMod_keeps | apply needBoundary_keeps | apply needParam_keeps | apply cmdFail_keeps
        | apply KeepsC.done | apply KeepsC.deferred | apply KeepsC.later | apply KeepsC.ite | apply Keeps.foldl | apply Keeps.foldl_fst
        | apply Keeps.foldl_snd | apply Keeps.ite | refine Keeps.snd_elim ?_ (by with_reducible assumption) | intro _)
    | dsimp only | (fail_if_no_progress refine Keeps.mk rfl ?_) | split)

theorem endSealed_keeps (n0 : Nat) (s : State) (hK0 : Keeps q n b k s) :
    Keeps q n b k (endSealed n0 s) := by
  unfold endSealed
  try dsimp only
  repeat' (first
    | (with_reducible first
        | assumption | apply failUnsent_keeps | apply qpToError_keeps | apply completeAll_keeps | apply Keeps.foldl | apply Keeps.foldl_fst
        | apply Keeps.foldl_snd | apply Keeps.ite | intro _)
    | dsimp only)

theorem enterError_keeps (failing : Nat) (s : State) (hK0 : Keeps q n b k s) (k_sec : k.sec = none := by assumption) :
    Keeps q n b k (enterError failing s) := by
  unfold enterError
  try dsimp only
  repeat' (first
    | (with_reducible first
        | assumption | apply endSealed_keeps | apply secMod_keeps | apply raiseEvent_keeps | apply Keeps.foldl | apply Keeps.foldl_fst
        | apply Keeps.foldl_snd | apply Keeps.ite | intro _)
    | dsimp only)

theorem doSecKemOffer_keeps (c : Cmd) (s : State) (hK0 : Keeps q n b k s) (k_sec : k.sec = none := by assumption) :
    KeepsC q n b k (doSecKemOffer c s) := by
  unfold doSecKemOffer
  try dsimp only
  repeat' (first
    | (with_reducible first
        | assumption | apply enterError_keeps | apply drbgDraw_keeps | apply secMod_keeps | apply needBoundary_keeps | apply needParam_keeps
        | apply cmdFail_keeps | apply writeResult_keeps | apply KeepsC.done | apply KeepsC.deferred | apply KeepsC.later | apply KeepsC.ite
        | apply Keeps.foldl | apply Keeps.foldl_fst | apply Keeps.foldl_snd | apply Keeps.ite
        | refine Keeps.snd_elim ?_ (by with_reducible assumption) | intro _)
    | dsimp only)

theorem doSecLogin_keeps (c : Cmd) (s : State) (hK0 : Keeps q n b k s) (k_sec : k.sec = none := by assumption) :
    KeepsC q n b k (doSecLogin c s) := by
  unfold doSecLogin
  try dsimp only
  repeat' (first
    | (with_reducible first
        | assumption | apply drbgDraw_keeps | apply secMod_keeps | apply needBoundary_keeps | apply needParam_keeps | apply cmdOk_keeps
        | apply cmdFail_keeps | apply KeepsC.done | apply KeepsC.deferred | apply KeepsC.later | apply KeepsC.ite | apply Keeps.foldl
        | apply Keeps.foldl_fst | apply Keeps.foldl_snd | apply Keeps.ite | refine Keeps.snd_elim ?_ (by with_reducible assumption)
        | intro _)
    | dsimp only | (fail_if_no_progress refine Keeps.mk rfl ?_) | split)

theorem doSecOfficer_keeps (c : Cmd) (s : State) (hK0 : Keeps q n b k s) (k_sec : k.sec = none := by assumption) :
    KeepsC q n b k (doSecOfficer c s) := by
  unfold doSecOfficer
  try dsimp only
  repeat' (first
    | (with_reducible first
        | assumption | apply secMod_keeps | apply needBoundary_keeps | apply needParam_keeps | apply cmdOk_keeps | apply cmdFail_keeps
        | apply KeepsC.done | apply KeepsC.deferred | apply KeepsC.later | apply KeepsC.ite | apply Keeps.foldl | apply Keeps.foldl_fst
        | apply Keeps.foldl_snd | apply Keeps.ite | intro _)
    | dsimp only)

theorem doSecQpQuery_keeps (c : Cmd) (s : State) (hK0 : Keeps q n b k s) :
    KeepsC q n b k (doSecQpQuery c s) := by
  unfold doSecQpQuery
  try dsimp only
  repeat' (first
    | (with_reducible first
        | assumption | apply needBoundary_keeps | apply cmdFail_keeps | apply KeepsC.done | apply KeepsC.deferred | apply KeepsC.later
        | apply KeepsC.ite | apply Keeps.foldl | apply Keeps.foldl_fst | apply Keeps.foldl_snd | apply Keeps.ite | intro _)
    | dsimp only | (fail_if_no_progress refine Keeps.mk rfl ?_) | split)

theorem doSecQpRekey_keeps (c : Cmd) (s : State) (hK0 : Keeps q n b k s) :
    KeepsC q n b k (doSecQpRekey c s) := by
  unfold doSecQpRekey
  try dsimp only
  repeat' (first
    | (with_reducible first
        | assumption | apply needBoundary_keeps | apply qpMod_keeps | apply cmdOk_keeps | apply cmdFail_keeps | apply KeepsC.done
        | apply KeepsC.deferred | apply KeepsC.later | apply KeepsC.ite | apply Keeps.foldl | apply Keeps.foldl_fst | apply Keeps.foldl_snd
        | apply Keeps.ite | intro _)
    | dsimp only | (fail_if_no_progress refine Keeps.mk rfl ?_) | split)

theorem doSecQpSeal_keeps (c : Cmd) (s : State) (hK0 : Keeps q n b k s) :
    KeepsC q n b k (doSecQpSeal c s) := by
  unfold doSecQpSeal
  try dsimp only
  repeat' (first
    | (with_reducible first
        | assumption | apply needBoundary_keeps | apply qpMod_keeps | apply cmdOk_keeps | apply cmdFail_keeps | apply KeepsC.done
        | apply KeepsC.deferred | apply KeepsC.later | apply KeepsC.ite | apply Keeps.foldl | apply Keeps.foldl_fst | apply Keeps.foldl_snd
        | apply Keeps.ite | intro _)
    | dsimp only | (fail_if_no_progress refine Keeps.mk rfl ?_) | split)

theorem endFailedMessage_keeps (n0 : Nat) (q0 : Qp) (u : RxUnit) (s : State) (hK0 : Keeps q n b k s) (k_mem : k.mem = none := by assumption) :
    Keeps q n b k (endFailedMessage n0 q0 u s) := by
  unfold endFailedMessage
  try dsimp only
  repeat' (first
    | (with_reducible first
        | assumption | apply recvMod_keeps | apply qpToError_keeps | apply placeAt_keeps | apply complete_keeps | apply Keeps.foldl
        | apply Keeps.foldl_fst | apply Keeps.foldl_snd | apply Keeps.ite | intro _)
    | dsimp only | (fail_if_no_progress refine Keeps.mk rfl ?_) | split)

theorem execDrbgReseed_keeps (entropy : BitVec 384) (s : State) (hK0 : Keeps q n b k s) (k_sec : k.sec = none := by assumption) :
    KeepsO q n b k (execDrbgReseed entropy s) := by
  unfold execDrbgReseed
  try dsimp only
  repeat' (first
    | (with_reducible first
        | assumption | apply secMod_keeps | apply whileLit_keeps | apply advanceTo_keeps | apply KeepsO.next | apply KeepsO.ite
        | apply KeepsO.fault | apply KeepsO.refused | apply Keeps.foldl | apply Keeps.foldl_fst | apply Keeps.foldl_snd | apply Keeps.ite
        | refine KeepsO.elim ?_ (by with_reducible assumption) | intro _)
    | dsimp only)

theorem execHealthTestFailure_keeps (proportion : Bool) (s : State) (hK0 : Keeps q n b k s) (k_sec : k.sec = none := by assumption) :
    KeepsO q n b k (execHealthTestFailure proportion s) := by
  unfold execHealthTestFailure
  try dsimp only
  repeat' (with_reducible first | assumption | apply enterError_keeps | apply whileLit_keeps | apply KeepsO.next)

theorem execLaneKat_keeps (lane : Nat) (passed : Bool) (s : State) (hK0 : Keeps q n b k s) (k_sec : k.sec = none := by assumption) :
    KeepsO q n b k (execLaneKat lane passed s) := by
  unfold execLaneKat
  try dsimp only
  repeat' (first
    | (with_reducible first
        | assumption | apply enterError_keeps | apply secMod_keeps | apply whileLit_keeps | apply advanceTo_keeps | apply KeepsO.next
        | apply KeepsO.ite | apply KeepsO.fault | apply KeepsO.refused | apply Keeps.foldl | apply Keeps.foldl_fst | apply Keeps.foldl_snd
        | apply Keeps.ite | refine KeepsO.elim ?_ (by with_reducible assumption) | intro _)
    | dsimp only | (fail_if_no_progress refine Keeps.mk rfl ?_) | split)

theorem execMaskReseed_keeps (lane : Nat) (s : State) (hK0 : Keeps q n b k s) (k_sec : k.sec = none := by assumption) :
    KeepsO q n b k (execMaskReseed lane s) := by
  unfold execMaskReseed
  try dsimp only
  repeat' (first
    | (with_reducible first
        | assumption | apply drbgDraw_keeps | apply secMod_keeps | apply whileLit_keeps | apply KeepsO.next | apply KeepsO.ite
        | apply KeepsO.fault | apply KeepsO.refused | apply Keeps.foldl | apply Keeps.foldl_fst | apply Keeps.foldl_snd | apply Keeps.ite
        | refine KeepsO.elim ?_ (by with_reducible assumption) | refine Keeps.snd_elim ?_ (by with_reducible assumption) | intro _)
    | dsimp only)

theorem execOfferExpiry_keeps (offer : Sys2Proof.W64) (s : State) (hK0 : Keeps q n b k s) (k_sec : k.sec = none := by assumption) :
    KeepsO q n b k (execOfferExpiry offer s) := by
  unfold execOfferExpiry
  try dsimp only
  repeat' (first
    | (with_reducible first
        | assumption | apply secMod_keeps | apply whileLit_keeps | apply advanceTo_keeps | apply KeepsO.next | apply KeepsO.ite
        | apply KeepsO.fault | apply KeepsO.refused | apply Keeps.foldl | apply Keeps.foldl_fst | apply Keeps.foldl_snd | apply Keeps.ite
        | refine KeepsO.elim ?_ (by with_reducible assumption) | intro _)
    | dsimp only | (fail_if_no_progress refine Keeps.mk rfl ?_) | split)

theorem execOfficerSessionExpiry_keeps (s : State) (hK0 : Keeps q n b k s) (k_sec : k.sec = none := by assumption) :
    KeepsO q n b k (execOfficerSessionExpiry s) := by
  unfold execOfficerSessionExpiry
  try dsimp only
  repeat' (first
    | (with_reducible first
        | assumption | apply secMod_keeps | apply whileLit_keeps | apply advanceTo_keeps | apply KeepsO.next | apply KeepsO.ite
        | apply KeepsO.fault | apply KeepsO.refused | apply Keeps.foldl | apply Keeps.foldl_fst | apply Keeps.foldl_snd | apply Keeps.ite
        | refine KeepsO.elim ?_ (by with_reducible assumption) | intro _)
    | dsimp only | (fail_if_no_progress refine Keeps.mk rfl ?_) | split)

theorem execPeriodicSelftest_keeps (failing : Sys2Proof.W64) (s : State) (hK0 : Keeps q n b k s) (k_sec : k.sec = none := by assumption) :
    KeepsO q n b k (execPeriodicSelftest failing s) := by
  unfold execPeriodicSelftest
  try dsimp only
  repeat' (first
    | (with_reducible first
        | assumption | apply enterError_keeps | apply whileLit_keeps | apply advanceTo_keeps | apply KeepsO.next | apply KeepsO.ite
        | apply KeepsO.fault | apply KeepsO.refused | apply Keeps.foldl | apply Keeps.foldl_fst | apply Keeps.foldl_snd | apply Keeps.ite
        | refine KeepsO.elim ?_ (by with_reducible assumption) | intro _)
    | dsimp only | (fail_if_no_progress refine Keeps.mk rfl ?_))

theorem execSecAccordDrop_keeps (c : Cmd) (s : State) (hK0 : Keeps q n b k s) (k_sec : k.sec = none := by assumption) :
    KeepsO q n b k (execSecAccordDrop c s) := by
  unfold execSecAccordDrop
  try dsimp only
  repeat' (first
    | (with_reducible first
        | assumption | apply doSecAccordDrop_keeps | apply runCmd_keeps | apply KeepsO.next | apply KeepsO.ite | apply KeepsO.fault
        | apply KeepsO.refused | apply Keeps.foldl | apply Keeps.foldl_fst | apply Keeps.foldl_snd | apply Keeps.ite | intro _)
    | dsimp only)

theorem execSecAttest_keeps (c : Cmd) (s : State) (hK0 : Keeps q n b k s) (k_sec : k.sec = none := by assumption) :
    KeepsO q n b k (execSecAttest c s) := by
  unfold execSecAttest
  try dsimp only
  repeat' (first
    | (with_reducible first
        | assumption | apply doSecAttest_keeps | apply runCmd_keeps | apply KeepsO.next | apply KeepsO.ite | apply KeepsO.fault
        | apply KeepsO.refused | apply Keeps.foldl | apply Keeps.foldl_fst | apply Keeps.foldl_snd | apply Keeps.ite | intro _)
    | dsimp only)

theorem execSecFwBegin_keeps (c : Cmd) (s : State) (hK0 : Keeps q n b k s) (k_sec : k.sec = none := by assumption) :
    KeepsO q n b k (execSecFwBegin c s) := by
  unfold execSecFwBegin
  try dsimp only
  repeat' (first
    | (with_reducible first
        | assumption | apply doSecFwBegin_keeps | apply runCmd_keeps | apply KeepsO.next | apply KeepsO.ite | apply KeepsO.fault
        | apply KeepsO.refused | apply Keeps.foldl | apply Keeps.foldl_fst | apply Keeps.foldl_snd | apply Keeps.ite | intro _)
    | dsimp only)

theorem execSecFwChunk_keeps (c : Cmd) (s : State) (hK0 : Keeps q n b k s) (k_sec : k.sec = none := by assumption) :
    KeepsO q n b k (execSecFwChunk c s) := by
  unfold execSecFwChunk
  try dsimp only
  repeat' (first
    | (with_reducible first
        | assumption | apply doSecFwChunk_keeps | apply runCmd_keeps | apply KeepsO.next | apply KeepsO.ite | apply KeepsO.fault
        | apply KeepsO.refused | apply Keeps.foldl | apply Keeps.foldl_fst | apply Keeps.foldl_snd | apply Keeps.ite | intro _)
    | dsimp only)

theorem execSecFwCommit_keeps (c : Cmd) (s : State) (hK0 : Keeps q n b k s) :
    KeepsO q n b k (execSecFwCommit c s) := by
  unfold execSecFwCommit
  try dsimp only
  repeat' (with_reducible first | assumption | apply doSecFwCommit_keeps | apply runCmd_keeps | apply KeepsO.next)

theorem execSecFwCommitDone_keeps (s : State) (hK0 : Keeps q n b k s) (k_sec : k.sec = none := by assumption) :
    KeepsO q n b k (execSecFwCommitDone s) := by
  unfold execSecFwCommitDone
  try dsimp only
  repeat' (first
    | (with_reducible first
        | assumption | apply secMod_keeps | apply finishCmds_keeps | apply KeepsO.next | apply KeepsO.ite | apply KeepsO.fault
        | apply KeepsO.refused | apply Keeps.foldl | apply Keeps.foldl_fst | apply Keeps.foldl_snd | apply Keeps.ite | intro _)
    | dsimp only | (fail_if_no_progress refine Keeps.mk rfl ?_) | split)

theorem execSecIdentity_keeps (c : Cmd) (s : State) (hK0 : Keeps q n b k s) :
    KeepsO q n b k (execSecIdentity c s) := by
  unfold execSecIdentity
  try dsimp only
  repeat' (with_reducible first | assumption | apply doSecIdentity_keeps | apply runCmd_keeps | apply KeepsO.next)

theorem execSecKemAccept_keeps (c : Cmd) (s : State) (hK0 : Keeps q n b k s) (k_sec : k.sec = none := by assumption) :
    KeepsO q n b k (execSecKemAccept c s) := by
  unfold execSecKemAccept
  try dsimp only
  repeat' (first
    | (with_reducible first
        | assumption | apply doSecKemAccept_keeps | apply runCmd_keeps | apply KeepsO.next | apply KeepsO.ite | apply KeepsO.fault
        | apply KeepsO.refused | apply Keeps.foldl | apply Keeps.foldl_fst | apply Keeps.foldl_snd | apply Keeps.ite | intro _)
    | dsimp only)

theorem execSecKemFinish_keeps (c : Cmd) (s : State) (hK0 : Keeps q n b k s) (k_sec : k.sec = none := by assumption) :
    KeepsO q n b k (execSecKemFinish c s) := by
  unfold execSecKemFinish
  try dsimp only
  repeat' (first
    | (with_reducible first
        | assumption | apply doSecKemFinish_keeps | apply runCmd_keeps | apply KeepsO.next | apply KeepsO.ite | apply KeepsO.fault
        | apply KeepsO.refused | apply Keeps.foldl | apply Keeps.foldl_fst | apply Keeps.foldl_snd | apply Keeps.ite | intro _)
    | dsimp only)

theorem execSecKemOffer_keeps (c : Cmd) (s : State) (hK0 : Keeps q n b k s) (k_sec : k.sec = none := by assumption) :
    KeepsO q n b k (execSecKemOffer c s) := by
  unfold execSecKemOffer
  try dsimp only
  repeat' (first
    | (with_reducible first
        | assumption | apply doSecKemOffer_keeps | apply runCmd_keeps | apply KeepsO.next | apply KeepsO.ite | apply KeepsO.fault
        | apply KeepsO.refused | apply Keeps.foldl | apply Keeps.foldl_fst | apply Keeps.foldl_snd | apply Keeps.ite | intro _)
    | dsimp only)

theorem execSecLogin_keeps (c : Cmd) (s : State) (hK0 : Keeps q n b k s) (k_sec : k.sec = none := by assumption) :
    KeepsO q n b k (execSecLogin c s) := by
  unfold execSecLogin
  try dsimp only
  repeat' (first
    | (with_reducible first
        | assumption | apply doSecLogin_keeps | apply runCmd_keeps | apply KeepsO.next | apply KeepsO.ite | apply KeepsO.fault
        | apply KeepsO.refused | apply Keeps.foldl | apply Keeps.foldl_fst | apply Keeps.foldl_snd | apply Keeps.ite | intro _)
    | dsimp only)

theorem execSecOfficer_keeps (c : Cmd) (s : State) (hK0 : Keeps q n b k s) (k_sec : k.sec = none := by assumption) :
    KeepsO q n b k (execSecOfficer c s) := by
  unfold execSecOfficer
  try dsimp only
  repeat' (first
    | (with_reducible first
        | assumption | apply doSecOfficer_keeps | apply runCmd_keeps | apply KeepsO.next | apply KeepsO.ite | apply KeepsO.fault
        | apply KeepsO.refused | apply Keeps.foldl | apply Keeps.foldl_fst | apply Keeps.foldl_snd | apply Keeps.ite | intro _)
    | dsimp only)

theorem execSecQpQuery_keeps (c : Cmd) (s : State) (hK0 : Keeps q n b k s) :
    KeepsO q n b k (execSecQpQuery c s) := by
  unfold execSecQpQuery
  try dsimp only
  repeat' (with_reducible first | assumption | apply doSecQpQuery_keeps | apply runCmd_keeps | apply KeepsO.next)

theorem execSecQpRekey_keeps (c : Cmd) (s : State) (hK0 : Keeps q n b k s) :
    KeepsO q n b k (execSecQpRekey c s) := by
  unfold execSecQpRekey
  try dsimp only
  repeat' (with_reducible first | assumption | apply doSecQpRekey_keeps | apply runCmd_keeps | apply KeepsO.next)

theorem execSecQpSeal_keeps (c : Cmd) (s : State) (hK0 : Keeps q n b k s) :
    KeepsO q n b k (execSecQpSeal c s) := by
  unfold execSecQpSeal
  try dsimp only
  repeat' (with_reducible first | assumption | apply doSecQpSeal_keeps | apply runCmd_keeps | apply KeepsO.next)

theorem execSecSelftest_keeps (c : Cmd) (s : State) (hK0 : Keeps q n b k s) :
    KeepsO q n b k (execSecSelftest c s) := by
  unfold execSecSelftest
  try dsimp only
  repeat' (first
    | (with_reducible first
        | assumption | apply runCmd_keeps | apply KeepsO.next | apply KeepsO.ite | apply KeepsO.fault | apply KeepsO.refused
        | apply Keeps.foldl | apply Keeps.foldl_fst | apply Keeps.foldl_snd | apply Keeps.ite | intro _)
    | dsimp only | (fail_if_no_progress refine Keeps.mk rfl ?_))

theorem execSecSelftestDone_keeps (failing : Sys2Proof.W64) (s : State) (hK0 : Keeps q n b k s) (k_sec : k.sec = none := by assumption) :
    KeepsO q n b k (execSecSelftestDone failing s) := by
  unfold execSecSelftestDone
  try dsimp only
  repeat' (first
    | (with_reducible first
        | assumption | apply enterError_keeps | apply secMod_keeps | apply whileLit_keeps | apply finishCmds_keeps | apply KeepsO.next
        | apply KeepsO.ite | apply KeepsO.fault | apply KeepsO.refused | apply Keeps.foldl | apply Keeps.foldl_fst | apply Keeps.foldl_snd
        | apply Keeps.ite | refine KeepsO.elim ?_ (by with_reducible assumption) | intro _)
    | dsimp only)

theorem execSecZeroize_keeps (c : Cmd) (s : State) (hK0 : Keeps q n b k s) :
    KeepsO q n b k (execSecZeroize c s) := by
  unfold execSecZeroize
  try dsimp only
  repeat' (first
    | (with_reducible first
        | assumption | apply runCmd_keeps | apply KeepsO.next | apply KeepsO.ite | apply KeepsO.fault | apply KeepsO.refused
        | apply Keeps.foldl | apply Keeps.foldl_fst | apply Keeps.foldl_snd | apply Keeps.ite | intro _)
    | dsimp only | (fail_if_no_progress refine Keeps.mk rfl ?_))

theorem unsealQp_keeps (s : State) (n0 : Nat) (hK0 : Keeps q n b k s) :
    Keeps q n b k (unsealQp s n0) := by
  unfold unsealQp
  try dsimp only
  repeat' (first
    | (with_reducible first
        | assumption | apply qpToError_keeps | apply qpMod_keeps | apply Keeps.foldl | apply Keeps.foldl_fst | apply Keeps.foldl_snd
        | apply Keeps.ite | intro _)
    | dsimp only | (fail_if_no_progress refine Keeps.mk rfl ?_) | split)

theorem execSecZeroizeDone_keeps (s : State) (hK0 : Keeps q n b k s) (k_sec : k.sec = none := by assumption) :
    KeepsO q n b k (execSecZeroizeDone s) := by
  unfold execSecZeroizeDone
  try dsimp only
  repeat' (first
    | (with_reducible first
        | assumption | apply unsealQp_keeps | apply secMod_keeps | apply whileLit_keeps | apply finishCmds_keeps | apply KeepsO.next
        | apply KeepsO.ite | apply KeepsO.fault | apply KeepsO.refused | apply Keeps.foldl | apply Keeps.foldl_fst | apply Keeps.foldl_snd
        | apply Keeps.ite | refine KeepsO.elim ?_ (by with_reducible assumption) | intro _)
    | dsimp only)

theorem execUnitZerosCommitted_keeps (qp : Nat) (own : Bool) (msg : Sys2Proof.W32) (unit : Nat) (s : State) (hK0 : Keeps q n b k s) (k_mem : k.mem = none := by assumption) (k_sched : k.sched = none := by assumption) :
    KeepsO q n b k (execUnitZerosCommitted qp own msg unit s) := by
  unfold execUnitZerosCommitted
  try dsimp only
  repeat' (first
    | (with_reducible first
        | assumption | apply endFailedMessage_keeps | apply landUnit_keeps | apply judgeUnit_keeps | apply unitMod_keeps | apply qpMod_keeps
        | apply placeAt_keeps | apply whileLit_keeps | apply postRecord_keeps | apply KeepsO.next | apply KeepsO.ite | apply KeepsO.fault
        | apply KeepsO.refused | apply Keeps.foldl | apply Keeps.foldl_fst | apply Keeps.foldl_snd | apply Keeps.ite
        | refine KeepsO.elim ?_ (by with_reducible assumption) | intro _)
    | dsimp only | (fail_if_no_progress refine Keeps.mk rfl ?_) | split)

end Sys2Proof.Machine
end

