-- ==== Sys2Proof/Laws/KeepsPower.lean ====
section
/-! SUPPORT. What each function of Machine/Power.lean, Machine/Startup.lean, Machine/Jtag.lean keeps: the parts of State that stand in `Kept`, the queue, and the invariant. -/

set_option linter.unusedTactic false
set_option linter.unreachableTactic false
set_option linter.unusedVariables false
namespace Sys2Proof.Machine
set_option Elab.async false
variable {q : List Instr} {n : Nat} {b : Bool} {k : Kept}

theorem powerMod_keeps (f : Power → Power) (s : State) (h1 : (f s.power).validUntil = s.power.validUntil)
    (h2 : (f s.power).grantW = s.power.grantW) (h3 : (f s.power).fallback = s.power.fallback)
    (h4 : (f s.power).thermal = s.power.thermal) (h : Keeps q n b k s) (k_power : k.power = none := by assumption) : Keeps q n b k (powerMod f s) :=
  Keeps.mk rfl h rfl rfl rfl rfl rfl rfl rfl rfl h1 h2 h3 h4

/-- A change of a budget that leaves it within its bounds. -/
theorem powerMod_bounded_keeps (f : Power → Power) (s : State) (hp : powerBounded s.power → powerBounded (f s.power)) (h : Keeps q n b k s) (k_power : k.power = none := by assumption) :
    Keeps q n b k (powerMod f s) :=
  h.of_parts (powerMod f s) rfl rfl rfl (fun hi => ⟨hi.1, hi.2.1, hi.2.2.1, hp hi.2.2.2⟩) fun hk => by
    simp only [KeptIn, powerMod] at hk ⊢
    simp only [hk, isHeld_none k_power, and_self]

theorem ceilMod_keeps (f : Ceilings → Ceilings) (s : State) (hK0 : Keeps q n b k s) (k_ceilings : k.ceilings = none := by assumption) :
    Keeps q n b k (ceilMod f s) := by
  unfold ceilMod
  try dsimp only
  repeat' (first
    | (with_reducible first | assumption | apply Keeps.foldl | apply Keeps.foldl_fst | apply Keeps.foldl_snd | apply Keeps.ite | intro _)
    | dsimp only | (fail_if_no_progress refine Keeps.mk rfl ?_))

theorem agePart_keeps (s : State) (r : Sys2Proof.MarginReport) (hK0 : Keeps q n b k s) (k_cache : k.cache = none := by assumption) (k_ramp : k.ramp = none := by assumption) (k_power : k.power = none := by assumption) (k_ceilings : k.ceilings = none := by assumption) :
    Keeps q n b k (agePart s r) := by
  unfold agePart
  try dsimp only
  repeat' (first
    | (with_reducible first
        | assumption | apply ceilMod_keeps | apply powerMod_keeps | apply retireShoal_keeps | apply retireCore_keeps | apply Keeps.foldl
        | apply Keeps.foldl_fst | apply Keeps.foldl_snd | apply Keeps.ite | intro _)
    | dsimp only | (fail_if_no_progress refine Keeps.mk rfl ?_) | split)

theorem helmMod_keeps (f : Helm → Helm) (s : State) (h1 : (f s.helm).allow = s.helm.allow) (h2 : (f s.helm).waiting = s.helm.waiting)
    (h : Keeps q n b k s) : Keeps q n b k (helmMod f s) :=
  Keeps.mk rfl h rfl rfl rfl rfl rfl rfl h1 h2

theorem helmMod_bounded_keeps (f : Helm → Helm) (s : State) (hp : helmBounded s.helm → helmBounded (f s.helm)) (h : Keeps q n b k s) :
    Keeps q n b k (helmMod f s) :=
  h.of_parts (helmMod f s) rfl rfl rfl (fun hi => ⟨hi.1, hi.2.1, hp hi.2.2.1, hi.2.2.2⟩) fun hk => hk

theorem uncountHelm_keeps (dst : Sys2Proof.W48) (n0 : Nat) (s : State) (hK0 : Keeps q n b k s) :
    Keeps q n b k (uncountHelm dst n0 s) := by
  unfold uncountHelm
  try dsimp only
  repeat' (first
    | (with_reducible first
        | assumption | apply helmMod_keeps | apply Keeps.foldl | apply Keeps.foldl_fst | apply Keeps.foldl_snd | apply Keeps.ite)
    | dsimp only)

theorem discardHelm_keeps (counter : Nat) (s : State) (hK0 : Keeps q n b k s) :
    Keeps q n b k (discardHelm counter s) := by
  unfold discardHelm
  try dsimp only
  repeat' (first
    | (with_reducible first
        | assumption | apply uncountHelm_keeps | apply helmMod_keeps | apply countHelm_keeps | apply Keeps.foldl | apply Keeps.foldl_fst
        | apply Keeps.foldl_snd | apply Keeps.ite | intro _)
    | dsimp only | (fail_if_no_progress refine Keeps.mk rfl ?_) | split)

theorem droopMod_keeps (f : Droop → Droop) (s : State) (hK0 : Keeps q n b k s) (k_droop : k.droop = none := by assumption) :
    Keeps q n b k (droopMod f s) := by
  unfold droopMod
  try dsimp only
  repeat' (first
    | (with_reducible first | assumption | apply Keeps.foldl | apply Keeps.foldl_fst | apply Keeps.foldl_snd | apply Keeps.ite | intro _)
    | dsimp only | (fail_if_no_progress refine Keeps.mk rfl ?_))

theorem dropHold_keeps (s : State) (hK0 : Keeps q n b k s) (k_cache : k.cache = none := by assumption) (k_ramp : k.ramp = none := by assumption) (k_droop : k.droop = none := by assumption) :
    Keeps q n b k (dropHold s) := by
  unfold dropHold
  try dsimp only
  repeat' (first
    | (with_reducible first
        | assumption | apply droopMod_keeps | apply endHold_keeps | apply raiseEvent_keeps | apply Keeps.foldl | apply Keeps.foldl_fst
        | apply Keeps.foldl_snd | apply Keeps.ite | intro _)
    | dsimp only | (fail_if_no_progress refine Keeps.mk rfl ?_))

theorem divide_keeps (w : Sys2Proof.WindowMeas) (s0 : State) (hK0 : Keeps q n b k s0) (k_cache : k.cache = none := by assumption) (k_ramp : k.ramp = none := by assumption) (k_power : k.power = none := by assumption) (k_droop : k.droop = none := by assumption) :
    Keeps q n b k (divide w s0) := by
  unfold divide
  try dsimp only
  repeat' (first
    | (with_reducible first
        | assumption | apply dropHold_keeps | apply powerMod_keeps | apply raiseEvent_keeps | apply Keeps.foldl | apply Keeps.foldl_fst
        | apply Keeps.foldl_snd | apply Keeps.ite | intro _)
    | dsimp only | (fail_if_no_progress refine Keeps.mk rfl ?_))

theorem doHelmQuery_keeps (x____Sys2Proof_Machine_Power_384055915__hygCtx__hyg_2 : Cmd) (s : State) (hK0 : Keeps q n b k s) :
    KeepsC q n b k (doHelmQuery x____Sys2Proof_Machine_Power_384055915__hygCtx__hyg_2 s) := by
  unfold doHelmQuery
  try dsimp only
  repeat' (with_reducible first | assumption | apply takeFresh_keeps | apply KeepsC.done)

theorem doHelmSet_keeps (c : Cmd) (s : State) (h : Keeps q n b k s) : KeepsC q n b k (doHelmSet c s) := by
  unfold doHelmSet needParam
  refine KeepsC.ite (fun hw => ?_) fun _ => cmdFail_keeps _ _ h
  refine cmdOk_keeps _ (helmMod_bounded_keeps _ _ (fun hh => ⟨?_, hh.2⟩) h)
  rw [decide_eq_true_eq] at hw
  simpa [macList] using hw

theorem doPwrFallback_keeps (c : Cmd) (s : State) (h : Keeps q n b k s) (k_power : k.power = none := by assumption) : KeepsC q n b k (doPwrFallback c s) := by
  unfold doPwrFallback needParam
  refine KeepsC.ite (fun hw => ?_) fun _ => cmdFail_keeps _ _ h
  rw [decide_eq_true_eq] at hw
  exact KeepsC.done (powerMod_bounded_keeps _ _ (fun hp => ⟨hp.1, hw, hp.2.2⟩) h)

theorem endExpiry_keeps (s : State) (hK0 : Keeps q n b k s) :
    Keeps q n b k (endExpiry s) := by
  unfold endExpiry
  try dsimp only
  repeat' (first
    | (with_reducible first
        | assumption | apply setAlert_keeps | apply closeEvent_keeps | apply Keeps.foldl | apply Keeps.foldl_fst | apply Keeps.foldl_snd
        | apply Keeps.ite | intro _)
    | dsimp only)

theorem doPwrGrant_keeps (c : Cmd) (s : State) (h : Keeps q n b k s) (k_power : k.power = none := by assumption) : KeepsC q n b k (doPwrGrant c s) := by
  unfold doPwrGrant needParam
  refine KeepsC.ite (fun hw => ?_) fun _ => cmdFail_keeps _ _ h
  rw [Bool.and_eq_true, decide_eq_true_eq] at hw
  exact KeepsC.done (endExpiry_keeps _ (powerMod_bounded_keeps _ _ (fun hp => ⟨fun _ => ⟨hw.1.1, hw.1.2.1⟩, hp.2⟩) h))

theorem doPwrLearn_keeps (c : Cmd) (s : State) (hK0 : Keeps q n b k s) (k_ceilings : k.ceilings = none := by assumption) :
    KeepsC q n b k (doPwrLearn c s) := by
  unfold doPwrLearn
  try dsimp only
  repeat' (with_reducible first | assumption | apply ceilMod_keeps | apply needParam_keeps | apply cmdOk_keeps)

theorem doPwrQuery_keeps (c : Cmd) (s : State) (hK0 : Keeps q n b k s) (k_power : k.power = none := by assumption) :
    KeepsC q n b k (doPwrQuery c s) := by
  unfold doPwrQuery
  try dsimp only
  repeat' (first
    | (with_reducible first
        | assumption | apply powerMod_keeps | apply needParam_keeps | apply writeResult_keeps | apply KeepsC.done | apply KeepsC.deferred
        | apply KeepsC.later | apply KeepsC.ite | apply Keeps.foldl | apply Keeps.foldl_fst | apply Keeps.foldl_snd | apply Keeps.ite)
    | dsimp only)

theorem tickMod_keeps (f : Ticks → Ticks) (s : State) (hK0 : Keeps q n b k s) :
    Keeps q n b k (tickMod f s) := by
  unfold tickMod
  try dsimp only
  repeat' (first
    | (with_reducible first | assumption | apply Keeps.foldl | apply Keeps.foldl_fst | apply Keeps.foldl_snd | apply Keeps.ite | intro _)
    | dsimp only | (fail_if_no_progress refine Keeps.mk rfl ?_))

theorem execAgeingMonitor_keeps (report : List Sys2Proof.MarginReport) (s : State) (hK0 : Keeps q n b k s) (k_cache : k.cache = none := by assumption) (k_ramp : k.ramp = none := by assumption) (k_power : k.power = none := by assumption) (k_ceilings : k.ceilings = none := by assumption) :
    KeepsO q n b k (execAgeingMonitor report s) := by
  unfold execAgeingMonitor
  try dsimp only
  repeat' (first
    | (with_reducible first
        | assumption | apply tickMod_keeps | apply agePart_keeps | apply whileLit_keeps | apply advanceTo_keeps | apply KeepsO.next
        | apply KeepsO.ite | apply KeepsO.fault | apply KeepsO.refused | apply Keeps.foldl | apply Keeps.foldl_fst | apply Keeps.foldl_snd
        | apply Keeps.ite | refine KeepsO.elim ?_ (by with_reducible assumption) | intro _)
    | dsimp only)

theorem sendVid_keeps (s : State) (hK0 : Keeps q n b k s) (k_power : k.power = none := by assumption) :
    Keeps q n b k (sendVid s) := by
  unfold sendVid
  try dsimp only
  repeat' (first
    | (with_reducible first
        | assumption | apply powerMod_keeps | apply emit_keeps | apply Keeps.foldl | apply Keeps.foldl_fst | apply Keeps.foldl_snd
        | apply Keeps.ite)
    | dsimp only)

theorem execDeferredFreqChange_keeps (s : State) (hK0 : Keeps q n b k s) (k_power : k.power = none := by assumption) (k_droop : k.droop = none := by assumption) :
    KeepsO q n b k (execDeferredFreqChange s) := by
  unfold execDeferredFreqChange
  try dsimp only
  repeat' (first
    | (with_reducible first
        | assumption | apply sendVid_keeps | apply droopMod_keeps | apply powerMod_keeps | apply whileLit_keeps | apply advanceTo_keeps
        | apply KeepsO.next | apply KeepsO.ite | apply KeepsO.fault | apply KeepsO.refused | apply Keeps.foldl | apply Keeps.foldl_fst
        | apply Keeps.foldl_snd | apply Keeps.ite | refine KeepsO.elim ?_ (by with_reducible assumption) | intro _)
    | dsimp only | (fail_if_no_progress refine Keeps.mk rfl ?_) | split)

theorem execDroopDetect_keeps (supply : Sys2Proof.Supply) (site : Nat) (mv : Nat) (s : State) (hK0 : Keeps q n b k s) (k_droop : k.droop = none := by assumption) :
    KeepsO q n b k (execDroopDetect supply site mv s) := by
  unfold execDroopDetect
  try dsimp only
  repeat' (first
    | (with_reducible first
        | assumption | apply droopMod_keeps | apply whileLit_keeps | apply KeepsO.next | apply KeepsO.ite | apply KeepsO.fault
        | apply KeepsO.refused | apply Keeps.foldl | apply Keeps.foldl_fst | apply Keeps.foldl_snd | apply Keeps.ite
        | refine KeepsO.elim ?_ (by with_reducible assumption) | intro _)
    | dsimp only | (fail_if_no_progress refine Keeps.mk rfl ?_) | split)

theorem execDroopLong_keeps (supply : Sys2Proof.Supply) (s : State) (hK0 : Keeps q n b k s) (k_droop : k.droop = none := by assumption) :
    KeepsO q n b k (execDroopLong supply s) := by
  unfold execDroopLong
  try dsimp only
  repeat' (first
    | (with_reducible first
        | assumption | apply droopMod_keeps | apply whileLit_keeps | apply raiseEvent_keeps | apply advanceTo_keeps | apply KeepsO.next
        | apply KeepsO.ite | apply KeepsO.fault | apply KeepsO.refused | apply Keeps.foldl | apply Keeps.foldl_fst | apply Keeps.foldl_snd
        | apply Keeps.ite | refine KeepsO.elim ?_ (by with_reducible assumption) | intro _)
    | dsimp only | (fail_if_no_progress refine Keeps.mk rfl ?_) | split)

theorem execDroopRecovery_keeps (supply : Sys2Proof.Supply) (s : State) (hK0 : Keeps q n b k s) (k_droop : k.droop = none := by assumption) :
    KeepsO q n b k (execDroopRecovery supply s) := by
  unfold execDroopRecovery
  try dsimp only
  repeat' (first
    | (with_reducible first
        | assumption | apply droopMod_keeps | apply whileLit_keeps | apply KeepsO.next | apply KeepsO.ite | apply KeepsO.fault
        | apply KeepsO.refused | apply Keeps.foldl | apply Keeps.foldl_fst | apply Keeps.foldl_snd | apply Keeps.ite
        | refine KeepsO.elim ?_ (by with_reducible assumption) | intro _)
    | dsimp only | (fail_if_no_progress refine Keeps.mk rfl ?_) | split)

theorem stepSetpoint_keeps (s : State) (hK0 : Keeps q n b k s) (k_power : k.power = none := by assumption) (k_droop : k.droop = none := by assumption) :
    Keeps q n b k (stepSetpoint s) := by
  unfold stepSetpoint
  try dsimp only
  repeat' (first
    | (with_reducible first
        | assumption | apply sendVid_keeps | apply droopMod_keeps | apply powerMod_keeps | apply Keeps.foldl | apply Keeps.foldl_fst
        | apply Keeps.foldl_snd | apply Keeps.ite | intro _)
    | dsimp only)

theorem execEnforcementTick_keeps (m : Sys2Proof.PowerMeas) (s : State) (hK0 : Keeps q n b k s) (k_power : k.power = none := by assumption) (k_droop : k.droop = none := by assumption) :
    KeepsO q n b k (execEnforcementTick m s) := by
  unfold execEnforcementTick
  try dsimp only
  repeat' (first
    | (with_reducible first
        | assumption | apply stepSetpoint_keeps | apply tickMod_keeps | apply powerMod_keeps | apply whileLit_keeps | apply advanceTo_keeps
        | apply KeepsO.next | apply KeepsO.ite | apply KeepsO.fault | apply KeepsO.refused | apply Keeps.foldl | apply Keeps.foldl_fst
        | apply Keeps.foldl_snd | apply Keeps.ite | refine KeepsO.elim ?_ (by with_reducible assumption))
    | dsimp only)

theorem execGrantExpiry_keeps (s : State) (h : Keeps q n b k s) (k_power : k.power = none := by assumption) : KeepsO q n b k (execGrantExpiry s) := by
  unfold execGrantExpiry whileLit
  refine KeepsO.ite (fun _ => ?_) fun _ => KeepsO.next h
  split
  · exact KeepsO.next h
  · refine KeepsO.next (setAlert_keeps _ _ _ (raiseEvent_keeps _ _ _ _ _ _ (powerMod_bounded_keeps _ _ (fun hp => ?_) (advanceTo_keeps _ _ h))))
    exact ⟨fun e => absurd rfl e, hp.2⟩

theorem execHelmBackoffExpiry_keeps (collided : Bool) (late : Bool) (s : State) (hK0 : Keeps q n b k s) :
    KeepsO q n b k (execHelmBackoffExpiry collided late s) := by
  unfold execHelmBackoffExpiry
  try dsimp only
  repeat' (first
    | (with_reducible first
        | assumption | apply discardHelm_keeps | apply helmMod_keeps | apply takeFresh_keeps | apply countHelm_keeps | apply advanceTo_keeps
        | apply KeepsO.next | apply KeepsO.ite | apply KeepsO.fault | apply KeepsO.refused | apply Keeps.foldl | apply Keeps.foldl_fst
        | apply Keeps.foldl_snd | apply Keeps.ite | intro _)
    | dsimp only)

theorem execHelmQuery_keeps (c : Cmd) (s : State) (hK0 : Keeps q n b k s) :
    KeepsO q n b k (execHelmQuery c s) := by
  unfold execHelmQuery
  try dsimp only
  repeat' (with_reducible first | assumption | apply doHelmQuery_keeps | apply runCmd_keeps | apply KeepsO.next)

theorem execHelmSet_keeps (c : Cmd) (s : State) (hK0 : Keeps q n b k s) :
    KeepsO q n b k (execHelmSet c s) := by
  unfold execHelmSet
  try dsimp only
  repeat' (with_reducible first | assumption | apply doHelmSet_keeps | apply runCmd_keeps | apply KeepsO.next)

theorem wakeForProfile_keeps (new : Profile) (s : State) (hK0 : Keeps q n b k s) (k_pcie : k.pcie = none := by assumption) :
    Keeps q n b k (wakeForProfile new s) := by
  unfold wakeForProfile
  try dsimp only
  repeat' (first
    | (with_reducible first
        | assumption | apply leaveTxLpi_keeps | apply settleClock_keeps | apply portMod_keeps | apply touchChannels_keeps
        | apply Keeps.foldl | apply Keeps.foldl_fst | apply Keeps.foldl_snd | apply Keeps.ite | intro _)
    | dsimp only | (fail_if_no_progress refine Keeps.mk rfl ?_))

theorem execProfileTakesEffect_keeps (s : State) (hK0 : Keeps q n b k s) (k_pcie : k.pcie = none := by assumption) :
    KeepsO q n b k (execProfileTakesEffect s) := by
  unfold execProfileTakesEffect
  try dsimp only
  repeat' (first
    | (with_reducible first
        | assumption | apply wakeForProfile_keeps | apply whileLit_keeps | apply answer_keeps | apply advanceTo_keeps | apply KeepsO.next
        | apply KeepsO.ite | apply KeepsO.fault | apply KeepsO.refused | apply Keeps.foldl | apply Keeps.foldl_fst | apply Keeps.foldl_snd
        | apply Keeps.ite | refine KeepsO.elim ?_ (by with_reducible assumption) | intro _)
    | dsimp only | (fail_if_no_progress refine Keeps.mk rfl ?_) | split)

theorem execPwrFallback_keeps (c : Cmd) (s : State) (hK0 : Keeps q n b k s) (k_power : k.power = none := by assumption) :
    KeepsO q n b k (execPwrFallback c s) := by
  unfold execPwrFallback
  try dsimp only
  repeat' (first
    | (with_reducible first
        | assumption | apply doPwrFallback_keeps | apply runCmd_keeps | apply KeepsO.next | apply KeepsO.ite | apply KeepsO.fault
        | apply KeepsO.refused | apply Keeps.foldl | apply Keeps.foldl_fst | apply Keeps.foldl_snd | apply Keeps.ite | intro _)
    | dsimp only)

theorem execPwrGrant_keeps (c : Cmd) (s : State) (hK0 : Keeps q n b k s) (k_power : k.power = none := by assumption) :
    KeepsO q n b k (execPwrGrant c s) := by
  unfold execPwrGrant
  try dsimp only
  repeat' (first
    | (with_reducible first
        | assumption | apply doPwrGrant_keeps | apply runCmd_keeps | apply KeepsO.next | apply KeepsO.ite | apply KeepsO.fault
        | apply KeepsO.refused | apply Keeps.foldl | apply Keeps.foldl_fst | apply Keeps.foldl_snd | apply Keeps.ite | intro _)
    | dsimp only)

theorem execPwrLearn_keeps (c : Cmd) (s : State) (hK0 : Keeps q n b k s) (k_ceilings : k.ceilings = none := by assumption) :
    KeepsO q n b k (execPwrLearn c s) := by
  unfold execPwrLearn
  try dsimp only
  repeat' (first
    | (with_reducible first
        | assumption | apply doPwrLearn_keeps | apply runCmd_keeps | apply KeepsO.next | apply KeepsO.ite | apply KeepsO.fault
        | apply KeepsO.refused | apply Keeps.foldl | apply Keeps.foldl_fst | apply Keeps.foldl_snd | apply Keeps.ite | intro _)
    | dsimp only)

theorem execPwrQuery_keeps (c : Cmd) (s : State) (hK0 : Keeps q n b k s) (k_power : k.power = none := by assumption) :
    KeepsO q n b k (execPwrQuery c s) := by
  unfold execPwrQuery
  try dsimp only
  repeat' (first
    | (with_reducible first
        | assumption | apply doPwrQuery_keeps | apply runCmd_keeps | apply KeepsO.next | apply KeepsO.ite | apply KeepsO.fault
        | apply KeepsO.refused | apply Keeps.foldl | apply Keeps.foldl_fst | apply Keeps.foldl_snd | apply Keeps.ite | intro _)
    | dsimp only)

theorem thermalMod_keeps (f : Thermal → Thermal) (s : State) (hK0 : Keeps q n b k s) (k_thermal : k.thermal = none := by assumption) :
    Keeps q n b k (thermalMod f s) := by
  unfold thermalMod
  try dsimp only
  repeat' (first
    | (with_reducible first | assumption | apply Keeps.foldl | apply Keeps.foldl_fst | apply Keeps.foldl_snd | apply Keeps.ite | intro _)
    | dsimp only | (fail_if_no_progress refine Keeps.mk rfl ?_))

theorem judgeHeat_keeps (s : State) (h : Keeps q n b k s) (k_droop : k.droop = none := by assumption) (k_power : k.power = none := by assumption) (k_thermal : k.thermal = none := by assumption) : Keeps q n b k (judgeHeat s) := by
  have h0 : Keeps q n b k (if 300 < s.power.thermal then droopMod (fun d => { d with throttles := d.throttles + 1 }) s else s) :=
    Keeps.ite (fun _ => droopMod_keeps _ _ h) fun _ => h
  have hc : Keeps q n b k (setAlert 1 true (powerMod (fun p => { p with thermal := 300 })
      (if 300 < s.power.thermal then droopMod (fun d => { d with throttles := d.throttles + 1 }) s else s))) :=
    setAlert_keeps _ _ _ (powerMod_bounded_keeps _ _ (fun hp => ⟨hp.1, hp.2.1, le_refl 300, Nat.le_of_ble_eq_true rfl⟩) h0)
  have h1 : Keeps q n b k
      (if 1680 < (hottest s).1 then
        match s.thermal.hotSensor with
        | some _ => thermalMod (fun t => { t with peak := max t.peak (hottest s).1 })
            (setAlert 1 true (powerMod (fun p => { p with thermal := 300 })
              (if 300 < s.power.thermal then droopMod (fun d => { d with throttles := d.throttles + 1 }) s else s)))
        | none => raiseEvent .overTemperature 0 nodeSelf (hottest s).2 (twos (hottest s).1 24)
            (thermalMod (fun t => { t with hotSensor := some (hottest s).2, peak := (hottest s).1 })
              (setAlert 1 true (powerMod (fun p => { p with thermal := 300 })
                (if 300 < s.power.thermal then droopMod (fun d => { d with throttles := d.throttles + 1 }) s else s))))
      else
        match s.thermal.hotSensor with
        | some i => closeEvent .overTemperature 0 i (twos s.thermal.peak 24) (thermalMod (fun t => { t with hotSensor := none }) s)
        | none => s) := by
    refine Keeps.ite (fun _ => ?_) fun _ => ?_
    · split
      · exact thermalMod_keeps _ _ hc
      · exact raiseEvent_keeps _ _ _ _ _ _ (thermalMod_keeps _ _ hc)
    · split
      · exact closeEvent_keeps _ _ _ _ _ (thermalMod_keeps _ _ h)
      · exact h
  exact Keeps.ite (c := (hottest s).1 ≤ 1600) (fun _ => setAlert_keeps _ _ _ h1) fun _ => h1

theorem execSensorSample_keeps (readings : List ℤ) (s : State) (hK0 : Keeps q n b k s) (k_droop : k.droop = none := by assumption) (k_power : k.power = none := by assumption) (k_thermal : k.thermal = none := by assumption) :
    KeepsO q n b k (execSensorSample readings s) := by
  unfold execSensorSample
  try dsimp only
  repeat' (first
    | (with_reducible first
        | assumption | apply judgeHeat_keeps | apply thermalMod_keeps | apply tickMod_keeps | apply whileLit_keeps | apply advanceTo_keeps
        | apply KeepsO.next | apply KeepsO.ite | apply KeepsO.fault | apply KeepsO.refused | apply Keeps.foldl | apply Keeps.foldl_fst
        | apply Keeps.foldl_snd | apply Keeps.ite | refine KeepsO.elim ?_ (by with_reducible assumption) | intro _)
    | dsimp only)

theorem learnUnit_keeps (s : State) (u : Nat × Nat) (hK0 : Keeps q n b k s) (k_power : k.power = none := by assumption) :
    Keeps q n b k (learnUnit s u) := by
  unfold learnUnit
  try dsimp only
  repeat' (first
    | (with_reducible first
        | assumption | apply powerMod_keeps | apply Keeps.foldl | apply Keeps.foldl_fst | apply Keeps.foldl_snd | apply Keeps.ite)
    | dsimp only)

theorem learnAction_keeps (s : State) (a : Nat) (hK0 : Keeps q n b k s) (k_power : k.power = none := by assumption) :
    Keeps q n b k (learnAction s a) := by
  unfold learnAction
  try dsimp only
  repeat' (first
    | (with_reducible first
        | assumption | apply powerMod_keeps | apply Keeps.foldl | apply Keeps.foldl_fst | apply Keeps.foldl_snd | apply Keeps.ite | intro _)
    | dsimp only | (fail_if_no_progress refine Keeps.mk rfl ?_) | split)

theorem learnGroup_keeps (s : State) (x : Sys2Proof.GroupWindow) (hK0 : Keeps q n b k s) (k_power : k.power = none := by assumption) :
    Keeps q n b k (learnGroup s x) := by
  unfold learnGroup
  try dsimp only
  repeat' (first
    | (with_reducible first
        | assumption | apply powerMod_keeps | apply Keeps.foldl | apply Keeps.foldl_fst | apply Keeps.foldl_snd | apply Keeps.ite | intro _)
    | dsimp only)

theorem learnWindow_keeps (w : Sys2Proof.WindowMeas) (s0 : State) (hK0 : Keeps q n b k s0) (k_power : k.power = none := by assumption) (k_ceilings : k.ceilings = none := by assumption) :
    Keeps q n b k (learnWindow w s0) := by
  unfold learnWindow
  try dsimp only
  repeat' (first
    | (with_reducible first
        | assumption | apply learnGroup_keeps | apply learnAction_keeps | apply learnUnit_keeps | apply ceilMod_keeps | apply Keeps.foldl
        | apply Keeps.foldl_fst | apply Keeps.foldl_snd | apply Keeps.ite | intro _)
    | dsimp only)

theorem setClock_keeps (v : Nat) (s : State) (hK0 : Keeps q n b k s) (k_droop : k.droop = none := by assumption) :
    Keeps q n b k (setClock v s) := by
  unfold setClock
  try dsimp only
  repeat' (first
    | (with_reducible first
        | assumption | apply droopMod_keeps | apply Keeps.foldl | apply Keeps.foldl_fst | apply Keeps.foldl_snd | apply Keeps.ite | intro _)
    | dsimp only)

theorem execSextantDivision_keeps (w : Sys2Proof.WindowMeas) (s : State) (hK0 : Keeps q n b k s) (k_cache : k.cache = none := by assumption) (k_ramp : k.ramp = none := by assumption) (k_power : k.power = none := by assumption) (k_droop : k.droop = none := by assumption) (k_ceilings : k.ceilings = none := by assumption) :
    KeepsO q n b k (execSextantDivision w s) := by
  unfold execSextantDivision
  try dsimp only
  repeat' (first
    | (with_reducible first
        | assumption | apply setClock_keeps | apply learnWindow_keeps | apply sendVid_keeps | apply tickMod_keeps | apply divide_keeps
        | apply droopMod_keeps | apply ceilMod_keeps | apply powerMod_keeps | apply advanceTo_keeps | apply KeepsO.next | apply KeepsO.ite
        | apply KeepsO.fault | apply KeepsO.refused | apply Keeps.foldl | apply Keeps.foldl_fst | apply Keeps.foldl_snd | apply Keeps.ite
        | intro _)
    | dsimp only)

theorem execThermalWindow_keeps (s : State) (h : Keeps q n b k s) (k_power : k.power = none := by assumption) (k_thermal : k.thermal = none := by assumption) (k_droop : k.droop = none := by assumption) : KeepsO q n b k (execThermalWindow s) := by
  have h1 := advanceTo_keeps (nextMultiple s.dev.ticks.thermal 100000) _
    (tickMod_keeps (fun x => { x with thermal := nextMultiple s.dev.ticks.thermal 100000 }) s h)
  unfold execThermalWindow whileLit
  refine KeepsO.ite (fun _ => ?_) fun _ => KeepsO.next h
  dsimp only
  split
  · exact KeepsO.next (thermalMod_keeps _ _ h1)
  · refine KeepsO.ite (fun _ => ?_) fun _ => KeepsO.ite (fun _ => ?_) fun _ => KeepsO.next (thermalMod_keeps _ _ h1)
    · have hc := h.1.2.2.2.2.2.2.2.2
      have h2 : Keeps q n b k (powerMod (fun p => { p with thermal := max 300 (s.power.thermal - 16) })
          (advanceTo (nextMultiple s.dev.ticks.thermal 100000)
            (tickMod (fun x => { x with thermal := nextMultiple s.dev.ticks.thermal 100000 }) s))) :=
        powerMod_bounded_keeps _ _ (fun hp => ⟨hp.1, hp.2.1, le_max_left _ _, by simp only; omega⟩) h1
      refine KeepsO.next (thermalMod_keeps _ _ ?_)
      exact Keeps.ite (fun _ => droopMod_keeps _ _ h2) fun _ => h2
    · have hc := h.1.2.2.2.2.2.2.2.2
      exact KeepsO.next (thermalMod_keeps _ _
        (powerMod_bounded_keeps _ _ (fun hp => ⟨hp.1, hp.2.1, by simp only; omega, min_le_left _ _⟩) h1))

theorem execThermtrip_keeps (sensor : Nat) (reading : Int) (s : State) (h : Keeps q n b k s) (k_thermal : k.thermal = none := by assumption) : KeepsO q n b k (execThermtrip sensor reading s) := by
  unfold execThermtrip
  refine KeepsO.ite (fun _ => KeepsO.next (thermalMod_keeps _ _ ?_)) fun _ => KeepsO.next h
  exact ⟨⟨h.1.1, h.1.2.1, fun _ => rfl, h.1.2.2.2⟩, h.2⟩

theorem breakGroup_keeps (s : State) (slot : Nat) (hK0 : Keeps q n b k s) (k_coll : k.coll = none := by assumption) :
    Keeps q n b k (breakGroup s slot) := by
  unfold breakGroup
  try dsimp only
  repeat' (first
    | (with_reducible first
        | assumption | apply failSetup_keeps | apply groupMod_keeps | apply Keeps.foldl | apply Keeps.foldl_fst | apply Keeps.foldl_snd
        | apply Keeps.ite | intro _)
    | dsimp only | (fail_if_no_progress refine Keeps.mk rfl ?_) | split)

theorem abortCollectives_keeps (s : State) (hK0 : Keeps q n b k s) (k_coll : k.coll = none := by assumption) :
    Keeps q n b k (abortCollectives s) := by
  unfold abortCollectives
  try dsimp only
  repeat' (first
    | (with_reducible first
        | assumption | apply breakGroup_keeps | apply collMod_keeps | apply completeAll_keeps | apply Keeps.foldl | apply Keeps.foldl_fst
        | apply Keeps.foldl_snd | apply Keeps.ite | intro _)
    | dsimp only)

/-- What a cold start brings is no later than the beginning of time. -/
theorem coldState_keeps (straps : Straps) (s : State) (h : Keeps q 0 false k s) (k_mem : k.mem = none := by assumption) (k_regions : k.regions = none := by assumption) (k_retired : k.retired = none := by assumption) (k_sqs : k.sqs = none := by assumption) (k_srqs : k.srqs = none := by assumption) (k_sched : k.sched = none := by assumption) (k_coll : k.coll = none := by assumption) (k_cache : k.cache = none := by assumption) (k_ramp : k.ramp = none := by assumption) (k_opers : k.opers = none := by assumption) (k_sec : k.sec = none := by assumption) (k_power : k.power = none := by assumption) (k_thermal : k.thermal = none := by assumption) (k_droop : k.droop = none := by assumption) (k_ceilings : k.ceilings = none := by assumption) (k_pcie : k.pcie = none := by assumption) (k_jtag : k.jtag = none := by assumption) (k_missSlots : k.missSlots = none := by assumption) (k_missWait : k.missWait = none := by assumption) : Keeps q 0 false k (coldState straps s) := by
  have hk := h.2
  refine ⟨⟨h.1.1, Nat.zero_le _, fun e => (Bool.false_ne_true e).elim, rfl, fun _ => ⟨rfl, rfl⟩, ⟨Nat.zero_le _, Nat.zero_le _⟩, ?_, ?_⟩, by
    simp only [KeptIn, coldState] at hk ⊢
    simp only [hk, isHeld_none, k_mem, k_regions, k_retired, k_sqs, k_srqs, k_sched, k_coll, k_cache, k_ramp, k_opers, k_sec, k_power, k_thermal, k_droop, k_ceilings, k_pcie, k_jtag, k_missSlots, k_missWait, and_self]⟩
  · intro e
    exact absurd rfl e
  · exact ⟨⟨Nat.le_of_ble_eq_true rfl, Nat.le_of_ble_eq_true rfl⟩, Nat.le_of_ble_eq_true rfl, Nat.le_of_ble_eq_true rfl⟩

theorem cryptoStart_keeps (crypto : Sys2Proof.W64) (s : State) (hK0 : Keeps q n b k s) (k_sec : k.sec = none := by assumption) :
    Keeps q n b k (cryptoStart crypto s) := by
  unfold cryptoStart
  try dsimp only
  repeat' (first
    | (with_reducible first
        | assumption | apply enterError_keeps | apply secMod_keeps | apply Keeps.foldl | apply Keeps.foldl_fst | apply Keeps.foldl_snd
        | apply Keeps.ite | intro _)
    | dsimp only)

theorem devMod_keeps (f : Device → Device) (s : State) (hn : (f s.dev).now = s.dev.now) (hl : (f s.dev).life = s.dev.life)
    (h : Keeps q n b k s) : Keeps q n b k (devMod f s) :=
  Keeps.mk rfl h rfl hn hl

/-- What changes the device's life keeps a state that nobody takes for tripped. -/
theorem devMod_live_keeps (f : Device → Device) (s : State) (hn : (f s.dev).now = s.dev.now) (h : Keeps q n false k s) :
    Keeps q n false k (devMod f s) :=
  ⟨⟨h.1.1, (show n ≤ (f s.dev).now from hn ▸ h.1.2.1), fun e => (Bool.false_ne_true e).elim, h.1.2.2.2⟩, h.2⟩

/-- A device whose life is another than tripped. -/
theorem Keeps.untripped (h : Keeps q n b k s) (hl : s.dev.life ≠ .tripped) : b = false := by
  cases b with
  | false => rfl
  | true => exact absurd (h.1.2.2.1 rfl) hl

theorem doDiagInventory_keeps (x____Sys2Proof_Machine_Startup_2586991493__hygCtx__hyg_2 : Cmd) (s : State) (hK0 : Keeps q n b k s) :
    KeepsC q n b k (doDiagInventory x____Sys2Proof_Machine_Startup_2586991493__hygCtx__hyg_2 s) := by
  unfold doDiagInventory
  try dsimp only
  repeat' (with_reducible first | assumption | apply KeepsC.done)

theorem setLoop_keeps (kind : Nat) (port : Nat) (ends : Option Nat) (s : State) (hK0 : Keeps q n b k s) :
    Keeps q n b k (setLoop kind port ends s) := by
  unfold setLoop
  try dsimp only
  repeat' (first
    | (with_reducible first | assumption | apply Keeps.foldl | apply Keeps.foldl_fst | apply Keeps.foldl_snd | apply Keeps.ite | intro _)
    | dsimp only | (fail_if_no_progress refine Keeps.mk rfl ?_))

theorem doDiagLoopback_keeps (c : Cmd) (s : State) (hK0 : Keeps q n b k s) :
    KeepsC q n b k (doDiagLoopback c s) := by
  unfold doDiagLoopback
  try dsimp only
  repeat' (first
    | (with_reducible first
        | assumption | apply setLoop_keeps | apply needParam_keeps | apply cmdFail_keeps | apply KeepsC.done | apply KeepsC.deferred
        | apply KeepsC.later | apply KeepsC.ite | apply Keeps.foldl | apply Keeps.foldl_fst | apply Keeps.foldl_snd | apply Keeps.ite
        | intro _)
    | dsimp only)

theorem doDiagResults_keeps (c : Cmd) (s : State) (hK0 : Keeps q n b k s) :
    KeepsC q n b k (doDiagResults c s) := by
  unfold doDiagResults
  try dsimp only
  repeat' (first
    | (with_reducible first
        | assumption | apply needParam_keeps | apply writeResult_keeps | apply KeepsC.done | apply KeepsC.deferred | apply KeepsC.later
        | apply KeepsC.ite | apply Keeps.foldl | apply Keeps.foldl_fst | apply Keeps.foldl_snd | apply Keeps.ite | intro _)
    | dsimp only)

theorem doDiagSelftest_keeps (x____Sys2Proof_Machine_Startup_889641240__hygCtx__hyg_2 : Cmd) (s : State) (hK0 : Keeps q n b k s) :
    KeepsC q n b k (doDiagSelftest x____Sys2Proof_Machine_Startup_889641240__hygCtx__hyg_2 s) := by
  unfold doDiagSelftest
  try dsimp only
  repeat' (first
    | (with_reducible first
        | assumption | apply devMod_keeps | apply cmdOk_keeps | apply cmdFail_keeps | apply KeepsC.done | apply KeepsC.deferred
        | apply KeepsC.later | apply KeepsC.ite | apply Keeps.foldl | apply Keeps.foldl_fst | apply Keeps.foldl_snd | apply Keeps.ite
        | intro _)
    | dsimp only)

theorem downCrossings_keeps (s : State) (hK0 : Keeps q n b k s) :
    Keeps q n b k (downCrossings s) := by
  unfold downCrossings
  try dsimp only
  repeat' (first
    | (with_reducible first | assumption | apply Keeps.foldl | apply Keeps.foldl_fst | apply Keeps.foldl_snd | apply Keeps.ite | intro _)
    | dsimp only | (fail_if_no_progress refine Keeps.mk rfl ?_))

theorem goLive_keeps (crypto : W64) (s : State) (h : Keeps q n false k s) (k_sec : k.sec = none := by assumption) : Keeps q n false k (goLive crypto s) :=
  cryptoStart_keeps _ _ (secMod_keeps _ _ (setAlert_keeps _ _ _ (devMod_live_keeps _ _ rfl h)))

theorem startMod_keeps (f : StartInfo → StartInfo) (s : State) (hK0 : Keeps q n b k s) (k_start : k.start = none := by assumption) :
    Keeps q n b k (startMod f s) := by
  unfold startMod
  try dsimp only
  repeat' (first
    | (with_reducible first | assumption | apply Keeps.foldl | apply Keeps.foldl_fst | apply Keeps.foldl_snd | apply Keeps.ite | intro _)
    | dsimp only | (fail_if_no_progress refine Keeps.mk rfl ?_))

theorem endStart_keeps (imageOk : Bool) (crypto : W64) (limit lead : Nat) (live : State → State) (s : State)
    (hlive : ∀ t, Keeps q n false k t → Keeps q n false k (live t)) (h : Keeps q n false k s) (k_sec : k.sec = none := by assumption) (k_start : k.start = none := by assumption) :
    Keeps q n false k (endStart imageOk crypto limit lead live s) := by
  have h1 := startMod_keeps (fun x => { x with duration := startTime limit s }) _
    (takeFresh_keeps _ (advanceTo_keeps (s.dev.lastLiveness + 1000 * (startTime limit s - lead)) s h))
  unfold endStart
  refine Keeps.ite (fun _ => ?_) fun _ => Keeps.ite (fun _ => ?_) fun _ => ?_
  · exact setAlert_keeps _ _ _ (devMod_live_keeps _ _ rfl h1)
  · exact secMod_keeps _ _ (devMod_live_keeps _ _ rfl h1)
  · exact hlive _ (goLive_keeps _ _ h1)

theorem undoCommand_keeps (p : Pending) (s : State) (hK0 : Keeps q n b k s) (k_sched : k.sched = none := by assumption) :
    Keeps q n b k (undoCommand p s) := by
  unfold undoCommand
  try dsimp only
  repeat' (first
    | (with_reducible first
        | assumption | apply spaceMod_keeps | apply Keeps.foldl | apply Keeps.foldl_fst | apply Keeps.foldl_snd | apply Keeps.ite | intro _)
    | dsimp only | (fail_if_no_progress refine Keeps.mk rfl ?_) | split)

theorem unreadOne_keeps (s : State) (p : Pending) (hK0 : Keeps q n b k s) (k_sched : k.sched = none := by assumption) :
    Keeps q n b k (unreadOne s p) := by
  unfold unreadOne
  try dsimp only
  repeat' (first
    | (with_reducible first
        | assumption | apply undoCommand_keeps | apply chanMod_keeps | apply Keeps.foldl | apply Keeps.foldl_fst | apply Keeps.foldl_snd
        | apply Keeps.ite | intro _)
    | dsimp only | (fail_if_no_progress refine Keeps.mk rfl ?_) | split)

theorem unreadCommands_keeps (s : State) (hK0 : Keeps q n b k s) (k_sched : k.sched = none := by assumption) :
    Keeps q n b k (unreadCommands s) := by
  unfold unreadCommands
  try dsimp only
  repeat' (first
    | (with_reducible first
        | assumption | apply unreadOne_keeps | apply Keeps.foldl | apply Keeps.foldl_fst | apply Keeps.foldl_snd | apply Keeps.ite | intro _)
    | dsimp only)

theorem judgeStrap_keeps (straps : Sys2Proof.Straps) (s : State) (hK0 : Keeps q n b k s) :
    Keeps q n b k (judgeStrap straps s) := by
  unfold judgeStrap
  try dsimp only
  repeat' (first
    | (with_reducible first
        | assumption | apply raiseEvent_keeps | apply Keeps.foldl | apply Keeps.foldl_fst | apply Keeps.foldl_snd | apply Keeps.ite
        | intro _)
    | dsimp only)

theorem heldState_keeps (straps : Straps) (s : State) (h : Keeps q n false k s) (k_sched : k.sched = none := by assumption) (k_ramp : k.ramp = none := by assumption) (k_sec : k.sec = none := by assumption) (k_power : k.power = none := by assumption) (k_thermal : k.thermal = none := by assumption) (k_droop : k.droop = none := by assumption) (k_ceilings : k.ceilings = none := by assumption) (k_missSlots : k.missSlots = none := by assumption) (k_missWait : k.missWait = none := by assumption) : Keeps q n false k (heldState straps s) := by
  refine setAlert_keeps _ _ _ (setAlert_keeps _ _ _ (downCrossings_keeps _ ?_))
  have hk := h.2
  refine ⟨⟨h.1.1, h.1.2.1, fun e => (Bool.false_ne_true e).elim, h.1.2.2.2.1, h.1.2.2.2.2.1, ⟨Nat.zero_le _, Nat.zero_le _⟩, ?_, ?_⟩, by
    simp only [KeptIn] at hk ⊢
    simp only [hk, isHeld_none, k_sched, k_ramp, k_sec, k_power, k_thermal, k_droop, k_ceilings, k_missSlots, k_missWait, and_self]⟩
  · intro e
    exact absurd rfl e
  · exact ⟨⟨Nat.le_of_ble_eq_true rfl, Nat.le_of_ble_eq_true rfl⟩, Nat.le_of_ble_eq_true rfl, Nat.le_of_ble_eq_true rfl⟩

theorem stepToBoot_keeps (fuel : Nat) (s : State) (hK0 : Keeps q n b k s) (k_power : k.power = none := by assumption) :
    Keeps q n b k (stepToBoot fuel s) := by
  induction fuel generalizing s with
  | zero =>
    unfold stepToBoot
    try dsimp only
    repeat' (with_reducible first | assumption)
  | succ j ih =>
    unfold stepToBoot
    try dsimp only
    repeat' (first
      | (with_reducible first
          | assumption | apply ih | apply sendVid_keeps | apply powerMod_keeps | apply Keeps.foldl | apply Keeps.foldl_fst
          | apply Keeps.foldl_snd | apply Keeps.ite | intro _)
      | dsimp only)

theorem logResult_keeps (outcome : Nat) (r : Sys2Proof.TestResult) (s : State) (hK0 : Keeps q n b k s) (k_start : k.start = none := by assumption) :
    Keeps q n b k (logResult outcome r s) := by
  unfold logResult
  try dsimp only
  repeat' (with_reducible first | assumption | apply startMod_keeps | apply takeFresh_keeps)

theorem recordFailure_keeps (s : State) (r : Sys2Proof.TestResult) (hK0 : Keeps q n b k s) (k_start : k.start = none := by assumption) :
    Keeps q n b k (recordFailure s r) := by
  unfold recordFailure
  try dsimp only
  repeat' (first
    | (with_reducible first
        | assumption | apply logResult_keeps | apply startMod_keeps | apply tarnMod_keeps | apply Keeps.foldl | apply Keeps.foldl_fst
        | apply Keeps.foldl_snd | apply Keeps.ite | intro _)
    | dsimp only)

theorem testTarns_keeps (bad : List Sys2Proof.TestResult) (s : State) (hK0 : Keeps q n b k s) (k_coll : k.coll = none := by assumption) :
    Keeps q n b k (testTarns bad s) := by
  unfold testTarns
  try dsimp only
  repeat' (first
    | (with_reducible first
        | assumption | apply devMod_keeps | apply collMod_keeps | apply tarnMod_keeps | apply Keeps.foldl | apply Keeps.foldl_fst
        | apply Keeps.foldl_snd | apply Keeps.ite)
    | dsimp only)

theorem skipTests_keeps (results : List Sys2Proof.TestResult) (s : State) (hK0 : Keeps q n b k s) (k_start : k.start = none := by assumption) :
    Keeps q n b k (skipTests results s) := by
  unfold skipTests
  try dsimp only
  repeat' (first
    | (with_reducible first
        | assumption | apply logResult_keeps | apply raiseEvent_keeps | apply Keeps.foldl | apply Keeps.foldl_fst | apply Keeps.foldl_snd
        | apply Keeps.ite | intro _)
    | dsimp only)

theorem runTests_keeps (kind : StartKind) (results : List Sys2Proof.TestResult) (clocksOk : Bool) (suppliesOk : Bool) (s : State) (hK0 : Keeps q n b k s) (k_coll : k.coll = none := by assumption) (k_start : k.start = none := by assumption) :
    Keeps q n b k (runTests kind results clocksOk suppliesOk s) := by
  unfold runTests
  try dsimp only
  repeat' (first
    | (with_reducible first
        | assumption | apply skipTests_keeps | apply testTarns_keeps | apply recordFailure_keeps | apply startMod_keeps | apply devMod_keeps
        | apply Keeps.foldl | apply Keeps.foldl_fst | apply Keeps.foldl_snd | apply Keeps.ite | intro _)
    | dsimp only)

theorem selftestState_keeps (straps : Straps) (s : State) (h : Keeps q n false k s) (k_mem : k.mem = none := by assumption) (k_regions : k.regions = none := by assumption) (k_retired : k.retired = none := by assumption) (k_sqs : k.sqs = none := by assumption) (k_srqs : k.srqs = none := by assumption) (k_sched : k.sched = none := by assumption) (k_coll : k.coll = none := by assumption) (k_cache : k.cache = none := by assumption) (k_ramp : k.ramp = none := by assumption) (k_opers : k.opers = none := by assumption) (k_sec : k.sec = none := by assumption) (k_power : k.power = none := by assumption) (k_thermal : k.thermal = none := by assumption) (k_droop : k.droop = none := by assumption) (k_ceilings : k.ceilings = none := by assumption) (k_pcie : k.pcie = none := by assumption) (k_jtag : k.jtag = none := by assumption) (k_missSlots : k.missSlots = none := by assumption) (k_missWait : k.missWait = none := by assumption) : Keeps q n false k (selftestState straps s) := by
  have h1 := heldState_keeps straps s h
  have hs := h.2
  refine ⟨⟨h.1.1, h1.1.2.1, fun e => (Bool.false_ne_true e).elim, rfl, h.1.2.2.2.2.1, ⟨Nat.zero_le _, Nat.zero_le _⟩, ?_, ?_⟩, by
    simp only [KeptIn, selftestState, coldState] at hs ⊢
    simp only [hs, isHeld_none, k_mem, k_regions, k_retired, k_sqs, k_srqs, k_sched, k_coll, k_cache, k_ramp, k_opers, k_sec, k_power, k_thermal, k_droop, k_ceilings, k_pcie, k_jtag, k_missSlots, k_missWait, and_self]⟩
  · intro e
    exact absurd rfl e
  · exact ⟨⟨Nat.le_of_ble_eq_true rfl, Nat.le_of_ble_eq_true rfl⟩, Nat.le_of_ble_eq_true rfl, Nat.le_of_ble_eq_true rfl⟩

theorem execDeviceResetTakesEffect_keeps (straps : Straps) (selftest : List TestResult) (clocksOk suppliesOk : Bool) (s : State)
    (h : Keeps q n b k s) (k_mem : k.mem = none := by assumption) (k_regions : k.regions = none := by assumption) (k_retired : k.retired = none := by assumption) (k_sqs : k.sqs = none := by assumption) (k_srqs : k.srqs = none := by assumption) (k_sched : k.sched = none := by assumption) (k_coll : k.coll = none := by assumption) (k_cache : k.cache = none := by assumption) (k_ramp : k.ramp = none := by assumption) (k_opers : k.opers = none := by assumption) (k_sec : k.sec = none := by assumption) (k_power : k.power = none := by assumption) (k_thermal : k.thermal = none := by assumption) (k_droop : k.droop = none := by assumption) (k_ceilings : k.ceilings = none := by assumption) (k_start : k.start = none := by assumption) (k_pcie : k.pcie = none := by assumption) (k_jtag : k.jtag = none := by assumption) (k_missSlots : k.missSlots = none := by assumption) (k_missWait : k.missWait = none := by assumption) : KeepsO q n b k (execDeviceResetTakesEffect straps selftest clocksOk suppliesOk s) := by
  unfold execDeviceResetTakesEffect
  split
  · exact KeepsO.next h
  · refine KeepsO.ite (fun _ => KeepsO.next h) fun hs => ?_
    obtain rfl := h.untripped (by
      intro e
      apply hs
      simp [lit, e])
    refine KeepsO.next (judgeStrap_keeps _ _ (runTests_keeps _ _ _ _ _ (Keeps.ite (fun _ => ?_) fun _ => ?_)))
    · exact selftestState_keeps _ _ (stepToBoot_keeps _ _ (advanceTo_keeps _ _ h))
    · exact heldState_keeps _ _ (unreadCommands_keeps _ (stepToBoot_keeps _ _ (advanceTo_keeps _ _ h)))

theorem execDiagInventory_keeps (c : Cmd) (s : State) (hK0 : Keeps q n b k s) :
    KeepsO q n b k (execDiagInventory c s) := by
  unfold execDiagInventory
  try dsimp only
  repeat' (with_reducible first | assumption | apply doDiagInventory_keeps | apply runCmd_keeps | apply KeepsO.next)

theorem execDiagLoopback_keeps (c : Cmd) (s : State) (hK0 : Keeps q n b k s) :
    KeepsO q n b k (execDiagLoopback c s) := by
  unfold execDiagLoopback
  try dsimp only
  repeat' (with_reducible first | assumption | apply doDiagLoopback_keeps | apply runCmd_keeps | apply KeepsO.next)

theorem logFarEnd_keeps (kind : Nat) (port : Nat) (mode : Nat) (errors : Sys2Proof.W64) (lane : Sys2Proof.W8) (s : State) (hK0 : Keeps q n b k s) (k_start : k.start = none := by assumption) :
    Keeps q n b k (logFarEnd kind port mode errors lane s) := by
  unfold logFarEnd
  try dsimp only
  repeat' (first
    | (with_reducible first
        | assumption | apply logResult_keeps | apply Keeps.foldl | apply Keeps.foldl_fst | apply Keeps.foldl_snd | apply Keeps.ite | intro _)
    | dsimp only)

theorem execDiagLoopbackDone_keeps (bits_ : Sys2Proof.W64) (worstErrors : Sys2Proof.W64) (worstLane : Sys2Proof.W8) (s : State) (hK0 : Keeps q n b k s) (k_start : k.start = none := by assumption) :
    KeepsO q n b k (execDiagLoopbackDone bits_ worstErrors worstLane s) := by
  unfold execDiagLoopbackDone
  try dsimp only
  repeat' (first
    | (with_reducible first
        | assumption | apply logFarEnd_keeps | apply setLoop_keeps | apply whileLit_keeps | apply answer_keeps | apply advanceTo_keeps
        | apply KeepsO.next | apply KeepsO.ite | apply KeepsO.fault | apply KeepsO.refused | apply Keeps.foldl | apply Keeps.foldl_fst
        | apply Keeps.foldl_snd | apply Keeps.ite | refine KeepsO.elim ?_ (by with_reducible assumption) | intro _)
    | dsimp only | (fail_if_no_progress refine Keeps.mk rfl ?_) | split)

theorem execDiagResults_keeps (c : Cmd) (s : State) (hK0 : Keeps q n b k s) :
    KeepsO q n b k (execDiagResults c s) := by
  unfold execDiagResults
  try dsimp only
  repeat' (with_reducible first | assumption | apply doDiagResults_keeps | apply runCmd_keeps | apply KeepsO.next)

theorem execDiagSelftest_keeps (c : Cmd) (s : State) (hK0 : Keeps q n b k s) :
    KeepsO q n b k (execDiagSelftest c s) := by
  unfold execDiagSelftest
  try dsimp only
  repeat' (with_reducible first | assumption | apply doDiagSelftest_keeps | apply runCmd_keeps | apply KeepsO.next)

theorem execFwHeartbeatTick_keeps (s : State) (hK0 : Keeps q n b k s) :
    KeepsO q n b k (execFwHeartbeatTick s) := by
  unfold execFwHeartbeatTick
  try dsimp only
  repeat' (first
    | (with_reducible first
        | assumption | apply devMod_keeps | apply tickMod_keeps | apply advanceTo_keeps | apply KeepsO.next | apply KeepsO.ite
        | apply KeepsO.fault | apply KeepsO.refused | apply Keeps.foldl | apply Keeps.foldl_fst | apply Keeps.foldl_snd | apply Keeps.ite
        | intro _)
    | dsimp only)

theorem execFwWatchdogExpiry_keeps (s : State) (h : Keeps q n b k s) (k_sched : k.sched = none := by assumption) : KeepsO q n b k (execFwWatchdogExpiry s) := by
  unfold execFwWatchdogExpiry
  refine KeepsO.ite (fun hs => ?_) fun _ => KeepsO.next h
  obtain rfl := h.untripped (by rw [hs]; decide)
  exact KeepsO.next (flushCrossing_keeps _ _ (unreadCommands_keeps _ (devMod_live_keeps _ _ rfl (advanceTo_keeps _ _ h))))

theorem execPowerOnRelease_keeps (straps : Straps) (selftest : List TestResult) (clocksOk suppliesOk : Bool) (s : State) (h : Keeps q 0 b k s) (k_mem : k.mem = none := by assumption) (k_regions : k.regions = none := by assumption) (k_retired : k.retired = none := by assumption) (k_sqs : k.sqs = none := by assumption) (k_srqs : k.srqs = none := by assumption) (k_sched : k.sched = none := by assumption) (k_coll : k.coll = none := by assumption) (k_cache : k.cache = none := by assumption) (k_ramp : k.ramp = none := by assumption) (k_opers : k.opers = none := by assumption) (k_sec : k.sec = none := by assumption) (k_power : k.power = none := by assumption) (k_thermal : k.thermal = none := by assumption) (k_droop : k.droop = none := by assumption) (k_ceilings : k.ceilings = none := by assumption) (k_start : k.start = none := by assumption) (k_pcie : k.pcie = none := by assumption) (k_jtag : k.jtag = none := by assumption) (k_missSlots : k.missSlots = none := by assumption) (k_missWait : k.missWait = none := by assumption) :
    KeepsO q 0 b k (execPowerOnRelease straps selftest clocksOk suppliesOk s) := by
  unfold execPowerOnRelease
  refine KeepsO.ite (fun hs => ?_) fun _ => KeepsO.next h
  obtain rfl := h.untripped (by rw [hs]; decide)
  exact KeepsO.next (runTests_keeps _ _ _ _ _ (coldState_keeps _ _ h))

theorem execRailOutOfTolerance_keeps (rail : Nat) (s : State) (h : Keeps q n false k s) (k_thermal : k.thermal = none := by assumption) :
    KeepsO q n false k (execRailOutOfTolerance rail s) := by
  unfold execRailOutOfTolerance
  refine KeepsO.ite (fun _ => KeepsO.next (thermalMod_keeps _ _ (devMod_live_keeps _ _ rfl h))) fun _ => KeepsO.next h

theorem execRefclkAbsentTimeout_keeps (s : State) (h : Keeps q n b k s) : KeepsO q n b k (execRefclkAbsentTimeout s) := by
  unfold execRefclkAbsentTimeout
  refine KeepsO.ite (fun hs => ?_) fun _ => KeepsO.next h
  obtain rfl := h.untripped (by intro e; simp [isStarting, e] at hs)
  exact KeepsO.next (setAlert_keeps _ _ _ (devMod_live_keeps _ _ rfl (advanceTo_keeps _ _ h)))

theorem execReferencesPresent_keeps (s : State) (h : Keeps q n b k s) : KeepsO q n b k (execReferencesPresent s) := by
  unfold execReferencesPresent
  refine KeepsO.ite (fun hs => ?_) fun _ => KeepsO.next h
  obtain rfl := h.untripped (by rw [hs]; decide)
  exact KeepsO.next (setAlert_keeps _ _ _ (devMod_live_keeps _ _ rfl h))

theorem holdFunction_keeps (s : State) (fn : Nat) (hK0 : Keeps q n b k s) (k_mem : k.mem = none := by assumption) (k_regions : k.regions = none := by assumption) (k_retired : k.retired = none := by assumption) (k_sqs : k.sqs = none := by assumption) (k_srqs : k.srqs = none := by assumption) (k_sched : k.sched = none := by assumption) (k_coll : k.coll = none := by assumption) (k_cache : k.cache = none := by assumption) (k_opers : k.opers = none := by assumption) (k_sec : k.sec = none := by assumption) :
    Keeps q n b k (holdFunction s fn) := by
  unfold holdFunction
  try dsimp only
  repeat' (first
    | (with_reducible first
        | assumption | apply failSuspended_keeps | apply dropUnit_keeps | apply flushHost_keeps | apply releaseFunction_keeps
        | apply bumpKeys_keeps | apply finishCmds_keeps | apply fnMod_keeps | apply Keeps.foldl | apply Keeps.foldl_fst
        | apply Keeps.foldl_snd | apply Keeps.ite | intro _)
    | dsimp only | (fail_if_no_progress refine Keeps.mk rfl ?_) | split)

theorem loseTested_keeps (s : State) (r : ResultRec) (hK0 : Keeps q n b k s) (k_mem : k.mem = none := by assumption) (k_srqs : k.srqs = none := by assumption) (k_sched : k.sched = none := by assumption) (k_coll : k.coll = none := by assumption) (k_cache : k.cache = none := by assumption) (k_opers : k.opers = none := by assumption) :
    Keeps q n b k (loseTested s r) := by
  unfold loseTested
  try dsimp only
  repeat' (first
    | (with_reducible first
        | assumption | apply execTarnLost_keeps | apply execChannelLost_keeps | apply Keeps.foldl | apply Keeps.foldl_fst
        | apply Keeps.foldl_snd | apply Keeps.ite | refine KeepsO.elim ?_ (by with_reducible assumption) | intro _)
    | dsimp only | (fail_if_no_progress refine Keeps.mk rfl ?_) | split)

theorem reloadPins_keeps (s : State) (hK0 : Keeps q n b k s) (k_cache : k.cache = none := by assumption) :
    Keeps q n b k (reloadPins s) := by
  unfold reloadPins
  try dsimp only
  repeat' (first
    | (with_reducible first
        | assumption | apply loadSummaries_keeps | apply Keeps.foldl | apply Keeps.foldl_fst | apply Keeps.foldl_snd | apply Keeps.ite
        | intro _)
    | dsimp only | (fail_if_no_progress refine Keeps.mk rfl ?_) | split)

theorem stopFunction_keeps (s : State) (fn : Nat) (hK0 : Keeps q n b k s) (k_sqs : k.sqs = none := by assumption) :
    Keeps q n b k (stopFunction s fn) := by
  unfold stopFunction
  try dsimp only
  repeat' (first
    | (with_reducible first
        | assumption | apply holdCompletions_keeps | apply holdReplies_keeps | apply enterReset_keeps | apply spaceMod_keeps
        | apply Keeps.foldl | apply Keeps.foldl_fst | apply Keeps.foldl_snd | apply Keeps.ite | intro _)
    | dsimp only)

theorem restartWork_keeps (s : State) (hK0 : Keeps q n b k s) (k_mem : k.mem = none := by assumption) (k_regions : k.regions = none := by assumption) (k_retired : k.retired = none := by assumption) (k_sqs : k.sqs = none := by assumption) (k_srqs : k.srqs = none := by assumption) (k_sched : k.sched = none := by assumption) (k_coll : k.coll = none := by assumption) (k_cache : k.cache = none := by assumption) (k_opers : k.opers = none := by assumption) (k_sec : k.sec = none := by assumption) :
    Keeps q n b k (restartWork s) := by
  unfold restartWork
  try dsimp only
  repeat' (first
    | (with_reducible first
        | assumption | apply stopFunction_keeps | apply reloadPins_keeps | apply loseTested_keeps | apply holdFunction_keeps
        | apply abortCollectives_keeps | apply shedPins_keeps | apply collMod_keeps | apply Keeps.foldl | apply Keeps.foldl_fst
        | apply Keeps.foldl_snd | apply Keeps.ite | intro _)
    | dsimp only | (fail_if_no_progress refine Keeps.mk rfl ?_))

theorem jtagMod_keeps (f : Jtag → Jtag) (s : State) (hp : tapHeld s.jtag → tapHeld (f s.jtag)) (h : Keeps q n b k s) (k_jtag : k.jtag = none := by assumption) :
    Keeps q n b k (jtagMod f s) :=
  h.of_parts (jtagMod f s) rfl rfl rfl (fun hi => ⟨hi.1, hp hi.2.1, hi.2.2⟩) fun hk => by
    simp only [KeptIn, jtagMod] at hk ⊢
    simp only [hk, isHeld_none k_jtag, and_self]

theorem tapAction_keeps (tdi : Bool) (s : State) (ht : s.jtag.trst = false) (h : Keeps q n b k s) (k_jtag : k.jtag = none := by assumption) :
    Keeps q n b k (tapAction tdi s) ∧ (tapAction tdi s).jtag.trst = false := by
  have hf {j : Jtag} (hj : j.trst = false) : tapHeld j := fun e => by simp [hj] at e
  unfold tapAction
  split
  · exact ⟨jtagMod_keeps _ _ (fun _ => hf ht) h, ht⟩
  · exact ⟨takeFresh_keeps _ (jtagMod_keeps _ _ (fun _ => hf ht) h), ht⟩
  · exact ⟨jtagMod_keeps _ _ (fun _ => hf ht) h, ht⟩
  · exact ⟨jtagMod_keeps _ _ (fun _ => hf ht) h, ht⟩
  · exact ⟨jtagMod_keeps _ _ (fun _ => hf ht) h, ht⟩
  · exact ⟨jtagMod_keeps _ _ (fun _ => hf ht) h, ht⟩
  · exact ⟨h, ht⟩

theorem showTdo_keeps (s : State) (h : Keeps q n b k s) (k_jtag : k.jtag = none := by assumption) : Keeps q n b k (showTdo s) := by
  unfold showTdo
  dsimp only
  split
  · exact emit_keeps _ _ (jtagMod_keeps _ _ (fun hj => hj) h)
  · exact emit_keeps _ _ (jtagMod_keeps _ _ (fun hj => hj) h)
  · exact h

theorem execTckEdge_keeps (tms tdi : Bool) (s : State) (h : Keeps q n b k s) (k_jtag : k.jtag = none := by assumption) : KeepsO q n b k (execTckEdge tms tdi s) := by
  unfold execTckEdge
  refine KeepsO.ite (fun _ => KeepsO.next h) fun ht => KeepsO.next (showTdo_keeps _ ?_)
  have ha := tapAction_keeps tdi s (by simpa using ht) h
  exact jtagMod_keeps _ _ (fun _ e => by simp [ha.2] at e) ha.1

theorem execTrstNAssert_keeps (s : State) (h : Keeps q n b k s) (k_jtag : k.jtag = none := by assumption) : KeepsO q n b k (execTrstNAssert s) :=
  KeepsO.next (jtagMod_keeps _ _ (fun _ _ => ⟨rfl, rfl⟩) h)

theorem execTrstNRelease_keeps (s : State) (h : Keeps q n b k s) (k_jtag : k.jtag = none := by assumption) : KeepsO q n b k (execTrstNRelease s) :=
  KeepsO.next (jtagMod_keeps _ _ (fun _ e => by cases e) h)

end Sys2Proof.Machine
end

