-- ==== Sys2Proof/Laws/KeepsRings.lean ====
section
/-! SUPPORT. What each function of Machine/RingFlits.lean, Machine/Doorbell.lean keeps: the parts of State that stand in `Kept`, the queue, and the invariant. -/

set_option linter.unusedTactic false
set_option linter.unreachableTactic false
set_option linter.unusedVariables false
namespace Sys2Proof.Machine
set_option Elab.async false
variable {q : List Instr} {n : Nat} {b : Bool} {k : Kept}

theorem deflect_keeps (port : Nat) (exit : Nat) (slot : Nat) (need : Nat) (f : Sys2Proof.Flit) (s : State) (hK0 : Keeps q n b k s) :
    Keeps q n b k (deflect port exit slot need f s).1 := by
  unfold deflect
  try dsimp only
  repeat' (first
    | (with_reducible first
        | assumption | apply dropFlit_keeps | apply fabMod_keeps | apply Keeps.foldl | apply Keeps.foldl_fst | apply Keeps.foldl_snd
        | apply Keeps.ite | intro _)
    | dsimp only | (fail_if_no_progress refine Keeps.mk rfl ?_) | split)

theorem drainEject_keeps (key : Nat) (s : State) (hK0 : Keeps q n b k s) :
    Keeps q n b k (drainEject key s) := by
  unfold drainEject
  try dsimp only
  repeat' (with_reducible first | assumption | apply fabMod_keeps | apply takeFresh_keeps)

theorem storeFlit_keeps (port : Nat) (key : Nat) (p : Partial) (f : Sys2Proof.Flit) (s : State) (hK0 : Keeps q n b k s) (k_mem : k.mem = none := by assumption) (k_srqs : k.srqs = none := by assumption) (k_sched : k.sched = none := by assumption) :
    Keeps q n b k (storeFlit port key p f s) := by
  unfold storeFlit
  try dsimp only
  repeat' (first
    | (with_reducible first
        | assumption | apply deliverPacket_keeps | apply fabMod_keeps | apply Keeps.foldl | apply Keeps.foldl_fst | apply Keeps.foldl_snd
        | apply Keeps.ite | intro _)
    | dsimp only)

theorem ejectInto_keeps (k0 : Nat) (slot : Nat) (held : Bool) (f : Sys2Proof.Flit) (take : State → State) (s : State) (hK0 : ∀ v0, Keeps q n b k v0 → Keeps q n b k (take v0)) (hK1 : Keeps q n b k s) :
    Keeps q n b k (ejectInto k0 slot held f take s).1 := by
  unfold ejectInto
  try dsimp only
  repeat' (first
    | (with_reducible first
        | assumption | apply drainEject_keeps | apply deflect_keeps | apply fabMod_keeps | apply hK0 | apply Keeps.foldl
        | apply Keeps.foldl_fst | apply Keeps.foldl_snd | apply Keeps.ite | refine Keeps.fst_elim ?_ (by with_reducible assumption)
        | intro _)
    | dsimp only | (fail_if_no_progress refine Keeps.mk rfl ?_) | split)

theorem takeColl_keeps (f : Sys2Proof.Flit) (s : State) (hK0 : Keeps q n b k s) (k_mem : k.mem = none := by assumption) (k_sched : k.sched = none := by assumption) (k_coll : k.coll = none := by assumption) :
    Keeps q n b k (takeColl f s) := by
  unfold takeColl
  try dsimp only
  repeat' (first
    | (with_reducible first
        | assumption | apply takeChunkFlit_keeps | apply takeCollAgree_keeps | apply takeCollAck_keeps | apply takeCollAbort_keeps
        | apply dropFlit_keeps | apply Keeps.foldl | apply Keeps.foldl_fst | apply Keeps.foldl_snd | apply Keeps.ite | intro _)
    | dsimp only | (fail_if_no_progress refine Keeps.mk rfl ?_) | split)

theorem ejectFlit_keeps (port : Nat) (k0 : Nat) (slot : Nat) (held : Bool) (f : Sys2Proof.Flit) (s : State) (hK0 : Keeps q n b k s) (k_mem : k.mem = none := by assumption) (k_srqs : k.srqs = none := by assumption) (k_sched : k.sched = none := by assumption) (k_coll : k.coll = none := by assumption) :
    Keeps q n b k (ejectFlit port k0 slot held f s).1 := by
  unfold ejectFlit
  try dsimp only
  repeat' (first
    | (with_reducible first
        | assumption | apply takeColl_keeps | apply ejectInto_keeps | apply storeFlit_keeps | apply deflect_keeps | apply dropFlit_keeps
        | apply Keeps.foldl | apply Keeps.foldl_fst | apply Keeps.foldl_snd | apply Keeps.ite
        | refine Keeps.fst_elim ?_ (by with_reducible assumption) | intro _)
    | dsimp only | (fail_if_no_progress refine Keeps.mk rfl ?_) | split)

theorem sendSlot_keeps (o : Nat) (f : Sys2Proof.Flit) (s : State) (hK0 : Keeps q n b k s) :
    Keeps q n b k (sendSlot o f s) := by
  unfold sendSlot
  try dsimp only
  repeat' (first
    | (with_reducible first
        | assumption | apply dropFlit_keeps | apply sendFlit_keeps | apply Keeps.foldl | apply Keeps.foldl_fst | apply Keeps.foldl_snd
        | apply Keeps.ite | intro _)
    | dsimp only | (fail_if_no_progress refine Keeps.mk rfl ?_) | split)

theorem enterSlot_keeps (o : Nat) (d : Nat) (f : Sys2Proof.Flit) (s : State) (hK0 : Keeps q n b k s) :
    Keeps q n b k (enterSlot o d f s) := by
  unfold enterSlot
  try dsimp only
  repeat' (first
    | (with_reducible first
        | assumption | apply sendSlot_keeps | apply dropFlit_keeps | apply Keeps.foldl | apply Keeps.foldl_fst | apply Keeps.foldl_snd
        | apply Keeps.ite | intro _)
    | dsimp only | (fail_if_no_progress refine Keeps.mk rfl ?_) | split)

theorem execReassemblyTimeout_keeps (src : Nat) (tag : Nat) (s : State) (hK0 : Keeps q n b k s) :
    KeepsO q n b k (execReassemblyTimeout src tag s) := by
  unfold execReassemblyTimeout
  try dsimp only
  repeat' (first
    | (with_reducible first
        | assumption | apply dropFlit_keeps | apply fabMod_keeps | apply whileLit_keeps | apply advanceTo_keeps | apply KeepsO.next
        | apply KeepsO.ite | apply KeepsO.fault | apply KeepsO.refused | apply Keeps.foldl | apply Keeps.foldl_fst | apply Keeps.foldl_snd
        | apply Keeps.ite | refine KeepsO.elim ?_ (by with_reducible assumption) | intro _)
    | dsimp only | (fail_if_no_progress refine Keeps.mk rfl ?_) | split)

theorem turnFlit_keeps (k0 : Nat) (slot : Nat) (e : Nat) (held : Bool) (f : Sys2Proof.Flit) (s : State) (hK0 : Keeps q n b k s) :
    Keeps q n b k (turnFlit k0 slot e held f s).1 := by
  unfold turnFlit
  try dsimp only
  repeat' (first
    | (with_reducible first
        | assumption | apply deflect_keeps | apply dropFlit_keeps | apply fabMod_keeps | apply Keeps.foldl | apply Keeps.foldl_fst
        | apply Keeps.foldl_snd | apply Keeps.ite | refine Keeps.fst_elim ?_ (by with_reducible assumption) | intro _)
    | dsimp only | (fail_if_no_progress refine Keeps.mk rfl ?_) | split)

theorem routeFlit_keeps (port : Nat) (k0 : Nat) (slot : Nat) (held : Bool) (f : Sys2Proof.Flit) (s : State) (hK0 : Keeps q n b k s) (k_mem : k.mem = none := by assumption) (k_srqs : k.srqs = none := by assumption) (k_sched : k.sched = none := by assumption) (k_coll : k.coll = none := by assumption) :
    Keeps q n b k (routeFlit port k0 slot held f s).1 := by
  unfold routeFlit
  try dsimp only
  repeat' (first
    | (with_reducible first
        | assumption | apply turnFlit_keeps | apply ejectFlit_keeps | apply dropFlit_keeps | apply fabMod_keeps | apply Keeps.foldl
        | apply Keeps.foldl_fst | apply Keeps.foldl_snd | apply Keeps.ite | refine Keeps.fst_elim ?_ (by with_reducible assumption)
        | intro _)
    | dsimp only | (fail_if_no_progress refine Keeps.mk rfl ?_) | split)

theorem openSlot_keeps (port : Nat) (k0 : Nat) (slot : Nat) (f : Sys2Proof.Flit) (s : State) (hK0 : Keeps q n b k s) (k_mem : k.mem = none := by assumption) (k_srqs : k.srqs = none := by assumption) (k_sched : k.sched = none := by assumption) (k_coll : k.coll = none := by assumption) :
    Keeps q n b k (openSlot port k0 slot f s).1 := by
  unfold openSlot
  try dsimp only
  repeat' (first
    | (with_reducible first
        | assumption | apply routeFlit_keeps | apply takeStatus_keeps | apply takeMarker_keeps | apply fabMod_keeps | apply Keeps.foldl
        | apply Keeps.foldl_fst | apply Keeps.foldl_snd | apply Keeps.ite | refine Keeps.fst_elim ?_ (by with_reducible assumption)
        | intro _)
    | dsimp only | (fail_if_no_progress refine Keeps.mk rfl ?_) | split)

theorem passFlit_keeps (o : Nat) (slot : Nat) (f : Sys2Proof.Flit) (s : State) (hK0 : Keeps q n b k s) :
    Keeps q n b k (passFlit o slot f s) := by
  unfold passFlit
  try dsimp only
  repeat' (first
    | (with_reducible first
        | assumption | apply sendSlot_keeps | apply fabMod_keeps | apply Keeps.foldl | apply Keeps.foldl_fst | apply Keeps.foldl_snd
        | apply Keeps.ite | intro _)
    | dsimp only)

theorem purgeInject_keeps (s : State) (hK0 : Keeps q n b k s) :
    Keeps q n b k (purgeInject s) := by
  unfold purgeInject
  try dsimp only
  repeat' (first
    | (with_reducible first
        | assumption | apply fabMod_keeps | apply Keeps.foldl | apply Keeps.foldl_fst | apply Keeps.foldl_snd | apply Keeps.ite | intro _)
    | dsimp only)

theorem fillSlot_keeps (o : Nat) (slot : Nat) (claim : Bool) (pos : BitVec 6) (s : State) (hK0 : Keeps q n b k s) :
    Keeps q n b k (fillSlot o slot claim pos s) := by
  unfold fillSlot
  try dsimp only
  repeat' (first
    | (with_reducible first
        | assumption | apply purgeInject_keeps | apply enterSlot_keeps | apply sendSlot_keeps | apply finishCommits_keeps
        | apply fabMod_keeps | apply Keeps.foldl | apply Keeps.foldl_fst | apply Keeps.foldl_snd | apply Keeps.ite | intro _)
    | dsimp only | (fail_if_no_progress refine Keeps.mk rfl ?_) | split)

theorem ringArrive_keeps (port : Nat) (k0 : Nat) (slot : Nat) (f : Sys2Proof.Flit) (s : State) (hK0 : Keeps q n b k s) (k_mem : k.mem = none := by assumption) (k_srqs : k.srqs = none := by assumption) (k_sched : k.sched = none := by assumption) (k_coll : k.coll = none := by assumption) :
    Keeps q n b k (ringArrive port k0 slot f s) := by
  unfold ringArrive
  try dsimp only
  repeat' (first
    | (with_reducible first
        | assumption | apply fillSlot_keeps | apply passFlit_keeps | apply openSlot_keeps | apply dropFlit_keeps | apply hearFlit_keeps
        | apply Keeps.foldl | apply Keeps.foldl_fst | apply Keeps.foldl_snd | apply Keeps.ite
        | refine Keeps.fst_elim ?_ (by with_reducible assumption) | intro _)
    | dsimp only | (fail_if_no_progress refine Keeps.mk rfl ?_) | split)

theorem execRingFlitArrive_keeps (port : Nat) (slot : Nat) (f : Sys2Proof.Flit) (s : State) (hK0 : Keeps q n b k s) (k_mem : k.mem = none := by assumption) (k_srqs : k.srqs = none := by assumption) (k_sched : k.sched = none := by assumption) (k_coll : k.coll = none := by assumption) :
    KeepsO q n b k (execRingFlitArrive port slot f s) := by
  unfold execRingFlitArrive
  try dsimp only
  repeat' (first
    | (with_reducible first
        | assumption | apply ringArrive_keeps | apply whileLit_keeps | apply KeepsO.next | apply KeepsO.ite | apply KeepsO.fault
        | apply KeepsO.refused | apply Keeps.foldl | apply Keeps.foldl_fst | apply Keeps.foldl_snd | apply Keeps.ite
        | refine KeepsO.elim ?_ (by with_reducible assumption) | intro _)
    | dsimp only | (fail_if_no_progress refine Keeps.mk rfl ?_) | split)

theorem execSlotClaim_keeps (port : Nat) (slot : Nat) (f : Sys2Proof.Flit) (s : State) (hK0 : Keeps q n b k s) (k_mem : k.mem = none := by assumption) (k_srqs : k.srqs = none := by assumption) (k_sched : k.sched = none := by assumption) (k_coll : k.coll = none := by assumption) :
    KeepsO q n b k (execSlotClaim port slot f s) := by
  unfold execSlotClaim
  try dsimp only
  repeat' (first
    | (with_reducible first
        | assumption | apply ringArrive_keeps | apply whileLit_keeps | apply advanceTo_keeps | apply KeepsO.next | apply KeepsO.ite
        | apply KeepsO.fault | apply KeepsO.refused | apply Keeps.foldl | apply Keeps.foldl_fst | apply Keeps.foldl_snd | apply Keeps.ite
        | refine KeepsO.elim ?_ (by with_reducible assumption) | intro _)
    | dsimp only | (fail_if_no_progress refine Keeps.mk rfl ?_) | split)

theorem countHelmRx_keeps (n0 : Nat) (s : State) (hK0 : Keeps q n b k s) :
    Keeps q n b k (countHelmRx n0 s) := by
  unfold countHelmRx
  try dsimp only
  repeat' (with_reducible first | assumption | apply countHelm_keeps)

theorem runUnassigned_keeps (opcode : Nat) (c : Cmd) (s : State) (hK0 : Keeps q n b k s) :
    Keeps q n b k (runUnassigned opcode c s) := by
  unfold runUnassigned
  try dsimp only
  repeat' (first
    | (with_reducible first
        | assumption | apply runCmd_keeps | apply settleCmd_keeps | apply consumeSlot_keeps | apply cmdOk_keeps | apply cmdFail_keeps
        | apply Keeps.foldl | apply Keeps.foldl_fst | apply Keeps.foldl_snd | apply Keeps.ite | intro _)
    | dsimp only)

/-- Every command that a table of opcodes names keeps what is kept. -/
def KeepsTable (q : List Instr) (n : Nat) (b : Bool) (k : Kept) (l : List (Nat × (Cmd → State → Host.Outcome State Fault Refusal))) : Prop :=
  ∀ p ∈ l, ∀ c s, Keeps q n b k s → KeepsO q n b k (p.2 c s)

theorem KeepsTable.append {l m : List (Nat × (Cmd → State → Host.Outcome State Fault Refusal))} (h1 : KeepsTable q n b k l)
    (h2 : KeepsTable q n b k m) : KeepsTable q n b k (l ++ m) := fun p hp => (List.mem_append.1 hp).elim (h1 p) (h2 p)

theorem KeepsTable.cons {j : Nat} {f : Cmd → State → Host.Outcome State Fault Refusal}
    {l : List (Nat × (Cmd → State → Host.Outcome State Fault Refusal))} (hf : ∀ c s, Keeps q n b k s → KeepsO q n b k (f c s))
    (hl : KeepsTable q n b k l) : KeepsTable q n b k ((j, f) :: l) := by
  intro p hp
  rcases List.mem_cons.1 hp with rfl | hp
  · exact hf
  · exact hl p hp

theorem KeepsTable.nil : KeepsTable q n b k [] := fun _ hp => absurd hp List.not_mem_nil

theorem opcodes1_keeps (k_mem : k.mem = none := by assumption) (k_regions : k.regions = none := by assumption) (k_retired : k.retired = none := by assumption) (k_sqs : k.sqs = none := by assumption) (k_srqs : k.srqs = none := by assumption) (k_sched : k.sched = none := by assumption) (k_coll : k.coll = none := by assumption) (k_cache : k.cache = none := by assumption) (k_opers : k.opers = none := by assumption) (k_sec : k.sec = none := by assumption) (k_power : k.power = none := by assumption) (k_ceilings : k.ceilings = none := by assumption) : KeepsTable q n b k opcodes1 :=
  .cons (fun _ _ h => execDevQuery_keeps _ _ h) <|
  .cons (fun _ _ h => execDevProfile_keeps _ _ h) <|
  .cons (fun _ _ h => execDevTime_keeps _ _ h) <|
  .cons (fun _ _ h => execDevReset_keeps _ _ h) <|
  .cons (fun _ _ h => execDevPps_keeps _ _ h) <|
  .cons (fun _ _ h => execFnQuery_keeps _ _ h) <|
  .cons (fun _ _ h => execFnStop_keeps _ _ h) <|
  .cons (fun _ _ h => execFnStart_keeps _ _ _ h) <|
  .cons (fun _ _ h => execFnReset_keeps _ _ _ h) <|
  .cons (fun _ _ h => execFnAttach_keeps _ _ h) <|
  .cons (fun _ _ h => execFnLevel_keeps _ _ h) <|
  .cons (fun _ _ h => execFnRetain_keeps _ _ h) <|
  .cons (fun _ _ h => execMrSpace_keeps _ _ h) <|
  .cons (fun _ _ h => execMrRegister_keeps _ _ h) <|
  .nil

theorem opcodes2_keeps (k_mem : k.mem = none := by assumption) (k_regions : k.regions = none := by assumption) (k_retired : k.retired = none := by assumption) (k_sqs : k.sqs = none := by assumption) (k_srqs : k.srqs = none := by assumption) (k_sched : k.sched = none := by assumption) (k_coll : k.coll = none := by assumption) (k_cache : k.cache = none := by assumption) (k_opers : k.opers = none := by assumption) (k_sec : k.sec = none := by assumption) (k_power : k.power = none := by assumption) (k_ceilings : k.ceilings = none := by assumption) : KeepsTable q n b k opcodes2 :=
  .cons (fun _ _ h => execMrDeregister_keeps _ _ h) <|
  .cons (fun _ _ h => execMrRekey_keeps _ _ h) <|
  .cons (fun _ _ h => execMrQuery_keeps _ _ h) <|
  .cons (fun _ _ h => execMrMap_keeps _ _ h) <|
  .cons (fun _ _ h => execMrUnmap_keeps _ _ h) <|
  .cons (fun _ _ h => execMrSync_keeps _ _ h) <|
  .cons (fun _ _ h => execMrFaultReply_keeps _ _ h) <|
  .cons (fun _ _ h => execMrBar4Open_keeps _ _ h) <|
  .cons (fun _ _ h => execMrBar4Close_keeps _ _ h) <|
  .cons (fun _ _ h => execMrSpurGrant_keeps _ _ h) <|
  .cons (fun _ _ h => execQpCreate_keeps _ _ h) <|
  .cons (fun _ _ h => execQpConnect_keeps _ _ h) <|
  .cons (fun _ _ h => execQpQuery_keeps _ _ h) <|
  .cons (fun _ _ h => execQpReset_keeps _ _ h) <|
  .nil

theorem opcodes3_keeps (k_mem : k.mem = none := by assumption) (k_regions : k.regions = none := by assumption) (k_retired : k.retired = none := by assumption) (k_sqs : k.sqs = none := by assumption) (k_srqs : k.srqs = none := by assumption) (k_sched : k.sched = none := by assumption) (k_coll : k.coll = none := by assumption) (k_cache : k.cache = none := by assumption) (k_opers : k.opers = none := by assumption) (k_sec : k.sec = none := by assumption) (k_power : k.power = none := by assumption) (k_ceilings : k.ceilings = none := by assumption) : KeepsTable q n b k opcodes3 :=
  .cons (fun _ _ h => execQpDestroy_keeps _ _ h) <|
  .cons (fun _ _ h => execQpAdmit_keeps _ _ h) <|
  .cons (fun _ _ h => execQpRelease_keeps _ _ h) <|
  .cons (fun _ _ h => execQpAdmitQuery_keeps _ _ h) <|
  .cons (fun _ _ h => execSrqCreate_keeps _ _ h) <|
  .cons (fun _ _ h => execSrqDestroy_keeps _ _ h) <|
  .cons (fun _ _ h => execEhtPort_keeps _ _ h) <|
  .cons (fun _ _ h => execEhtAddr_keeps _ _ h) <|
  .cons (fun _ _ h => execRingSqCreate_keeps _ _ h) <|
  .cons (fun _ _ h => execRingCqCreate_keeps _ _ h) <|
  .cons (fun _ _ h => execRingSched_keeps _ _ h) <|
  .cons (fun _ _ h => execRingModerate_keeps _ _ h) <|
  .cons (fun _ _ h => execRingDestroy_keeps _ _ h) <|
  .cons (fun _ _ h => execRingRetry_keeps _ _ h) <|
  .nil

theorem opcodes4_keeps (k_mem : k.mem = none := by assumption) (k_regions : k.regions = none := by assumption) (k_retired : k.retired = none := by assumption) (k_sqs : k.sqs = none := by assumption) (k_srqs : k.srqs = none := by assumption) (k_sched : k.sched = none := by assumption) (k_coll : k.coll = none := by assumption) (k_cache : k.cache = none := by assumption) (k_opers : k.opers = none := by assumption) (k_sec : k.sec = none := by assumption) (k_power : k.power = none := by assumption) (k_ceilings : k.ceilings = none := by assumption) : KeepsTable q n b k opcodes4 :=
  .cons (fun _ _ h => execRingQuota_keeps _ _ h) <|
  .cons (fun _ _ h => execHostWatchdog_keeps _ _ h) <|
  .cons (fun _ _ h => execCcClass_keeps _ _ h) <|
  .cons (fun _ _ h => execQosShare_keeps _ _ h) <|
  .cons (fun _ _ h => execSchedTc_keeps _ _ h) <|
  .cons (fun _ _ h => execSchedQp_keeps _ _ h) <|
  .cons (fun _ _ h => execShaperSet_keeps _ _ h) <|
  .cons (fun _ _ h => execPolicerSet_keeps _ _ h) <|
  .cons (fun _ _ h => execSndRing_keeps _ _ h) <|
  .cons (fun _ _ h => execSndAdd_keeps _ _ h) <|
  .cons (fun _ _ h => execSndRemove_keeps _ _ h) <|
  .cons (fun _ _ h => execCntRead_keeps _ _ h) <|
  .cons (fun _ _ h => execCntNotify_keeps _ _ h) <|
  .cons (fun _ _ h => execEthPortSet_keeps _ _ h) <|
  .nil

theorem opcodes5_keeps (k_mem : k.mem = none := by assumption) (k_regions : k.regions = none := by assumption) (k_retired : k.retired = none := by assumption) (k_sqs : k.sqs = none := by assumption) (k_srqs : k.srqs = none := by assumption) (k_sched : k.sched = none := by assumption) (k_coll : k.coll = none := by assumption) (k_cache : k.cache = none := by assumption) (k_opers : k.opers = none := by assumption) (k_sec : k.sec = none := by assumption) (k_power : k.power = none := by assumption) (k_ceilings : k.ceilings = none := by assumption) : KeepsTable q n b k opcodes5 :=
  .cons (fun _ _ h => execEthPortQuery_keeps _ _ h) <|
  .cons (fun _ _ h => execEthPfc_keeps _ _ h) <|
  .cons (fun _ _ h => execEthFrames_keeps _ _ h) <|
  .cons (fun _ _ h => execEthFrameSend_keeps _ _ h) <|
  .cons (fun _ _ h => execEthMcast_keeps _ _ h) <|
  .cons (fun _ _ h => execHelmSet_keeps _ _ h) <|
  .cons (fun _ _ h => execHelmQuery_keeps _ _ h) <|
  .cons (fun _ _ h => execCollSetup_keeps _ _ h) <|
  .cons (fun _ _ h => execCollTeardown_keeps _ _ h) <|
  .cons (fun _ _ h => execCollQuery_keeps _ _ h) <|
  .cons (fun _ _ h => execCollAbortCmd_keeps _ _ h) <|
  .cons (fun _ _ h => execKvPoolCreate_keeps _ _ h) <|
  .cons (fun _ _ h => execKvPoolDestroy_keeps _ _ h) <|
  .cons (fun _ _ h => execKvPoolQuery_keeps _ _ h) <|
  .nil

theorem opcodes6_keeps (k_mem : k.mem = none := by assumption) (k_regions : k.regions = none := by assumption) (k_retired : k.retired = none := by assumption) (k_sqs : k.sqs = none := by assumption) (k_srqs : k.srqs = none := by assumption) (k_sched : k.sched = none := by assumption) (k_coll : k.coll = none := by assumption) (k_cache : k.cache = none := by assumption) (k_opers : k.opers = none := by assumption) (k_sec : k.sec = none := by assumption) (k_power : k.power = none := by assumption) (k_ceilings : k.ceilings = none := by assumption) : KeepsTable q n b k opcodes6 :=
  .cons (fun _ _ h => execKvSeal_keeps _ _ h) <|
  .cons (fun _ _ h => execKvUserReset_keeps _ _ h) <|
  .cons (fun _ _ h => execKvUserPin_keeps _ _ h) <|
  .cons (fun _ _ h => execKvUserUnpin_keeps _ _ h) <|
  .cons (fun _ _ h => execKvPartner_keeps _ _ h) <|
  .cons (fun _ _ h => execPwrGrant_keeps _ _ h) <|
  .cons (fun _ _ h => execPwrFallback_keeps _ _ h) <|
  .cons (fun _ _ h => execPwrQuery_keeps _ _ h) <|
  .cons (fun _ _ h => execPwrLearn_keeps _ _ h) <|
  .cons (fun _ _ h => execSecIdentity_keeps _ _ h) <|
  .cons (fun _ _ h => execSecAttest_keeps _ _ h) <|
  .cons (fun _ _ h => execSecKemOffer_keeps _ _ h) <|
  .cons (fun _ _ h => execSecKemAccept_keeps _ _ h) <|
  .cons (fun _ _ h => execSecKemFinish_keeps _ _ h) <|
  .nil

theorem opcodes7_keeps (k_mem : k.mem = none := by assumption) (k_regions : k.regions = none := by assumption) (k_retired : k.retired = none := by assumption) (k_sqs : k.sqs = none := by assumption) (k_srqs : k.srqs = none := by assumption) (k_sched : k.sched = none := by assumption) (k_coll : k.coll = none := by assumption) (k_cache : k.cache = none := by assumption) (k_opers : k.opers = none := by assumption) (k_sec : k.sec = none := by assumption) (k_power : k.power = none := by assumption) (k_ceilings : k.ceilings = none := by assumption) : KeepsTable q n b k opcodes7 :=
  .cons (fun _ _ h => execSecAccordDrop_keeps _ _ h) <|
  .cons (fun _ _ h => execSecQpSeal_keeps _ _ h) <|
  .cons (fun _ _ h => execSecQpRekey_keeps _ _ h) <|
  .cons (fun _ _ h => execSecQpQuery_keeps _ _ h) <|
  .cons (fun _ _ h => execSecFwBegin_keeps _ _ h) <|
  .cons (fun _ _ h => execSecFwChunk_keeps _ _ h) <|
  .cons (fun _ _ h => execSecFwCommit_keeps _ _ h) <|
  .cons (fun _ _ h => execSecSelftest_keeps _ _ h) <|
  .cons (fun _ _ h => execSecZeroize_keeps _ _ h) <|
  .cons (fun _ _ h => execSecOfficer_keeps _ _ h) <|
  .cons (fun _ _ h => execSecLogin_keeps _ _ h) <|
  .cons (fun _ _ h => execFabIdent_keeps _ _ h) <|
  .cons (fun _ _ h => execFabPortSet_keeps _ _ h) <|
  .cons (fun _ _ h => execFabPortQuery_keeps _ _ h) <|
  .nil

theorem opcodes8_keeps (k_mem : k.mem = none := by assumption) (k_regions : k.regions = none := by assumption) (k_retired : k.retired = none := by assumption) (k_sqs : k.sqs = none := by assumption) (k_srqs : k.srqs = none := by assumption) (k_sched : k.sched = none := by assumption) (k_coll : k.coll = none := by assumption) (k_cache : k.cache = none := by assumption) (k_opers : k.opers = none := by assumption) (k_sec : k.sec = none := by assumption) (k_power : k.power = none := by assumption) (k_ceilings : k.ceilings = none := by assumption) : KeepsTable q n b k opcodes8 :=
  .cons (fun _ _ h => execFabRingQuery_keeps _ _ h) <|
  .cons (fun _ _ h => execSpurStream_keeps _ _ h) <|
  .cons (fun _ _ h => execRouteWrite_keeps _ _ h) <|
  .cons (fun _ _ h => execRouteArm_keeps _ _ h) <|
  .cons (fun _ _ h => execRouteDisarm_keeps _ _ h) <|
  .cons (fun _ _ h => execRouteCommit_keeps _ _ h) <|
  .cons (fun _ _ h => execRouteQuery_keeps _ _ h) <|
  .cons (fun _ _ h => execRouteDrain_keeps _ _ h) <|
  .cons (fun _ _ h => execDiagResults_keeps _ _ h) <|
  .cons (fun _ _ h => execDiagSelftest_keeps _ _ h) <|
  .cons (fun _ _ h => execDiagInventory_keeps _ _ h) <|
  .cons (fun _ _ h => execDiagLoopback_keeps _ _ h) <|
  .cons (fun _ _ h => execFaultQuery_keeps _ _ h) <|
  .cons (fun _ _ h => execFaultAck_keeps _ _ h) <|
  .nil

theorem opcodeTable_keeps (k_mem : k.mem = none := by assumption) (k_regions : k.regions = none := by assumption) (k_retired : k.retired = none := by assumption) (k_sqs : k.sqs = none := by assumption) (k_srqs : k.srqs = none := by assumption) (k_sched : k.sched = none := by assumption) (k_coll : k.coll = none := by assumption) (k_cache : k.cache = none := by assumption) (k_opers : k.opers = none := by assumption) (k_sec : k.sec = none := by assumption) (k_power : k.power = none := by assumption) (k_ceilings : k.ceilings = none := by assumption) : KeepsTable q n b k opcodeTable :=
  (.append (.append (.append (.append (.append (.append (.append opcodes1_keeps opcodes2_keeps) opcodes3_keeps) opcodes4_keeps) opcodes5_keeps)
    opcodes6_keeps) opcodes7_keeps) opcodes8_keeps)

theorem runOpcode_keeps (opcode : Nat) (c : Cmd) (s : State) (h : Keeps q n b k s) (k_mem : k.mem = none := by assumption) (k_regions : k.regions = none := by assumption) (k_retired : k.retired = none := by assumption) (k_sqs : k.sqs = none := by assumption) (k_srqs : k.srqs = none := by assumption) (k_sched : k.sched = none := by assumption) (k_coll : k.coll = none := by assumption) (k_cache : k.cache = none := by assumption) (k_opers : k.opers = none := by assumption) (k_sec : k.sec = none := by assumption) (k_power : k.power = none := by assumption) (k_ceilings : k.ceilings = none := by assumption) : Keeps q n b k (runOpcode opcode c s) := by
  unfold runOpcode
  split
  · rename_i p hp
    have ht : KeepsTable q n b k opcodeTable := opcodeTable_keeps
    have hk := ht p (List.mem_of_find?_eq_some hp) c s h
    split
    · exact hk _ ‹_›
    · exact h
    · exact h
  · exact runUnassigned_keeps _ _ _ h

theorem runHelm_keeps (f : Sys2Proof.HelmFrame) (s : State) (hK0 : Keeps q n b k s) (k_mem : k.mem = none := by assumption) (k_regions : k.regions = none := by assumption) (k_retired : k.retired = none := by assumption) (k_sqs : k.sqs = none := by assumption) (k_srqs : k.srqs = none := by assumption) (k_sched : k.sched = none := by assumption) (k_coll : k.coll = none := by assumption) (k_cache : k.cache = none := by assumption) (k_opers : k.opers = none := by assumption) (k_sec : k.sec = none := by assumption) (k_power : k.power = none := by assumption) (k_ceilings : k.ceilings = none := by assumption) :
    Keeps q n b k (runHelm f s) := by
  unfold runHelm
  try dsimp only
  repeat' (with_reducible first | assumption | apply runOpcode_keeps)

theorem drainHelm_keeps (s : State) (h : Keeps q n b k s) (k_mem : k.mem = none := by assumption) (k_regions : k.regions = none := by assumption) (k_retired : k.retired = none := by assumption) (k_sqs : k.sqs = none := by assumption) (k_srqs : k.srqs = none := by assumption) (k_sched : k.sched = none := by assumption) (k_coll : k.coll = none := by assumption) (k_cache : k.cache = none := by assumption) (k_opers : k.opers = none := by assumption) (k_sec : k.sec = none := by assumption) (k_power : k.power = none := by assumption) (k_ceilings : k.ceilings = none := by assumption) : Keeps q n b k (drainHelm s) :=
  Keeps.foldl _ (fun _ _ ht => runHelm_keeps _ _ ht) (helmMod_bounded_keeps _ _ (fun hh => ⟨hh.1, Nat.zero_le _⟩) h)

theorem endScan_keeps (fn : Nat) (s : State) (hK0 : Keeps q n b k s) :
    Keeps q n b k (endScan fn s) := by
  unfold endScan
  try dsimp only
  repeat' (with_reducible first | assumption | apply chanMod_keeps)

theorem scanCommands_keeps (fn : Nat) (l : List Sys2Proof.SlotRead) (s : State) (hK0 : Keeps q n b k s) (k_mem : k.mem = none := by assumption) (k_regions : k.regions = none := by assumption) (k_retired : k.retired = none := by assumption) (k_sqs : k.sqs = none := by assumption) (k_srqs : k.srqs = none := by assumption) (k_sched : k.sched = none := by assumption) (k_coll : k.coll = none := by assumption) (k_cache : k.cache = none := by assumption) (k_opers : k.opers = none := by assumption) (k_sec : k.sec = none := by assumption) (k_power : k.power = none := by assumption) (k_ceilings : k.ceilings = none := by assumption) :
    Keeps q n b k (scanCommands fn l s) := by
  induction l generalizing fn s with
  | nil =>
    unfold scanCommands
    try dsimp only
    repeat' (with_reducible first | assumption)
  | cons hd tl ih =>
    unfold scanCommands
    try dsimp only
    repeat' (first
      | (with_reducible first
          | assumption | apply ih | apply endScan_keeps | apply runOpcode_keeps | apply Keeps.foldl | apply Keeps.foldl_fst
          | apply Keeps.foldl_snd | apply Keeps.ite | intro _)
      | dsimp only | (fail_if_no_progress refine Keeps.mk rfl ?_) | split)

theorem execCmdDoorbell_keeps (fn : Nat) (slots : List Sys2Proof.SlotRead) (fqHead : Option Sys2Proof.W32) (s : State) (hK0 : Keeps q n b k s) (k_mem : k.mem = none := by assumption) (k_regions : k.regions = none := by assumption) (k_retired : k.retired = none := by assumption) (k_sqs : k.sqs = none := by assumption) (k_srqs : k.srqs = none := by assumption) (k_sched : k.sched = none := by assumption) (k_coll : k.coll = none := by assumption) (k_cache : k.cache = none := by assumption) (k_opers : k.opers = none := by assumption) (k_sec : k.sec = none := by assumption) (k_power : k.power = none := by assumption) (k_ceilings : k.ceilings = none := by assumption) :
    KeepsO q n b k (execCmdDoorbell fn slots fqHead s) := by
  unfold execCmdDoorbell
  try dsimp only
  repeat' (first
    | (with_reducible first
        | assumption | apply scanCommands_keeps | apply startScan_keeps | apply touchWatchdog_keeps | apply readFqHead_keeps
        | apply hearHost_keeps | apply KeepsO.next | apply KeepsO.ite | apply KeepsO.fault | apply KeepsO.refused | apply Keeps.foldl
        | apply Keeps.foldl_fst | apply Keeps.foldl_snd | apply Keeps.ite | intro _)
    | dsimp only | (fail_if_no_progress refine Keeps.mk rfl ?_) | split)

theorem execFwRestartComplete_keeps (verified : Bool) (s : State) (h : Keeps q n b k s) (k_mem : k.mem = none := by assumption) (k_regions : k.regions = none := by assumption) (k_retired : k.retired = none := by assumption) (k_sqs : k.sqs = none := by assumption) (k_srqs : k.srqs = none := by assumption) (k_sched : k.sched = none := by assumption) (k_coll : k.coll = none := by assumption) (k_cache : k.cache = none := by assumption) (k_opers : k.opers = none := by assumption) (k_sec : k.sec = none := by assumption) (k_power : k.power = none := by assumption) (k_ceilings : k.ceilings = none := by assumption) : KeepsO q n b k (execFwRestartComplete verified s) := by
  unfold execFwRestartComplete
  refine KeepsO.ite (fun hs => ?_) fun _ => KeepsO.next h
  obtain rfl := h.untripped (by rw [hs]; decide)
  refine KeepsO.ite (fun _ => KeepsO.next (drainHelm_keeps _ (Keeps.foldl _ (fun _ _ ht => pumpPartition_keeps _ _ ht) ?_))) fun _ =>
    KeepsO.next (drainHelm_keeps _ ?_)
  · exact devMod_live_keeps _ _ rfl (takeFresh_keeps _ (advanceTo_keeps _ _ h))
  · exact devMod_live_keeps _ _ rfl (takeFresh_keeps _ (advanceTo_keeps _ _ h))

theorem execHelmCommand_keeps (f : HelmFrame) (s : State) (h : Keeps q n b k s) (k_mem : k.mem = none := by assumption) (k_regions : k.regions = none := by assumption) (k_retired : k.retired = none := by assumption) (k_sqs : k.sqs = none := by assumption) (k_srqs : k.srqs = none := by assumption) (k_sched : k.sched = none := by assumption) (k_coll : k.coll = none := by assumption) (k_cache : k.cache = none := by assumption) (k_opers : k.opers = none := by assumption) (k_sec : k.sec = none := by assumption) (k_power : k.power = none := by assumption) (k_ceilings : k.ceilings = none := by assumption) : KeepsO q n b k (execHelmCommand f s) := by
  have h1 := countHelmRx_keeps f.length s h
  unfold execHelmCommand
  refine KeepsO.ite (fun _ => KeepsO.next h) fun _ => ?_
  refine KeepsO.ite (fun _ => KeepsO.next (countHelm_keeps _ _ _ h)) fun _ => ?_
  refine KeepsO.ite (fun _ => KeepsO.next (countHelm_keeps _ _ _ h)) fun _ => ?_
  refine KeepsO.ite (fun _ => KeepsO.next (countHelm_keeps _ _ _ h1)) fun _ => ?_
  refine KeepsO.ite (fun _ => KeepsO.next (countHelm_keeps _ _ _ h1)) fun ht => ?_
  refine KeepsO.ite (fun _ => KeepsO.next (helmMod_bounded_keeps _ _ (fun hh => ⟨hh.1, ?_⟩) h1)) fun _ => KeepsO.next (runHelm_keeps _ _ h1)
  have hw : helmTakes f (countHelmRx f.length s) = true := by simpa using ht
  unfold helmTakes at hw
  simp only [Bool.and_eq_true] at hw
  have hl := of_decide_eq_true hw.2
  unfold helmWaiting at hl
  simp only [List.length_append, List.length_singleton]
  omega

theorem execReplyHeadWrite_keeps (fn : Nat) (value : Sys2Proof.W32) (slots : List Sys2Proof.SlotRead) (s : State) (hK0 : Keeps q n b k s) (k_mem : k.mem = none := by assumption) (k_regions : k.regions = none := by assumption) (k_retired : k.retired = none := by assumption) (k_sqs : k.sqs = none := by assumption) (k_srqs : k.srqs = none := by assumption) (k_sched : k.sched = none := by assumption) (k_coll : k.coll = none := by assumption) (k_cache : k.cache = none := by assumption) (k_opers : k.opers = none := by assumption) (k_sec : k.sec = none := by assumption) (k_power : k.power = none := by assumption) (k_ceilings : k.ceilings = none := by assumption) :
    KeepsO q n b k (execReplyHeadWrite fn value slots s) := by
  unfold execReplyHeadWrite
  try dsimp only
  repeat' (first
    | (with_reducible first
        | assumption | apply scanCommands_keeps | apply takeReplyHead_keeps | apply hearHost_keeps | apply KeepsO.next | apply KeepsO.ite
        | apply KeepsO.fault | apply KeepsO.refused | apply Keeps.foldl | apply Keeps.foldl_fst | apply Keeps.foldl_snd | apply Keeps.ite
        | intro _)
    | dsimp only)

theorem execRestartComplete_keeps (imageOk : Bool) (crypto : W64) (s : State) (h : Keeps q n b k s) (k_mem : k.mem = none := by assumption) (k_regions : k.regions = none := by assumption) (k_retired : k.retired = none := by assumption) (k_sqs : k.sqs = none := by assumption) (k_srqs : k.srqs = none := by assumption) (k_sched : k.sched = none := by assumption) (k_coll : k.coll = none := by assumption) (k_cache : k.cache = none := by assumption) (k_opers : k.opers = none := by assumption) (k_sec : k.sec = none := by assumption) (k_power : k.power = none := by assumption) (k_ceilings : k.ceilings = none := by assumption) (k_start : k.start = none := by assumption) :
    KeepsO q n b k (execRestartComplete imageOk crypto s) := by
  unfold execRestartComplete
  refine KeepsO.ite (fun hs => ?_) fun _ => KeepsO.next h
  obtain rfl := h.untripped (by rw [hs]; decide)
  exact KeepsO.next (drainHelm_keeps _ (endStart_keeps _ _ _ _ _ _ (fun _ ht => restartWork_keeps _ ht) h))

theorem rereadCommands_keeps (fn : Nat) (slots : List Sys2Proof.SlotRead) (s : State) (hK0 : Keeps q n b k s) (k_mem : k.mem = none := by assumption) (k_regions : k.regions = none := by assumption) (k_retired : k.retired = none := by assumption) (k_sqs : k.sqs = none := by assumption) (k_srqs : k.srqs = none := by assumption) (k_sched : k.sched = none := by assumption) (k_coll : k.coll = none := by assumption) (k_cache : k.cache = none := by assumption) (k_opers : k.opers = none := by assumption) (k_sec : k.sec = none := by assumption) (k_power : k.power = none := by assumption) (k_ceilings : k.ceilings = none := by assumption) :
    Keeps q n b k (rereadCommands fn slots s) := by
  unfold rereadCommands
  try dsimp only
  repeat' (first
    | (with_reducible first
        | assumption | apply scanCommands_keeps | apply chanMod_keeps | apply advanceTo_keeps | apply Keeps.foldl | apply Keeps.foldl_fst
        | apply Keeps.foldl_snd | apply Keeps.ite | intro _)
    | dsimp only | (fail_if_no_progress refine Keeps.mk rfl ?_) | split)

theorem execRingReread_keeps (fn ring : Nat) (found : Sys2Proof.Reread) (s : State) (hK0 : Keeps q n b k s) (k_mem : k.mem = none := by assumption) (k_regions : k.regions = none := by assumption) (k_retired : k.retired = none := by assumption) (k_sqs : k.sqs = none := by assumption) (k_srqs : k.srqs = none := by assumption) (k_sched : k.sched = none := by assumption) (k_coll : k.coll = none := by assumption) (k_cache : k.cache = none := by assumption) (k_opers : k.opers = none := by assumption) (k_sec : k.sec = none := by assumption) (k_power : k.power = none := by assumption) (k_ceilings : k.ceilings = none := by assumption) :
    KeepsO q n b k (execRingReread fn ring found s) := by
  unfold execRingReread
  try dsimp only
  repeat' (first
    | (with_reducible first
        | assumption | apply rereadCommands_keeps | apply rereadRing_keeps | apply whileLit_keeps | apply KeepsO.next | apply KeepsO.ite
        | apply KeepsO.fault | apply KeepsO.refused | apply Keeps.foldl | apply Keeps.foldl_fst | apply Keeps.foldl_snd | apply Keeps.ite
        | refine KeepsO.elim ?_ (by with_reducible assumption) | intro _)
    | dsimp only | (fail_if_no_progress refine Keeps.mk rfl ?_) | split)

theorem execStartComplete_keeps (imageOk : Bool) (crypto : W64) (s : State) (h : Keeps q n b k s) (k_mem : k.mem = none := by assumption) (k_regions : k.regions = none := by assumption) (k_retired : k.retired = none := by assumption) (k_sqs : k.sqs = none := by assumption) (k_srqs : k.srqs = none := by assumption) (k_sched : k.sched = none := by assumption) (k_coll : k.coll = none := by assumption) (k_cache : k.cache = none := by assumption) (k_opers : k.opers = none := by assumption) (k_sec : k.sec = none := by assumption) (k_power : k.power = none := by assumption) (k_ceilings : k.ceilings = none := by assumption) (k_start : k.start = none := by assumption) :
    KeepsO q n b k (execStartComplete imageOk crypto s) := by
  unfold execStartComplete
  refine KeepsO.ite (fun hs => ?_) fun _ => KeepsO.next h
  obtain rfl := h.untripped (by rw [hs]; decide)
  exact KeepsO.next (drainHelm_keeps _ (Keeps.ite (fun _ => endStart_keeps _ _ _ _ _ _ (fun _ ht => ht) h) fun _ =>
    endStart_keeps _ _ _ _ _ _ (fun _ ht => ht) h))

end Sys2Proof.Machine
end

