-- ==== Sys2Proof/Laws/State.lean ====
section
/-! SUPPORT. The field lemmas of the shared updates of State: what each update leaves in each field, so that no proof unfolds a record update. -/

namespace Sys2Proof.Machine

set_option Elab.async false

variable (s : State)

/-! ### `fnMod` -/

@[simp] theorem fnMod_fns (fn : Nat) (f : Function → Function) : (fnMod fn f s).fns = tabMod s.fns fn f := rfl
@[simp] theorem fnMod_dev (fn : Nat) (f : Function → Function) : (fnMod fn f s).dev = s.dev := rfl
@[simp] theorem fnMod_pcie (fn : Nat) (f : Function → Function) : (fnMod fn f s).pcie = s.pcie := rfl
@[simp] theorem fnMod_clocks (fn : Nat) (f : Function → Function) : (fnMod fn f s).clocks = s.clocks := rfl
@[simp] theorem fnMod_spaces (fn : Nat) (f : Function → Function) : (fnMod fn f s).spaces = s.spaces := rfl
@[simp] theorem fnMod_sqs (fn : Nat) (f : Function → Function) : (fnMod fn f s).sqs = s.sqs := rfl
@[simp] theorem fnMod_cqs (fn : Nat) (f : Function → Function) : (fnMod fn f s).cqs = s.cqs := rfl
@[simp] theorem fnMod_commands (fn : Nat) (f : Function → Function) : (fnMod fn f s).commands = s.commands := rfl
@[simp] theorem fnMod_heldReplies (fn : Nat) (f : Function → Function) : (fnMod fn f s).heldReplies = s.heldReplies := rfl
@[simp] theorem fnMod_regions (fn : Nat) (f : Function → Function) : (fnMod fn f s).regions = s.regions := rfl
@[simp] theorem fnMod_retired (fn : Nat) (f : Function → Function) : (fnMod fn f s).retired = s.retired := rfl
@[simp] theorem fnMod_suspended (fn : Nat) (f : Function → Function) : (fnMod fn f s).suspended = s.suspended := rfl
@[simp] theorem fnMod_missSlots (fn : Nat) (f : Function → Function) : (fnMod fn f s).missSlots = s.missSlots := rfl
@[simp] theorem fnMod_missWait (fn : Nat) (f : Function → Function) : (fnMod fn f s).missWait = s.missWait := rfl
@[simp] theorem fnMod_journal (fn : Nat) (f : Function → Function) : (fnMod fn f s).journal = s.journal := rfl
@[simp] theorem fnMod_qps (fn : Nat) (f : Function → Function) : (fnMod fn f s).qps = s.qps := rfl
@[simp] theorem fnMod_srqs (fn : Nat) (f : Function → Function) : (fnMod fn f s).srqs = s.srqs := rfl
@[simp] theorem fnMod_sched (fn : Nat) (f : Function → Function) : (fnMod fn f s).sched = s.sched := rfl
@[simp] theorem fnMod_fabric (fn : Nat) (f : Function → Function) : (fnMod fn f s).fabric = s.fabric := rfl
@[simp] theorem fnMod_coll (fn : Nat) (f : Function → Function) : (fnMod fn f s).coll = s.coll := rfl
@[simp] theorem fnMod_cache (fn : Nat) (f : Function → Function) : (fnMod fn f s).cache = s.cache := rfl
@[simp] theorem fnMod_ramp (fn : Nat) (f : Function → Function) : (fnMod fn f s).ramp = s.ramp := rfl
@[simp] theorem fnMod_opers (fn : Nat) (f : Function → Function) : (fnMod fn f s).opers = s.opers := rfl
@[simp] theorem fnMod_tarns (fn : Nat) (f : Function → Function) : (fnMod fn f s).tarns = s.tarns := rfl
@[simp] theorem fnMod_eth (fn : Nat) (f : Function → Function) : (fnMod fn f s).eth = s.eth := rfl
@[simp] theorem fnMod_helm (fn : Nat) (f : Function → Function) : (fnMod fn f s).helm = s.helm := rfl
@[simp] theorem fnMod_sec (fn : Nat) (f : Function → Function) : (fnMod fn f s).sec = s.sec := rfl
@[simp] theorem fnMod_power (fn : Nat) (f : Function → Function) : (fnMod fn f s).power = s.power := rfl
@[simp] theorem fnMod_thermal (fn : Nat) (f : Function → Function) : (fnMod fn f s).thermal = s.thermal := rfl
@[simp] theorem fnMod_droop (fn : Nat) (f : Function → Function) : (fnMod fn f s).droop = s.droop := rfl
@[simp] theorem fnMod_ceilings (fn : Nat) (f : Function → Function) : (fnMod fn f s).ceilings = s.ceilings := rfl
@[simp] theorem fnMod_start (fn : Nat) (f : Function → Function) : (fnMod fn f s).start = s.start := rfl
@[simp] theorem fnMod_faults (fn : Nat) (f : Function → Function) : (fnMod fn f s).faults = s.faults := rfl
@[simp] theorem fnMod_jtag (fn : Nat) (f : Function → Function) : (fnMod fn f s).jtag = s.jtag := rfl
@[simp] theorem fnMod_out (fn : Nat) (f : Function → Function) : (fnMod fn f s).out = s.out := rfl
@[simp] theorem fnMod_hostAt (fn : Nat) (f : Function → Function) : (fnMod fn f s).hostAt = s.hostAt := rfl
@[simp] theorem fnMod_pending (fn : Nat) (f : Function → Function) : (fnMod fn f s).pending = s.pending := rfl

/-! ### `spaceMod` -/

@[simp] theorem spaceMod_spaces (fn : Nat) (f : AddrSpace → AddrSpace) : (spaceMod fn f s).spaces = tabMod s.spaces fn f := rfl
@[simp] theorem spaceMod_dev (fn : Nat) (f : AddrSpace → AddrSpace) : (spaceMod fn f s).dev = s.dev := rfl
@[simp] theorem spaceMod_pcie (fn : Nat) (f : AddrSpace → AddrSpace) : (spaceMod fn f s).pcie = s.pcie := rfl
@[simp] theorem spaceMod_clocks (fn : Nat) (f : AddrSpace → AddrSpace) : (spaceMod fn f s).clocks = s.clocks := rfl
@[simp] theorem spaceMod_fns (fn : Nat) (f : AddrSpace → AddrSpace) : (spaceMod fn f s).fns = s.fns := rfl
@[simp] theorem spaceMod_sqs (fn : Nat) (f : AddrSpace → AddrSpace) : (spaceMod fn f s).sqs = s.sqs := rfl
@[simp] theorem spaceMod_cqs (fn : Nat) (f : AddrSpace → AddrSpace) : (spaceMod fn f s).cqs = s.cqs := rfl
@[simp] theorem spaceMod_commands (fn : Nat) (f : AddrSpace → AddrSpace) : (spaceMod fn f s).commands = s.commands := rfl
@[simp] theorem spaceMod_heldReplies (fn : Nat) (f : AddrSpace → AddrSpace) : (spaceMod fn f s).heldReplies = s.heldReplies := rfl
@[simp] theorem spaceMod_regions (fn : Nat) (f : AddrSpace → AddrSpace) : (spaceMod fn f s).regions = s.regions := rfl
@[simp] theorem spaceMod_retired (fn : Nat) (f : AddrSpace → AddrSpace) : (spaceMod fn f s).retired = s.retired := rfl
@[simp] theorem spaceMod_suspended (fn : Nat) (f : AddrSpace → AddrSpace) : (spaceMod fn f s).suspended = s.suspended := rfl
@[simp] theorem spaceMod_missSlots (fn : Nat) (f : AddrSpace → AddrSpace) : (spaceMod fn f s).missSlots = s.missSlots := rfl
@[simp] theorem spaceMod_missWait (fn : Nat) (f : AddrSpace → AddrSpace) : (spaceMod fn f s).missWait = s.missWait := rfl
@[simp] theorem spaceMod_journal (fn : Nat) (f : AddrSpace → AddrSpace) : (spaceMod fn f s).journal = s.journal := rfl
@[simp] theorem spaceMod_qps (fn : Nat) (f : AddrSpace → AddrSpace) : (spaceMod fn f s).qps = s.qps := rfl
@[simp] theorem spaceMod_srqs (fn : Nat) (f : AddrSpace → AddrSpace) : (spaceMod fn f s).srqs = s.srqs := rfl
@[simp] theorem spaceMod_sched (fn : Nat) (f : AddrSpace → AddrSpace) : (spaceMod fn f s).sched = s.sched := rfl
@[simp] theorem spaceMod_fabric (fn : Nat) (f : AddrSpace → AddrSpace) : (spaceMod fn f s).fabric = s.fabric := rfl
@[simp] theorem spaceMod_coll (fn : Nat) (f : AddrSpace → AddrSpace) : (spaceMod fn f s).coll = s.coll := rfl
@[simp] theorem spaceMod_cache (fn : Nat) (f : AddrSpace → AddrSpace) : (spaceMod fn f s).cache = s.cache := rfl
@[simp] theorem spaceMod_ramp (fn : Nat) (f : AddrSpace → AddrSpace) : (spaceMod fn f s).ramp = s.ramp := rfl
@[simp] theorem spaceMod_opers (fn : Nat) (f : AddrSpace → AddrSpace) : (spaceMod fn f s).opers = s.opers := rfl
@[simp] theorem spaceMod_tarns (fn : Nat) (f : AddrSpace → AddrSpace) : (spaceMod fn f s).tarns = s.tarns := rfl
@[simp] theorem spaceMod_eth (fn : Nat) (f : AddrSpace → AddrSpace) : (spaceMod fn f s).eth = s.eth := rfl
@[simp] theorem spaceMod_helm (fn : Nat) (f : AddrSpace → AddrSpace) : (spaceMod fn f s).helm = s.helm := rfl
@[simp] theorem spaceMod_sec (fn : Nat) (f : AddrSpace → AddrSpace) : (spaceMod fn f s).sec = s.sec := rfl
@[simp] theorem spaceMod_power (fn : Nat) (f : AddrSpace → AddrSpace) : (spaceMod fn f s).power = s.power := rfl
@[simp] theorem spaceMod_thermal (fn : Nat) (f : AddrSpace → AddrSpace) : (spaceMod fn f s).thermal = s.thermal := rfl
@[simp] theorem spaceMod_droop (fn : Nat) (f : AddrSpace → AddrSpace) : (spaceMod fn f s).droop = s.droop := rfl
@[simp] theorem spaceMod_ceilings (fn : Nat) (f : AddrSpace → AddrSpace) : (spaceMod fn f s).ceilings = s.ceilings := rfl
@[simp] theorem spaceMod_start (fn : Nat) (f : AddrSpace → AddrSpace) : (spaceMod fn f s).start = s.start := rfl
@[simp] theorem spaceMod_faults (fn : Nat) (f : AddrSpace → AddrSpace) : (spaceMod fn f s).faults = s.faults := rfl
@[simp] theorem spaceMod_jtag (fn : Nat) (f : AddrSpace → AddrSpace) : (spaceMod fn f s).jtag = s.jtag := rfl
@[simp] theorem spaceMod_out (fn : Nat) (f : AddrSpace → AddrSpace) : (spaceMod fn f s).out = s.out := rfl
@[simp] theorem spaceMod_hostAt (fn : Nat) (f : AddrSpace → AddrSpace) : (spaceMod fn f s).hostAt = s.hostAt := rfl
@[simp] theorem spaceMod_pending (fn : Nat) (f : AddrSpace → AddrSpace) : (spaceMod fn f s).pending = s.pending := rfl

/-! ### `cqMod` -/

@[simp] theorem cqMod_cqs (key : Nat) (f : CplRing → CplRing) : (cqMod key f s).cqs = tabMod s.cqs key f := rfl
@[simp] theorem cqMod_dev (key : Nat) (f : CplRing → CplRing) : (cqMod key f s).dev = s.dev := rfl
@[simp] theorem cqMod_pcie (key : Nat) (f : CplRing → CplRing) : (cqMod key f s).pcie = s.pcie := rfl
@[simp] theorem cqMod_clocks (key : Nat) (f : CplRing → CplRing) : (cqMod key f s).clocks = s.clocks := rfl
@[simp] theorem cqMod_fns (key : Nat) (f : CplRing → CplRing) : (cqMod key f s).fns = s.fns := rfl
@[simp] theorem cqMod_spaces (key : Nat) (f : CplRing → CplRing) : (cqMod key f s).spaces = s.spaces := rfl
@[simp] theorem cqMod_sqs (key : Nat) (f : CplRing → CplRing) : (cqMod key f s).sqs = s.sqs := rfl
@[simp] theorem cqMod_commands (key : Nat) (f : CplRing → CplRing) : (cqMod key f s).commands = s.commands := rfl
@[simp] theorem cqMod_heldReplies (key : Nat) (f : CplRing → CplRing) : (cqMod key f s).heldReplies = s.heldReplies := rfl
@[simp] theorem cqMod_regions (key : Nat) (f : CplRing → CplRing) : (cqMod key f s).regions = s.regions := rfl
@[simp] theorem cqMod_retired (key : Nat) (f : CplRing → CplRing) : (cqMod key f s).retired = s.retired := rfl
@[simp] theorem cqMod_suspended (key : Nat) (f : CplRing → CplRing) : (cqMod key f s).suspended = s.suspended := rfl
@[simp] theorem cqMod_missSlots (key : Nat) (f : CplRing → CplRing) : (cqMod key f s).missSlots = s.missSlots := rfl
@[simp] theorem cqMod_missWait (key : Nat) (f : CplRing → CplRing) : (cqMod key f s).missWait = s.missWait := rfl
@[simp] theorem cqMod_journal (key : Nat) (f : CplRing → CplRing) : (cqMod key f s).journal = s.journal := rfl
@[simp] theorem cqMod_qps (key : Nat) (f : CplRing → CplRing) : (cqMod key f s).qps = s.qps := rfl
@[simp] theorem cqMod_srqs (key : Nat) (f : CplRing → CplRing) : (cqMod key f s).srqs = s.srqs := rfl
@[simp] theorem cqMod_sched (key : Nat) (f : CplRing → CplRing) : (cqMod key f s).sched = s.sched := rfl
@[simp] theorem cqMod_fabric (key : Nat) (f : CplRing → CplRing) : (cqMod key f s).fabric = s.fabric := rfl
@[simp] theorem cqMod_coll (key : Nat) (f : CplRing → CplRing) : (cqMod key f s).coll = s.coll := rfl
@[simp] theorem cqMod_cache (key : Nat) (f : CplRing → CplRing) : (cqMod key f s).cache = s.cache := rfl
@[simp] theorem cqMod_ramp (key : Nat) (f : CplRing → CplRing) : (cqMod key f s).ramp = s.ramp := rfl
@[simp] theorem cqMod_opers (key : Nat) (f : CplRing → CplRing) : (cqMod key f s).opers = s.opers := rfl
@[simp] theorem cqMod_tarns (key : Nat) (f : CplRing → CplRing) : (cqMod key f s).tarns = s.tarns := rfl
@[simp] theorem cqMod_eth (key : Nat) (f : CplRing → CplRing) : (cqMod key f s).eth = s.eth := rfl
@[simp] theorem cqMod_helm (key : Nat) (f : CplRing → CplRing) : (cqMod key f s).helm = s.helm := rfl
@[simp] theorem cqMod_sec (key : Nat) (f : CplRing → CplRing) : (cqMod key f s).sec = s.sec := rfl
@[simp] theorem cqMod_power (key : Nat) (f : CplRing → CplRing) : (cqMod key f s).power = s.power := rfl
@[simp] theorem cqMod_thermal (key : Nat) (f : CplRing → CplRing) : (cqMod key f s).thermal = s.thermal := rfl
@[simp] theorem cqMod_droop (key : Nat) (f : CplRing → CplRing) : (cqMod key f s).droop = s.droop := rfl
@[simp] theorem cqMod_ceilings (key : Nat) (f : CplRing → CplRing) : (cqMod key f s).ceilings = s.ceilings := rfl
@[simp] theorem cqMod_start (key : Nat) (f : CplRing → CplRing) : (cqMod key f s).start = s.start := rfl
@[simp] theorem cqMod_faults (key : Nat) (f : CplRing → CplRing) : (cqMod key f s).faults = s.faults := rfl
@[simp] theorem cqMod_jtag (key : Nat) (f : CplRing → CplRing) : (cqMod key f s).jtag = s.jtag := rfl
@[simp] theorem cqMod_out (key : Nat) (f : CplRing → CplRing) : (cqMod key f s).out = s.out := rfl
@[simp] theorem cqMod_hostAt (key : Nat) (f : CplRing → CplRing) : (cqMod key f s).hostAt = s.hostAt := rfl
@[simp] theorem cqMod_pending (key : Nat) (f : CplRing → CplRing) : (cqMod key f s).pending = s.pending := rfl

/-! ### `regionMod` -/

@[simp] theorem regionMod_regions (i : Nat) (f : Region → Region) : (regionMod i f s).regions = tabMod s.regions i f := rfl
@[simp] theorem regionMod_dev (i : Nat) (f : Region → Region) : (regionMod i f s).dev = s.dev := rfl
@[simp] theorem regionMod_pcie (i : Nat) (f : Region → Region) : (regionMod i f s).pcie = s.pcie := rfl
@[simp] theorem regionMod_clocks (i : Nat) (f : Region → Region) : (regionMod i f s).clocks = s.clocks := rfl
@[simp] theorem regionMod_fns (i : Nat) (f : Region → Region) : (regionMod i f s).fns = s.fns := rfl
@[simp] theorem regionMod_spaces (i : Nat) (f : Region → Region) : (regionMod i f s).spaces = s.spaces := rfl
@[simp] theorem regionMod_sqs (i : Nat) (f : Region → Region) : (regionMod i f s).sqs = s.sqs := rfl
@[simp] theorem regionMod_cqs (i : Nat) (f : Region → Region) : (regionMod i f s).cqs = s.cqs := rfl
@[simp] theorem regionMod_commands (i : Nat) (f : Region → Region) : (regionMod i f s).commands = s.commands := rfl
@[simp] theorem regionMod_heldReplies (i : Nat) (f : Region → Region) : (regionMod i f s).heldReplies = s.heldReplies := rfl
@[simp] theorem regionMod_retired (i : Nat) (f : Region → Region) : (regionMod i f s).retired = s.retired := rfl
@[simp] theorem regionMod_suspended (i : Nat) (f : Region → Region) : (regionMod i f s).suspended = s.suspended := rfl
@[simp] theorem regionMod_missSlots (i : Nat) (f : Region → Region) : (regionMod i f s).missSlots = s.missSlots := rfl
@[simp] theorem regionMod_missWait (i : Nat) (f : Region → Region) : (regionMod i f s).missWait = s.missWait := rfl
@[simp] theorem regionMod_journal (i : Nat) (f : Region → Region) : (regionMod i f s).journal = s.journal := rfl
@[simp] theorem regionMod_qps (i : Nat) (f : Region → Region) : (regionMod i f s).qps = s.qps := rfl
@[simp] theorem regionMod_srqs (i : Nat) (f : Region → Region) : (regionMod i f s).srqs = s.srqs := rfl
@[simp] theorem regionMod_sched (i : Nat) (f : Region → Region) : (regionMod i f s).sched = s.sched := rfl
@[simp] theorem regionMod_fabric (i : Nat) (f : Region → Region) : (regionMod i f s).fabric = s.fabric := rfl
@[simp] theorem regionMod_coll (i : Nat) (f : Region → Region) : (regionMod i f s).coll = s.coll := rfl
@[simp] theorem regionMod_cache (i : Nat) (f : Region → Region) : (regionMod i f s).cache = s.cache := rfl
@[simp] theorem regionMod_ramp (i : Nat) (f : Region → Region) : (regionMod i f s).ramp = s.ramp := rfl
@[simp] theorem regionMod_opers (i : Nat) (f : Region → Region) : (regionMod i f s).opers = s.opers := rfl
@[simp] theorem regionMod_tarns (i : Nat) (f : Region → Region) : (regionMod i f s).tarns = s.tarns := rfl
@[simp] theorem regionMod_eth (i : Nat) (f : Region → Region) : (regionMod i f s).eth = s.eth := rfl
@[simp] theorem regionMod_helm (i : Nat) (f : Region → Region) : (regionMod i f s).helm = s.helm := rfl
@[simp] theorem regionMod_sec (i : Nat) (f : Region → Region) : (regionMod i f s).sec = s.sec := rfl
@[simp] theorem regionMod_power (i : Nat) (f : Region → Region) : (regionMod i f s).power = s.power := rfl
@[simp] theorem regionMod_thermal (i : Nat) (f : Region → Region) : (regionMod i f s).thermal = s.thermal := rfl
@[simp] theorem regionMod_droop (i : Nat) (f : Region → Region) : (regionMod i f s).droop = s.droop := rfl
@[simp] theorem regionMod_ceilings (i : Nat) (f : Region → Region) : (regionMod i f s).ceilings = s.ceilings := rfl
@[simp] theorem regionMod_start (i : Nat) (f : Region → Region) : (regionMod i f s).start = s.start := rfl
@[simp] theorem regionMod_faults (i : Nat) (f : Region → Region) : (regionMod i f s).faults = s.faults := rfl
@[simp] theorem regionMod_jtag (i : Nat) (f : Region → Region) : (regionMod i f s).jtag = s.jtag := rfl
@[simp] theorem regionMod_out (i : Nat) (f : Region → Region) : (regionMod i f s).out = s.out := rfl
@[simp] theorem regionMod_hostAt (i : Nat) (f : Region → Region) : (regionMod i f s).hostAt = s.hostAt := rfl
@[simp] theorem regionMod_pending (i : Nat) (f : Region → Region) : (regionMod i f s).pending = s.pending := rfl

/-! ### `workMod` -/

@[simp] theorem workMod_journal (rec : Nat) (f : Work → Work) : (workMod rec f s).journal = tabMod s.journal rec fun r => match r with | .work w => .work (f w) | r => r := rfl
@[simp] theorem workMod_dev (rec : Nat) (f : Work → Work) : (workMod rec f s).dev = s.dev := rfl
@[simp] theorem workMod_pcie (rec : Nat) (f : Work → Work) : (workMod rec f s).pcie = s.pcie := rfl
@[simp] theorem workMod_clocks (rec : Nat) (f : Work → Work) : (workMod rec f s).clocks = s.clocks := rfl
@[simp] theorem workMod_fns (rec : Nat) (f : Work → Work) : (workMod rec f s).fns = s.fns := rfl
@[simp] theorem workMod_spaces (rec : Nat) (f : Work → Work) : (workMod rec f s).spaces = s.spaces := rfl
@[simp] theorem workMod_sqs (rec : Nat) (f : Work → Work) : (workMod rec f s).sqs = s.sqs := rfl
@[simp] theorem workMod_cqs (rec : Nat) (f : Work → Work) : (workMod rec f s).cqs = s.cqs := rfl
@[simp] theorem workMod_commands (rec : Nat) (f : Work → Work) : (workMod rec f s).commands = s.commands := rfl
@[simp] theorem workMod_heldReplies (rec : Nat) (f : Work → Work) : (workMod rec f s).heldReplies = s.heldReplies := rfl
@[simp] theorem workMod_regions (rec : Nat) (f : Work → Work) : (workMod rec f s).regions = s.regions := rfl
@[simp] theorem workMod_retired (rec : Nat) (f : Work → Work) : (workMod rec f s).retired = s.retired := rfl
@[simp] theorem workMod_suspended (rec : Nat) (f : Work → Work) : (workMod rec f s).suspended = s.suspended := rfl
@[simp] theorem workMod_missSlots (rec : Nat) (f : Work → Work) : (workMod rec f s).missSlots = s.missSlots := rfl
@[simp] theorem workMod_missWait (rec : Nat) (f : Work → Work) : (workMod rec f s).missWait = s.missWait := rfl
@[simp] theorem workMod_qps (rec : Nat) (f : Work → Work) : (workMod rec f s).qps = s.qps := rfl
@[simp] theorem workMod_srqs (rec : Nat) (f : Work → Work) : (workMod rec f s).srqs = s.srqs := rfl
@[simp] theorem workMod_sched (rec : Nat) (f : Work → Work) : (workMod rec f s).sched = s.sched := rfl
@[simp] theorem workMod_fabric (rec : Nat) (f : Work → Work) : (workMod rec f s).fabric = s.fabric := rfl
@[simp] theorem workMod_coll (rec : Nat) (f : Work → Work) : (workMod rec f s).coll = s.coll := rfl
@[simp] theorem workMod_cache (rec : Nat) (f : Work → Work) : (workMod rec f s).cache = s.cache := rfl
@[simp] theorem workMod_ramp (rec : Nat) (f : Work → Work) : (workMod rec f s).ramp = s.ramp := rfl
@[simp] theorem workMod_opers (rec : Nat) (f : Work → Work) : (workMod rec f s).opers = s.opers := rfl
@[simp] theorem workMod_tarns (rec : Nat) (f : Work → Work) : (workMod rec f s).tarns = s.tarns := rfl
@[simp] theorem workMod_eth (rec : Nat) (f : Work → Work) : (workMod rec f s).eth = s.eth := rfl
@[simp] theorem workMod_helm (rec : Nat) (f : Work → Work) : (workMod rec f s).helm = s.helm := rfl
@[simp] theorem workMod_sec (rec : Nat) (f : Work → Work) : (workMod rec f s).sec = s.sec := rfl
@[simp] theorem workMod_power (rec : Nat) (f : Work → Work) : (workMod rec f s).power = s.power := rfl
@[simp] theorem workMod_thermal (rec : Nat) (f : Work → Work) : (workMod rec f s).thermal = s.thermal := rfl
@[simp] theorem workMod_droop (rec : Nat) (f : Work → Work) : (workMod rec f s).droop = s.droop := rfl
@[simp] theorem workMod_ceilings (rec : Nat) (f : Work → Work) : (workMod rec f s).ceilings = s.ceilings := rfl
@[simp] theorem workMod_start (rec : Nat) (f : Work → Work) : (workMod rec f s).start = s.start := rfl
@[simp] theorem workMod_faults (rec : Nat) (f : Work → Work) : (workMod rec f s).faults = s.faults := rfl
@[simp] theorem workMod_jtag (rec : Nat) (f : Work → Work) : (workMod rec f s).jtag = s.jtag := rfl
@[simp] theorem workMod_out (rec : Nat) (f : Work → Work) : (workMod rec f s).out = s.out := rfl
@[simp] theorem workMod_hostAt (rec : Nat) (f : Work → Work) : (workMod rec f s).hostAt = s.hostAt := rfl
@[simp] theorem workMod_pending (rec : Nat) (f : Work → Work) : (workMod rec f s).pending = s.pending := rfl

/-! ### `qpMod` -/

@[simp] theorem qpMod_qps (n : Nat) (f : Qp → Qp) : (qpMod n f s).qps = tabMod s.qps n f := rfl
@[simp] theorem qpMod_dev (n : Nat) (f : Qp → Qp) : (qpMod n f s).dev = s.dev := rfl
@[simp] theorem qpMod_pcie (n : Nat) (f : Qp → Qp) : (qpMod n f s).pcie = s.pcie := rfl
@[simp] theorem qpMod_clocks (n : Nat) (f : Qp → Qp) : (qpMod n f s).clocks = s.clocks := rfl
@[simp] theorem qpMod_fns (n : Nat) (f : Qp → Qp) : (qpMod n f s).fns = s.fns := rfl
@[simp] theorem qpMod_spaces (n : Nat) (f : Qp → Qp) : (qpMod n f s).spaces = s.spaces := rfl
@[simp] theorem qpMod_sqs (n : Nat) (f : Qp → Qp) : (qpMod n f s).sqs = s.sqs := rfl
@[simp] theorem qpMod_cqs (n : Nat) (f : Qp → Qp) : (qpMod n f s).cqs = s.cqs := rfl
@[simp] theorem qpMod_commands (n : Nat) (f : Qp → Qp) : (qpMod n f s).commands = s.commands := rfl
@[simp] theorem qpMod_heldReplies (n : Nat) (f : Qp → Qp) : (qpMod n f s).heldReplies = s.heldReplies := rfl
@[simp] theorem qpMod_regions (n : Nat) (f : Qp → Qp) : (qpMod n f s).regions = s.regions := rfl
@[simp] theorem qpMod_retired (n : Nat) (f : Qp → Qp) : (qpMod n f s).retired = s.retired := rfl
@[simp] theorem qpMod_suspended (n : Nat) (f : Qp → Qp) : (qpMod n f s).suspended = s.suspended := rfl
@[simp] theorem qpMod_missSlots (n : Nat) (f : Qp → Qp) : (qpMod n f s).missSlots = s.missSlots := rfl
@[simp] theorem qpMod_missWait (n : Nat) (f : Qp → Qp) : (qpMod n f s).missWait = s.missWait := rfl
@[simp] theorem qpMod_journal (n : Nat) (f : Qp → Qp) : (qpMod n f s).journal = s.journal := rfl
@[simp] theorem qpMod_srqs (n : Nat) (f : Qp → Qp) : (qpMod n f s).srqs = s.srqs := rfl
@[simp] theorem qpMod_sched (n : Nat) (f : Qp → Qp) : (qpMod n f s).sched = s.sched := rfl
@[simp] theorem qpMod_fabric (n : Nat) (f : Qp → Qp) : (qpMod n f s).fabric = s.fabric := rfl
@[simp] theorem qpMod_coll (n : Nat) (f : Qp → Qp) : (qpMod n f s).coll = s.coll := rfl
@[simp] theorem qpMod_cache (n : Nat) (f : Qp → Qp) : (qpMod n f s).cache = s.cache := rfl
@[simp] theorem qpMod_ramp (n : Nat) (f : Qp → Qp) : (qpMod n f s).ramp = s.ramp := rfl
@[simp] theorem qpMod_opers (n : Nat) (f : Qp → Qp) : (qpMod n f s).opers = s.opers := rfl
@[simp] theorem qpMod_tarns (n : Nat) (f : Qp → Qp) : (qpMod n f s).tarns = s.tarns := rfl
@[simp] theorem qpMod_eth (n : Nat) (f : Qp → Qp) : (qpMod n f s).eth = s.eth := rfl
@[simp] theorem qpMod_helm (n : Nat) (f : Qp → Qp) : (qpMod n f s).helm = s.helm := rfl
@[simp] theorem qpMod_sec (n : Nat) (f : Qp → Qp) : (qpMod n f s).sec = s.sec := rfl
@[simp] theorem qpMod_power (n : Nat) (f : Qp → Qp) : (qpMod n f s).power = s.power := rfl
@[simp] theorem qpMod_thermal (n : Nat) (f : Qp → Qp) : (qpMod n f s).thermal = s.thermal := rfl
@[simp] theorem qpMod_droop (n : Nat) (f : Qp → Qp) : (qpMod n f s).droop = s.droop := rfl
@[simp] theorem qpMod_ceilings (n : Nat) (f : Qp → Qp) : (qpMod n f s).ceilings = s.ceilings := rfl
@[simp] theorem qpMod_start (n : Nat) (f : Qp → Qp) : (qpMod n f s).start = s.start := rfl
@[simp] theorem qpMod_faults (n : Nat) (f : Qp → Qp) : (qpMod n f s).faults = s.faults := rfl
@[simp] theorem qpMod_jtag (n : Nat) (f : Qp → Qp) : (qpMod n f s).jtag = s.jtag := rfl
@[simp] theorem qpMod_out (n : Nat) (f : Qp → Qp) : (qpMod n f s).out = s.out := rfl
@[simp] theorem qpMod_hostAt (n : Nat) (f : Qp → Qp) : (qpMod n f s).hostAt = s.hostAt := rfl
@[simp] theorem qpMod_pending (n : Nat) (f : Qp → Qp) : (qpMod n f s).pending = s.pending := rfl

/-! ### `schedMod` -/

@[simp] theorem schedMod_sched (f : Sched → Sched) : (schedMod f s).sched = f s.sched := rfl
@[simp] theorem schedMod_dev (f : Sched → Sched) : (schedMod f s).dev = s.dev := rfl
@[simp] theorem schedMod_pcie (f : Sched → Sched) : (schedMod f s).pcie = s.pcie := rfl
@[simp] theorem schedMod_clocks (f : Sched → Sched) : (schedMod f s).clocks = s.clocks := rfl
@[simp] theorem schedMod_fns (f : Sched → Sched) : (schedMod f s).fns = s.fns := rfl
@[simp] theorem schedMod_spaces (f : Sched → Sched) : (schedMod f s).spaces = s.spaces := rfl
@[simp] theorem schedMod_sqs (f : Sched → Sched) : (schedMod f s).sqs = s.sqs := rfl
@[simp] theorem schedMod_cqs (f : Sched → Sched) : (schedMod f s).cqs = s.cqs := rfl
@[simp] theorem schedMod_commands (f : Sched → Sched) : (schedMod f s).commands = s.commands := rfl
@[simp] theorem schedMod_heldReplies (f : Sched → Sched) : (schedMod f s).heldReplies = s.heldReplies := rfl
@[simp] theorem schedMod_regions (f : Sched → Sched) : (schedMod f s).regions = s.regions := rfl
@[simp] theorem schedMod_retired (f : Sched → Sched) : (schedMod f s).retired = s.retired := rfl
@[simp] theorem schedMod_suspended (f : Sched → Sched) : (schedMod f s).suspended = s.suspended := rfl
@[simp] theorem schedMod_missSlots (f : Sched → Sched) : (schedMod f s).missSlots = s.missSlots := rfl
@[simp] theorem schedMod_missWait (f : Sched → Sched) : (schedMod f s).missWait = s.missWait := rfl
@[simp] theorem schedMod_journal (f : Sched → Sched) : (schedMod f s).journal = s.journal := rfl
@[simp] theorem schedMod_qps (f : Sched → Sched) : (schedMod f s).qps = s.qps := rfl
@[simp] theorem schedMod_srqs (f : Sched → Sched) : (schedMod f s).srqs = s.srqs := rfl
@[simp] theorem schedMod_fabric (f : Sched → Sched) : (schedMod f s).fabric = s.fabric := rfl
@[simp] theorem schedMod_coll (f : Sched → Sched) : (schedMod f s).coll = s.coll := rfl
@[simp] theorem schedMod_cache (f : Sched → Sched) : (schedMod f s).cache = s.cache := rfl
@[simp] theorem schedMod_ramp (f : Sched → Sched) : (schedMod f s).ramp = s.ramp := rfl
@[simp] theorem schedMod_opers (f : Sched → Sched) : (schedMod f s).opers = s.opers := rfl
@[simp] theorem schedMod_tarns (f : Sched → Sched) : (schedMod f s).tarns = s.tarns := rfl
@[simp] theorem schedMod_eth (f : Sched → Sched) : (schedMod f s).eth = s.eth := rfl
@[simp] theorem schedMod_helm (f : Sched → Sched) : (schedMod f s).helm = s.helm := rfl
@[simp] theorem schedMod_sec (f : Sched → Sched) : (schedMod f s).sec = s.sec := rfl
@[simp] theorem schedMod_power (f : Sched → Sched) : (schedMod f s).power = s.power := rfl
@[simp] theorem schedMod_thermal (f : Sched → Sched) : (schedMod f s).thermal = s.thermal := rfl
@[simp] theorem schedMod_droop (f : Sched → Sched) : (schedMod f s).droop = s.droop := rfl
@[simp] theorem schedMod_ceilings (f : Sched → Sched) : (schedMod f s).ceilings = s.ceilings := rfl
@[simp] theorem schedMod_start (f : Sched → Sched) : (schedMod f s).start = s.start := rfl
@[simp] theorem schedMod_faults (f : Sched → Sched) : (schedMod f s).faults = s.faults := rfl
@[simp] theorem schedMod_jtag (f : Sched → Sched) : (schedMod f s).jtag = s.jtag := rfl
@[simp] theorem schedMod_out (f : Sched → Sched) : (schedMod f s).out = s.out := rfl
@[simp] theorem schedMod_hostAt (f : Sched → Sched) : (schedMod f s).hostAt = s.hostAt := rfl
@[simp] theorem schedMod_pending (f : Sched → Sched) : (schedMod f s).pending = s.pending := rfl

/-! ### `fabMod` -/

@[simp] theorem fabMod_fabric (f : Fabric → Fabric) : (fabMod f s).fabric = f s.fabric := rfl
@[simp] theorem fabMod_dev (f : Fabric → Fabric) : (fabMod f s).dev = s.dev := rfl
@[simp] theorem fabMod_pcie (f : Fabric → Fabric) : (fabMod f s).pcie = s.pcie := rfl
@[simp] theorem fabMod_clocks (f : Fabric → Fabric) : (fabMod f s).clocks = s.clocks := rfl
@[simp] theorem fabMod_fns (f : Fabric → Fabric) : (fabMod f s).fns = s.fns := rfl
@[simp] theorem fabMod_spaces (f : Fabric → Fabric) : (fabMod f s).spaces = s.spaces := rfl
@[simp] theorem fabMod_sqs (f : Fabric → Fabric) : (fabMod f s).sqs = s.sqs := rfl
@[simp] theorem fabMod_cqs (f : Fabric → Fabric) : (fabMod f s).cqs = s.cqs := rfl
@[simp] theorem fabMod_commands (f : Fabric → Fabric) : (fabMod f s).commands = s.commands := rfl
@[simp] theorem fabMod_heldReplies (f : Fabric → Fabric) : (fabMod f s).heldReplies = s.heldReplies := rfl
@[simp] theorem fabMod_regions (f : Fabric → Fabric) : (fabMod f s).regions = s.regions := rfl
@[simp] theorem fabMod_retired (f : Fabric → Fabric) : (fabMod f s).retired = s.retired := rfl
@[simp] theorem fabMod_suspended (f : Fabric → Fabric) : (fabMod f s).suspended = s.suspended := rfl
@[simp] theorem fabMod_missSlots (f : Fabric → Fabric) : (fabMod f s).missSlots = s.missSlots := rfl
@[simp] theorem fabMod_missWait (f : Fabric → Fabric) : (fabMod f s).missWait = s.missWait := rfl
@[simp] theorem fabMod_journal (f : Fabric → Fabric) : (fabMod f s).journal = s.journal := rfl
@[simp] theorem fabMod_qps (f : Fabric → Fabric) : (fabMod f s).qps = s.qps := rfl
@[simp] theorem fabMod_srqs (f : Fabric → Fabric) : (fabMod f s).srqs = s.srqs := rfl
@[simp] theorem fabMod_sched (f : Fabric → Fabric) : (fabMod f s).sched = s.sched := rfl
@[simp] theorem fabMod_coll (f : Fabric → Fabric) : (fabMod f s).coll = s.coll := rfl
@[simp] theorem fabMod_cache (f : Fabric → Fabric) : (fabMod f s).cache = s.cache := rfl
@[simp] theorem fabMod_ramp (f : Fabric → Fabric) : (fabMod f s).ramp = s.ramp := rfl
@[simp] theorem fabMod_opers (f : Fabric → Fabric) : (fabMod f s).opers = s.opers := rfl
@[simp] theorem fabMod_tarns (f : Fabric → Fabric) : (fabMod f s).tarns = s.tarns := rfl
@[simp] theorem fabMod_eth (f : Fabric → Fabric) : (fabMod f s).eth = s.eth := rfl
@[simp] theorem fabMod_helm (f : Fabric → Fabric) : (fabMod f s).helm = s.helm := rfl
@[simp] theorem fabMod_sec (f : Fabric → Fabric) : (fabMod f s).sec = s.sec := rfl
@[simp] theorem fabMod_power (f : Fabric → Fabric) : (fabMod f s).power = s.power := rfl
@[simp] theorem fabMod_thermal (f : Fabric → Fabric) : (fabMod f s).thermal = s.thermal := rfl
@[simp] theorem fabMod_droop (f : Fabric → Fabric) : (fabMod f s).droop = s.droop := rfl
@[simp] theorem fabMod_ceilings (f : Fabric → Fabric) : (fabMod f s).ceilings = s.ceilings := rfl
@[simp] theorem fabMod_start (f : Fabric → Fabric) : (fabMod f s).start = s.start := rfl
@[simp] theorem fabMod_faults (f : Fabric → Fabric) : (fabMod f s).faults = s.faults := rfl
@[simp] theorem fabMod_jtag (f : Fabric → Fabric) : (fabMod f s).jtag = s.jtag := rfl
@[simp] theorem fabMod_out (f : Fabric → Fabric) : (fabMod f s).out = s.out := rfl
@[simp] theorem fabMod_hostAt (f : Fabric → Fabric) : (fabMod f s).hostAt = s.hostAt := rfl
@[simp] theorem fabMod_pending (f : Fabric → Fabric) : (fabMod f s).pending = s.pending := rfl

/-! ### `portMod` -/

@[simp] theorem portMod_fabric (p : Nat) (f : FabPort → FabPort) : (portMod p f s).fabric = { s.fabric with ports := tabMod s.fabric.ports p f } := rfl
@[simp] theorem portMod_dev (p : Nat) (f : FabPort → FabPort) : (portMod p f s).dev = s.dev := rfl
@[simp] theorem portMod_pcie (p : Nat) (f : FabPort → FabPort) : (portMod p f s).pcie = s.pcie := rfl
@[simp] theorem portMod_clocks (p : Nat) (f : FabPort → FabPort) : (portMod p f s).clocks = s.clocks := rfl
@[simp] theorem portMod_fns (p : Nat) (f : FabPort → FabPort) : (portMod p f s).fns = s.fns := rfl
@[simp] theorem portMod_spaces (p : Nat) (f : FabPort → FabPort) : (portMod p f s).spaces = s.spaces := rfl
@[simp] theorem portMod_sqs (p : Nat) (f : FabPort → FabPort) : (portMod p f s).sqs = s.sqs := rfl
@[simp] theorem portMod_cqs (p : Nat) (f : FabPort → FabPort) : (portMod p f s).cqs = s.cqs := rfl
@[simp] theorem portMod_commands (p : Nat) (f : FabPort → FabPort) : (portMod p f s).commands = s.commands := rfl
@[simp] theorem portMod_heldReplies (p : Nat) (f : FabPort → FabPort) : (portMod p f s).heldReplies = s.heldReplies := rfl
@[simp] theorem portMod_regions (p : Nat) (f : FabPort → FabPort) : (portMod p f s).regions = s.regions := rfl
@[simp] theorem portMod_retired (p : Nat) (f : FabPort → FabPort) : (portMod p f s).retired = s.retired := rfl
@[simp] theorem portMod_suspended (p : Nat) (f : FabPort → FabPort) : (portMod p f s).suspended = s.suspended := rfl
@[simp] theorem portMod_missSlots (p : Nat) (f : FabPort → FabPort) : (portMod p f s).missSlots = s.missSlots := rfl
@[simp] theorem portMod_missWait (p : Nat) (f : FabPort → FabPort) : (portMod p f s).missWait = s.missWait := rfl
@[simp] theorem portMod_journal (p : Nat) (f : FabPort → FabPort) : (portMod p f s).journal = s.journal := rfl
@[simp] theorem portMod_qps (p : Nat) (f : FabPort → FabPort) : (portMod p f s).qps = s.qps := rfl
@[simp] theorem portMod_srqs (p : Nat) (f : FabPort → FabPort) : (portMod p f s).srqs = s.srqs := rfl
@[simp] theorem portMod_sched (p : Nat) (f : FabPort → FabPort) : (portMod p f s).sched = s.sched := rfl
@[simp] theorem portMod_coll (p : Nat) (f : FabPort → FabPort) : (portMod p f s).coll = s.coll := rfl
@[simp] theorem portMod_cache (p : Nat) (f : FabPort → FabPort) : (portMod p f s).cache = s.cache := rfl
@[simp] theorem portMod_ramp (p : Nat) (f : FabPort → FabPort) : (portMod p f s).ramp = s.ramp := rfl
@[simp] theorem portMod_opers (p : Nat) (f : FabPort → FabPort) : (portMod p f s).opers = s.opers := rfl
@[simp] theorem portMod_tarns (p : Nat) (f : FabPort → FabPort) : (portMod p f s).tarns = s.tarns := rfl
@[simp] theorem portMod_eth (p : Nat) (f : FabPort → FabPort) : (portMod p f s).eth = s.eth := rfl
@[simp] theorem portMod_helm (p : Nat) (f : FabPort → FabPort) : (portMod p f s).helm = s.helm := rfl
@[simp] theorem portMod_sec (p : Nat) (f : FabPort → FabPort) : (portMod p f s).sec = s.sec := rfl
@[simp] theorem portMod_power (p : Nat) (f : FabPort → FabPort) : (portMod p f s).power = s.power := rfl
@[simp] theorem portMod_thermal (p : Nat) (f : FabPort → FabPort) : (portMod p f s).thermal = s.thermal := rfl
@[simp] theorem portMod_droop (p : Nat) (f : FabPort → FabPort) : (portMod p f s).droop = s.droop := rfl
@[simp] theorem portMod_ceilings (p : Nat) (f : FabPort → FabPort) : (portMod p f s).ceilings = s.ceilings := rfl
@[simp] theorem portMod_start (p : Nat) (f : FabPort → FabPort) : (portMod p f s).start = s.start := rfl
@[simp] theorem portMod_faults (p : Nat) (f : FabPort → FabPort) : (portMod p f s).faults = s.faults := rfl
@[simp] theorem portMod_jtag (p : Nat) (f : FabPort → FabPort) : (portMod p f s).jtag = s.jtag := rfl
@[simp] theorem portMod_out (p : Nat) (f : FabPort → FabPort) : (portMod p f s).out = s.out := rfl
@[simp] theorem portMod_hostAt (p : Nat) (f : FabPort → FabPort) : (portMod p f s).hostAt = s.hostAt := rfl
@[simp] theorem portMod_pending (p : Nat) (f : FabPort → FabPort) : (portMod p f s).pending = s.pending := rfl

/-! ### `ethMod` -/

@[simp] theorem ethMod_eth (f : Ethernet → Ethernet) : (ethMod f s).eth = f s.eth := rfl
@[simp] theorem ethMod_dev (f : Ethernet → Ethernet) : (ethMod f s).dev = s.dev := rfl
@[simp] theorem ethMod_pcie (f : Ethernet → Ethernet) : (ethMod f s).pcie = s.pcie := rfl
@[simp] theorem ethMod_clocks (f : Ethernet → Ethernet) : (ethMod f s).clocks = s.clocks := rfl
@[simp] theorem ethMod_fns (f : Ethernet → Ethernet) : (ethMod f s).fns = s.fns := rfl
@[simp] theorem ethMod_spaces (f : Ethernet → Ethernet) : (ethMod f s).spaces = s.spaces := rfl
@[simp] theorem ethMod_sqs (f : Ethernet → Ethernet) : (ethMod f s).sqs = s.sqs := rfl
@[simp] theorem ethMod_cqs (f : Ethernet → Ethernet) : (ethMod f s).cqs = s.cqs := rfl
@[simp] theorem ethMod_commands (f : Ethernet → Ethernet) : (ethMod f s).commands = s.commands := rfl
@[simp] theorem ethMod_heldReplies (f : Ethernet → Ethernet) : (ethMod f s).heldReplies = s.heldReplies := rfl
@[simp] theorem ethMod_regions (f : Ethernet → Ethernet) : (ethMod f s).regions = s.regions := rfl
@[simp] theorem ethMod_retired (f : Ethernet → Ethernet) : (ethMod f s).retired = s.retired := rfl
@[simp] theorem ethMod_suspended (f : Ethernet → Ethernet) : (ethMod f s).suspended = s.suspended := rfl
@[simp] theorem ethMod_missSlots (f : Ethernet → Ethernet) : (ethMod f s).missSlots = s.missSlots := rfl
@[simp] theorem ethMod_missWait (f : Ethernet → Ethernet) : (ethMod f s).missWait = s.missWait := rfl
@[simp] theorem ethMod_journal (f : Ethernet → Ethernet) : (ethMod f s).journal = s.journal := rfl
@[simp] theorem ethMod_qps (f : Ethernet → Ethernet) : (ethMod f s).qps = s.qps := rfl
@[simp] theorem ethMod_srqs (f : Ethernet → Ethernet) : (ethMod f s).srqs = s.srqs := rfl
@[simp] theorem ethMod_sched (f : Ethernet → Ethernet) : (ethMod f s).sched = s.sched := rfl
@[simp] theorem ethMod_fabric (f : Ethernet → Ethernet) : (ethMod f s).fabric = s.fabric := rfl
@[simp] theorem ethMod_coll (f : Ethernet → Ethernet) : (ethMod f s).coll = s.coll := rfl
@[simp] theorem ethMod_cache (f : Ethernet → Ethernet) : (ethMod f s).cache = s.cache := rfl
@[simp] theorem ethMod_ramp (f : Ethernet → Ethernet) : (ethMod f s).ramp = s.ramp := rfl
@[simp] theorem ethMod_opers (f : Ethernet → Ethernet) : (ethMod f s).opers = s.opers := rfl
@[simp] theorem ethMod_tarns (f : Ethernet → Ethernet) : (ethMod f s).tarns = s.tarns := rfl
@[simp] theorem ethMod_helm (f : Ethernet → Ethernet) : (ethMod f s).helm = s.helm := rfl
@[simp] theorem ethMod_sec (f : Ethernet → Ethernet) : (ethMod f s).sec = s.sec := rfl
@[simp] theorem ethMod_power (f : Ethernet → Ethernet) : (ethMod f s).power = s.power := rfl
@[simp] theorem ethMod_thermal (f : Ethernet → Ethernet) : (ethMod f s).thermal = s.thermal := rfl
@[simp] theorem ethMod_droop (f : Ethernet → Ethernet) : (ethMod f s).droop = s.droop := rfl
@[simp] theorem ethMod_ceilings (f : Ethernet → Ethernet) : (ethMod f s).ceilings = s.ceilings := rfl
@[simp] theorem ethMod_start (f : Ethernet → Ethernet) : (ethMod f s).start = s.start := rfl
@[simp] theorem ethMod_faults (f : Ethernet → Ethernet) : (ethMod f s).faults = s.faults := rfl
@[simp] theorem ethMod_jtag (f : Ethernet → Ethernet) : (ethMod f s).jtag = s.jtag := rfl
@[simp] theorem ethMod_out (f : Ethernet → Ethernet) : (ethMod f s).out = s.out := rfl
@[simp] theorem ethMod_hostAt (f : Ethernet → Ethernet) : (ethMod f s).hostAt = s.hostAt := rfl
@[simp] theorem ethMod_pending (f : Ethernet → Ethernet) : (ethMod f s).pending = s.pending := rfl

/-! ### `linkMod` -/

@[simp] theorem linkMod_eth (id : Nat) (f : Link → Link) : (linkMod id f s).eth = { s.eth with links := tabMod s.eth.links id f } := rfl
@[simp] theorem linkMod_dev (id : Nat) (f : Link → Link) : (linkMod id f s).dev = s.dev := rfl
@[simp] theorem linkMod_pcie (id : Nat) (f : Link → Link) : (linkMod id f s).pcie = s.pcie := rfl
@[simp] theorem linkMod_clocks (id : Nat) (f : Link → Link) : (linkMod id f s).clocks = s.clocks := rfl
@[simp] theorem linkMod_fns (id : Nat) (f : Link → Link) : (linkMod id f s).fns = s.fns := rfl
@[simp] theorem linkMod_spaces (id : Nat) (f : Link → Link) : (linkMod id f s).spaces = s.spaces := rfl
@[simp] theorem linkMod_sqs (id : Nat) (f : Link → Link) : (linkMod id f s).sqs = s.sqs := rfl
@[simp] theorem linkMod_cqs (id : Nat) (f : Link → Link) : (linkMod id f s).cqs = s.cqs := rfl
@[simp] theorem linkMod_commands (id : Nat) (f : Link → Link) : (linkMod id f s).commands = s.commands := rfl
@[simp] theorem linkMod_heldReplies (id : Nat) (f : Link → Link) : (linkMod id f s).heldReplies = s.heldReplies := rfl
@[simp] theorem linkMod_regions (id : Nat) (f : Link → Link) : (linkMod id f s).regions = s.regions := rfl
@[simp] theorem linkMod_retired (id : Nat) (f : Link → Link) : (linkMod id f s).retired = s.retired := rfl
@[simp] theorem linkMod_suspended (id : Nat) (f : Link → Link) : (linkMod id f s).suspended = s.suspended := rfl
@[simp] theorem linkMod_missSlots (id : Nat) (f : Link → Link) : (linkMod id f s).missSlots = s.missSlots := rfl
@[simp] theorem linkMod_missWait (id : Nat) (f : Link → Link) : (linkMod id f s).missWait = s.missWait := rfl
@[simp] theorem linkMod_journal (id : Nat) (f : Link → Link) : (linkMod id f s).journal = s.journal := rfl
@[simp] theorem linkMod_qps (id : Nat) (f : Link → Link) : (linkMod id f s).qps = s.qps := rfl
@[simp] theorem linkMod_srqs (id : Nat) (f : Link → Link) : (linkMod id f s).srqs = s.srqs := rfl
@[simp] theorem linkMod_sched (id : Nat) (f : Link → Link) : (linkMod id f s).sched = s.sched := rfl
@[simp] theorem linkMod_fabric (id : Nat) (f : Link → Link) : (linkMod id f s).fabric = s.fabric := rfl
@[simp] theorem linkMod_coll (id : Nat) (f : Link → Link) : (linkMod id f s).coll = s.coll := rfl
@[simp] theorem linkMod_cache (id : Nat) (f : Link → Link) : (linkMod id f s).cache = s.cache := rfl
@[simp] theorem linkMod_ramp (id : Nat) (f : Link → Link) : (linkMod id f s).ramp = s.ramp := rfl
@[simp] theorem linkMod_opers (id : Nat) (f : Link → Link) : (linkMod id f s).opers = s.opers := rfl
@[simp] theorem linkMod_tarns (id : Nat) (f : Link → Link) : (linkMod id f s).tarns = s.tarns := rfl
@[simp] theorem linkMod_helm (id : Nat) (f : Link → Link) : (linkMod id f s).helm = s.helm := rfl
@[simp] theorem linkMod_sec (id : Nat) (f : Link → Link) : (linkMod id f s).sec = s.sec := rfl
@[simp] theorem linkMod_power (id : Nat) (f : Link → Link) : (linkMod id f s).power = s.power := rfl
@[simp] theorem linkMod_thermal (id : Nat) (f : Link → Link) : (linkMod id f s).thermal = s.thermal := rfl
@[simp] theorem linkMod_droop (id : Nat) (f : Link → Link) : (linkMod id f s).droop = s.droop := rfl
@[simp] theorem linkMod_ceilings (id : Nat) (f : Link → Link) : (linkMod id f s).ceilings = s.ceilings := rfl
@[simp] theorem linkMod_start (id : Nat) (f : Link → Link) : (linkMod id f s).start = s.start := rfl
@[simp] theorem linkMod_faults (id : Nat) (f : Link → Link) : (linkMod id f s).faults = s.faults := rfl
@[simp] theorem linkMod_jtag (id : Nat) (f : Link → Link) : (linkMod id f s).jtag = s.jtag := rfl
@[simp] theorem linkMod_out (id : Nat) (f : Link → Link) : (linkMod id f s).out = s.out := rfl
@[simp] theorem linkMod_hostAt (id : Nat) (f : Link → Link) : (linkMod id f s).hostAt = s.hostAt := rfl
@[simp] theorem linkMod_pending (id : Nat) (f : Link → Link) : (linkMod id f s).pending = s.pending := rfl

/-! ### `tarnMod` -/

@[simp] theorem tarnMod_tarns (f : Tarns → Tarns) : (tarnMod f s).tarns = f s.tarns := rfl
@[simp] theorem tarnMod_dev (f : Tarns → Tarns) : (tarnMod f s).dev = s.dev := rfl
@[simp] theorem tarnMod_pcie (f : Tarns → Tarns) : (tarnMod f s).pcie = s.pcie := rfl
@[simp] theorem tarnMod_clocks (f : Tarns → Tarns) : (tarnMod f s).clocks = s.clocks := rfl
@[simp] theorem tarnMod_fns (f : Tarns → Tarns) : (tarnMod f s).fns = s.fns := rfl
@[simp] theorem tarnMod_spaces (f : Tarns → Tarns) : (tarnMod f s).spaces = s.spaces := rfl
@[simp] theorem tarnMod_sqs (f : Tarns → Tarns) : (tarnMod f s).sqs = s.sqs := rfl
@[simp] theorem tarnMod_cqs (f : Tarns → Tarns) : (tarnMod f s).cqs = s.cqs := rfl
@[simp] theorem tarnMod_commands (f : Tarns → Tarns) : (tarnMod f s).commands = s.commands := rfl
@[simp] theorem tarnMod_heldReplies (f : Tarns → Tarns) : (tarnMod f s).heldReplies = s.heldReplies := rfl
@[simp] theorem tarnMod_regions (f : Tarns → Tarns) : (tarnMod f s).regions = s.regions := rfl
@[simp] theorem tarnMod_retired (f : Tarns → Tarns) : (tarnMod f s).retired = s.retired := rfl
@[simp] theorem tarnMod_suspended (f : Tarns → Tarns) : (tarnMod f s).suspended = s.suspended := rfl
@[simp] theorem tarnMod_missSlots (f : Tarns → Tarns) : (tarnMod f s).missSlots = s.missSlots := rfl
@[simp] theorem tarnMod_missWait (f : Tarns → Tarns) : (tarnMod f s).missWait = s.missWait := rfl
@[simp] theorem tarnMod_journal (f : Tarns → Tarns) : (tarnMod f s).journal = s.journal := rfl
@[simp] theorem tarnMod_qps (f : Tarns → Tarns) : (tarnMod f s).qps = s.qps := rfl
@[simp] theorem tarnMod_srqs (f : Tarns → Tarns) : (tarnMod f s).srqs = s.srqs := rfl
@[simp] theorem tarnMod_sched (f : Tarns → Tarns) : (tarnMod f s).sched = s.sched := rfl
@[simp] theorem tarnMod_fabric (f : Tarns → Tarns) : (tarnMod f s).fabric = s.fabric := rfl
@[simp] theorem tarnMod_coll (f : Tarns → Tarns) : (tarnMod f s).coll = s.coll := rfl
@[simp] theorem tarnMod_cache (f : Tarns → Tarns) : (tarnMod f s).cache = s.cache := rfl
@[simp] theorem tarnMod_ramp (f : Tarns → Tarns) : (tarnMod f s).ramp = s.ramp := rfl
@[simp] theorem tarnMod_opers (f : Tarns → Tarns) : (tarnMod f s).opers = s.opers := rfl
@[simp] theorem tarnMod_eth (f : Tarns → Tarns) : (tarnMod f s).eth = s.eth := rfl
@[simp] theorem tarnMod_helm (f : Tarns → Tarns) : (tarnMod f s).helm = s.helm := rfl
@[simp] theorem tarnMod_sec (f : Tarns → Tarns) : (tarnMod f s).sec = s.sec := rfl
@[simp] theorem tarnMod_power (f : Tarns → Tarns) : (tarnMod f s).power = s.power := rfl
@[simp] theorem tarnMod_thermal (f : Tarns → Tarns) : (tarnMod f s).thermal = s.thermal := rfl
@[simp] theorem tarnMod_droop (f : Tarns → Tarns) : (tarnMod f s).droop = s.droop := rfl
@[simp] theorem tarnMod_ceilings (f : Tarns → Tarns) : (tarnMod f s).ceilings = s.ceilings := rfl
@[simp] theorem tarnMod_start (f : Tarns → Tarns) : (tarnMod f s).start = s.start := rfl
@[simp] theorem tarnMod_faults (f : Tarns → Tarns) : (tarnMod f s).faults = s.faults := rfl
@[simp] theorem tarnMod_jtag (f : Tarns → Tarns) : (tarnMod f s).jtag = s.jtag := rfl
@[simp] theorem tarnMod_out (f : Tarns → Tarns) : (tarnMod f s).out = s.out := rfl
@[simp] theorem tarnMod_hostAt (f : Tarns → Tarns) : (tarnMod f s).hostAt = s.hostAt := rfl
@[simp] theorem tarnMod_pending (f : Tarns → Tarns) : (tarnMod f s).pending = s.pending := rfl

/-! ### `collMod` -/

@[simp] theorem collMod_coll (f : Collectives → Collectives) : (collMod f s).coll = f s.coll := rfl
@[simp] theorem collMod_dev (f : Collectives → Collectives) : (collMod f s).dev = s.dev := rfl
@[simp] theorem collMod_pcie (f : Collectives → Collectives) : (collMod f s).pcie = s.pcie := rfl
@[simp] theorem collMod_clocks (f : Collectives → Collectives) : (collMod f s).clocks = s.clocks := rfl
@[simp] theorem collMod_fns (f : Collectives → Collectives) : (collMod f s).fns = s.fns := rfl
@[simp] theorem collMod_spaces (f : Collectives → Collectives) : (collMod f s).spaces = s.spaces := rfl
@[simp] theorem collMod_sqs (f : Collectives → Collectives) : (collMod f s).sqs = s.sqs := rfl
@[simp] theorem collMod_cqs (f : Collectives → Collectives) : (collMod f s).cqs = s.cqs := rfl
@[simp] theorem collMod_commands (f : Collectives → Collectives) : (collMod f s).commands = s.commands := rfl
@[simp] theorem collMod_heldReplies (f : Collectives → Collectives) : (collMod f s).heldReplies = s.heldReplies := rfl
@[simp] theorem collMod_regions (f : Collectives → Collectives) : (collMod f s).regions = s.regions := rfl
@[simp] theorem collMod_retired (f : Collectives → Collectives) : (collMod f s).retired = s.retired := rfl
@[simp] theorem collMod_suspended (f : Collectives → Collectives) : (collMod f s).suspended = s.suspended := rfl
@[simp] theorem collMod_missSlots (f : Collectives → Collectives) : (collMod f s).missSlots = s.missSlots := rfl
@[simp] theorem collMod_missWait (f : Collectives → Collectives) : (collMod f s).missWait = s.missWait := rfl
@[simp] theorem collMod_journal (f : Collectives → Collectives) : (collMod f s).journal = s.journal := rfl
@[simp] theorem collMod_qps (f : Collectives → Collectives) : (collMod f s).qps = s.qps := rfl
@[simp] theorem collMod_srqs (f : Collectives → Collectives) : (collMod f s).srqs = s.srqs := rfl
@[simp] theorem collMod_sched (f : Collectives → Collectives) : (collMod f s).sched = s.sched := rfl
@[simp] theorem collMod_fabric (f : Collectives → Collectives) : (collMod f s).fabric = s.fabric := rfl
@[simp] theorem collMod_cache (f : Collectives → Collectives) : (collMod f s).cache = s.cache := rfl
@[simp] theorem collMod_ramp (f : Collectives → Collectives) : (collMod f s).ramp = s.ramp := rfl
@[simp] theorem collMod_opers (f : Collectives → Collectives) : (collMod f s).opers = s.opers := rfl
@[simp] theorem collMod_tarns (f : Collectives → Collectives) : (collMod f s).tarns = s.tarns := rfl
@[simp] theorem collMod_eth (f : Collectives → Collectives) : (collMod f s).eth = s.eth := rfl
@[simp] theorem collMod_helm (f : Collectives → Collectives) : (collMod f s).helm = s.helm := rfl
@[simp] theorem collMod_sec (f : Collectives → Collectives) : (collMod f s).sec = s.sec := rfl
@[simp] theorem collMod_power (f : Collectives → Collectives) : (collMod f s).power = s.power := rfl
@[simp] theorem collMod_thermal (f : Collectives → Collectives) : (collMod f s).thermal = s.thermal := rfl
@[simp] theorem collMod_droop (f : Collectives → Collectives) : (collMod f s).droop = s.droop := rfl
@[simp] theorem collMod_ceilings (f : Collectives → Collectives) : (collMod f s).ceilings = s.ceilings := rfl
@[simp] theorem collMod_start (f : Collectives → Collectives) : (collMod f s).start = s.start := rfl
@[simp] theorem collMod_faults (f : Collectives → Collectives) : (collMod f s).faults = s.faults := rfl
@[simp] theorem collMod_jtag (f : Collectives → Collectives) : (collMod f s).jtag = s.jtag := rfl
@[simp] theorem collMod_out (f : Collectives → Collectives) : (collMod f s).out = s.out := rfl
@[simp] theorem collMod_hostAt (f : Collectives → Collectives) : (collMod f s).hostAt = s.hostAt := rfl
@[simp] theorem collMod_pending (f : Collectives → Collectives) : (collMod f s).pending = s.pending := rfl

/-! ### `cacheMod` -/

@[simp] theorem cacheMod_cache (f : Cache → Cache) : (cacheMod f s).cache = f s.cache := rfl
@[simp] theorem cacheMod_dev (f : Cache → Cache) : (cacheMod f s).dev = s.dev := rfl
@[simp] theorem cacheMod_pcie (f : Cache → Cache) : (cacheMod f s).pcie = s.pcie := rfl
@[simp] theorem cacheMod_clocks (f : Cache → Cache) : (cacheMod f s).clocks = s.clocks := rfl
@[simp] theorem cacheMod_fns (f : Cache → Cache) : (cacheMod f s).fns = s.fns := rfl
@[simp] theorem cacheMod_spaces (f : Cache → Cache) : (cacheMod f s).spaces = s.spaces := rfl
@[simp] theorem cacheMod_sqs (f : Cache → Cache) : (cacheMod f s).sqs = s.sqs := rfl
@[simp] theorem cacheMod_cqs (f : Cache → Cache) : (cacheMod f s).cqs = s.cqs := rfl
@[simp] theorem cacheMod_commands (f : Cache → Cache) : (cacheMod f s).commands = s.commands := rfl
@[simp] theorem cacheMod_heldReplies (f : Cache → Cache) : (cacheMod f s).heldReplies = s.heldReplies := rfl
@[simp] theorem cacheMod_regions (f : Cache → Cache) : (cacheMod f s).regions = s.regions := rfl
@[simp] theorem cacheMod_retired (f : Cache → Cache) : (cacheMod f s).retired = s.retired := rfl
@[simp] theorem cacheMod_suspended (f : Cache → Cache) : (cacheMod f s).suspended = s.suspended := rfl
@[simp] theorem cacheMod_missSlots (f : Cache → Cache) : (cacheMod f s).missSlots = s.missSlots := rfl
@[simp] theorem cacheMod_missWait (f : Cache → Cache) : (cacheMod f s).missWait = s.missWait := rfl
@[simp] theorem cacheMod_journal (f : Cache → Cache) : (cacheMod f s).journal = s.journal := rfl
@[simp] theorem cacheMod_qps (f : Cache → Cache) : (cacheMod f s).qps = s.qps := rfl
@[simp] theorem cacheMod_srqs (f : Cache → Cache) : (cacheMod f s).srqs = s.srqs := rfl
@[simp] theorem cacheMod_sched (f : Cache → Cache) : (cacheMod f s).sched = s.sched := rfl
@[simp] theorem cacheMod_fabric (f : Cache → Cache) : (cacheMod f s).fabric = s.fabric := rfl
@[simp] theorem cacheMod_coll (f : Cache → Cache) : (cacheMod f s).coll = s.coll := rfl
@[simp] theorem cacheMod_ramp (f : Cache → Cache) : (cacheMod f s).ramp = s.ramp := rfl
@[simp] theorem cacheMod_opers (f : Cache → Cache) : (cacheMod f s).opers = s.opers := rfl
@[simp] theorem cacheMod_tarns (f : Cache → Cache) : (cacheMod f s).tarns = s.tarns := rfl
@[simp] theorem cacheMod_eth (f : Cache → Cache) : (cacheMod f s).eth = s.eth := rfl
@[simp] theorem cacheMod_helm (f : Cache → Cache) : (cacheMod f s).helm = s.helm := rfl
@[simp] theorem cacheMod_sec (f : Cache → Cache) : (cacheMod f s).sec = s.sec := rfl
@[simp] theorem cacheMod_power (f : Cache → Cache) : (cacheMod f s).power = s.power := rfl
@[simp] theorem cacheMod_thermal (f : Cache → Cache) : (cacheMod f s).thermal = s.thermal := rfl
@[simp] theorem cacheMod_droop (f : Cache → Cache) : (cacheMod f s).droop = s.droop := rfl
@[simp] theorem cacheMod_ceilings (f : Cache → Cache) : (cacheMod f s).ceilings = s.ceilings := rfl
@[simp] theorem cacheMod_start (f : Cache → Cache) : (cacheMod f s).start = s.start := rfl
@[simp] theorem cacheMod_faults (f : Cache → Cache) : (cacheMod f s).faults = s.faults := rfl
@[simp] theorem cacheMod_jtag (f : Cache → Cache) : (cacheMod f s).jtag = s.jtag := rfl
@[simp] theorem cacheMod_out (f : Cache → Cache) : (cacheMod f s).out = s.out := rfl
@[simp] theorem cacheMod_hostAt (f : Cache → Cache) : (cacheMod f s).hostAt = s.hostAt := rfl
@[simp] theorem cacheMod_pending (f : Cache → Cache) : (cacheMod f s).pending = s.pending := rfl

/-! ### `rampMod` -/

@[simp] theorem rampMod_ramp (f : Ramp → Ramp) : (rampMod f s).ramp = f s.ramp := rfl
@[simp] theorem rampMod_dev (f : Ramp → Ramp) : (rampMod f s).dev = s.dev := rfl
@[simp] theorem rampMod_pcie (f : Ramp → Ramp) : (rampMod f s).pcie = s.pcie := rfl
@[simp] theorem rampMod_clocks (f : Ramp → Ramp) : (rampMod f s).clocks = s.clocks := rfl
@[simp] theorem rampMod_fns (f : Ramp → Ramp) : (rampMod f s).fns = s.fns := rfl
@[simp] theorem rampMod_spaces (f : Ramp → Ramp) : (rampMod f s).spaces = s.spaces := rfl
@[simp] theorem rampMod_sqs (f : Ramp → Ramp) : (rampMod f s).sqs = s.sqs := rfl
@[simp] theorem rampMod_cqs (f : Ramp → Ramp) : (rampMod f s).cqs = s.cqs := rfl
@[simp] theorem rampMod_commands (f : Ramp → Ramp) : (rampMod f s).commands = s.commands := rfl
@[simp] theorem rampMod_heldReplies (f : Ramp → Ramp) : (rampMod f s).heldReplies = s.heldReplies := rfl
@[simp] theorem rampMod_regions (f : Ramp → Ramp) : (rampMod f s).regions = s.regions := rfl
@[simp] theorem rampMod_retired (f : Ramp → Ramp) : (rampMod f s).retired = s.retired := rfl
@[simp] theorem rampMod_suspended (f : Ramp → Ramp) : (rampMod f s).suspended = s.suspended := rfl
@[simp] theorem rampMod_missSlots (f : Ramp → Ramp) : (rampMod f s).missSlots = s.missSlots := rfl
@[simp] theorem rampMod_missWait (f : Ramp → Ramp) : (rampMod f s).missWait = s.missWait := rfl
@[simp] theorem rampMod_journal (f : Ramp → Ramp) : (rampMod f s).journal = s.journal := rfl
@[simp] theorem rampMod_qps (f : Ramp → Ramp) : (rampMod f s).qps = s.qps := rfl
@[simp] theorem rampMod_srqs (f : Ramp → Ramp) : (rampMod f s).srqs = s.srqs := rfl
@[simp] theorem rampMod_sched (f : Ramp → Ramp) : (rampMod f s).sched = s.sched := rfl
@[simp] theorem rampMod_fabric (f : Ramp → Ramp) : (rampMod f s).fabric = s.fabric := rfl
@[simp] theorem rampMod_coll (f : Ramp → Ramp) : (rampMod f s).coll = s.coll := rfl
@[simp] theorem rampMod_cache (f : Ramp → Ramp) : (rampMod f s).cache = s.cache := rfl
@[simp] theorem rampMod_opers (f : Ramp → Ramp) : (rampMod f s).opers = s.opers := rfl
@[simp] theorem rampMod_tarns (f : Ramp → Ramp) : (rampMod f s).tarns = s.tarns := rfl
@[simp] theorem rampMod_eth (f : Ramp → Ramp) : (rampMod f s).eth = s.eth := rfl
@[simp] theorem rampMod_helm (f : Ramp → Ramp) : (rampMod f s).helm = s.helm := rfl
@[simp] theorem rampMod_sec (f : Ramp → Ramp) : (rampMod f s).sec = s.sec := rfl
@[simp] theorem rampMod_power (f : Ramp → Ramp) : (rampMod f s).power = s.power := rfl
@[simp] theorem rampMod_thermal (f : Ramp → Ramp) : (rampMod f s).thermal = s.thermal := rfl
@[simp] theorem rampMod_droop (f : Ramp → Ramp) : (rampMod f s).droop = s.droop := rfl
@[simp] theorem rampMod_ceilings (f : Ramp → Ramp) : (rampMod f s).ceilings = s.ceilings := rfl
@[simp] theorem rampMod_start (f : Ramp → Ramp) : (rampMod f s).start = s.start := rfl
@[simp] theorem rampMod_faults (f : Ramp → Ramp) : (rampMod f s).faults = s.faults := rfl
@[simp] theorem rampMod_jtag (f : Ramp → Ramp) : (rampMod f s).jtag = s.jtag := rfl
@[simp] theorem rampMod_out (f : Ramp → Ramp) : (rampMod f s).out = s.out := rfl
@[simp] theorem rampMod_hostAt (f : Ramp → Ramp) : (rampMod f s).hostAt = s.hostAt := rfl
@[simp] theorem rampMod_pending (f : Ramp → Ramp) : (rampMod f s).pending = s.pending := rfl

/-! ### `opRunMod` -/

@[simp] theorem opRunMod_opers (rec : Nat) (f : OpRun → OpRun) : (opRunMod rec f s).opers = s.opers.map fun r => if r.work = rec then f r else r := rfl
@[simp] theorem opRunMod_dev (rec : Nat) (f : OpRun → OpRun) : (opRunMod rec f s).dev = s.dev := rfl
@[simp] theorem opRunMod_pcie (rec : Nat) (f : OpRun → OpRun) : (opRunMod rec f s).pcie = s.pcie := rfl
@[simp] theorem opRunMod_clocks (rec : Nat) (f : OpRun → OpRun) : (opRunMod rec f s).clocks = s.clocks := rfl
@[simp] theorem opRunMod_fns (rec : Nat) (f : OpRun → OpRun) : (opRunMod rec f s).fns = s.fns := rfl
@[simp] theorem opRunMod_spaces (rec : Nat) (f : OpRun → OpRun) : (opRunMod rec f s).spaces = s.spaces := rfl
@[simp] theorem opRunMod_sqs (rec : Nat) (f : OpRun → OpRun) : (opRunMod rec f s).sqs = s.sqs := rfl
@[simp] theorem opRunMod_cqs (rec : Nat) (f : OpRun → OpRun) : (opRunMod rec f s).cqs = s.cqs := rfl
@[simp] theorem opRunMod_commands (rec : Nat) (f : OpRun → OpRun) : (opRunMod rec f s).commands = s.commands := rfl
@[simp] theorem opRunMod_heldReplies (rec : Nat) (f : OpRun → OpRun) : (opRunMod rec f s).heldReplies = s.heldReplies := rfl
@[simp] theorem opRunMod_regions (rec : Nat) (f : OpRun → OpRun) : (opRunMod rec f s).regions = s.regions := rfl
@[simp] theorem opRunMod_retired (rec : Nat) (f : OpRun → OpRun) : (opRunMod rec f s).retired = s.retired := rfl
@[simp] theorem opRunMod_suspended (rec : Nat) (f : OpRun → OpRun) : (opRunMod rec f s).suspended = s.suspended := rfl
@[simp] theorem opRunMod_missSlots (rec : Nat) (f : OpRun → OpRun) : (opRunMod rec f s).missSlots = s.missSlots := rfl
@[simp] theorem opRunMod_missWait (rec : Nat) (f : OpRun → OpRun) : (opRunMod rec f s).missWait = s.missWait := rfl
@[simp] theorem opRunMod_journal (rec : Nat) (f : OpRun → OpRun) : (opRunMod rec f s).journal = s.journal := rfl
@[simp] theorem opRunMod_qps (rec : Nat) (f : OpRun → OpRun) : (opRunMod rec f s).qps = s.qps := rfl
@[simp] theorem opRunMod_srqs (rec : Nat) (f : OpRun → OpRun) : (opRunMod rec f s).srqs = s.srqs := rfl
@[simp] theorem opRunMod_sched (rec : Nat) (f : OpRun → OpRun) : (opRunMod rec f s).sched = s.sched := rfl
@[simp] theorem opRunMod_fabric (rec : Nat) (f : OpRun → OpRun) : (opRunMod rec f s).fabric = s.fabric := rfl
@[simp] theorem opRunMod_coll (rec : Nat) (f : OpRun → OpRun) : (opRunMod rec f s).coll = s.coll := rfl
@[simp] theorem opRunMod_cache (rec : Nat) (f : OpRun → OpRun) : (opRunMod rec f s).cache = s.cache := rfl
@[simp] theorem opRunMod_ramp (rec : Nat) (f : OpRun → OpRun) : (opRunMod rec f s).ramp = s.ramp := rfl
@[simp] theorem opRunMod_tarns (rec : Nat) (f : OpRun → OpRun) : (opRunMod rec f s).tarns = s.tarns := rfl
@[simp] theorem opRunMod_eth (rec : Nat) (f : OpRun → OpRun) : (opRunMod rec f s).eth = s.eth := rfl
@[simp] theorem opRunMod_helm (rec : Nat) (f : OpRun → OpRun) : (opRunMod rec f s).helm = s.helm := rfl
@[simp] theorem opRunMod_sec (rec : Nat) (f : OpRun → OpRun) : (opRunMod rec f s).sec = s.sec := rfl
@[simp] theorem opRunMod_power (rec : Nat) (f : OpRun → OpRun) : (opRunMod rec f s).power = s.power := rfl
@[simp] theorem opRunMod_thermal (rec : Nat) (f : OpRun → OpRun) : (opRunMod rec f s).thermal = s.thermal := rfl
@[simp] theorem opRunMod_droop (rec : Nat) (f : OpRun → OpRun) : (opRunMod rec f s).droop = s.droop := rfl
@[simp] theorem opRunMod_ceilings (rec : Nat) (f : OpRun → OpRun) : (opRunMod rec f s).ceilings = s.ceilings := rfl
@[simp] theorem opRunMod_start (rec : Nat) (f : OpRun → OpRun) : (opRunMod rec f s).start = s.start := rfl
@[simp] theorem opRunMod_faults (rec : Nat) (f : OpRun → OpRun) : (opRunMod rec f s).faults = s.faults := rfl
@[simp] theorem opRunMod_jtag (rec : Nat) (f : OpRun → OpRun) : (opRunMod rec f s).jtag = s.jtag := rfl
@[simp] theorem opRunMod_out (rec : Nat) (f : OpRun → OpRun) : (opRunMod rec f s).out = s.out := rfl
@[simp] theorem opRunMod_hostAt (rec : Nat) (f : OpRun → OpRun) : (opRunMod rec f s).hostAt = s.hostAt := rfl
@[simp] theorem opRunMod_pending (rec : Nat) (f : OpRun → OpRun) : (opRunMod rec f s).pending = s.pending := rfl

/-! ### `secMod` -/

@[simp] theorem secMod_sec (f : Security → Security) : (secMod f s).sec = f s.sec := rfl
@[simp] theorem secMod_dev (f : Security → Security) : (secMod f s).dev = s.dev := rfl
@[simp] theorem secMod_pcie (f : Security → Security) : (secMod f s).pcie = s.pcie := rfl
@[simp] theorem secMod_clocks (f : Security → Security) : (secMod f s).clocks = s.clocks := rfl
@[simp] theorem secMod_fns (f : Security → Security) : (secMod f s).fns = s.fns := rfl
@[simp] theorem secMod_spaces (f : Security → Security) : (secMod f s).spaces = s.spaces := rfl
@[simp] theorem secMod_sqs (f : Security → Security) : (secMod f s).sqs = s.sqs := rfl
@[simp] theorem secMod_cqs (f : Security → Security) : (secMod f s).cqs = s.cqs := rfl
@[simp] theorem secMod_commands (f : Security → Security) : (secMod f s).commands = s.commands := rfl
@[simp] theorem secMod_heldReplies (f : Security → Security) : (secMod f s).heldReplies = s.heldReplies := rfl
@[simp] theorem secMod_regions (f : Security → Security) : (secMod f s).regions = s.regions := rfl
@[simp] theorem secMod_retired (f : Security → Security) : (secMod f s).retired = s.retired := rfl
@[simp] theorem secMod_suspended (f : Security → Security) : (secMod f s).suspended = s.suspended := rfl
@[simp] theorem secMod_missSlots (f : Security → Security) : (secMod f s).missSlots = s.missSlots := rfl
@[simp] theorem secMod_missWait (f : Security → Security) : (secMod f s).missWait = s.missWait := rfl
@[simp] theorem secMod_journal (f : Security → Security) : (secMod f s).journal = s.journal := rfl
@[simp] theorem secMod_qps (f : Security → Security) : (secMod f s).qps = s.qps := rfl
@[simp] theorem secMod_srqs (f : Security → Security) : (secMod f s).srqs = s.srqs := rfl
@[simp] theorem secMod_sched (f : Security → Security) : (secMod f s).sched = s.sched := rfl
@[simp] theorem secMod_fabric (f : Security → Security) : (secMod f s).fabric = s.fabric := rfl
@[simp] theorem secMod_coll (f : Security → Security) : (secMod f s).coll = s.coll := rfl
@[simp] theorem secMod_cache (f : Security → Security) : (secMod f s).cache = s.cache := rfl
@[simp] theorem secMod_ramp (f : Security → Security) : (secMod f s).ramp = s.ramp := rfl
@[simp] theorem secMod_opers (f : Security → Security) : (secMod f s).opers = s.opers := rfl
@[simp] theorem secMod_tarns (f : Security → Security) : (secMod f s).tarns = s.tarns := rfl
@[simp] theorem secMod_eth (f : Security → Security) : (secMod f s).eth = s.eth := rfl
@[simp] theorem secMod_helm (f : Security → Security) : (secMod f s).helm = s.helm := rfl
@[simp] theorem secMod_power (f : Security → Security) : (secMod f s).power = s.power := rfl
@[simp] theorem secMod_thermal (f : Security → Security) : (secMod f s).thermal = s.thermal := rfl
@[simp] theorem secMod_droop (f : Security → Security) : (secMod f s).droop = s.droop := rfl
@[simp] theorem secMod_ceilings (f : Security → Security) : (secMod f s).ceilings = s.ceilings := rfl
@[simp] theorem secMod_start (f : Security → Security) : (secMod f s).start = s.start := rfl
@[simp] theorem secMod_faults (f : Security → Security) : (secMod f s).faults = s.faults := rfl
@[simp] theorem secMod_jtag (f : Security → Security) : (secMod f s).jtag = s.jtag := rfl
@[simp] theorem secMod_out (f : Security → Security) : (secMod f s).out = s.out := rfl
@[simp] theorem secMod_hostAt (f : Security → Security) : (secMod f s).hostAt = s.hostAt := rfl
@[simp] theorem secMod_pending (f : Security → Security) : (secMod f s).pending = s.pending := rfl

/-! ### `powerMod` -/

@[simp] theorem powerMod_power (f : Power → Power) : (powerMod f s).power = f s.power := rfl
@[simp] theorem powerMod_dev (f : Power → Power) : (powerMod f s).dev = s.dev := rfl
@[simp] theorem powerMod_pcie (f : Power → Power) : (powerMod f s).pcie = s.pcie := rfl
@[simp] theorem powerMod_clocks (f : Power → Power) : (powerMod f s).clocks = s.clocks := rfl
@[simp] theorem powerMod_fns (f : Power → Power) : (powerMod f s).fns = s.fns := rfl
@[simp] theorem powerMod_spaces (f : Power → Power) : (powerMod f s).spaces = s.spaces := rfl
@[simp] theorem powerMod_sqs (f : Power → Power) : (powerMod f s).sqs = s.sqs := rfl
@[simp] theorem powerMod_cqs (f : Power → Power) : (powerMod f s).cqs = s.cqs := rfl
@[simp] theorem powerMod_commands (f : Power → Power) : (powerMod f s).commands = s.commands := rfl
@[simp] theorem powerMod_heldReplies (f : Power → Power) : (powerMod f s).heldReplies = s.heldReplies := rfl
@[simp] theorem powerMod_regions (f : Power → Power) : (powerMod f s).regions = s.regions := rfl
@[simp] theorem powerMod_retired (f : Power → Power) : (powerMod f s).retired = s.retired := rfl
@[simp] theorem powerMod_suspended (f : Power → Power) : (powerMod f s).suspended = s.suspended := rfl
@[simp] theorem powerMod_missSlots (f : Power → Power) : (powerMod f s).missSlots = s.missSlots := rfl
@[simp] theorem powerMod_missWait (f : Power → Power) : (powerMod f s).missWait = s.missWait := rfl
@[simp] theorem powerMod_journal (f : Power → Power) : (powerMod f s).journal = s.journal := rfl
@[simp] theorem powerMod_qps (f : Power → Power) : (powerMod f s).qps = s.qps := rfl
@[simp] theorem powerMod_srqs (f : Power → Power) : (powerMod f s).srqs = s.srqs := rfl
@[simp] theorem powerMod_sched (f : Power → Power) : (powerMod f s).sched = s.sched := rfl
@[simp] theorem powerMod_fabric (f : Power → Power) : (powerMod f s).fabric = s.fabric := rfl
@[simp] theorem powerMod_coll (f : Power → Power) : (powerMod f s).coll = s.coll := rfl
@[simp] theorem powerMod_cache (f : Power → Power) : (powerMod f s).cache = s.cache := rfl
@[simp] theorem powerMod_ramp (f : Power → Power) : (powerMod f s).ramp = s.ramp := rfl
@[simp] theorem powerMod_opers (f : Power → Power) : (powerMod f s).opers = s.opers := rfl
@[simp] theorem powerMod_tarns (f : Power → Power) : (powerMod f s).tarns = s.tarns := rfl
@[simp] theorem powerMod_eth (f : Power → Power) : (powerMod f s).eth = s.eth := rfl
@[simp] theorem powerMod_helm (f : Power → Power) : (powerMod f s).helm = s.helm := rfl
@[simp] theorem powerMod_sec (f : Power → Power) : (powerMod f s).sec = s.sec := rfl
@[simp] theorem powerMod_thermal (f : Power → Power) : (powerMod f s).thermal = s.thermal := rfl
@[simp] theorem powerMod_droop (f : Power → Power) : (powerMod f s).droop = s.droop := rfl
@[simp] theorem powerMod_ceilings (f : Power → Power) : (powerMod f s).ceilings = s.ceilings := rfl
@[simp] theorem powerMod_start (f : Power → Power) : (powerMod f s).start = s.start := rfl
@[simp] theorem powerMod_faults (f : Power → Power) : (powerMod f s).faults = s.faults := rfl
@[simp] theorem powerMod_jtag (f : Power → Power) : (powerMod f s).jtag = s.jtag := rfl
@[simp] theorem powerMod_out (f : Power → Power) : (powerMod f s).out = s.out := rfl
@[simp] theorem powerMod_hostAt (f : Power → Power) : (powerMod f s).hostAt = s.hostAt := rfl
@[simp] theorem powerMod_pending (f : Power → Power) : (powerMod f s).pending = s.pending := rfl

/-! ### `thermalMod` -/

@[simp] theorem thermalMod_thermal (f : Thermal → Thermal) : (thermalMod f s).thermal = f s.thermal := rfl
@[simp] theorem thermalMod_dev (f : Thermal → Thermal) : (thermalMod f s).dev = s.dev := rfl
@[simp] theorem thermalMod_pcie (f : Thermal → Thermal) : (thermalMod f s).pcie = s.pcie := rfl
@[simp] theorem thermalMod_clocks (f : Thermal → Thermal) : (thermalMod f s).clocks = s.clocks := rfl
@[simp] theorem thermalMod_fns (f : Thermal → Thermal) : (thermalMod f s).fns = s.fns := rfl
@[simp] theorem thermalMod_spaces (f : Thermal → Thermal) : (thermalMod f s).spaces = s.spaces := rfl
@[simp] theorem thermalMod_sqs (f : Thermal → Thermal) : (thermalMod f s).sqs = s.sqs := rfl
@[simp] theorem thermalMod_cqs (f : Thermal → Thermal) : (thermalMod f s).cqs = s.cqs := rfl
@[simp] theorem thermalMod_commands (f : Thermal → Thermal) : (thermalMod f s).commands = s.commands := rfl
@[simp] theorem thermalMod_heldReplies (f : Thermal → Thermal) : (thermalMod f s).heldReplies = s.heldReplies := rfl
@[simp] theorem thermalMod_regions (f : Thermal → Thermal) : (thermalMod f s).regions = s.regions := rfl
@[simp] theorem thermalMod_retired (f : Thermal → Thermal) : (thermalMod f s).retired = s.retired := rfl
@[simp] theorem thermalMod_suspended (f : Thermal → Thermal) : (thermalMod f s).suspended = s.suspended := rfl
@[simp] theorem thermalMod_missSlots (f : Thermal → Thermal) : (thermalMod f s).missSlots = s.missSlots := rfl
@[simp] theorem thermalMod_missWait (f : Thermal → Thermal) : (thermalMod f s).missWait = s.missWait := rfl
@[simp] theorem thermalMod_journal (f : Thermal → Thermal) : (thermalMod f s).journal = s.journal := rfl
@[simp] theorem thermalMod_qps (f : Thermal → Thermal) : (thermalMod f s).qps = s.qps := rfl
@[simp] theorem thermalMod_srqs (f : Thermal → Thermal) : (thermalMod f s).srqs = s.srqs := rfl
@[simp] theorem thermalMod_sched (f : Thermal → Thermal) : (thermalMod f s).sched = s.sched := rfl
@[simp] theorem thermalMod_fabric (f : Thermal → Thermal) : (thermalMod f s).fabric = s.fabric := rfl
@[simp] theorem thermalMod_coll (f : Thermal → Thermal) : (thermalMod f s).coll = s.coll := rfl
@[simp] theorem thermalMod_cache (f : Thermal → Thermal) : (thermalMod f s).cache = s.cache := rfl
@[simp] theorem thermalMod_ramp (f : Thermal → Thermal) : (thermalMod f s).ramp = s.ramp := rfl
@[simp] theorem thermalMod_opers (f : Thermal → Thermal) : (thermalMod f s).opers = s.opers := rfl
@[simp] theorem thermalMod_tarns (f : Thermal → Thermal) : (thermalMod f s).tarns = s.tarns := rfl
@[simp] theorem thermalMod_eth (f : Thermal → Thermal) : (thermalMod f s).eth = s.eth := rfl
@[simp] theorem thermalMod_helm (f : Thermal → Thermal) : (thermalMod f s).helm = s.helm := rfl
@[simp] theorem thermalMod_sec (f : Thermal → Thermal) : (thermalMod f s).sec = s.sec := rfl
@[simp] theorem thermalMod_power (f : Thermal → Thermal) : (thermalMod f s).power = s.power := rfl
@[simp] theorem thermalMod_droop (f : Thermal → Thermal) : (thermalMod f s).droop = s.droop := rfl
@[simp] theorem thermalMod_ceilings (f : Thermal → Thermal) : (thermalMod f s).ceilings = s.ceilings := rfl
@[simp] theorem thermalMod_start (f : Thermal → Thermal) : (thermalMod f s).start = s.start := rfl
@[simp] theorem thermalMod_faults (f : Thermal → Thermal) : (thermalMod f s).faults = s.faults := rfl
@[simp] theorem thermalMod_jtag (f : Thermal → Thermal) : (thermalMod f s).jtag = s.jtag := rfl
@[simp] theorem thermalMod_out (f : Thermal → Thermal) : (thermalMod f s).out = s.out := rfl
@[simp] theorem thermalMod_hostAt (f : Thermal → Thermal) : (thermalMod f s).hostAt = s.hostAt := rfl
@[simp] theorem thermalMod_pending (f : Thermal → Thermal) : (thermalMod f s).pending = s.pending := rfl

/-! ### `droopMod` -/

@[simp] theorem droopMod_droop (f : Droop → Droop) : (droopMod f s).droop = f s.droop := rfl
@[simp] theorem droopMod_dev (f : Droop → Droop) : (droopMod f s).dev = s.dev := rfl
@[simp] theorem droopMod_pcie (f : Droop → Droop) : (droopMod f s).pcie = s.pcie := rfl
@[simp] theorem droopMod_clocks (f : Droop → Droop) : (droopMod f s).clocks = s.clocks := rfl
@[simp] theorem droopMod_fns (f : Droop → Droop) : (droopMod f s).fns = s.fns := rfl
@[simp] theorem droopMod_spaces (f : Droop → Droop) : (droopMod f s).spaces = s.spaces := rfl
@[simp] theorem droopMod_sqs (f : Droop → Droop) : (droopMod f s).sqs = s.sqs := rfl
@[simp] theorem droopMod_cqs (f : Droop → Droop) : (droopMod f s).cqs = s.cqs := rfl
@[simp] theorem droopMod_commands (f : Droop → Droop) : (droopMod f s).commands = s.commands := rfl
@[simp] theorem droopMod_heldReplies (f : Droop → Droop) : (droopMod f s).heldReplies = s.heldReplies := rfl
@[simp] theorem droopMod_regions (f : Droop → Droop) : (droopMod f s).regions = s.regions := rfl
@[simp] theorem droopMod_retired (f : Droop → Droop) : (droopMod f s).retired = s.retired := rfl
@[simp] theorem droopMod_suspended (f : Droop → Droop) : (droopMod f s).suspended = s.suspended := rfl
@[simp] theorem droopMod_missSlots (f : Droop → Droop) : (droopMod f s).missSlots = s.missSlots := rfl
@[simp] theorem droopMod_missWait (f : Droop → Droop) : (droopMod f s).missWait = s.missWait := rfl
@[simp] theorem droopMod_journal (f : Droop → Droop) : (droopMod f s).journal = s.journal := rfl
@[simp] theorem droopMod_qps (f : Droop → Droop) : (droopMod f s).qps = s.qps := rfl
@[simp] theorem droopMod_srqs (f : Droop → Droop) : (droopMod f s).srqs = s.srqs := rfl
@[simp] theorem droopMod_sched (f : Droop → Droop) : (droopMod f s).sched = s.sched := rfl
@[simp] theorem droopMod_fabric (f : Droop → Droop) : (droopMod f s).fabric = s.fabric := rfl
@[simp] theorem droopMod_coll (f : Droop → Droop) : (droopMod f s).coll = s.coll := rfl
@[simp] theorem droopMod_cache (f : Droop → Droop) : (droopMod f s).cache = s.cache := rfl
@[simp] theorem droopMod_ramp (f : Droop → Droop) : (droopMod f s).ramp = s.ramp := rfl
@[simp] theorem droopMod_opers (f : Droop → Droop) : (droopMod f s).opers = s.opers := rfl
@[simp] theorem droopMod_tarns (f : Droop → Droop) : (droopMod f s).tarns = s.tarns := rfl
@[simp] theorem droopMod_eth (f : Droop → Droop) : (droopMod f s).eth = s.eth := rfl
@[simp] theorem droopMod_helm (f : Droop → Droop) : (droopMod f s).helm = s.helm := rfl
@[simp] theorem droopMod_sec (f : Droop → Droop) : (droopMod f s).sec = s.sec := rfl
@[simp] theorem droopMod_power (f : Droop → Droop) : (droopMod f s).power = s.power := rfl
@[simp] theorem droopMod_thermal (f : Droop → Droop) : (droopMod f s).thermal = s.thermal := rfl
@[simp] theorem droopMod_ceilings (f : Droop → Droop) : (droopMod f s).ceilings = s.ceilings := rfl
@[simp] theorem droopMod_start (f : Droop → Droop) : (droopMod f s).start = s.start := rfl
@[simp] theorem droopMod_faults (f : Droop → Droop) : (droopMod f s).faults = s.faults := rfl
@[simp] theorem droopMod_jtag (f : Droop → Droop) : (droopMod f s).jtag = s.jtag := rfl
@[simp] theorem droopMod_out (f : Droop → Droop) : (droopMod f s).out = s.out := rfl
@[simp] theorem droopMod_hostAt (f : Droop → Droop) : (droopMod f s).hostAt = s.hostAt := rfl
@[simp] theorem droopMod_pending (f : Droop → Droop) : (droopMod f s).pending = s.pending := rfl

/-! ### `ceilMod` -/

@[simp] theorem ceilMod_ceilings (f : Ceilings → Ceilings) : (ceilMod f s).ceilings = f s.ceilings := rfl
@[simp] theorem ceilMod_dev (f : Ceilings → Ceilings) : (ceilMod f s).dev = s.dev := rfl
@[simp] theorem ceilMod_pcie (f : Ceilings → Ceilings) : (ceilMod f s).pcie = s.pcie := rfl
@[simp] theorem ceilMod_clocks (f : Ceilings → Ceilings) : (ceilMod f s).clocks = s.clocks := rfl
@[simp] theorem ceilMod_fns (f : Ceilings → Ceilings) : (ceilMod f s).fns = s.fns := rfl
@[simp] theorem ceilMod_spaces (f : Ceilings → Ceilings) : (ceilMod f s).spaces = s.spaces := rfl
@[simp] theorem ceilMod_sqs (f : Ceilings → Ceilings) : (ceilMod f s).sqs = s.sqs := rfl
@[simp] theorem ceilMod_cqs (f : Ceilings → Ceilings) : (ceilMod f s).cqs = s.cqs := rfl
@[simp] theorem ceilMod_commands (f : Ceilings → Ceilings) : (ceilMod f s).commands = s.commands := rfl
@[simp] theorem ceilMod_heldReplies (f : Ceilings → Ceilings) : (ceilMod f s).heldReplies = s.heldReplies := rfl
@[simp] theorem ceilMod_regions (f : Ceilings → Ceilings) : (ceilMod f s).regions = s.regions := rfl
@[simp] theorem ceilMod_retired (f : Ceilings → Ceilings) : (ceilMod f s).retired = s.retired := rfl
@[simp] theorem ceilMod_suspended (f : Ceilings → Ceilings) : (ceilMod f s).suspended = s.suspended := rfl
@[simp] theorem ceilMod_missSlots (f : Ceilings → Ceilings) : (ceilMod f s).missSlots = s.missSlots := rfl
@[simp] theorem ceilMod_missWait (f : Ceilings → Ceilings) : (ceilMod f s).missWait = s.missWait := rfl
@[simp] theorem ceilMod_journal (f : Ceilings → Ceilings) : (ceilMod f s).journal = s.journal := rfl
@[simp] theorem ceilMod_qps (f : Ceilings → Ceilings) : (ceilMod f s).qps = s.qps := rfl
@[simp] theorem ceilMod_srqs (f : Ceilings → Ceilings) : (ceilMod f s).srqs = s.srqs := rfl
@[simp] theorem ceilMod_sched (f : Ceilings → Ceilings) : (ceilMod f s).sched = s.sched := rfl
@[simp] theorem ceilMod_fabric (f : Ceilings → Ceilings) : (ceilMod f s).fabric = s.fabric := rfl
@[simp] theorem ceilMod_coll (f : Ceilings → Ceilings) : (ceilMod f s).coll = s.coll := rfl
@[simp] theorem ceilMod_cache (f : Ceilings → Ceilings) : (ceilMod f s).cache = s.cache := rfl
@[simp] theorem ceilMod_ramp (f : Ceilings → Ceilings) : (ceilMod f s).ramp = s.ramp := rfl
@[simp] theorem ceilMod_opers (f : Ceilings → Ceilings) : (ceilMod f s).opers = s.opers := rfl
@[simp] theorem ceilMod_tarns (f : Ceilings → Ceilings) : (ceilMod f s).tarns = s.tarns := rfl
@[simp] theorem ceilMod_eth (f : Ceilings → Ceilings) : (ceilMod f s).eth = s.eth := rfl
@[simp] theorem ceilMod_helm (f : Ceilings → Ceilings) : (ceilMod f s).helm = s.helm := rfl
@[simp] theorem ceilMod_sec (f : Ceilings → Ceilings) : (ceilMod f s).sec = s.sec := rfl
@[simp] theorem ceilMod_power (f : Ceilings → Ceilings) : (ceilMod f s).power = s.power := rfl
@[simp] theorem ceilMod_thermal (f : Ceilings → Ceilings) : (ceilMod f s).thermal = s.thermal := rfl
@[simp] theorem ceilMod_droop (f : Ceilings → Ceilings) : (ceilMod f s).droop = s.droop := rfl
@[simp] theorem ceilMod_start (f : Ceilings → Ceilings) : (ceilMod f s).start = s.start := rfl
@[simp] theorem ceilMod_faults (f : Ceilings → Ceilings) : (ceilMod f s).faults = s.faults := rfl
@[simp] theorem ceilMod_jtag (f : Ceilings → Ceilings) : (ceilMod f s).jtag = s.jtag := rfl
@[simp] theorem ceilMod_out (f : Ceilings → Ceilings) : (ceilMod f s).out = s.out := rfl
@[simp] theorem ceilMod_hostAt (f : Ceilings → Ceilings) : (ceilMod f s).hostAt = s.hostAt := rfl
@[simp] theorem ceilMod_pending (f : Ceilings → Ceilings) : (ceilMod f s).pending = s.pending := rfl

/-! ### `startMod` -/

@[simp] theorem startMod_start (f : StartInfo → StartInfo) : (startMod f s).start = f s.start := rfl
@[simp] theorem startMod_dev (f : StartInfo → StartInfo) : (startMod f s).dev = s.dev := rfl
@[simp] theorem startMod_pcie (f : StartInfo → StartInfo) : (startMod f s).pcie = s.pcie := rfl
@[simp] theorem startMod_clocks (f : StartInfo → StartInfo) : (startMod f s).clocks = s.clocks := rfl
@[simp] theorem startMod_fns (f : StartInfo → StartInfo) : (startMod f s).fns = s.fns := rfl
@[simp] theorem startMod_spaces (f : StartInfo → StartInfo) : (startMod f s).spaces = s.spaces := rfl
@[simp] theorem startMod_sqs (f : StartInfo → StartInfo) : (startMod f s).sqs = s.sqs := rfl
@[simp] theorem startMod_cqs (f : StartInfo → StartInfo) : (startMod f s).cqs = s.cqs := rfl
@[simp] theorem startMod_commands (f : StartInfo → StartInfo) : (startMod f s).commands = s.commands := rfl
@[simp] theorem startMod_heldReplies (f : StartInfo → StartInfo) : (startMod f s).heldReplies = s.heldReplies := rfl
@[simp] theorem startMod_regions (f : StartInfo → StartInfo) : (startMod f s).regions = s.regions := rfl
@[simp] theorem startMod_retired (f : StartInfo → StartInfo) : (startMod f s).retired = s.retired := rfl
@[simp] theorem startMod_suspended (f : StartInfo → StartInfo) : (startMod f s).suspended = s.suspended := rfl
@[simp] theorem startMod_missSlots (f : StartInfo → StartInfo) : (startMod f s).missSlots = s.missSlots := rfl
@[simp] theorem startMod_missWait (f : StartInfo → StartInfo) : (startMod f s).missWait = s.missWait := rfl
@[simp] theorem startMod_journal (f : StartInfo → StartInfo) : (startMod f s).journal = s.journal := rfl
@[simp] theorem startMod_qps (f : StartInfo → StartInfo) : (startMod f s).qps = s.qps := rfl
@[simp] theorem startMod_srqs (f : StartInfo → StartInfo) : (startMod f s).srqs = s.srqs := rfl
@[simp] theorem startMod_sched (f : StartInfo → StartInfo) : (startMod f s).sched = s.sched := rfl
@[simp] theorem startMod_fabric (f : StartInfo → StartInfo) : (startMod f s).fabric = s.fabric := rfl
@[simp] theorem startMod_coll (f : StartInfo → StartInfo) : (startMod f s).coll = s.coll := rfl
@[simp] theorem startMod_cache (f : StartInfo → StartInfo) : (startMod f s).cache = s.cache := rfl
@[simp] theorem startMod_ramp (f : StartInfo → StartInfo) : (startMod f s).ramp = s.ramp := rfl
@[simp] theorem startMod_opers (f : StartInfo → StartInfo) : (startMod f s).opers = s.opers := rfl
@[simp] theorem startMod_tarns (f : StartInfo → StartInfo) : (startMod f s).tarns = s.tarns := rfl
@[simp] theorem startMod_eth (f : StartInfo → StartInfo) : (startMod f s).eth = s.eth := rfl
@[simp] theorem startMod_helm (f : StartInfo → StartInfo) : (startMod f s).helm = s.helm := rfl
@[simp] theorem startMod_sec (f : StartInfo → StartInfo) : (startMod f s).sec = s.sec := rfl
@[simp] theorem startMod_power (f : StartInfo → StartInfo) : (startMod f s).power = s.power := rfl
@[simp] theorem startMod_thermal (f : StartInfo → StartInfo) : (startMod f s).thermal = s.thermal := rfl
@[simp] theorem startMod_droop (f : StartInfo → StartInfo) : (startMod f s).droop = s.droop := rfl
@[simp] theorem startMod_ceilings (f : StartInfo → StartInfo) : (startMod f s).ceilings = s.ceilings := rfl
@[simp] theorem startMod_faults (f : StartInfo → StartInfo) : (startMod f s).faults = s.faults := rfl
@[simp] theorem startMod_jtag (f : StartInfo → StartInfo) : (startMod f s).jtag = s.jtag := rfl
@[simp] theorem startMod_out (f : StartInfo → StartInfo) : (startMod f s).out = s.out := rfl
@[simp] theorem startMod_hostAt (f : StartInfo → StartInfo) : (startMod f s).hostAt = s.hostAt := rfl
@[simp] theorem startMod_pending (f : StartInfo → StartInfo) : (startMod f s).pending = s.pending := rfl

/-! ### `jtagMod` -/

@[simp] theorem jtagMod_jtag (f : Jtag → Jtag) : (jtagMod f s).jtag = f s.jtag := rfl
@[simp] theorem jtagMod_dev (f : Jtag → Jtag) : (jtagMod f s).dev = s.dev := rfl
@[simp] theorem jtagMod_pcie (f : Jtag → Jtag) : (jtagMod f s).pcie = s.pcie := rfl
@[simp] theorem jtagMod_clocks (f : Jtag → Jtag) : (jtagMod f s).clocks = s.clocks := rfl
@[simp] theorem jtagMod_fns (f : Jtag → Jtag) : (jtagMod f s).fns = s.fns := rfl
@[simp] theorem jtagMod_spaces (f : Jtag → Jtag) : (jtagMod f s).spaces = s.spaces := rfl
@[simp] theorem jtagMod_sqs (f : Jtag → Jtag) : (jtagMod f s).sqs = s.sqs := rfl
@[simp] theorem jtagMod_cqs (f : Jtag → Jtag) : (jtagMod f s).cqs = s.cqs := rfl
@[simp] theorem jtagMod_commands (f : Jtag → Jtag) : (jtagMod f s).commands = s.commands := rfl
@[simp] theorem jtagMod_heldReplies (f : Jtag → Jtag) : (jtagMod f s).heldReplies = s.heldReplies := rfl
@[simp] theorem jtagMod_regions (f : Jtag → Jtag) : (jtagMod f s).regions = s.regions := rfl
@[simp] theorem jtagMod_retired (f : Jtag → Jtag) : (jtagMod f s).retired = s.retired := rfl
@[simp] theorem jtagMod_suspended (f : Jtag → Jtag) : (jtagMod f s).suspended = s.suspended := rfl
@[simp] theorem jtagMod_missSlots (f : Jtag → Jtag) : (jtagMod f s).missSlots = s.missSlots := rfl
@[simp] theorem jtagMod_missWait (f : Jtag → Jtag) : (jtagMod f s).missWait = s.missWait := rfl
@[simp] theorem jtagMod_journal (f : Jtag → Jtag) : (jtagMod f s).journal = s.journal := rfl
@[simp] theorem jtagMod_qps (f : Jtag → Jtag) : (jtagMod f s).qps = s.qps := rfl
@[simp] theorem jtagMod_srqs (f : Jtag → Jtag) : (jtagMod f s).srqs = s.srqs := rfl
@[simp] theorem jtagMod_sched (f : Jtag → Jtag) : (jtagMod f s).sched = s.sched := rfl
@[simp] theorem jtagMod_fabric (f : Jtag → Jtag) : (jtagMod f s).fabric = s.fabric := rfl
@[simp] theorem jtagMod_coll (f : Jtag → Jtag) : (jtagMod f s).coll = s.coll := rfl
@[simp] theorem jtagMod_cache (f : Jtag → Jtag) : (jtagMod f s).cache = s.cache := rfl
@[simp] theorem jtagMod_ramp (f : Jtag → Jtag) : (jtagMod f s).ramp = s.ramp := rfl
@[simp] theorem jtagMod_opers (f : Jtag → Jtag) : (jtagMod f s).opers = s.opers := rfl
@[simp] theorem jtagMod_tarns (f : Jtag → Jtag) : (jtagMod f s).tarns = s.tarns := rfl
@[simp] theorem jtagMod_eth (f : Jtag → Jtag) : (jtagMod f s).eth = s.eth := rfl
@[simp] theorem jtagMod_helm (f : Jtag → Jtag) : (jtagMod f s).helm = s.helm := rfl
@[simp] theorem jtagMod_sec (f : Jtag → Jtag) : (jtagMod f s).sec = s.sec := rfl
@[simp] theorem jtagMod_power (f : Jtag → Jtag) : (jtagMod f s).power = s.power := rfl
@[simp] theorem jtagMod_thermal (f : Jtag → Jtag) : (jtagMod f s).thermal = s.thermal := rfl
@[simp] theorem jtagMod_droop (f : Jtag → Jtag) : (jtagMod f s).droop = s.droop := rfl
@[simp] theorem jtagMod_ceilings (f : Jtag → Jtag) : (jtagMod f s).ceilings = s.ceilings := rfl
@[simp] theorem jtagMod_start (f : Jtag → Jtag) : (jtagMod f s).start = s.start := rfl
@[simp] theorem jtagMod_faults (f : Jtag → Jtag) : (jtagMod f s).faults = s.faults := rfl
@[simp] theorem jtagMod_out (f : Jtag → Jtag) : (jtagMod f s).out = s.out := rfl
@[simp] theorem jtagMod_hostAt (f : Jtag → Jtag) : (jtagMod f s).hostAt = s.hostAt := rfl
@[simp] theorem jtagMod_pending (f : Jtag → Jtag) : (jtagMod f s).pending = s.pending := rfl

/-! ### `helmMod` -/

@[simp] theorem helmMod_helm (f : Helm → Helm) : (helmMod f s).helm = f s.helm := rfl
@[simp] theorem helmMod_dev (f : Helm → Helm) : (helmMod f s).dev = s.dev := rfl
@[simp] theorem helmMod_pcie (f : Helm → Helm) : (helmMod f s).pcie = s.pcie := rfl
@[simp] theorem helmMod_clocks (f : Helm → Helm) : (helmMod f s).clocks = s.clocks := rfl
@[simp] theorem helmMod_fns (f : Helm → Helm) : (helmMod f s).fns = s.fns := rfl
@[simp] theorem helmMod_spaces (f : Helm → Helm) : (helmMod f s).spaces = s.spaces := rfl
@[simp] theorem helmMod_sqs (f : Helm → Helm) : (helmMod f s).sqs = s.sqs := rfl
@[simp] theorem helmMod_cqs (f : Helm → Helm) : (helmMod f s).cqs = s.cqs := rfl
@[simp] theorem helmMod_commands (f : Helm → Helm) : (helmMod f s).commands = s.commands := rfl
@[simp] theorem helmMod_heldReplies (f : Helm → Helm) : (helmMod f s).heldReplies = s.heldReplies := rfl
@[simp] theorem helmMod_regions (f : Helm → Helm) : (helmMod f s).regions = s.regions := rfl
@[simp] theorem helmMod_retired (f : Helm → Helm) : (helmMod f s).retired = s.retired := rfl
@[simp] theorem helmMod_suspended (f : Helm → Helm) : (helmMod f s).suspended = s.suspended := rfl
@[simp] theorem helmMod_missSlots (f : Helm → Helm) : (helmMod f s).missSlots = s.missSlots := rfl
@[simp] theorem helmMod_missWait (f : Helm → Helm) : (helmMod f s).missWait = s.missWait := rfl
@[simp] theorem helmMod_journal (f : Helm → Helm) : (helmMod f s).journal = s.journal := rfl
@[simp] theorem helmMod_qps (f : Helm → Helm) : (helmMod f s).qps = s.qps := rfl
@[simp] theorem helmMod_srqs (f : Helm → Helm) : (helmMod f s).srqs = s.srqs := rfl
@[simp] theorem helmMod_sched (f : Helm → Helm) : (helmMod f s).sched = s.sched := rfl
@[simp] theorem helmMod_fabric (f : Helm → Helm) : (helmMod f s).fabric = s.fabric := rfl
@[simp] theorem helmMod_coll (f : Helm → Helm) : (helmMod f s).coll = s.coll := rfl
@[simp] theorem helmMod_cache (f : Helm → Helm) : (helmMod f s).cache = s.cache := rfl
@[simp] theorem helmMod_ramp (f : Helm → Helm) : (helmMod f s).ramp = s.ramp := rfl
@[simp] theorem helmMod_opers (f : Helm → Helm) : (helmMod f s).opers = s.opers := rfl
@[simp] theorem helmMod_tarns (f : Helm → Helm) : (helmMod f s).tarns = s.tarns := rfl
@[simp] theorem helmMod_eth (f : Helm → Helm) : (helmMod f s).eth = s.eth := rfl
@[simp] theorem helmMod_sec (f : Helm → Helm) : (helmMod f s).sec = s.sec := rfl
@[simp] theorem helmMod_power (f : Helm → Helm) : (helmMod f s).power = s.power := rfl
@[simp] theorem helmMod_thermal (f : Helm → Helm) : (helmMod f s).thermal = s.thermal := rfl
@[simp] theorem helmMod_droop (f : Helm → Helm) : (helmMod f s).droop = s.droop := rfl
@[simp] theorem helmMod_ceilings (f : Helm → Helm) : (helmMod f s).ceilings = s.ceilings := rfl
@[simp] theorem helmMod_start (f : Helm → Helm) : (helmMod f s).start = s.start := rfl
@[simp] theorem helmMod_faults (f : Helm → Helm) : (helmMod f s).faults = s.faults := rfl
@[simp] theorem helmMod_jtag (f : Helm → Helm) : (helmMod f s).jtag = s.jtag := rfl
@[simp] theorem helmMod_out (f : Helm → Helm) : (helmMod f s).out = s.out := rfl
@[simp] theorem helmMod_hostAt (f : Helm → Helm) : (helmMod f s).hostAt = s.hostAt := rfl
@[simp] theorem helmMod_pending (f : Helm → Helm) : (helmMod f s).pending = s.pending := rfl

/-! ### `devMod` -/

@[simp] theorem devMod_dev (f : Device → Device) : (devMod f s).dev = f s.dev := rfl
@[simp] theorem devMod_pcie (f : Device → Device) : (devMod f s).pcie = s.pcie := rfl
@[simp] theorem devMod_clocks (f : Device → Device) : (devMod f s).clocks = s.clocks := rfl
@[simp] theorem devMod_fns (f : Device → Device) : (devMod f s).fns = s.fns := rfl
@[simp] theorem devMod_spaces (f : Device → Device) : (devMod f s).spaces = s.spaces := rfl
@[simp] theorem devMod_sqs (f : Device → Device) : (devMod f s).sqs = s.sqs := rfl
@[simp] theorem devMod_cqs (f : Device → Device) : (devMod f s).cqs = s.cqs := rfl
@[simp] theorem devMod_commands (f : Device → Device) : (devMod f s).commands = s.commands := rfl
@[simp] theorem devMod_heldReplies (f : Device → Device) : (devMod f s).heldReplies = s.heldReplies := rfl
@[simp] theorem devMod_regions (f : Device → Device) : (devMod f s).regions = s.regions := rfl
@[simp] theorem devMod_retired (f : Device → Device) : (devMod f s).retired = s.retired := rfl
@[simp] theorem devMod_suspended (f : Device → Device) : (devMod f s).suspended = s.suspended := rfl
@[simp] theorem devMod_missSlots (f : Device → Device) : (devMod f s).missSlots = s.missSlots := rfl
@[simp] theorem devMod_missWait (f : Device → Device) : (devMod f s).missWait = s.missWait := rfl
@[simp] theorem devMod_journal (f : Device → Device) : (devMod f s).journal = s.journal := rfl
@[simp] theorem devMod_qps (f : Device → Device) : (devMod f s).qps = s.qps := rfl
@[simp] theorem devMod_srqs (f : Device → Device) : (devMod f s).srqs = s.srqs := rfl
@[simp] theorem devMod_sched (f : Device → Device) : (devMod f s).sched = s.sched := rfl
@[simp] theorem devMod_fabric (f : Device → Device) : (devMod f s).fabric = s.fabric := rfl
@[simp] theorem devMod_coll (f : Device → Device) : (devMod f s).coll = s.coll := rfl
@[simp] theorem devMod_cache (f : Device → Device) : (devMod f s).cache = s.cache := rfl
@[simp] theorem devMod_ramp (f : Device → Device) : (devMod f s).ramp = s.ramp := rfl
@[simp] theorem devMod_opers (f : Device → Device) : (devMod f s).opers = s.opers := rfl
@[simp] theorem devMod_tarns (f : Device → Device) : (devMod f s).tarns = s.tarns := rfl
@[simp] theorem devMod_eth (f : Device → Device) : (devMod f s).eth = s.eth := rfl
@[simp] theorem devMod_helm (f : Device → Device) : (devMod f s).helm = s.helm := rfl
@[simp] theorem devMod_sec (f : Device → Device) : (devMod f s).sec = s.sec := rfl
@[simp] theorem devMod_power (f : Device → Device) : (devMod f s).power = s.power := rfl
@[simp] theorem devMod_thermal (f : Device → Device) : (devMod f s).thermal = s.thermal := rfl
@[simp] theorem devMod_droop (f : Device → Device) : (devMod f s).droop = s.droop := rfl
@[simp] theorem devMod_ceilings (f : Device → Device) : (devMod f s).ceilings = s.ceilings := rfl
@[simp] theorem devMod_start (f : Device → Device) : (devMod f s).start = s.start := rfl
@[simp] theorem devMod_faults (f : Device → Device) : (devMod f s).faults = s.faults := rfl
@[simp] theorem devMod_jtag (f : Device → Device) : (devMod f s).jtag = s.jtag := rfl
@[simp] theorem devMod_out (f : Device → Device) : (devMod f s).out = s.out := rfl
@[simp] theorem devMod_hostAt (f : Device → Device) : (devMod f s).hostAt = s.hostAt := rfl
@[simp] theorem devMod_pending (f : Device → Device) : (devMod f s).pending = s.pending := rfl

/-! ### `tickMod` -/

@[simp] theorem tickMod_dev (f : Ticks → Ticks) : (tickMod f s).dev = { s.dev with ticks := f s.dev.ticks } := rfl
@[simp] theorem tickMod_pcie (f : Ticks → Ticks) : (tickMod f s).pcie = s.pcie := rfl
@[simp] theorem tickMod_clocks (f : Ticks → Ticks) : (tickMod f s).clocks = s.clocks := rfl
@[simp] theorem tickMod_fns (f : Ticks → Ticks) : (tickMod f s).fns = s.fns := rfl
@[simp] theorem tickMod_spaces (f : Ticks → Ticks) : (tickMod f s).spaces = s.spaces := rfl
@[simp] theorem tickMod_sqs (f : Ticks → Ticks) : (tickMod f s).sqs = s.sqs := rfl
@[simp] theorem tickMod_cqs (f : Ticks → Ticks) : (tickMod f s).cqs = s.cqs := rfl
@[simp] theorem tickMod_commands (f : Ticks → Ticks) : (tickMod f s).commands = s.commands := rfl
@[simp] theorem tickMod_heldReplies (f : Ticks → Ticks) : (tickMod f s).heldReplies = s.heldReplies := rfl
@[simp] theorem tickMod_regions (f : Ticks → Ticks) : (tickMod f s).regions = s.regions := rfl
@[simp] theorem tickMod_retired (f : Ticks → Ticks) : (tickMod f s).retired = s.retired := rfl
@[simp] theorem tickMod_suspended (f : Ticks → Ticks) : (tickMod f s).suspended = s.suspended := rfl
@[simp] theorem tickMod_missSlots (f : Ticks → Ticks) : (tickMod f s).missSlots = s.missSlots := rfl
@[simp] theorem tickMod_missWait (f : Ticks → Ticks) : (tickMod f s).missWait = s.missWait := rfl
@[simp] theorem tickMod_journal (f : Ticks → Ticks) : (tickMod f s).journal = s.journal := rfl
@[simp] theorem tickMod_qps (f : Ticks → Ticks) : (tickMod f s).qps = s.qps := rfl
@[simp] theorem tickMod_srqs (f : Ticks → Ticks) : (tickMod f s).srqs = s.srqs := rfl
@[simp] theorem tickMod_sched (f : Ticks → Ticks) : (tickMod f s).sched = s.sched := rfl
@[simp] theorem tickMod_fabric (f : Ticks → Ticks) : (tickMod f s).fabric = s.fabric := rfl
@[simp] theorem tickMod_coll (f : Ticks → Ticks) : (tickMod f s).coll = s.coll := rfl
@[simp] theorem tickMod_cache (f : Ticks → Ticks) : (tickMod f s).cache = s.cache := rfl
@[simp] theorem tickMod_ramp (f : Ticks → Ticks) : (tickMod f s).ramp = s.ramp := rfl
@[simp] theorem tickMod_opers (f : Ticks → Ticks) : (tickMod f s).opers = s.opers := rfl
@[simp] theorem tickMod_tarns (f : Ticks → Ticks) : (tickMod f s).tarns = s.tarns := rfl
@[simp] theorem tickMod_eth (f : Ticks → Ticks) : (tickMod f s).eth = s.eth := rfl
@[simp] theorem tickMod_helm (f : Ticks → Ticks) : (tickMod f s).helm = s.helm := rfl
@[simp] theorem tickMod_sec (f : Ticks → Ticks) : (tickMod f s).sec = s.sec := rfl
@[simp] theorem tickMod_power (f : Ticks → Ticks) : (tickMod f s).power = s.power := rfl
@[simp] theorem tickMod_thermal (f : Ticks → Ticks) : (tickMod f s).thermal = s.thermal := rfl
@[simp] theorem tickMod_droop (f : Ticks → Ticks) : (tickMod f s).droop = s.droop := rfl
@[simp] theorem tickMod_ceilings (f : Ticks → Ticks) : (tickMod f s).ceilings = s.ceilings := rfl
@[simp] theorem tickMod_start (f : Ticks → Ticks) : (tickMod f s).start = s.start := rfl
@[simp] theorem tickMod_faults (f : Ticks → Ticks) : (tickMod f s).faults = s.faults := rfl
@[simp] theorem tickMod_jtag (f : Ticks → Ticks) : (tickMod f s).jtag = s.jtag := rfl
@[simp] theorem tickMod_out (f : Ticks → Ticks) : (tickMod f s).out = s.out := rfl
@[simp] theorem tickMod_hostAt (f : Ticks → Ticks) : (tickMod f s).hostAt = s.hostAt := rfl
@[simp] theorem tickMod_pending (f : Ticks → Ticks) : (tickMod f s).pending = s.pending := rfl

/-! ### `crossingMod` -/

@[simp] theorem crossingMod_clocks (k : Nat) (f : Crossing → Crossing) : (crossingMod k f s).clocks = { s.clocks with crossings := tabMod s.clocks.crossings k f } := rfl
@[simp] theorem crossingMod_dev (k : Nat) (f : Crossing → Crossing) : (crossingMod k f s).dev = s.dev := rfl
@[simp] theorem crossingMod_pcie (k : Nat) (f : Crossing → Crossing) : (crossingMod k f s).pcie = s.pcie := rfl
@[simp] theorem crossingMod_fns (k : Nat) (f : Crossing → Crossing) : (crossingMod k f s).fns = s.fns := rfl
@[simp] theorem crossingMod_spaces (k : Nat) (f : Crossing → Crossing) : (crossingMod k f s).spaces = s.spaces := rfl
@[simp] theorem crossingMod_sqs (k : Nat) (f : Crossing → Crossing) : (crossingMod k f s).sqs = s.sqs := rfl
@[simp] theorem crossingMod_cqs (k : Nat) (f : Crossing → Crossing) : (crossingMod k f s).cqs = s.cqs := rfl
@[simp] theorem crossingMod_commands (k : Nat) (f : Crossing → Crossing) : (crossingMod k f s).commands = s.commands := rfl
@[simp] theorem crossingMod_heldReplies (k : Nat) (f : Crossing → Crossing) : (crossingMod k f s).heldReplies = s.heldReplies := rfl
@[simp] theorem crossingMod_regions (k : Nat) (f : Crossing → Crossing) : (crossingMod k f s).regions = s.regions := rfl
@[simp] theorem crossingMod_retired (k : Nat) (f : Crossing → Crossing) : (crossingMod k f s).retired = s.retired := rfl
@[simp] theorem crossingMod_suspended (k : Nat) (f : Crossing → Crossing) : (crossingMod k f s).suspended = s.suspended := rfl
@[simp] theorem crossingMod_missSlots (k : Nat) (f : Crossing → Crossing) : (crossingMod k f s).missSlots = s.missSlots := rfl
@[simp] theorem crossingMod_missWait (k : Nat) (f : Crossing → Crossing) : (crossingMod k f s).missWait = s.missWait := rfl
@[simp] theorem crossingMod_journal (k : Nat) (f : Crossing → Crossing) : (crossingMod k f s).journal = s.journal := rfl
@[simp] theorem crossingMod_qps (k : Nat) (f : Crossing → Crossing) : (crossingMod k f s).qps = s.qps := rfl
@[simp] theorem crossingMod_srqs (k : Nat) (f : Crossing → Crossing) : (crossingMod k f s).srqs = s.srqs := rfl
@[simp] theorem crossingMod_sched (k : Nat) (f : Crossing → Crossing) : (crossingMod k f s).sched = s.sched := rfl
@[simp] theorem crossingMod_fabric (k : Nat) (f : Crossing → Crossing) : (crossingMod k f s).fabric = s.fabric := rfl
@[simp] theorem crossingMod_coll (k : Nat) (f : Crossing → Crossing) : (crossingMod k f s).coll = s.coll := rfl
@[simp] theorem crossingMod_cache (k : Nat) (f : Crossing → Crossing) : (crossingMod k f s).cache = s.cache := rfl
@[simp] theorem crossingMod_ramp (k : Nat) (f : Crossing → Crossing) : (crossingMod k f s).ramp = s.ramp := rfl
@[simp] theorem crossingMod_opers (k : Nat) (f : Crossing → Crossing) : (crossingMod k f s).opers = s.opers := rfl
@[simp] theorem crossingMod_tarns (k : Nat) (f : Crossing → Crossing) : (crossingMod k f s).tarns = s.tarns := rfl
@[simp] theorem crossingMod_eth (k : Nat) (f : Crossing → Crossing) : (crossingMod k f s).eth = s.eth := rfl
@[simp] theorem crossingMod_helm (k : Nat) (f : Crossing → Crossing) : (crossingMod k f s).helm = s.helm := rfl
@[simp] theorem crossingMod_sec (k : Nat) (f : Crossing → Crossing) : (crossingMod k f s).sec = s.sec := rfl
@[simp] theorem crossingMod_power (k : Nat) (f : Crossing → Crossing) : (crossingMod k f s).power = s.power := rfl
@[simp] theorem crossingMod_thermal (k : Nat) (f : Crossing → Crossing) : (crossingMod k f s).thermal = s.thermal := rfl
@[simp] theorem crossingMod_droop (k : Nat) (f : Crossing → Crossing) : (crossingMod k f s).droop = s.droop := rfl
@[simp] theorem crossingMod_ceilings (k : Nat) (f : Crossing → Crossing) : (crossingMod k f s).ceilings = s.ceilings := rfl
@[simp] theorem crossingMod_start (k : Nat) (f : Crossing → Crossing) : (crossingMod k f s).start = s.start := rfl
@[simp] theorem crossingMod_faults (k : Nat) (f : Crossing → Crossing) : (crossingMod k f s).faults = s.faults := rfl
@[simp] theorem crossingMod_jtag (k : Nat) (f : Crossing → Crossing) : (crossingMod k f s).jtag = s.jtag := rfl
@[simp] theorem crossingMod_out (k : Nat) (f : Crossing → Crossing) : (crossingMod k f s).out = s.out := rfl
@[simp] theorem crossingMod_hostAt (k : Nat) (f : Crossing → Crossing) : (crossingMod k f s).hostAt = s.hostAt := rfl
@[simp] theorem crossingMod_pending (k : Nat) (f : Crossing → Crossing) : (crossingMod k f s).pending = s.pending := rfl

/-! ### `emit` -/

@[simp] theorem emit_out (o : Output) : (emit o s).out = s.out ++ [o] := rfl
@[simp] theorem emit_hostAt (o : Output) : (emit o s).hostAt = if onHostLink o then s.dev.now else s.hostAt := rfl
@[simp] theorem emit_dev (o : Output) : (emit o s).dev = s.dev := rfl
@[simp] theorem emit_pcie (o : Output) : (emit o s).pcie = s.pcie := rfl
@[simp] theorem emit_clocks (o : Output) : (emit o s).clocks = s.clocks := rfl
@[simp] theorem emit_fns (o : Output) : (emit o s).fns = s.fns := rfl
@[simp] theorem emit_spaces (o : Output) : (emit o s).spaces = s.spaces := rfl
@[simp] theorem emit_sqs (o : Output) : (emit o s).sqs = s.sqs := rfl
@[simp] theorem emit_cqs (o : Output) : (emit o s).cqs = s.cqs := rfl
@[simp] theorem emit_commands (o : Output) : (emit o s).commands = s.commands := rfl
@[simp] theorem emit_heldReplies (o : Output) : (emit o s).heldReplies = s.heldReplies := rfl
@[simp] theorem emit_regions (o : Output) : (emit o s).regions = s.regions := rfl
@[simp] theorem emit_retired (o : Output) : (emit o s).retired = s.retired := rfl
@[simp] theorem emit_suspended (o : Output) : (emit o s).suspended = s.suspended := rfl
@[simp] theorem emit_missSlots (o : Output) : (emit o s).missSlots = s.missSlots := rfl
@[simp] theorem emit_missWait (o : Output) : (emit o s).missWait = s.missWait := rfl
@[simp] theorem emit_journal (o : Output) : (emit o s).journal = s.journal := rfl
@[simp] theorem emit_qps (o : Output) : (emit o s).qps = s.qps := rfl
@[simp] theorem emit_srqs (o : Output) : (emit o s).srqs = s.srqs := rfl
@[simp] theorem emit_sched (o : Output) : (emit o s).sched = s.sched := rfl
@[simp] theorem emit_fabric (o : Output) : (emit o s).fabric = s.fabric := rfl
@[simp] theorem emit_coll (o : Output) : (emit o s).coll = s.coll := rfl
@[simp] theorem emit_cache (o : Output) : (emit o s).cache = s.cache := rfl
@[simp] theorem emit_ramp (o : Output) : (emit o s).ramp = s.ramp := rfl
@[simp] theorem emit_opers (o : Output) : (emit o s).opers = s.opers := rfl
@[simp] theorem emit_tarns (o : Output) : (emit o s).tarns = s.tarns := rfl
@[simp] theorem emit_eth (o : Output) : (emit o s).eth = s.eth := rfl
@[simp] theorem emit_helm (o : Output) : (emit o s).helm = s.helm := rfl
@[simp] theorem emit_sec (o : Output) : (emit o s).sec = s.sec := rfl
@[simp] theorem emit_power (o : Output) : (emit o s).power = s.power := rfl
@[simp] theorem emit_thermal (o : Output) : (emit o s).thermal = s.thermal := rfl
@[simp] theorem emit_droop (o : Output) : (emit o s).droop = s.droop := rfl
@[simp] theorem emit_ceilings (o : Output) : (emit o s).ceilings = s.ceilings := rfl
@[simp] theorem emit_start (o : Output) : (emit o s).start = s.start := rfl
@[simp] theorem emit_faults (o : Output) : (emit o s).faults = s.faults := rfl
@[simp] theorem emit_jtag (o : Output) : (emit o s).jtag = s.jtag := rfl
@[simp] theorem emit_pending (o : Output) : (emit o s).pending = s.pending := rfl

/-! ### `hearHost` -/

@[simp] theorem hearHost_hostAt  : (hearHost  s).hostAt = s.dev.now := rfl
@[simp] theorem hearHost_dev  : (hearHost  s).dev = s.dev := rfl
@[simp] theorem hearHost_pcie  : (hearHost  s).pcie = s.pcie := rfl
@[simp] theorem hearHost_clocks  : (hearHost  s).clocks = s.clocks := rfl
@[simp] theorem hearHost_fns  : (hearHost  s).fns = s.fns := rfl
@[simp] theorem hearHost_spaces  : (hearHost  s).spaces = s.spaces := rfl
@[simp] theorem hearHost_sqs  : (hearHost  s).sqs = s.sqs := rfl
@[simp] theorem hearHost_cqs  : (hearHost  s).cqs = s.cqs := rfl
@[simp] theorem hearHost_commands  : (hearHost  s).commands = s.commands := rfl
@[simp] theorem hearHost_heldReplies  : (hearHost  s).heldReplies = s.heldReplies := rfl
@[simp] theorem hearHost_regions  : (hearHost  s).regions = s.regions := rfl
@[simp] theorem hearHost_retired  : (hearHost  s).retired = s.retired := rfl
@[simp] theorem hearHost_suspended  : (hearHost  s).suspended = s.suspended := rfl
@[simp] theorem hearHost_missSlots  : (hearHost  s).missSlots = s.missSlots := rfl
@[simp] theorem hearHost_missWait  : (hearHost  s).missWait = s.missWait := rfl
@[simp] theorem hearHost_journal  : (hearHost  s).journal = s.journal := rfl
@[simp] theorem hearHost_qps  : (hearHost  s).qps = s.qps := rfl
@[simp] theorem hearHost_srqs  : (hearHost  s).srqs = s.srqs := rfl
@[simp] theorem hearHost_sched  : (hearHost  s).sched = s.sched := rfl
@[simp] theorem hearHost_fabric  : (hearHost  s).fabric = s.fabric := rfl
@[simp] theorem hearHost_coll  : (hearHost  s).coll = s.coll := rfl
@[simp] theorem hearHost_cache  : (hearHost  s).cache = s.cache := rfl
@[simp] theorem hearHost_ramp  : (hearHost  s).ramp = s.ramp := rfl
@[simp] theorem hearHost_opers  : (hearHost  s).opers = s.opers := rfl
@[simp] theorem hearHost_tarns  : (hearHost  s).tarns = s.tarns := rfl
@[simp] theorem hearHost_eth  : (hearHost  s).eth = s.eth := rfl
@[simp] theorem hearHost_helm  : (hearHost  s).helm = s.helm := rfl
@[simp] theorem hearHost_sec  : (hearHost  s).sec = s.sec := rfl
@[simp] theorem hearHost_power  : (hearHost  s).power = s.power := rfl
@[simp] theorem hearHost_thermal  : (hearHost  s).thermal = s.thermal := rfl
@[simp] theorem hearHost_droop  : (hearHost  s).droop = s.droop := rfl
@[simp] theorem hearHost_ceilings  : (hearHost  s).ceilings = s.ceilings := rfl
@[simp] theorem hearHost_start  : (hearHost  s).start = s.start := rfl
@[simp] theorem hearHost_faults  : (hearHost  s).faults = s.faults := rfl
@[simp] theorem hearHost_jtag  : (hearHost  s).jtag = s.jtag := rfl
@[simp] theorem hearHost_out  : (hearHost  s).out = s.out := rfl
@[simp] theorem hearHost_pending  : (hearHost  s).pending = s.pending := rfl

/-! ### `advanceTo` -/

@[simp] theorem advanceTo_dev (t : Nat) : (advanceTo t s).dev = { s.dev with now := max s.dev.now t } := rfl
@[simp] theorem advanceTo_pcie (t : Nat) : (advanceTo t s).pcie = s.pcie := rfl
@[simp] theorem advanceTo_clocks (t : Nat) : (advanceTo t s).clocks = s.clocks := rfl
@[simp] theorem advanceTo_fns (t : Nat) : (advanceTo t s).fns = s.fns := rfl
@[simp] theorem advanceTo_spaces (t : Nat) : (advanceTo t s).spaces = s.spaces := rfl
@[simp] theorem advanceTo_sqs (t : Nat) : (advanceTo t s).sqs = s.sqs := rfl
@[simp] theorem advanceTo_cqs (t : Nat) : (advanceTo t s).cqs = s.cqs := rfl
@[simp] theorem advanceTo_commands (t : Nat) : (advanceTo t s).commands = s.commands := rfl
@[simp] theorem advanceTo_heldReplies (t : Nat) : (advanceTo t s).heldReplies = s.heldReplies := rfl
@[simp] theorem advanceTo_regions (t : Nat) : (advanceTo t s).regions = s.regions := rfl
@[simp] theorem advanceTo_retired (t : Nat) : (advanceTo t s).retired = s.retired := rfl
@[simp] theorem advanceTo_suspended (t : Nat) : (advanceTo t s).suspended = s.suspended := rfl
@[simp] theorem advanceTo_missSlots (t : Nat) : (advanceTo t s).missSlots = s.missSlots := rfl
@[simp] theorem advanceTo_missWait (t : Nat) : (advanceTo t s).missWait = s.missWait := rfl
@[simp] theorem advanceTo_journal (t : Nat) : (advanceTo t s).journal = s.journal := rfl
@[simp] theorem advanceTo_qps (t : Nat) : (advanceTo t s).qps = s.qps := rfl
@[simp] theorem advanceTo_srqs (t : Nat) : (advanceTo t s).srqs = s.srqs := rfl
@[simp] theorem advanceTo_sched (t : Nat) : (advanceTo t s).sched = s.sched := rfl
@[simp] theorem advanceTo_fabric (t : Nat) : (advanceTo t s).fabric = s.fabric := rfl
@[simp] theorem advanceTo_coll (t : Nat) : (advanceTo t s).coll = s.coll := rfl
@[simp] theorem advanceTo_cache (t : Nat) : (advanceTo t s).cache = s.cache := rfl
@[simp] theorem advanceTo_ramp (t : Nat) : (advanceTo t s).ramp = s.ramp := rfl
@[simp] theorem advanceTo_opers (t : Nat) : (advanceTo t s).opers = s.opers := rfl
@[simp] theorem advanceTo_tarns (t : Nat) : (advanceTo t s).tarns = s.tarns := rfl
@[simp] theorem advanceTo_eth (t : Nat) : (advanceTo t s).eth = s.eth := rfl
@[simp] theorem advanceTo_helm (t : Nat) : (advanceTo t s).helm = s.helm := rfl
@[simp] theorem advanceTo_sec (t : Nat) : (advanceTo t s).sec = s.sec := rfl
@[simp] theorem advanceTo_power (t : Nat) : (advanceTo t s).power = s.power := rfl
@[simp] theorem advanceTo_thermal (t : Nat) : (advanceTo t s).thermal = s.thermal := rfl
@[simp] theorem advanceTo_droop (t : Nat) : (advanceTo t s).droop = s.droop := rfl
@[simp] theorem advanceTo_ceilings (t : Nat) : (advanceTo t s).ceilings = s.ceilings := rfl
@[simp] theorem advanceTo_start (t : Nat) : (advanceTo t s).start = s.start := rfl
@[simp] theorem advanceTo_faults (t : Nat) : (advanceTo t s).faults = s.faults := rfl
@[simp] theorem advanceTo_jtag (t : Nat) : (advanceTo t s).jtag = s.jtag := rfl
@[simp] theorem advanceTo_out (t : Nat) : (advanceTo t s).out = s.out := rfl
@[simp] theorem advanceTo_hostAt (t : Nat) : (advanceTo t s).hostAt = s.hostAt := rfl
@[simp] theorem advanceTo_pending (t : Nat) : (advanceTo t s).pending = s.pending := rfl

end Sys2Proof.Machine
end

