-- ==== Sys2Proof/Tests/Slice0.lean ====
section
/-! SUPPORT. Tests: each check of well-formedness refuses an ill-formed command, and the hypotheses of each statement hold together somewhere. -/

namespace Sys2Proof.Tests

set_option maxRecDepth 20000
set_option Elab.async false
set_option linter.unusedVariables false

open Sys2Proof Sys2Proof.Machine

/-! ### Builders -/

/-- A command of the ring of function `fn`, its parameters from parameter byte 0 on given as one number. -/
def tCmd (fn params : Nat) : Cmd :=
  { origin := .ring fn, tag := 1, length := 40, function := BitVec.ofNat 8 fn, indirect := false, quiet := false, rsvd := 0,
    params := BitVec.ofNat 320 params, buffer := none }

/-- A flit of a type for this device. -/
def tFlit (type : Nat) (n : Nat) : Flit :=
  { destDev := 0, destPort := 0, epoch := false, slotClass := false, deflectCount := 0, turned := false, slotClaim := false,
    type := BitVec.ofNat 8 type, srcDev := 1, srcPort := 0, tc := 0, admitted := false, pathTag := 0, reversed := false, srcSpur := false,
    claimerPos := 0, chunkSeq := 0, flitIndex := 0, sigFrag := 0, hdrCrc := 0, payload := List.replicate n 0, spoiled := false }

def tHdr : EhtHeader :=
  { version := 1, pathTag := 0, pktOp := 0, first := true, last := true, ackReq := false, solicited := false, immPresent := false,
    isSealed := false, retx := false, rsvd0 := 0, destQp := 0, rsvd1 := 0, srcQp := 0, rsvd2 := 0, seq := 0, msgNum := 0, recvNum := 0,
    msgOffset := 0, msgLengthM1 := 0, rkey := 0, msgDva := 0, txStamp := 0 }

/-- A packet that arrives on a port with a payload of zeros. -/
def tPacket (port n : Nat) : RxPacket :=
  { port := port, env := { ipOptions := false, ipv6ExtHeader := false, fragment := false, badUdpChecksum := false, ce := false, ipv6 := false, source := 0, admitted := false }, hdr := tHdr,
    immediate := none, atomic := none, sealBlock := none, payload := List.replicate n 0, crc := 0 }

def tHelm (n : Nat) : HelmFrame := { src := 1, kind := 0, seq := 1, slot := 0, length := n }

def tResult (unit : Nat) : TestResult := { test := 1, block := 1, inst := 0, address := 0, bit := 0, measured := 0, unit := unit, spare := false }

/-! ### Ill-formed commands are refused, their neighbours are not -/

theorem test_ill_formed_function : wellFormed (.fnStopQuiesced 256) = false ∧ wellFormed (.fnStopQuiesced 255) = true := by decide

theorem test_ill_formed_ring : wellFormed (.ringReread 0 65536 (.entries [])) = false ∧ wellFormed (.ringReread 0 65535 (.entries [])) = true := by decide

theorem test_ill_formed_queue_pair : wellFormed (.qpResetDone (2 ^ 20)) = false ∧ wellFormed (.qpResetDone (2 ^ 20 - 1)) = true := by decide

theorem test_ill_formed_link : wellFormed (.ethLinkDown 32) = false ∧ wellFormed (.ethLinkDown 31) = true := by decide

theorem test_ill_formed_fabric_port : wellFormed (.fabricPortLost 16) = false ∧ wellFormed (.fabricPortLost 15) = true := by decide

theorem test_ill_formed_egress_port : wellFormed (.packetTransmit 48 []) = false ∧ wellFormed (.packetTransmit 47 []) = true := by decide

theorem test_ill_formed_stream : wellFormed (.streamResend 15 64) = false ∧ wellFormed (.streamResend 15 63) = true := by decide

theorem test_ill_formed_traffic_class : wellFormed (.pfcPauseExpire 31 8) = false ∧ wellFormed (.pfcPauseExpire 31 7) = true := by decide

theorem test_ill_formed_island : wellFormed (.islandWake 18) = false ∧ wellFormed (.islandWake 17) = true := by decide

theorem test_ill_formed_tarn : wellFormed (.refresh 4) = false ∧ wellFormed (.refresh 3) = true := by decide

theorem test_ill_formed_channel : wellFormed (.channelLost 3 64) = false ∧ wellFormed (.channelLost 3 63) = true := by decide

theorem test_ill_formed_address : wellFormed (.uncorrectableError (2 ^ 38)) = false ∧ wellFormed (.uncorrectableError (2 ^ 38 - 1)) = true := by decide

theorem test_ill_formed_journal_pair : wellFormed (.journalBackpressureRelease 2) = false ∧ wellFormed (.journalBackpressureRelease 1) = true := by decide

theorem test_ill_formed_rail : wellFormed (.railOutOfTolerance 9) = false ∧ wellFormed (.railOutOfTolerance 8) = true := by decide

theorem test_ill_formed_sensor : wellFormed (.thermtrip 48 0) = false ∧ wellFormed (.thermtrip 47 0) = true := by decide

theorem test_ill_formed_shoal : wellFormed (.lossOfOneShoal 16) = false ∧ wellFormed (.lossOfOneShoal 15) = true := by decide

theorem test_ill_formed_control_core : wellFormed (.lossOfOneControlCore 12) = false ∧ wellFormed (.lossOfOneControlCore 11) = true := by decide

theorem test_ill_formed_engine : wellFormed (.reductionPassDone 8 true) = false ∧ wellFormed (.reductionPassDone 7 true) = true := by decide

theorem test_ill_formed_lane : wellFormed (.maskReseed 20) = false ∧ wellFormed (.maskReseed 19) = true := by decide

theorem test_ill_formed_flit : wellFormed (.flitMarker 0 (tFlit 1 127)) = false ∧ wellFormed (.flitMarker 0 (tFlit 1 128)) = true := by decide

theorem test_ill_formed_packet : wellFormed (.pktFlush (tPacket 47 4097)) = false ∧ wellFormed (.pktFlush (tPacket 47 4096)) = true := by simp [wellFormed, packetOk, anyPortOk, tPacket]

theorem test_ill_formed_helm_frame : wellFormed (.helmCommand (tHelm 25)) = false ∧ wellFormed (.helmCommand (tHelm 26)) = true := by decide

theorem test_ill_formed_readings : wellFormed (.sensorSample (List.replicate 47 0)) = false ∧ wellFormed (.sensorSample (List.replicate 48 0)) = true := by decide

theorem test_ill_formed_results (x : Straps) : wellFormed (.powerOnRelease x [tResult 65536] true true) = false ∧ wellFormed (.powerOnRelease x [tResult 65535] true true) = true := by constructor <;> rfl

theorem test_ill_formed_config_register : wellFormed (.registerWrite 0 (.config (.barSize 6)) 32 none) = false ∧ wellFormed (.registerWrite 0 (.config (.barSize 5)) 32 none) = true := by decide

theorem test_ill_formed_vector_table : wellFormed (.registerWrite 0 (.bar2 65536) 32 none) = false ∧ wellFormed (.registerWrite 0 (.bar2 65532) 32 none) = true := by decide

theorem test_ill_formed_register_page : wellFormed (.sqDoorbell 1 131072 8 0 [] none) = false ∧ wellFormed (.sqDoorbell 1 131064 8 0 [] none) = true := by decide

theorem test_ill_formed_command_origin : wellFormed (.devTime (tCmd 256 0)) = false ∧ wellFormed (.devTime (tCmd 255 0)) = true := by decide

theorem test_ill_formed_command_buffer (l : List Byte) (h : l.length = 65536) :
    wellFormed (.devTime { tCmd 0 0 with buffer := some l }) = false := by
  simp [wellFormed, Sys2Proof.cmdOk, fnOk, tCmd, h]

/-! ### States that meet the hypotheses of the statements -/

/-- The channel of PF0 is READY with rings of 256 slots. -/
def tS : State := fnMod 0 (fun f => { f with channel := { f.channel with mode := .ready, ringSizes := 0x0808 } }) State.reset

/-- PF0 is RUNNING. -/
def tRun : State := fnMod 0 (fun f => { f with mode := .running, token := some 7 }) tS

/-- A command of PF0 that has been answered ACCEPTED and owes `what`. -/
def tPend (what : Deferral) : Pending :=
  { origin := .ring 0, tag := 1, opcode := 0, function := 0, quiet := false, answered := true, heldFor := none, what := what }

/-- A command with an indirect buffer of `n` bytes that begins with `l`. -/
def tInd (n : Nat) (l : List Byte) : Cmd :=
  { tCmd 0 0 with length := BitVec.ofNat 16 n, indirect := true, params := 0, buffer := some (l ++ List.replicate (n - l.length) 0) }

/-- PF0 has a space, a region of 64 KiB with index 0 and every right, and one tarn page behind it. -/
def tSpace : Space := { root := 0, fqBase := 0, fqHeader := 0, fqLog2 := 8, fqVector := 0, written := 0, head := 0, overflow := false, overflowCount := 0 }
def tPage : Page := { dva := 0, len := 65536, target := .tarn, port := 0, addr := 0 }
def tAddr : AddrSpace := { freshSpace with space := some tSpace, pages := [tPage], staged := [] }
def tRegion : Region := { fn := 0, live := true, gen := 1, dva := 0, len := 65536, rights := 0x3F, freedAt := 0 }
def tMem : State := { tRun with spaces := [(0, tAddr)], regions := [(0, tRegion)] }

/-- VF 1 is enabled. -/
def tVf : State := { tRun with fns := tRun.fns ++ [(1, freshFunction false)], spaces := tRun.spaces ++ [(1, freshSpace)] }

def tSusp (dva : Nat) : Suspension :=
  { fn := 0, seq := some 5, stream := .oper 0 1, arriving := false, work := 0, ranges := [(dva, 8)], access := 0, keyIndex := 0, prior := none }

/-- A connected Ethernet queue pair, and one on the fabric. -/
def tConf : QpConf :=
  { fn := 0, mode := .eht, mtuLog2 := 12, paths := 1, tc := 7, rnrDelay := 10, rnrRetry := 3, useSrq := false, srq := 0, peerQp := 9, addrKind := .ipv4,
    hopLimit := 64, portMask := 1, peerAddr := 0, nextHop := 0, localSeq := 0, peerSeq := 0, connected := true, peerLevel1 := false }
def tQp : Qp := { newQp tConf 0 with phase := .ready }
def tNewQp : Qp := newQp { tConf with connected := false } 0
def tEth : Ethernet :=
  { freshEth with ports := tabSet freshEth.ports 0 { freshEthPort with mode := 1 }, links := tabSet freshEth.links 0 { freshLink with up := true } }
def tNet : State := { tMem with qps := [(5, tQp), (6, tNewQp)], eth := tEth }
def tEnd (destroy : Bool) : Qp := { tQp with ending := some destroy }

/-- A completion ring with number 0 and a submission ring with number 0 that is bound to it. -/
def tCq : CplRing :=
  { base := 0, header := 0, log2 := 8, vector := none, modCount := 1, modTime := 0, written := 0, head := 0, outstanding := 0, counted := 0,
    firstCounted := none, blocked := false }
def tSq : SubRing :=
  { base := 0, log2 := 8, weight := 1, burst := 1, cq := 0, slot := 0, accepted := 0, prefetched := [], producer := 0, running := true,
    scanning := false, doorbellAt := 0, rereads := 0, rereadAt := 0, roundTaken := 0, visitTaken := 0 }
def tStop : State := { tS with sqs := [(0, { tSq with running := false })], cqs := [(0, tCq)] }
def tRings : State := { tNet with sqs := [(0, tSq)], cqs := [(0, tCq)] }
def tSound : Sounding := { fn := 0, kind := 0, id := 5, k := 16, nextAt := 0 }

/-- The device has fabric number 0; spur ports 1 and 2 are trained with one partner. -/
def tSpur : FabPort := { newPort .spur with active := true, lanes := 4, partnerDev := 7 }
def tFab : State := { tNet with fabric := { freshFabric with ident := some 0, ports := [(1, tSpur), (2, tSpur)] } }

/-- A group of one device. -/
def tGroup (mode : GroupMode) : CollGroup :=
  { fn := 0, id := 0, rowMask := 1, colMask := 1, tc := 0, localMembers := 1, fathoms := 16, spill := false, spilled := false, reserved := true, mode := mode,
    timeoutAt := some 500000000, devices := [], records := [], setupOut := [], rx := [], early := [], heard := [], silent := [], nextSeq := [0], startSeq := 0,
    runs := [], waiting := [], aborted := [], failed := 0, tearing := false, order := 0, record := none }
def tColl (g : CollGroup) : State := { tFab with coll := { freshColl with groups := [(3, g)] } }

/-- A pool of one layer over a region of every right. -/
def tPool : Pool :=
  { fn := 0, layers := 1, qHeads := 8, kvHeads := 8, headDimLog2 := 7, format := 5, summaryDim := 8, tc := 0, maxBlocks := 16, maxUsers := 1,
    key := 0x1000000, dva := 0, ending := false, misses := 0 }
def tBig : State := { tFab with regions := [(0, { tRegion with len := 2 ^ 40 })] }
def tPools : State := { tBig with cache := { freshCache with pools := [(1, tPool)] } }
def tPin (ready ending : Bool) : Pin := { pool := 1, user := 0, ready := ready, ending := ending }

/-- An officer session is open, and PF0 holds accord 0. -/
def tSec : State :=
  { tFab with sec := { freshSecurity with officer := some [], sessionAt := some 428000000, accords := [(0, { fn := 0, peer := 0, secret := 0 })] } }
def tSeal : QpSeal :=
  { accord := 0, unitLog2 := 12, phase := false, cur := { label := 1, ctr := 0, reserved := 0, units := 0, bytes := 0, warnedUnits := false, warnedBytes := false },
    old := none, pendingSend := none, recvPhase := false, recvLabel := 1, recvNext := none, acc := [], failedUnits := 0 }
def tSealed (z : QpSeal) : State := { tSec with qps := [(5, { tQp with sealing := some z })] }

/-- The level of PF0 is 1. -/
def tOld : State := fnMod 0 (fun f => { f with level1 := true }) tRings

/-- An entry of an operation and a context, and its record. -/
def tEntry (op ctx : Nat) : W512 := BitVec.ofNat 512 (op + ctx * 65536)
def tWork (op ctx : Nat) : Work := newWork 0 (.ring 0) 0 (tEntry op ctx) State.reset
def tMsg (started : Bool) : TxMessage :=
  { work := 4, msg := 0, firstSeq := 0, packets := 1, takes := false, recvNum := 0, started := started, built := 0, tail := [], got := [], rnrTries := 0, rnrAt := none, repairs := [],
    repairAt := 0, boundFrom := 0, exempt := false, phase := false, replay := false }
def tSend (f : QpSend → QpSend) : Qp := { tQp with send := f tQp.send }
def tRecv (f : QpRecv → QpRecv) : Qp := { tQp with recv := f tQp.recv }
def tOne (q : Qp) : State := { tRings with qps := [(5, q)] }
def tBegin : Qp := tSend fun x => { x with messages := [tMsg false] }
def tWk (op ctx : Nat) : State := { tOne tBegin with journal := [(4, .work (tWork op ctx))] }
def tRun4 : OpRun :=
  { work := 4, fn := 0, stream := 1, args := [], rows := 0, indices := [], acc := [], next := 0, done := 0, saturated := false, nanOut := false }
def tGemm : Work := newWork 0 (.ring 0) 0 (BitVec.ofNat 512 (0x31 + 65536 + 2 ^ 128 + 2 ^ 160 + 2 ^ 180 + 2 ^ 200)) State.reset

/-- A BAR4 window over the region. -/
def tWin : Window := { index := 0, gen := 1, offset := 0, canRead := true, canWrite := true }
def tBar : State := { tNet with spaces := [(0, { tAddr with windows := [(0, tWin)] })] }
def tWait : AddrSpace := { tAddr with waiting := [{ suspId := 1, order := 0, full := false, body := .lostRange false 0 1 0 }] }

/-- A packet of one byte or of none from the peer, and one with a body of its own. -/
def tPkt (k : TxKind) (seq : W32) : RxPacket :=
  let h := { tHdr with pktOp := BitVec.ofNat 8 (pktOpCode k), destQp := 5, srcQp := 9, seq := seq, immPresent := k == .writeImm }
  let imm : Option W32 := if k == .writeImm then some 0 else none
  let at_ : Option (W64 × W64) := if k == .fadd || k == .cswap || k == .atomicResp then some (0, 0) else none
  let data : List Byte := if carriesData k then [0] else []
  { tPacket 0 0 with hdr := h, immediate := imm, atomic := at_, payload := data, crc := crc32c (packetBytes h imm at_ none data) }
def tBody (k : TxKind) (body : List Byte) : RxPacket :=
  let h := { tHdr with pktOp := BitVec.ofNat 8 (pktOpCode k), destQp := 5, srcQp := 9 }
  { tPacket 0 0 with hdr := h, crc := crc32c (headerBytes h ++ body) }
def tAck : AckBody :=
  { echoStamp := 0, recvStamp := 0, echoSeq := 0, ownRetired := 0, echoPath := 0, stateLost := false, rsvd0 := 0, ceCount := 0, rsvd1 := 0, sackCount := 0,
    sack := [] }
def tNak : NakBody := { reason := 1, rsvd := 0, nakSeq := 0, nakMsg := 0, ownRetired := 0 }
def tRepair : RepairBody := { rsvd := 0, count := 1, ranges := [(0, 0)] }
def tFlight : TxPacket := newPacket .write 0 0 4 0 1 1
def tSent : Qp := tSend fun x => { x with messages := [tMsg true], flight := [tFlight], nextSeq := 1, outSince := some 0 }
def tAdm : Admission :=
  { number := 0, cls := 0, lossBound := 0, pathMask := 1, rate := 1, burst := 8192, msgMax := 4096, netRtt := 1000, bound := 1000, withdrawn := false,
    links := [], exits := [], ports := [0], latency := false }
def tAgree : AgreeOut := { leg := 0, west := false, peer := 1, sentAt := 0 }

/-- A function in another mode, a port of the ring, an inbound flit, and a state in another profile or another part of its life. -/
def tHeld (m : FnMode) (at_ : Option Nat) : Function := { freshFunction false with mode := m, heldSince := at_ }
def tFn (f : Function) : State := { tFab with fns := [(0, f)] }
def tUp : State := { tVf with pcie := { tVf.pcie with linkUp := true, vfEnable := true, numVfs := 1, trainBy := none } }
def tLife (l : Life) : State := { tFab with dev := { tFab.dev with life := l } }
def tIn (p : Profile) : State := { tFab with dev := { tFab.dev with profile := p } }
def tCross (m : CrossMode) : State := { tS with clocks := { tS.clocks with crossings := [(14, { freshCrossing with mode := m })] } }
def tRing : FabPort := { newPort .xEast with active := true, lanes := 4, partnerDev := 1, partnerPort := 1 }
def tOnRing : State :=
  { tFab with fabric := { tFab.fabric with ports := [(0, tRing), (1, { newPort .xWest with active := true })], exits := [(36, [{ dir := some 1, since := 0, flit := { tFlit 0x10 128 with admitted := true } }])] } }
def tGood (type : Nat) : Flit := { tFlit type 128 with hdrCrc := flitCrc (tFlit type 128) }
def tPart : Partial := { count := 2, got := [0], bytes := [], firstAt := 0 }
def tAccess : SpurAccess :=
  { write := false, address := 0, key := 0, len := 64, inbound := false, cont := .none, map := [], data := [], left := 0, sentAt := 0, fn := 0, epoch := 0 }
def tPort (f : FabPort) : State := { tFab with fabric := { tFab.fabric with ports := [(1, f)] } }
def tTrain : TrainInfo :=
  { lanes := 15, partnerDev := 7, partnerPort := 2, partnerRole := 5, partnerPilot := true, wakeNeeded := 100, wakeTolerated := 1000, probeNs := 80 }
def tAttn : AttnRun := { work := 4, pool := 1, user := 0, layer := 0, dclass := 0, order := 0, flits := [], query := none }
def tSealDue : SealDue := { work := 4, pool := 1, user := 0, layer := 0, block := 0 }
def tBacked : State :=
  { tPools with spaces := [(0, { tAddr with pages := [{ tPage with len := 2 ^ 40 }] })], cache := { freshCache with pools := [(1, tPool)], seals := [tSealDue] } }

def tPass : EnginePass := { slot := 3, seq := 0, chunk := { leg := 0, west := false, num := 0 }, arrived := [], residueFails := 0, checkFails := 0, borrowed := 0 }
def tEngine : State := { tColl (tGroup .ready) with coll := { (tColl (tGroup .ready)).coll with engines := [(7, tPass)] } }
def tChunk : HeldChunk :=
  { id := { leg := 0, west := false, num := 0 }, peer := 1, bytes := [], block := 0, ranks := 1, sent := true, sentAt := 0, firstAt := 0, timer := 1000 }
def tHolds : CollGroup := { tGroup .ready with runs := [(0, { newRun with out := [tChunk] })] }
def tLinks (l : Link) : State := { tRings with eth := { tEth with links := tabSet tEth.links 0 l } }
def tDst (k : Nat) : HelmFrame := { src := 1, kind := 1, seq := 1, slot := BitVec.ofNat 512 k, length := 64 }
def tSends : State := { tFab with out := [.helmReply 0 0 0] }

def tMeas : PowerMeas := { fixed := 0, mesh := 0, reduction := 0, shoals := List.replicate 16 0, tarn := 0, rails := List.replicate 9 0, mean50us := 0, mean1ms := 0 }
def tWindow : WindowMeas := { fixedMw := 0, journalMw := 0, groups := [], unitMa := [], neededRate := 0, controlLoad := 0 }
def tMax (m : Option Int) : State := { tFab with thermal := { tFab.thermal with windowMax := m } }
def tDroop (f : Droop → Droop) : State := { tFab with droop := f freshDroop }

def tUnit (fails : Nat) (failed : Bool) : RxUnit :=
  { own := false, msg := 0, unit := 0, ctr := 0, phase := false, failed := failed, fails := fails, zeroing := true, landed := true, path := 0, tag := none, seqs := [], data := [],
    aad := [], dva := 0, len := 4096 }
def tUnits (u : RxUnit) : Qp := { tQp with sealing := some tSeal, recv := { tQp.recv with units := [u] } }
def tZero (u : RxUnit) : State := { tSec with qps := [(5, tUnits u)] }
def tZeroed (u : RxUnit) : State :=
  postRecord 0 (.sealFailure true u.dva 5 0 0) (unitMod 5 false 0 0 (fun x => { x with zeroing := false })
    (qpMod 5 (fun x => { x with sealing := x.sealing.map fun z => { z with failedUnits := z.failedUnits + 1 } }) (tZero u)))

def tRepairs (row : Nat) : State := { tFab with tarns := { tFab.tarns with repairs := [{ channel := 255, place := some (31, row) }], spares := [(8191, row)] } }
def tRebuild : State := { tMem with tarns := { tMem.tarns with rebuild := [0] } }

def tStraps : Straps := { level1Sel := false, profileSel := 0, bootRecovery := false }
def tDue : State := { tFab with dev := { tFab.dev with resetDue := some (428000000, .railsHeld), ppsEdgeAt := some 327000000 } }

/-- A command of the host in a BAR0 doorbell page, a packet of a kind with a key, and what a port of egress 32 holds. -/
def tAsk (body : List Byte) : RxPacket :=
  let h := { tHdr with pktOp := BitVec.ofNat 8 (pktOpCode .readRepair), destQp := 5, srcQp := 9, rkey := 0x1000000 }
  { tPacket 0 0 with hdr := h, crc := crc32c (headerBytes h ++ body) }
def tUnitOut : EgressUnit := { port := 32, tc := 7, fn := 0, stream := 2 ^ 20, since := 0, len := 144, item := .ring [] }
def tFrame : State := { tRings with commands := [tPend (.frameSend 0 0 0 [1])] }
def tAgrees : CollRun := { newRun with agreeOut := [tAgree] }
def tAsks : CollGroup := { tGroup .ready with runs := [(0, tAgrees)] }
def tExchange : CollGroup := { tGroup .setup with records := [(0, BitVec.ofNat 64 (setupRecord (tGroup .setup) 0))] }
def tLate : ReqStream := { newStream 0 4 true with unconsumed := [(4, 7), (6, 5)] }
def tStream (q : ReqStream) : FabPort := { tSpur with streams := [(63, q)] }
def tQueued : Qp := tSend fun x => { x with messages := [tMsg true], queue := [tFlight], nextSeq := 1 }
def tCircling : State :=
  { tOnRing with fabric := { tOnRing.fabric with
      bearingA := { freshBearing with mode := .armed, generation := 1, linkUse := 3 },
      bearingB := { freshBearing with mode := .active, linkUse := 3 }, ringX := { freshRing with slots := 30 } } }
def tArmed (s : State) : State :=
  { s with fabric := { s.fabric with bearingA := { freshBearing with mode := .armed, generation := 1 } } }

/-- How a command that its function's channel takes meets `accepts`. -/
theorem tTakes {sp : CmdSpec} {c : Cmd} {s : State} (h : (takesCommand sp c s && (cmdCheck sp c (consumeSlot c s)).isNone) = true) :
    accepts sp c s (consumeSlot c s) := by
  rw [Bool.and_eq_true, Option.isNone_iff_eq_none] at h
  exact ⟨h.1, rfl, h.2⟩

/-! ### The clauses of the completion statements -/

/-! DeviceCommandsComplete -/

theorem witness_DeviceCommandsComplete_0 : ∃ (c : Cmd) (s : State) (t : State),
    (accepts specDevQuery c s t) ∧
    (isHelm c = true ∨ param c 0 8 % 64 = 0 ∧ 128 ≤ param c 8 4) :=
  ⟨(tCmd 0 2361183241434822606848), tS, consumeSlot (tCmd 0 2361183241434822606848) tS,
    tTakes (by decide +kernel), by decide +kernel⟩

theorem witness_DeviceCommandsComplete_1 : ∃ (c : Cmd) (s : State) (t : State) (p : Profile),
    (accepts specDevProfile c s t) ∧
    (profileOfCode (param c 0 1) = some p) :=
  ⟨(tCmd 0 1), tS, consumeSlot (tCmd 0 1) tS, .latency,
    tTakes (by decide +kernel), by decide +kernel⟩

theorem witness_DeviceCommandsComplete_2 : ∃ (p : Pending) (new : Profile) (b : Nat) (s : State),
    (lit s = true) ∧
    (s.commands.find? isProfileChange = some p) ∧
    (p.what = .profile new b) :=
  ⟨tPend (.profile .latency 428100000), .latency, 428100000, { tS with commands := [tPend (.profile .latency 428100000)] },
    by decide +kernel⟩

theorem witness_DeviceCommandsComplete_3 : ∃ (c : Cmd) (s : State) (t : State),
    (accepts specDevTime c s t) :=
  ⟨(tCmd 0 0), tS, consumeSlot (tCmd 0 0) tS,
    tTakes (by decide +kernel)⟩

theorem witness_DeviceCommandsComplete_4 : ∃ (c : Cmd) (s : State) (t : State),
    (accepts specDevReset c s t) ∧
    (param c 0 1 = 0) :=
  ⟨(tCmd 0 0), tS, consumeSlot (tCmd 0 0) tS,
    tTakes (by decide +kernel), by decide +kernel⟩

theorem witness_DeviceCommandsComplete_5 : ∃ (c : Cmd) (s : State) (t : State),
    (accepts specDevPps c s t) :=
  ⟨(tCmd 0 0), tS, consumeSlot (tCmd 0 0) tS,
    tTakes (by decide +kernel)⟩

/-! FunctionCommandsComplete -/

theorem witness_FunctionCommandsComplete_0 : ∃ (c : Cmd) (s : State) (t : State) (f : Function),
    (accepts specFnQuery c s t) ∧
    (fnGet t (namedOf c) = some f) :=
  ⟨(tCmd 0 0), tRun, consumeSlot (tCmd 0 0) tRun, { freshFunction false with mode := .running, token := some 7, channel := { freshChannel with mode := .ready, ringSizes := 0x0808, consumed := 1 } },
    tTakes (by decide +kernel), by decide +kernel⟩

theorem witness_FunctionCommandsComplete_1 : ∃ (c : Cmd) (s : State) (t : State),
    (accepts specFnStop c s t) :=
  ⟨(tCmd 0 0), tRun, consumeSlot (tCmd 0 0) tRun,
    tTakes (by decide +kernel)⟩

theorem witness_FunctionCommandsComplete_2 : ∃ (fn : Nat) (s : State),
    (lit s = true) ∧
    (fnModeOf s fn = .stopping) ∧
    (quiesced s fn = true) :=
  ⟨0, fnMod 0 (fun f => { f with mode := .stopping }) tRun,
    by decide +kernel⟩

theorem witness_FunctionCommandsComplete_3 : ∃ (c : Cmd) (found : List RingRead) (s : State) (t : State) (t1 : State) (t2 : State),
    (t1 = fnMod (namedOf c) (fun f => { f with mode := .running, token := some (Config.freeWord t.dev.fresh), watchdogAt := if f.watchdogMs = 0 then none else some (t.dev.now + 1000000 * f.watchdogMs) }) (takeFresh t)) ∧
    (t2 = { t1 with sqs := tabMap t1.sqs fun k r => if k / 65536 = namedOf c then { r with running := true, scanning := true, doorbellAt := t.dev.now, rereads := 0 } else r }) ∧
    (accepts specFnStart c s t) :=
  ⟨(tCmd 0 0), [], tS, consumeSlot (tCmd 0 0) tS, _, _,
    rfl, rfl, tTakes (by decide +kernel)⟩

theorem witness_FunctionCommandsComplete_4 : ∃ (c : Cmd) (heads : List HeadRead) (s : State) (t : State),
    (accepts specFnReset c s t) :=
  ⟨{ tCmd 0 0 with function := 1 }, [], tVf, consumeSlot ({ tCmd 0 0 with function := 1 }) tVf,
    tTakes (by decide +kernel)⟩

theorem witness_FunctionCommandsComplete_5 : ∃ (fn : Nat) (f : Function) (s : State),
    (fnGet s fn = some f) ∧
    (f.mode = .resetting) ∧
    ((fnOpen s fn).isEmpty = true) :=
  ⟨0, { freshFunction false with mode := .resetting, token := some 7, channel := { freshChannel with mode := .ready, ringSizes := 0x0808 } }, fnMod 0 (fun f => { f with mode := .resetting }) tRun,
    by decide +kernel⟩

theorem witness_FunctionCommandsComplete_6 : ∃ (c : Cmd) (s : State) (t : State) (f : Function) (u : State) (v : State),
    (u = deliverCompletions (namedOf c) (deliverReplies false (namedOf c) (rewindRings (namedOf c) (attachRecords (namedOf c) (param c 8 8) (replyNow 0x0205 c .accepted false 0 0 0 t))))) ∧
    (v = attachSignals (namedOf c) (sortedNats (((t.heldReplies.filter fun r => r.fn == namedOf c).filter fun r => !r.quiet).map fun r => replyChannel r.origin)) (sortedNats ((heldWorks t (namedOf c)).filterMap fun p => match p.2.source with | .ring r => cqOfRing t r | .request _ _ => none)) u) ∧
    (accepts specFnAttach c s t) ∧
    (fnGet t (namedOf c) = some f) ∧
    (f.token.map BitVec.toNat = some (param c 0 8)) ∧
    (8 * ownedSqs t (namedOf c) ≤ param c 16 4) ∧
    (((t.heldReplies.filter fun r => r.fn == namedOf c).all fun r => channelTakes t (namedOf c) (replyChannel r.origin) c.origin) = true) :=
  ⟨(tCmd 0 7), (fnMod 0 (fun f => { f with mode := .held }) tRun), consumeSlot (tCmd 0 7) (fnMod 0 (fun f => { f with mode := .held }) tRun), { freshFunction false with mode := .held, token := some 7, channel := { freshChannel with mode := .ready, ringSizes := 0x0808, consumed := 1 } }, _, _,
    rfl, rfl, tTakes (by decide +kernel), by decide +kernel⟩

theorem witness_FunctionCommandsComplete_7 : ∃ (c : Cmd) (s : State) (t : State),
    (accepts specFnLevel c s t) ∧
    (param c 0 1 = 1 ∨ param c 0 1 = 2 ∧ t.dev.level1Strap = false) ∧
    (ownedSqs t (namedOf c) + ownedCqs t (namedOf c) + ownedQps t (namedOf c) = 0) :=
  ⟨(tCmd 0 1), tS, consumeSlot (tCmd 0 1) tS,
    tTakes (by decide +kernel), by decide +kernel⟩

theorem witness_FunctionCommandsComplete_8 : ∃ (c : Cmd) (s : State) (t : State) (f : Function),
    (accepts specFnRetain c s t) ∧
    (1 ≤ param c 0 2) ∧
    (param c 0 2 ≤ 600) ∧
    (fnGet t (namedOf c) = some f) :=
  ⟨(tCmd 0 600), tS, consumeSlot (tCmd 0 600) tS, { freshFunction false with mode := .stopped, token := none, channel := { freshChannel with mode := .ready, ringSizes := 0x0808, consumed := 1 } },
    tTakes (by decide +kernel), by decide +kernel⟩

/-! RegionCommandsComplete -/

theorem witness_RegionCommandsComplete_0 : ∃ (c : Cmd) (s : State) (t : State) (sp : Space) (a : AddrSpace),
    (sp = { root := BitVec.ofNat 64 (param c 0 8), fqBase := BitVec.ofNat 64 (param c 8 8), fqHeader := BitVec.ofNat 64 (param c 16 8), fqLog2 := param c 24 1, fqVector := param c 26 2, written := 0, head := 0, overflow := false, overflowCount := 0 }) ∧
    (accepts specMrSpace c s t) ∧
    (param c 0 8 % 4096 = 0) ∧
    (param c 8 8 % 4096 = 0) ∧
    (param c 16 8 % 64 = 0) ∧
    (sizeOk (param c 24 1) = true) ∧
    (param c 26 2 < 2048) ∧
    (partitionTotal t (namedOf c) + 2 ^ param c 24 1 ≤ 65536) ∧
    (tabGet t.spaces (namedOf c) = some a) :=
  ⟨(tCmd 0 842087057642754958259697700546354892247577736875671606493202874368), tS, consumeSlot (tCmd 0 842087057642754958259697700546354892247577736875671606493202874368) tS, _, freshSpace,
    rfl, tTakes (by decide +kernel), by decide +kernel⟩

theorem witness_RegionCommandsComplete_1 : ∃ (c : Cmd) (s : State) (t : State) (a : AddrSpace) (i : Nat) (g : W8),
    (accepts specMrRegister c s t) ∧
    (tabGet t.spaces (namedOf c) = some a) ∧
    (a.space.isSome = true) ∧
    (1 ≤ param c 8 8) ∧
    (param c 8 8 ≤ 2 ^ 48) ∧
    (param c 0 8 + param c 8 8 ≤ 2 ^ 57) ∧
    (rightsOk (param c 16 1) = true) ∧
    (freeRegion t = some (i, g)) :=
  ⟨(tCmd 0 21437794308315981733020228798697726541824), tMem, consumeSlot (tCmd 0 21437794308315981733020228798697726541824) tMem, tAddr, 1, 0,
    tTakes (by decide +kernel), by decide +kernel⟩

theorem witness_RegionCommandsComplete_2 : ∃ (c : Cmd) (s : State) (t : State) (a : AddrSpace) (r : Region),
    (accepts specMrDeregister c s t) ∧
    (tabGet t.spaces (namedOf c) = some a) ∧
    (a.space.isSome = true) ∧
    (keyCheck12 t (namedOf c) (BitVec.ofNat 32 (param c 0 4)) = .ok r) :=
  ⟨(tCmd 0 16777216), tMem, consumeSlot (tCmd 0 16777216) tMem, tAddr, tRegion,
    tTakes (by decide +kernel), by decide +kernel⟩

theorem witness_RegionCommandsComplete_3 : ∃ (key : W32) (s : State),
    (lit s = true) ∧
    (keyInUse s key = false) :=
  ⟨1, tMem,
    by decide +kernel⟩

theorem witness_RegionCommandsComplete_4 : ∃ (c : Cmd) (s : State) (t : State) (a : AddrSpace) (r : Region) (i : Nat),
    (i = keyIndex (BitVec.ofNat 32 (param c 0 4))) ∧
    (accepts specMrRekey c s t) ∧
    (tabGet t.spaces (namedOf c) = some a) ∧
    (a.space.isSome = true) ∧
    (keyCheck12 t (namedOf c) (BitVec.ofNat 32 (param c 0 4)) = .ok r) ∧
    (inQuarantine t i (nextGen i r.gen) = false) :=
  ⟨(tCmd 0 16777216), tMem, consumeSlot (tCmd 0 16777216) tMem, tAddr, tRegion, _,
    rfl, tTakes (by decide +kernel), by decide +kernel⟩

theorem witness_RegionCommandsComplete_5 : ∃ (c : Cmd) (s : State) (t : State) (a : AddrSpace) (r : Region),
    (accepts specMrQuery c s t) ∧
    (tabGet t.spaces (namedOf c) = some a) ∧
    (a.space.isSome = true) ∧
    (tabGet t.regions (param c 0 4) = some r) ∧
    (r.live = true) ∧
    (r.fn = namedOf c) :=
  ⟨(tCmd 0 0), tMem, consumeSlot (tCmd 0 0) tMem, tAddr, tRegion,
    tTakes (by decide +kernel), by decide +kernel⟩

/-! MappingCommandsComplete -/

theorem witness_MappingCommandsComplete_0 : ∃ (c : Cmd) (s : State) (t : State) (a : AddrSpace) (l : List MapDesc) (u : State),
    (l = (List.range (c.length.toNat / 32)).map (fun i => Machine.mapDesc (paramBytes c (32 * i) 32))) ∧
    (stageDescs c (bits c.params.toNat 0 64) 0 l t = some u) ∧
    (accepts specMrMap c s t) ∧
    (tabGet t.spaces (namedOf c) = some a) ∧
    (a.space.isSome = true) ∧
    (c.indirect = true) ∧
    (c.length.toNat % 32 = 0) ∧
    (c.length.toNat ≤ 32 * 2047) ∧
    (t.tarns.reforming = false ∨ (l.any fun d => d.target == 1) = false) ∧
    (l.findSome? (descFault t (namedOf c) a) = none) :=
  ⟨(tInd 32 [0, 0, 0, 0, 0, 0, 0, 0, 0, 0, 0, 0, 0, 0, 0, 0, 1]), tMem, consumeSlot (tInd 32 [0, 0, 0, 0, 0, 0, 0, 0, 0, 0, 0, 0, 0, 0, 0, 0, 1]) tMem, tAddr, _, _,
    rfl, rfl, tTakes (by decide +kernel), by decide +kernel⟩

theorem witness_MappingCommandsComplete_1 : ∃ (c : Cmd) (s : State) (t : State) (a : AddrSpace),
    (accepts specMrUnmap c s t) ∧
    (tabGet t.spaces (namedOf c) = some a) ∧
    (a.space.isSome = true) ∧
    (param c 0 8 % 4096 = 0) ∧
    (param c 8 8 % 4096 = 0) ∧
    (param c 0 8 + param c 8 8 ≤ 2 ^ 57) :=
  ⟨(tCmd 0 75557863725914323419136), tMem, consumeSlot (tCmd 0 75557863725914323419136) tMem, tAddr,
    tTakes (by decide +kernel), by decide +kernel⟩

theorem witness_MappingCommandsComplete_2 : ∃ (c : Cmd) (s : State) (t : State) (a : AddrSpace),
    (accepts specMrSync c s t) ∧
    (tabGet t.spaces (namedOf c) = some a) ∧
    (a.space.isSome = true) :=
  ⟨(tCmd 0 0), tMem, consumeSlot (tCmd 0 0) tMem, tAddr,
    tTakes (by decide +kernel), by decide +kernel⟩

theorem witness_MappingCommandsComplete_3 : ∃ (fn : Nat) (rebuilt : Bool) (pages : List Nat) (s : State),
    (rebuilt = (s.tarns.freeing.any fun x => x.1 == fn && !segmentsOpen s fn x.2)) ∧
    (pages = syncBacking s fn true ++ (if rebuilt then (unmappedBacking s fn).filter fun p => !(syncBacking s fn false).contains p else [])) ∧
    (lit s = true) :=
  ⟨0, _, _, { tMem with commands := [tPend (.mrSync 0 1 [])] },
    rfl, rfl, by decide +kernel⟩

theorem witness_MappingCommandsComplete_4 : ∃ (c : Cmd) (s : State) (t : State) (id : Nat) (x : Suspension),
    (accepts specMrFaultReply c s t) ∧
    (suspensionOf t (namedOf c) (BitVec.ofNat 32 (param c 0 4)) = some (id, x)) ∧
    (param c 4 1 = 1) :=
  ⟨(tCmd 0 4294967301), ({ tMem with suspended := [(3, tSusp 0)] }), consumeSlot (tCmd 0 4294967301) ({ tMem with suspended := [(3, tSusp 0)] }), 3, tSusp 0,
    tTakes (by decide +kernel), by decide +kernel⟩

theorem witness_MappingCommandsComplete_5 : ∃ (c : Cmd) (s : State) (t : State) (id : Nat) (x : Suspension),
    (accepts specMrFaultReply c s t) ∧
    (suspensionOf t (namedOf c) (BitVec.ofNat 32 (param c 0 4)) = some (id, x)) ∧
    (param c 4 1 = 0) ∧
    ((missingIn t x.fn x.ranges).isEmpty = true) :=
  ⟨(tCmd 0 5), ({ tMem with suspended := [(3, tSusp 0)] }), consumeSlot (tCmd 0 5) ({ tMem with suspended := [(3, tSusp 0)] }), 3, tSusp 0,
    tTakes (by decide +kernel), by decide +kernel⟩

theorem witness_MappingCommandsComplete_6 : ∃ (c : Cmd) (s : State) (t : State) (id : Nat) (x : Suspension) (u : State),
    (u = suspendOn x.fn x.stream (suspensionKind x) x.access x.work x.ranges (BitVec.ofNat 32 x.keyIndex) { t with suspended := tabErase t.suspended id }) ∧
    (accepts specMrFaultReply c s t) ∧
    (suspensionOf t (namedOf c) (BitVec.ofNat 32 (param c 0 4)) = some (id, x)) ∧
    (param c 4 1 = 0) ∧
    ((missingIn t x.fn x.ranges).isEmpty = false) :=
  ⟨(tCmd 0 5), ({ tMem with suspended := [(3, tSusp 65536)] }), consumeSlot (tCmd 0 5) ({ tMem with suspended := [(3, tSusp 65536)] }), 3, tSusp 65536, _,
    rfl, tTakes (by decide +kernel), by decide +kernel⟩

theorem witness_MappingCommandsComplete_7 : ∃ (c : Cmd) (s : State) (t : State) (a : AddrSpace) (r : Region) (w : Window),
    ((bit (param c 16 1) 0 = true → bit r.rights.toNat rightLocalRead = true)) ∧
    ((bit (param c 16 1) 1 = true → bit r.rights.toNat rightLocalWrite = true)) ∧
    (w = { index := keyIndex (BitVec.ofNat 32 (param c 4 4)), gen := r.gen, offset := param c 8 8, canRead := bit (param c 16 1) 0, canWrite := bit (param c 16 1) 1 }) ∧
    (accepts specMrBar4Open c s t) ∧
    (tabGet t.spaces (namedOf c) = some a) ∧
    (a.space.isSome = true) ∧
    (param c 8 8 % 65536 = 0) ∧
    (param c 16 1 < 4) ∧
    (keyCheck12 t (namedOf c) (BitVec.ofNat 32 (param c 4 4)) = .ok r) :=
  ⟨(tCmd 0 1020847100762815390390195879889342562304), tMem, consumeSlot (tCmd 0 1020847100762815390390195879889342562304) tMem, tAddr, tRegion, _,
    fun _ => by decide +kernel, fun _ => by decide +kernel, rfl, tTakes (by decide +kernel), by decide +kernel⟩

theorem witness_MappingCommandsComplete_8 : ∃ (c : Cmd) (s : State) (t : State) (a : AddrSpace),
    (accepts specMrBar4Close c s t) ∧
    (tabGet t.spaces (namedOf c) = some a) ∧
    (a.space.isSome = true) :=
  ⟨(tCmd 0 0), tMem, consumeSlot (tCmd 0 0) tMem, tAddr,
    tTakes (by decide +kernel), by decide +kernel⟩

theorem witness_MappingCommandsComplete_9 : ∃ (c : Cmd) (s : State) (t : State) (a : AddrSpace),
    (accepts specMrSpurGrant c s t) ∧
    (tabGet t.spaces (namedOf c) = some a) ∧
    (param c 0 1 < 16) ∧
    (1 ≤ param c 16 8) ∧
    (param c 8 8 + param c 16 8 ≤ 2 ^ 64) ∧
    (a.grants.length < 16) :=
  ⟨({ tCmd 0 22301085480897544078790255827641164099485711 with function := 1 }), tVf, consumeSlot ({ tCmd 0 22301085480897544078790255827641164099485711 with function := 1 }) tVf, freshSpace,
    tTakes (by decide +kernel), by decide +kernel⟩

theorem witness_MappingCommandsComplete_10 : ∃ (c : Cmd) (s : State) (t : State) (a : AddrSpace) (g : Grant),
    (accepts specMrSpurGrant c s t) ∧
    (tabGet t.spaces (namedOf c) = some a) ∧
    (param c 0 1 < 16) ∧
    (param c 16 8 = 0) ∧
    ((a.grants.find? fun g => g.port == param c 0 1 && g.base == param c 8 8) = some g) :=
  ⟨({ tCmd 0 1 with function := 1 }), ({ tVf with spaces := tRun.spaces ++ [(1, { freshSpace with grants := [{ port := 1, base := 0, len := 4096 }] })] }), consumeSlot ({ tCmd 0 1 with function := 1 }) ({ tVf with spaces := tRun.spaces ++ [(1, { freshSpace with grants := [{ port := 1, base := 0, len := 4096 }] })] }), { freshSpace with grants := [{ port := 1, base := 0, len := 4096 }] }, { port := 1, base := 0, len := 4096 },
    tTakes (by decide +kernel), by decide +kernel⟩

/-- Each clause whose one hypothesis is that the device runs. -/
theorem witness_lit : ∃ s : State, lit s = true := ⟨State.reset, rfl⟩

/-! QueuePairCommandsComplete -/

theorem witness_QueuePairCommandsComplete_0 : ∃ (c : Cmd) (s : State) (t : State),
    (accepts specQpCreate c s t) ∧
    (createOk c t = true) ∧
    (tabFree t.qps 0 < 2 ^ 20) :=
  ⟨(tCmd 0 4294967364608), tNet, consumeSlot (tCmd 0 4294967364608) tNet,
    tTakes (by decide +kernel), by decide +kernel⟩

theorem witness_QueuePairCommandsComplete_1 : ∃ (c : Cmd) (s : State) (t : State) (u : State) (q : Qp),
    (journalConnect (param c 40 4) (connectedConf c q.conf) t = some u) ∧
    (accepts specQpConnect c s t) ∧
    (connectWaits c s = false) ∧
    (usableQp t (namedOf c) (param c 40 4) = some q) ∧
    (connectOk c q = true) ∧
    (q.phase = .created) ∧
    (sendKeySpent q = false) := by
  obtain ⟨u, hu⟩ := Option.isSome_iff_exists.1 (show (journalConnect (param (tInd 44 [9, 0, 0, 0, 0, 0, 0, 0, 0, 0, 0, 0, 0, 64, 1, 0, 0, 0, 0, 0, 0, 0, 0, 0, 0, 0, 0, 0, 0, 0, 0, 0, 0, 0, 0, 0, 0, 0, 0, 0, 6]) 40 4) (connectedConf (tInd 44 [9, 0, 0, 0, 0, 0, 0, 0, 0, 0, 0, 0, 0, 64, 1, 0, 0, 0, 0, 0, 0, 0, 0, 0, 0, 0, 0, 0, 0, 0, 0, 0, 0, 0, 0, 0, 0, 0, 0, 0, 6]) tNewQp.conf) (consumeSlot (tInd 44 [9, 0, 0, 0, 0, 0, 0, 0, 0, 0, 0, 0, 0, 64, 1, 0, 0, 0, 0, 0, 0, 0, 0, 0, 0, 0, 0, 0, 0, 0, 0, 0, 0, 0, 0, 0, 0, 0, 0, 0, 6]) tNet)).isSome = true by decide +kernel)
  exact ⟨(tInd 44 [9, 0, 0, 0, 0, 0, 0, 0, 0, 0, 0, 0, 0, 64, 1, 0, 0, 0, 0, 0, 0, 0, 0, 0, 0, 0, 0, 0, 0, 0, 0, 0, 0, 0, 0, 0, 0, 0, 0, 0, 6]), tNet, consumeSlot (tInd 44 [9, 0, 0, 0, 0, 0, 0, 0, 0, 0, 0, 0, 0, 64, 1, 0, 0, 0, 0, 0, 0, 0, 0, 0, 0, 0, 0, 0, 0, 0, 0, 0, 0, 0, 0, 0, 0, 0, 0, 0, 6]) tNet, u, tNewQp, hu, tTakes (by decide +kernel), by decide +kernel⟩

theorem witness_QueuePairCommandsComplete_2 : ∃ (c : Cmd) (s : State) (t : State) (q : Qp),
    (accepts specQpQuery c s t) ∧
    (usableQp t (namedOf c) (param c 0 4) = some q) :=
  ⟨(tCmd 0 5), tNet, consumeSlot (tCmd 0 5) tNet, tQp,
    tTakes (by decide +kernel), by decide +kernel⟩

theorem witness_QueuePairCommandsComplete_3 : ∃ (c : Cmd) (s : State) (t : State) (q : Qp),
    (accepts specQpReset c s t) ∧
    (usableQp t (namedOf c) (param c 0 4) = some q) :=
  ⟨(tCmd 0 5), tNet, consumeSlot (tCmd 0 5) tNet, tQp,
    tTakes (by decide +kernel), by decide +kernel⟩

theorem witness_QueuePairCommandsComplete_4 : ∃ (qp : Nat) (q : Qp) (s : State),
    (lit s = true) ∧
    (qpGet s qp = some q) ∧
    (q.ending = some false) ∧
    ((qpOpen s qp).isEmpty = true) :=
  ⟨5, tEnd false, { tNet with qps := [(5, tEnd false)] },
    by decide +kernel⟩

theorem witness_QueuePairCommandsComplete_5 : ∃ (c : Cmd) (s : State) (t : State) (q : Qp),
    (accepts specQpDestroy c s t) ∧
    (usableQp t (namedOf c) (param c 0 4) = some q) :=
  ⟨(tCmd 0 5), tNet, consumeSlot (tCmd 0 5) tNet, tQp,
    tTakes (by decide +kernel), by decide +kernel⟩

theorem witness_QueuePairCommandsComplete_6 : ∃ (qp : Nat) (q : Qp) (s : State),
    (lit s = true) ∧
    (qpGet s qp = some q) ∧
    (q.ending = some true) ∧
    ((qpOpen s qp).isEmpty = true) :=
  ⟨5, tEnd true, { tNet with qps := [(5, tEnd true)] },
    by decide +kernel⟩

/-! AdmissionAndAddressCommandsComplete -/

theorem witness_AdmissionAndAddressCommandsComplete_0 : ∃ (c : Cmd) (s : State) (t : State) (q : Qp) (f : Flow) (a : Admission),
    (a = { number := t.sched.nextAdmission, cls := f.cls, lossBound := f.lossBound, pathMask := BitVec.ofNat 16 (param c 6 2), rate := f.rate, burst := f.burst, msgMax := param c 16 4, netRtt := param c 20 4, bound := reportedBound t f (param c 20 4), withdrawn := false, links := sortedNats (f.routes.flatMap fun r => r.links), exits := sortedNats (f.routes.flatMap fun r => r.exits), ports := f.ports, latency := t.dev.profile == .latency }) ∧
    (accepts specQpAdmit c s t) ∧
    (usableQp t (namedOf c) (param c 0 4) = some q) ∧
    (admitOk t c q = true) ∧
    (flowOf t (param c 0 4) q (param c 4 1) (param c 5 1) (param c 8 4) (param c 12 4) (param c 6 2) (t.dev.profile == .latency) = some f) ∧
    (mayJoin t f = true) ∧
    (partnerPath t q.conf.fn = false) :=
  ⟨(tCmd 0 1461501638724699493760885886379137312288315864514565), tNet, consumeSlot (tCmd 0 1461501638724699493760885886379137312288315864514565) tNet, tQp, { qp := 5, fabric := false, cls := 0, lossBound := 0, rate := 1, burst := 8192, routes := [], ports := [0], latency := false }, _,
    rfl, tTakes (by decide +kernel), by decide +kernel⟩

theorem witness_AdmissionAndAddressCommandsComplete_1 : ∃ (c : Cmd) (s : State) (t : State) (q : Qp),
    (accepts specQpRelease c s t) ∧
    (usableQp t (namedOf c) (param c 0 4) = some q) :=
  ⟨(tCmd 0 5), tNet, consumeSlot (tCmd 0 5) tNet, tQp,
    tTakes (by decide +kernel), by decide +kernel⟩

theorem witness_AdmissionAndAddressCommandsComplete_2 : ∃ (c : Cmd) (s : State) (t : State) (q : Qp),
    (accepts specQpAdmitQuery c s t) ∧
    (usableQp t (namedOf c) (param c 0 4) = some q) :=
  ⟨(tCmd 0 5), tNet, consumeSlot (tCmd 0 5) tNet, tQp,
    tTakes (by decide +kernel), by decide +kernel⟩

theorem witness_AdmissionAndAddressCommandsComplete_3 : ∃ (c : Cmd) (s : State) (t : State),
    (accepts specSrqCreate c s t) ∧
    (param c 4 2 < 2048) ∧
    (tabFree t.srqs 0 < 65536) :=
  ⟨(tCmd 0 8791798054912), tNet, consumeSlot (tCmd 0 8791798054912) tNet,
    tTakes (by decide +kernel), by decide +kernel⟩

theorem witness_AdmissionAndAddressCommandsComplete_4 : ∃ (c : Cmd) (s : State) (t : State) (u : State),
    (u = completeAll (srqOpen t (param c 0 2)) .flushed t) ∧
    (accepts specSrqDestroy c s t) ∧
    (ownsSrq t (namedOf c) (param c 0 2) = true) ∧
    ((t.qps.any fun p => p.2.conf.useSrq && p.2.conf.srq == param c 0 2) = false) :=
  ⟨(tCmd 0 0), ({ tNet with srqs := [(0, { fn := 0, limit := 0, vector := 0, armed := false, buffers := [] })] }), consumeSlot (tCmd 0 0) ({ tNet with srqs := [(0, { fn := 0, limit := 0, vector := 0, armed := false, buffers := [] })] }), _,
    rfl, tTakes (by decide +kernel), by decide +kernel⟩

theorem witness_AdmissionAndAddressCommandsComplete_5 : ∃ (c : Cmd) (s : State) (t : State),
    (accepts specEhtPort c s t) ∧
    (1024 ≤ param c 0 2) ∧
    ((t.qps.any fun p => p.2.phase == .ready) = false) :=
  ⟨(tCmd 0 1024), tMem, consumeSlot (tCmd 0 1024) tMem,
    tTakes (by decide +kernel), by decide +kernel⟩

theorem witness_AdmissionAndAddressCommandsComplete_6 : ∃ (c : Cmd) (s : State) (t : State),
    (accepts specEhtAddr c s t) ∧
    (param c 0 1 < 4) ∧
    (param c 1 1 ≤ 1) ∧
    (param c 2 2 ≤ 4095 ∨ param c 2 2 = 65535) :=
  ⟨(tCmd 0 268370179), tMem, consumeSlot (tCmd 0 268370179) tMem,
    tTakes (by decide +kernel), by decide +kernel⟩

/-! RingCommandsComplete -/

theorem witness_RingCommandsComplete_0 : ∃ (c : Cmd) (s : State) (t : State) (q : CplRing) (slot : Nat) (n : Nat) (r : SubRing),
    (n = freeLocal t.sqs (namedOf c)) ∧
    (r = { base := BitVec.ofNat 64 (param c 0 8), log2 := param c 8 1, weight := param c 9 1, burst := param c 10 1, cq := param c 12 2, slot := slot, accepted := 0, prefetched := [], producer := 0, running := fnModeOf t (namedOf c) == .running, scanning := false, doorbellAt := 0, rereads := 0, rereadAt := 0, roundTaken := 0, visitTaken := 0 }) ∧
    (accepts specRingSqCreate c s t) ∧
    (param c 0 8 % 4096 = 0) ∧
    (sizeOk (param c 8 1) = true) ∧
    (1 ≤ param c 9 1) ∧
    (1 ≤ param c 10 1) ∧
    (param c 10 1 ≤ 64) ∧
    (cqGet t (namedOf c) (param c 12 2) = some q) ∧
    (((List.range 8).find? fun i => !((boundTo t (namedOf c) (param c 12 2)).map fun p => p.2.slot).contains i) = some slot) ∧
    ((ringsOf t (namedOf c)).length < sqQuotaOf t (namedOf c)) ∧
    (t.sqs.length < 65536) :=
  ⟨(tCmd 0 77376269969724316179234816), tRings, consumeSlot (tCmd 0 77376269969724316179234816) tRings, tCq, 1, _, _,
    rfl, rfl, tTakes (by decide +kernel), by decide +kernel⟩

theorem witness_RingCommandsComplete_1 : ∃ (c : Cmd) (s : State) (t : State),
    (accepts specRingCqCreate c s t) ∧
    (param c 0 8 % 4096 = 0) ∧
    (param c 8 8 % 128 = 0) ∧
    (sizeOk (param c 16 1) = true) ∧
    (vectorOk (param c 18 2) = true) ∧
    (1 ≤ param c 20 2) ∧
    (param c 20 2 ≤ 256) ∧
    (param c 22 2 ≤ 1023) ∧
    ((t.cqs.filter fun p => p.1 / 65536 == namedOf c).length < cqQuotaOf t (namedOf c)) ∧
    (t.cqs.length < 65536) :=
  ⟨(tCmd 0 97984309250011263539267728456037219647584965564844474368), tRings, consumeSlot (tCmd 0 97984309250011263539267728456037219647584965564844474368) tRings,
    tTakes (by decide +kernel), by decide +kernel⟩

theorem witness_RingCommandsComplete_2 : ∃ (c : Cmd) (s : State) (t : State),
    (accepts specRingSched c s t) ∧
    ((tabGet t.sqs (pairKey (namedOf c) (param c 0 2))).isSome = true) ∧
    (1 ≤ param c 2 1) ∧
    (1 ≤ param c 3 1) ∧
    (param c 3 1 ≤ 64) :=
  ⟨(tCmd 0 1073807360), tRings, consumeSlot (tCmd 0 1073807360) tRings,
    tTakes (by decide +kernel), by decide +kernel⟩

theorem witness_RingCommandsComplete_3 : ∃ (c : Cmd) (s : State) (t : State),
    (accepts specRingModerate c s t) ∧
    ((tabGet t.cqs (pairKey (namedOf c) (param c 0 2))).isSome = true) ∧
    (1 ≤ param c 2 2) ∧
    (param c 2 2 ≤ 256) ∧
    (param c 4 2 ≤ 1023) ∧
    (vectorOk (param c 6 2) = true) :=
  ⟨(tCmd 0 576183671095033856), tRings, consumeSlot (tCmd 0 576183671095033856) tRings,
    tTakes (by decide +kernel), by decide +kernel⟩

theorem witness_RingCommandsComplete_4 : ∃ (c : Cmd) (s : State) (t : State) (r : SubRing) (q : CplRing),
    (accepts specRingDestroy c s t) ∧
    (param c 0 1 = 0) ∧
    (tabGet t.sqs (pairKey (namedOf c) (param c 2 2)) = some r) ∧
    (cqGet t (namedOf c) r.cq = some q) :=
  ⟨(tCmd 0 0), tStop, consumeSlot (tCmd 0 0) tStop, { tSq with running := false }, tCq,
    tTakes (by decide +kernel), by decide +kernel⟩

theorem witness_RingCommandsComplete_5 : ∃ (c : Cmd) (s : State) (t : State),
    (accepts specRingDestroy c s t) ∧
    (param c 0 1 = 1) ∧
    ((tabGet t.cqs (pairKey (namedOf c) (param c 2 2))).isNone = false) ∧
    ((boundTo t (namedOf c) (param c 2 2)).isEmpty = true) :=
  ⟨(tCmd 0 1), ({ tStop with sqs := [] }), consumeSlot (tCmd 0 1) ({ tStop with sqs := [] }),
    tTakes (by decide +kernel), by decide +kernel⟩

theorem witness_RingCommandsComplete_6 : ∃ (c : Cmd) (s : State) (t : State),
    (accepts specRingRetry c s t) ∧
    (1 ≤ param c 0 1) ∧
    (param c 0 1 ≤ 16) ∧
    (param c 1 1 ≤ 15) :=
  ⟨({ tCmd 0 3856 with function := 1 }), tVf, consumeSlot ({ tCmd 0 3856 with function := 1 }) tVf,
    tTakes (by decide +kernel), by decide +kernel⟩

theorem witness_RingCommandsComplete_7 : ∃ (c : Cmd) (s : State) (t : State) (u : State),
    (u = fnMod (namedOf c) (fun f => { f with sqQuota := param c 0 2, cqQuota := param c 2 2 }) t) ∧
    (accepts specRingQuota c s t) ∧
    (param c 0 2 ≤ 8192) ∧
    (param c 2 2 ≤ 8192) ∧
    ((ringsOf t (namedOf c)).length ≤ param c 0 2) ∧
    ((t.cqs.filter fun p => p.1 / 65536 == namedOf c).length ≤ param c 2 2) ∧
    ((ringsOf t 0).length ≤ sqQuotaOf u 0) ∧
    ((t.cqs.filter fun p => p.1 / 65536 == 0).length ≤ cqQuotaOf u 0) :=
  ⟨({ tCmd 0 536879104 with function := 1 }), tVf, consumeSlot ({ tCmd 0 536879104 with function := 1 }) tVf, _,
    rfl, tTakes (by decide +kernel), by decide +kernel⟩

theorem witness_RingCommandsComplete_8 : ∃ (c : Cmd) (s : State) (t : State),
    (accepts specHostWatchdog c s t) ∧
    (param c 0 2 ≤ 10000) :=
  ⟨(tCmd 0 10000), tRings, consumeSlot (tCmd 0 10000) tRings,
    tTakes (by decide +kernel), by decide +kernel⟩

/-! SchedulingCommandsComplete -/

theorem witness_SchedulingCommandsComplete_0 : ∃ (c : Cmd) (s : State) (t : State),
    (accepts specCcClass c s t) ∧
    (param c 0 1 < 8) ∧
    (250 ≤ param c 4 4) ∧
    (param c 4 4 ≤ 1000000) ∧
    (250 ≤ param c 8 4) ∧
    (param c 8 4 ≤ 1000000) ∧
    (param c 12 1 ≤ 10) :=
  ⟨(tCmd 0 792300071886717086560797327367), tRings, consumeSlot (tCmd 0 792300071886717086560797327367) tRings,
    tTakes (by decide +kernel), by decide +kernel⟩

theorem witness_SchedulingCommandsComplete_1 : ∃ (c : Cmd) (s : State) (t : State),
    (accepts specQosShare c s t) ∧
    (1 ≤ param c 0 2) ∧
    (param c 0 2 ≤ 10000) :=
  ⟨(tCmd 0 10000), tRings, consumeSlot (tCmd 0 10000) tRings,
    tTakes (by decide +kernel), by decide +kernel⟩

theorem witness_SchedulingCommandsComplete_2 : ∃ (c : Cmd) (s : State) (t : State),
    (accepts specSchedTc c s t) ∧
    (egressPortOk (param c 0 1) = true) ∧
    ((((List.range 4).map fun i => param c (1 + i) 1).all fun x => decide (1 ≤ x)) = true) :=
  ⟨(tCmd 0 1095233503535), tRings, consumeSlot (tCmd 0 1095233503535) tRings,
    tTakes (by decide +kernel), by decide +kernel⟩

theorem witness_SchedulingCommandsComplete_3 : ∃ (c : Cmd) (s : State) (t : State),
    (accepts specSchedQp c s t) ∧
    (ownsQp t (namedOf c) (param c 0 4) = true) ∧
    (1 ≤ param c 4 1) :=
  ⟨(tCmd 0 4294967301), tRings, consumeSlot (tCmd 0 4294967301) tRings,
    tTakes (by decide +kernel), by decide +kernel⟩

theorem witness_SchedulingCommandsComplete_4 : ∃ (c : Cmd) (s : State) (t : State) (key : Nat) (u : State),
    (u = dueRefills t) ∧
    (accepts specShaperSet c s t) ∧
    (shaperNamed c u = some key) ∧
    (9216 ≤ param c 12 4) ∧
    (shaperNeedsPf0 c u = false ∨ issuerOf c = 0) :=
  ⟨(tCmd 0 730166745731478582006196230684672), tRings, consumeSlot (tCmd 0 730166745731478582006196230684672) tRings, shaperKey 0 5 0, _,
    rfl, tTakes (by decide +kernel), by decide +kernel⟩

theorem witness_SchedulingCommandsComplete_5 : ∃ (c : Cmd) (s : State) (t : State) (key : Nat) (u : State),
    (key = policerKey (param c 0 1) (param c 1 1)) ∧
    (u = dueRefills t) ∧
    (accepts specPolicerSet c s t) ∧
    (param c 0 1 < 32) ∧
    (param c 1 1 < 4) ∧
    (param c 4 4 ≤ param c 8 4) ∧
    (9216 ≤ param c 12 4) ∧
    (9216 ≤ param c 16 4) :=
  ⟨(tCmd 0 3136042294273535625009938964097354887594783), tRings, consumeSlot (tCmd 0 3136042294273535625009938964097354887594783) tRings, _, _,
    rfl, rfl, tTakes (by decide +kernel), by decide +kernel⟩

/-! SoundingAndCounterCommandsComplete -/

theorem witness_SoundingAndCounterCommandsComplete_0 : ∃ (c : Cmd) (s : State) (t : State),
    (accepts specSndRing c s t) ∧
    (param c 0 8 % 4096 = 0) ∧
    (param c 8 8 % 64 = 0) ∧
    (sizeOk (param c 16 1) = true) ∧
    (param c 18 2 < 2048) :=
  ⟨(tCmd 0 45649630865910056305739030718104914911033294848), tS, consumeSlot (tCmd 0 45649630865910056305739030718104914911033294848) tS,
    tTakes (by decide +kernel), by decide +kernel⟩

theorem witness_SoundingAndCounterCommandsComplete_1 : ∃ (c : Cmd) (s : State) (t : State) (rest : List Sounding),
    (rest = t.sched.soundings.filter (fun x => !isSounding (namedOf c) (param c 0 1) (param c 4 4) x)) ∧
    (accepts specSndAdd c s t) ∧
    (param c 0 1 ≤ 3) ∧
    (param c 1 1 ≤ 16) ∧
    (namedOf c = 0 ∨ param c 0 1 ≤ 1) ∧
    (queueNamed t (param c 0 1) (param c 4 4) = true) ∧
    (queueOwned t (namedOf c) (param c 0 1) (param c 4 4) = true) ∧
    (rest.length < 4096) ∧
    ((rest.map fun x => (1 : Rat) / (2 ^ x.k : Nat)).sum + (1 : Rat) / (2 ^ param c 1 1 : Nat) ≤ 64) :=
  ⟨(tCmd 0 21474840576), tRings, consumeSlot (tCmd 0 21474840576) tRings, _,
    rfl, tTakes (by decide +kernel), by decide +kernel⟩

theorem witness_SoundingAndCounterCommandsComplete_2 : ∃ (c : Cmd) (s : State) (t : State),
    (accepts specSndRemove c s t) ∧
    ((t.sched.soundings.any fun x => isSounding (namedOf c) (param c 0 1) (param c 4 4) x) = true) :=
  ⟨(tCmd 0 21474836480), ({ tRings with sched := { freshSched with soundings := [tSound] } }), consumeSlot (tCmd 0 21474836480) ({ tRings with sched := { freshSched with soundings := [tSound] } }),
    tTakes (by decide +kernel), by decide +kernel⟩

theorem witness_SoundingAndCounterCommandsComplete_3 : ∃ (c : Cmd) (s : State) (t : State),
    (accepts specCntRead c s t) ∧
    (param c 0 2 = 0x0180) ∧
    (issuerOf c = 0) ∧
    (528 ≤ param c 16 4) :=
  ⟨(tCmd 0 179669089734255508708661792723973615649152), tRings, consumeSlot (tCmd 0 179669089734255508708661792723973615649152) tRings,
    tTakes (by decide +kernel), by decide +kernel⟩

theorem witness_SoundingAndCounterCommandsComplete_4 : ∃ (c : Cmd) (s : State) (t : State) (l : Link) (u : State),
    (u = countHeldNs (param c 0 2 - 0x0100) t) ∧
    (accepts specCntRead c s t) ∧
    (0x0100 ≤ param c 0 2) ∧
    (param c 0 2 < 0x0120) ∧
    (issuerOf c = 0) ∧
    (528 ≤ param c 16 4) ∧
    (linkGet u (param c 0 2 - 0x0100) = some l) ∧
    (configured t (param c 0 2 - 0x0100) = true) :=
  ⟨(tCmd 0 179669089734255508708661792723973615649024), tRings, consumeSlot (tCmd 0 179669089734255508708661792723973615649024) tRings, { freshLink with up := true }, _,
    rfl, tTakes (by decide +kernel), by decide +kernel⟩

/-! EthernetCommandsComplete -/

theorem witness_EthernetCommandsComplete_0 : ∃ (c : Cmd) (s : State) (t : State),
    (accepts specCntNotify c s t) ∧
    (param c 0 2 < 2048 ∨ param c 0 2 = 0xFFFF) :=
  ⟨(tCmd 0 65535), tRings, consumeSlot (tCmd 0 65535) tRings,
    tTakes (by decide +kernel), by decide +kernel⟩

theorem witness_EthernetCommandsComplete_1 : ∃ (c : Cmd) (s : State) (t : State),
    (accepts specEthPortSet c s t) ∧
    (param c 0 1 < 4) ∧
    (param c 1 1 ≤ 4) ∧
    (param c 2 1 ≤ 2) ∧
    (param c 3 1 ≤ 1) ∧
    (param c 4 1 ≤ 1) ∧
    (2 ≤ param c 6 2 ∧ param c 6 2 ≤ 100) ∧
    (param c 8 1 % 8 = 0) ∧
    (portInUse t (param c 0 1) = false) :=
  ⟨(tCmd 0 4574820677781951742979), tRings, consumeSlot (tCmd 0 4574820677781951742979) tRings,
    tTakes (by decide +kernel), by decide +kernel⟩

theorem witness_EthernetCommandsComplete_2 : ∃ (c : Cmd) (s : State) (t : State) (l : Link),
    (accepts specEthPortQuery c s t) ∧
    (linkGet t (param c 0 1) = some l) :=
  ⟨(tCmd 0 31), tRings, consumeSlot (tCmd 0 31) tRings, freshLink,
    tTakes (by decide +kernel), by decide +kernel⟩

theorem witness_EthernetCommandsComplete_3 : ∃ (c : Cmd) (s : State) (t : State) (u : State) (lift : Nat),
    (lift = prioMask (fun q => !bit (param c 1 1) q && (match linkGet t (param c 0 1) with | some l => bit l.pausing.toNat q | none => false))) ∧
    (u = ((List.range 8).filter fun q => !bit (param c 1 1) q).foldl (fun v q => resumeTc (param c 0 1) q v) t) ∧
    (accepts specEthPfc c s t) ∧
    (configured t (param c 0 1) = true) ∧
    (pfcFits (linkBuffer t (param c 0 1)) (param c 1 1) (param c 4 4) (param c 8 4) = true) :=
  ⟨(tCmd 0 18446744078004518912256), tRings, consumeSlot (tCmd 0 18446744078004518912256) tRings, _, _,
    rfl, rfl, tTakes (by decide +kernel), by decide +kernel⟩

theorem witness_EthernetCommandsComplete_4 : ∃ (c : Cmd) (s : State) (t : State),
    (accepts specEthFrames c s t) ∧
    (param c 0 8 = 0) :=
  ⟨(tCmd 0 0), tRings, consumeSlot (tCmd 0 0) tRings,
    tTakes (by decide +kernel), by decide +kernel⟩

theorem witness_EthernetCommandsComplete_5 : ∃ (c : Cmd) (s : State) (t : State),
    (accepts specEthFrames c s t) ∧
    (param c 0 8 ≠ 0) ∧
    (param c 0 8 % 4096 = 0) ∧
    (param c 8 8 % 64 = 0) ∧
    (param c 16 8 % 4096 = 0) ∧
    (4 ≤ param c 24 1 ∧ param c 24 1 ≤ 12) ∧
    (param c 25 1 ≤ 1) ∧
    (param c 26 2 < 2048) :=
  ⟨(tCmd 0 842088639472392275703250187165289540579514594669243611429900128256), tRings, consumeSlot (tCmd 0 842088639472392275703250187165289540579514594669243611429900128256) tRings,
    tTakes (by decide +kernel), by decide +kernel⟩

theorem witness_EthernetCommandsComplete_6 : ∃ (c : Cmd) (s : State) (t : State),
    (accepts specEthFrameSend c s t) ∧
    (c.indirect = true) ∧
    (configured t (param c 0 1) = true) ∧
    (param c 1 1 < 4) ∧
    (14 ≤ param c 2 2 ∧ param c 2 2 ≤ 9212) ∧
    (isLldp (paramBytes c 64 (param c 2 2)) = false) ∧
    (linkUp t (param c 0 1) = true) :=
  ⟨(tInd 78 [0, 3, 14]), tRings, consumeSlot (tInd 78 [0, 3, 14]) tRings,
    tTakes (by decide +kernel), by decide +kernel⟩

theorem witness_EthernetCommandsComplete_7 : ∃ (c : Cmd) (s : State) (t : State),
    (accepts specEthFrameSend c s t) ∧
    (c.indirect = true) ∧
    (configured t (param c 0 1) = true) ∧
    (param c 1 1 < 4) ∧
    (14 ≤ param c 2 2 ∧ param c 2 2 ≤ 9212) ∧
    (isLldp (paramBytes c 64 (param c 2 2)) = false) ∧
    (linkUp t (param c 0 1) = false) :=
  ⟨(tInd 78 [0, 3, 14]), ({ tRings with eth := { tEth with links := tabSet tEth.links 0 freshLink } }), consumeSlot (tInd 78 [0, 3, 14]) ({ tRings with eth := { tEth with links := tabSet tEth.links 0 freshLink } }),
    tTakes (by decide +kernel), by decide +kernel⟩

theorem witness_EthernetCommandsComplete_8 : ∃ (c : Cmd) (s : State) (t : State),
    (accepts specEthMcast c s t) ∧
    (c.indirect = true) ∧
    (configured t (param c 0 1) = true) ∧
    (param c 1 1 ≤ 16) :=
  ⟨(tInd 104 [0, 16]), tRings, consumeSlot (tInd 104 [0, 16]) tRings,
    tTakes (by decide +kernel), by decide +kernel⟩

/-! HelmCommandsComplete -/

theorem witness_HelmCommandsComplete_0 : ∃ (c : Cmd) (s : State) (t : State),
    (accepts specHelmSet c s t) ∧
    (param c 0 1 ≤ 4) :=
  ⟨(tCmd 0 4), tRings, consumeSlot (tCmd 0 4) tRings,
    tTakes (by decide +kernel), by decide +kernel⟩

theorem witness_HelmCommandsComplete_1 : ∃ (c : Cmd) (s : State) (t : State),
    (accepts specHelmQuery c s t) :=
  ⟨(tCmd 0 0), tRings, consumeSlot (tCmd 0 0) tRings,
    tTakes (by decide +kernel)⟩

/-! GroupCommandsComplete -/

theorem witness_GroupCommandsComplete_0 : ∃ (c : Cmd) (s : State) (t : State) (p : CollGroup × Collectives),
    (reserve (!(t.coll.groups.any fun p => p.2.mode == .waiting)) (spillTotal t) (newGroup c t) t.coll = some p) ∧
    (accepts specCollSetup c s t) ∧
    (param c 0 2 < 4096) ∧
    (groupGet t (param c 0 2) = none) ∧
    (1 ≤ param c 2 1) ∧
    (param c 2 1 ≤ 16) ∧
    (param c 3 1 < 4) ∧
    (t.fabric.ident.isSome = true) ∧
    (isMemberDevice (newGroup c t) (ownDev t) = true) ∧
    (16 ≤ param c 24 2) ∧
    (param c 24 2 ≤ 512) ∧
    (param c 26 1 < 2) ∧
    (param c 28 4 ≤ 600000) := by
  obtain ⟨p, hp⟩ := Option.isSome_iff_exists.1 (show (reserve (!((consumeSlot (tCmd 0 16175968000293597752888727032762863349214069741544778303220298104265773055) tFab).coll.groups.any fun p => p.2.mode == .waiting)) (spillTotal (consumeSlot (tCmd 0 16175968000293597752888727032762863349214069741544778303220298104265773055) tFab)) (newGroup (tCmd 0 16175968000293597752888727032762863349214069741544778303220298104265773055) (consumeSlot (tCmd 0 16175968000293597752888727032762863349214069741544778303220298104265773055) tFab)) (consumeSlot (tCmd 0 16175968000293597752888727032762863349214069741544778303220298104265773055) tFab).coll).isSome = true by decide +kernel)
  exact ⟨(tCmd 0 16175968000293597752888727032762863349214069741544778303220298104265773055), tFab, consumeSlot (tCmd 0 16175968000293597752888727032762863349214069741544778303220298104265773055) tFab, p, hp, tTakes (by decide +kernel), by decide +kernel⟩

theorem witness_GroupCommandsComplete_1 : ∃ (c : Cmd) (s : State) (t : State),
    (accepts specCollSetup c s t) ∧
    (param c 0 2 < 4096) ∧
    (groupGet t (param c 0 2) = none) ∧
    (1 ≤ param c 2 1) ∧
    (param c 2 1 ≤ 16) ∧
    (param c 3 1 < 4) ∧
    (t.fabric.ident.isSome = true) ∧
    (isMemberDevice (newGroup c t) (ownDev t) = true) ∧
    (16 ≤ param c 24 2) ∧
    (param c 24 2 ≤ 512) ∧
    (param c 26 1 < 2) ∧
    (param c 28 4 ≤ 600000) ∧
    (reserve (!(t.coll.groups.any fun p => p.2.mode == .waiting)) (spillTotal t) (newGroup c t) t.coll = none) :=
  ⟨(tCmd 0 16175968000293597752888727032762863349214069741544778303220298104265773055), ({ tFab with coll := { freshColl with free := 511 } }), consumeSlot (tCmd 0 16175968000293597752888727032762863349214069741544778303220298104265773055) ({ tFab with coll := { freshColl with free := 511 } }),
    tTakes (by decide +kernel), by decide +kernel⟩

theorem witness_GroupCommandsComplete_2 : ∃ (slot : Nat) (g : CollGroup) (p : CollGroup × Collectives) (s : State),
    (lit s = true) ∧
    (oldestWaiting s = some (slot, g)) ∧
    (reserve true (spillTotal s) g s.coll = some p) :=
  ⟨3, tGroup .waiting, ({ tGroup .waiting with mode := .setup, reserved := true }, { freshColl with groups := [(3, tGroup .waiting)], free := 4016 }), tColl (tGroup .waiting),
    by decide +kernel⟩

theorem witness_GroupCommandsComplete_3 : ∃ (slot : Nat) (records : List W64) (g : CollGroup) (g1 : CollGroup) (u : State) (r : Nat) (s : State),
    (g1 = { g with devices := (readRecords g).1, mode := .ready }) ∧
    (journalPut slot (.collGroup slot) s = some (r, u)) ∧
    (lit s = true) ∧
    (groupGet s slot = some g) ∧
    (g.mode = .setup) ∧
    ((readRecords g).1.map Prod.fst = memberDevices g) ∧
    (g.records.map Prod.snd = records) ∧
    ((readRecords g).2 = true) ∧
    (memberCount g1 ≤ 65536) := by
  obtain ⟨p, hp⟩ := Option.isSome_iff_exists.1 (show (journalPut 3 (.collGroup 3) (tColl tExchange)).isSome = true by decide +kernel)
  exact ⟨3, tExchange.records.map Prod.snd, tExchange, _, p.2, p.1, tColl tExchange, rfl, hp, by decide +kernel⟩

theorem witness_GroupCommandsComplete_4 : ∃ (slot : Nat) (at0 : Nat) (g : CollGroup) (s : State),
    (lit s = true) ∧
    (groupGet s slot = some g) ∧
    (g.mode = .waiting ∨ g.mode = .setup) ∧
    (g.timeoutAt = some at0) :=
  ⟨3, 500000000, tGroup .setup, tColl (tGroup .setup),
    by decide +kernel⟩

theorem witness_GroupCommandsComplete_5 : ∃ (c : Cmd) (s : State) (t : State) (g : CollGroup),
    (accepts specCollTeardown c s t) ∧
    (groupGet t (param c 0 2) = some g) ∧
    (g.fn = namedOf c) ∧
    (g.tearing = false) :=
  ⟨(tCmd 0 3), (tColl (tGroup .ready)), consumeSlot (tCmd 0 3) (tColl (tGroup .ready)), tGroup .ready,
    tTakes (by decide +kernel), by decide +kernel⟩

theorem witness_GroupCommandsComplete_6 : ∃ (slot : Nat) (g : CollGroup) (s : State),
    (lit s = true) ∧
    (groupGet s slot = some g) ∧
    (g.tearing = true) ∧
    (contOpen s (.coll slot) = false) :=
  ⟨3, { tGroup .ready with tearing := true }, tColl ({ tGroup .ready with tearing := true }),
    by decide +kernel⟩

theorem witness_GroupCommandsComplete_7 : ∃ (c : Cmd) (s : State) (t : State) (g : CollGroup),
    (accepts specCollQuery c s t) ∧
    (groupGet t (param c 0 2) = some g) ∧
    (g.fn = namedOf c) :=
  ⟨(tCmd 0 3), (tColl (tGroup .ready)), consumeSlot (tCmd 0 3) (tColl (tGroup .ready)), tGroup .ready,
    tTakes (by decide +kernel), by decide +kernel⟩

theorem witness_GroupCommandsComplete_8 : ∃ (c : Cmd) (s : State) (t : State) (g : CollGroup),
    (accepts specCollAbort c s t) ∧
    (groupGet t (param c 0 2) = some g) ∧
    (g.fn = namedOf c) ∧
    (g.mode ≠ .ready ∨ seqEnded g (BitVec.ofNat 32 (param c 4 4)) = true) :=
  ⟨(tCmd 0 3), (tColl (tGroup .broken)), consumeSlot (tCmd 0 3) (tColl (tGroup .broken)), tGroup .broken,
    tTakes (by decide +kernel), by decide +kernel⟩

theorem witness_GroupCommandsComplete_9 : ∃ (c : Cmd) (s : State) (t : State) (g : CollGroup),
    (accepts specCollAbort c s t) ∧
    (groupGet t (param c 0 2) = some g) ∧
    (g.fn = namedOf c) ∧
    (g.mode = .ready) ∧
    (seqEnded g (BitVec.ofNat 32 (param c 4 4)) = false) :=
  ⟨(tCmd 0 3), (tColl (tGroup .ready)), consumeSlot (tCmd 0 3) (tColl (tGroup .ready)), tGroup .ready,
    tTakes (by decide +kernel), by decide +kernel⟩

/-! PoolCommandsComplete -/

theorem witness_PoolCommandsComplete_0 : ∃ (c : Cmd) (s : State) (t : State),
    (accepts specPoolCreate c s t) ∧
    (poolGet t (param c 0 1) = none) ∧
    (geometryOk (poolOfCmd c) = true) ∧
    (keyCheck t (poolOfCmd c).fn (poolOfCmd c).key rightLocalRead (poolOfCmd c).dva (poolBytes (poolOfCmd c)) = none) ∧
    (keyCheck t (poolOfCmd c).fn (poolOfCmd c).key rightLocalWrite (poolOfCmd c).dva (poolBytes (poolOfCmd c)) = none) :=
  ⟨(tCmd 0 1329227995786125093873584196379214081), tBig, consumeSlot (tCmd 0 1329227995786125093873584196379214081) tBig,
    tTakes (by decide +kernel), by decide +kernel⟩

theorem witness_PoolCommandsComplete_1 : ∃ (c : Cmd) (s : State) (t : State) (p : Pool),
    (accepts specPoolDestroy c s t) ∧
    (poolGet t (param c 0 1) = some p) ∧
    (p.fn = namedOf c) ∧
    (p.ending = false) :=
  ⟨(tCmd 0 1), tPools, consumeSlot (tCmd 0 1) tPools, tPool,
    tTakes (by decide +kernel), by decide +kernel⟩

theorem witness_PoolCommandsComplete_2 : ∃ (pool : Nat) (p : Pool) (s : State),
    (lit s = true) ∧
    (poolGet s pool = some p) ∧
    (p.ending = true) ∧
    ((openRequests s pool).isEmpty = true) :=
  ⟨1, { tPool with ending := true }, { tPools with cache := { freshCache with pools := [(1, { tPool with ending := true })] } },
    by decide +kernel⟩

theorem witness_PoolCommandsComplete_3 : ∃ (c : Cmd) (s : State) (t : State) (p : Pool),
    (accepts specPoolQuery c s t) ∧
    (poolGet t (param c 0 1) = some p) ∧
    (p.fn = namedOf c) :=
  ⟨(tCmd 0 1), tPools, consumeSlot (tCmd 0 1) tPools, tPool,
    tTakes (by decide +kernel), by decide +kernel⟩

theorem witness_PoolCommandsComplete_4 : ∃ (c : Cmd) (s : State) (t : State) (p : Pool),
    (accepts specSeal c s t) ∧
    (poolGet t (param c 0 1) = some p) ∧
    (p.fn = namedOf c) ∧
    (1 ≤ param c 2 1) ∧
    (param c 1 1 + param c 2 1 ≤ p.layers) ∧
    (param c 4 2 < p.maxUsers) ∧
    (param c 8 4 ≤ 64 * p.maxBlocks) :=
  ⟨(tCmd 0 18889465931478580920321), tPools, consumeSlot (tCmd 0 18889465931478580920321) tPools, tPool,
    tTakes (by decide +kernel), by decide +kernel⟩

theorem witness_PoolCommandsComplete_5 : ∃ (pool : Nat) (user : Nat) (first : Nat) (count : Nat) (blocks : Nat) (x : Pending) (p : Pool) (r : State × Nat × Bool) (s : State),
    (r = ((List.range count).map fun i => first + i).foldl (fun acc l => if acc.2.2 then sealUpTo (p.maxBlocks + 1) pool p user l blocks acc.1 acc.2.1 else acc) (s, 0, true)) ∧
    (lit s = true) ∧
    (s.commands.find? (fun y => (sealJob pool user y.what).isSome) = some x) ∧
    (sealJob pool user x.what = some (first, count, blocks)) ∧
    (poolGet s pool = some p) :=
  ⟨1, 0, 0, 1, 0, tPend (.kvSeal 1 0 0 1 0 0), tPool, _, { tPools with commands := [tPend (.kvSeal 1 0 0 1 0 0)] },
    rfl, by decide +kernel⟩

theorem witness_PoolCommandsComplete_6 : ∃ (c : Cmd) (s : State) (t : State) (p : Pool) (u : State),
    (u = (List.range p.layers).foldl (fun v l => if (poolMiss v p (metaAt p (param c 2 2)) 4).isNone then poolWrite p (metaAt p (param c 2 2) + 4 * l) (leBytes 4 0) v else v) t) ∧
    (accepts specUserReset c s t) ∧
    (poolGet t (param c 0 1) = some p) ∧
    (p.fn = namedOf c) ∧
    (param c 2 2 < p.maxUsers) ∧
    ((t.cache.pins.any fun x => x.pool == param c 0 1 && x.user == param c 2 2) = false) ∧
    (userOpen t (param c 0 1) (param c 2 2) false = false) :=
  ⟨(tCmd 0 1), tPools, consumeSlot (tCmd 0 1) tPools, tPool, _,
    rfl, tTakes (by decide +kernel), by decide +kernel⟩

theorem witness_PoolCommandsComplete_7 : ∃ (c : Cmd) (s : State) (t : State) (p : Pool),
    (accepts specUserPin c s t) ∧
    (poolGet t (param c 0 1) = some p) ∧
    (p.fn = namedOf c) ∧
    (param c 2 2 < p.maxUsers) ∧
    ((t.cache.pins.any fun x => x.pool == param c 0 1 && x.user == param c 2 2) = false) ∧
    (pinsTake t pinSummary + pinSummary p ≤ residency t) ∧
    (pinsTake t pinPages + pinPages p ≤ 1048576) :=
  ⟨(tCmd 0 1), tPools, consumeSlot (tCmd 0 1) tPools, tPool,
    tTakes (by decide +kernel), by decide +kernel⟩

theorem witness_PoolCommandsComplete_8 : ∃ (pool : Nat) (user : Nat) (p : Pool) (s : State),
    (lit s = true) ∧
    (poolGet s pool = some p) ∧
    ((s.cache.pins.any fun x => x.pool == pool && x.user == user && !x.ready) = true) :=
  ⟨1, 0, tPool, { tPools with cache := { freshCache with pools := [(1, tPool)], pins := [tPin false false] } },
    by decide +kernel⟩

theorem witness_PoolCommandsComplete_9 : ∃ (c : Cmd) (s : State) (t : State) (p : Pool),
    (accepts specUserUnpin c s t) ∧
    (poolGet t (param c 0 1) = some p) ∧
    (p.fn = namedOf c) ∧
    (param c 2 2 < p.maxUsers) ∧
    ((t.cache.pins.any fun x => x.pool == param c 0 1 && x.user == param c 2 2 && x.ready && !x.ending) = true) :=
  ⟨(tCmd 0 1), ({ tPools with cache := { freshCache with pools := [(1, tPool)], pins := [tPin true false] } }), consumeSlot (tCmd 0 1) ({ tPools with cache := { freshCache with pools := [(1, tPool)], pins := [tPin true false] } }), tPool,
    tTakes (by decide +kernel), by decide +kernel⟩

theorem witness_PoolCommandsComplete_10 : ∃ (pool : Nat) (user : Nat) (s : State),
    (lit s = true) ∧
    (userOpen s pool user true = false) :=
  ⟨1, 0, { tPools with cache := { freshCache with pools := [(1, tPool)], pins := [tPin true true] } },
    by decide +kernel⟩

theorem witness_PoolCommandsComplete_11 : ∃ (c : Cmd) (s : State) (t : State) (x : FabPort) (y : FabPort),
    (accepts specPartner c s t) ∧
    (portGet t (param c 0 1) = some x) ∧
    (portGet t (param c 1 1) = some y) ∧
    (param c 0 1 ≠ param c 1 1) ∧
    (x.role = .spur) ∧
    (y.role = .spur) ∧
    (x.active = true) ∧
    (y.active = true) ∧
    (x.partnerDev = y.partnerDev) ∧
    (param c 2 1 < 2) ∧
    (admittedEndpoint t (param c 0 1) = false) ∧
    (admittedEndpoint t (param c 1 1) = false) :=
  ⟨(tCmd 0 66049), tFab, consumeSlot (tCmd 0 66049) tFab, tSpur, tSpur,
    tTakes (by decide +kernel), by decide +kernel⟩

/-! PowerCommandsComplete -/

theorem witness_PowerCommandsComplete_0 : ∃ (c : Cmd) (s : State) (t : State) (ms : Nat),
    (accepts specPwrGrant c s t) ∧
    (300 ≤ param c 0 2 ∧ param c 0 2 ≤ 800) ∧
    (ms = (if param c 2 2 = 0 then 30 else param c 2 2)) ∧
    (10 ≤ ms ∧ ms ≤ 1000) ∧
    (grantFollows (BitVec.ofNat 32 (param c 4 4)) t.power.grantSeq = true) :=
  ⟨(tCmd 0 4294968096), tRings, consumeSlot (tCmd 0 4294968096) tRings, 30,
    tTakes (by decide +kernel), by decide +kernel⟩

theorem witness_PowerCommandsComplete_1 : ∃ (c : Cmd) (s : State) (t : State),
    (accepts specPwrFallback c s t) ∧
    (300 ≤ param c 0 2 ∧ param c 0 2 ≤ 760) :=
  ⟨(tCmd 0 760), tRings, consumeSlot (tCmd 0 760) tRings,
    tTakes (by decide +kernel), by decide +kernel⟩

theorem witness_PowerCommandsComplete_2 : ∃ (c : Cmd) (s : State) (t : State),
    (accepts specPwrQuery c s t) ∧
    (isHelm c = true ∨ param c 0 8 % 64 = 0 ∧ 256 ≤ param c 8 4) :=
  ⟨(tCmd 0 4722366482869645213696), tRings, consumeSlot (tCmd 0 4722366482869645213696) tRings,
    tTakes (by decide +kernel), by decide +kernel⟩

theorem witness_PowerCommandsComplete_3 : ∃ (c : Cmd) (s : State) (t : State),
    (accepts specPwrLearn c s t) ∧
    (param c 0 1 ≤ 2) :=
  ⟨(tCmd 0 2), tRings, consumeSlot (tCmd 0 2) tRings,
    tTakes (by decide +kernel), by decide +kernel⟩

/-! SecurityCommandsComplete -/

theorem witness_SecurityCommandsComplete_0 : ∃ (c : Cmd) (s : State) (t : State),
    (accepts specSecIdentity c s t) ∧
    (isHelm c = true ∨ 3200 ≤ param c 8 4) :=
  ⟨(tCmd 0 59029581035870565171200), tSec, consumeSlot (tCmd 0 59029581035870565171200) tSec,
    tTakes (by decide +kernel), by decide +kernel⟩

theorem witness_SecurityCommandsComplete_1 : ∃ (c : Cmd) (s : State) (t : State),
    (accepts specSecAttest c s t) ∧
    (t.sec.errorState = false) ∧
    (1536 ≤ param c 8 4) :=
  ⟨(tCmd 0 28334198897217871282176), tSec, consumeSlot (tCmd 0 28334198897217871282176) tSec,
    tTakes (by decide +kernel), by decide +kernel⟩

theorem witness_SecurityCommandsComplete_2 : ∃ (c : Cmd) (s : State) (t : State) (q : Nat × State) (blob : Nat),
    (q = drbgDraw (drbgDraw t).2) ∧
    (blob = blobBits q.1 t.sec.nextOffer t.dev.now 0 (Config.kemKey (drbgDraw t).1)) ∧
    (accepts specSecKemOffer c s t) ∧
    (t.sec.errorState = false) ∧
    (6112 ≤ param c 8 4) ∧
    (openOffers t < 16) :=
  ⟨(tCmd 0 112746499778512779476992), tSec, consumeSlot (tCmd 0 112746499778512779476992) tSec, _, _,
    rfl, rfl, tTakes (by decide +kernel), by decide +kernel⟩

theorem witness_SecurityCommandsComplete_3 : ∃ (c : Cmd) (s : State) (t : State) (blob : List Byte) (r : Nat × State) (q : Nat × State) (a : Nat × State),
    (blob = paramBytes c 16 6112) ∧
    (r = drbgDraw t) ∧
    (q = drbgDraw r.2) ∧
    (a = newAccord (namedOf c) (blobSerial blob) (Config.kemSecret (blobKem blob) r.1) q.2) ∧
    (accepts specSecKemAccept c s t) ∧
    (t.sec.errorState = false) ∧
    (c.indirect = true) ∧
    (6128 ≤ c.length.toNat) ∧
    (6112 ≤ param c 8 4) ∧
    (t.sec.accords.length < 4096) :=
  ⟨(tInd 6128 [0, 0, 0, 0, 0, 0, 0, 0, 0xE0, 0x17]), tSec, consumeSlot (tInd 6128 [0, 0, 0, 0, 0, 0, 0, 0, 0xE0, 0x17]) tSec, _, _, _, _,
    rfl, rfl, rfl, rfl, tTakes (by decide +kernel), by decide +kernel⟩

theorem witness_SecurityCommandsComplete_4 : ∃ (c : Cmd) (s : State) (t : State) (blob : List Byte) (o : Offer) (a : Nat × State),
    (blob = paramBytes c 16 6112) ∧
    (a = newAccord (namedOf c) (blobSerial blob) (Config.kemOpen o.draw (blobKem blob)) (secMod (fun x => { x with offers := tabErase x.offers (param c 0 8) }) t)) ∧
    (accepts specSecKemFinish c s t) ∧
    (t.sec.errorState = false) ∧
    (c.indirect = true) ∧
    (6128 ≤ c.length.toNat) ∧
    (tabGet t.sec.offers (param c 0 8) = some o) ∧
    (t.dev.now < o.openedAt + 60000000000) ∧
    (t.sec.accords.length < 4096) :=
  ⟨(tInd 6128 []), ({ tSec with sec := { tSec.sec with offers := [(0, { openedAt := 428000000, draw := 0, digest := 0 })] } }), consumeSlot (tInd 6128 []) ({ tSec with sec := { tSec.sec with offers := [(0, { openedAt := 428000000, draw := 0, digest := 0 })] } }), _, { openedAt := 428000000, draw := 0, digest := 0 }, _,
    rfl, rfl, tTakes (by decide +kernel), by decide +kernel⟩

theorem witness_SecurityCommandsComplete_5 : ∃ (c : Cmd) (s : State) (t : State),
    (accepts specSecAccordDrop c s t) ∧
    (t.sec.errorState = false) ∧
    (ownAccord t (namedOf c) (param c 0 2) = true) ∧
    (accordInUse t (param c 0 2) = false) :=
  ⟨(tCmd 0 0), tSec, consumeSlot (tCmd 0 0) tSec,
    tTakes (by decide +kernel), by decide +kernel⟩

theorem witness_SecurityCommandsComplete_6 : ∃ (c : Cmd) (s : State) (t : State),
    (accepts specSecOfficer c s t) ∧
    (t.sec.errorState = false) ∧
    (c.indirect = true) ∧
    (1793 ≤ c.length.toNat) ∧
    (t.sec.officer = none) :=
  ⟨(tInd 1793 []), ({ tSec with sec := { tSec.sec with officer := none } }), consumeSlot (tInd 1793 []) ({ tSec with sec := { tSec.sec with officer := none } }),
    tTakes (by decide +kernel), by decide +kernel⟩

theorem witness_SecurityCommandsComplete_7 : ∃ (c : Cmd) (s : State) (t : State) (r : Nat × State) (q : Nat × State),
    (r = drbgDraw t) ∧
    (q = drbgDraw r.2) ∧
    (accepts specSecLogin c s t) ∧
    (t.sec.errorState = false) ∧
    (param c 0 1 = 0) :=
  ⟨(tCmd 0 0), tSec, consumeSlot (tCmd 0 0) tSec, _, _,
    rfl, rfl, tTakes (by decide +kernel), by decide +kernel⟩

theorem witness_SecurityCommandsComplete_8 : ∃ (c : Cmd) (s : State) (t : State) (key : List Byte) (a : W64) (b : W64),
    (accepts specSecLogin c s t) ∧
    (t.sec.errorState = false) ∧
    (param c 0 1 = 1) ∧
    (c.indirect = true) ∧
    (1296 ≤ c.length.toNat) ∧
    (t.sec.officer = some key) ∧
    (t.sec.challenge = some (a, b)) :=
  ⟨(tInd 1296 [1]), ({ tSec with sec := { tSec.sec with challenge := some (0, 0) } }), consumeSlot (tInd 1296 [1]) ({ tSec with sec := { tSec.sec with challenge := some (0, 0) } }), [], 0, 0,
    tTakes (by decide +kernel), by decide +kernel⟩

/-! SealingAndFirmwareCommandsComplete -/

theorem witness_SealingAndFirmwareCommandsComplete_0 : ∃ (c : Cmd) (s : State) (t : State) (q : Qp),
    (accepts specSecQpSeal c s t) ∧
    (t.sec.errorState = false) ∧
    (usableQp t (namedOf c) (param c 0 4) = some q) ∧
    (ownAccord t (namedOf c) (param c 4 2) = true) ∧
    (q.conf.mode ≠ .roce) ∧
    (param c 6 1 ≤ 20) ∧
    (q.conf.mtuLog2 ≤ param c 6 1) ∧
    (q.phase = .created) ∧
    (q.sealing = none) :=
  ⟨(tCmd 0 5629499534213126), ({ tSec with qps := [(6, tNewQp)] }), consumeSlot (tCmd 0 5629499534213126) ({ tSec with qps := [(6, tNewQp)] }), tNewQp,
    tTakes (by decide +kernel), by decide +kernel⟩

theorem witness_SealingAndFirmwareCommandsComplete_1 : ∃ (c : Cmd) (s : State) (t : State) (q : Qp) (z : QpSeal),
    (accepts specSecQpRekey c s t) ∧
    (t.sec.errorState = false) ∧
    (usableQp t (namedOf c) (param c 0 4) = some q) ∧
    (q.sealing = some z) ∧
    (param c 4 1 = 0) ∧
    (rekeyOpen z = false) :=
  ⟨(tCmd 0 36893488147419103237), (tSealed tSeal), consumeSlot (tCmd 0 36893488147419103237) (tSealed tSeal), { tQp with sealing := some (tSeal) }, tSeal,
    tTakes (by decide +kernel), by decide +kernel⟩

theorem witness_SealingAndFirmwareCommandsComplete_2 : ∃ (c : Cmd) (s : State) (t : State) (q : Qp) (z : QpSeal) (l : W32),
    (accepts specSecQpRekey c s t) ∧
    (t.sec.errorState = false) ∧
    (usableQp t (namedOf c) (param c 0 4) = some q) ∧
    (q.sealing = some z) ∧
    (param c 4 1 = 1) ∧
    (z.pendingSend = some l) :=
  ⟨(tCmd 0 4294967301), (tSealed ({ tSeal with pendingSend := some 2 })), consumeSlot (tCmd 0 4294967301) (tSealed ({ tSeal with pendingSend := some 2 })), { tQp with sealing := some ({ tSeal with pendingSend := some 2 }) }, { tSeal with pendingSend := some 2 }, 2,
    tTakes (by decide +kernel), by decide +kernel⟩

theorem witness_SealingAndFirmwareCommandsComplete_3 : ∃ (c : Cmd) (s : State) (t : State) (q : Qp) (z : QpSeal),
    (accepts specSecQpQuery c s t) ∧
    (t.sec.errorState = false) ∧
    (usableQp t (namedOf c) (param c 0 4) = some q) ∧
    (q.sealing = some z) :=
  ⟨(tCmd 0 5), (tSealed tSeal), consumeSlot (tCmd 0 5) (tSealed tSeal), { tQp with sealing := some (tSeal) }, tSeal,
    tTakes (by decide +kernel), by decide +kernel⟩

theorem witness_SealingAndFirmwareCommandsComplete_4 : ∃ (c : Cmd) (s : State) (t : State),
    (accepts specSecFwBegin c s t) ∧
    (t.sec.errorState = false) ∧
    (4096 ≤ param c 0 4 ∧ param c 0 4 ≤ 16777216) :=
  ⟨(tCmd 0 16777216), tSec, consumeSlot (tCmd 0 16777216) tSec,
    tTakes (by decide +kernel), by decide +kernel⟩

theorem witness_SealingAndFirmwareCommandsComplete_5 : ∃ (c : Cmd) (s : State) (t : State) (size : Nat) (got : List Byte),
    (accepts specSecFwChunk c s t) ∧
    (t.sec.errorState = false) ∧
    (t.sec.staging = some (size, got)) ∧
    (1 ≤ param c 4 2) ∧
    (param c 4 2 ≤ (if c.indirect then 65472 else 32)) ∧
    (param c 0 4 = got.length) ∧
    (got.length + param c 4 2 ≤ size) :=
  ⟨(tCmd 0 137438953472), ({ tSec with sec := { tSec.sec with staging := some (4096, []) } }), consumeSlot (tCmd 0 137438953472) ({ tSec with sec := { tSec.sec with staging := some (4096, []) } }), 4096, [],
    tTakes (by decide +kernel), by decide +kernel⟩

theorem witness_SealingAndFirmwareCommandsComplete_6 : ∃ (c : Cmd) (s : State) (t : State),
    (accepts specSecFwCommit c s t) ∧
    (t.sec.errorState = false) ∧
    (t.sec.staging.isSome = true) ∧
    ((t.commands.any fun p => p.what == .fwCommit) = false) :=
  ⟨(tCmd 0 0), ({ tSec with sec := { tSec.sec with staging := some (4096, []) } }), consumeSlot (tCmd 0 0) ({ tSec with sec := { tSec.sec with staging := some (4096, []) } }),
    tTakes (by decide +kernel), by decide +kernel⟩

theorem witness_SealingAndFirmwareCommandsComplete_7 : ∃ (size : Nat) (got : List Byte) (s : State),
    (lit s = true ∨ s.dev.life = .romRecovery) ∧
    ((s.commands.any fun p => p.what == .fwCommit) = true) ∧
    (s.sec.staging = some (size, got)) :=
  ⟨4096, [], { tSec with sec := { tSec.sec with staging := some (4096, []) } , commands := [tPend .fwCommit] },
    by decide +kernel⟩

theorem witness_SealingAndFirmwareCommandsComplete_8 : ∃ (c : Cmd) (s : State) (t : State),
    (accepts specSecSelftest c s t) :=
  ⟨(tCmd 0 0), tSec, consumeSlot (tCmd 0 0) tSec,
    tTakes (by decide +kernel)⟩

theorem witness_SealingAndFirmwareCommandsComplete_9 : ∃ (failing : W64) (s : State),
    (lit s = true) ∧
    ((s.commands.any fun p => p.what == .selftest) = true) :=
  ⟨0, { tSec with commands := [tPend .selftest] },
    by decide +kernel⟩

theorem witness_SealingAndFirmwareCommandsComplete_10 : ∃ (c : Cmd) (s : State) (t : State),
    (accepts specSecZeroize c s t) :=
  ⟨(tCmd 0 0), tSec, consumeSlot (tCmd 0 0) tSec,
    tTakes (by decide +kernel)⟩

theorem witness_SealingAndFirmwareCommandsComplete_11 : ∃ (s : State),
    (lit s = true) ∧
    ((s.commands.any fun p => p.what == .zeroize) = true) :=
  ⟨{ tSec with commands := [tPend .zeroize] },
    by decide +kernel⟩

/-! FabricCommandsComplete -/

theorem witness_FabricCommandsComplete_0 : ∃ (c : Cmd) (s : State) (t : State),
    (accepts specFabIdent c s t) ∧
    (param c 0 2 < 4096) ∧
    ((trainedRing t).isEmpty = true) :=
  ⟨(tCmd 0 4095), tFab, consumeSlot (tCmd 0 4095) tFab,
    tTakes (by decide +kernel), by decide +kernel⟩

theorem witness_FabricCommandsComplete_1 : ∃ (c : Cmd) (s : State) (t : State) (old : FabPort) (x : FabPort) (u : State),
    (old = (portGet t (param c 0 1)).getD (newPort .disabled)) ∧
    (u = (if roleOf (param c 1 1) = old.role then t else portDown (param c 0 1) t)) ∧
    (x = (portGet u (param c 0 1)).getD (newPort (roleOf (param c 1 1)))) ∧
    (accepts specFabPortSet c s t) ∧
    (portSetFault c t = none) :=
  ⟨(tCmd 0 42949672960271), tFab, consumeSlot (tCmd 0 42949672960271) tFab, _, _, _,
    rfl, rfl, rfl, tTakes (by decide +kernel), by decide +kernel⟩

theorem witness_FabricCommandsComplete_2 : ∃ (c : Cmd) (s : State) (t : State) (x : FabPort),
    (x = (portGet t (param c 0 1)).getD (newPort .disabled)) ∧
    (accepts specFabPortQuery c s t) ∧
    (param c 0 1 < 16) :=
  ⟨(tCmd 0 15), tFab, consumeSlot (tCmd 0 15) tFab, _,
    rfl, tTakes (by decide +kernel), by decide +kernel⟩

theorem witness_FabricCommandsComplete_3 : ∃ (c : Cmd) (s : State) (t : State) (r : RingInfo),
    (r = ringInfo t (param c 0 1)) ∧
    (accepts specFabRingQuery c s t) ∧
    (param c 0 1 < 2) :=
  ⟨(tCmd 0 1), tFab, consumeSlot (tCmd 0 1) tFab, _,
    rfl, tTakes (by decide +kernel), by decide +kernel⟩

theorem witness_FabricCommandsComplete_4 : ∃ (c : Cmd) (s : State) (t : State) (new : ReqStream) (x : FabPort),
    ((streamGet t (param c 0 1) (param c 1 1) = none ∨ ∃ q, streamGet t (param c 0 1) (param c 1 1) = some q ∧ q.unconsumed = [])) ∧
    (new = (match streamGet t (param c 0 1) (param c 1 1) with | some q => { newStream (namedOf c) (param c 2 1) (param c 3 1 == 1) with outstanding := q.outstanding } | none => newStream (namedOf c) (param c 2 1) (param c 3 1 == 1))) ∧
    (x = (portGet t (param c 0 1)).getD (newPort .disabled)) ∧
    (accepts specSpurStream c s t) ∧
    (param c 0 1 < 16) ∧
    (param c 1 1 < 64) ∧
    (4 ≤ param c 2 1 ∧ param c 2 1 ≤ 16) ∧
    (param c 3 1 ≤ 1) :=
  ⟨(tCmd 0 17841935), tFab, consumeSlot (tCmd 0 17841935) tFab, _, _,
    Or.inl (by decide +kernel), rfl, rfl, tTakes (by decide +kernel), by decide +kernel⟩

theorem witness_FabricCommandsComplete_5 : ∃ (c : Cmd) (s : State) (t : State),
    (accepts specRouteWrite c s t) ∧
    (param c 0 1 ≤ 1) ∧
    ((bearingGet t (param c 0 1 == 1)).mode = .idle) ∧
    (c.indirect = true) ∧
    (1 ≤ param c 4 2) ∧
    (param c 2 2 + param c 4 2 ≤ 4096) ∧
    (64 + 2 * param c 4 2 ≤ c.length.toNat) :=
  ⟨(tInd 66 [0, 0, 0xFF, 0x0F, 1]), tFab, consumeSlot (tInd 66 [0, 0, 0xFF, 0x0F, 1]) tFab,
    tTakes (by decide +kernel), by decide +kernel⟩

theorem witness_FabricCommandsComplete_6 : ∃ (c : Cmd) (s : State) (t : State),
    (accepts specRouteArm c s t) ∧
    (param c 0 1 ≤ 1) ∧
    ((bearingGet t (param c 0 1 == 1)).mode = .idle) ∧
    (1 ≤ param c 4 4) ∧
    (param c 4 4 < 2 ^ 24) ∧
    (param c 8 1 < 16) ∧
    (param c 9 1 < 16) ∧
    (param c 10 1 < 4) ∧
    (armOk t (bearingGet t (param c 0 1 == 1)) (param c 8 1) (param c 9 1) = true) :=
  ⟨(tCmd 0 3697889729305627588558849), ({ tFab with fabric := { tFab.fabric with bearingB := { freshBearing with entries := [(0, 0x80AA)] } } }), consumeSlot (tCmd 0 3697889729305627588558849) ({ tFab with fabric := { tFab.fabric with bearingB := { freshBearing with entries := [(0, 0x80AA)] } } }),
    tTakes (by decide +kernel), by decide +kernel⟩

theorem witness_FabricCommandsComplete_7 : ∃ (c : Cmd) (s : State) (t : State),
    (accepts specRouteDisarm c s t) ∧
    (param c 0 1 ≤ 1) ∧
    ((bearingGet t (param c 0 1 == 1)).mode = .armed) :=
  ⟨(tCmd 0 0), ({ tFab with fabric := { tFab.fabric with bearingA := { freshBearing with mode := .armed, generation := 1 } } }), consumeSlot (tCmd 0 0) ({ tFab with fabric := { tFab.fabric with bearingA := { freshBearing with mode := .armed, generation := 1 } } }),
    tTakes (by decide +kernel), by decide +kernel⟩

theorem witness_FabricCommandsComplete_8 : ∃ (c : Cmd) (s : State) (t : State) (b : Bool),
    (accepts specRouteCommit c s t) ∧
    (armedWith t (param c 0 4) = some b) ∧
    (((flipBearing b t).fabric.flood.any fun w => w.flit.type == 0x01 && w.flit.chunkSeq.toNat == param c 0 4) = false) :=
  ⟨(tCmd 0 1), (tArmed tFab), consumeSlot (tCmd 0 1) (tArmed tFab), false,
    tTakes (by decide +kernel), by decide +kernel⟩

theorem witness_FabricCommandsComplete_9 : ∃ (c : Cmd) (s : State) (t : State) (b : Bool),
    (accepts specRouteCommit c s t) ∧
    (armedWith t (param c 0 4) = some b) ∧
    (((flipBearing b t).fabric.flood.any fun w => w.flit.type == 0x01 && w.flit.chunkSeq.toNat == param c 0 4) = true) :=
  ⟨(tCmd 0 1), tCircling, consumeSlot (tCmd 0 1) tCircling, false,
    tTakes (by decide +kernel), by decide +kernel⟩

theorem witness_FabricCommandsComplete_10 : ∃ (c : Cmd) (s : State) (t : State),
    (accepts specRouteQuery c s t) :=
  ⟨(tCmd 0 0), tFab, consumeSlot (tCmd 0 0) tFab,
    tTakes (by decide +kernel)⟩

theorem witness_FabricCommandsComplete_11 : ∃ (c : Cmd) (s : State) (t : State),
    (accepts specRouteDrain c s t) ∧
    (max (4 * lapTenths t 0) (4 * lapTenths t 1) ≤ 10000 * param c 0 4) ∧
    (param c 0 4 ≤ 1000000) :=
  ⟨(tCmd 0 1000000), tFab, consumeSlot (tCmd 0 1000000) tFab,
    tTakes (by decide +kernel), by decide +kernel⟩

/-! DiagnosticCommandsComplete -/

theorem witness_DiagnosticCommandsComplete_0 : ∃ (c : Cmd) (s : State) (t : State) (l : List ResultRec),
    (l = t.start.log.take (param c 8 4 / 32)) ∧
    (accepts specDiagResults c s t) ∧
    (param c 0 8 % 64 = 0) :=
  ⟨(tCmd 0 590295810358705651712), tFab, consumeSlot (tCmd 0 590295810358705651712) tFab, _,
    rfl, tTakes (by decide +kernel), by decide +kernel⟩

theorem witness_DiagnosticCommandsComplete_1 : ∃ (c : Cmd) (s : State) (t : State),
    (accepts specDiagSelftest c s t) ∧
    ((t.fns.all fun p => p.2.mode == .stopped || p.2.mode == .disabled) = true) :=
  ⟨(tCmd 0 0), tS, consumeSlot (tCmd 0 0) tS,
    tTakes (by decide +kernel), by decide +kernel⟩

theorem witness_DiagnosticCommandsComplete_2 : ∃ (c : Cmd) (s : State) (t : State),
    (accepts specDiagInventory c s t) :=
  ⟨(tCmd 0 0), tFab, consumeSlot (tCmd 0 0) tFab,
    tTakes (by decide +kernel)⟩

theorem witness_DiagnosticCommandsComplete_3 : ∃ (c : Cmd) (s : State) (t : State),
    (accepts specDiagLoopback c s t) ∧
    (param c 0 1 ≤ 1) ∧
    (param c 1 1 < (if param c 0 1 = 0 then 4 else 16)) ∧
    (param c 2 1 ≤ 2) ∧
    (1 ≤ param c 4 4) ∧
    (param c 4 4 ≤ 10000) ∧
    (outOfService t (param c 0 1) (param c 1 1) = true) :=
  ⟨(tCmd 0 42949673094913), tFab, consumeSlot (tCmd 0 42949673094913) tFab,
    tTakes (by decide +kernel), by decide +kernel⟩

theorem witness_DiagnosticCommandsComplete_4 : ∃ (bits_ : W64) (worst : W64) (lane : W8) (p : Pending) (kind : Nat) (port : Nat) (mode : Nat) (ends : Nat) (s : State),
    (lit s = true) ∧
    (s.commands.find? (loopEndsFirst s) = some p) ∧
    (p.what = .loopback kind port mode ends) :=
  ⟨0, 0, 0, tPend (.loopback 1 15 2 428100000), 1, 15, 2, 428100000, { tFab with commands := [tPend (.loopback 1 15 2 428100000)] },
    by decide +kernel⟩

theorem witness_DiagnosticCommandsComplete_5 : ∃ (c : Cmd) (s : State) (t : State) (waiting : Nat) (entries : Nat),
    (waiting = (t.faults.store.filter fun r => r.function == namedOf c).length) ∧
    (entries = (t.faults.agg.filter fun a => a.fn == namedOf c && !a.closing).length) ∧
    (accepts specFaultQuery c s t) :=
  ⟨(tCmd 0 0), tFab, consumeSlot (tCmd 0 0) tFab, _, _,
    rfl, rfl, tTakes (by decide +kernel)⟩

theorem witness_DiagnosticCommandsComplete_6 : ∃ (c : Cmd) (s : State) (t : State),
    (accepts specFaultAck c s t) ∧
    (t.faults.unacked.contains (BitVec.ofNat 32 (param c 0 4), param c 4 1) = true) :=
  ⟨(tCmd 0 1), ({ tFab with faults := { freshFaults with unacked := [(1, 0)] } }), consumeSlot (tCmd 0 1) ({ tFab with faults := { freshFaults with unacked := [(1, 0)] } }),
    tTakes (by decide +kernel), by decide +kernel⟩

/-! DoorbellsComplete -/

theorem witness_DoorbellsComplete_0 : ∃ (fn : Nat) (value : W32) (u : Channel → Channel) (s : State),
    ((u = fun ch => { ch with replyVector := BitVec.ofNat 16 (bits value.toNat 16 11), enable := true })) ∧
    (bit value.toNat 0 = true) ∧
    (channelDown s fn = true) :=
  ⟨0, 1, _, State.reset,
    rfl, by decide +kernel⟩

theorem witness_DoorbellsComplete_1 : ∃ (fn : Nat) (value : W32) (s : State),
    (bit value.toNat 0 = false) :=
  ⟨0, 0, State.reset,
    by decide +kernel⟩

theorem witness_DoorbellsComplete_2 : ∃ (fn : Nat) (f : Function) (s : State),
    (fnGet s fn = some f) ∧
    (f.channel.disabling = true) ∧
    (owedTo s fn = 0) :=
  ⟨0, { freshFunction false with channel := { freshChannel with disabling := true } }, { State.reset with fns := [(0, { freshFunction false with channel := { freshChannel with disabling := true } })] },
    by decide +kernel⟩

theorem witness_DoorbellsComplete_3 : ∃ (fn : Nat) (slots : List SlotRead) (s : State),
    (pageOpen s fn = true) :=
  ⟨0, [], State.reset,
    by decide +kernel⟩

theorem witness_DoorbellsComplete_4 : ∃ (fn : Nat) (slots : List SlotRead) (head : W32) (s : State),
    (pageOpen s fn = true) ∧
    (dmaBarred (touchWatchdog fn (hearHost s)) fn = false) :=
  ⟨0, [], 0, State.reset,
    by decide +kernel⟩

theorem witness_DoorbellsComplete_5 : ∃ (fn : Nat) (value : W32) (slots : List SlotRead) (u : State) (f : Function) (s : State),
    (u = chanMod fn (fun ch => { ch with replyHead := BitVec.ofNat 16 (value.toNat % 2 ^ 32 % 65536) }) (hearHost s)) ∧
    (pageOpen s fn = true) ∧
    (fnGet u fn = some f) :=
  ⟨0, 0, [], _, freshFunction false, State.reset,
    rfl, by decide +kernel⟩

theorem witness_DoorbellsComplete_6 : ∃ (fn : Nat) (offset : Nat) (value : W64) (s : State),
    (fnEnabled s fn = true) ∧
    (pageOpen s fn = true) ∧
    (doorbellRing fn offset = none) ∧
    (offset % 4 = 0) :=
  ⟨0, 2044, 0, State.reset,
    by decide +kernel⟩

theorem witness_DoorbellsComplete_7 : ∃ (fn : Nat) (offset : Nat) (value : W64) (s : State),
    (fnEnabled s fn = true) ∧
    (pageOpen s fn = true) ∧
    (doorbellRing fn offset = none) ∧
    (offset % 8 = 0) :=
  ⟨0, 2040, 0, State.reset,
    by decide +kernel⟩

theorem witness_DoorbellsComplete_8 : ∃ (fn : Nat) (offset : Nat) (width : Nat) (ring : Nat) (value : W64) (s : State),
    (fnEnabled s fn = true) ∧
    (pageOpen s fn = true) ∧
    (doorbellRing fn offset = some ring) ∧
    (fnLevel1 s fn = false) :=
  ⟨0, 4096, 64, 0, 0, State.reset,
    by decide +kernel⟩

theorem witness_DoorbellsComplete_9 : ∃ (fn : Nat) (offset : Nat) (width : Nat) (s : State),
    (fnEnabled s fn = true) :=
  ⟨0, 4096, 32, State.reset,
    by decide +kernel⟩

theorem witness_DoorbellsComplete_10 : ∃ (fn : Nat) (offset : Nat) (width : Nat) (value : W64) (s : State),
    (fnEnabled s fn = true) :=
  ⟨0, 0, 32, 0, State.reset,
    by decide +kernel⟩

theorem witness_DoorbellsComplete_11 : ∃ (fn : Nat) (offset : Nat) (width : Nat) (s : State),
    (fnEnabled s fn = true) :=
  ⟨0, 0, 32, State.reset,
    by decide +kernel⟩

theorem witness_DoorbellsComplete_12 : ∃ (fn : Nat) (width : Nat) (reg : CfgReg) (f : Function) (s : State),
    (fnEnabled s fn = true) ∧
    (fnGet s fn = some f) :=
  ⟨0, 32, .linkWidth, freshFunction false, State.reset,
    by decide +kernel⟩

theorem witness_DoorbellsComplete_13 : ∃ (fn : Nat) (width : Nat) (reg : CfgReg) (value : W64) (s : State),
    (fnEnabled s fn = true) :=
  ⟨0, 32, .aspmL1, 1, State.reset,
    by decide +kernel⟩

theorem witness_DoorbellsComplete_14 : ∃ (fn : Nat) (island : Nat) (width : Nat) (value : Option W64) (s : State),
    (fnEnabled s fn = true) ∧
    (island < 18) ∧
    (bit s.clocks.stopped.toNat island = true) :=
  ⟨0, 17, 32, some 1, { State.reset with clocks := { freshClocks with stopped := 2 ^ 17 } },
    by decide +kernel⟩

theorem witness_DoorbellsComplete_15 : ∃ (fn : Nat) (offset : Nat) (ring : Nat) (width : Nat) (value : W64) (entries : List W512) (head : Option W32) (s : State),
    (lit s = true) ∧
    (doorbellRing fn offset = some ring) ∧
    (doorbellTaken (touchWatchdog fn (hearHost s)) fn ring width = true) ∧
    (fnLevel1 s fn = false) :=
  ⟨0, 4096, 0, 64, 0, [], none, tRings,
    by decide +kernel⟩

theorem witness_DoorbellsComplete_16 : ∃ (fn : Nat) (offset : Nat) (ring : Nat) (width : Nat) (value : W64) (entries : List W512) (head : Option W32) (r : SubRing) (rsvd : Nat) (reach : Nat) (s : State),
    (rsvd = (if width = 64 then value.toNat / 65536 else bits value.toNat 16 16)) ∧
    (reach = (bits value.toNat 0 16 + 65536 - (r.accepted + r.prefetched.length) % 65536) % 65536) ∧
    (lit s = true) ∧
    (doorbellRing fn offset = some ring) ∧
    (doorbellTaken (touchWatchdog fn (hearHost s)) fn ring width = true) ∧
    (fnLevel1 s fn = true) ∧
    (tabGet s.sqs (pairKey fn ring) = some r) ∧
    (¬(rsvd ≠ 0 ∨ 2 ^ r.log2 < reach)) :=
  ⟨0, 4096, 0, 32, 256, [], none, tSq, _, _, tOld,
    rfl, rfl, by decide +kernel⟩

theorem witness_DoorbellsComplete_17 : ∃ (fn : Nat) (offset : Nat) (ring : Nat) (width : Nat) (value : W64) (entries : List W512) (head : Option W32) (r : SubRing) (rsvd : Nat) (reach : Nat) (s : State),
    (rsvd = (if width = 64 then value.toNat / 65536 else bits value.toNat 16 16)) ∧
    (reach = (bits value.toNat 0 16 + 65536 - (r.accepted + r.prefetched.length) % 65536) % 65536) ∧
    (lit s = true) ∧
    (doorbellRing fn offset = some ring) ∧
    (doorbellTaken (touchWatchdog fn (hearHost s)) fn ring width = true) ∧
    (fnLevel1 s fn = true) ∧
    (tabGet s.sqs (pairKey fn ring) = some r) ∧
    (rsvd ≠ 0 ∨ 2 ^ r.log2 < reach) :=
  ⟨0, 4096, 0, 32, 257, [], none, tSq, _, _, tOld,
    rfl, rfl, by decide +kernel⟩

theorem witness_DoorbellsComplete_18 : ∃ (fn : Nat) (ring : Nat) (entries : List W512) (r : SubRing) (s : State),
    (lit s = true) ∧
    (tabGet s.sqs (pairKey fn ring) = some r) ∧
    (r.running = true) ∧
    (fnModeOf s fn = .running) ∧
    (fnLevel1 s fn = true ∨ r.rereads = 0 ∧ r.scanning = true) :=
  ⟨0, 0, [], { tSq with scanning := true }, { tRings with sqs := [(0, { tSq with scanning := true })] },
    by decide +kernel⟩

theorem witness_DoorbellsComplete_19 : ∃ (fn : Nat) (ring : Nat) (e : W512) (rest : List W512) (r : SubRing) (s : State),
    (lit s = true) ∧
    (tabGet s.sqs (pairKey fn ring) = some r) ∧
    (r.running = true) ∧
    (fnModeOf s fn = .running) ∧
    (fnLevel1 s fn = false) ∧
    (r.rereads ≠ 0) ∧
    (entryPhase e = scanPhase r) :=
  ⟨0, 0, BitVec.ofNat 512 (2 ^ 511), [], { tSq with scanning := true, rereads := 1 }, { tRings with sqs := [(0, { tSq with scanning := true, rereads := 1 })] },
    by decide +kernel⟩

theorem witness_DoorbellsComplete_20 : ∃ (fn : Nat) (ring : Nat) (e : W512) (rest : List W512) (r : SubRing) (s : State),
    (lit s = true) ∧
    (tabGet s.sqs (pairKey fn ring) = some r) ∧
    (r.running = true) ∧
    (fnModeOf s fn = .running) ∧
    (fnLevel1 s fn = false) ∧
    (r.rereads ≠ 0) ∧
    (entryPhase e ≠ scanPhase r) :=
  ⟨0, 0, 0, [], { tSq with rereads := 4 }, { tRings with sqs := [(0, { tSq with rereads := 4 })] },
    by decide +kernel⟩

theorem witness_DoorbellsComplete_21 : ∃ (fn : Nat) (ring : Nat) (x : SlotRead) (rest : List SlotRead) (f : Function) (s : State),
    (fnGet s fn = some f) ∧
    (f.channel.mode = .ready) ∧
    (f.channel.rereads ≠ 0) ∧
    (slotOwned f.channel x.slot = true) :=
  ⟨0, 0, { slot := BitVec.allOnes 512, buffer := none }, [], { freshFunction false with channel := { freshChannel with mode := .ready, ringSizes := 0x0808, rereads := 4 } }, tFn ({ freshFunction false with channel := { freshChannel with mode := .ready, ringSizes := 0x0808, rereads := 4 } }),
    by decide +kernel⟩

theorem witness_DoorbellsComplete_22 : ∃ (fn : Nat) (ring : Nat) (rec : Nat) (r : SubRing) (e : W512) (rest : List W512) (u : State) (s : State),
    (lit s = true) ∧
    (tabGet s.sqs (pairKey fn ring) = some r) ∧
    (r.prefetched = e :: rest) ∧
    (fnModeOf s fn = .running) ∧
    (r.running = true) ∧
    (ringBlocked s r fn = false) ∧
    (ringTurn s fn ring r = true) ∧
    (fnTurn s fn = true) ∧
    (journalEntry fn (.ring (pairKey fn ring)) r.accepted e s = some (rec, u)) := by
  obtain ⟨p, hp⟩ := Option.isSome_iff_exists.1 (show (journalEntry 0 (.ring (pairKey 0 0)) ({ tSq with prefetched := [tEntry 0 0] }).accepted (tEntry 0 0) ({ tRings with sqs := [(0, { tSq with prefetched := [tEntry 0 0] })] })).isSome = true by decide +kernel)
  exact ⟨0, 0, p.1, { tSq with prefetched := [tEntry 0 0] }, tEntry 0 0, [], p.2, { tRings with sqs := [(0, { tSq with prefetched := [tEntry 0 0] })] }, by decide +kernel, by decide +kernel, by decide +kernel, by decide +kernel, by decide +kernel, by decide +kernel, by decide +kernel, by decide +kernel, hp⟩

/-! WorkEntriesComplete -/

theorem witness_WorkEntriesComplete_0 : ∃ (rec : Nat) (w : Work) (s : State),
    (lit s = true) ∧
    (readyWork s rec .nop = some w) :=
  ⟨4, tWork 0 0, tWk 0 0,
    by decide +kernel⟩

theorem witness_WorkEntriesComplete_1 : ∃ (rec : Nat) (w : Work) (q : Qp) (m : TxMessage) (s : State),
    (lit s = true) ∧
    (readyWork s rec .write = some w) ∧
    (qpGet s (entryContext w.entry) = some q) ∧
    (mayStart s (entryContext w.entry) q .write rec w = true) ∧
    (hostBarred s w.fn .write w.entry = false) ∧
    (messageOf q rec = some m) ∧
    (keyAllows q m.phase (entryLength w.entry) = true) :=
  ⟨4, tWork 1 5, tBegin, tMsg false, tWk 1 5,
    by decide +kernel⟩

theorem witness_WorkEntriesComplete_2 : ∃ (rec : Nat) (w : Work) (q : Qp) (m : TxMessage) (s : State),
    (lit s = true) ∧
    (readyWork s rec .writeImm = some w) ∧
    (qpGet s (entryContext w.entry) = some q) ∧
    (mayStart s (entryContext w.entry) q .writeImm rec w = true) ∧
    (hostBarred s w.fn .writeImm w.entry = false) ∧
    (messageOf q rec = some m) ∧
    (keyAllows q m.phase (entryLength w.entry) = true) :=
  ⟨4, tWork 2 5, tBegin, tMsg false, tWk 2 5,
    by decide +kernel⟩

theorem witness_WorkEntriesComplete_3 : ∃ (rec : Nat) (w : Work) (q : Qp) (m : TxMessage) (s : State),
    (lit s = true) ∧
    (readyWork s rec .read = some w) ∧
    (qpGet s (entryContext w.entry) = some q) ∧
    (mayStart s (entryContext w.entry) q .read rec w = true) ∧
    (hostBarred s w.fn .read w.entry = false) ∧
    (messageOf q rec = some m) ∧
    (keyAllows q m.phase 0 = true) :=
  ⟨4, tWork 3 5, tBegin, tMsg false, tWk 3 5,
    by decide +kernel⟩

theorem witness_WorkEntriesComplete_4 : ∃ (rec : Nat) (w : Work) (q : Qp) (m : TxMessage) (s : State),
    (lit s = true) ∧
    (readyWork s rec .send = some w) ∧
    (qpGet s (entryContext w.entry) = some q) ∧
    (mayStart s (entryContext w.entry) q .send rec w = true) ∧
    (hostBarred s w.fn .send w.entry = false) ∧
    (messageOf q rec = some m) ∧
    (keyAllows q m.phase (entryLength w.entry) = true) :=
  ⟨4, tWork 4 5, tBegin, tMsg false, tWk 4 5,
    by decide +kernel⟩

theorem witness_WorkEntriesComplete_5 : ∃ (rec : Nat) (w : Work) (q : Qp) (m : TxMessage) (s : State),
    (lit s = true) ∧
    (readyWork s rec .fadd = some w) ∧
    (qpGet s (entryContext w.entry) = some q) ∧
    (mayStart s (entryContext w.entry) q .fadd rec w = true) ∧
    (hostBarred s w.fn .fadd w.entry = false) ∧
    (messageOf q rec = some m) ∧
    (keyAllows q m.phase 0 = true) :=
  ⟨4, tWork 6 5, tBegin, tMsg false, tWk 6 5,
    by decide +kernel⟩

theorem witness_WorkEntriesComplete_6 : ∃ (rec : Nat) (w : Work) (q : Qp) (m : TxMessage) (s : State),
    (lit s = true) ∧
    (readyWork s rec .cswap = some w) ∧
    (qpGet s (entryContext w.entry) = some q) ∧
    (mayStart s (entryContext w.entry) q .cswap rec w = true) ∧
    (hostBarred s w.fn .cswap w.entry = false) ∧
    (messageOf q rec = some m) ∧
    (keyAllows q m.phase 0 = true) :=
  ⟨4, tWork 7 5, tBegin, tMsg false, tWk 7 5,
    by decide +kernel⟩

theorem witness_WorkEntriesComplete_7 : ∃ (rec : Nat) (w : Work) (q : Qp) (m : TxMessage) (s : State),
    (lit s = true) ∧
    (readyWork s rec .flush = some w) ∧
    (qpGet s (entryContext w.entry) = some q) ∧
    (mayStart s (entryContext w.entry) q .flush rec w = true) ∧
    (hostBarred s w.fn .flush w.entry = false) ∧
    (messageOf q rec = some m) ∧
    (keyAllows q m.phase 0 = true) :=
  ⟨4, tWork 8 5, tBegin, tMsg false, tWk 8 5,
    by decide +kernel⟩

theorem witness_WorkEntriesComplete_8 : ∃ (rec : Nat) (w : Work) (q : Qp) (s : State),
    (lit s = true) ∧
    (readyWork s rec .fence = some w) ∧
    (qpGet s (entryContext w.entry) = some q) ∧
    (q.phase = .ready) ∧
    ((earlierOpen s (entryContext w.entry) w).isEmpty = true) :=
  ⟨4, tWork 9 5, tBegin, tWk 9 5,
    by decide +kernel⟩

theorem witness_WorkEntriesComplete_9 : ∃ (rec : Nat) (w : Work) (s : State),
    (lit s = true) ∧
    (readyWork s rec .recv = some w) ∧
    (((works s).any fun p => entryOp p.2.entry == 0x10 && recvToSrq p.2.entry == recvToSrq w.entry && entryContext p.2.entry == entryContext w.entry && !p.2.begun && p.2.state == .accepted && decide (p.2.order < w.order)) = false) ∧
    (recvToSrq w.entry = true) :=
  ⟨4, newWork 0 (.ring 0) 0 (BitVec.ofNat 512 (0x10 + 2 ^ 288)) State.reset, { tRings with journal := [(4, .work (newWork 0 (.ring 0) 0 (BitVec.ofNat 512 (0x10 + 2 ^ 288)) State.reset))] },
    by decide +kernel⟩

theorem witness_WorkEntriesComplete_10 : ∃ (rec : Nat) (w : Work) (s : State),
    (lit s = true) ∧
    (readyWork s rec .recv = some w) ∧
    (((works s).any fun p => entryOp p.2.entry == 0x10 && recvToSrq p.2.entry == recvToSrq w.entry && entryContext p.2.entry == entryContext w.entry && !p.2.begun && p.2.state == .accepted && decide (p.2.order < w.order)) = false) ∧
    (recvToSrq w.entry = false) :=
  ⟨4, tWork 0x10 5, tWk 0x10 5,
    by decide +kernel⟩

theorem witness_WorkEntriesComplete_11 : ∃ (rec : Nat) (w : Work) (g : CollGroup) (s : State),
    (lit s = true) ∧
    (readyWork s rec .coll = some w) ∧
    (((works s).any fun p => entryOp p.2.entry == 0x20 && entryContext p.2.entry == entryContext w.entry && !p.2.begun && p.2.state == .accepted && decide (p.2.order < w.order)) = false) ∧
    (groupGet s (entryContext w.entry) = some g) ∧
    (g.mode ≠ .broken) :=
  ⟨4, tWork 0x20 3, tGroup .ready, { tColl (tGroup .ready) with journal := [(4, .work (tWork 0x20 3))] },
    by decide +kernel⟩

theorem witness_WorkEntriesComplete_12 : ∃ (rec : Nat) (w : Work) (g : CollGroup) (s : State),
    (lit s = true) ∧
    (readyWork s rec .coll = some w) ∧
    (((works s).any fun p => entryOp p.2.entry == 0x20 && entryContext p.2.entry == entryContext w.entry && !p.2.begun && p.2.state == .accepted && decide (p.2.order < w.order)) = false) ∧
    (groupGet s (entryContext w.entry) = some g) ∧
    (g.mode = .broken) :=
  ⟨4, tWork 0x20 3, tGroup .broken, { tColl (tGroup .broken) with journal := [(4, .work (tWork 0x20 3))] },
    by decide +kernel⟩

theorem witness_WorkEntriesComplete_13 : ∃ (rec : Nat) (query : List Byte) (w : Work) (s : State),
    (lit s = true) ∧
    (readyWork s rec .attention = some w) ∧
    (((works s).any fun p => entryOp p.2.entry == 0x30 && entryContext p.2.entry == entryContext w.entry && !p.2.begun && p.2.state == .accepted && decide (p.2.order < w.order)) = false) :=
  ⟨4, [], tWork 0x30 1, tWk 0x30 1,
    by decide +kernel⟩

theorem witness_WorkEntriesComplete_14 : ∃ (rec : Nat) (fetched : List Byte) (w : Work) (s : State),
    (lit s = true) ∧
    (readyWork s rec .operator = some w) ∧
    (((works s).any fun p => entryOp p.2.entry == 0x31 && p.2.fn == w.fn && decide (p.2.order < w.order) && entryContext p.2.entry == entryContext w.entry && openWork s p.1) = false) ∧
    (isSuspended s (.oper w.fn (entryContext w.entry)) false = false) ∧
    (stalled s (.oper w.fn (entryContext w.entry)) = false) :=
  ⟨4, [], tWork 0x31 1, tWk 0x31 1,
    by decide +kernel⟩

theorem witness_WorkEntriesComplete_15 : ∃ (rec : Nat) (fetched : List Byte) (run : OpRun) (w : Work) (o : OpKind) (s : State),
    (lit s = true) ∧
    (opRunOf s rec = some run) ∧
    (workGet s rec = some w) ∧
    (opKindOf (bits w.entry.toNat 128 8) = some o) ∧
    (run.next < opTiles o (opDesc w.entry) run.rows) ∧
    (isSuspended s (.oper run.fn run.stream) false = false) ∧
    (stalled s (.oper run.fn run.stream) = false) :=
  ⟨4, [], tRun4, tGemm, .gemm, { tRings with journal := [(4, .work tGemm)], opers := [tRun4] },
    by decide +kernel⟩

/-! MissesAndWindowsComplete -/

theorem witness_MissesAndWindowsComplete_1 : ∃ (x : StreamId) (rest : List StreamId) (s : State),
    (lit s = true) ∧
    (s.missWait.find? (fun x => (slotFor { s with missSlots := s.missSlots.drop 1 } x).isSome) = some x) ∧
    (rest = dropFirst (· == x) s.missWait) :=
  ⟨.oper 0 1, [], { tRings with missWait := [.oper 0 1] },
    by decide +kernel⟩

theorem witness_MissesAndWindowsComplete_2 : ∃ (fn : Nat) (head : W32) (a : AddrSpace) (s : State),
    (lit s = true) ∧
    (tabGet s.spaces fn = some a) ∧
    (a.waiting.isEmpty = false) ∧
    (dmaBarred s fn = false) :=
  ⟨0, 0, tWait, { tRings with spaces := [(0, tWait)] },
    by decide +kernel⟩

theorem witness_MissesAndWindowsComplete_3 : ∃ (fn : Nat) (offset : Nat) (len : Nat) (dva : Nat) (s : State),
    (lit s = true) ∧
    (bar4Target s fn offset len false = .ok dva) :=
  ⟨0, 65528, 8, 65528, tBar,
    by decide +kernel⟩

theorem witness_MissesAndWindowsComplete_4 : ∃ (fn : Nat) (offset : Nat) (len : Nat) (e : Nat × Nat × Nat) (s : State),
    (lit s = true) ∧
    (bar4Target s fn offset len false = .error e) :=
  ⟨0, 2 ^ 30, 8, (0, 0, 0), tBar,
    by decide +kernel⟩

theorem witness_MissesAndWindowsComplete_5 : ∃ (fn : Nat) (offset : Nat) (dva : Nat) (bytes : List Byte) (s : State),
    (lit s = true) ∧
    (bar4Target s fn offset bytes.length true = .ok dva) :=
  ⟨0, 65535, 65535, [7], tBar,
    by decide +kernel⟩

theorem witness_MissesAndWindowsComplete_6 : ∃ (fn : Nat) (offset : Nat) (bytes : List Byte) (e : Nat × Nat × Nat) (s : State),
    (lit s = true) ∧
    (bar4Target s fn offset bytes.length true = .error e) :=
  ⟨0, 2 ^ 30, [7], (0, 0, 0), tBar,
    by decide +kernel⟩

theorem witness_MissesAndWindowsComplete_7 : ∃ (port : Nat) (fetched : List Byte) (u : State) (s : State),
    (u = dueRefills s) ∧
    (lit s = true) ∧
    (pickTc u port (backlog u port) ((candidates u port).filter (mayLeave u port)) = none) :=
  ⟨47, [], _, tRings,
    rfl, by decide +kernel⟩

theorem witness_MissesAndWindowsComplete_8 : ∃ (port : Nat) (fetched : List Byte) (u : State) (v : State) (c : Cand) (p : Pending) (frame : List Byte) (s : State),
    (u = dueRefills s) ∧
    (v = shaperTake (shaperKey 1 c.fn port) c.len (shaperTake (shaperKey 2 c.tc port) c.len (chargeQueues port c (followBacklog port c u)))) ∧
    (lit s = true) ∧
    (pickTc u port (backlog u port) ((candidates u port).filter (mayLeave u port)) = some c) ∧
    (c.what = .frame p frame) :=
  ⟨0, [], _, _, { tc := 0, fn := 0, stream := frameStream, len := frameBytes [1], what := .frame (tPend (.frameSend 0 0 0 [1])) [1] }, tPend (.frameSend 0 0 0 [1]), [1], tFrame,
    rfl, rfl, by decide +kernel⟩

theorem witness_MissesAndWindowsComplete_9 : ∃ (port : Nat) (fetched : List Byte) (u : State) (v : State) (c : Cand) (x : EgressUnit) (s : State),
    (u = dueRefills s) ∧
    (v = shaperTake (shaperKey 1 c.fn port) c.len (shaperTake (shaperKey 2 c.tc port) c.len (chargeQueues port c (followBacklog port c u)))) ∧
    (lit s = true) ∧
    (pickTc u port (backlog u port) ((candidates u port).filter (mayLeave u port)) = some c) ∧
    (c.what = .unit x) :=
  ⟨32, [], _, _, { tc := 7, fn := 0, stream := 2 ^ 20, len := 144, what := .unit tUnitOut }, tUnitOut, { tRings with sched := { tRings.sched with units := [tUnitOut] } },
    rfl, rfl, by decide +kernel⟩

theorem witness_MissesAndWindowsComplete_10 : ∃ (port : Nat) (fetched : List Byte) (u : State) (v : State) (c : Cand) (n : Nat) (x : TxPacket) (p : Nat) (q : Qp) (s : State),
    (u = dueRefills s) ∧
    (v = shaperTake (shaperKey 1 c.fn port) c.len (shaperTake (shaperKey 2 c.tc port) c.len (chargeQueues port c (followBacklog port c u)))) ∧
    (lit s = true) ∧
    (pickTc u port (backlog u port) ((candidates u port).filter (mayLeave u port)) = some c) ∧
    (c.what = .packet n x p) ∧
    (qpGet v n = some q) :=
  ⟨0, [], _, _, { tc := effectiveTc tQueued, fn := 0, stream := streamKey (.qp 5), len := wireLen tQueued tFlight, what := .packet 5 tFlight 0 }, 5, tFlight, 0, tQueued, tOne tQueued,
    rfl, rfl, by decide +kernel⟩

/-! PacketsComplete -/

theorem witness_PacketsComplete_0 : ∃ (p : RxPacket) (w : RxPacket) (n : Nat) (q : Qp) (s : State),
    (w = widenFor q q.recv.e p) ∧
    (lit s = true) ∧
    (isNewPacket .write p n q s) :=
  ⟨tPkt .write 16383, _, 5, tQp, tOne tQp,
    rfl, by unfold isNewPacket heardPacket; decide +kernel⟩

theorem witness_PacketsComplete_1 : ∃ (p : RxPacket) (w : RxPacket) (n : Nat) (q : Qp) (s : State),
    (w = widenFor q q.recv.e p) ∧
    (lit s = true) ∧
    (isOldPacket .write p n q s) :=
  ⟨tPkt .write (BitVec.ofNat 32 (2 ^ 32 - 1)), _, 5, tQp, tOne tQp,
    rfl, by unfold isOldPacket heardPacket; decide +kernel⟩

theorem witness_PacketsComplete_2 : ∃ (p : RxPacket) (w : RxPacket) (n : Nat) (q : Qp) (s : State),
    (w = widenFor q q.recv.e p) ∧
    (lit s = true) ∧
    (isNewPacket .writeImm p n q s) :=
  ⟨tPkt .writeImm 16383, _, 5, tQp, tOne tQp,
    rfl, by unfold isNewPacket heardPacket; decide +kernel⟩

theorem witness_PacketsComplete_3 : ∃ (p : RxPacket) (w : RxPacket) (n : Nat) (q : Qp) (s : State),
    (w = widenFor q q.recv.e p) ∧
    (lit s = true) ∧
    (isOldPacket .writeImm p n q s) :=
  ⟨tPkt .writeImm (BitVec.ofNat 32 (2 ^ 32 - 1)), _, 5, tQp, tOne tQp,
    rfl, by unfold isOldPacket heardPacket; decide +kernel⟩

theorem witness_PacketsComplete_4 : ∃ (p : RxPacket) (w : RxPacket) (n : Nat) (q : Qp) (s : State),
    (w = widenFor q q.recv.e p) ∧
    (lit s = true) ∧
    (isNewPacket .readReq p n q s) :=
  ⟨tPkt .readReq 16383, _, 5, tQp, tOne tQp,
    rfl, by unfold isNewPacket heardPacket; decide +kernel⟩

theorem witness_PacketsComplete_5 : ∃ (p : RxPacket) (w : RxPacket) (n : Nat) (q : Qp) (s : State),
    (w = widenFor q q.recv.e p) ∧
    (lit s = true) ∧
    (isOldPacket .readReq p n q s) :=
  ⟨tPkt .readReq (BitVec.ofNat 32 (2 ^ 32 - 1)), _, 5, tQp, tOne tQp,
    rfl, by unfold isOldPacket heardPacket; decide +kernel⟩

theorem witness_PacketsComplete_6 : ∃ (p : RxPacket) (w : RxPacket) (n : Nat) (q : Qp) (s : State),
    (w = widenFor q q.recv.e p) ∧
    (lit s = true) ∧
    (isNewPacket .send p n q s) :=
  ⟨tPkt .send 16383, _, 5, tQp, tOne tQp,
    rfl, by unfold isNewPacket heardPacket; decide +kernel⟩

theorem witness_PacketsComplete_7 : ∃ (p : RxPacket) (w : RxPacket) (n : Nat) (q : Qp) (s : State),
    (w = widenFor q q.recv.e p) ∧
    (lit s = true) ∧
    (isOldPacket .send p n q s) :=
  ⟨tPkt .send (BitVec.ofNat 32 (2 ^ 32 - 1)), _, 5, tQp, tOne tQp,
    rfl, by unfold isOldPacket heardPacket; decide +kernel⟩

theorem witness_PacketsComplete_8 : ∃ (p : RxPacket) (prior : W64) (w : RxPacket) (n : Nat) (q : Qp) (s : State),
    (w = widenFor q q.recv.e p) ∧
    (lit s = true) ∧
    (isNewPacket .fadd p n q s) :=
  ⟨tPkt .fadd 16383, 0, _, 5, tQp, tOne tQp,
    rfl, by unfold isNewPacket heardPacket; decide +kernel⟩

theorem witness_PacketsComplete_9 : ∃ (p : RxPacket) (prior : W64) (w : RxPacket) (n : Nat) (q : Qp) (s : State),
    (w = widenFor q q.recv.e p) ∧
    (lit s = true) ∧
    (isOldPacket .fadd p n q s) :=
  ⟨tPkt .fadd (BitVec.ofNat 32 (2 ^ 32 - 1)), 0, _, 5, tQp, tOne tQp,
    rfl, by unfold isOldPacket heardPacket; decide +kernel⟩

theorem witness_PacketsComplete_10 : ∃ (p : RxPacket) (prior : W64) (w : RxPacket) (n : Nat) (q : Qp) (s : State),
    (w = widenFor q q.recv.e p) ∧
    (lit s = true) ∧
    (isNewPacket .cswap p n q s) :=
  ⟨tPkt .cswap 16383, 0, _, 5, tQp, tOne tQp,
    rfl, by unfold isNewPacket heardPacket; decide +kernel⟩

theorem witness_PacketsComplete_11 : ∃ (p : RxPacket) (prior : W64) (w : RxPacket) (n : Nat) (q : Qp) (s : State),
    (w = widenFor q q.recv.e p) ∧
    (lit s = true) ∧
    (isOldPacket .cswap p n q s) :=
  ⟨tPkt .cswap (BitVec.ofNat 32 (2 ^ 32 - 1)), 0, _, 5, tQp, tOne tQp,
    rfl, by unfold isOldPacket heardPacket; decide +kernel⟩

theorem witness_PacketsComplete_12 : ∃ (p : RxPacket) (w : RxPacket) (n : Nat) (q : Qp) (s : State),
    (w = widenFor q q.recv.e p) ∧
    (lit s = true) ∧
    (isNewPacket .flush p n q s) :=
  ⟨tPkt .flush 16383, _, 5, tQp, tOne tQp,
    rfl, by unfold isNewPacket heardPacket; decide +kernel⟩

theorem witness_PacketsComplete_13 : ∃ (p : RxPacket) (w : RxPacket) (n : Nat) (q : Qp) (s : State),
    (w = widenFor q q.recv.e p) ∧
    (lit s = true) ∧
    (isOldPacket .flush p n q s) :=
  ⟨tPkt .flush (BitVec.ofNat 32 (2 ^ 32 - 1)), _, 5, tQp, tOne tQp,
    rfl, by unfold isOldPacket heardPacket; decide +kernel⟩

theorem witness_PacketsComplete_14 : ∃ (p : RxPacket) (w : RxPacket) (n : Nat) (q : Qp) (s : State),
    (w = widenFor q q.send.cumAcked p) ∧
    (lit s = true) ∧
    (heardPacket .readResp p n q q.send.cumAcked s) ∧
    (q.phase = .ready) :=
  ⟨tPkt .readResp 0, _, 5, tQp, tOne tQp,
    rfl, by unfold heardPacket; decide +kernel⟩

theorem witness_PacketsComplete_15 : ∃ (p : RxPacket) (w : RxPacket) (n : Nat) (q : Qp) (s : State),
    (w = widenFor q q.send.cumAcked p) ∧
    (lit s = true) ∧
    (heardPacket .atomicResp p n q q.send.cumAcked s) ∧
    (q.phase = .ready) :=
  ⟨tPkt .atomicResp 0, _, 5, tQp, tOne tQp,
    rfl, by unfold heardPacket; decide +kernel⟩

theorem witness_PacketsComplete_16 : ∃ (p : RxPacket) (b : AckBody) (n : Nat) (q : Qp) (own : W32 → W32) (sack : List (W32 × W32)) (newly : List TxPacket) (u : State) (v : State) (s : State),
    ((own = fun x => if q.conf.mode = .roce then widenPsn q.send.cumAcked x else x)) ∧
    (sack = b.sack.map (fun r => (own r.1, own r.2))) ∧
    (newly = q.send.flight.filter (fun x => !x.sacked && isAcked (own p.hdr.seq) sack x.seq)) ∧
    (u = peerRetires n (if q.conf.mode = .roce then widenPsn q.recv.e b.ownRetired else b.ownRetired) (hearAck n p s)) ∧
    (v = sampleCc n q b newly.length (match roundTrip s.dev.now q b newly with | some t => sampleRtt n q t u | none => u)) ∧
    (lit s = true) ∧
    (ackTarget .ack p (ackBytes b) (ackBodyOk b) s = some (n, q)) ∧
    (q.phase = .ready) ∧
    (b.stateLost = false) :=
  ⟨tBody .ack (ackBytes tAck), tAck, 5, tQp, _, _, _, _, _, tOne tQp,
    rfl, rfl, rfl, rfl, rfl, by decide +kernel⟩

theorem witness_PacketsComplete_17 : ∃ (p : RxPacket) (b : AckBody) (n : Nat) (q : Qp) (own : W32 → W32) (sack : List (W32 × W32)) (newly : List TxPacket) (u : State) (v : State) (s : State),
    ((own = fun x => if q.conf.mode = .roce then widenPsn q.send.cumAcked x else x)) ∧
    (sack = b.sack.map (fun r => (own r.1, own r.2))) ∧
    (newly = q.send.flight.filter (fun x => !x.sacked && isAcked (own p.hdr.seq) sack x.seq)) ∧
    (u = peerRetires n (if q.conf.mode = .roce then widenPsn q.recv.e b.ownRetired else b.ownRetired) (hearAck n p s)) ∧
    (v = sampleCc n q b newly.length (match roundTrip s.dev.now q b newly with | some t => sampleRtt n q t u | none => u)) ∧
    (lit s = true) ∧
    (ackTarget .ack p (ackBytes b) (ackBodyOk b) s = some (n, q)) ∧
    (q.phase = .ready) ∧
    (b.stateLost = true) :=
  ⟨tBody .ack (ackBytes ({ tAck with stateLost := true })), { tAck with stateLost := true }, 5, tQp, _, _, _, _, _, tOne tQp,
    rfl, rfl, rfl, rfl, rfl, by decide +kernel⟩

theorem witness_PacketsComplete_18 : ∃ (p : RxPacket) (b : NakBody) (n : Nat) (q : Qp) (q1 : Qp) (own : W32 → W32) (u : State) (r : NakReason) (m : TxMessage) (s : State),
    ((own = fun x => if q.conf.mode = .roce then widenPsn q.send.cumAcked x else x)) ∧
    (u = applyCum n (own p.hdr.seq) [] (peerRetires n b.ownRetired (hearAck n p s))) ∧
    (lit s = true) ∧
    (ackTarget .nak p (nakBytes b) (nakBodyOk b) s = some (n, q)) ∧
    (q.phase = .ready) ∧
    (sentMessage (hearAck n p s) q (own b.nakSeq) = some m) ∧
    (nakOfCode b.reason.toNat = some r) ∧
    (qpGet u n = some q1) ∧
    ((messageOf q1 m.work).isSome = true) :=
  ⟨tBody .nak (nakBytes tNak), tNak, 5, tSent, { tSent with send := { tSent.send with lastHeard := 428000000 } }, _, _, .rnr, tMsg true, tOne tSent,
    rfl, rfl, by decide +kernel⟩

theorem witness_PacketsComplete_19 : ∃ (p : RxPacket) (w : RxPacket) (b : RepairBody) (n : Nat) (q : Qp) (s : State),
    (w = widenFor q q.recv.e p) ∧
    (lit s = true) ∧
    (ackTarget .readRepair p (repairBytes b) (repairBodyOk b) s = some (n, q)) ∧
    (q.phase = .ready) ∧
    (q.recv.suspended = false) ∧
    (keyCheck (hearAck n w s) q.conf.fn w.hdr.rkey rightRemoteRead w.hdr.msgDva.toNat (readLen w.hdr) = none) ∧
    (readBarred (hearAck n w s) q w.hdr = none) :=
  ⟨tAsk (repairBytes tRepair), _, tRepair, 5, tQp, tOne tQp,
    rfl, by decide +kernel⟩

/-! TransportTimersComplete -/

theorem witness_TransportTimersComplete_0 : ∃ (fn : Nat) (cq : Nat) (q : CplRing) (t : Nat) (s : State),
    (lit s = true) ∧
    (cqGet s fn cq = some q) ∧
    (q.firstCounted = some t) :=
  ⟨0, 0, { tCq with firstCounted := some 0 }, 0, { tRings with cqs := [(0, { tCq with firstCounted := some 0 })] },
    by decide +kernel⟩

theorem witness_TransportTimersComplete_1 : ∃ (qp : Nat) (t : Nat) (q : Qp) (s : State),
    (lit s = true) ∧
    (qpGet s qp = some q) ∧
    (q.phase = .ready) ∧
    (q.recv.firstSettledAt = some t) ∧
    (q.send.ownRetired = q.recv.toldRetired) :=
  ⟨5, 0, tRecv fun x => { x with firstSettledAt := some 0 }, tOne (tRecv fun x => { x with firstSettledAt := some 0 }),
    by decide +kernel⟩

theorem witness_TransportTimersComplete_2 : ∃ (qp : Nat) (t : Nat) (q : Qp) (s : State),
    (lit s = true) ∧
    (qpGet s qp = some q) ∧
    (q.phase = .ready) ∧
    (q.recv.firstSettledAt = some t) ∧
    (q.send.ownRetired ≠ q.recv.toldRetired) :=
  ⟨5, 0, { tRecv (fun x => { x with firstSettledAt := some 0 }) with send := { tQp.send with ownRetired := 1 } }, tOne ({ tRecv (fun x => { x with firstSettledAt := some 0 }) with send := { tQp.send with ownRetired := 1 } }),
    by decide +kernel⟩

theorem witness_TransportTimersComplete_3 : ∃ (qp : Nat) (q : Qp) (s : State),
    (lit s = true) ∧
    (qpGet s qp = some q) ∧
    (q.phase = .ready) ∧
    (q.recv.firstSettledAt = none) ∧
    (q.send.ownRetired ≠ q.recv.toldRetired) :=
  ⟨5, tSend fun x => { x with ownRetired := 1 }, tOne (tSend fun x => { x with ownRetired := 1 }),
    by decide +kernel⟩

theorem witness_TransportTimersComplete_4 : ∃ (qp : Nat) (t : Nat) (q : Qp) (u : State) (lost : List TxPacket) (reads : List (TxMessage × TxPacket)) (s : State),
    (u = advanceTo t s) ∧
    (lost = q.send.flight.filter (fun x => !x.sacked && !x.retx && !heldBack q x && decide (x.sentAt + rto q ≤ u.dev.now))) ∧
    (reads = (waitingReads s q).filter (fun r => !heldBack q r.2 && decide (askedAt r.1 r.2 + rto q ≤ u.dev.now))) ∧
    (lit s = true) ∧
    (qpGet s qp = some q) ∧
    (q.phase = .ready) ∧
    (timerDue s q = some t) :=
  ⟨5, 240000, tSent, _, _, _, tOne tSent,
    rfl, rfl, rfl, by decide +kernel⟩

theorem witness_TransportTimersComplete_5 : ∃ (qp : Nat) (q : Qp) (m : TxMessage) (s : State),
    (lit s = true) ∧
    (qpGet s qp = some q) ∧
    (nextRnr q = some m) :=
  ⟨5, tSend fun x => { x with messages := [{ tMsg true with rnrAt := some 0 }] }, { tMsg true with rnrAt := some 0 }, tOne (tSend fun x => { x with messages := [{ tMsg true with rnrAt := some 0 }] }),
    by decide +kernel⟩

theorem witness_TransportTimersComplete_6 : ∃ (qp : Nat) (q : Qp) (x : W32) (s : State),
    (lit s = true) ∧
    (qpGet s qp = some q) ∧
    (q.send.faultWait = some x) :=
  ⟨5, tSend fun x => { x with faultWait := some 0 }, 0, tOne (tSend fun x => { x with faultWait := some 0 }),
    by decide +kernel⟩

theorem witness_TransportTimersComplete_7 : ∃ (qp : Nat) (t : Nat) (q : Qp) (m : TxMessage) (s : State),
    (lit s = true) ∧
    (qpGet s qp = some q) ∧
    (silentSince s q = some t) ∧
    (oldestOutstanding s q = some m) ∧
    (q.phase = .ready) :=
  ⟨5, 0, tSent, tMsg true, tOne tSent,
    by decide +kernel⟩

theorem witness_TransportTimersComplete_8 : ∃ (qp : Nat) (t : Nat) (q : Qp) (m : TxMessage) (s : State),
    (lit s = true) ∧
    (qpGet s qp = some q) ∧
    (q.send.noPathSince = some t) ∧
    (q.send.messages.head? = some m) ∧
    (q.phase = .ready) :=
  ⟨5, 0, tSend fun x => { x with noPathSince := some 0, messages := [tMsg true] }, tMsg true, tOne (tSend fun x => { x with noPathSince := some 0, messages := [tMsg true] }),
    by decide +kernel⟩

/-! TransportChecksComplete -/

theorem witness_TransportChecksComplete_0 : ∃ (n : Nat) (t : Nat) (q : Qp) (s : State),
    (lit s = true) ∧
    (qpGet s n = some q) ∧
    (outstanding s q = true) ∧
    (q.send.outSince = some t) ∧
    (q.send.silent = false) :=
  ⟨5, 0, tSent, tOne tSent,
    by decide +kernel⟩

theorem witness_TransportChecksComplete_1 : ∃ (port : Nat) (n : Nat) (t : Nat) (x : FabPort) (q : ReqStream) (s : State),
    (lit s = true) ∧
    (portGet s port = some x) ∧
    (streamGet s port n = some q) ∧
    (q.outSince = some t) ∧
    (q.silent = false) :=
  ⟨1, 63, 0, { tSpur with streams := [(63, { newStream 0 4 true with outSince := some 0 })] }, { newStream 0 4 true with outSince := some 0 }, { tFab with fabric := { tFab.fabric with ports := [(1, { tSpur with streams := [(63, { newStream 0 4 true with outSince := some 0 })] })] } },
    by decide +kernel⟩

theorem witness_TransportChecksComplete_2 : ∃ (slot : Nat) (g : CollGroup) (o : Nat × Nat) (s : State),
    (lit s = true) ∧
    (groupGet s slot = some g) ∧
    (oldestSent g = some o) :=
  ⟨3, tAsks, (0, 1), tColl tAsks,
    by decide +kernel⟩

theorem witness_TransportChecksComplete_3 : ∃ (qp : Nat) (q : Qp) (u : State) (s : State),
    (u = advanceTo (q.cc.epochAt + max ⌈q.send.srtt⌉.toNat (epochMin s)) s) ∧
    (lit s = true) ∧
    (qpGet s qp = some q) ∧
    (q.phase = .ready) ∧
    (admitted q = none) :=
  ⟨5, tQp, _, tOne tQp,
    rfl, by decide +kernel⟩

theorem witness_TransportChecksComplete_4 : ∃ (t : Nat) (s : State),
    (lit s = true) ∧
    (s.sched.recheckAt = some t) :=
  ⟨0, { tRings with sched := { freshSched with recheckAt := some 0 } },
    by decide +kernel⟩

theorem witness_TransportChecksComplete_5 : ∃ (qp : Nat) (seq : W32) (q : Qp) (a : Admission) (x : TxPacket) (s : State),
    (lit s = true) ∧
    (qpGet s qp = some q) ∧
    (admitted q = some a) ∧
    (q.send.flight.find? (fun x => x.seq == seq && !x.sacked && !x.late) = some x) ∧
    (isFabric q = false) :=
  ⟨5, 0, { tSent with admission := some tAdm }, tAdm, tFlight, tOne ({ tSent with admission := some tAdm }),
    by decide +kernel⟩

theorem witness_TransportChecksComplete_6 : ∃ (n : Nat) (t : Nat) (u : State) (s : State),
    (t = nextMultiple s.dev.ticks.shaper 1000) ∧
    (u = advanceTo t s) ∧
    (n = u.dev.now / 1000 - s.dev.ticks.shaper / 1000) ∧
    (lit s = true) :=
  ⟨_, _, _, tRings,
    rfl, rfl, rfl, by decide +kernel⟩

theorem witness_TransportChecksComplete_7 : ∃ (n : Nat) (t : Nat) (u : State) (s : State),
    (t = nextMultiple s.dev.ticks.policer 1000) ∧
    (u = advanceTo t s) ∧
    (n = u.dev.now / 1000 - s.dev.ticks.policer / 1000) ∧
    (lit s = true) :=
  ⟨_, _, _, tRings,
    rfl, rfl, rfl, by decide +kernel⟩

theorem witness_TransportChecksComplete_8 : ∃ (kind : Nat) (id : W20) (x : Sounding) (s : State),
    (lit s = true) ∧
    (nextSounding s kind id = some x) :=
  ⟨0, 5, tSound, { tRings with sched := { freshSched with soundings := [tSound] } },
    by decide +kernel⟩

theorem witness_TransportChecksComplete_9 : ∃ (kind : Nat) (id : W20) (h : W32) (x : Sounding) (s : State),
    (lit s = true) ∧
    (nextSounding s kind id = some x) :=
  ⟨0, 5, 0, tSound, { tRings with sched := { freshSched with soundings := [tSound] } },
    by decide +kernel⟩

theorem witness_TransportChecksComplete_10 : ∃ (fn : Nat) (cq : Nat) (head : W32) (s : State),
    (lit s = true) ∧
    (dmaBarred s fn = false) :=
  ⟨0, 0, 0, tRings,
    by decide +kernel⟩

/-! FunctionEventsComplete -/

theorem witness_FunctionEventsComplete_0 : ∃ (fn : Nat) (t : Nat) (f : Function) (s : State),
    (lit s = true) ∧
    (fnGet s fn = some f) ∧
    (f.mode = .held) ∧
    (f.heldSince = some t) :=
  ⟨0, 0, tHeld .held (some 0), tFn (tHeld .held (some 0)),
    by decide +kernel⟩

theorem witness_FunctionEventsComplete_1 : ∃ (fn : Nat) (t : Nat) (f : Function) (s : State),
    (fnGet s fn = some f) ∧
    (lit s = true) ∧
    (f.mode ≠ .held) ∧
    (streamsHeldSince s fn = some t) :=
  ⟨0, 0, _, tPort ({ tSpur with active := false, streams := [(0, { newStream 0 4 true with heldSince := some 0 })] }),
    rfl, by decide +kernel⟩

theorem witness_FunctionEventsComplete_2 : ∃ (fn : Nat) (t : Nat) (heads : List HeadRead) (f : Function) (s : State),
    (lit s = true) ∧
    (fnGet s fn = some f) ∧
    (f.mode = .running) ∧
    (f.watchdogAt = some t) :=
  ⟨0, 0, [], { tHeld .running none with watchdogAt := some 0 }, tFn ({ tHeld .running none with watchdogAt := some 0 }),
    by decide +kernel⟩

theorem witness_FunctionEventsComplete_3 : ∃ (fn : Nat) (heads : List HeadRead) (f : Function) (s : State),
    (fnGet s fn = some f) ∧
    (f.latent = false) :=
  ⟨0, [], tHeld .running none, tFn (tHeld .running none),
    by decide +kernel⟩

theorem witness_FunctionEventsComplete_4 : ∃ (numVfs : Nat) (u : State) (s : State),
    (u = { s with pcie := { s.pcie with vfEnable := true, numVfs := numVfs } }) ∧
    (s.pcie.vfEnable = false) ∧
    (numVfs ≤ 255) ∧
    (s.pcie.linkUp = true) :=
  ⟨255, _, { tUp with pcie := { tUp.pcie with vfEnable := false } },
    rfl, by decide +kernel⟩

theorem witness_FunctionEventsComplete_5 : ∃ (s : State),
    (s.pcie.vfEnable = true) :=
  ⟨tUp,
    by decide +kernel⟩

theorem witness_FunctionEventsComplete_6 : ∃ (widthNs : Nat) (s : State),
    (20 ≤ widthNs) ∧
    (s.pcie.perst = false) ∧
    (s.dev.life ≠ .tripped) :=
  ⟨20, tUp,
    by decide +kernel⟩

theorem witness_FunctionEventsComplete_7 : ∃ (s : State),
    (s.pcie.perst = true) :=
  ⟨{ tUp with pcie := { tUp.pcie with perst := true } },
    by decide +kernel⟩

theorem witness_FunctionEventsComplete_8 : ∃ (s : State),
    (s.pcie.linkUp = true) :=
  ⟨tUp,
    by decide +kernel⟩

theorem witness_FunctionEventsComplete_9 : ∃ (b : Bool) (s : State),
    (s.pcie.linkUp = true) :=
  ⟨true, tUp,
    by decide +kernel⟩

theorem witness_FunctionEventsComplete_10 : ∃ (island : Nat) (x : Crossing) (s : State),
    (tabGet s.clocks.crossings island = some x) ∧
    (x.mode = .flush) ∧
    (inIslandReset s island = false) :=
  ⟨14, { freshCrossing with mode := .flush }, tCross .flush,
    by decide +kernel⟩

theorem witness_FunctionEventsComplete_11 : ∃ (island : Nat) (x : Crossing) (s : State),
    (tabGet s.clocks.crossings island = some x) ∧
    (x.mode ≠ .flush) ∧
    (inIslandReset s island = false) ∧
    (bit s.clocks.stopped.toNat island = false) :=
  ⟨14, { freshCrossing with mode := .sync }, tCross .sync,
    by decide +kernel⟩

theorem witness_FunctionEventsComplete_14 : ∃ (idle : Nat) (u : State) (s : State),
    (u = advanceTo (s.hostAt + idle) s) ∧
    (s.pcie.aspmL1 = true) ∧
    (s.pcie.linkUp = true) ∧
    (s.dev.profile = .balanced ∧ idle = 100000 ∨ s.dev.profile = .efficiency ∧ idle = 20000) ∧
    (hostFlowAdmitted s = false) :=
  ⟨100000, _, { tUp with pcie := { tUp.pcie with aspmL1 := true }, dev := { tUp.dev with profile := .balanced } },
    rfl, by decide +kernel⟩

theorem witness_FunctionEventsComplete_15 : ∃ (island : Nat) (u : State) (v : State) (s : State),
    (u = (if bit s.clocks.status.toNat island then dropClockBit island s else s)) ∧
    (v = advanceTo ((tabGet u.clocks.zeroSince island).getD s.dev.now + 100000) u) ∧
    (mayStop s island = true) :=
  ⟨10, _, _, { tFab with dev := { tFab.dev with inventory := { tFab.dev.inventory with tarns := 14 } } },
    rfl, rfl, by decide +kernel⟩

theorem witness_FunctionEventsComplete_16 : ∃ (island : Nat) (s : State),
    (island < 18) ∧
    (¬(10 ≤ island ∧ island ≤ 13 ∧ mayStop s island = true)) :=
  ⟨17, tFab,
    by decide +kernel⟩

/-! FabricEventsComplete -/

theorem witness_FabricEventsComplete_0 : ∃ (port : Nat) (slot : Nat) (k : Nat) (f : Flit) (s : State),
    (lit s = true) ∧
    (ringInput s port = some k) :=
  ⟨0, 0, 0, tFlit 0x10 128, tOnRing,
    by decide +kernel⟩

theorem witness_FabricEventsComplete_1 : ∃ (port : Nat) (slot : Nat) (k : Nat) (t : Nat) (f : Flit) (s : State),
    (lit s = true) ∧
    (ringInput s port = some k) ∧
    (waitingSince s (outDir s (opposite k)) slot = some t) ∧
    (f.type ≠ 0) ∧
    (f.slotClaim = false) ∧
    (tabGet s.fabric.claims (outDir s (opposite k)) = none) :=
  ⟨0, 0, 0, 0, tFlit 0x10 128, tOnRing,
    by decide +kernel⟩

theorem witness_FabricEventsComplete_2 : ∃ (src : Nat) (tag : Nat) (p : Partial) (s : State),
    (lit s = true) ∧
    (tabGet s.fabric.store (src * 2 ^ 18 + tag) = some p) :=
  ⟨1, 2, tPart, { tFab with fabric := { tFab.fabric with store := [(2 ^ 18 + 2, tPart)] } },
    by decide +kernel⟩

theorem witness_FabricEventsComplete_3 : ∃ (port : Nat) (f : Flit) (s : State),
    (lit s = true) ∧
    (ringFlitGood s port f = true) ∧
    (f.type = 0x01) :=
  ⟨0, tGood 1, tOnRing,
    by decide +kernel⟩

theorem witness_FabricEventsComplete_4 : ∃ (port : Nat) (f : Flit) (s : State),
    (lit s = true) ∧
    (ringFlitGood s port f = false ∨ f.type ≠ 0x01) :=
  ⟨0, tGood 0x10, tOnRing,
    by decide +kernel⟩

theorem witness_FabricEventsComplete_5 : ∃ (port : Nat) (f : Flit) (s : State),
    (lit s = true) ∧
    (ringFlitGood s port f = true) ∧
    (f.type = 0x02) :=
  ⟨0, tGood 2, tOnRing,
    by decide +kernel⟩

theorem witness_FabricEventsComplete_6 : ∃ (port : Nat) (f : Flit) (s : State),
    (lit s = true) ∧
    (ringFlitGood s port f = false ∨ f.type ≠ 0x02) :=
  ⟨0, tGood 0x10, tOnRing,
    by decide +kernel⟩

theorem witness_FabricEventsComplete_7 : ∃ (s : State),
    (lit s = true) ∧
    (s.fabric.bearingA.mode = .draining) :=
  ⟨{ tFab with fabric := { tFab.fabric with bearingA := { freshBearing with mode := .draining } } },
    by decide +kernel⟩

theorem witness_FabricEventsComplete_8 : ∃ (s : State),
    (lit s = true) ∧
    (s.fabric.bearingA.mode ≠ .draining) ∧
    (s.fabric.bearingB.mode = .draining) :=
  ⟨{ tFab with fabric := { tFab.fabric with bearingB := { freshBearing with mode := .draining } } },
    by decide +kernel⟩

theorem witness_FabricEventsComplete_9 : ∃ (port : Nat) (wake : Nat) (t : TrainInfo) (x : FabPort) (u : State) (s : State),
    (wake = max Config.wakeNs t.wakeNeeded) ∧
    (u = portMod port (fun y => { y with active := true, lanes := lanesUp x.role t.lanes, latNs := ceilDiv t.probeNs 2, partnerDev := t.partnerDev.toNat, partnerPort := t.partnerPort.toNat, partnerPilot := t.partnerPilot, wakeNs := wake, mayIdle := decide (wake ≤ y.wakeMax ∧ wake ≤ t.wakeTolerated), isIdle := false, narrowed := false, attempts := 0, lastFlit := s.dev.now, heardAt := s.dev.now }) s) ∧
    (portGet s port = some x) ∧
    (x.role ≠ .disabled) ∧
    (x.active = false) ∧
    (lanesUp x.role t.lanes ≠ 0) ∧
    (partnerFits s x t = true) ∧
    ((lit s || s.dev.life == .restarting) = true) :=
  ⟨1, _, tTrain, { newPort .spur with role := .spur }, _, tPort ({ newPort .spur with role := .spur }),
    rfl, rfl, by decide +kernel⟩

theorem witness_FabricEventsComplete_10 : ∃ (port : Nat) (x : FabPort) (u : State) (s : State),
    (u = portMod port (fun y => { y with attempts := y.attempts + 1 }) (advanceTo (s.dev.now + 10000000) s)) ∧
    (portGet s port = some x) ∧
    (x.role ≠ .disabled) ∧
    (x.active = false) :=
  ⟨1, { newPort .spur with role := .spur }, _, tPort ({ newPort .spur with role := .spur }),
    rfl, by decide +kernel⟩

theorem witness_FabricEventsComplete_11 : ∃ (port : Nat) (s : State),
    (lit s = true ∨ s.dev.life = .restarting) :=
  ⟨0, tFab,
    by decide +kernel⟩

/-! SpurEventsComplete -/

theorem witness_SpurEventsComplete_5 : ∃ (port : Nat) (tag : Nat) (x : FabPort) (a : SpurAccess) (b : SpurAccess) (u : State) (s : State),
    (b = { a with sentAt := (advanceTo (a.sentAt + 12000) s).dev.now, data := if a.write then a.data else [] }) ∧
    (u = accessMod port tag (fun _ => b) (advanceTo (a.sentAt + 12000) s)) ∧
    (lit s = true) ∧
    (portGet s port = some x) ∧
    (accessGet s port tag = some a) ∧
    (a.inbound = false) :=
  ⟨1, 5, { tSpur with accesses := [(5, tAccess)] }, tAccess, _, _, tPort ({ tSpur with accesses := [(5, tAccess)] }),
    rfl, rfl, by decide +kernel⟩

theorem witness_SpurEventsComplete_6 : ∃ (port : Nat) (n : Nat) (a : Nat) (t : Nat) (rest : List Nat) (x : FabPort) (q : ReqStream) (s : State),
    (t = rest.foldl min a + 12000) ∧
    (lit s = true) ∧
    (portGet s port = some x) ∧
    (streamGet s port n = some q) ∧
    (q.unconsumed.map Prod.snd = a :: rest) ∧
    (x.active = true) :=
  ⟨1, 63, 7, _, [5], tStream tLate, tLate, tPort (tStream tLate),
    rfl, by decide +kernel⟩

theorem witness_SpurEventsComplete_7 : ∃ (port : Nat) (n : Nat) (x : FabPort) (q : ReqStream) (s : State),
    (lit s = true) ∧
    (portGet s port = some x) ∧
    (streamGet s port n = some q) ∧
    (q.unconsumed = []) :=
  ⟨1, 63, tStream (newStream 0 4 true), newStream 0 4 true, tPort (tStream (newStream 0 4 true)),
    by decide +kernel⟩

theorem witness_SpurEventsComplete_8 : ∃ (port : Nat) (f : Flit) (x : FabPort) (s : State),
    (lit s = true) ∧
    (flitSound f = true) ∧
    (f.type = 0x30) ∧
    (bits f.chunkSeq.toNat 22 2 = 0) ∧
    (portGet s port = some x) ∧
    (x.role = .spur) ∧
    (x.active = true) :=
  ⟨1, tGood 0x30, tSpur, tPort tSpur,
    by decide +kernel⟩

theorem witness_SpurEventsComplete_9 : ∃ (rec : Nat) (fetched : List Byte) (r : AttnRun) (w : Work) (s : State),
    (lit s = true) ∧
    (s.cache.runs.find? (fun r => r.work == rec) = some r) ∧
    (workGet s rec = some w) ∧
    (r.query = none) ∧
    (isSuspended s (.attn r.pool rec) false = false) :=
  ⟨4, [], tAttn, tWork 0x30 1, { tPools with cache := { tPools.cache with runs := [tAttn] }, journal := [(4, .work (tWork 0x30 1))] },
    by decide +kernel⟩

theorem witness_SpurEventsComplete_10 : ∃ (rec : Nat) (d : SealDue) (p : Pool) (s : State),
    (lit s = true) ∧
    (s.cache.seals.find? (fun d => d.work == rec) = some d) ∧
    (poolGet s d.pool = some p) ∧
    (sealBarred s p d.user d.layer d.block = false) ∧
    (sealedOf s d.pool d.user d.layer = d.block) :=
  ⟨4, tSealDue, tPool, tBacked,
    by decide +kernel⟩

theorem witness_SpurEventsComplete_11 : ∃ (s : State),
    (lit s = true) ∧
    (s.cache.hold = true) :=
  ⟨{ tFab with cache := { freshCache with hold := true } },
    by decide +kernel⟩

theorem witness_SpurEventsComplete_12 : ∃ (t : Nat) (u : State) (v : State) (s : State),
    (u = rampWindow (advanceTo t s)) ∧
    (v = rampMod (fun r => { r with active := sortedNats ((r.active.filter fun x => !(waveOf u.ramp.resting).contains x) ++ waveOf u.ramp.starting), starting := r.starting.filter (fun x => !(waveOf u.ramp.starting).contains x), resting := r.resting.filter (fun x => !(waveOf u.ramp.resting).contains x), idleSince := r.idleSince.filter (fun p => !(waveOf u.ramp.resting).contains p.1), left := r.left + (waveOf u.ramp.starting).length, rested := r.rested + (waveOf u.ramp.resting).length }) u) ∧
    (lit s = true) ∧
    (s.ramp.nextWave = some t) ∧
    (s.droop.coreSince = none) :=
  ⟨428001000, _, _, { tFab with ramp := { freshRamp with nextWave := some 428001000, starting := [0] } },
    rfl, rfl, by decide +kernel⟩

theorem witness_SpurEventsComplete_13 : ∃ (port : Nat) (t : Nat) (x : FabPort) (s : State),
    (lit s = true) ∧
    (portGet s port = some x) ∧
    (idleEntry s.dev.profile = some t) ∧
    (x.role = .spur) ∧
    (x.active = true) ∧
    (x.mayIdle = true) ∧
    (x.pilot = false) ∧
    (x.isIdle = false) ∧
    (admittedEndpoint s port = false) :=
  ⟨1, 2000, { tSpur with mayIdle := true }, { tPort ({ tSpur with mayIdle := true }) with dev := { tFab.dev with profile := .efficiency } },
    by decide +kernel⟩

theorem witness_SpurEventsComplete_14 : ∃ (port : Nat) (x : FabPort) (s : State),
    (lit s = true) ∧
    (portGet s port = some x) ∧
    (x.isIdle = true) :=
  ⟨1, { tSpur with isIdle := true }, tPort ({ tSpur with isIdle := true }),
    by decide +kernel⟩

theorem witness_SpurEventsComplete_15 : ∃ (port : Nat) (p : Nat) (x : FabPort) (s : State),
    (lit s = true) ∧
    (portGet s port = some x) ∧
    (narrowPercent s.dev.profile = some p) ∧
    (x.role = .spur ∧ x.active = true ∧ x.pilot = true ∧ x.partnerPilot = true ∧ x.lanes = 4 ∧ x.narrowed = false) ∧
    (admittedEndpoint s port = false) ∧
    (loadLow s.dev.now p x.txLoad = true) ∧
    (loadLow s.dev.now p x.rxLoad = true) :=
  ⟨1, 30, { tSpur with pilot := true, partnerPilot := true }, { tPort ({ tSpur with pilot := true, partnerPilot := true }) with dev := { tFab.dev with profile := .efficiency } },
    by decide +kernel⟩

theorem witness_SpurEventsComplete_16 : ∃ (port : Nat) (x : FabPort) (s : State),
    (lit s = true) ∧
    (portGet s port = some x) ∧
    (x.narrowed = true) :=
  ⟨1, { tSpur with narrowed := true }, tPort ({ tSpur with narrowed := true }),
    by decide +kernel⟩

/-! CollectiveEventsComplete -/

theorem witness_CollectiveEventsComplete_5 : ∃ (engine : Nat) (p : EnginePass) (s : State),
    (lit s = true) ∧
    (tabGet s.coll.engines engine = some p) :=
  ⟨7, tPass, tEngine,
    by decide +kernel⟩

theorem witness_CollectiveEventsComplete_6 : ∃ (engine : Nat) (p : EnginePass) (p1 : EnginePass) (u : State) (s : State),
    (p1 = { p with residueFails := p.residueFails + 1, checkFails := p.checkFails + 1 }) ∧
    (u = collMod (fun c => { c with engines := tabSet c.engines engine p1 }) s) ∧
    (lit s = true) ∧
    (tabGet s.coll.engines engine = some p) ∧
    (p1.residueFails ≠ 2) :=
  ⟨7, tPass, _, _, tEngine,
    rfl, rfl, by decide +kernel⟩

theorem witness_CollectiveEventsComplete_7 : ∃ (slot : Nat) (chunk : ChunkId) (g : CollGroup) (seq : W32) (h : HeldChunk) (u : State) (again : HeldChunk → HeldChunk) (s : State),
    (u = advanceTo (chunkDue h) s) ∧
    ((again = fun y => if y = h then { y with sentAt := u.dev.now, timer := min 8000000 (2 * y.timer) } else y)) ∧
    (lit s = true) ∧
    (groupGet s slot = some g) ∧
    (heldOf chunkDue g chunk = some (seq, h)) :=
  ⟨3, { leg := 0, west := false, num := 0 }, tHolds, 0, tChunk, _, _, tColl tHolds,
    rfl, rfl, by decide +kernel⟩

theorem witness_CollectiveEventsComplete_8 : ∃ (slot : Nat) (chunk : ChunkId) (g : CollGroup) (seq : W32) (h : HeldChunk) (s : State),
    (lit s = true) ∧
    (groupGet s slot = some g) ∧
    (heldOf lostDue { g with setupOut := [] } chunk = some (seq, h)) :=
  ⟨3, { leg := 0, west := false, num := 0 }, tHolds, 0, tChunk, tColl tHolds,
    by decide +kernel⟩

theorem witness_CollectiveEventsComplete_9 : ∃ (slot : Nat) (chunk : ChunkId) (g : CollGroup) (seq : W32) (r : CollRun) (a : AgreeOut) (s : State),
    (seq = BitVec.ofNat 32 chunk.num) ∧
    (lit s = true) ∧
    (groupGet s slot = some g) ∧
    (heldOf lostDue { g with setupOut := [] } chunk = none) ∧
    (runGet s slot seq = some r) ∧
    (r.agreeOut.find? (fun a => a.leg == chunk.leg && a.west == chunk.west) = some a) :=
  ⟨3, { leg := 0, west := false, num := 0 }, tAsks, _, tAgrees, tAgree, tColl tAsks,
    rfl, by decide +kernel⟩

/-! EthernetEventsComplete -/

theorem witness_EthernetEventsComplete_0 : ∃ (link : Nat) (f : EthFrame) (s : State),
    (lit s = true) ∧
    (linkUp s link = true) :=
  ⟨0, { dst := 0, src := 0, vlanPcp := none, dscp := 0, etherType := 0, udp := none, length := 64, fcsOk := true, fec := ⟨0, 0, 0⟩, body := [] }, tRings,
    by decide +kernel⟩

theorem witness_EthernetEventsComplete_1 : ∃ (link : Nat) (f : EthFrame) (h : W32) (s : State),
    (lit s = true) ∧
    (linkUp s link = true) :=
  ⟨0, { dst := 0, src := 0, vlanPcp := none, dscp := 0, etherType := 0, udp := none, length := 64, fcsOk := true, fec := ⟨0, 0, 0⟩, body := [] }, 0, tRings,
    by decide +kernel⟩

theorem witness_EthernetEventsComplete_2 : ∃ (link : Nat) (e : W8) (times : List W16) (s : State),
    (lit s = true) ∧
    (linkUp s link = true) :=
  ⟨0, 0x80, [0, 0, 0, 0, 0, 0, 0, 65535], tRings,
    by decide +kernel⟩

theorem witness_EthernetEventsComplete_3 : ∃ (link : Nat) (held : Nat) (l : Link) (x : Link) (u : State) (s : State),
    (lit s = true) ∧
    (linkGet s link = some l) ∧
    (l.up = true) ∧
    (l.pausing ≠ 0) ∧
    (u = drainLink link (advanceTo (l.pauseSentAt + ceilDiv (65535 * 512) (2 * max 1 (linkRate (portMode s (link / 8))))) s)) ∧
    (linkGet u link = some x) ∧
    (held = prioMask (fun q => bit x.pausing.toNat q && decide (x.xoff ≤ 2 * pauseCount (linkBuffer u link) q (x.occupancy.getD q 0)))) := by
  obtain ⟨x, hx⟩ := Option.isSome_iff_exists.1 (show (linkGet (drainLink 0 (advanceTo (({ freshLink with up := true, pausing := 2 } : Link).pauseSentAt + ceilDiv (65535 * 512) (2 * max 1 (linkRate (portMode (tLinks ({ freshLink with up := true, pausing := 2 })) (0 / 8))))) (tLinks ({ freshLink with up := true, pausing := 2 })))) 0).isSome = true by decide +kernel)
  exact ⟨0, _, { freshLink with up := true, pausing := 2 }, x, _, tLinks ({ freshLink with up := true, pausing := 2 }), by decide +kernel, by decide +kernel, by decide +kernel, by decide +kernel, rfl, hx, rfl⟩

theorem witness_EthernetEventsComplete_4 : ∃ (link : Nat) (tc : Nat) (l : Link) (t : Nat × Nat) (s : State),
    (lit s = true) ∧
    (linkGet s link = some l) ∧
    (tabGet l.pausedUntil tc = some t) :=
  ⟨0, 7, { freshLink with up := true, pausedUntil := [(7, (0, 9))] }, (0, 9), tLinks ({ freshLink with up := true, pausedUntil := [(7, (0, 9))] }),
    by decide +kernel⟩

theorem witness_EthernetEventsComplete_6 : ∃ (link : Nat) (s : State),
    (lit s = true ∨ s.dev.life = .restarting) ∧
    (configured s link = true) ∧
    (linkUp s link = false) ∧
    (lanesUsable s link = true) :=
  ⟨0, tLinks freshLink,
    by decide +kernel⟩

theorem witness_EthernetEventsComplete_8 : ∃ (t : Nat) (u : State) (s : State),
    (t = nextMultiple s.dev.ticks.lldp 30000000000) ∧
    (u = advanceTo t { s with dev := { s.dev with ticks := { s.dev.ticks with lldp := t } } }) ∧
    (lit s = true) ∧
    (s.dev.life = .running) :=
  ⟨_, _, { tRings with dev := { tRings.dev with life := .running } },
    rfl, rfl, by decide +kernel⟩

theorem witness_EthernetEventsComplete_9 : ∃ (link : Nat) (t : Nat) (w : Nat) (l : Link) (p : EthPort) (s : State),
    (lit s = true) ∧
    (linkGet s link = some l) ∧
    (tabGet s.eth.ports (link / 8) = some p) ∧
    (lpiAfter s = some t) ∧
    (l.wakeNs = some w) ∧
    (l.up = true ∧ l.txLpi = false ∧ p.lpiEnable = true ∧ w ≤ 1000 * p.wakeMax ∧ linkAdmitted s link = false ∧ (pendingFrame s link).isNone = true) :=
  ⟨0, 20000, 1000, { freshLink with up := true, wakeNs := some 1000 }, { freshEthPort with mode := 1, lpiEnable := true, wakeMax := 1 }, { tRings with dev := { tRings.dev with profile := .balanced }, eth := { tEth with ports := tabSet tEth.ports 0 ({ freshEthPort with mode := 1, lpiEnable := true, wakeMax := 1 }), links := tabSet tEth.links 0 ({ freshLink with up := true, wakeNs := some 1000 }) } },
    by decide +kernel⟩

theorem witness_EthernetEventsComplete_11 : ∃ (f : HelmFrame) (s : State),
    ((lit s || s.dev.life == .romRecovery || helmHolds s) = true) ∧
    (64 ≤ f.length) ∧
    (f.length ≤ 1518) ∧
    (f.kind = 1) ∧
    (helmTakes f (countHelmRx f.length s) = true) ∧
    (helmHolds (countHelmRx f.length s) = false) :=
  ⟨tDst 0x0103, tFab,
    by decide +kernel⟩

theorem witness_EthernetEventsComplete_12 : ∃ (f : HelmFrame) (s : State),
    ((lit s || s.dev.life == .romRecovery || helmHolds s) = true) ∧
    (64 ≤ f.length) ∧
    (f.length ≤ 1518) ∧
    (f.kind = 1) ∧
    (helmTakes f (countHelmRx f.length s) = true) ∧
    (helmHolds (countHelmRx f.length s) = true) :=
  ⟨tDst 0x0103, tLife .fwRestart,
    by decide +kernel⟩

theorem witness_EthernetEventsComplete_13 : ∃ (collided : Bool) (n : Nat) (u : State) (s : State),
    (n = max 1 s.helm.attempts) ∧
    (u = advanceTo (s.dev.now + 51200 * ((Config.freeWord s.dev.fresh).toNat % 2 ^ (min n 10))) (takeFresh s)) ∧
    ((lit s || s.dev.life == .romRecovery) = true) ∧
    ((s.out.any fun o => (helmFrameOf o).isSome) = true) :=
  ⟨true, _, _, tSends,
    rfl, rfl, by decide +kernel⟩

theorem witness_EthernetEventsComplete_14 : ∃ (n : Nat) (u : State) (s : State),
    (n = max 1 s.helm.attempts) ∧
    (u = advanceTo (s.dev.now + 51200 * ((Config.freeWord s.dev.fresh).toNat % 2 ^ (min n 10))) (takeFresh s)) ∧
    ((lit s || s.dev.life == .romRecovery) = true) ∧
    ((s.out.any fun o => (helmFrameOf o).isSome) = true) :=
  ⟨_, _, tSends,
    rfl, rfl, by decide +kernel⟩

theorem witness_EthernetEventsComplete_15 : ∃ (n : Nat) (u : State) (s : State),
    (n = max 1 s.helm.attempts) ∧
    (u = advanceTo (s.dev.now + 51200 * ((Config.freeWord s.dev.fresh).toNat % 2 ^ (min n 10))) (takeFresh s)) ∧
    ((lit s || s.dev.life == .romRecovery) = true) ∧
    ((s.out.any fun o => (helmFrameOf o).isSome) = true) :=
  ⟨_, _, { tSends with helm := { tSends.helm with attempts := 16 } },
    rfl, rfl, by decide +kernel⟩

/-! PowerEventsComplete -/

theorem witness_PowerEventsComplete_0 : ∃ (m : PowerMeas) (t : Nat) (u : State) (s : State),
    (t = nextMultiple s.dev.ticks.enforce 1000) ∧
    (u = powerMod (fun p => { p with meas := m, peak50 := max p.peak50 m.mean50us }) (advanceTo t (tickMod (fun x => { x with enforce := t }) s))) ∧
    (lit s = true) :=
  ⟨tMeas, _, _, tFab,
    rfl, rfl, by decide +kernel⟩

theorem witness_PowerEventsComplete_1 : ∃ (w : WindowMeas) (t : Nat) (u : State) (v : State) (x : State) (s : State),
    (t = nextMultiple s.dev.ticks.division 100000) ∧
    (u = divide w (ceilMod (fun c => { c with phaseMix := phaseShares w }) (learnWindow w (advanceTo t (tickMod (fun x => { x with division := t }) s))))) ∧
    (v = powerMod (fun p => { p with target := chooseSetpoint w u }) (droopMod (fun d => { d with pendingSetpoint := none }) u)) ∧
    (x = (if v.dev.now < v.power.framedAt + 1000 then v else sendVid v)) ∧
    (s.dev.life = .running) :=
  ⟨tWindow, _, _, _, _, { tFab with dev := { tFab.dev with life := .running } },
    rfl, rfl, rfl, rfl, by decide +kernel⟩

theorem witness_PowerEventsComplete_2 : ∃ (t : Nat) (u : State) (s : State),
    (u = powerMod (fun p => { p with validUntil := none }) (advanceTo t s)) ∧
    (lit s = true) ∧
    (s.power.validUntil = some t) :=
  ⟨428000000, _, { tFab with power := { tFab.power with validUntil := some 428000000 } },
    rfl, by decide +kernel⟩

theorem witness_PowerEventsComplete_3 : ∃ (readings : List Int) (t : Nat) (u : State) (s : State),
    (t = nextMultiple s.dev.ticks.sample 10000) ∧
    (u = thermalMod (fun x => { x with readings := readings }) (advanceTo t (tickMod (fun x => { x with sample := t }) s))) ∧
    (lit s = true) ∧
    (readings.length = 48) :=
  ⟨List.replicate 48 0, _, _, tFab,
    rfl, rfl, by decide +kernel⟩

theorem witness_PowerEventsComplete_4 : ∃ (sensor : Nat) (reading : Int) (s : State),
    (sensor < 48) ∧
    (1840 ≤ reading) :=
  ⟨47, 1840, tFab,
    by decide +kernel⟩

theorem witness_PowerEventsComplete_5 : ∃ (t : Nat) (u : State) (s : State),
    (t = nextMultiple s.dev.ticks.thermal 100000) ∧
    (u = advanceTo t (tickMod (fun x => { x with thermal := t }) s)) ∧
    (lit s = true) ∧
    (s.thermal.windowMax = none) :=
  ⟨_, _, tMax none,
    rfl, rfl, by decide +kernel⟩

theorem witness_PowerEventsComplete_6 : ∃ (t : Nat) (u : State) (m : Int) (s : State),
    (t = nextMultiple s.dev.ticks.thermal 100000) ∧
    (u = advanceTo t (tickMod (fun x => { x with thermal := t }) s)) ∧
    (lit s = true) ∧
    (s.thermal.windowMax = some m) ∧
    (1600 ≤ m) :=
  ⟨_, _, 1600, tMax (some 1600),
    rfl, rfl, by decide +kernel⟩

theorem witness_PowerEventsComplete_7 : ∃ (t : Nat) (u : State) (m : Int) (s : State),
    (t = nextMultiple s.dev.ticks.thermal 100000) ∧
    (u = advanceTo t (tickMod (fun x => { x with thermal := t }) s)) ∧
    (lit s = true) ∧
    (s.thermal.windowMax = some m) ∧
    (m ≤ 1552) :=
  ⟨_, _, 1552, tMax (some 1552),
    rfl, rfl, by decide +kernel⟩

theorem witness_PowerEventsComplete_8 : ∃ (t : Nat) (u : State) (m : Int) (s : State),
    (t = nextMultiple s.dev.ticks.thermal 100000) ∧
    (u = advanceTo t (tickMod (fun x => { x with thermal := t }) s)) ∧
    (lit s = true) ∧
    (s.thermal.windowMax = some m) ∧
    (1552 < m) ∧
    (m < 1600) :=
  ⟨_, _, 1599, tMax (some 1599),
    rfl, rfl, by decide +kernel⟩

theorem witness_PowerEventsComplete_9 : ∃ (site : Nat) (mv : Nat) (s : State),
    (lit s = true) ∧
    (site ≤ 16) ∧
    (100 * mv ≤ 97 * s.power.setpoint) ∧
    (s.droop.coreSince = none) :=
  ⟨16, 0, tFab,
    by decide +kernel⟩

theorem witness_PowerEventsComplete_10 : ∃ (site : Nat) (mv : Nat) (s : State),
    (lit s = true) ∧
    (site ≤ 17) ∧
    (100 * mv ≤ 97 * 750) ∧
    (s.droop.islSince = none) :=
  ⟨17, 727, tFab,
    by decide +kernel⟩

theorem witness_PowerEventsComplete_11 : ∃ (s : State),
    (lit s = true) ∧
    (s.droop.coreSince.isSome = true) :=
  ⟨tDroop fun d => { d with coreSince := some 0 },
    by decide +kernel⟩

theorem witness_PowerEventsComplete_12 : ∃ (s : State),
    (lit s = true) ∧
    (s.droop.islSince.isSome = true) :=
  ⟨tDroop fun d => { d with islSince := some 0 },
    by decide +kernel⟩

theorem witness_PowerEventsComplete_13 : ∃ (t : Nat) (u : State) (s : State),
    (u = droopMod (fun d => { d with coreLong := true }) (advanceTo (t + 2000) s)) ∧
    (lit s = true) ∧
    (s.droop.coreSince = some t) ∧
    (s.droop.coreLong = false) :=
  ⟨0, _, tDroop fun d => { d with coreSince := some 0 },
    rfl, by decide +kernel⟩

theorem witness_PowerEventsComplete_14 : ∃ (t : Nat) (u : State) (s : State),
    (u = droopMod (fun d => { d with islLong := true }) (advanceTo (t + 2000) s)) ∧
    (lit s = true) ∧
    (s.droop.islSince = some t) ∧
    (s.droop.islLong = false) :=
  ⟨0, _, tDroop fun d => { d with islSince := some 0 },
    rfl, by decide +kernel⟩

theorem witness_PowerEventsComplete_15 : ∃ (ca : Option Nat) (cb : Option Nat) (a : Nat) (u : State) (s : State),
    ((∀ b, cb = some b → a ≤ b)) ∧
    (u = advanceTo (max a (s.power.framedAt + 1000)) s) ∧
    (lit s = true) ∧
    (ca = deferredDue s.droop.coreSince s.droop.coreRecovered s.droop.pendingSetpoint s.dev.now) ∧
    (cb = deferredDue s.droop.islSince s.droop.islRecovered s.droop.pendingClock s.dev.now) ∧
    (ca = some a) :=
  ⟨some 428000000, none, 428000000, _, tDroop fun d => { d with pendingSetpoint := some 700 },
    fun b (h : (none : Option Nat) = some b) => (nomatch h), rfl, by decide +kernel⟩

theorem witness_PowerEventsComplete_16 : ∃ (ca : Option Nat) (cb : Option Nat) (b : Nat) (s : State),
    ((∀ a, ca = some a → b < a)) ∧
    (lit s = true) ∧
    (ca = deferredDue s.droop.coreSince s.droop.coreRecovered s.droop.pendingSetpoint s.dev.now) ∧
    (cb = deferredDue s.droop.islSince s.droop.islRecovered s.droop.pendingClock s.dev.now) ∧
    (cb = some b) :=
  ⟨none, some 428000000, 428000000, tDroop fun d => { d with pendingClock := some 1200 },
    fun _ h => (nomatch h), by decide +kernel⟩

theorem witness_PowerEventsComplete_17 : ∃ (report : List MarginReport) (t : Nat) (s : State),
    (t = nextMultiple s.dev.ticks.ageing 3600000000000) ∧
    (lit s = true) :=
  ⟨[], _, tFab,
    rfl, by decide +kernel⟩

/-! SecurityEventsComplete -/

theorem witness_SecurityEventsComplete_0 : ∃ (entropy : BitVec 384) (u : State) (s : State),
    (u = (if 2 ^ 20 ≤ s.sec.drbgRequests then s else advanceTo (s.sec.drbgAt + 1000000000) s)) ∧
    (lit s = true) :=
  ⟨0, _, tSec,
    rfl, by decide +kernel⟩

theorem witness_SecurityEventsComplete_1 : ∃ (lane : Nat) (s : State),
    (lit s = true) ∧
    (s.sec.errorState = false) :=
  ⟨19, tSec,
    by decide +kernel⟩

theorem witness_SecurityEventsComplete_2 : ∃ (lane : Nat) (passed : Bool) (l : Lane) (u : State) (s : State),
    (u = secMod (fun x => { x with lanes := tabMod x.lanes lane fun y => { y with katAt := (advanceTo (l.katAt + 100000000) s).dev.now } }) (advanceTo (l.katAt + 100000000) s)) ∧
    (lit s = true) ∧
    (tabGet s.sec.lanes lane = some l) :=
  ⟨19, true, { maskAt := 428000000, katAt := 428000000 }, _, tSec,
    rfl, by decide +kernel⟩

theorem witness_SecurityEventsComplete_3 : ∃ (failing : W64) (t : Nat) (u : State) (s : State),
    (t = nextMultiple s.dev.ticks.selftest 86400000000000) ∧
    (u = advanceTo t { s with dev := { s.dev with ticks := { s.dev.ticks with selftest := t } } }) ∧
    (lit s = true) :=
  ⟨0, _, _, tSec,
    rfl, rfl, by decide +kernel⟩

theorem witness_SecurityEventsComplete_4 : ∃ (offer : W64) (o : Offer) (s : State),
    (lit s = true) ∧
    (tabGet s.sec.offers offer.toNat = some o) :=
  ⟨0, { openedAt := 428000000, draw := 0, digest := 0 }, { tSec with sec := { tSec.sec with offers := [(0, { openedAt := 428000000, draw := 0, digest := 0 })] } },
    by decide +kernel⟩

theorem witness_SecurityEventsComplete_5 : ∃ (t : Nat) (s : State),
    (lit s = true) ∧
    (s.sec.sessionAt = some t) :=
  ⟨428000000, tSec,
    by decide +kernel⟩

theorem witness_SecurityEventsComplete_6 : ∃ (qp : Nat) (unit : Nat) (own : Bool) (msg : W32) (q : Qp) (u : RxUnit) (v : State) (s : State),
    (v = postRecord q.conf.fn (.sealFailure true u.dva qp unit msg) (unitMod qp own msg unit (fun x => { x with zeroing := false }) (qpMod qp (fun x => { x with sealing := x.sealing.map fun z => { z with failedUnits := z.failedUnits + 1 } }) s))) ∧
    (lit s = true) ∧
    (qpGet s qp = some q) ∧
    (findUnit q own msg unit = some u) ∧
    (u.zeroing = true) ∧
    (3 ≤ u.fails) :=
  ⟨5, 0, false, 0, tUnits (tUnit 3 true), tUnit 3 true, _, tZero (tUnit 3 true),
    rfl, by decide +kernel⟩

theorem witness_SecurityEventsComplete_7 : ∃ (qp : Nat) (unit : Nat) (own : Bool) (msg : W32) (q : Qp) (u : RxUnit) (v : State) (key : BitVec 288) (x : State) (s : State),
    (v = postRecord q.conf.fn (.sealFailure true u.dva qp unit msg) (unitMod qp own msg unit (fun x => { x with zeroing := false }) (qpMod qp (fun x => { x with sealing := x.sealing.map fun z => { z with failedUnits := z.failedUnits + 1 } }) s))) ∧
    (x = u.data.foldl (fun t d => placeAt q.conf.fn (u.dva + d.1) (gcmXor key u.ctr d.1 d.2) (unitCont qp u) t) v) ∧
    (openKey v qp q u.phase = some key) ∧
    (lit s = true) ∧
    (qpGet s qp = some q) ∧
    (findUnit q own msg unit = some u) ∧
    (u.zeroing = true) ∧
    (u.fails < 3) ∧
    (u.failed = false) := by
  obtain ⟨k, hk⟩ := Option.isSome_iff_exists.1 (show (openKey (tZeroed (tUnit 2 false)) 5 (tUnits (tUnit 2 false)) false).isSome = true by decide +kernel)
  exact ⟨5, 0, false, 0, tUnits (tUnit 2 false), tUnit 2 false, tZeroed (tUnit 2 false), k, _, tZero (tUnit 2 false), rfl, rfl, hk, by decide +kernel⟩

theorem witness_SecurityEventsComplete_8 : ∃ (qp : Nat) (unit : Nat) (own : Bool) (msg : W32) (q : Qp) (u : RxUnit) (v : State) (s : State),
    (v = postRecord q.conf.fn (.sealFailure true u.dva qp unit msg) (unitMod qp own msg unit (fun x => { x with zeroing := false }) (qpMod qp (fun x => { x with sealing := x.sealing.map fun z => { z with failedUnits := z.failedUnits + 1 } }) s))) ∧
    (lit s = true) ∧
    (qpGet s qp = some q) ∧
    (findUnit q own msg unit = some u) ∧
    (u.zeroing = true) ∧
    (u.fails < 3) ∧
    (u.failed = true) :=
  ⟨5, 0, false, 0, tUnits (tUnit 2 true), tUnit 2 true, _, tZero (tUnit 2 true),
    rfl, by decide +kernel⟩

/-! TarnEventsComplete -/

theorem witness_TarnEventsComplete_0 : ∃ (tarn : Nat) (s : State),
    (lit s = true) ∧
    (tarn < 4) ∧
    (bit s.dev.inventory.tarns.toNat tarn = true) :=
  ⟨3, tFab,
    by decide +kernel⟩

theorem witness_TarnEventsComplete_1 : ∃ (tarn : Nat) (corrected : List ScrubHit) (s : State),
    (lit s = true) ∧
    (tarn < 4) ∧
    (bit s.dev.inventory.tarns.toNat tarn = true) :=
  ⟨3, [], tFab,
    by decide +kernel⟩

theorem witness_TarnEventsComplete_2 : ∃ (tarn : Nat) (channel : Nat) (bank : Nat) (row : Nat) (c : Nat) (r : RowRepair) (u : State) (s : State),
    (c = 64 * tarn + channel) ∧
    (u = tarnMod (fun t => { t with repairs := t.repairs.erase r, scrubHits := t.scrubHits.filter (fun h => !(h.bank == 32 * c + bank && h.row == row)) }) s) ∧
    (lit s = true) ∧
    (s.tarns.repairs.find? (fun r => r.channel == c && (r.place == some (bank, row) || r.place.isNone)) = some r) ∧
    (8 ≤ (tabGet s.tarns.spares (32 * c + bank)).getD 0) :=
  ⟨3, 63, 31, 8, _, { channel := 255, place := some (31, 8) }, _, tRepairs 8,
    rfl, rfl, by decide +kernel⟩

theorem witness_TarnEventsComplete_3 : ∃ (tarn : Nat) (channel : Nat) (bank : Nat) (row : Nat) (c : Nat) (r : RowRepair) (u : State) (s : State),
    (c = 64 * tarn + channel) ∧
    (u = tarnMod (fun t => { t with repairs := t.repairs.erase r, scrubHits := t.scrubHits.filter (fun h => !(h.bank == 32 * c + bank && h.row == row)) }) s) ∧
    (lit s = true) ∧
    (s.tarns.repairs.find? (fun r => r.channel == c && (r.place == some (bank, row) || r.place.isNone)) = some r) ∧
    ((tabGet s.tarns.spares (32 * c + bank)).getD 0 < 8) :=
  ⟨3, 63, 31, 7, _, { channel := 255, place := some (31, 7) }, _, tRepairs 7,
    rfl, rfl, by decide +kernel⟩

theorem witness_TarnEventsComplete_5 : ∃ (tarn : Nat) (channel : Nat) (s : State),
    (lit s = true) ∧
    (bit s.tarns.tarnLost.toNat tarn = false) :=
  ⟨3, 63, tFab,
    by decide +kernel⟩

theorem witness_TarnEventsComplete_6 : ∃ (tarn : Nat) (channel : Nat) (c : Nat) (s : State),
    (c = 64 * tarn + channel) ∧
    (lit s = true) ∧
    (s.dev.profile = .efficiency) ∧
    (holdActive s = false) ∧
    (tarn < 4 ∧ channel < 64) ∧
    (bit s.tarns.usable.toNat c = true) ∧
    (s.tarns.powerDown.contains c = false) :=
  ⟨3, 63, _, tIn .efficiency,
    rfl, by decide +kernel⟩

/-! TarnLossesComplete -/

theorem witness_TarnLossesComplete_0 : ∃ (tpa : Nat) (u : State) (s : State),
    (u = startRepair (granuleChannel s (tpa / 256)) none s) ∧
    (lit s = true) ∧
    (tpa < 0x3900000000) ∧
    (tpa < areaEnd s) :=
  ⟨0, _, tFab,
    rfl, by decide +kernel⟩

theorem witness_TarnLossesComplete_1 : ∃ (tpa : Nat) (u : State) (s : State),
    (u = startRepair (granuleChannel s (tpa / 256)) none s) ∧
    (lit s = true) ∧
    (tpa < 0x3900000000) ∧
    (areaEnd s ≤ tpa) :=
  ⟨0x38FFFFFFFF, _, { tFab with tarns := { tFab.tarns with usable := 0 } },
    rfl, by decide +kernel⟩

theorem witness_TarnLossesComplete_2 : ∃ (tpa : Nat) (r : Nat × Nat) (u : State) (s : State),
    (u = startRepair (granuleChannel s (tpa / 256)) none s) ∧
    (r = reservedOf tpa) ∧
    (lit s = true) ∧
    (0x3900000000 ≤ tpa) ∧
    (tpa < 2 ^ 38) ∧
    (r.2 < 0x80000000) :=
  ⟨0x3900000000 + 0x7FFFFFFF, _, _, tFab,
    rfl, rfl, by decide +kernel⟩

theorem witness_TarnLossesComplete_3 : ∃ (tpa : Nat) (r : Nat × Nat) (u : State) (s : State),
    (u = startRepair (granuleChannel s (tpa / 256)) none s) ∧
    (r = reservedOf tpa) ∧
    (lit s = true) ∧
    (0x3900000000 ≤ tpa) ∧
    (tpa < 2 ^ 38) ∧
    (0x80000000 ≤ r.2) ∧
    (r.2 < 0x180000000) :=
  ⟨0x3900000000 + 0x17FFFFFFF, _, _, tFab,
    rfl, rfl, by decide +kernel⟩

theorem witness_TarnLossesComplete_4 : ∃ (tpa : Nat) (r : Nat × Nat) (u : State) (s : State),
    (u = startRepair (granuleChannel s (tpa / 256)) none s) ∧
    (r = reservedOf tpa) ∧
    (lit s = true) ∧
    (0x3900000000 ≤ tpa) ∧
    (tpa < 2 ^ 38) ∧
    (0x180000000 ≤ r.2) :=
  ⟨0x3900000000 + 0x1BFFFFFFF, _, _, tFab,
    rfl, rfl, by decide +kernel⟩

theorem witness_TarnLossesComplete_5 : ∃ (tarn : Nat) (channel : Nat) (n : Nat) (u : State) (v : State) (s : State),
    (n = 64 * tarn + channel) ∧
    (u = tarnMod (fun t => { t with usable := t.usable &&& ~~~ (BitVec.ofNat 256 (2 ^ n)), remirror := t.remirror ++ [n], powerDown := t.powerDown.filter (· != n) }) (loseArea .channelLost (raiseEvent .channelLost 0 nodeSelf n 0 (flushCrossing (10 + tarn) s)))) ∧
    (v = wantRebuild (loseSpill (loseRecords u))) ∧
    (lit s = true) ∧
    (tarn < 4) ∧
    (bit s.dev.inventory.tarns.toNat tarn = true) ∧
    (channel < 64) ∧
    (bit s.tarns.usable.toNat n = true) :=
  ⟨3, 63, _, _, _, tFab,
    rfl, rfl, rfl, by decide +kernel⟩

theorem witness_TarnLossesComplete_6 : ∃ (fn : Nat) (host : List HostEntry) (a : AddrSpace) (u : State) (kept : List Nat) (s : State),
    (u = tarnMod (fun t => { t with rebuild := t.rebuild.filter (· != fn) }) (spaceMod fn (fun x => { x with pages := rebuiltPages s fn a host, epoch := x.epoch + 1 }) s)) ∧
    (kept = syncBacking u fn true ++ syncBacking u fn false) ∧
    (lit s = true) ∧
    (tabGet s.spaces fn = some a) ∧
    (s.tarns.rebuild.contains fn = true) ∧
    (dmaBarred s fn = false) :=
  ⟨0, [], tAddr, _, _, tRebuild,
    rfl, rfl, by decide +kernel⟩

theorem witness_TarnLossesComplete_7 : ∃ (tarn : Nat) (s : State),
    (lit s = true) ∧
    (tarn < 4) ∧
    (bit s.dev.inventory.tarns.toNat tarn = true) :=
  ⟨3, tFab,
    by decide +kernel⟩

/-! FaultEventsComplete -/

theorem witness_FaultEventsComplete_0 : ∃ (fn : Nat) (head : W32) (s : State),
    (lit s = true) ∧
    ((waiters s fn).isEmpty = false) ∧
    (dmaBarred s fn = false) :=
  ⟨0, 0, { tRun with spaces := [(0, tWait)] },
    by decide +kernel⟩

theorem witness_FaultEventsComplete_1 : ∃ (t : Nat) (u : State) (s : State),
    (t = nextMultiple s.dev.ticks.aggUpdate 100000) ∧
    (u = advanceTo t { s with dev := { s.dev with ticks := { s.dev.ticks with aggUpdate := t } } }) ∧
    (lit s = true) :=
  ⟨_, _, tFab,
    rfl, rfl, by decide +kernel⟩

theorem witness_FaultEventsComplete_2 : ∃ (t : Nat) (u : State) (s : State),
    (t = nextMultiple s.dev.ticks.aggClose 100000) ∧
    (u = advanceTo t { s with dev := { s.dev with ticks := { s.dev.ticks with aggClose := t } } }) ∧
    (lit s = true) :=
  ⟨_, _, tFab,
    rfl, rfl, by decide +kernel⟩

/-! FirmwareEventsComplete -/

theorem witness_FirmwareEventsComplete_0 : ∃ (t : Nat) (u : State) (s : State),
    (t = nextMultiple s.dev.ticks.heartbeat 1000000) ∧
    (u = advanceTo t (tickMod (fun x => { x with heartbeat := t }) s)) ∧
    (s.dev.life = .running) ∧
    (heartbeatCounts s t = true) :=
  ⟨_, _, tLife .running,
    rfl, rfl, by decide +kernel⟩

theorem witness_FirmwareEventsComplete_1 : ∃ (t : Nat) (u : State) (s : State),
    (t = nextMultiple s.dev.ticks.heartbeat 1000000) ∧
    (u = advanceTo t (tickMod (fun x => { x with heartbeat := t }) s)) ∧
    (s.dev.life = .running) ∧
    (heartbeatCounts s t = false) :=
  ⟨_, _, { tLife .running with dev := { (tLife .running).dev with coreLostAt := some 428000000 } },
    rfl, rfl, by decide +kernel⟩

theorem witness_FirmwareEventsComplete_2 : ∃ (s : State),
    (s.dev.life = .running) :=
  ⟨tLife .running,
    by decide +kernel⟩

theorem witness_FirmwareEventsComplete_3 : ∃ (u : State) (v : State) (s : State),
    (u = takeFresh (advanceTo (s.dev.lastLiveness + 100000000 + 1000 * ((Config.freeWord s.dev.fresh).toNat % 120001)) s)) ∧
    (v = devMod (fun d => { d with life := .running, lastLiveness := u.dev.now, ticks := { d.ticks with heartbeat := u.dev.now } }) u) ∧
    (s.dev.life = .fwRestart) :=
  ⟨_, _, tLife .fwRestart,
    rfl, rfl, by decide +kernel⟩

theorem witness_FirmwareEventsComplete_4 : ∃ (u : State) (s : State),
    (u = takeFresh (advanceTo (s.dev.lastLiveness + 100000000 + 1000 * ((Config.freeWord s.dev.fresh).toNat % 120001)) s)) ∧
    (s.dev.life = .fwRestart) :=
  ⟨_, tLife .fwRestart,
    rfl, by decide +kernel⟩

/-! LifecycleEventsComplete -/

theorem witness_LifecycleEventsComplete_0 : ∃ (straps : Straps) (selftest : List TestResult) (clocksOk : Bool) (suppliesOk : Bool) (s : State),
    (s.dev.life = .inReset) :=
  ⟨tStraps, [], true, true, tLife .inReset,
    by decide +kernel⟩

theorem witness_LifecycleEventsComplete_1 : ∃ (rail : Nat) (s : State),
    (rail < 9) :=
  ⟨8, tFab,
    by decide +kernel⟩

theorem witness_LifecycleEventsComplete_2 : ∃ (s : State),
    (s.dev.life = .starting ∨ s.dev.life = .restarting) :=
  ⟨tLife .starting,
    by decide +kernel⟩

theorem witness_LifecycleEventsComplete_3 : ∃ (imageOk : Bool) (crypto : W64) (s : State),
    (s.dev.life = .starting) :=
  ⟨true, 0, tLife .starting,
    by decide +kernel⟩

theorem witness_LifecycleEventsComplete_4 : ∃ (straps : Straps) (selftest : List TestResult) (clocksOk : Bool) (suppliesOk : Bool) (t : Nat) (kind : StartKind) (s : State),
    (s.dev.resetDue = some (t, kind)) ∧
    ((lit s || s.dev.life == .romRecovery) = true) ∧
    (placementsOpen s = false) :=
  ⟨tStraps, [], true, true, 428000000, .railsHeld, tDue,
    by decide +kernel⟩

theorem witness_LifecycleEventsComplete_5 : ∃ (imageOk : Bool) (crypto : W64) (s : State),
    (s.dev.life = .restarting) :=
  ⟨true, 0, tLife .restarting,
    by decide +kernel⟩

theorem witness_LifecycleEventsComplete_6 : ∃ (highNs : Nat) (s : State),
    ((∀ t, s.dev.ppsEdgeAt = some t → t + 100000000 ≤ s.dev.now)) ∧
    (20 ≤ highNs) :=
  ⟨20, tFab,
    (fun t h => nomatch (show (none : Option Nat) = some t from h)), by decide +kernel⟩

theorem witness_LifecycleEventsComplete_7 : ∃ (highNs : Nat) (t : Nat) (s : State),
    (20 ≤ highNs) ∧
    (s.dev.ppsEdgeAt = some t) ∧
    (s.dev.now < t + 100000000) :=
  ⟨20, 428000000, { tFab with dev := { tFab.dev with ppsEdgeAt := some 428000000 } },
    by decide +kernel⟩

theorem witness_LifecycleEventsComplete_9 : ∃ (shoal : Nat) (s : State),
    (lit s = true) ∧
    (bit s.dev.inventory.shoals.toNat shoal = true) :=
  ⟨15, tFab,
    by decide +kernel⟩

/-! StartAndTestPortEventsComplete -/

theorem witness_StartAndTestPortEventsComplete_0 : ∃ (core : Nat) (s : State),
    (lit s = true) ∧
    (bit s.dev.inventory.cores.toNat core = true) :=
  ⟨11, tFab,
    by decide +kernel⟩

theorem witness_StartAndTestPortEventsComplete_1 : ∃ (t : Nat) (u : State) (s : State),
    (u = advanceTo (t + 1000000) s) ∧
    (lit s = true) ∧
    (s.dev.coreLostAt = some t) :=
  ⟨428000000, _, { tFab with dev := { tFab.dev with coreLostAt := some 428000000 } },
    rfl, by decide +kernel⟩

theorem witness_StartAndTestPortEventsComplete_2 : ∃ (s : State),
    (s.dev.life = .waitingRefs) :=
  ⟨tLife .waitingRefs,
    by decide +kernel⟩

theorem witness_StartAndTestPortEventsComplete_3 : ∃ (link : PcieTrained) (s : State),
    (s.pcie.linkUp = false) ∧
    (s.pcie.perst = false) ∧
    (s.pcie.trainBy.isSome = true) ∧
    ([1, 2, 4, 8, 16].contains link.width = true) ∧
    (linkRates.contains link.rate = true) :=
  ⟨{ width := 16, rate := 1280, partnerFlit := true }, { tFab with pcie := { tFab.pcie with linkUp := false, perst := false, trainBy := some 0 } },
    by decide +kernel⟩

theorem witness_StartAndTestPortEventsComplete_5 : ∃ (shoal : Nat) (unit : Nat) (t : Nat) (s : State),
    (lit s = true) ∧
    (tabGet s.ramp.idleSince (128 * shoal + unit) = some t) ∧
    (s.cache.hold = false) ∧
    (s.ramp.active.contains (128 * shoal + unit) = true) :=
  ⟨15, 127, 0, { tFab with ramp := { freshRamp with idleSince := [(2047, 0)], active := [2047] } },
    by decide +kernel⟩

theorem witness_StartAndTestPortEventsComplete_6 : ∃ (link : Nat) (l : Link) (s : State),
    (lit s = true) ∧
    (linkGet s link = some l) ∧
    (l.up = true) ∧
    (l.rxLpi = false) :=
  ⟨0, { freshLink with up := true }, tRings,
    by decide +kernel⟩

theorem witness_StartAndTestPortEventsComplete_9 : ∃ (tms : Bool) (tdi : Bool) (s : State),
    (s.jtag.trst = false) :=
  ⟨true, false, { tFab with jtag := { tFab.jtag with trst := false } },
    by decide +kernel⟩

/-! ### The statements that hold for every command -/

theorem tInv (s : State) (h1 : s.tarns.mem = State.reset.tarns.mem) (h2 : s.jtag = State.reset.jtag) (h3 : s.helm = State.reset.helm)
    (h4 : s.power = State.reset.power) : Inv s := by
  unfold Inv
  rw [h1, h2, h3, h4]
  exact ⟨rfl, fun _ => ⟨rfl, rfl⟩, ⟨by decide, by decide⟩, fun h => absurd rfl h, ⟨by decide, by decide⟩, by decide, by decide⟩

theorem tRuns (o : Host.Outcome State Fault Refusal) (h : (match o with | .next _ => true | .fault _ | .refused _ => false) = true) :
    ∃ t, o = .next t := by
  cases o with
  | next t => exact ⟨t, rfl⟩
  | fault _ => cases h
  | refused _ => cases h

theorem witness_StepRunsTheFrontCommand : ∃ s : State, s.pending = [] := by
  exact ⟨State.reset, rfl⟩

theorem witness_StoppedRingsAreIgnored : ∀ m ∈ [FnMode.stopping, .stopped, .resetting, .held], ∃ s : State, fnModeOf s 0 = m := by
  exact fun m _ => ⟨tFn (tHeld m none), rfl⟩

theorem witness_HeldFunctionsTakeNoReset : ∃ (c : Cmd) (s u : State), fnModeOf s 1 = .resetting ∧ accepts specFnReset c u s ∧ namedOf c = 1 := by
  exact ⟨{ tCmd 0 0 with function := 1 }, consumeSlot ({ tCmd 0 0 with function := 1 }) ({ tVf with fns := tRun.fns ++ [(1, tHeld .resetting (some 0))] }), { tVf with fns := tRun.fns ++ [(1, tHeld .resetting (some 0))] }, by decide +kernel, ⟨by decide +kernel, rfl, by decide +kernel⟩, by decide +kernel⟩

theorem witness_HeldFunctionsTakeNoReset_held : ∃ s : State, fnModeOf s 1 = .held := by
  exact ⟨{ tVf with fns := tRun.fns ++ [(1, tHeld .held (some 0))] }, by decide +kernel⟩

theorem witness_ThermalCeiling : ∀ m ∈ [(1600 : Int), 1552, 1599], ∃ s : State, lit s = true ∧ s.thermal.windowMax = some m := by
  exact fun m _ => ⟨tMax (some m), (by decide +kernel : lit tFab = true), rfl⟩

theorem witness_RefusedCommandsHaveNoEffect : ∃ (i : Instr) (sp : CmdSpec) (c : Cmd) (s : State) (e : Status), commandOf i = some (sp, c) ∧ takesCommand sp c s = true ∧
    cmdCheck sp c (consumeSlot c s) = some e ∧ (∀ d, i = .qpConnect d → connectWaits d s = false) := by
  exact ⟨.devTime ({ tCmd 0 0 with rsvd := 1 }), specDevTime, { tCmd 0 0 with rsvd := 1 }, tS, .invalidParam, rfl, by decide +kernel, by decide +kernel, fun _ h => by cases h⟩

theorem witness_RefusedCommandsHaveNoEffect_connect : ∃ (i : Instr) (sp : CmdSpec) (c : Cmd) (s : State) (e : Status), commandOf i = some (sp, c) ∧ takesCommand sp c s = true ∧
    cmdCheck sp c (consumeSlot c s) = some e ∧ (∀ d, i = .qpConnect d → connectWaits d s = false) ∧ i = .qpConnect c := by
  exact ⟨.qpConnect ({ tCmd 0 0 with rsvd := 1 }), specQpConnect, { tCmd 0 0 with rsvd := 1 }, tNet, .invalidParam, rfl, by decide +kernel, by decide +kernel, fun _ h => by cases h; decide +kernel, rfl⟩

theorem witness_FullReplyRingHoldsCommandsBack : ∃ (i : Instr) (sp : CmdSpec) (c : Cmd) (s : State) (fn : Nat) (f : Function), commandOf i = some (sp, c) ∧ c.origin = .ring fn ∧ fnGet s fn = some f ∧
    2 ^ bits f.channel.ringSizes.toNat 8 5 - (f.channel.replyIndex - f.channel.replyHead).toNat <
      2 + (s.commands.filter fun p => p.origin == Origin.ring fn && p.heldFor.isNone).length := by
  exact ⟨.devTime (tCmd 0 0), specDevTime, tCmd 0 0, tFn ({ freshFunction false with channel := { freshChannel with mode := .ready, ringSizes := 0x0808, replyIndex := 255 } }), 0, { freshFunction false with channel := { freshChannel with mode := .ready, ringSizes := 0x0808, replyIndex := 255 } }, rfl, rfl, rfl, by decide +kernel⟩

theorem witness_NoCommandTouchesTheQueue : ∃ (c : Instr) (s t : State), Inv s ∧ exec c s = .next t ∧ s.pending ≠ [] := by
  obtain ⟨t, ht⟩ := tRuns (exec (.devTime (tCmd 0 0)) ({ tRun with pending := [.refresh 0] })) (by decide +kernel)
  exact ⟨(.devTime (tCmd 0 0)), { tRun with pending := [.refresh 0] }, t, tInv _ rfl rfl rfl rfl, ht, by decide +kernel⟩

theorem witness_TimeNeverGoesBack : ∃ (c : Instr) (s t : State), Inv s ∧ (∀ a b d e, c ≠ .powerOnRelease a b d e) ∧ exec c s = .next t := by
  obtain ⟨t, ht⟩ := tRuns (exec (.refresh 3) (tFab)) (by decide +kernel)
  exact ⟨.refresh 3, tFab, t, tInv _ rfl rfl rfl rfl, fun _ _ _ _ h => (by cases h), ht⟩

theorem witness_ThermtripHolds : ∃ (c : Instr) (s t : State), Inv s ∧ s.dev.life = .tripped ∧ (∀ rail, c ≠ .railOutOfTolerance rail) ∧ exec c s = .next t := by
  obtain ⟨t, ht⟩ := tRuns (exec (.thermtrip 47 1840) (tLife .tripped)) (by decide +kernel)
  exact ⟨.thermtrip 47 1840, tLife .tripped, t, tInv _ rfl rfl rfl rfl, rfl, fun _ h => (by cases h), ht⟩

theorem witness_TarnMemoryFrame : ∃ (c : Instr) (s t : State), Inv s ∧ exec c s = .next t ∧ mayChange .tarnMemory c = false := by
  obtain ⟨t, ht⟩ := tRuns (exec (.devTime (tCmd 0 0)) (tRun)) (by decide +kernel)
  exact ⟨(.devTime (tCmd 0 0)), tRun, t, tInv _ rfl rfl rfl rfl, ht, rfl⟩

theorem witness_RegionFrame : ∃ (c : Instr) (s t : State), Inv s ∧ exec c s = .next t ∧ mayChange .regions c = false ∧ mayChange .retiredKeys c = false ∧ mayChange .missSlots c = false ∧ mayChange .missWait c = false := by
  obtain ⟨t, ht⟩ := tRuns (exec (.devTime (tCmd 0 0)) (tRun)) (by decide +kernel)
  exact ⟨(.devTime (tCmd 0 0)), tRun, t, tInv _ rfl rfl rfl rfl, ht, rfl, rfl, rfl, rfl⟩

theorem witness_QueueFrame : ∃ (c : Instr) (s t : State), Inv s ∧ exec c s = .next t ∧ mayChange .submissionRings c = false ∧ mayChange .sharedQueues c = false ∧ mayChange .scheduling c = false := by
  obtain ⟨t, ht⟩ := tRuns (exec (.devTime (tCmd 0 0)) (tRun)) (by decide +kernel)
  exact ⟨(.devTime (tCmd 0 0)), tRun, t, tInv _ rfl rfl rfl rfl, ht, rfl, rfl, rfl⟩

theorem witness_ComputeFrame : ∃ (c : Instr) (s t : State), Inv s ∧ exec c s = .next t ∧ mayChange .collectives c = false ∧ mayChange .cachePools c = false ∧ mayChange .operators c = false ∧ mayChange .rampLimiter c = false := by
  obtain ⟨t, ht⟩ := tRuns (exec (.devTime (tCmd 0 0)) (tRun)) (by decide +kernel)
  exact ⟨(.devTime (tCmd 0 0)), tRun, t, tInv _ rfl rfl rfl rfl, ht, rfl, rfl, rfl, rfl⟩

theorem witness_SecurityFrame : ∃ (c : Instr) (s t : State), Inv s ∧ exec c s = .next t ∧ mayChange .security c = false := by
  obtain ⟨t, ht⟩ := tRuns (exec (.devTime (tCmd 0 0)) (tRun)) (by decide +kernel)
  exact ⟨(.devTime (tCmd 0 0)), tRun, t, tInv _ rfl rfl rfl rfl, ht, rfl⟩

theorem witness_PowerFrame : ∃ (c : Instr) (s t : State), Inv s ∧ exec c s = .next t ∧ mayChange .power c = false ∧ mayChange .thermal c = false ∧ mayChange .droop c = false ∧ mayChange .ceilings c = false := by
  obtain ⟨t, ht⟩ := tRuns (exec (.devTime (tCmd 0 0)) (tRun)) (by decide +kernel)
  exact ⟨(.devTime (tCmd 0 0)), tRun, t, tInv _ rfl rfl rfl rfl, ht, rfl, rfl, rfl, rfl⟩

theorem witness_PinFrame : ∃ (c : Instr) (s t : State), Inv s ∧ exec c s = .next t ∧ mayChange .hostLink c = false ∧ mayChange .startResults c = false ∧ mayChange .testPort c = false := by
  obtain ⟨t, ht⟩ := tRuns (exec (.devTime (tCmd 0 0)) (tRun)) (by decide +kernel)
  exact ⟨(.devTime (tCmd 0 0)), tRun, t, tInv _ rfl rfl rfl rfl, ht, rfl, rfl, rfl⟩

theorem witness_WindowWritesStoreTheirBytes : ∃ (fn offset dva : Nat) (bytes : List Byte) (s t : State) (x i p a : Nat), Inv s ∧ lit s = true ∧ bar4Target s fn offset bytes.length true = .ok dva ∧
    exec (.bar4Write fn offset bytes) s = .next t ∧
    (∀ q ∈ pieces (bytes.length / 4096 + 2) dva bytes, ∀ p a, Machine.translate s fn q.1 = some (.tarn, p, a) → x < a ∨ a + q.2.length ≤ x) ∧
    bytes.length ≤ 4096 - dva % 4096 ∧ Machine.translate s fn dva = some (.tarn, p, a) ∧ i < bytes.length := by
  obtain ⟨t, ht⟩ := tRuns (exec (.bar4Write 0 65535 [7]) (tBar)) (by decide +kernel)
  have hp : pieces 2 65535 [7] = [(65535, [7])] := by decide +kernel
  have ht' : Machine.translate tBar 0 65535 = some (.tarn, 0, 65535) := by decide +kernel
  refine ⟨0, 65535, 65535, [7], tBar, t, 65536, 0, 0, 65535, tInv _ rfl rfl rfl rfl, by decide +kernel, by decide +kernel, ht, ?_, by decide +kernel, ht', by decide +kernel⟩
  intro q hq p a h
  rw [show ([7] : List Byte).length / 4096 + 2 = 2 from rfl, hp] at hq
  cases hq with
  | head =>
    rw [ht'] at h
    cases h
    exact .inr (by decide)
  | tail _ h' => cases h'

theorem witness_ScrubStoresOnlyItsWords : ∃ (tarn : Nat) (corrected : List ScrubHit) (s t : State), Inv s ∧ exec (.patrolScrub tarn corrected) s = .next t ∧
    ∀ x ∈ [63, 128], ∀ h ∈ corrected, h.overwritten = false → x < h.tpa ∨ h.tpa + 64 ≤ x := by
  obtain ⟨t, ht⟩ := tRuns (exec (.patrolScrub 3 [{ channel := 0, bank := 0, row := 0, tpa := 64, word := List.replicate 64 0, overwritten := false }]) (tFab)) (by decide +kernel)
  exact ⟨3, [{ channel := 0, bank := 0, row := 0, tpa := 64, word := List.replicate 64 0, overwritten := false }], tFab, t, tInv _ rfl rfl rfl rfl, ht, by decide +kernel⟩

theorem witness_StepsKeepTheInvariant : ∃ s t : State, Inv s ∧ s.pending ≠ [] ∧ step s = .next t := by
  obtain ⟨t, ht⟩ := tRuns (step { tRun with pending := [.devTime (tCmd 0 0)] }) (by decide +kernel)
  exact ⟨{ tRun with pending := [.devTime (tCmd 0 0)] }, t, tInv _ rfl rfl rfl rfl, by decide +kernel, ht⟩

theorem witness_TarnBytesHaveOnePlace : ∃ a b page c t r : Nat, a < 2 ^ 38 ∧ b < 2 ^ 38 ∧ tarnPlace a = tarnPlace b ∧ page < 0x390000 ∧ c < 256 ∧ t < 4 ∧ r < 0x1C0000000 := by
  exact ⟨2 ^ 38 - 1, 2 ^ 38 - 1, 0x38FFFF, 255, 3, 0x1C0000000 - 1, by decide +kernel⟩

theorem witness_JournalRecordsCarryTheirCheck : ∃ (s : State) (rec : Nat) (x : JournalRec), tabGet s.journal rec = some x := by
  exact ⟨tWk 0x31 1, 4, .work (tWork 0x31 1), rfl⟩

/-! ### Values that the spec gives -/

/-- Ring 512 of PF0 is the first of the second doorbell page (R34). -/
theorem test_doorbell_offset : doorbellRing 0 0x2000 = some 512 ∧ doorbellRing 0 0x1008 = some 1 ∧ doorbellRing 1 0x11000 = none ∧
    doorbellRing 0 0x11000 = some 8192 := by decide +kernel

/-- The granule after the first lies in tarn 1, the fifth in channel 1 of tarn 0 (R334), and the reserved areas begin at 912 MiB (R335). -/
theorem test_tarn_place : tarnPlace 256 = (64, 0) ∧ tarnPlace 1024 = (1, 0) ∧ tarnPlace 65536 = (0, 256) ∧ tarnPlace 0x3900000000 = (0, 0x39000000) := by
  decide +kernel

end Sys2Proof.Tests
end

section
/-! SUPPORT. What every command keeps, put together from what each command's own part keeps (Laws/Keeps*.lean): the queue, the invariant, a
lodestar time that does not fall, a trip, and the parts of the state that `mayChange` does not list for the command. -/

namespace Sys2Proof.Machine

/-- `k` holds no part that `mayChange` lists for the command `c`: what the command keeps may be held against `k`. -/
structure Kept.Spares (k : Kept) (c : Instr) : Prop where
  mem : mayChange .tarnMemory c = true → k.mem = none
  regions : mayChange .regions c = true → k.regions = none
  retired : mayChange .retiredKeys c = true → k.retired = none
  sqs : mayChange .submissionRings c = true → k.sqs = none
  srqs : mayChange .sharedQueues c = true → k.srqs = none
  sched : mayChange .scheduling c = true → k.sched = none
  coll : mayChange .collectives c = true → k.coll = none
  cache : mayChange .cachePools c = true → k.cache = none
  ramp : mayChange .rampLimiter c = true → k.ramp = none
  opers : mayChange .operators c = true → k.opers = none
  sec : mayChange .security c = true → k.sec = none
  power : mayChange .power c = true → k.power = none
  thermal : mayChange .thermal c = true → k.thermal = none
  droop : mayChange .droop c = true → k.droop = none
  ceilings : mayChange .ceilings c = true → k.ceilings = none
  start : mayChange .startResults c = true → k.start = none
  pcie : mayChange .hostLink c = true → k.pcie = none
  jtag : mayChange .testPort c = true → k.jtag = none
  missSlots : mayChange .missSlots c = true → k.missSlots = none
  missWait : mayChange .missWait c = true → k.missWait = none

theorem Kept.nothing_spares (c : Instr) : Kept.nothing.Spares c := by
  constructor <;> exact fun _ => rfl

theorem keptIn_nothing (s : State) : KeptIn Kept.nothing s := by
  simp only [KeptIn, Kept.nothing, isHeld_none, and_self]

/-- A state keeps its own queue, its own time and its invariant, with no part held. -/
theorem keeps_nothing_of_inv {s : State} (hi : Inv s) : Keeps s.pending s.dev.now false Kept.nothing s :=
  ⟨⟨rfl, le_rfl, fun e => absurd e Bool.false_ne_true, hi⟩, keptIn_nothing s⟩

theorem Keeps.time_le {q : List Instr} {n : Nat} {b : Bool} {k : Kept} {s : State} (h : Keeps q n b k s) : n ≤ s.dev.now := h.1.2.1

variable {q : List Instr} {n : Nat} {b : Bool} {k : Kept} {s : State}

/-- One case for each row of the opcode table. The release of a power-on starts the count of time anew (R453), so that it keeps no bound on
the time but 0, and the loss of a rail ends a trip (R445). -/
theorem exec_keeps (c : Instr) (hk : k.Spares c) (hn : ∀ a r d e, c = .powerOnRelease a r d e → n = 0)
    (hb : ∀ rail, c = .railOutOfTolerance rail → b = false) (h : Keeps q n b k s) : KeepsO q n b k (exec c s) := by
  cases c with
  | devQuery c => exact execDevQuery_keeps c s h
  | devProfile c => exact execDevProfile_keeps c s h
  | profileTakesEffect => exact execProfileTakesEffect_keeps s h (hk.pcie rfl)
  | devTime c => exact execDevTime_keeps c s h
  | devReset c => exact execDevReset_keeps c s h
  | devPps c => exact execDevPps_keeps c s h
  | fnQuery c => exact execFnQuery_keeps c s h
  | fnStop c => exact execFnStop_keeps c s h (hk.sqs rfl)
  | fnStopQuiesced fn => exact execFnStopQuiesced_keeps fn s h
  | fnStart c found => exact execFnStart_keeps c found s h (hk.sqs rfl)
  | fnReset c heads =>
    exact execFnReset_keeps c heads s h (hk.mem rfl) (hk.regions rfl) (hk.retired rfl) (hk.sqs rfl) (hk.srqs rfl) (hk.sched rfl)
      (hk.coll rfl) (hk.cache rfl) (hk.opers rfl) (hk.sec rfl)
  | fnResetComplete fn =>
    exact execFnResetComplete_keeps fn s h (hk.mem rfl) (hk.regions rfl) (hk.retired rfl) (hk.sqs rfl) (hk.srqs rfl) (hk.sched rfl)
      (hk.coll rfl) (hk.cache rfl) (hk.opers rfl) (hk.sec rfl)
  | fnAttach c => exact execFnAttach_keeps c s h (hk.sqs rfl) (hk.srqs rfl)
  | fnLevel c => exact execFnLevel_keeps c s h
  | fnRetain c => exact execFnRetain_keeps c s h
  | mrSpace c => exact execMrSpace_keeps c s h
  | mrRegister c => exact execMrRegister_keeps c s h (hk.regions rfl)
  | mrDeregister c => exact execMrDeregister_keeps c s h (hk.regions rfl) (hk.retired rfl) (hk.cache rfl)
  | mrDeregisterDone key => exact execMrDeregisterDone_keeps key s h
  | mrRekey c => exact execMrRekey_keeps c s h (hk.regions rfl) (hk.retired rfl) (hk.cache rfl)
  | mrQuery c => exact execMrQuery_keeps c s h
  | mrMap c => exact execMrMap_keeps c s h
  | mrUnmap c => exact execMrUnmap_keeps c s h
  | mrSync c => exact execMrSync_keeps c s h
  | mrSyncDone fn => exact execMrSyncDone_keeps fn s h
  | mrFaultReply c =>
    exact execMrFaultReply_keeps c s h (hk.mem rfl) (hk.srqs rfl) (hk.sched rfl) (hk.coll rfl) (hk.cache rfl) (hk.opers rfl)
  | mrBar4Open c => exact execMrBar4Open_keeps c s h
  | mrBar4Close c => exact execMrBar4Close_keeps c s h
  | mrSpurGrant c => exact execMrSpurGrant_keeps c s h
  | spurRevokeDone fn => exact execSpurRevokeDone_keeps fn s h
  | qpCreate c => exact execQpCreate_keeps c s h
  | qpConnect c => exact execQpConnect_keeps c s h
  | qpQuery c => exact execQpQuery_keeps c s h
  | qpReset c => exact execQpReset_keeps c s h (hk.sched rfl)
  | qpResetDone qp => exact execQpResetDone_keeps qp s h
  | qpDestroy c => exact execQpDestroy_keeps c s h (hk.sched rfl)
  | qpDestroyDone qp => exact execQpDestroyDone_keeps qp s h (hk.sched rfl)
  | qpAdmit c => exact execQpAdmit_keeps c s h (hk.sched rfl)
  | qpRelease c => exact execQpRelease_keeps c s h (hk.sched rfl)
  | qpAdmitQuery c => exact execQpAdmitQuery_keeps c s h
  | srqCreate c => exact execSrqCreate_keeps c s h (hk.srqs rfl)
  | srqDestroy c => exact execSrqDestroy_keeps c s h (hk.srqs rfl)
  | ehtPort c => exact execEhtPort_keeps c s h
  | ehtAddr c => exact execEhtAddr_keeps c s h
  | ringSqCreate c => exact execRingSqCreate_keeps c s h (hk.sqs rfl)
  | ringCqCreate c => exact execRingCqCreate_keeps c s h
  | ringSched c => exact execRingSched_keeps c s h (hk.sqs rfl)
  | ringModerate c => exact execRingModerate_keeps c s h
  | ringDestroy c => exact execRingDestroy_keeps c s h (hk.sqs rfl) (hk.cache rfl)
  | ringRetry c => exact execRingRetry_keeps c s h
  | ringQuota c => exact execRingQuota_keeps c s h
  | hostWatchdog c => exact execHostWatchdog_keeps c s h
  | ccClass c => exact execCcClass_keeps c s h (hk.sched rfl)
  | qosShare c => exact execQosShare_keeps c s h
  | schedTc c => exact execSchedTc_keeps c s h (hk.sched rfl)
  | schedQp c => exact execSchedQp_keeps c s h
  | shaperSet c => exact execShaperSet_keeps c s h (hk.sched rfl)
  | policerSet c => exact execPolicerSet_keeps c s h (hk.sched rfl)
  | sndRing c => exact execSndRing_keeps c s h
  | sndAdd c => exact execSndAdd_keeps c s h (hk.sched rfl)
  | sndRemove c => exact execSndRemove_keeps c s h (hk.sched rfl)
  | cntRead c => exact execCntRead_keeps c s h
  | cntNotify c => exact execCntNotify_keeps c s h
  | ethPortSet c => exact execEthPortSet_keeps c s h (hk.sched rfl)
  | ethPortQuery c => exact execEthPortQuery_keeps c s h
  | ethPfc c => exact execEthPfc_keeps c s h
  | ethFrames c => exact execEthFrames_keeps c s h
  | ethFrameSend c => exact execEthFrameSend_keeps c s h
  | ethMcast c => exact execEthMcast_keeps c s h
  | helmSet c => exact execHelmSet_keeps c s h
  | helmQuery c => exact execHelmQuery_keeps c s h
  | collSetup c => exact execCollSetup_keeps c s h (hk.sched rfl) (hk.coll rfl)
  | fathomReservationGrant => exact execFathomReservationGrant_keeps s h (hk.sched rfl) (hk.coll rfl)
  | collSetupReady slot records => exact execCollSetupReady_keeps slot records s h (hk.mem rfl) (hk.sched rfl) (hk.coll rfl)
  | collSetupTimeout slot => exact execCollSetupTimeout_keeps slot s h (hk.coll rfl)
  | collTeardown c => exact execCollTeardown_keeps c s h (hk.mem rfl) (hk.sched rfl) (hk.coll rfl)
  | collTeardownDone slot => exact execCollTeardownDone_keeps slot s h (hk.coll rfl)
  | collQuery c => exact execCollQuery_keeps c s h
  | collAbortCmd c => exact execCollAbortCmd_keeps c s h (hk.mem rfl) (hk.sched rfl) (hk.coll rfl)
  | kvPoolCreate c => exact execKvPoolCreate_keeps c s h (hk.cache rfl)
  | kvPoolDestroy c => exact execKvPoolDestroy_keeps c s h (hk.cache rfl)
  | kvPoolDestroyDone pool => exact execKvPoolDestroyDone_keeps pool s h (hk.cache rfl)
  | kvPoolQuery c => exact execKvPoolQuery_keeps c s h
  | kvSeal c => exact execKvSeal_keeps c s h
  | kvSealDone pool user => exact execKvSealDone_keeps pool user s h (hk.mem rfl) (hk.cache rfl)
  | kvUserReset c => exact execKvUserReset_keeps c s h (hk.mem rfl) (hk.cache rfl)
  | kvUserPin c => exact execKvUserPin_keeps c s h (hk.cache rfl)
  | kvUserPinDone pool user => exact execKvUserPinDone_keeps pool user s h (hk.cache rfl)
  | kvUserUnpin c => exact execKvUserUnpin_keeps c s h (hk.cache rfl)
  | kvUserUnpinDone pool user => exact execKvUserUnpinDone_keeps pool user s h (hk.cache rfl)
  | kvPartner c => exact execKvPartner_keeps c s h
  | pwrGrant c => exact execPwrGrant_keeps c s h (hk.power rfl)
  | pwrFallback c => exact execPwrFallback_keeps c s h (hk.power rfl)
  | pwrQuery c => exact execPwrQuery_keeps c s h (hk.power rfl)
  | pwrLearn c => exact execPwrLearn_keeps c s h (hk.ceilings rfl)
  | secIdentity c => exact execSecIdentity_keeps c s h
  | secAttest c => exact execSecAttest_keeps c s h (hk.sec rfl)
  | secKemOffer c => exact execSecKemOffer_keeps c s h (hk.sec rfl)
  | secKemAccept c => exact execSecKemAccept_keeps c s h (hk.sec rfl)
  | secKemFinish c => exact execSecKemFinish_keeps c s h (hk.sec rfl)
  | secAccordDrop c => exact execSecAccordDrop_keeps c s h (hk.sec rfl)
  | secQpSeal c => exact execSecQpSeal_keeps c s h
  | secQpRekey c => exact execSecQpRekey_keeps c s h
  | secQpQuery c => exact execSecQpQuery_keeps c s h
  | secFwBegin c => exact execSecFwBegin_keeps c s h (hk.sec rfl)
  | secFwChunk c => exact execSecFwChunk_keeps c s h (hk.sec rfl)
  | secFwCommit c => exact execSecFwCommit_keeps c s h
  | secFwCommitDone => exact execSecFwCommitDone_keeps s h (hk.sec rfl)
  | secSelftest c => exact execSecSelftest_keeps c s h
  | secSelftestDone failing => exact execSecSelftestDone_keeps failing s h (hk.sec rfl)
  | secZeroize c => exact execSecZeroize_keeps c s h
  | secZeroizeDone => exact execSecZeroizeDone_keeps s h (hk.sec rfl)
  | secOfficer c => exact execSecOfficer_keeps c s h (hk.sec rfl)
  | secLogin c => exact execSecLogin_keeps c s h (hk.sec rfl)
  | fabIdent c => exact execFabIdent_keeps c s h
  | fabPortSet c => exact execFabPortSet_keeps c s h (hk.sched rfl)
  | fabPortQuery c => exact execFabPortQuery_keeps c s h
  | fabRingQuery c => exact execFabRingQuery_keeps c s h
  | spurStream c => exact execSpurStream_keeps c s h
  | routeWrite c => exact execRouteWrite_keeps c s h
  | routeArm c => exact execRouteArm_keeps c s h
  | routeDisarm c => exact execRouteDisarm_keeps c s h
  | routeCommit c => exact execRouteCommit_keeps c s h (hk.sched rfl)
  | routeQuery c => exact execRouteQuery_keeps c s h
  | routeDrain c => exact execRouteDrain_keeps c s h
  | diagResults c => exact execDiagResults_keeps c s h
  | diagSelftest c => exact execDiagSelftest_keeps c s h
  | diagInventory c => exact execDiagInventory_keeps c s h
  | diagLoopback c => exact execDiagLoopback_keeps c s h
  | diagLoopbackDone bits worstErrors worstLane => exact execDiagLoopbackDone_keeps bits worstErrors worstLane s h (hk.start rfl)
  | faultQuery c => exact execFaultQuery_keeps c s h
  | faultAck c => exact execFaultAck_keeps c s h
  | channelEnable fn value => exact execChannelEnable_keeps fn value s h
  | channelDisable fn value => exact execChannelDisable_keeps fn value s h
  | channelDownComplete fn => exact execChannelDownComplete_keeps fn s h
  | cmdDoorbell fn slots fqHead =>
    exact execCmdDoorbell_keeps fn slots fqHead s h (hk.mem rfl) (hk.regions rfl) (hk.retired rfl) (hk.sqs rfl) (hk.srqs rfl)
      (hk.sched rfl) (hk.coll rfl) (hk.cache rfl) (hk.opers rfl) (hk.sec rfl) (hk.power rfl) (hk.ceilings rfl)
  | replyHeadWrite fn value slots =>
    exact execReplyHeadWrite_keeps fn value slots s h (hk.mem rfl) (hk.regions rfl) (hk.retired rfl) (hk.sqs rfl) (hk.srqs rfl)
      (hk.sched rfl) (hk.coll rfl) (hk.cache rfl) (hk.opers rfl) (hk.sec rfl) (hk.power rfl) (hk.ceilings rfl)
  | registerWrite fn place width value => exact execRegisterWrite_keeps fn place width value s h (hk.sqs rfl) (hk.cache rfl) (hk.pcie rfl)
  | sqDoorbell fn offset width value entries head =>
    exact execSqDoorbell_keeps fn offset width value entries head s h (hk.sqs rfl) (hk.cache rfl)
  | sqDoorbellLevel1 fn offset width value entries head =>
    exact execSqDoorbellLevel1_keeps fn offset width value entries head s h (hk.sqs rfl) (hk.cache rfl)
  | ringReread fn ring found =>
    exact execRingReread_keeps fn ring found s h (hk.mem rfl) (hk.regions rfl) (hk.retired rfl) (hk.sqs rfl) (hk.srqs rfl) (hk.sched rfl)
      (hk.coll rfl) (hk.cache rfl) (hk.opers rfl) (hk.sec rfl) (hk.power rfl) (hk.ceilings rfl)
  | entryAccept fn ring => exact execEntryAccept_keeps fn ring s h (hk.sqs rfl) (hk.sched rfl)
  | journalBackpressureRelease pair => exact execJournalBackpressureRelease_keeps pair s h (hk.sqs rfl) (hk.sched rfl)
  | nop rec => exact execNop_keeps rec s h
  | workWrite rec => exact execWorkWrite_keeps rec s h
  | workWriteImm rec => exact execWorkWriteImm_keeps rec s h
  | workRead rec => exact execWorkRead_keeps rec s h
  | workSend rec => exact execWorkSend_keeps rec s h
  | workAtomicFadd rec => exact execWorkAtomicFadd_keeps rec s h
  | workAtomicCswap rec => exact execWorkAtomicCswap_keeps rec s h
  | workFlush rec => exact execWorkFlush_keeps rec s h
  | workFence rec => exact execWorkFence_keeps rec s h
  | postReceive rec => exact execPostReceive_keeps rec s h (hk.srqs rfl)
  | postCollective rec => exact execPostCollective_keeps rec s h (hk.mem rfl) (hk.sched rfl) (hk.coll rfl)
  | attentionRequest rec query => exact execAttentionRequest_keeps rec query s h (hk.mem rfl) (hk.sched rfl) (hk.cache rfl) (hk.ramp rfl)
  | shoalOperator rec fetched => exact execShoalOperator_keeps rec fetched s h (hk.opers rfl)
  | tileStart rec fetched => exact execTileStart_keeps rec fetched s h (hk.mem rfl) (hk.ramp rfl) (hk.opers rfl)
  | translationMissWalk stream dva => exact execTranslationMissWalk_keeps stream dva s h (hk.missSlots rfl) (hk.missWait rfl)
  | missSlotGrant =>
    exact execMissSlotGrant_keeps s h (hk.mem rfl) (hk.sched rfl) (hk.coll rfl) (hk.cache rfl) (hk.missSlots rfl) (hk.missWait rfl)
  | fqHeadReread fn head => exact execFqHeadReread_keeps fn head s h
  | bar4Read fn offset len => exact execBar4Read_keeps fn offset len s h
  | bar4Write fn offset bytes => exact execBar4Write_keeps fn offset bytes s h (hk.mem rfl)
  | packetTransmit port fetched => exact execPacketTransmit_keeps port fetched s h (hk.sched rfl)
  | pktWrite p => exact execPktWrite_keeps p s h (hk.mem rfl) (hk.srqs rfl) (hk.sched rfl)
  | pktWriteImm p => exact execPktWriteImm_keeps p s h (hk.mem rfl) (hk.srqs rfl) (hk.sched rfl)
  | pktReadReq p => exact execPktReadReq_keeps p s h (hk.mem rfl) (hk.sched rfl)
  | pktReadResp p => exact execPktReadResp_keeps p s h (hk.mem rfl) (hk.sched rfl)
  | pktSend p => exact execPktSend_keeps p s h (hk.mem rfl) (hk.srqs rfl) (hk.sched rfl)
  | pktAtomicFadd p prior => exact execPktAtomicFadd_keeps p prior s h (hk.mem rfl) (hk.sched rfl)
  | pktAtomicCswap p prior => exact execPktAtomicCswap_keeps p prior s h (hk.mem rfl) (hk.sched rfl)
  | pktAtomicResp p => exact execPktAtomicResp_keeps p s h (hk.mem rfl) (hk.sched rfl)
  | pktFlush p => exact execPktFlush_keeps p s h (hk.mem rfl) (hk.sched rfl)
  | pktAck p body => exact execPktAck_keeps p body s h
  | pktNak p body => exact execPktNak_keeps p body s h
  | pktReadRepair p body => exact execPktReadRepair_keeps p body s h (hk.sched rfl)
  | modTimeExpiry fn cq => exact execModTimeExpiry_keeps fn cq s h
  | ackCoalesceTimer qp => exact execAckCoalesceTimer_keeps qp s h (hk.sched rfl)
  | retransmitTimeout qp => exact execRetransmitTimeout_keeps qp s h (hk.sched rfl)
  | rnrResend qp => exact execRnrResend_keeps qp s h
  | faultWaitResend qp => exact execFaultWaitResend_keeps qp s h
  | silenceLimit qp => exact execSilenceLimit_keeps qp s h
  | noPathTimeout qp => exact execNoPathTimeout_keeps qp s h
  | peerSilent stream => exact execPeerSilent_keeps stream s h (hk.coll rfl)
  | ccEpochEnd qp => exact execCcEpochEnd_keeps qp s h
  | admissionRecheck => exact execAdmissionRecheck_keeps s h (hk.sched rfl)
  | copyAckDeadline qp seq => exact execCopyAckDeadline_keeps qp seq s h
  | shaperRefill => exact execShaperRefill_keeps s h (hk.sched rfl)
  | policerRefill => exact execPolicerRefill_keeps s h (hk.sched rfl)
  | soundingSample kind queueId head => exact execSoundingSample_keeps kind queueId head s h (hk.sched rfl)
  | cqHeadPoll fn cq head => exact execCqHeadPoll_keeps fn cq head s h (hk.cache rfl)
  | retentionExpiry fn =>
    exact execRetentionExpiry_keeps fn s h (hk.mem rfl) (hk.regions rfl) (hk.retired rfl) (hk.sqs rfl) (hk.sched rfl) (hk.coll rfl)
      (hk.cache rfl)
  | hostWatchdogExpiry fn heads =>
    exact execHostWatchdogExpiry_keeps fn heads s h (hk.mem rfl) (hk.regions rfl) (hk.retired rfl) (hk.sqs rfl) (hk.srqs rfl)
      (hk.sched rfl) (hk.coll rfl) (hk.cache rfl) (hk.opers rfl) (hk.sec rfl)
  | flr fn heads =>
    exact execFlr_keeps fn heads s h (hk.mem rfl) (hk.regions rfl) (hk.retired rfl) (hk.sqs rfl) (hk.srqs rfl) (hk.sched rfl)
      (hk.coll rfl) (hk.cache rfl) (hk.opers rfl) (hk.sec rfl) (hk.pcie rfl)
  | vfEnable numVfs =>
    exact execVfEnable_keeps numVfs s h (hk.mem rfl) (hk.regions rfl) (hk.retired rfl) (hk.sqs rfl) (hk.srqs rfl) (hk.sched rfl)
      (hk.coll rfl) (hk.cache rfl) (hk.opers rfl) (hk.sec rfl) (hk.pcie rfl)
  | vfDisable =>
    exact execVfDisable_keeps s h (hk.mem rfl) (hk.regions rfl) (hk.retired rfl) (hk.sqs rfl) (hk.srqs rfl) (hk.sched rfl) (hk.coll rfl)
      (hk.cache rfl) (hk.opers rfl) (hk.sec rfl) (hk.pcie rfl)
  | perstNAssert widthNs =>
    exact execPerstNAssert_keeps widthNs s h (hk.mem rfl) (hk.regions rfl) (hk.retired rfl) (hk.sqs rfl) (hk.srqs rfl) (hk.sched rfl)
      (hk.coll rfl) (hk.cache rfl) (hk.opers rfl) (hk.sec rfl) (hk.pcie rfl)
  | perstNRelease => exact execPerstNRelease_keeps s h (hk.pcie rfl)
  | dlDown =>
    exact execDlDown_keeps s h (hk.mem rfl) (hk.regions rfl) (hk.retired rfl) (hk.sqs rfl) (hk.srqs rfl) (hk.sched rfl) (hk.coll rfl)
      (hk.cache rfl) (hk.opers rfl) (hk.sec rfl) (hk.pcie rfl)
  | hotReset secondaryBus =>
    exact execHotReset_keeps secondaryBus s h (hk.mem rfl) (hk.regions rfl) (hk.retired rfl) (hk.sqs rfl) (hk.srqs rfl) (hk.sched rfl)
      (hk.coll rfl) (hk.cache rfl) (hk.opers rfl) (hk.sec rfl) (hk.pcie rfl)
  | crossingReady island => exact execCrossingReady_keeps island s h
  | crossingSync island => exact execCrossingSync_keeps island s h
  | pcieRefclkLoss => exact execPcieRefclkLoss_keeps s h (hk.pcie rfl)
  | pcieRefclkReturn => exact execPcieRefclkReturn_keeps s h (hk.pcie rfl)
  | l1Entry => exact execL1Entry_keeps s h (hk.pcie rfl)
  | islandClockStop island => exact execIslandClockStop_keeps island s h
  | islandWake island => exact execIslandWake_keeps island s h
  | ringFlitArrive port slot f => exact execRingFlitArrive_keeps port slot f s h (hk.mem rfl) (hk.srqs rfl) (hk.sched rfl) (hk.coll rfl)
  | slotClaim port slot f => exact execSlotClaim_keeps port slot f s h (hk.mem rfl) (hk.srqs rfl) (hk.sched rfl) (hk.coll rfl)
  | reassemblyTimeout src tag => exact execReassemblyTimeout_keeps src tag s h
  | flitMarker port f => exact execFlitMarker_keeps port f s h (hk.sched rfl)
  | flitRingStatus port f => exact execFlitRingStatus_keeps port f s h (hk.sched rfl)
  | bearingDrainEnd => exact execBearingDrainEnd_keeps s h
  | fabricPortTrained port t => exact execFabricPortTrained_keeps port t s h
  | fabricTrainingRetry port => exact execFabricTrainingRetry_keeps port s h
  | fabricPortLost port => exact execFabricPortLost_keeps port s h (hk.sched rfl)
  | spurCmd port f => exact execSpurCmd_keeps port f s h
  | spurData port f => exact execSpurData_keeps port f s h (hk.mem rfl) (hk.sched rfl) (hk.coll rfl) (hk.cache rfl) (hk.opers rfl)
  | spurCommit port f => exact execSpurCommit_keeps port f s h (hk.mem rfl) (hk.sched rfl) (hk.coll rfl) (hk.cache rfl) (hk.opers rfl)
  | spurAccessTimeout port tag => exact execSpurAccessTimeout_keeps port tag s h
  | streamReq port f => exact execStreamReq_keeps port f s h
  | streamCplAck port f => exact execStreamCplAck_keeps port f s h (hk.cache rfl)
  | streamResend port stream => exact execStreamResend_keeps port stream s h
  | kvQuery port f => exact execKvQuery_keeps port f s h (hk.mem rfl) (hk.sched rfl) (hk.cache rfl)
  | kvQueryFallback rec fetched => exact execKvQueryFallback_keeps rec fetched s h (hk.mem rfl) (hk.sched rfl) (hk.cache rfl)
  | appendSeal rec => exact execAppendSeal_keeps rec s h (hk.mem rfl) (hk.cache rfl)
  | holdRelease => exact execHoldRelease_keeps s h (hk.cache rfl) (hk.ramp rfl)
  | rampWave => exact execRampWave_keeps s h (hk.ramp rfl)
  | spurIdleEntry port => exact execSpurIdleEntry_keeps port s h
  | spurWake port => exact execSpurWake_keeps port s h
  | pilotNarrow port => exact execPilotNarrow_keeps port s h
  | pilotWiden port => exact execPilotWiden_keeps port s h
  | collData port f => exact execCollData_keeps port f s h (hk.mem rfl) (hk.sched rfl) (hk.coll rfl)
  | collTail port f => exact execCollTail_keeps port f s h (hk.mem rfl) (hk.sched rfl) (hk.coll rfl)
  | collAck port f => exact execCollAck_keeps port f s h (hk.mem rfl) (hk.sched rfl) (hk.coll rfl)
  | collAgree port f => exact execCollAgree_keeps port f s h (hk.mem rfl) (hk.sched rfl) (hk.coll rfl)
  | collAbort port f => exact execCollAbort_keeps port f s h (hk.mem rfl) (hk.sched rfl) (hk.coll rfl)
  | reductionPassDone engine residueOk => exact execReductionPassDone_keeps engine residueOk s h (hk.mem rfl) (hk.sched rfl) (hk.coll rfl)
  | collChunkTimer slot chunk => exact execCollChunkTimer_keeps slot chunk s h (hk.sched rfl) (hk.coll rfl)
  | collMemberTimeout slot chunk => exact execCollMemberTimeout_keeps slot chunk s h (hk.mem rfl) (hk.sched rfl) (hk.coll rfl)
  | ethFrameRx link f head => exact execEthFrameRx_keeps link f head s h (hk.mem rfl) (hk.srqs rfl) (hk.sched rfl)
  | pfcFrameRx link enable times => exact execPfcFrameRx_keeps link enable times s h
  | pfcRefresh link => exact execPfcRefresh_keeps link s h
  | pfcPauseExpire link tc => exact execPfcPauseExpire_keeps link tc s h
  | ethLinkDown link => exact execEthLinkDown_keeps link s h (hk.sched rfl)
  | ethLinkUp link => exact execEthLinkUp_keeps link s h
  | linkEventDeferredWrite head => exact execLinkEventDeferredWrite_keeps head s h
  | lldpSend => exact execLldpSend_keeps s h
  | lpiEntry link => exact execLpiEntry_keeps link s h
  | lpiWake link => exact execLpiWake_keeps link s h
  | helmCommand f =>
    exact execHelmCommand_keeps f s h (hk.mem rfl) (hk.regions rfl) (hk.retired rfl) (hk.sqs rfl) (hk.srqs rfl) (hk.sched rfl)
      (hk.coll rfl) (hk.cache rfl) (hk.opers rfl) (hk.sec rfl) (hk.power rfl) (hk.ceilings rfl)
  | helmBackoffExpiry collided late => exact execHelmBackoffExpiry_keeps collided late s h
  | enforcementTick m => exact execEnforcementTick_keeps m s h (hk.power rfl) (hk.droop rfl)
  | sextantDivision w => exact execSextantDivision_keeps w s h (hk.cache rfl) (hk.ramp rfl) (hk.power rfl) (hk.droop rfl) (hk.ceilings rfl)
  | grantExpiry => exact execGrantExpiry_keeps s h (hk.power rfl)
  | sensorSample readings => exact execSensorSample_keeps readings s h (hk.droop rfl) (hk.power rfl) (hk.thermal rfl)
  | thermtrip sensor reading => exact execThermtrip_keeps sensor reading s h (hk.thermal rfl)
  | thermalWindow => exact execThermalWindow_keeps s h (hk.power rfl) (hk.thermal rfl) (hk.droop rfl)
  | droopDetect supply site mv => exact execDroopDetect_keeps supply site mv s h (hk.droop rfl)
  | droopRecovery supply => exact execDroopRecovery_keeps supply s h (hk.droop rfl)
  | droopLong supply => exact execDroopLong_keeps supply s h (hk.droop rfl)
  | deferredFreqChange => exact execDeferredFreqChange_keeps s h (hk.power rfl) (hk.droop rfl)
  | ageingMonitor report => exact execAgeingMonitor_keeps report s h (hk.cache rfl) (hk.ramp rfl) (hk.power rfl) (hk.ceilings rfl)
  | drbgReseed entropy => exact execDrbgReseed_keeps entropy s h (hk.sec rfl)
  | maskReseed lane => exact execMaskReseed_keeps lane s h (hk.sec rfl)
  | laneKat lane passed => exact execLaneKat_keeps lane passed s h (hk.sec rfl)
  | periodicSelftest failing => exact execPeriodicSelftest_keeps failing s h (hk.sec rfl)
  | offerExpiry offer => exact execOfferExpiry_keeps offer s h (hk.sec rfl)
  | officerSessionExpiry => exact execOfficerSessionExpiry_keeps s h (hk.sec rfl)
  | unitZerosCommitted qp own msg unit => exact execUnitZerosCommitted_keeps qp own msg unit s h (hk.mem rfl) (hk.sched rfl)
  | refresh tarn => exact execRefresh_keeps tarn s h
  | patrolScrub tarn corrected => exact execPatrolScrub_keeps tarn corrected s h (hk.mem rfl)
  | uncorrectableError tpa =>
    exact execUncorrectableError_keeps tpa s h (hk.mem rfl) (hk.srqs rfl) (hk.sched rfl) (hk.coll rfl) (hk.cache rfl) (hk.opers rfl)
  | rowRepairDone tarn channel bank row => exact execRowRepairDone_keeps tarn channel bank row s h
  | channelLost tarn channel =>
    exact execChannelLost_keeps tarn channel s h (hk.mem rfl) (hk.srqs rfl) (hk.sched rfl) (hk.coll rfl) (hk.cache rfl) (hk.opers rfl)
  | interleaveReformed => exact execInterleaveReformed_keeps s h
  | journalRemirrored tarn channel => exact execJournalRemirrored_keeps tarn channel s h
  | tableRebuilt fn host => exact execTableRebuilt_keeps fn host s h
  | tarnLost tarn => exact execTarnLost_keeps tarn s h (hk.mem rfl) (hk.srqs rfl) (hk.sched rfl) (hk.coll rfl) (hk.cache rfl) (hk.opers rfl)
  | channelPowerDown tarn channel => exact execChannelPowerDown_keeps tarn channel s h
  | faultPendingWrite fn head => exact execFaultPendingWrite_keeps fn head s h
  | aggWindowBoundary => exact execAggWindowBoundary_keeps s h
  | aggEntryClose => exact execAggEntryClose_keeps s h
  | fwHeartbeatTick => exact execFwHeartbeatTick_keeps s h
  | fwWatchdogExpiry => exact execFwWatchdogExpiry_keeps s h (hk.sched rfl)
  | fwRestartComplete verified =>
    exact execFwRestartComplete_keeps verified s h (hk.mem rfl) (hk.regions rfl) (hk.retired rfl) (hk.sqs rfl) (hk.srqs rfl)
      (hk.sched rfl) (hk.coll rfl) (hk.cache rfl) (hk.opers rfl) (hk.sec rfl) (hk.power rfl) (hk.ceilings rfl)
  | powerOnRelease straps selftest clocksOk suppliesOk =>
    obtain rfl := hn _ _ _ _ rfl
    exact execPowerOnRelease_keeps straps selftest clocksOk suppliesOk s h (hk.mem rfl) (hk.regions rfl) (hk.retired rfl) (hk.sqs rfl)
      (hk.srqs rfl) (hk.sched rfl) (hk.coll rfl) (hk.cache rfl) (hk.ramp rfl) (hk.opers rfl) (hk.sec rfl) (hk.power rfl) (hk.thermal rfl)
      (hk.droop rfl) (hk.ceilings rfl) (hk.start rfl) (hk.pcie rfl) (hk.jtag rfl) (hk.missSlots rfl) (hk.missWait rfl)
  | railOutOfTolerance rail =>
    obtain rfl := hb _ rfl
    exact execRailOutOfTolerance_keeps rail s h (hk.thermal rfl)
  | refclkAbsentTimeout => exact execRefclkAbsentTimeout_keeps s h
  | startComplete imageOk crypto =>
    exact execStartComplete_keeps imageOk crypto s h (hk.mem rfl) (hk.regions rfl) (hk.retired rfl) (hk.sqs rfl) (hk.srqs rfl)
      (hk.sched rfl) (hk.coll rfl) (hk.cache rfl) (hk.opers rfl) (hk.sec rfl) (hk.power rfl) (hk.ceilings rfl) (hk.start rfl)
  | deviceResetTakesEffect straps selftest clocksOk suppliesOk =>
    exact execDeviceResetTakesEffect_keeps straps selftest clocksOk suppliesOk s h (hk.mem rfl) (hk.regions rfl) (hk.retired rfl)
      (hk.sqs rfl) (hk.srqs rfl) (hk.sched rfl) (hk.coll rfl) (hk.cache rfl) (hk.ramp rfl) (hk.opers rfl) (hk.sec rfl) (hk.power rfl)
      (hk.thermal rfl) (hk.droop rfl) (hk.ceilings rfl) (hk.start rfl) (hk.pcie rfl) (hk.jtag rfl) (hk.missSlots rfl) (hk.missWait rfl)
  | restartComplete imageOk crypto =>
    exact execRestartComplete_keeps imageOk crypto s h (hk.mem rfl) (hk.regions rfl) (hk.retired rfl) (hk.sqs rfl) (hk.srqs rfl)
      (hk.sched rfl) (hk.coll rfl) (hk.cache rfl) (hk.opers rfl) (hk.sec rfl) (hk.power rfl) (hk.ceilings rfl) (hk.start rfl)
  | ppsEdge highNs => exact execPpsEdge_keeps highNs s h
  | trstNAssert => exact execTrstNAssert_keeps s h (hk.jtag rfl)
  | lossOfOneShoal shoal => exact execLossOfOneShoal_keeps shoal s h (hk.cache rfl) (hk.ramp rfl)
  | lossOfOneControlCore core => exact execLossOfOneControlCore_keeps core s h
  | coreSetRestored => exact execCoreSetRestored_keeps s h
  | referencesPresent => exact execReferencesPresent_keeps s h
  | pcieLinkRetrained link => exact execPcieLinkRetrained_keeps link s h (hk.pcie rfl)
  | l1Exit => exact execL1Exit_keeps s h (hk.pcie rfl)
  | unitAtRest shoal unit => exact execUnitAtRest_keeps shoal unit s h (hk.ramp rfl)
  | healthTestFailure proportion => exact execHealthTestFailure_keeps proportion s h (hk.sec rfl)
  | partnerLpiEntry link => exact execPartnerLpiEntry_keeps link s h
  | partnerLpiExit link => exact execPartnerLpiExit_keeps link s h
  | trstNRelease => exact execTrstNRelease_keeps s h (hk.jtag rfl)
  | tckEdge tms tdi => exact execTckEdge_keeps tms tdi s h (hk.jtag rfl)

end Sys2Proof.Machine
end

section
/-! Time, and the state after reset (chapters 0, 1 and 17). -/

namespace Sys2Proof.Machine

/-- Settles O47: `exec_keeps` with the time at which the command begins as the bound that is kept. -/
theorem timeNeverGoesBack : Obligations.TimeNeverGoesBack := by
  unfold Obligations.TimeNeverGoesBack
  intro c s t hi hc ht
  have hkeeps : KeepsO s.pending s.dev.now false Kept.nothing (exec c s) :=
    exec_keeps c (Kept.nothing_spares c) (fun a r d e hpower => absurd hpower (hc a r d e)) (fun _ _ => rfl) (keeps_nothing_of_inv hi)
  exact (hkeeps.elim ht).time_le

/-- Settles O39: each part of `State.reset` is the literal of its unit's own reset value. -/
theorem resetState : Obligations.ResetState := by
  unfold Obligations.ResetState
  exact ⟨rfl, rfl, rfl, rfl, rfl, rfl, rfl, rfl, rfl, rfl, rfl, rfl, rfl, rfl, rfl, rfl, rfl, rfl, rfl, rfl⟩

end Sys2Proof.Machine
end

section
/-! The references, the host link, a lost control core, the units of the ramp limiter, the partner of an Ethernet link, and the test port
(chapters 1, 3, 10, 13 and 17): what each event does where its conditions hold. -/

namespace Sys2Proof.Machine

variable {s : State}

/-- While the data path runs, what happens inside the device happens (R449, R452, R454). -/
theorem whileLit_of_lit {k : Host.Outcome State Fault Refusal} (hlit : lit s = true) : whileLit s k = k := if_pos hlit

/-- R20, Table 1-6. -/
theorem execLossOfOneControlCore_of_usable {core : Nat} (hlit : lit s = true) (hcore : bit s.dev.inventory.cores.toNat core = true) :
    execLossOfOneControlCore core s = .next (retireCore core s) := by
  rw [execLossOfOneControlCore, whileLit_of_lit hlit, if_pos hcore]

/-- The set of cores is whole again 1 ms after the loss (R27). -/
theorem execCoreSetRestored_of_lost {t : Nat} (hlit : lit s = true) (hlost : s.dev.coreLostAt = some t) :
    execCoreSetRestored s =
      .next { advanceTo (t + 1000000) s with dev := { (advanceTo (t + 1000000) s).dev with coreLostAt := none } } := by
  rw [execCoreSetRestored, whileLit_of_lit hlit, hlost]

/-- R446. -/
theorem execReferencesPresent_of_waiting (hwait : s.dev.life = .waitingRefs) :
    execReferencesPresent s =
      .next (setAlert 2 false (devMod (fun d => { d with life := startLife s.start.kind, refsPresent := true }) s)) := by
  rw [execReferencesPresent, if_pos hwait]

/-- A link that is down trains once `PERST_N` is released and a training is due, at a width and a rate of Table 3-1 (R59, R85). -/
theorem execPcieLinkRetrained_of_training {link : PcieTrained} (hdown : s.pcie.linkUp = false) (hperst : s.pcie.perst = false)
    (htrain : s.pcie.trainBy.isSome = true) (hwidth : [1, 2, 4, 8, 16].contains link.width = true)
    (hrate : linkRates.contains link.rate = true) :
    execPcieLinkRetrained link s =
      .next { s with hostAt := s.dev.now, pcie := { s.pcie with linkUp := true, width := link.width, rate := link.rate,
                                                                flit := decide (640 ≤ link.rate) || link.partnerFlit, trainBy := none } } := by
  have hnone : s.pcie.trainBy.isNone = false := by rw [← Option.not_isSome, htrain]; rfl
  rw [execPcieLinkRetrained, if_neg]
  simp only [hdown, hperst, hnone, hwidth, hrate, Bool.false_eq_true, Bool.not_true, or_self, not_false_eq_true]

/-- A unit rests 2 µs after its last work, where it is active and the attention hold is off (R303). -/
theorem execUnitAtRest_of_idle {shoal unit t : Nat} (hlit : lit s = true) (hidle : tabGet s.ramp.idleSince (128 * shoal + unit) = some t)
    (hhold : s.cache.hold = false) (hactive : s.ramp.active.contains (128 * shoal + unit) = true) :
    execUnitAtRest shoal unit s = .next (restUnits 0 [128 * shoal + unit] (advanceTo (t + 2000) s)) := by
  rw [execUnitAtRest, whileLit_of_lit hlit]
  simp only [hidle, hhold, hactive, Bool.false_eq_true, Bool.not_true, or_self, if_false]

/-- R364. -/
theorem execPartnerLpiEntry_of_awake {link : Nat} {l : Link} (hlit : lit s = true) (hlink : linkGet s link = some l) (hup : l.up = true)
    (hawake : l.rxLpi = false) :
    execPartnerLpiEntry link s =
      .next (settleClock (2 + link / 8)
        (linkMod link (fun l => { l with rxLpi := true, rxLpiAt := s.dev.now }) (countLink link 58 1 s))) := by
  rw [execPartnerLpiEntry, whileLit_of_lit hlit]
  simp only [hlink]
  exact if_pos ⟨hup, hawake⟩

/-- R364. -/
theorem execPartnerLpiExit_of_lit (link : Nat) (hlit : lit s = true) : execPartnerLpiExit link s = .next (leaveRxLpi link s) :=
  whileLit_of_lit hlit

/-- The test port follows `TCK` while `TRST_N` is released (R494). -/
theorem execTckEdge_of_released (tms tdi : Bool) (htrst : s.jtag.trst = false) :
    execTckEdge tms tdi s = .next (showTdo (jtagMod (fun j => { j with tap := tapNext j.tap tms }) (tapAction tdi s))) :=
  if_neg (Bool.eq_false_iff.mp htrst)

/-- Settles O37: `exec` of each row is the row's own function, whose effect under the row's conditions is a lemma above; `L1_EXIT` and
`TRST_N_RELEASE` have no condition. -/
theorem startAndTestPortEventsComplete : Obligations.StartAndTestPortEventsComplete := by
  unfold Obligations.StartAndTestPortEventsComplete
  refine ⟨?lostCore, ?coresRestored, ?references, ?linkTrained, ?l1Exit, ?unitRests, ?lpiEntry, ?lpiExit, ?trstRelease, ?tckEdge⟩
  case lostCore => exact fun _ _ hlit hcore => execLossOfOneControlCore_of_usable hlit hcore
  case coresRestored =>
    rintro t _ s hlit hlost rfl
    exact execCoreSetRestored_of_lost hlit hlost
  case references => exact fun _ hwait => execReferencesPresent_of_waiting hwait
  case linkTrained =>
    exact fun _ _ hdown hperst htrain hwidth hrate => execPcieLinkRetrained_of_training hdown hperst htrain hwidth hrate
  case l1Exit => exact fun _ => rfl
  case unitRests => exact fun _ _ _ _ hlit hidle hhold hactive => execUnitAtRest_of_idle hlit hidle hhold hactive
  case lpiEntry => exact fun _ _ _ hlit hlink hup hawake => execPartnerLpiEntry_of_awake hlit hlink hup hawake
  case lpiExit => exact fun link _ hlit => execPartnerLpiExit_of_lit link hlit
  case trstRelease => exact fun _ => rfl
  case tckEdge => exact fun tms tdi _ htrst => execTckEdge_of_released tms tdi htrst

end Sys2Proof.Machine
end

section
/-! Rows of the command channel: what one comes to where the device reads it and runs the opcode's own part, and where it does not; and the
queue of commands (chapter 2). -/

namespace Sys2Proof.Machine

variable {sp : CmdSpec} {own : Cmd → State → CmdOut} {c : Cmd} {s t u : State} {r0 r1 r2 : Nat}

/-! ### A command that runs -/

/-- R42, R47. -/
theorem runCmd_eq_okReply (h : accepts sp c s t) (hown : own c t = .done u .ok r0 r1 r2) : runCmd sp own c s = okReply sp c r0 r1 r2 u := by
  rw [runCmd_of_accepts h, hown, settleCmd_done, okReply]

theorem runCmd_eq_acceptedReply {w : Deferral} (h : accepts sp c s t) (hown : own c t = .deferred u w) :
    runCmd sp own c s = acceptedReply sp c w u := by
  rw [runCmd_of_accepts h, hown, settleCmd_deferred, acceptedReply]

theorem runCmd_eq_laterReply {w : Deferral} (h : accepts sp c s t) (hown : own c t = .later u w) :
    runCmd sp own c s = laterReply sp c w u := by
  rw [runCmd_of_accepts h, hown, settleCmd_later, laterReply]

theorem needParam_of_true {ok : Bool} {k : CmdOut} (hok : ok = true) : needParam ok s k = k := if_pos hok

/-! ### A command that does not run -/

/-- The condition under which `fn.attach` and `ring.moderate` go on after their command fails where the opcode's own part does not run. -/
theorem takesCommand_and_cmdCheck_eq_false {b : Bool} (h : ¬ accepts sp c s (consumeSlot c s)) :
    (takesCommand sp c s && (cmdCheck sp c (consumeSlot c s)).isNone && b) = false := by
  refine Bool.eq_false_iff.mpr fun hall => ?_
  simp only [Bool.and_eq_true, Option.isNone_iff_eq_none] at hall
  obtain ⟨⟨htake, hcheck⟩, -⟩ := hall
  exact h ⟨htake, rfl, hcheck⟩

/-- A command whose own part does not run comes to `runCmd` alone, whatever the row does after its command (R63, R87), and a `qp.connect` that
waits for room in the journal is not read (R17). -/
theorem exec_eq_runCmd_of_not_accepts {i : Instr} (hrow : commandOf i = some (sp, c)) (h : ¬ accepts sp c s (consumeSlot c s)) :
    (∃ own, exec i s = .next (runCmd sp own c s)) ∨ (∃ d, i = .qpConnect d ∧ connectWaits d s = true ∧ exec i s = .next s) := by
  cases i with
  | fnAttach d =>
    obtain ⟨rfl, rfl⟩ := Prod.mk.inj (Option.some.inj hrow)
    exact .inl ⟨doFnAttach, if_neg (Bool.eq_false_iff.mp (takesCommand_and_cmdCheck_eq_false h))⟩
  | ringModerate d =>
    obtain ⟨rfl, rfl⟩ := Prod.mk.inj (Option.some.inj hrow)
    exact .inl ⟨doRingModerate, if_neg (Bool.eq_false_iff.mp (takesCommand_and_cmdCheck_eq_false h))⟩
  | qpConnect d =>
    obtain ⟨rfl, rfl⟩ := Prod.mk.inj (Option.some.inj hrow)
    by_cases hwait : connectWaits d s = true
    · exact .inr ⟨d, rfl, hwait, congrArg Host.Outcome.next (if_pos hwait)⟩
    · exact .inl ⟨doQpConnect, congrArg Host.Outcome.next (if_neg hwait)⟩
  | _ =>
    -- A row that carries no command is ruled out by `hrow`; any other is `runCmd` with its opcode's own part.
    cases hrow <;> exact .inl ⟨_, rfl⟩

/-- Settles O44: `exec_eq_runCmd_of_not_accepts`, and `runCmd_of_refused` for what `runCmd` then does. -/
theorem refusedCommandsHaveNoEffect : Obligations.RefusedCommandsHaveNoEffect := by
  unfold Obligations.RefusedCommandsHaveNoEffect
  intro i sp c s e hrow htake hcheck hroom
  have hnot : ¬ accepts sp c s (consumeSlot c s) := fun ⟨_, _, hnone⟩ => Option.some_ne_none e (hcheck.symm.trans hnone)
  obtain ⟨own, hexec⟩ | ⟨d, hd, hwait, -⟩ := exec_eq_runCmd_of_not_accepts hrow hnot
  · rw [hexec, runCmd_of_refused htake hcheck]
  · exact absurd hwait (Bool.eq_false_iff.mp (hroom d hd))

/-- R44. -/
theorem takesCommand_of_few_replies {fn : Nat} {f : Function} (horigin : c.origin = .ring fn) (hf : fnGet s fn = some f)
    (hfew : replyFree f.channel < 2 + owedTo s fn) : takesCommand sp c s = false := by
  have hget : tabGet s.fns fn = some f := hf
  have hroom : decide (2 + owedTo s fn ≤ replyFree f.channel) = false := decide_eq_false (Nat.not_le.mpr hfew)
  simp only [takesCommand, horigin, readsCommands, hget, hroom, Bool.and_false]

/-- Settles O45 (log entry 88 for the held replies that D counts): with too few reply entries free the device does not take the command, and
`runCmd_of_not_taken` says what is left. -/
theorem fullReplyRingHoldsCommandsBack : Obligations.FullReplyRingHoldsCommandsBack := by
  unfold Obligations.FullReplyRingHoldsCommandsBack
  intro i sp c s fn f hrow horigin hf hfew
  have hnot : takesCommand sp c s = false := takesCommand_of_few_replies horigin hf hfew
  obtain ⟨own, hexec⟩ | ⟨_, -, -, hexec⟩ := exec_eq_runCmd_of_not_accepts hrow fun ⟨htake, _⟩ => Bool.eq_false_iff.mp hnot htake
  · right
    simp only [hexec, runCmd_of_not_taken hnot, horigin]
  · exact .inl hexec

/-! ### The queue of commands -/

theorem Keeps.pending_eq {q : List Instr} {n : Nat} {b : Bool} {k : Kept} (h : Keeps q n b k s) : s.pending = q := h.1.1

theorem Keeps.of_time_le {q : List Instr} {m n : Nat} {b : Bool} {k : Kept} (h : Keeps q n b k s) (hmn : m ≤ n) : Keeps q m b k s :=
  ⟨⟨h.1.1, hmn.trans h.time_le, h.1.2.2⟩, h.2⟩

/-- Settles O46: `exec_keeps` with the queue as the command finds it; no bound on the time is claimed, so that a power-on counts too. -/
theorem noCommandTouchesTheQueue : Obligations.NoCommandTouchesTheQueue := by
  unfold Obligations.NoCommandTouchesTheQueue
  intro c s t hi ht
  have hkeeps : KeepsO s.pending 0 false Kept.nothing (exec c s) :=
    exec_keeps c (Kept.nothing_spares c) (fun _ _ _ _ _ => rfl) (fun _ _ => rfl) ((keeps_nothing_of_inv hi).of_time_le (Nat.zero_le _))
  exact (hkeeps.elim ht).pending_eq

/-- Settles O38: a queue with a command in front and an empty one are the two branches of `step` (log entry 4 for the empty one). -/
theorem stepRunsTheFrontCommand : Obligations.StepRunsTheFrontCommand := by
  unfold Obligations.StepRunsTheFrontCommand
  refine ⟨fun _ _ _ => rfl, fun s hempty => ?_⟩
  simp only [step, hempty, idle]

end Sys2Proof.Machine
end

section
/-! The device and function commands (chapters 2 and 3): what each comes to where the device reads it and its own checks pass. -/

namespace Sys2Proof.Machine

variable {c : Cmd} {s t u : State} {r0 r1 r2 : Nat}

/-! ### dev.* -/

/-- R48: a result in host memory has a place of 128 bytes, aligned to 64; a helm command's result goes to the helm bus. -/
theorem doDevQuery_of_place (hplace : isHelm c = true ∨ param c 0 8 % 64 = 0 ∧ 128 ≤ param c 8 4) :
    doDevQuery c t = .done (writeResult c (param c 0 8) 1024 (devQueryBits t (fnLevel1 t (issuerOf c))) t) .ok 128 0 0 :=
  needParam_of_true (by simpa only [Bool.or_eq_true, Bool.and_eq_true, beq_iff_eq, decide_eq_true_eq] using hplace)

theorem doDevProfile_of_code {p : Profile} (hcode : profileOfCode (param c 0 1) = some p) :
    doDevProfile c t = .later t (.profile p (nextMultiple t.dev.now 100000)) := by
  rw [doDevProfile, hcode]

theorem doDevReset_of_mode (hmode : param c 0 1 = 0) :
    doDevReset c t = .done { t with dev := { t.dev with resetDue := some (t.dev.now + 10000, .railsHeld) } } .ok 0 0 0 :=
  needParam_of_true (beq_iff_eq.mpr hmode)

/-- R58. -/
theorem execProfileTakesEffect_of_waiting {p : Pending} {new : Profile} {b : Nat} (hlit : lit s = true)
    (hfind : s.commands.find? isProfileChange = some p) (hwhat : p.what = .profile new b) :
    execProfileTakesEffect s =
      .next (answer p .ok (profileCode s.dev.profile) b 0
        (wakeForProfile new { advanceTo b s with dev := { (advanceTo b s).dev with profile := new }, commands := s.commands.erase p })) := by
  rw [execProfileTakesEffect, whileLit_of_lit hlit]
  simp only [hfind, hwhat, advanceTo_commands]

/-- Settles O1: each command runs to its reply, and `PROFILE_TAKES_EFFECT` answers the oldest `dev.profile` that waits (log entry 108 for what
it wakes). -/
theorem deviceCommandsComplete : Obligations.DeviceCommandsComplete := by
  unfold Obligations.DeviceCommandsComplete
  refine ⟨?query, ?profile, ?profileChange, ?time, ?reset, ?pps⟩
  case query => exact fun _ _ _ h hplace => congrArg Host.Outcome.next (runCmd_eq_okReply h (doDevQuery_of_place hplace))
  case profile => exact fun _ _ _ _ h hcode => congrArg Host.Outcome.next (runCmd_eq_laterReply h (doDevProfile_of_code hcode))
  case profileChange => exact fun _ _ _ _ hlit hfind hwhat => execProfileTakesEffect_of_waiting hlit hfind hwhat
  case time => exact fun _ _ _ h => congrArg Host.Outcome.next (runCmd_eq_okReply h rfl)
  case reset => exact fun _ _ _ h hmode => congrArg Host.Outcome.next (runCmd_eq_okReply h (doDevReset_of_mode hmode))
  case pps => exact fun _ _ _ h => congrArg Host.Outcome.next (runCmd_eq_okReply h rfl)

/-! ### fn.* -/

theorem doFnQuery_of_function {f : Function} (hf : fnGet t (namedOf c) = some f) :
    doFnQuery c t =
      .done t .ok (pack [(0, 3, fnModeCode f.mode), (3, 1, flag f.level1), (4, 17, ownedSqs t (namedOf c)), (21, 17, ownedCqs t (namedOf c))])
        (ownedQps t (namedOf c)) f.retention := by
  simp only [doFnQuery, hf]

/-- R51. -/
theorem execFnStopQuiesced_of_quiesced {fn : Nat} (hlit : lit s = true) (hmode : fnModeOf s fn = .stopping) (hquiet : quiesced s fn = true) :
    execFnStopQuiesced fn s =
      .next (finishCmds (fun d => if d = .fnStop fn then some (.ok, 0, 0, 0) else none) (fnMod fn (fun f => { f with mode := .stopped }) s)) := by
  rw [execFnStopQuiesced, whileLit_of_lit hlit, if_pos ⟨hmode, hquiet⟩]

/-- Step 8 of Table 3-10, after which an `fn.stop` under way is answered (log entry 68): the function is released where its VF is
being disabled (R84), and is HELD otherwise. -/
theorem execFnResetComplete_of_quiet {fn : Nat} {f : Function} (hf : fnGet s fn = some f) (hmode : f.mode = .resetting)
    (hopen : (fnOpen s fn).isEmpty = true) :
    execFnResetComplete fn s =
      .next (if f.disabling then releaseFunction fn (finishCmds (fun d => if d = .fnStop fn then some (.ok, 0, 0, 0) else none) s)
        else fnMod fn (fun f => { f with mode := .held, heldSince := some s.dev.now })
          (finishCmds (fun d => if d = .fnStop fn then some (.ok, 0, 0, 0) else none) s)) := by
  simp only [execFnResetComplete, hf, hmode, hopen, ne_eq, not_true_eq_false, Bool.not_true, Bool.false_eq_true, or_self, if_false]
  exact (apply_ite Host.Outcome.next _ _ _).symm

/-- R87: the token is the function's, the list of R49 has room, and every channel can take the held replies. -/
theorem doFnAttach_of_token {f : Function} (hf : fnGet t (namedOf c) = some f) (htoken : f.token.map BitVec.toNat = some (param c 0 8))
    (hroom : 8 * ownedSqs t (namedOf c) ≤ param c 16 4)
    (htake : ((t.heldReplies.filter fun r => r.fn == namedOf c).all fun r => channelTakes t (namedOf c) (replyChannel r.origin) c.origin) = true) :
    doFnAttach c t =
      .done (releaseReplies (namedOf c) (fnMod (namedOf c) (fun x => { x with mode := .stopped, heldSince := none })
        (attachSignals (namedOf c)
          (sortedNats (((t.heldReplies.filter fun r => r.fn == namedOf c).filter fun r => !r.quiet).map fun r => replyChannel r.origin))
          (sortedNats ((heldWorks t (namedOf c)).filterMap fun p => match p.2.source with | .ring r => cqOfRing t r | .request _ _ => none))
          (deliverCompletions (namedOf c) (deliverReplies false (namedOf c) (rewindRings (namedOf c) (attachRecords (namedOf c) (param c 8 8)
            (replyNow 0x0205 c .accepted false 0 0 0 t))))))))
        .ok (ownedSqs t (namedOf c)) f.resetIndex.toNat 0 := by
  simp only [doFnAttach, hf]
  rw [if_neg (not_not.mpr htoken), if_neg (Nat.not_lt.mpr hroom), htake]
  rfl

/-- The fault records that waited follow the final reply (R87). -/
theorem execFnAttach_of_ok (h : accepts specFnAttach c s t) (hown : doFnAttach c t = .done u .ok r0 r1 r2) :
    execFnAttach c s = .next (pumpPartition (namedOf c) (okReply specFnAttach c r0 r1 r2 u)) := by
  obtain ⟨htake, rfl, hcheck⟩ := id h
  rw [execFnAttach, runCmd_eq_okReply h hown, if_pos]
  simp only [htake, hcheck, hown, Option.isNone_none, cmdSucceeds, Bool.and_self]

/-- R57: the level is 1, or 2 without the strap that forbids it, and the function owns nothing. -/
theorem doFnLevel_of_level (hlevel : param c 0 1 = 1 ∨ param c 0 1 = 2 ∧ t.dev.level1Strap = false)
    (hnone : ownedSqs t (namedOf c) + ownedCqs t (namedOf c) + ownedQps t (namedOf c) = 0) :
    doFnLevel c t =
      .done (fnMod (namedOf c) (fun f => { f with level1 := param c 0 1 == 1 }) t) .ok (if fnLevel1 t (namedOf c) then 1 else 2) 0 0 := by
  have hcode : (param c 0 1 == 1 || param c 0 1 == 2) = true := by
    simpa only [Bool.or_eq_true, beq_iff_eq] using hlevel.imp_right And.left
  have hstrap : ¬ (param c 0 1 = 2 ∧ t.dev.level1Strap = true) := by
    rintro ⟨htwo, hset⟩
    obtain hone | ⟨-, hclear⟩ := hlevel
    · omega
    · exact Bool.false_ne_true (hclear.symm.trans hset)
  simp only [doFnLevel, hcode, hstrap, hnone, Bool.not_true, Bool.false_eq_true, ne_eq, not_true_eq_false, if_false]

/-- R88. -/
theorem doFnRetain_of_seconds {f : Function} (hlow : 1 ≤ param c 0 2) (hhigh : param c 0 2 ≤ 600) (hf : fnGet t (namedOf c) = some f) :
    doFnRetain c t = .done (fnMod (namedOf c) (fun g => { g with retention := param c 0 2 }) t) .ok f.retention 0 0 := by
  simp only [doFnRetain, hf]
  exact needParam_of_true (decide_eq_true ⟨hlow, hhigh⟩)

/-- Settles O2: each command runs to its reply, and a stop or a reset under way comes to its end (log entry 68 for a stop that a reset overtook,
log entry 17 for the order in which an attach signals). -/
theorem functionCommandsComplete : Obligations.FunctionCommandsComplete := by
  unfold Obligations.FunctionCommandsComplete
  refine ⟨?query, ?stop, ?stopQuiesced, ?start, ?reset, ?resetComplete, ?attach, ?level, ?retain⟩
  case query => exact fun _ _ _ _ h hf => congrArg Host.Outcome.next (runCmd_eq_okReply h (doFnQuery_of_function hf))
  case stop => exact fun _ _ _ h => congrArg Host.Outcome.next (runCmd_eq_acceptedReply h rfl)
  case stopQuiesced => exact fun _ _ hlit hmode hquiet => execFnStopQuiesced_of_quiesced hlit hmode hquiet
  case start =>
    rintro c found s t _ _ h rfl rfl
    exact congrArg Host.Outcome.next (runCmd_eq_okReply h rfl)
  case reset => exact fun _ _ _ _ h => congrArg Host.Outcome.next (runCmd_eq_okReply h rfl)
  case resetComplete => exact fun _ _ _ hf hmode hopen => execFnResetComplete_of_quiet hf hmode hopen
  case attach =>
    rintro c s t f _ _ h hf htoken hroom htake rfl rfl
    exact execFnAttach_of_ok h (doFnAttach_of_token hf htoken hroom htake)
  case level => exact fun _ _ _ h hlevel hnone => congrArg Host.Outcome.next (runCmd_eq_okReply h (doFnLevel_of_level hlevel hnone))
  case retain =>
    exact fun _ _ _ _ h hlow hhigh hf => congrArg Host.Outcome.next (runCmd_eq_okReply h (doFnRetain_of_seconds hlow hhigh hf))

end Sys2Proof.Machine
end

section
/-! The registers and doorbells of a function (chapters 2 and 3): the channel page, BAR2, configuration space and the control path, scans and
re-reads of the rings, and acceptance. -/

namespace Sys2Proof.Machine

variable {s u : State} {fn ring offset width : Nat} {f : Function} {r : SubRing}

/-! ### The channel page -/

/-- R36. -/
theorem execChannelEnable_of_down {value : W32} (henable : bit value.toNat 0 = true) (hdown : channelDown s fn = true) :
    execChannelEnable fn value s =
      .next (lateReplies fn (chanMod fn (fun ch =>
        let c1 := { ch with replyVector := BitVec.ofNat 16 (bits value.toNat 16 11), enable := true }
        if settingsValid c1 value.toNat then
          { c1 with mode := .ready, replyIndex := 0, consumed := 0, replyHead := 0, disabling := false, starved := false, scanning := false,
                    rereads := 0 }
        else { c1 with mode := .fault }) (hearHost s))) := by
  have hdown' : channelDown (hearHost s) fn = true := hdown
  rw [execChannelEnable, if_pos henable, enableChannel, if_pos hdown']

/-- R36. -/
theorem execChannelDisable_of_clear {value : W32} (hclear : bit value.toNat 0 = false) :
    execChannelDisable fn value s =
      .next (if channelDown s fn then
          chanMod fn (fun ch => { ch with replyVector := BitVec.ofNat 16 (bits value.toNat 16 11), enable := false }) (hearHost s)
        else chanMod fn (fun ch => if ch.mode = .down then ch else { ch with disabling := true, enable := false }) (hearHost s)) := by
  rw [execChannelDisable, if_neg (Bool.eq_false_iff.mp hclear)]
  rfl

/-- R36: no final reply is owed. -/
theorem execChannelDownComplete_of_settled (hf : fnGet s fn = some f) (hdisabling : f.channel.disabling = true) (howed : owedTo s fn = 0) :
    execChannelDownComplete fn s =
      .next (chanMod fn (fun ch => { ch with mode := .down, disabling := false, starved := false, scanning := false, rereads := 0 }) s) := by
  simp only [execChannelDownComplete, hf, hdisabling, howed, beq_self_eq_true, Bool.and_self, if_true]

/-- R39, R85. -/
theorem execCmdDoorbell_of_open (slots : List SlotRead) (hopen : pageOpen s fn = true) :
    execCmdDoorbell fn slots none s = .next (scanCommands fn slots (startScan fn (touchWatchdog fn (hearHost s)))) :=
  if_pos hopen

/-- R39, R85, R114. -/
theorem execCmdDoorbell_of_fqHead (slots : List SlotRead) (head : W32) (hopen : pageOpen s fn = true)
    (hdma : dmaBarred (touchWatchdog fn (hearHost s)) fn = false) :
    execCmdDoorbell fn slots (some head) s =
      .next (scanCommands fn slots (startScan fn (readFqHead fn head (touchWatchdog fn (hearHost s))))) := by
  simp only [execCmdDoorbell, hopen, hdma, Bool.false_eq_true, if_true, if_false]

/-- R44: a channel that stopped for want of reply entries scans again once the device reads commands. -/
theorem execReplyHeadWrite_of_open {value : W32} (slots : List SlotRead) (hopen : pageOpen s fn = true)
    (hu : u = chanMod fn (fun ch => { ch with replyHead := BitVec.ofNat 16 (value.toNat % 2 ^ 32 % 65536) }) (hearHost s))
    (hf : fnGet u fn = some f) :
    execReplyHeadWrite fn value slots s =
      .next (scanCommands fn slots (if f.channel.starved && readsCommands u fn then
        startScan fn (chanMod fn (fun ch => { ch with starved := false }) u) else u)) := by
  subst hu
  rw [execReplyHeadWrite, if_pos hopen]
  simp only [takeReplyHead, hf]

/-! ### Host accesses -/

theorem execRegisterWrite_of_enabled (place : HostPlace) (value : Option W64) (hon : fnEnabled s fn = true) :
    execRegisterWrite fn place width value s = .next (hostAccess fn place width value (hearHost s)) :=
  if_pos hon

theorem execRegisterWrite_bar0 (value : W64) (hon : fnEnabled s fn = true) (hopen : pageOpen s fn = true) :
    execRegisterWrite fn (.bar0 offset) width (some value) s = .next (writeBar0 fn offset width value (hearHost s)) := by
  have hheard : pageOpen (hearHost s) fn = true := hopen
  rw [execRegisterWrite_of_enabled _ _ hon, hostAccess, if_pos hheard]

theorem execRegisterWrite_bar2 (value : W64) (hon : fnEnabled s fn = true) :
    execRegisterWrite fn (.bar2 offset) width (some value) s = .next (writeBar2 fn offset width value (hearHost s)) := by
  have hheard : fnEnabled (hearHost s) fn = true := hon
  rw [execRegisterWrite_of_enabled _ _ hon, hostAccess, if_pos hheard]

theorem execRegisterWrite_config (reg : CfgReg) (value : W64) (hon : fnEnabled s fn = true) :
    execRegisterWrite fn (.config reg) width (some value) s = .next (cfgWrite fn reg value.toNat (hearHost s)) := by
  have hheard : fnEnabled (hearHost s) fn = true := hon
  rw [execRegisterWrite_of_enabled _ _ hon, hostAccess, if_pos hheard]

theorem execRegisterWrite_config_read (reg : CfgReg) (hon : fnEnabled s fn = true) (hf : fnGet s fn = some f) :
    execRegisterWrite fn (.config reg) width none s =
      .next (emit (.registerData fn 32 (cfgRead (hearHost s) fn f reg)) (hearHost s)) := by
  have hheard : fnGet (hearHost s) fn = some f := hf
  rw [execRegisterWrite_of_enabled _ _ hon, hostAccess, hheard]

/-- R442: a control-path access to a stopped island waits in its crossing, behind the four that fit there. -/
theorem execRegisterWrite_control {island : Nat} (value : Option W64) (hon : fnEnabled s fn = true) (hisland : island < 18)
    (hstopped : bit s.clocks.stopped.toNat island = true) :
    execRegisterWrite fn (.control island) width value s =
      .next (crossingMod island (fun x =>
        if x.control.length < 4 then { x with control := x.control ++ [{ fn := fn, posted := value.isSome }] }
        else { x with behind := x.behind ++ [{ fn := fn, posted := value.isSome }] }) (hearHost s)) := by
  have hheard : bit (hearHost s).clocks.stopped.toNat island = true := hstopped
  rw [execRegisterWrite_of_enabled _ _ hon, hostAccess, controlAccess, if_neg (Nat.not_le.mpr hisland), if_pos hheard]

/-- R35. -/
theorem writeBar0_word (value : W64) (hring : doorbellRing fn offset = none) (haligned : offset % 4 = 0) :
    writeBar0 fn offset 32 value s = writeWord fn offset (value.toNat % 2 ^ 32) s := by
  have hok : alignedAccess offset 32 = true := by simp [alignedAccess, haligned]
  simp only [writeBar0, hring, hok, Bool.not_true, Bool.false_eq_true, if_false, if_true]

/-- R35. -/
theorem writeBar0_double (value : W64) (hring : doorbellRing fn offset = none) (haligned : offset % 8 = 0) :
    writeBar0 fn offset 64 value s = writeDouble fn offset value.toNat s := by
  have hok : alignedAccess offset 64 = true := by simp [alignedAccess, haligned]
  have hwidth : ¬ (64 : Nat) = 32 := by decide
  simp only [writeBar0, hring, hok, hwidth, Bool.not_true, Bool.false_eq_true, if_false]

/-- R34, R35. -/
theorem writeBar0_doorbell (value : W64) (hring : doorbellRing fn offset = some ring) (hlevel : fnLevel1 s fn = false) :
    writeBar0 fn offset width value s = ringDoorbell fn ring width [] none (touchWatchdog fn s) := by
  simp only [writeBar0, hring, hlevel, Bool.false_eq_true, if_false]

/-! ### Submission doorbells -/

theorem tabGet_tabMod_same {α : Type} (l : Tab α) (k : Nat) (g : α → α) : tabGet (tabMod l k g) k = (tabGet l k).map g := by
  induction l with
  | nil => rfl
  | cons p l ih =>
    obtain ⟨j, a⟩ := p
    by_cases hj : j = k
    · simp [tabMod, tabGet, hj]
    · simpa [tabMod, tabGet, hj] using ih

theorem touchWatchdog_mode : fnModeOf (touchWatchdog fn s) fn = fnModeOf s fn := by
  simp only [fnModeOf, touchWatchdog, fnMod_fns, tabGet_tabMod_same]
  cases tabGet s.fns fn <;> rfl

/-- The watchdog counts only while the function is RUNNING (R85). -/
theorem fnGet_touchWatchdog_of_not_running (hmode : fnModeOf s fn ≠ .running) : fnGet (touchWatchdog fn s) fn = fnGet s fn := by
  unfold fnModeOf at hmode
  simp only [fnGet, touchWatchdog, fnMod_fns, tabGet_tabMod_same]
  cases hget : tabGet s.fns fn with
  | none => rfl
  | some f =>
    rw [hget] at hmode
    simp only [Option.map_some, hmode, ne_eq, not_false_eq_true, or_true, if_true]

theorem doorbellTaken_eq_false_of_not_running (ring width : Nat) (hmode : fnModeOf s fn ≠ .running) : doorbellTaken s fn ring width = false := by
  simp only [doorbellTaken, beq_eq_false_iff_ne.mpr hmode, Bool.and_false, Bool.false_and]

/-- R75. -/
theorem ringDoorbell_of_taken (entries : List W512) (head : Option W32) (htaken : doorbellTaken s fn ring width = true) :
    ringDoorbell fn ring width entries head s =
      readHeadOf fn ring head (scanRing (pairKey fn ring) entries
        { s with sqs := tabMod s.sqs (pairKey fn ring) fun r => { r with doorbellAt := s.dev.now, rereads := 0, scanning := true } }) :=
  if_pos htaken

theorem ringDoorbell_of_not_taken (entries : List W512) (head : Option W32) (htaken : doorbellTaken s fn ring width = false) :
    ringDoorbell fn ring width entries head s = s :=
  if_neg (Bool.eq_false_iff.mp htaken)

theorem ringDoorbellLevel1_of_not_taken (value : W64) (entries : List W512) (head : Option W32)
    (htaken : doorbellTaken s fn ring width = false) : ringDoorbellLevel1 fn ring width value entries head s = s := by
  simp only [ringDoorbellLevel1, htaken]

/-- The bits of a level-1 doorbell above `PRODUCER_INDEX` (R77). -/
def doorbellRsvd (width : Nat) (value : W64) : Nat := if width = 64 then value.toNat / 65536 else bits value.toNat 16 16

/-- How far the producer index of a level-1 doorbell lies past the next entry that the device would fetch (R77, log entry 87). -/
def doorbellReach (r : SubRing) (value : W64) : Nat := (bits value.toNat 0 16 + 65536 - (r.accepted + r.prefetched.length) % 65536) % 65536

/-- R77. -/
theorem ringDoorbellLevel1_of_taken (value : W64) (entries : List W512) (head : Option W32) (htaken : doorbellTaken s fn ring width = true)
    (hr : tabGet s.sqs (pairKey fn ring) = some r) :
    ringDoorbellLevel1 fn ring width value entries head s =
      if doorbellRsvd width value ≠ 0 ∨ 2 ^ r.log2 < doorbellReach r value then
        raiseEvent .doorbellRange fn nodeSelf ring (bits value.toNat 0 16) s
      else
        readHeadOf fn ring head
          { s with
            sqs := tabSet s.sqs (pairKey fn ring)
              (fetchTake { r with producer := producerOf r (bits value.toNat 0 16), doorbellAt := s.dev.now } entries) } := by
  simp only [ringDoorbellLevel1, htaken, hr]
  rfl

theorem execSqDoorbell_of_ring (value : W64) (entries : List W512) (head : Option W32) (hlit : lit s = true)
    (hring : doorbellRing fn offset = some ring) :
    execSqDoorbell fn offset width value entries head s =
      .next (if fnLevel1 s fn then touchWatchdog fn (hearHost s) else ringDoorbell fn ring width entries head (touchWatchdog fn (hearHost s))) := by
  rw [execSqDoorbell, whileLit_of_lit hlit, hring]
  exact (apply_ite Host.Outcome.next _ _ _).symm

theorem execSqDoorbellLevel1_of_ring (value : W64) (entries : List W512) (head : Option W32) (hlit : lit s = true)
    (hring : doorbellRing fn offset = some ring) :
    execSqDoorbellLevel1 fn offset width value entries head s =
      .next (if fnLevel1 s fn then ringDoorbellLevel1 fn ring width value entries head (touchWatchdog fn (hearHost s))
        else touchWatchdog fn (hearHost s)) := by
  rw [execSqDoorbellLevel1, whileLit_of_lit hlit, hring]
  exact (apply_ite Host.Outcome.next _ _ _).symm

/-! ### Re-reads and acceptance -/

/-- A ring is read again while the data path runs (R449, R452). -/
theorem execRingReread_entries (entries : List W512) (hlit : lit s = true) :
    execRingReread fn ring (.entries entries) s = .next (rereadRing fn ring entries s) :=
  whileLit_of_lit hlit

theorem rereadRing_of_not_running (entries : List W512) (hmode : fnModeOf s fn ≠ .running) : rereadRing fn ring entries s = s := by
  cases hr : tabGet s.sqs (pairKey fn ring) with
  | none => simp only [rereadRing, hr]
  | some r => simp only [rereadRing, hr, hmode, ne_eq, not_false_eq_true, or_true, if_true]

/-- R75, R77: a scan under way goes on, and a level-1 ring is fetched from. -/
theorem rereadRing_of_scanning (entries : List W512) (hr : tabGet s.sqs (pairKey fn ring) = some r) (hrun : r.running = true)
    (hmode : fnModeOf s fn = .running) (hscan : fnLevel1 s fn = true ∨ r.rereads = 0 ∧ r.scanning = true) :
    rereadRing fn ring entries s = scanRing (pairKey fn ring) entries s := by
  simp only [rereadRing, hr, hrun, hmode, Bool.not_true, Bool.false_eq_true, ne_eq, not_true_eq_false, or_self, if_false]
  obtain hlevel | ⟨hspent, hscanning⟩ := hscan
  · rw [if_pos hlevel]
  · rw [if_pos hspent, if_pos hscanning, ite_self]

/-- R76: a re-read that is due finds the entry, and ends the re-reads, or is one fewer. -/
theorem rereadRing_of_armed (e : W512) (rest : List W512) (hr : tabGet s.sqs (pairKey fn ring) = some r) (hrun : r.running = true)
    (hmode : fnModeOf s fn = .running) (hlevel : fnLevel1 s fn = false) (harmed : r.rereads ≠ 0) :
    rereadRing fn ring (e :: rest) s =
      if entryPhase e = scanPhase r then
        scanRing (pairKey fn ring) (e :: rest) (advanceTo r.rereadAt
          { s with sqs := tabMod s.sqs (pairKey fn ring) fun x => { x with rereads := 0, rereadAt := x.rereadAt + (retryOf s fn).1 } })
      else
        advanceTo r.rereadAt
          { s with sqs := tabMod s.sqs (pairKey fn ring) fun x =>
              { x with rereads := r.rereads - 1, rereadAt := x.rereadAt + (retryOf s fn).1 } } := by
  simp only [rereadRing, hr, hrun, hmode, hlevel, harmed, Bool.not_true, Bool.false_eq_true, ne_eq, not_true_eq_false, or_self, if_false]

/-- R39, R76. -/
theorem rereadCommands_of_owned (x : SlotRead) (rest : List SlotRead) (hf : fnGet s fn = some f) (hready : f.channel.mode = .ready)
    (harmed : f.channel.rereads ≠ 0) (howned : slotOwned f.channel x.slot = true) :
    rereadCommands fn (x :: rest) s =
      scanCommands fn (x :: rest) (advanceTo f.channel.rereadAt
        (chanMod fn (fun c => { c with rereads := 0, rereadAt := c.rereadAt + 2000, scanning := true }) s)) := by
  simp only [rereadCommands, hf, hready, harmed, howned, ne_eq, not_true_eq_false, if_false, if_true]

/-- R21, R52. -/
theorem acceptNext_of_not_running (hmode : fnModeOf s fn ≠ .running) : acceptNext fn ring s = s := by
  cases hr : tabGet s.sqs (pairKey fn ring) with
  | none => simp only [acceptNext, hr]
  | some r =>
    cases hhead : r.prefetched with
    | nil => simp only [acceptNext, hr, hhead]
    | cons e rest => simp only [acceptNext, hr, hhead, hmode, ne_eq, not_false_eq_true, true_or, or_true, if_true]

/-- R21, R71, R79. -/
theorem acceptNext_of_turn {rec : Nat} {e : W512} {rest : List W512} (hlit : lit s = true) (hr : tabGet s.sqs (pairKey fn ring) = some r)
    (hhead : r.prefetched = e :: rest) (hmode : fnModeOf s fn = .running) (hrun : r.running = true) (hroom : ringBlocked s r fn = false)
    (hring : ringTurn s fn ring r = true) (hfn : fnTurn s fn = true)
    (hrec : journalEntry fn (.ring (pairKey fn ring)) r.accepted e s = some (rec, u)) :
    acceptNext fn ring s = judgeEntry fn rec e (advanceAccepted fn ring (chargeAccept fn ring u)) := by
  simp only [acceptNext, hr, hhead, hlit, hmode, hrun, hroom, hring, hfn, hrec, Bool.not_true, Bool.false_eq_true, ne_eq, not_true_eq_false,
    or_self, Bool.and_self, if_false]

/-- Settles O19: `exec` of each row is the row's own function, and a lemma above says what that does under the row's conditions (log entries 85,
87 and 88 for the order of a 64-bit write, the consumer of a level-1 doorbell, and replies delivered late). -/
theorem doorbellsComplete : Obligations.DoorbellsComplete := by
  unfold Obligations.DoorbellsComplete
  refine ⟨?enable, ?disable, ?downComplete, ?cmdDoorbell, ?cmdDoorbellFqHead, ?replyHead, ?word, ?double, ?bar0Doorbell, ?bar0Read, ?bar2Write,
    ?bar2Read, ?configRead, ?configWrite, ?control, ?level2, ?level1, ?level1OutOfRange, ?rescan, ?rereadFound, ?rereadMissed, ?rereadCommands,
    ?accept, ?release⟩
  case enable =>
    rintro fn value _ s henable hdown rfl
    exact execChannelEnable_of_down henable hdown
  case disable => exact fun _ _ _ hclear => execChannelDisable_of_clear hclear
  case downComplete => exact fun _ _ _ hf hdisabling howed => execChannelDownComplete_of_settled hf hdisabling howed
  case cmdDoorbell => exact fun _ slots _ hopen => execCmdDoorbell_of_open slots hopen
  case cmdDoorbellFqHead => exact fun _ slots head _ hopen hdma => execCmdDoorbell_of_fqHead slots head hopen hdma
  case replyHead => exact fun _ _ slots _ _ _ hopen hu hf => execReplyHeadWrite_of_open slots hopen hu hf
  case word =>
    exact fun _ _ value _ hon hopen hring haligned =>
      (execRegisterWrite_bar0 value hon hopen).trans (congrArg Host.Outcome.next (writeBar0_word value hring haligned))
  case double =>
    exact fun _ _ value _ hon hopen hring haligned =>
      (execRegisterWrite_bar0 value hon hopen).trans (congrArg Host.Outcome.next (writeBar0_double value hring haligned))
  case bar0Doorbell =>
    exact fun _ _ _ _ value _ hon hopen hring hlevel =>
      (execRegisterWrite_bar0 value hon hopen).trans (congrArg Host.Outcome.next (writeBar0_doorbell value hring hlevel))
  case bar0Read => exact fun _ _ _ _ hon => execRegisterWrite_of_enabled _ none hon
  case bar2Write => exact fun _ _ _ value _ hon => execRegisterWrite_bar2 value hon
  case bar2Read => exact fun _ _ _ _ hon => execRegisterWrite_of_enabled _ none hon
  case configRead => exact fun _ _ reg _ _ hon hf => execRegisterWrite_config_read reg hon hf
  case configWrite => exact fun _ _ reg value _ hon => execRegisterWrite_config reg value hon
  case control => exact fun _ _ _ value _ hon hisland hstopped => execRegisterWrite_control value hon hisland hstopped
  case level2 =>
    intro fn offset ring width value entries head s hlit hring htaken hlevel
    refine (execSqDoorbell_of_ring value entries head hlit hring).trans (congrArg Host.Outcome.next ?_)
    rw [hlevel]
    exact ringDoorbell_of_taken entries head htaken
  case level1 =>
    rintro fn offset ring width value entries head r _ _ s hlit hring htaken hlevel hr rfl rfl hrange
    refine (execSqDoorbellLevel1_of_ring value entries head hlit hring).trans (congrArg Host.Outcome.next ?_)
    rw [if_pos hlevel]
    exact (ringDoorbellLevel1_of_taken value entries head htaken hr).trans (if_neg hrange)
  case level1OutOfRange =>
    rintro fn offset ring width value entries head r _ _ s hlit hring htaken hlevel hr rfl rfl hrange
    refine (execSqDoorbellLevel1_of_ring value entries head hlit hring).trans (congrArg Host.Outcome.next ?_)
    rw [if_pos hlevel]
    exact (ringDoorbellLevel1_of_taken value entries head htaken hr).trans (if_pos hrange)
  case rescan =>
    exact fun _ _ entries _ _ hlit hr hrun hmode hscan =>
      (execRingReread_entries entries hlit).trans (congrArg Host.Outcome.next (rereadRing_of_scanning entries hr hrun hmode hscan))
  case rereadFound =>
    intro fn ring e rest r s hlit hr hrun hmode hlevel harmed hphase
    exact (execRingReread_entries _ hlit).trans
      (congrArg Host.Outcome.next ((rereadRing_of_armed e rest hr hrun hmode hlevel harmed).trans (if_pos hphase)))
  case rereadMissed =>
    intro fn ring e rest r s hlit hr hrun hmode hlevel harmed hphase
    exact (execRingReread_entries _ hlit).trans
      (congrArg Host.Outcome.next ((rereadRing_of_armed e rest hr hrun hmode hlevel harmed).trans (if_neg hphase)))
  case rereadCommands =>
    exact fun _ _ x rest _ _ hf hready harmed howned => congrArg Host.Outcome.next (rereadCommands_of_owned x rest hf hready harmed howned)
  case accept =>
    intro fn ring rec r e rest u s hlit hr hhead hmode hrun hroom hring hfn hrec
    exact (whileLit_of_lit hlit).trans (congrArg Host.Outcome.next (acceptNext_of_turn hlit hr hhead hmode hrun hroom hring hfn hrec))
  case release => exact fun _ _ hlit => whileLit_of_lit hlit

/-! ### A function that is not RUNNING (R22, R52, R78) -/

theorem whileLit_of_not_lit {k : Host.Outcome State Fault Refusal} (hlit : ¬ lit s = true) : whileLit s k = .next s := if_neg hlit

theorem touched_not_running (hmode : fnModeOf s fn ≠ .running) : fnModeOf (touchWatchdog fn (hearHost s)) fn ≠ .running :=
  touchWatchdog_mode.trans_ne hmode

/-- What a submission doorbell of a function that is not RUNNING leaves: the host has been heard, and the doorbell seen. -/
def doorbellHeard (fn offset : Nat) (s : State) : State :=
  if lit s then (if (doorbellRing fn offset).isSome then touchWatchdog fn (hearHost s) else hearHost s) else s

theorem execSqDoorbell_of_not_running (value : W64) (entries : List W512) (head : Option W32) (hmode : fnModeOf s fn ≠ .running) :
    execSqDoorbell fn offset width value entries head s = .next (doorbellHeard fn offset s) := by
  by_cases hlit : lit s = true
  · cases hring : doorbellRing fn offset with
    | none => simp only [execSqDoorbell, whileLit_of_lit hlit, doorbellHeard, hlit, hring, Option.isSome_none, Bool.false_eq_true, if_true, if_false]
    | some ring =>
      have hnot := doorbellTaken_eq_false_of_not_running ring width (touched_not_running hmode)
      simp only [execSqDoorbell_of_ring value entries head hlit hring, ringDoorbell_of_not_taken entries head hnot, ite_self, doorbellHeard,
        hlit, hring, Option.isSome_some, if_true]
  · rw [execSqDoorbell, whileLit_of_not_lit hlit, doorbellHeard, if_neg hlit]

theorem execSqDoorbellLevel1_of_not_running (value : W64) (entries : List W512) (head : Option W32) (hmode : fnModeOf s fn ≠ .running) :
    execSqDoorbellLevel1 fn offset width value entries head s = .next (doorbellHeard fn offset s) := by
  by_cases hlit : lit s = true
  · cases hring : doorbellRing fn offset with
    | none =>
      simp only [execSqDoorbellLevel1, whileLit_of_lit hlit, doorbellHeard, hlit, hring, Option.isSome_none, Bool.false_eq_true, if_true, if_false]
    | some ring =>
      have hnot := doorbellTaken_eq_false_of_not_running ring width (touched_not_running hmode)
      simp only [execSqDoorbellLevel1_of_ring value entries head hlit hring, ringDoorbellLevel1_of_not_taken value entries head hnot, ite_self,
        doorbellHeard, hlit, hring, Option.isSome_some, if_true]
  · rw [execSqDoorbellLevel1, whileLit_of_not_lit hlit, doorbellHeard, if_neg hlit]

theorem execRingReread_of_not_running (entries : List W512) (hmode : fnModeOf s fn ≠ .running) :
    execRingReread fn ring (.entries entries) s = .next s := by
  by_cases hlit : lit s = true
  · rw [execRingReread_entries entries hlit, rereadRing_of_not_running entries hmode]
  · exact whileLit_of_not_lit hlit

theorem execEntryAccept_of_not_running (hmode : fnModeOf s fn ≠ .running) : execEntryAccept fn ring s = .next s := by
  by_cases hlit : lit s = true
  · rw [execEntryAccept, whileLit_of_lit hlit, acceptNext_of_not_running hmode]
  · exact whileLit_of_not_lit hlit

/-- Settles O41: of the four modes only that none is RUNNING counts, and a lemma above says what each row then does. -/
theorem stoppedRingsAreIgnored : Obligations.StoppedRingsAreIgnored := by
  unfold Obligations.StoppedRingsAreIgnored
  intro fn offset ring width value entries head s hstopped
  have hmode : fnModeOf s fn ≠ .running := by
    obtain h | h | h | h := hstopped <;> rw [h] <;> decide
  refine ⟨?taken, ?level2, ?level1, ?function, ?reread, ?accept⟩
  case taken => exact doorbellTaken_eq_false_of_not_running ring width hmode
  case level2 => exact execSqDoorbell_of_not_running value entries head hmode
  case level1 => exact execSqDoorbellLevel1_of_not_running value entries head hmode
  case function => exact fnGet_touchWatchdog_of_not_running (s := hearHost s) hmode
  case reread => exact execRingReread_of_not_running entries hmode
  case accept => exact execEntryAccept_of_not_running hmode

end Sys2Proof.Machine
end

section
/-! The firmware's heartbeat, its watchdog, and the end of a firmware restart (chapters 1 and 17). -/

namespace Sys2Proof.Machine

variable {s : State}

/-- The heartbeat's instant has come (R37). -/
def heartbeatDue (s : State) : State :=
  advanceTo (nextMultiple s.dev.ticks.heartbeat 1000000)
    (tickMod (fun x => { x with heartbeat := nextMultiple s.dev.ticks.heartbeat 1000000 }) s)

/-- R37: a tick advances the liveness count, but not in the first 2 ms of a failover (log entry 117). -/
theorem execFwHeartbeatTick_of_running (hlife : s.dev.life = .running) :
    execFwHeartbeatTick s =
      .next (if heartbeatCounts s (nextMultiple s.dev.ticks.heartbeat 1000000) then
          devMod (fun d => { d with heartbeat := d.heartbeat + 1, lastLiveness := (heartbeatDue s).dev.now }) (heartbeatDue s)
        else heartbeatDue s) := by
  rw [execFwHeartbeatTick, if_pos hlife]
  exact (apply_ite Host.Outcome.next _ _ _).symm

/-- R452. -/
theorem execFwWatchdogExpiry_of_running (hlife : s.dev.life = .running) :
    execFwWatchdogExpiry s =
      .next (flushCrossing 14 (unreadCommands (devMod (fun d => { d with life := .fwRestart }) (advanceTo (s.dev.lastLiveness + 100000000) s)))) :=
  if_pos hlife

/-- A firmware restart has taken its time, up to 120 ms (R452, log entry 58). -/
def fwRestarted (s : State) : State :=
  takeFresh (advanceTo (s.dev.lastLiveness + 100000000 + 1000 * ((Config.freeWord s.dev.fresh).toNat % 120001)) s)

/-- The firmware serves again, its liveness and its heartbeat counted from now (R452). -/
def fwServing (u : State) : State :=
  devMod (fun d => { d with life := .running, lastLiveness := u.dev.now, ticks := { d.ticks with heartbeat := u.dev.now } }) u

/-- R452: queued fault records are written, and helm commands that waited run. -/
theorem execFwRestartComplete_of_verified (hlife : s.dev.life = .fwRestart) :
    execFwRestartComplete true s =
      .next (drainHelm (((fwServing (fwRestarted s)).spaces.map Prod.fst).foldl (fun t p => pumpPartition p t) (fwServing (fwRestarted s)))) :=
  if_pos hlife

/-- R397, R398. -/
theorem execFwRestartComplete_of_not_verified (hlife : s.dev.life = .fwRestart) :
    execFwRestartComplete false s = .next (drainHelm (devMod (fun d => { d with life := .romRecovery }) (fwRestarted s))) :=
  if_pos hlife

/-- Settles O35: the heartbeat and the end of a restart have two outcomes each, the watchdog one. -/
theorem firmwareEventsComplete : Obligations.FirmwareEventsComplete := by
  unfold Obligations.FirmwareEventsComplete
  refine ⟨?counted, ?paused, ?watchdog, ?verified, ?notVerified⟩
  case counted =>
    rintro _ _ s hlife rfl rfl hcounts
    exact (execFwHeartbeatTick_of_running hlife).trans (congrArg Host.Outcome.next (if_pos hcounts))
  case paused =>
    rintro _ _ s hlife rfl rfl hpaused
    exact (execFwHeartbeatTick_of_running hlife).trans (congrArg Host.Outcome.next (if_neg (Bool.eq_false_iff.mp hpaused)))
  case watchdog => exact fun _ hlife => execFwWatchdogExpiry_of_running hlife
  case verified =>
    rintro _ _ s hlife rfl rfl
    exact execFwRestartComplete_of_verified hlife
  case notVerified =>
    rintro _ s hlife rfl
    exact execFwRestartComplete_of_not_verified hlife

end Sys2Proof.Machine
end

section
/-! Frames: a command leaves every part of the state that `mayChange` does not list for it as it was. -/

namespace Sys2Proof.Machine

variable {α : Type} {p : Part} {c : Instr} {x y : α} {s t : State}

/-- The value `x` of part `p` is held, unless the command `c` may change the part. -/
def sparedValue (p : Part) (c : Instr) (x : α) : Option α := if mayChange p c then none else some x

theorem sparedValue_eq_none (hmay : mayChange p c = true) : sparedValue p c x = none := if_pos hmay

theorem isHeld_sparedValue : isHeld (sparedValue p c x) x := by
  intro v hv
  by_cases hmay : mayChange p c = true
  · rw [sparedValue_eq_none hmay] at hv
    cases hv
  · rw [sparedValue, if_neg hmay] at hv
    exact Option.some.inj hv

theorem eq_of_isHeld_sparedValue (hnot : mayChange p c = false) (h : isHeld (sparedValue p c x) y) : y = x :=
  h x (if_neg (Bool.eq_false_iff.mp hnot))

/-- Every part of `s` that the command `c` may not change, held as it is. -/
def Kept.sparedBy (c : Instr) (s : State) : Kept where
  mem := sparedValue .tarnMemory c s.tarns.mem
  regions := sparedValue .regions c s.regions
  retired := sparedValue .retiredKeys c s.retired
  sqs := sparedValue .submissionRings c s.sqs
  srqs := sparedValue .sharedQueues c s.srqs
  sched := sparedValue .scheduling c s.sched
  coll := sparedValue .collectives c s.coll
  cache := sparedValue .cachePools c s.cache
  ramp := sparedValue .rampLimiter c s.ramp
  opers := sparedValue .operators c s.opers
  sec := sparedValue .security c s.sec
  power := sparedValue .power c s.power
  thermal := sparedValue .thermal c s.thermal
  droop := sparedValue .droop c s.droop
  ceilings := sparedValue .ceilings c s.ceilings
  start := sparedValue .startResults c s.start
  pcie := sparedValue .hostLink c s.pcie
  jtag := sparedValue .testPort c s.jtag
  missSlots := sparedValue .missSlots c s.missSlots
  missWait := sparedValue .missWait c s.missWait

theorem Kept.sparedBy_spares (c : Instr) (s : State) : (Kept.sparedBy c s).Spares c := by
  constructor <;> exact sparedValue_eq_none

theorem keptIn_sparedBy (c : Instr) (s : State) : KeptIn (Kept.sparedBy c s) s := by
  simp only [KeptIn, Kept.sparedBy, isHeld_sparedValue, and_self]

theorem samePart_of_keptIn_sparedBy (hnot : mayChange p c = false) (h : KeptIn (Kept.sparedBy c s) t) : samePart p s t := by
  obtain ⟨hmem, hregions, hretired, hsqs, hsrqs, hsched, hcoll, hcache, hramp, hopers, hsec, hpower, hthermal, hdroop, hceilings, hstart, hpcie,
    hjtag, hmissSlots, hmissWait⟩ := h
  cases p with
  | tarnMemory => exact eq_of_isHeld_sparedValue hnot hmem
  | regions => exact eq_of_isHeld_sparedValue hnot hregions
  | retiredKeys => exact eq_of_isHeld_sparedValue hnot hretired
  | submissionRings => exact eq_of_isHeld_sparedValue hnot hsqs
  | sharedQueues => exact eq_of_isHeld_sparedValue hnot hsrqs
  | scheduling => exact eq_of_isHeld_sparedValue hnot hsched
  | collectives => exact eq_of_isHeld_sparedValue hnot hcoll
  | cachePools => exact eq_of_isHeld_sparedValue hnot hcache
  | rampLimiter => exact eq_of_isHeld_sparedValue hnot hramp
  | operators => exact eq_of_isHeld_sparedValue hnot hopers
  | security => exact eq_of_isHeld_sparedValue hnot hsec
  | power => exact eq_of_isHeld_sparedValue hnot hpower
  | thermal => exact eq_of_isHeld_sparedValue hnot hthermal
  | droop => exact eq_of_isHeld_sparedValue hnot hdroop
  | ceilings => exact eq_of_isHeld_sparedValue hnot hceilings
  | startResults => exact eq_of_isHeld_sparedValue hnot hstart
  | hostLink => exact eq_of_isHeld_sparedValue hnot hpcie
  | testPort => exact eq_of_isHeld_sparedValue hnot hjtag
  | missSlots => exact eq_of_isHeld_sparedValue hnot hmissSlots
  | missWait => exact eq_of_isHeld_sparedValue hnot hmissWait

/-- The frame of every command: `exec_keeps` with all the parts held that the command may not change. -/
theorem exec_samePart (hi : Inv s) (ht : exec c s = .next t) (p : Part) (hnot : mayChange p c = false) : samePart p s t := by
  have hbase : Keeps s.pending 0 false (Kept.sparedBy c s) s :=
    ⟨((keeps_nothing_of_inv hi).of_time_le (Nat.zero_le _)).1, keptIn_sparedBy c s⟩
  have hkeeps : KeepsO s.pending 0 false (Kept.sparedBy c s) (exec c s) :=
    exec_keeps c (Kept.sparedBy_spares c s) (fun _ _ _ _ _ => rfl) (fun _ _ => rfl) hbase
  exact samePart_of_keptIn_sparedBy hnot (hkeeps.elim ht).2

/-- Settles O51: `exec_samePart` for the submission rings, the shared queues and the schedulers. -/
theorem queueFrame : Obligations.QueueFrame := by
  unfold Obligations.QueueFrame
  intro c s t hi ht
  exact ⟨exec_samePart hi ht _, exec_samePart hi ht _, exec_samePart hi ht _⟩

/-- Settles O55: `exec_samePart` for the host link, the results of the last start and the test port. -/
theorem pinFrame : Obligations.PinFrame := by
  unfold Obligations.PinFrame
  intro c s t hi ht
  exact ⟨exec_samePart hi ht _, exec_samePart hi ht _, exec_samePart hi ht _⟩

end Sys2Proof.Machine
end

section
/-! The ring commands (chapter 3): what each comes to where the device reads it and its own checks pass. -/

namespace Sys2Proof.Machine

variable {c : Cmd} {s t : State}

/-- The submission ring that `ring.sq.create` makes, with its slot in the header block of its completion ring (R64, R70). -/
def createdSq (c : Cmd) (t : State) (slot : Nat) : SubRing :=
  { base := BitVec.ofNat 64 (param c 0 8), log2 := param c 8 1, weight := param c 9 1, burst := param c 10 1, cq := param c 12 2, slot := slot,
    accepted := 0, prefetched := [], producer := 0, running := fnModeOf t (namedOf c) == .running, scanning := false, doorbellAt := 0,
    rereads := 0, rereadAt := 0, roundTaken := 0, visitTaken := 0 }

/-- The completion ring that `ring.cq.create` makes (R64). -/
def createdCq (c : Cmd) : CplRing :=
  { base := BitVec.ofNat 64 (param c 0 8), header := BitVec.ofNat 64 (param c 8 8), log2 := param c 16 1, vector := vectorOf (param c 18 2),
    modCount := param c 20 2, modTime := param c 22 2, written := 0, head := 0, outstanding := 0, counted := 0, firstCounted := none,
    blocked := false }

/-- The ring takes the lowest free number of the function (R65); that it takes the lowest free slot of the header block is the model's choice. -/
theorem doRingSqCreate_of_room {q : CplRing} {slot : Nat} (halign : param c 0 8 % 4096 = 0) (hsize : sizeOk (param c 8 1) = true)
    (hweight : 1 ≤ param c 9 1) (hlow : 1 ≤ param c 10 1) (hhigh : param c 10 1 ≤ 64) (hq : cqGet t (namedOf c) (param c 12 2) = some q)
    (hslot : ((List.range 8).find? fun i => !((boundTo t (namedOf c) (param c 12 2)).map fun p => p.2.slot).contains i) = some slot)
    (hquota : (ringsOf t (namedOf c)).length < sqQuotaOf t (namedOf c)) (hroom : t.sqs.length < 65536) :
    doRingSqCreate c t =
      .done (emitHost (namedOf c) (.hostWrite (namedOf c) (q.header.toNat + 8 * slot) false 64 (acceptedWord 0 (freeLocal t.sqs (namedOf c)) true))
          { t with sqs := tabSet t.sqs (pairKey (namedOf c) (freeLocal t.sqs (namedOf c))) (createdSq c t slot) })
        .ok (freeLocal t.sqs (namedOf c)) slot 0 := by
  have hfree : ¬ (doRingSqCreate.ownedSqs0 t (namedOf c) ≥ sqQuotaOf t (namedOf c) ∨ t.sqs.length ≥ 65536) :=
    not_or.mpr ⟨Nat.not_le.mpr hquota, Nat.not_le.mpr hroom⟩
  simp only [doRingSqCreate, halign, hsize, hweight, hlow, hhigh, hq, hslot, hfree, beq_self_eq_true, and_self, decide_true, Bool.and_self,
    Bool.not_true, Bool.false_eq_true, if_false]
  rfl

theorem doRingCqCreate_of_room (hbase : param c 0 8 % 4096 = 0) (hheader : param c 8 8 % 128 = 0) (hsize : sizeOk (param c 16 1) = true)
    (hvector : vectorOk (param c 18 2) = true) (hlow : 1 ≤ param c 20 2) (hhigh : param c 20 2 ≤ 256) (htime : param c 22 2 ≤ 1023)
    (hquota : (t.cqs.filter fun p => p.1 / 65536 == namedOf c).length < cqQuotaOf t (namedOf c)) (hroom : t.cqs.length < 65536) :
    doRingCqCreate c t =
      .done { t with cqs := tabSet t.cqs (pairKey (namedOf c) (freeLocal t.cqs (namedOf c))) (createdCq c) } .ok (freeLocal t.cqs (namedOf c)) 0 0 := by
  have hfree : ¬ ((t.cqs.filter fun p => p.1 / 65536 == namedOf c).length ≥ cqQuotaOf t (namedOf c) ∨ t.cqs.length ≥ 65536) :=
    not_or.mpr ⟨Nat.not_le.mpr hquota, Nat.not_le.mpr hroom⟩
  simp only [doRingCqCreate, hbase, hheader, hsize, hvector, hlow, hhigh, htime, hfree, beq_self_eq_true, and_self, decide_true, Bool.and_self,
    Bool.not_true, Bool.false_eq_true, if_false]
  rfl

/-- R79. -/
theorem doRingSched_of_ring (hring : (tabGet t.sqs (pairKey (namedOf c) (param c 0 2))).isSome = true) (hweight : 1 ≤ param c 2 1)
    (hlow : 1 ≤ param c 3 1) (hhigh : param c 3 1 ≤ 64) :
    doRingSched c t =
      cmdOk { t with sqs := tabMod t.sqs (pairKey (namedOf c) (param c 0 2)) fun r => { r with weight := param c 2 1, burst := param c 3 1 } } :=
  needParam_of_true (by simp [hring, hweight, hlow, hhigh])

theorem doRingModerate_of_ring (hring : (tabGet t.cqs (pairKey (namedOf c) (param c 0 2))).isSome = true) (hlow : 1 ≤ param c 2 2)
    (hhigh : param c 2 2 ≤ 256) (htime : param c 4 2 ≤ 1023) (hvector : vectorOk (param c 6 2) = true) :
    doRingModerate c t =
      cmdOk (cqMod (pairKey (namedOf c) (param c 0 2))
        (fun q => { q with modCount := param c 2 2, modTime := param c 4 2, vector := vectorOf (param c 6 2) }) t) :=
  needParam_of_true (by simp [hring, hlow, hhigh, htime, hvector])

/-- R63: what is counted already is judged under the new settings once the reply is written. -/
theorem execRingModerate_of_ok {u : State} (h : accepts specRingModerate c s t) (hown : doRingModerate c t = cmdOk u) :
    execRingModerate c s = .next (judgeCq (pairKey (namedOf c) (param c 0 2)) (okReply specRingModerate c 0 0 0 u)) := by
  obtain ⟨htake, rfl, hcheck⟩ := id h
  have hgoes : (takesCommand specRingModerate c s && (cmdCheck specRingModerate c (consumeSlot c s)).isNone &&
      cmdSucceeds (doRingModerate c (consumeSlot c s))) = true := by
    rw [htake, hcheck, hown]
    rfl
  rw [execRingModerate, if_pos hgoes, runCmd_eq_okReply h hown]

theorem doRingDestroy_of_sq {r : SubRing} {q : CplRing} (hkind : param c 0 1 = 0)
    (hr : tabGet t.sqs (pairKey (namedOf c) (param c 2 2)) = some r) (hq : cqGet t (namedOf c) r.cq = some q) :
    doRingDestroy c t =
      cmdOk (emit (.hostWrite (namedOf c) (q.header.toNat + 8 * r.slot) false 64 (acceptedWord 0 0 false))
        (dropRingRecords (pairKey (namedOf c) (param c 2 2)) { t with sqs := tabErase t.sqs (pairKey (namedOf c) (param c 2 2)) })) := by
  simp only [doRingDestroy, hkind, hr, hq]

/-- R65: a completion ring goes once no submission ring is bound to it. -/
theorem doRingDestroy_of_cq (hkind : param c 0 1 = 1) (hring : (tabGet t.cqs (pairKey (namedOf c) (param c 2 2))).isNone = false)
    (hunbound : (boundTo t (namedOf c) (param c 2 2)).isEmpty = true) :
    doRingDestroy c t = cmdOk { t with cqs := tabErase t.cqs (pairKey (namedOf c) (param c 2 2)) } := by
  simp only [doRingDestroy, hkind, hring, hunbound, Bool.not_true, Bool.false_eq_true, if_false]

theorem doRingRetry_of_range (hlow : 1 ≤ param c 0 1) (hhigh : param c 0 1 ≤ 16) (hcount : param c 1 1 ≤ 15) :
    doRingRetry c t = cmdOk (fnMod (namedOf c) (fun f => { f with retryDelay := param c 0 1, retryCount := param c 1 1 }) t) :=
  needParam_of_true (by simp [hlow, hhigh, hcount])

/-- The quotas that `ring.quota` gives the function it names (R62). -/
def withQuotas (c : Cmd) (t : State) : State := fnMod (namedOf c) (fun f => { f with sqQuota := param c 0 2, cqQuota := param c 2 2 }) t

/-- R62: neither the function nor PF0, which has what the VFs leave, owns more rings than its new quota. -/
theorem doRingQuota_of_range (hsq : param c 0 2 ≤ 8192) (hcq : param c 2 2 ≤ 8192) (hownSq : (ringsOf t (namedOf c)).length ≤ param c 0 2)
    (hownCq : (t.cqs.filter fun p => p.1 / 65536 == namedOf c).length ≤ param c 2 2) (hpf0Sq : (ringsOf t 0).length ≤ sqQuotaOf (withQuotas c t) 0)
    (hpf0Cq : (t.cqs.filter fun p => p.1 / 65536 == 0).length ≤ cqQuotaOf (withQuotas c t) 0) :
    doRingQuota c t = cmdOk (withQuotas c t) := by
  have hrange : ¬ (param c 0 2 > 8192 ∨ param c 2 2 > 8192) := not_or.mpr ⟨Nat.not_lt.mpr hsq, Nat.not_lt.mpr hcq⟩
  have hfits : ¬ (param c 0 2 < (ringsOf t (namedOf c)).length ∨ param c 2 2 < (t.cqs.filter fun p => p.1 / 65536 == namedOf c).length ∨
      sqQuotaOf (withQuotas c t) 0 < (ringsOf t 0).length ∨ cqQuotaOf (withQuotas c t) 0 < (t.cqs.filter fun p => p.1 / 65536 == 0).length) := by
    omega
  exact (if_neg hrange).trans (if_neg hfits)

/-- R85. -/
theorem doHostWatchdog_of_range (hms : param c 0 2 ≤ 10000) :
    doHostWatchdog c t =
      cmdOk (fnMod (namedOf c) (fun f =>
        { f with
          watchdogMs := param c 0 2
          watchdogAt := if param c 0 2 = 0 ∨ f.mode ≠ .running then none else some (t.dev.now + 1000000 * param c 0 2) }) t) :=
  needParam_of_true (decide_eq_true hms)

/-- Settles O7: each command runs to its reply, and `ring.moderate` judges its ring after it. -/
theorem ringCommandsComplete : Obligations.RingCommandsComplete := by
  unfold Obligations.RingCommandsComplete
  refine ⟨?sqCreate, ?cqCreate, ?sched, ?moderate, ?destroySq, ?destroyCq, ?retry, ?quota, ?watchdog⟩
  case sqCreate =>
    rintro c s t q slot n r h halign hsize hweight hlow hhigh hq hslot hquota hroom rfl rfl
    exact congrArg Host.Outcome.next
      (runCmd_eq_okReply h (doRingSqCreate_of_room halign hsize hweight hlow hhigh hq hslot hquota hroom))
  case cqCreate =>
    exact fun _ _ _ h hbase hheader hsize hvector hlow hhigh htime hquota hroom => congrArg Host.Outcome.next
      (runCmd_eq_okReply h (doRingCqCreate_of_room hbase hheader hsize hvector hlow hhigh htime hquota hroom))
  case sched =>
    exact fun _ _ _ h hring hweight hlow hhigh =>
      congrArg Host.Outcome.next (runCmd_eq_okReply h (doRingSched_of_ring hring hweight hlow hhigh))
  case moderate =>
    exact fun _ _ _ h hring hlow hhigh htime hvector => execRingModerate_of_ok h (doRingModerate_of_ring hring hlow hhigh htime hvector)
  case destroySq =>
    exact fun _ _ _ _ _ h hkind hr hq => congrArg Host.Outcome.next (runCmd_eq_okReply h (doRingDestroy_of_sq hkind hr hq))
  case destroyCq =>
    exact fun _ _ _ h hkind hring hunbound => congrArg Host.Outcome.next (runCmd_eq_okReply h (doRingDestroy_of_cq hkind hring hunbound))
  case retry =>
    exact fun _ _ _ h hlow hhigh hcount => congrArg Host.Outcome.next (runCmd_eq_okReply h (doRingRetry_of_range hlow hhigh hcount))
  case quota =>
    rintro c s t _ h hsq hcq rfl hownSq hownCq hpf0Sq hpf0Cq
    exact congrArg Host.Outcome.next (runCmd_eq_okReply h (doRingQuota_of_range hsq hcq hownSq hownCq hpf0Sq hpf0Cq))
  case watchdog => exact fun _ _ _ h hms => congrArg Host.Outcome.next (runCmd_eq_okReply h (doHostWatchdog_of_range hms))

end Sys2Proof.Machine
end

section
/-! The entries of the rings (chapters 3, 5, 9, 10 and 11): how each begins, and how those without a second part end. -/

namespace Sys2Proof.Machine

variable {s : State} {rec : Nat} {w : Work} {q : Qp}

/-- The record `rec` counts as begun. -/
def begunWork (rec : Nat) (s : State) : State := workMod rec (fun w => { w with begun := true }) s

theorem execNop_of_ready (hlit : lit s = true) (hready : readyWork s rec .nop = some w) :
    execNop rec s = .next (complete rec .ok 0 none s) := by
  rw [execNop, whileLit_of_lit hlit, hready]

/-! ### Transport entries -/

/-- The bytes that the send key of an entry must have room for before it starts (R391). -/
def keyedLength (o : WorkOp) (e : W512) : Nat := if o = .read then 0 else if hasLength o then entryLength e else 0

/-- R131, R134, R391. -/
theorem startEntry_of_mayStart {o : WorkOp} {m : TxMessage} (hready : readyWork s rec o = some w)
    (hq : qpGet s (entryContext w.entry) = some q) (hstart : mayStart s (entryContext w.entry) q o rec w = true)
    (hhost : hostBarred s w.fn o w.entry = false) (hm : messageOf q rec = some m)
    (hkey : keyAllows q m.phase (keyedLength o w.entry) = true) :
    startEntry o rec s = buildWork (entryContext w.entry) rec o (begunWork rec s) := by
  rw [keyedLength] at hkey
  simp only [startEntry, hready, hq, hstart, hhost, hm, hkey, Bool.not_true, Bool.false_eq_true, if_false]
  rfl

theorem whileLit_startEntry {o : WorkOp} {m : TxMessage} (hlit : lit s = true) (hready : readyWork s rec o = some w)
    (hq : qpGet s (entryContext w.entry) = some q) (hstart : mayStart s (entryContext w.entry) q o rec w = true)
    (hhost : hostBarred s w.fn o w.entry = false) (hm : messageOf q rec = some m)
    (hkey : keyAllows q m.phase (keyedLength o w.entry) = true) :
    whileLit s (.next (startEntry o rec s)) = .next (buildWork (entryContext w.entry) rec o (begunWork rec s)) := by
  rw [whileLit_of_lit hlit, startEntry_of_mayStart hready hq hstart hhost hm hkey]

/-- A fence waits for every entry of its queue pair that was accepted before it (R134). -/
theorem execWorkFence_of_clear (hlit : lit s = true) (hready : readyWork s rec .fence = some w)
    (hq : qpGet s (entryContext w.entry) = some q) (hphase : q.phase = .ready)
    (hclear : (earlierOpen s (entryContext w.entry) w).isEmpty = true) : execWorkFence rec s = .next (complete rec .ok 0 none s) := by
  rw [execWorkFence, whileLit_of_lit hlit]
  simp only [hready, hq, hphase, hclear, beq_self_eq_true, Bool.and_self, if_true]

/-! ### Receives, collectives, attention requests and operators -/

/-- A receive for the same buffers was accepted before `w` and has not begun (R129). -/
def earlierReceive (s : State) (w : Work) : Bool :=
  (works s).any fun p => entryOp p.2.entry == 0x10 && recvToSrq p.2.entry == recvToSrq w.entry &&
    entryContext p.2.entry == entryContext w.entry && !p.2.begun && p.2.state == .accepted && decide (p.2.order < w.order)

/-- An entry of opcode `op` with the same context was accepted before `w` and has not begun (R242, R287). -/
def earlierUnbegun (op : Nat) (s : State) (w : Work) : Bool :=
  (works s).any fun p => entryOp p.2.entry == op && entryContext p.2.entry == entryContext w.entry && !p.2.begun &&
    p.2.state == .accepted && decide (p.2.order < w.order)

/-- An operator of the same stream was accepted before `w` and has not ended (R313). -/
def earlierOperator (s : State) (w : Work) : Bool :=
  (works s).any fun p => entryOp p.2.entry == 0x31 && p.2.fn == w.fn && decide (p.2.order < w.order) &&
    entryContext p.2.entry == entryContext w.entry && openWork s p.1

theorem joinReceive_of_first (hfirst : earlierReceive s w = false) :
    joinReceive rec w s =
      if recvToSrq w.entry then
        judgeSrq (entryContext w.entry)
          { begunWork rec s with
            srqs := tabMod (begunWork rec s).srqs (entryContext w.entry) fun q => { q with buffers := q.buffers ++ [rec] } }
      else
        recvMod (entryContext w.entry) (fun r => { r with posted := r.posted ++ [(r.nextPost, rec)], nextPost := r.nextPost + 1 })
          (begunWork rec s) :=
  if_neg (Bool.eq_false_iff.mp hfirst)

theorem execPostReceive_of_ready (hlit : lit s = true) (hready : readyWork s rec .recv = some w) :
    execPostReceive rec s = .next (joinReceive rec w s) := by
  rw [execPostReceive, whileLit_of_lit hlit, hready]

/-- R242, R271: the entry joins its group, unless the group is broken. -/
theorem execPostCollective_of_first {g : CollGroup} (hlit : lit s = true) (hready : readyWork s rec .coll = some w)
    (hfirst : earlierUnbegun 0x20 s w = false) (hg : groupGet s (entryContext w.entry) = some g) :
    execPostCollective rec s =
      .next (if g.mode = .broken then complete rec .collAborted 0 none (begunWork rec s)
        else collGo (entryContext w.entry)
          (groupMod (entryContext w.entry) (fun g => { g with waiting := g.waiting ++ [rec] }) (begunWork rec s))) := by
  rw [execPostCollective, whileLit_of_lit hlit, hready]
  refine (if_neg (Bool.eq_false_iff.mp hfirst)).trans ?_
  simp only [hg]
  exact (apply_ite Host.Outcome.next _ _ _).symm

theorem execAttentionRequest_of_first (query : List Byte) (hlit : lit s = true) (hready : readyWork s rec .attention = some w)
    (hfirst : earlierUnbegun 0x30 s w = false) : execAttentionRequest rec query s = .next (beginAttn rec w query s) := by
  rw [execAttentionRequest, whileLit_of_lit hlit, hready]
  exact if_neg (Bool.eq_false_iff.mp hfirst)

/-- A stream that is switched out on a fault, or waits for a miss slot, does not go on (R108, R111). -/
theorem not_blocked_of_open {a : Prop} {x : StreamId} (ha : ¬ a) (hrun : isSuspended s x false = false) (hstall : stalled s x = false) :
    ¬ (a ∨ isSuspended s x false = true ∨ stalled s x = true) :=
  not_or.mpr ⟨ha, not_or.mpr ⟨Bool.eq_false_iff.mp hrun, Bool.eq_false_iff.mp hstall⟩⟩

theorem execShoalOperator_of_first (fetched : List Byte) (hlit : lit s = true) (hready : readyWork s rec .operator = some w)
    (hfirst : earlierOperator s w = false) (hrun : isSuspended s (.oper w.fn (entryContext w.entry)) false = false)
    (hstall : stalled s (.oper w.fn (entryContext w.entry)) = false) :
    execShoalOperator rec fetched s = .next (beginOper rec w fetched s) := by
  rw [execShoalOperator, whileLit_of_lit hlit, hready]
  exact if_neg (not_blocked_of_open (Bool.eq_false_iff.mp hfirst) hrun hstall)

/-- R322. -/
theorem execTileStart_of_left {run : OpRun} {o : OpKind} (fetched : List Byte) (hlit : lit s = true) (hrun : opRunOf s rec = some run)
    (hw : workGet s rec = some w) (hkind : opKindOf (bits w.entry.toNat 128 8) = some o)
    (hleft : run.next < opTiles o (opDesc w.entry) run.rows) (hopen : isSuspended s (.oper run.fn run.stream) false = false)
    (hstall : stalled s (.oper run.fn run.stream) = false) :
    execTileStart rec fetched s = .next (startTile o (opDesc w.entry) run fetched s) := by
  rw [execTileStart, whileLit_of_lit hlit]
  simp only [hrun, hw, hkind]
  exact if_neg (not_blocked_of_open (Nat.not_le.mpr hleft) hopen hstall)

/-- Settles O20: the seven transport entries start alike (`whileLit_startEntry`), and a lemma above says how each other entry begins or ends. -/
theorem workEntriesComplete : Obligations.WorkEntriesComplete := by
  unfold Obligations.WorkEntriesComplete
  refine ⟨?nop, ?write, ?writeImm, ?read, ?send, ?fadd, ?cswap, ?flush, ?fence, ?receiveShared, ?receiveOwn, ?collective, ?collectiveBroken,
    ?attention, ?operator, ?tile⟩
  case nop => exact fun _ _ _ hlit hready => execNop_of_ready hlit hready
  case write | writeImm | read | send | fadd | cswap | flush =>
    exact fun _ _ _ _ _ hlit hready hq hstart hhost hm hkey => whileLit_startEntry hlit hready hq hstart hhost hm hkey
  case fence => exact fun _ _ _ _ hlit hready hq hphase hclear => execWorkFence_of_clear hlit hready hq hphase hclear
  case receiveShared =>
    exact fun _ _ _ hlit hready hfirst hshared =>
      (execPostReceive_of_ready hlit hready).trans (congrArg Host.Outcome.next ((joinReceive_of_first hfirst).trans (if_pos hshared)))
  case receiveOwn =>
    exact fun _ _ _ hlit hready hfirst hown =>
      (execPostReceive_of_ready hlit hready).trans
        (congrArg Host.Outcome.next ((joinReceive_of_first hfirst).trans (if_neg (Bool.eq_false_iff.mp hown))))
  case collective =>
    exact fun _ _ _ _ hlit hready hfirst hg hwhole =>
      (execPostCollective_of_first hlit hready hfirst hg).trans (congrArg Host.Outcome.next (if_neg hwhole))
  case collectiveBroken =>
    exact fun _ _ _ _ hlit hready hfirst hg hbroken =>
      (execPostCollective_of_first hlit hready hfirst hg).trans (congrArg Host.Outcome.next (if_pos hbroken))
  case attention => exact fun _ query _ _ hlit hready hfirst => execAttentionRequest_of_first query hlit hready hfirst
  case operator => exact fun _ fetched _ _ hlit hready hfirst hrun hstall => execShoalOperator_of_first fetched hlit hready hfirst hrun hstall
  case tile =>
    exact fun _ fetched _ _ _ _ hlit hrun hw hkind hleft hopen hstall => execTileStart_of_left fetched hlit hrun hw hkind hleft hopen hstall

end Sys2Proof.Machine
end

section
/-! The timers of the transport and of interrupt moderation (chapters 3 and 6): each acts at the instant at which it runs out. -/

namespace Sys2Proof.Machine

variable {s : State} {qp t : Nat} {q : Qp}

/-- R63. -/
theorem execModTimeExpiry_of_counted {fn cq : Nat} {r : CplRing} (hlit : lit s = true) (hr : cqGet s fn cq = some r)
    (hfirst : r.firstCounted = some t) :
    execModTimeExpiry fn cq s = .next (judgeCq (pairKey fn cq) (advanceTo (t + 1000 * r.modTime) s)) := by
  rw [execModTimeExpiry, whileLit_of_lit hlit]
  simp only [hr, hfirst]

/-! ### The acknowledgement timer (R148) -/

theorem ackDue_of_told (hsettled : q.recv.firstSettledAt = some t) (htold : q.send.ownRetired = q.recv.toldRetired) :
    ackDue s q = some (t + ackDelay s) := by
  simp only [ackDue, hsettled, htold, Option.map_some, if_true]

theorem ackDue_of_untold (hsettled : q.recv.firstSettledAt = some t) (huntold : q.send.ownRetired ≠ q.recv.toldRetired) :
    ackDue s q = some (min (t + ackDelay s) (q.recv.ackAt + 4000)) := by
  simp only [ackDue, hsettled, huntold, Option.map_some, if_false]

theorem ackDue_of_retired_alone (hnone : q.recv.firstSettledAt = none) (huntold : q.send.ownRetired ≠ q.recv.toldRetired) :
    ackDue s q = some (q.recv.ackAt + 4000) := by
  simp only [ackDue, hnone, huntold, Option.map_none, if_false]

theorem execAckCoalesceTimer_of_due (hlit : lit s = true) (hq : qpGet s qp = some q) (hphase : q.phase = .ready) (hdue : ackDue s q = some t) :
    execAckCoalesceTimer qp s = .next (sendAck qp (advanceTo t s)) := by
  rw [execAckCoalesceTimer, whileLit_of_lit hlit]
  simp only [hq, hphase, hdue, ne_eq, not_true_eq_false, if_false]

/-! ### The retransmission timer (R154) -/

/-- The packets that the expiry finds lost: unacknowledged, and older than RTO at `now`. -/
def expiredPackets (q : Qp) (now : Nat) : List TxPacket :=
  q.send.flight.filter fun x => !x.sacked && !x.retx && !heldBack q x && decide (x.sentAt + rto q ≤ now)

/-- The reads that miss responses, and last asked for them RTO before `now` or earlier (R156). -/
def expiredReads (s : State) (q : Qp) (now : Nat) : List (TxMessage × TxPacket) :=
  (waitingReads s q).filter fun r => !heldBack q r.2 && decide (askedAt r.1 r.2 + rto q ≤ now)

/-- The queue pair and the paths of what is lost take note of it (R175, R177). -/
def noteLost (q : Qp) (lost : List TxPacket) (c : QpCc) : QpCc :=
  { c with
    lossTimer := c.lossTimer || !lost.isEmpty
    paths := lost.foldl (fun t x => tabSet t x.lastPath { ((tabGet t x.lastPath).getD (pathCc q x.lastPath)) with lossTimer := true }) c.paths }

theorem expireTimer_of_due (hq : qpGet s qp = some q) (hphase : q.phase = .ready) (hdue : timerDue s q = some t) :
    expireTimer qp s =
      (expiredReads s q (advanceTo t s).dev.now).foldl (renewRead qp)
        (loseAll qp ((expiredPackets q (advanceTo t s).dev.now).map fun x => x.seq)
          (ccMod qp (noteLost q (expiredPackets q (advanceTo t s).dev.now))
            (sendMod qp (fun x => { x with backoff := min (x.backoff + 1) 16 }) (advanceTo t s)))) := by
  simp only [expireTimer, hq, hphase, hdue, ne_eq, not_true_eq_false, if_false]
  rfl

theorem execRetransmitTimeout_of_lit (qp : Nat) (hlit : lit s = true) : execRetransmitTimeout qp s = .next (expireTimer qp s) :=
  whileLit_of_lit hlit

/-! ### Delayed resends, silence and lost paths -/

/-- R139. -/
theorem execRnrResend_of_waiting {m : TxMessage} (hlit : lit s = true) (hq : qpGet s qp = some q) (hnext : nextRnr q = some m) :
    execRnrResend qp s =
      .next (resendWhere qp (fun x => x.work == m.work)
        (messageMod qp m.work (fun m => { m with rnrAt := none, rnrTries := m.rnrTries + 1 }) (advanceTo (m.rnrAt.getD 0) s))) := by
  rw [execRnrResend, whileLit_of_lit hlit]
  simp only [hq, hnext]

/-- Table 6-5. -/
theorem execFaultWaitResend_of_waiting {x : W32} (hlit : lit s = true) (hq : qpGet s qp = some q) (hwait : q.send.faultWait = some x) :
    execFaultWaitResend qp s =
      .next (resendWhere qp (fun y => y.seq == x)
        (sendMod qp (fun y => { y with faultWaitAt := (advanceTo q.send.faultWaitAt s).dev.now + 1000 * q.conf.rnrDelay })
          (advanceTo q.send.faultWaitAt s))) := by
  rw [execFaultWaitResend, whileLit_of_lit hlit]
  simp only [hq, hwait]

/-- R155. -/
theorem execSilenceLimit_of_silent {m : TxMessage} (hlit : lit s = true) (hq : qpGet s qp = some q) (hsilent : silentSince s q = some t)
    (holdest : oldestOutstanding s q = some m) (hphase : q.phase = .ready) :
    execSilenceLimit qp s = .next (failEntry qp m.work .retryExhausted 0 (advanceTo (t + 1000000000) s)) := by
  rw [execSilenceLimit, whileLit_of_lit hlit]
  simp only [hq, hsilent, holdest, hphase, if_true]

/-- R142. -/
theorem execNoPathTimeout_of_no_path {m : TxMessage} (hlit : lit s = true) (hq : qpGet s qp = some q) (hsince : q.send.noPathSince = some t)
    (holdest : q.send.messages.head? = some m) (hphase : q.phase = .ready) :
    execNoPathTimeout qp s = .next (failEntry qp m.work .remoteUnreachable 0 (advanceTo (t + 100000000) s)) := by
  rw [execNoPathTimeout, whileLit_of_lit hlit]
  simp only [hq, hsince, holdest, hphase, if_true]

/-- Settles O23: a lemma above for each timer; the acknowledgement timer has three instants, which `ackDue` tells apart. -/
theorem transportTimersComplete : Obligations.TransportTimersComplete := by
  unfold Obligations.TransportTimersComplete
  refine ⟨?moderation, ?ackSettled, ?ackBoth, ?ackRetired, ?retransmit, ?rnr, ?faultWait, ?silence, ?noPath⟩
  case moderation => exact fun _ _ _ _ _ hlit hr hfirst => execModTimeExpiry_of_counted hlit hr hfirst
  case ackSettled =>
    exact fun _ _ _ _ hlit hq hphase hsettled htold => execAckCoalesceTimer_of_due hlit hq hphase (ackDue_of_told hsettled htold)
  case ackBoth =>
    exact fun _ _ _ _ hlit hq hphase hsettled huntold => execAckCoalesceTimer_of_due hlit hq hphase (ackDue_of_untold hsettled huntold)
  case ackRetired =>
    exact fun _ _ _ hlit hq hphase hnone huntold => execAckCoalesceTimer_of_due hlit hq hphase (ackDue_of_retired_alone hnone huntold)
  case retransmit =>
    rintro qp t q _ _ _ s hlit hq hphase hdue rfl rfl rfl
    exact (execRetransmitTimeout_of_lit qp hlit).trans (congrArg Host.Outcome.next (expireTimer_of_due hq hphase hdue))
  case rnr => exact fun _ _ _ _ hlit hq hnext => execRnrResend_of_waiting hlit hq hnext
  case faultWait => exact fun _ _ _ _ hlit hq hwait => execFaultWaitResend_of_waiting hlit hq hwait
  case silence => exact fun _ _ _ _ _ hlit hq hsilent holdest hphase => execSilenceLimit_of_silent hlit hq hsilent holdest hphase
  case noPath => exact fun _ _ _ _ _ hlit hq hsince holdest hphase => execNoPathTimeout_of_no_path hlit hq hsince holdest hphase

end Sys2Proof.Machine
end

section
/-! The events of functions, of the host link and of the island clocks (chapters 1, 3 and 16), and function resets that find the function
RESETTING or HELD (chapter 3). -/

namespace Sys2Proof.Machine

variable {s : State} {fn t : Nat} {f : Function}

/-! ### Retention, the watchdog and FLR -/

/-- R88. -/
theorem execRetentionExpiry_of_held (hlit : lit s = true) (hf : fnGet s fn = some f) (hmode : f.mode = .held) (hsince : f.heldSince = some t) :
    execRetentionExpiry fn s =
      .next (expireRetention fn (discardHeld fn f.retention (advanceTo (t + 1000000000 * f.retention) s))) := by
  rw [execRetentionExpiry, whileLit_of_lit hlit]
  simp only [hf, hmode, hsince]

/-- A function that is not HELD loses only the completions that a lost spur port has held for it (R227). -/
theorem execRetentionExpiry_of_streams (hlit : lit s = true) (hf : fnGet s fn = some f) (hmode : f.mode ≠ .held)
    (hsince : streamsHeldSince s fn = some t) :
    execRetentionExpiry fn s = .next (discardHeld fn f.retention (advanceTo (t + 1000000000 * f.retention) s)) := by
  rw [execRetentionExpiry, whileLit_of_lit hlit]
  simp only [hf, hsince]
  split
  · exact absurd ‹f.mode = .held› hmode
  · rfl

/-- R85. -/
theorem execHostWatchdogExpiry_of_running (heads : List HeadRead) (hlit : lit s = true) (hf : fnGet s fn = some f) (hmode : f.mode = .running)
    (hat : f.watchdogAt = some t) :
    execHostWatchdogExpiry fn heads s = .next (resetFunction fn (readHeads fn heads (advanceTo t s))) := by
  rw [execHostWatchdogExpiry, whileLit_of_lit hlit]
  simp only [hf, Option.bind_some, hmode, if_true, hat]

/-- R81, R84: an FLR of PF0 makes the VFs latent. -/
theorem execFlr_of_present (heads : List HeadRead) (hf : fnGet s fn = some f) (hpresent : f.latent = false) :
    execFlr fn heads s =
      .next (if fn = 0 then latchVfs (fnMod fn clearConfig (resetFunction fn (readHeads fn heads s)))
        else fnMod fn clearConfig (resetFunction fn (readHeads fn heads s))) := by
  simp only [execFlr, hf, hpresent, Bool.false_eq_true, if_false]
  exact (apply_ite Host.Outcome.next _ _ _).symm

/-! ### VFs and the host link -/

/-- VF Enable is set, with the number of VFs (R84). -/
def withVfs (numVfs : Nat) (s : State) : State := { s with pcie := { s.pcie with vfEnable := true, numVfs := numVfs } }

/-- R84: latent VFs above the new number are released, and those up to it appear. -/
theorem execVfEnable_of_clear {numVfs : Nat} (hclear : s.pcie.vfEnable = false) (hnum : numVfs ≤ 255) (hup : s.pcie.linkUp = true) :
    execVfEnable numVfs s =
      .next ((List.range numVfs).foldl (fun v i => enableVf v (i + 1))
        (((vfsOf (withVfs numVfs s)).filter fun n => decide (numVfs < n)).foldl (fun v n => releaseFunction n v) (withVfs numVfs s))) := by
  refine if_neg ?_
  simp only [hclear, hup, Nat.not_lt.mpr hnum, Bool.false_eq_true, Bool.true_eq_false, or_self, not_false_eq_true]

theorem execVfDisable_of_set (hset : s.pcie.vfEnable = true) :
    execVfDisable s = .next ((vfsOf s).foldl disableVf { s with pcie := { s.pcie with vfEnable := false, numVfs := 0 } }) :=
  if_pos hset

/-- A pulse of 20 ns counts (R493), unless the link is held down already or the device has tripped. -/
theorem execPerstNAssert_of_pulse {widthNs : Nat} (hwidth : 20 ≤ widthNs) (hperst : s.pcie.perst = false) (hlife : s.dev.life ≠ .tripped) :
    execPerstNAssert widthNs s = .next (hostCrash true s) := by
  refine if_neg ?_
  simp only [Nat.not_lt.mpr hwidth, hperst, hlife, Bool.false_eq_true, or_self, not_false_eq_true]

/-! ### L1 -/

/-- Table 3-2. -/
theorem idleBeforeL1_of_profile {p : Profile} {idle : Nat} (h : p = .balanced ∧ idle = 100000 ∨ p = .efficiency ∧ idle = 20000) :
    idleBeforeL1 p = some idle := by
  obtain ⟨rfl, rfl⟩ | ⟨rfl, rfl⟩ := h
  · rfl
  · rfl

theorem execL1Entry_of_idle {idle : Nat} (haspm : s.pcie.aspmL1 = true) (hup : s.pcie.linkUp = true) (hidle : idleBeforeL1 s.dev.profile = some idle)
    (hflow : hostFlowAdmitted s = false) :
    execL1Entry s =
      .next { advanceTo (s.hostAt + idle) s with pcie := { (advanceTo (s.hostAt + idle) s).pcie with inL1 := true } } := by
  simp only [execL1Entry, hidle, haspm, hup, hflow, and_self, if_true]

/-! ### Crossings and island clocks -/

variable {island : Nat} {x : Crossing}

/-- Table 16-3, FLUSH to UP. -/
theorem execCrossingReady_of_flush (hx : tabGet s.clocks.crossings island = some x) (hmode : x.mode = .flush)
    (hreset : inIslandReset s island = false) :
    execCrossingReady island s =
      .next (crossingMod island (fun y => { emptyCrossing y with mode := .up, notify := false, ready := true }) s) := by
  simp only [execCrossingReady, hx]
  exact if_pos ⟨hmode, hreset⟩

/-- Table 16-3, DOWN through SYNC to UP. -/
theorem execCrossingSync_of_clocked (hx : tabGet s.clocks.crossings island = some x) (hmode : x.mode ≠ .flush)
    (hreset : inIslandReset s island = false) (hclock : bit s.clocks.stopped.toNat island = false) :
    execCrossingSync island s =
      .next (crossingMod island (fun y =>
        { emptyCrossing y with mode := .up, notify := false, ready := true, syncReq := true, syncAck := true }) s) := by
  simp only [execCrossingSync, hx]
  exact if_pos ⟨hmode, hreset, hclock⟩

/-- The island's bit of `CLOCK_STATUS` has fallen (R38). -/
def clockBitDropped (island : Nat) (s : State) : State := if bit s.clocks.status.toNat island then dropClockBit island s else s

/-- The instant of R38 has come: the bit has read 0 for 100 µs. -/
def clockStopDue (island : Nat) (s : State) : State :=
  advanceTo ((tabGet (clockBitDropped island s).clocks.zeroSince island).getD s.dev.now + 100000) (clockBitDropped island s)

theorem execIslandClockStop_of_mayStop (hstop : mayStop s island = true) :
    execIslandClockStop island s =
      .next { clockStopDue island s with
        clocks := { (clockStopDue island s).clocks with stopped := (clockStopDue island s).clocks.stopped ||| BitVec.ofNat 18 (2 ^ island) } } :=
  if_pos hstop

/-- The island of an unusable tarn never wakes (R441). -/
theorem execIslandWake_of_usable (hisland : island < 18) (husable : ¬ (10 ≤ island ∧ island ≤ 13 ∧ mayStop s island = true)) :
    execIslandWake island s = .next (runClock island s) :=
  if_neg (not_or.mpr ⟨Nat.not_le.mpr hisland, husable⟩)

/-- Settles O25: `exec` of each row is the row's own function, whose effect under the row's conditions is a lemma above (log entry 11 for the
count of idle time from `hostAt` and for the bit of a clock that may stop). -/
theorem functionEventsComplete : Obligations.FunctionEventsComplete := by
  unfold Obligations.FunctionEventsComplete
  refine ⟨?retention, ?streams, ?watchdog, ?flr, ?vfEnable, ?vfDisable, ?perstAssert, ?perstRelease, ?dlDown, ?hotReset, ?crossingReady,
    ?crossingSync, ?refclkLoss, ?refclkReturn, ?l1Entry, ?clockStop, ?wake⟩
  case retention => exact fun _ _ _ _ hlit hf hmode hsince => execRetentionExpiry_of_held hlit hf hmode hsince
  case streams => exact fun _ _ _ _ hlit hf hmode hsince => execRetentionExpiry_of_streams hlit hf hmode hsince
  case watchdog => exact fun _ _ heads _ _ hlit hf hmode hat => execHostWatchdogExpiry_of_running heads hlit hf hmode hat
  case flr => exact fun _ heads _ _ hf hpresent => execFlr_of_present heads hf hpresent
  case vfEnable =>
    rintro numVfs _ s hclear hnum hup rfl
    exact execVfEnable_of_clear hclear hnum hup
  case vfDisable => exact fun _ hset => execVfDisable_of_set hset
  case perstAssert => exact fun _ _ hwidth hperst hlife => execPerstNAssert_of_pulse hwidth hperst hlife
  case perstRelease => exact fun _ hperst => if_pos hperst
  case dlDown => exact fun _ hup => if_pos hup
  case hotReset => exact fun _ _ hup => if_pos hup
  case crossingReady => exact fun _ _ _ hx hmode hreset => execCrossingReady_of_flush hx hmode hreset
  case crossingSync => exact fun _ _ _ hx hmode hreset hclock => execCrossingSync_of_clocked hx hmode hreset hclock
  case refclkLoss => exact fun _ => rfl
  case refclkReturn => exact fun _ => rfl
  case l1Entry =>
    rintro idle _ s haspm hup hprofile hflow rfl
    exact execL1Entry_of_idle haspm hup (idleBeforeL1_of_profile hprofile) hflow
  case clockStop =>
    rintro island _ _ s hstop rfl rfl
    exact execIslandClockStop_of_mayStop hstop
  case wake => exact fun _ _ hisland husable => execIslandWake_of_usable hisland husable

/-! ### A function that is RESETTING or HELD (R83) -/

theorem resetFunction_of_reset (hmode : fnModeOf s fn = .resetting ∨ fnModeOf s fn = .held) : resetFunction fn s = s := by
  obtain h | h := hmode
  · rw [resetFunction, h]
  · rw [resetFunction, h]

theorem readHeads_of_reset (heads : List HeadRead) (hmode : fnModeOf s fn = .resetting ∨ fnModeOf s fn = .held) :
    readHeads fn heads s = s := by
  obtain h | h := hmode
  · rw [readHeads, h]
  · rw [readHeads, h]

theorem fnModeOf_of_function (hf : fnGet s fn = some f) : fnModeOf s fn = f.mode := by
  rw [fnGet] at hf
  rw [fnModeOf, hf]

/-- The watchdog counts only while the function is RUNNING (R85). -/
theorem execHostWatchdogExpiry_of_not_running (heads : List HeadRead) (hmode : fnModeOf s fn ≠ .running) :
    execHostWatchdogExpiry fn heads s = .next s := by
  by_cases hlit : lit s = true
  · rw [execHostWatchdogExpiry, whileLit_of_lit hlit]
    cases hf : fnGet s fn with
    | none => rfl
    | some f => simp only [Option.bind_some, if_neg ((fnModeOf_of_function hf).symm.trans_ne hmode)]
  · exact whileLit_of_not_lit hlit

theorem execFnReset_of_reset {c : Cmd} {u : State} (heads : List HeadRead) (h : accepts specFnReset c u s)
    (hmode : fnModeOf s (namedOf c) = .resetting ∨ fnModeOf s (namedOf c) = .held) :
    execFnReset c heads u = .next (okReply specFnReset c 0 0 0 s) := by
  refine congrArg Host.Outcome.next (runCmd_eq_okReply h ?_)
  simp only [readHeads_of_reset heads hmode, resetFunction_of_reset hmode, cmdOk]

/-- Settles O42: neither the reset nor the reading of `CQ_HEAD` before it touches a function that is RESETTING or HELD. -/
theorem heldFunctionsTakeNoReset : Obligations.HeldFunctionsTakeNoReset := by
  unfold Obligations.HeldFunctionsTakeNoReset
  intro fn s hmode
  have hnot : fnModeOf s fn ≠ .running := by
    obtain h | h := hmode <;> rw [h] <;> decide
  refine ⟨resetFunction_of_reset hmode, fun heads => execHostWatchdogExpiry_of_not_running heads hnot, ?_⟩
  rintro c heads u h rfl
  exact execFnReset_of_reset heads h hmode

end Sys2Proof.Machine
end

section
/-! Frames of tarn memory and of the memory regions (chapters 4 and 12). -/

namespace Sys2Proof.Machine

/-- Settles O49: `exec_samePart` for the tarn memory. -/
theorem tarnMemoryFrame : Obligations.TarnMemoryFrame := by
  unfold Obligations.TarnMemoryFrame
  intro c s t hi ht
  exact exec_samePart hi ht _

/-- Settles O50: `exec_samePart` for the regions, the retired keys, the miss slots and the streams that wait for one. -/
theorem regionFrame : Obligations.RegionFrame := by
  unfold Obligations.RegionFrame
  intro c s t hi ht
  exact ⟨exec_samePart hi ht _, exec_samePart hi ht _, exec_samePart hi ht _, exec_samePart hi ht _⟩

end Sys2Proof.Machine
end

section
/-! Where bytes are placed (chapter 4): what the placing of a piece leaves of the address spaces and of tarn memory, and the writes of BAR4
windows. -/

namespace Sys2Proof.Machine

variable {s t : State} {fn dva a p x : Nat} {cont : SpurCont} {piece : Nat × List Byte} {bytes : List Byte}

/-! ### Address spaces and tarn memory -/

/-- What decides where a byte lies and what it reads as: the address spaces and the bytes of the tarns. -/
def addressed (s : State) : Tab AddrSpace × List Host.Cell := (s.spaces, s.tarns.mem)

theorem spaces_eq_of_addressed (h : addressed t = addressed s) : t.spaces = s.spaces := congrArg Prod.fst h

theorem mem_eq_of_addressed (h : addressed t = addressed s) : t.tarns.mem = s.tarns.mem := congrArg Prod.snd h

theorem translate_eq_of_spaces (h : t.spaces = s.spaces) (fn dva : Nat) : translate t fn dva = translate s fn dva := by
  simp only [translate, h]

@[simp] theorem emit_addressed (o : Output) (s : State) : addressed (emit o s) = addressed s := rfl

@[simp] theorem crossingMod_addressed (k : Nat) (f : Crossing → Crossing) (s : State) : addressed (crossingMod k f s) = addressed s := rfl

@[simp] theorem portMod_addressed (p : Nat) (f : FabPort → FabPort) (s : State) : addressed (portMod p f s) = addressed s := rfl

@[simp] theorem wakeRange_addressed (a n : Nat) (s : State) : addressed (wakeRange a n s) = addressed s := rfl

@[simp] theorem hearHost_addressed (s : State) : addressed (hearHost s) = addressed s := rfl

theorem foldl_addressed {α : Type} {f : State → α → State} (hf : ∀ s a, addressed (f s a) = addressed s) (l : List α) (s : State) :
    addressed (l.foldl f s) = addressed s := by
  induction l generalizing s with
  | nil => rfl
  | cons a l ih => exact (ih (f s a)).trans (hf s a)

theorem crossTo_addressed (k : Nat) (o : Output) (s : State) : addressed (crossTo k o s) = addressed s := by
  unfold crossTo
  split
  · exact crossingMod_addressed k _ s
  · exact emit_addressed o s

theorem drainCrossing_addressed (k : Nat) (s : State) : addressed (drainCrossing k s) = addressed s := by
  unfold drainCrossing
  split
  · rfl
  · exact (foldl_addressed (fun u o => emit_addressed o u) _ _).trans (crossingMod_addressed k _ s)

theorem settleClock_addressed (k : Nat) (s : State) : addressed (settleClock k s) = addressed s := by
  unfold settleClock
  split
  · split <;> rfl
  · split
    · rfl
    · exact drainCrossing_addressed k _

theorem sendFlit_addressed (p : Nat) (f : Flit) (s : State) : addressed (sendFlit p f s) = addressed s := by
  unfold sendFlit
  split
  · simp only [portMod_addressed, crossTo_addressed]
  · simp only [settleClock_addressed, portMod_addressed, crossTo_addressed]

theorem sendFlits_addressed (p : Nat) (l : List Flit) (s : State) : addressed (sendFlits p l s) = addressed s :=
  foldl_addressed (fun u f => sendFlit_addressed p f u) l s

theorem spurStart_addressed (p fn : Nat) (write : Bool) (address len : Nat) (data : List Byte) (cont : SpurCont) (s : State) :
    addressed (spurStart p fn write address len data cont s) = addressed s := by
  unfold spurStart
  split
  · rfl
  · split
    · rw [sendFlits_addressed, portMod_addressed]
    · rw [portMod_addressed]

/-! ### One piece (R89) -/

theorem placePiece_addressed_of_tarn (h : translate s fn piece.1 = some (.tarn, p, a)) :
    addressed (placePiece fn cont s piece) = (s.spaces, memWriteList s.tarns.mem a piece.2) := by
  simp only [placePiece, h, wakeRange_addressed]
  rfl

theorem placePiece_addressed_of_not_tarn (h : ∀ p a, translate s fn piece.1 ≠ some (.tarn, p, a)) :
    addressed (placePiece fn cont s piece) = addressed s := by
  unfold placePiece
  split
  case h_1 p a htarn => exact absurd htarn (h p a)
  case h_2 =>
    split
    · rfl
    · exact emit_addressed _ s
  case h_3 => exact spurStart_addressed ..
  case h_4 => rfl

theorem placePiece_mem_of_tarn (h : translate s fn piece.1 = some (.tarn, p, a)) :
    (placePiece fn cont s piece).tarns.mem = memWriteList s.tarns.mem a piece.2 :=
  congrArg Prod.snd (placePiece_addressed_of_tarn h)

/-- The address leads into tarn memory, or it does not. -/
theorem translate_tarn_or_not (s : State) (fn dva : Nat) :
    (∃ p a, translate s fn dva = some (.tarn, p, a)) ∨ ∀ p a, translate s fn dva ≠ some (.tarn, p, a) := by
  by_cases h : ∃ p a, translate s fn dva = some (.tarn, p, a)
  · exact .inl h
  · exact .inr fun p a hpa => h ⟨p, a, hpa⟩

theorem placePiece_spaces (fn : Nat) (cont : SpurCont) (s : State) (piece : Nat × List Byte) :
    (placePiece fn cont s piece).spaces = s.spaces := by
  obtain ⟨p, a, htarn⟩ | hnot := translate_tarn_or_not s fn piece.1
  · exact congrArg Prod.fst (placePiece_addressed_of_tarn htarn)
  · exact spaces_eq_of_addressed (placePiece_addressed_of_not_tarn hnot)

theorem placePiece_wf (h : Memory.wf s.tarns.mem = true) : Memory.wf (placePiece fn cont s piece).tarns.mem = true := by
  obtain ⟨p, a, htarn⟩ | hnot := translate_tarn_or_not s fn piece.1
  · rw [placePiece_mem_of_tarn htarn]
    exact memWriteList_wf a piece.2 h
  · rwa [mem_eq_of_addressed (placePiece_addressed_of_not_tarn hnot)]

/-- The byte at `x` is none of those that the piece is put on. -/
def outsidePiece (s : State) (fn x : Nat) (piece : Nat × List Byte) : Prop :=
  ∀ p a, translate s fn piece.1 = some (.tarn, p, a) → x < a ∨ a + piece.2.length ≤ x

theorem memRead_placePiece (hwf : Memory.wf s.tarns.mem = true) (hout : outsidePiece s fn x piece) :
    memRead (placePiece fn cont s piece).tarns.mem x = memRead s.tarns.mem x := by
  obtain ⟨p, a, htarn⟩ | hnot := translate_tarn_or_not s fn piece.1
  · rw [placePiece_mem_of_tarn htarn]
    exact memRead_memWriteList a x piece.2 hwf (hout p a htarn)
  · rw [mem_eq_of_addressed (placePiece_addressed_of_not_tarn hnot)]

/-! ### A byte string -/

/-- Every piece is put where the address space of the beginning leads, because no piece changes the address spaces. -/
theorem memRead_foldl_placePiece (l : List (Nat × List Byte)) (hwf : Memory.wf s.tarns.mem = true) (hout : ∀ q ∈ l, outsidePiece s fn x q) :
    memRead (l.foldl (placePiece fn cont) s).tarns.mem x = memRead s.tarns.mem x := by
  induction l generalizing s with
  | nil => rfl
  | cons q l ih =>
    obtain ⟨hq, hl⟩ := List.forall_mem_cons.mp hout
    have hout' : ∀ r ∈ l, outsidePiece (placePiece fn cont s q) fn x r := by
      intro r hr p a hra
      rw [translate_eq_of_spaces (placePiece_spaces fn cont s q)] at hra
      exact hl r hr p a hra
    exact (ih (placePiece_wf hwf) hout').trans (memRead_placePiece hwf hq)

theorem memRead_placeAt (hwf : Memory.wf s.tarns.mem = true)
    (hout : ∀ q ∈ pieces (bytes.length / 4096 + 2) dva bytes, outsidePiece s fn x q) :
    memRead (placeAt fn dva bytes cont s).tarns.mem x = memRead s.tarns.mem x :=
  memRead_foldl_placePiece _ hwf hout

/-- Bytes that do not cross the end of their 4 KiB page are one piece. -/
theorem pieces_of_one_page (n : Nat) (hbytes : bytes ≠ []) (hpage : bytes.length ≤ 4096 - dva % 4096) :
    pieces (n + 2) dva bytes = [(dva, bytes)] := by
  have hsome : bytes.isEmpty = false := List.isEmpty_eq_false_iff.mpr hbytes
  simp only [pieces, hsome, Bool.false_eq_true, if_false, List.take_of_length_le hpage, List.drop_of_length_le hpage, List.isEmpty_nil, if_true]

theorem memRead_placeAt_of_one_page {i : Nat} (hwf : Memory.wf s.tarns.mem = true) (hpage : bytes.length ≤ 4096 - dva % 4096)
    (htarn : translate s fn dva = some (.tarn, p, a)) (hi : i < bytes.length) :
    memRead (placeAt fn dva bytes cont s).tarns.mem (a + i) = bytes.getD i 0 := by
  have hbytes : bytes ≠ [] := List.ne_nil_of_length_pos (Nat.zero_lt_of_lt hi)
  rw [placeAt, pieces_of_one_page _ hbytes hpage, List.foldl_cons, List.foldl_nil, placePiece_mem_of_tarn htarn]
  exact memRead_memWriteList_mem a i bytes hwf hi

/-! ### BAR4 writes (R116) -/

theorem execBar4Write_of_target {offset : Nat} (hlit : lit s = true) (htarget : bar4Target s fn offset bytes.length true = .ok dva) :
    execBar4Write fn offset bytes s = .next (placeAt fn dva bytes .none (hearHost s)) := by
  rw [execBar4Write, whileLit_of_lit hlit, htarget]

/-- Settles O56: the write places its bytes, and `memRead_placeAt` and `memRead_placeAt_of_one_page` say what tarn memory then reads as. -/
theorem windowWritesStoreTheirBytes : Obligations.WindowWritesStoreTheirBytes := by
  unfold Obligations.WindowWritesStoreTheirBytes
  rintro fn offset dva bytes s t ⟨hwf, -⟩ hlit htarget ht
  obtain rfl : placeAt fn dva bytes .none (hearHost s) = t :=
    Host.Outcome.next.inj ((execBar4Write_of_target hlit htarget).symm.trans ht)
  exact ⟨fun _ hout => memRead_placeAt (s := hearHost s) hwf hout,
    fun _ _ hpage htarn _ hi => memRead_placeAt_of_one_page (s := hearHost s) hwf hpage htarn hi⟩

end Sys2Proof.Machine
end

section
/-! The commands of address spaces, memory keys, mappings, windows and grants (chapter 4): what each comes to where the device reads it and
its own checks pass. -/

namespace Sys2Proof.Machine

variable {c : Cmd} {s t u : State} {a : AddrSpace} {r : Region}

/-! ### Spaces and keys -/

/-- Table 4-3. -/
theorem withSpace_of_space (k : AddrSpace → CmdOut) (ha : tabGet t.spaces (namedOf c) = some a) (hspace : a.space.isSome = true) :
    withSpace c t k = k a := by
  simp only [withSpace, ha, hspace, if_true]

theorem withKey_of_key {off : Nat} (k : W32 → Region → CmdOut) (ha : tabGet t.spaces (namedOf c) = some a) (hspace : a.space.isSome = true)
    (hkey : keyCheck12 t (namedOf c) (BitVec.ofNat 32 (param c off 4)) = .ok r) :
    withKey c off t k = k (BitVec.ofNat 32 (param c off 4)) r := by
  simp only [withKey, withSpace_of_space _ ha hspace, hkey]

/-- The space that `mr.space` sets: its fault partition is empty (R105). -/
def newSpace (c : Cmd) : Space :=
  { root := BitVec.ofNat 64 (param c 0 8), fqBase := BitVec.ofNat 64 (param c 8 8), fqHeader := BitVec.ofNat 64 (param c 16 8),
    fqLog2 := param c 24 1, fqVector := param c 26 2, written := 0, head := 0, overflow := false, overflowCount := 0 }

/-- The records that wait are counted anew in the new partition (R105, log entry 114). -/
theorem doMrSpace_of_room (hroot : param c 0 8 % 4096 = 0) (hbase : param c 8 8 % 4096 = 0) (hheader : param c 16 8 % 64 = 0)
    (hsize : sizeOk (param c 24 1) = true) (hvector : param c 26 2 < 2048)
    (hroom : partitionTotal t (namedOf c) + 2 ^ param c 24 1 ≤ 65536) (ha : tabGet t.spaces (namedOf c) = some a) :
    doMrSpace c t =
      .done (pumpPartition (namedOf c) (spaceMod (namedOf c)
        (fun x => { x with space := some (newSpace c), waiting := x.waiting.map fun w => { w with full := false } }) t))
        .ok a.epoch.toNat 0 0 := by
  simp only [doMrSpace, hroot, hbase, hheader, hsize, hvector, ha, Nat.not_lt.mpr hroom, beq_self_eq_true, decide_true, Bool.and_self,
    Bool.not_true, Bool.false_eq_true, if_false]
  rfl

/-- The region that `mr.register` makes, in generation `g` (R97). -/
def newRegion (c : Cmd) (g : W8) : Region :=
  { fn := namedOf c, live := true, gen := g, dva := param c 0 8, len := param c 8 8, rights := BitVec.ofNat 8 (param c 16 1), freedAt := 0 }

/-- R97; which index is free the longest is the choice of log entry 22. -/
theorem doMrRegister_of_free {i : Nat} {g : W8} (ha : tabGet t.spaces (namedOf c) = some a) (hspace : a.space.isSome = true)
    (hlow : 1 ≤ param c 8 8) (hhigh : param c 8 8 ≤ 2 ^ 48) (hend : param c 0 8 + param c 8 8 ≤ 2 ^ 57)
    (hrights : rightsOk (param c 16 1) = true) (hfree : freeRegion t = some (i, g)) :
    doMrRegister c t = .done { t with regions := tabSet t.regions i (newRegion c g) } .ok (makeKey i g).toNat 0 0 := by
  simp only [doMrRegister, withSpace_of_space _ ha hspace, hlow, hhigh, hend, hrights, hfree, and_self, decide_true, Bool.and_self, Bool.not_true,
    Bool.false_eq_true, if_false]
  rfl

/-- R104. -/
theorem doMrDeregister_of_key (ha : tabGet t.spaces (namedOf c) = some a) (hspace : a.space.isSome = true)
    (hkey : keyCheck12 t (namedOf c) (BitVec.ofNat 32 (param c 0 4)) = .ok r) :
    doMrDeregister c t =
      .deferred (retireKey (namedOf c) (keyIndex (BitVec.ofNat 32 (param c 0 4))) r.gen
        (regionMod (keyIndex (BitVec.ofNat 32 (param c 0 4))) (fun x => { x with live := false, freedAt := t.dev.now }) t))
        (.mrDeregister (BitVec.ofNat 32 (param c 0 4))) := by
  rw [doMrDeregister, withKey_of_key _ ha hspace hkey]

theorem execMrDeregisterDone_of_unused {key : W32} (hlit : lit s = true) (hunused : keyInUse s key = false) :
    execMrDeregisterDone key s = .next (finishCmds (fun d => if d = .mrDeregister key then some (.ok, 0, 0, 0) else none) s) := by
  rw [execMrDeregisterDone, whileLit_of_lit hlit, if_neg (Bool.eq_false_iff.mp hunused)]

/-- R96. -/
theorem doMrRekey_of_key {i : Nat} (ha : tabGet t.spaces (namedOf c) = some a) (hspace : a.space.isSome = true)
    (hkey : keyCheck12 t (namedOf c) (BitVec.ofNat 32 (param c 0 4)) = .ok r) (hi : i = keyIndex (BitVec.ofNat 32 (param c 0 4)))
    (hissue : inQuarantine t i (nextGen i r.gen) = false) :
    doMrRekey c t =
      .done (retireKey (namedOf c) i r.gen (regionMod i (fun x => { x with gen := nextGen i r.gen }) t)) .ok
        (makeKey i (nextGen i r.gen)).toNat 0 0 := by
  subst hi
  rw [doMrRekey, withKey_of_key _ ha hspace hkey]
  exact if_neg (Bool.eq_false_iff.mp hissue)

theorem doMrQuery_of_live (ha : tabGet t.spaces (namedOf c) = some a) (hspace : a.space.isSome = true)
    (hr : tabGet t.regions (param c 0 4) = some r) (hlive : r.live = true) (hfn : r.fn = namedOf c) :
    doMrQuery c t =
      .done t .ok (makeKey (param c 0 4) r.gen).toNat r.dva (r.len + bits r.rights.toNat 0 6 * 2 ^ 49) := by
  simp only [doMrQuery, withSpace_of_space _ ha hspace, hr, hlive, hfn, and_self, if_true]

/-- Settles O3: each command runs to its reply, and `MR_DEREGISTER_DONE` answers once nothing uses the key (log entry 114 for the records that
wait for a space, log entry 22 for the index that a region takes). -/
theorem regionCommandsComplete : Obligations.RegionCommandsComplete := by
  unfold Obligations.RegionCommandsComplete
  refine ⟨?space, ?register, ?deregister, ?deregisterDone, ?rekey, ?query⟩
  case space =>
    rintro c s t _ a h hroot hbase hheader hsize hvector hroom rfl ha
    exact congrArg Host.Outcome.next (runCmd_eq_okReply h (doMrSpace_of_room hroot hbase hheader hsize hvector hroom ha))
  case register =>
    exact fun _ _ _ _ _ _ h ha hspace hlow hhigh hend hrights hfree =>
      congrArg Host.Outcome.next (runCmd_eq_okReply h (doMrRegister_of_free ha hspace hlow hhigh hend hrights hfree))
  case deregister =>
    exact fun _ _ _ _ _ h ha hspace hkey => congrArg Host.Outcome.next (runCmd_eq_acceptedReply h (doMrDeregister_of_key ha hspace hkey))
  case deregisterDone => exact fun _ _ hlit hunused => execMrDeregisterDone_of_unused hlit hunused
  case rekey =>
    exact fun _ _ _ _ _ _ h ha hspace hkey hi hissue =>
      congrArg Host.Outcome.next (runCmd_eq_okReply h (doMrRekey_of_key ha hspace hkey hi hissue))
  case query =>
    exact fun _ _ _ _ _ h ha hspace hr hlive hfn =>
      congrArg Host.Outcome.next (runCmd_eq_okReply h (doMrQuery_of_live ha hspace hr hlive hfn))

/-! ### Mappings -/

/-- The descriptors of the command's buffer (Table 4-2). -/
def mapDescs (c : Cmd) : List MapDesc := (List.range (c.length.toNat / 32)).map fun i => mapDesc (paramBytes c (32 * i) 32)

/-- R100. -/
theorem doMrMap_of_staged (ha : tabGet t.spaces (namedOf c) = some a) (hspace : a.space.isSome = true) (hbuffer : c.indirect = true)
    (hwhole : c.length.toNat % 32 = 0) (hlength : c.length.toNat ≤ 32 * 2047)
    (hforming : t.tarns.reforming = false ∨ ((mapDescs c).any fun d => d.target == 1) = false)
    (hfaultless : (mapDescs c).findSome? (descFault t (namedOf c) a) = none)
    (hstaged : stageDescs c (bits c.params.toNat 0 64) 0 (mapDescs c) t = some u) :
    doMrMap c t = .done u .ok (mapDescs c).length 0 0 := by
  have hshape : ¬ ((!c.indirect) = true ∨ c.length.toNat % 32 ≠ 0 ∨ 32 * 2047 < c.length.toNat) := by
    simp only [hbuffer, hwhole, Nat.not_lt.mpr hlength, Bool.not_true, Bool.false_eq_true, ne_eq, not_true_eq_false, or_self,
      not_false_eq_true]
  have hsteady : ¬ (t.tarns.reforming = true ∧ ((mapDescs c).any fun d => d.target == 1) = true) := by
    rintro ⟨hforms, htarn⟩
    obtain h | h := hforming
    · exact Bool.false_ne_true (h.symm.trans hforms)
    · exact Bool.false_ne_true (h.symm.trans htarn)
  rw [doMrMap, withSpace_of_space _ ha hspace, if_neg hshape]
  refine (if_neg hsteady).trans ?_
  rw [← mapDescs, hfaultless, hstaged]

/-- R99. -/
theorem doMrUnmap_of_range (ha : tabGet t.spaces (namedOf c) = some a) (hspace : a.space.isSome = true) (hdva : param c 0 8 % 4096 = 0)
    (hlen : param c 8 8 % 4096 = 0) (hend : param c 0 8 + param c 8 8 ≤ 2 ^ 57) :
    doMrUnmap c t = cmdOk (spaceMod (namedOf c) (fun x => { x with staged := x.staged ++ [.unmap (param c 0 8) (param c 8 8)] }) t) := by
  rw [doMrUnmap, withSpace_of_space _ ha hspace]
  exact needParam_of_true (by simp only [hdva, hlen, hend, beq_self_eq_true, decide_true, Bool.and_self])

/-- R102. -/
theorem doMrSync_of_space (ha : tabGet t.spaces (namedOf c) = some a) (hspace : a.space.isSome = true) :
    doMrSync c t =
      .deferred (commitEpoch (namedOf c) t)
        (.mrSync (namedOf c) (a.epoch + 1) (unmappedBacking (commitEpoch (namedOf c) t) (namedOf c))) := by
  rw [doMrSync, withSpace_of_space _ ha hspace]

/-! ### Suspended streams (R112) -/

theorem doMrFaultReply_of_failure {id : Nat} {x : Suspension}
    (hx : suspensionOf t (namedOf c) (BitVec.ofNat 32 (param c 0 4)) = some (id, x)) (hfail : param c 4 1 = 1) :
    doMrFaultReply c t = cmdOk (failStream x { t with suspended := tabErase t.suspended id }) := by
  simp only [doMrFaultReply, hx, hfail, if_true]
  exact needParam_of_true rfl

theorem doMrFaultReply_of_present {id : Nat} {x : Suspension}
    (hx : suspensionOf t (namedOf c) (BitVec.ofNat 32 (param c 0 4)) = some (id, x)) (hgo : param c 4 1 = 0)
    (hpresent : (missingIn t x.fn x.ranges).isEmpty = true) :
    doMrFaultReply c t = cmdOk (resumeStream x { t with suspended := tabErase t.suspended id }) := by
  simp only [doMrFaultReply, hx, hgo, hpresent, if_true]
  exact needParam_of_true rfl

/-- The prior value of an atomic goes with its stream when the stream is suspended anew. -/
def withPrior (x : Suspension) (u : State) : State :=
  match x.stream, x.prior with
  | .qp n, some v => keepPrior n x.work v u
  | _, _ => u

theorem doMrFaultReply_of_missing {id : Nat} {x : Suspension}
    (hx : suspensionOf t (namedOf c) (BitVec.ofNat 32 (param c 0 4)) = some (id, x)) (hgo : param c 4 1 = 0)
    (hmissing : (missingIn t x.fn x.ranges).isEmpty = false)
    (hu : u = suspendOn x.fn x.stream (suspensionKind x) x.access x.work x.ranges (BitVec.ofNat 32 x.keyIndex)
      { t with suspended := tabErase t.suspended id }) :
    doMrFaultReply c t = cmdOk (withPrior x u) := by
  subst hu
  simp only [doMrFaultReply, hx, hgo, hmissing, Bool.false_eq_true, if_false]
  exact needParam_of_true rfl

/-! ### Windows (R116) -/

/-- The window that `mr.bar4.open` makes on region `r`. -/
def openedWindow (c : Cmd) (r : Region) : Window :=
  { index := keyIndex (BitVec.ofNat 32 (param c 4 4)), gen := r.gen, offset := param c 8 8, canRead := bit (param c 16 1) 0,
    canWrite := bit (param c 16 1) 1 }

theorem doMrBar4Open_of_rights (ha : tabGet t.spaces (namedOf c) = some a) (hspace : a.space.isSome = true)
    (hoffset : param c 8 8 % 65536 = 0) (hmode : param c 16 1 < 4)
    (hkey : keyCheck12 t (namedOf c) (BitVec.ofNat 32 (param c 4 4)) = .ok r)
    (hread : bit (param c 16 1) 0 = true → bit r.rights.toNat rightLocalRead = true)
    (hwrite : bit (param c 16 1) 1 = true → bit r.rights.toNat rightLocalWrite = true) :
    doMrBar4Open c t =
      cmdOk (spaceMod (namedOf c) (fun x => { x with windows := tabSet x.windows (param c 0 1) (openedWindow c r) }) t) := by
  have hrights : ¬ ((bit (param c 16 1) 0 && !bit r.rights.toNat rightLocalRead) ||
      (bit (param c 16 1) 1 && !bit r.rights.toNat rightLocalWrite)) = true := by
    simp only [Bool.or_eq_true, Bool.and_eq_true, Bool.not_eq_true']
    rintro (⟨hset, hno⟩ | ⟨hset, hno⟩)
    · exact Bool.false_ne_true (hno.symm.trans (hread hset))
    · exact Bool.false_ne_true (hno.symm.trans (hwrite hset))
  rw [doMrBar4Open, withKey_of_key _ ha hspace hkey]
  simp only [hoffset, hmode, hrights, beq_self_eq_true, decide_true, Bool.and_self, Bool.not_true, Bool.false_eq_true, if_false]
  rfl

theorem doMrBar4Close_of_space (ha : tabGet t.spaces (namedOf c) = some a) (hspace : a.space.isSome = true) :
    doMrBar4Close c t = cmdOk (spaceMod (namedOf c) (fun x => { x with windows := tabErase x.windows (param c 0 1) }) t) := by
  rw [doMrBar4Close, withSpace_of_space _ ha hspace]

/-! ### Grants (R101) -/

theorem doMrSpurGrant_of_length (ha : tabGet t.spaces (namedOf c) = some a) (hport : param c 0 1 < 16) (hlen : 1 ≤ param c 16 8)
    (hend : param c 8 8 + param c 16 8 ≤ 2 ^ 64) (hroom : a.grants.length < 16) :
    doMrSpurGrant c t =
      cmdOk (spaceMod (namedOf c)
        (fun x => { x with grants := x.grants ++ [{ port := param c 0 1, base := param c 8 8, len := param c 16 8 }] }) t) := by
  simp only [doMrSpurGrant, ha, Nat.not_le.mpr hport, Nat.one_le_iff_ne_zero.mp hlen, Nat.not_lt.mpr hend, Nat.not_le.mpr hroom, if_false]

/-- A length of 0 revokes the grant that `SPUR_PORT` and `BASE` name (log entry 90). -/
theorem doMrSpurGrant_of_revoke {g : Grant} (ha : tabGet t.spaces (namedOf c) = some a) (hport : param c 0 1 < 16) (hlen : param c 16 8 = 0)
    (hg : (a.grants.find? fun g => g.port == param c 0 1 && g.base == param c 8 8) = some g) :
    doMrSpurGrant c t =
      .later (spaceMod (namedOf c) (fun x => { revokeWindow g x with epoch := x.epoch + 1 }) t)
        (.spurRevoke (namedOf c) (a.epoch + 1) g (a.pages.filter (inWindow g)) a.staged) := by
  simp only [doMrSpurGrant, ha, Nat.not_le.mpr hport, hlen, hg, if_false, if_true]

/-- Settles O4: each command runs to its reply, and `MR_SYNC_DONE` and `SPUR_REVOKE_DONE` answer those whose earlier segments have ended (log
entry 90 for the grant that a revocation names). -/
theorem mappingCommandsComplete : Obligations.MappingCommandsComplete := by
  unfold Obligations.MappingCommandsComplete
  refine ⟨?map, ?unmap, ?sync, ?syncDone, ?fail, ?resume, ?suspend, ?bar4Open, ?bar4Close, ?grant, ?revoke, ?revokeDone⟩
  case map =>
    rintro c s t a _ u h ha hspace hbuffer hwhole hlength rfl hforming hfaultless hstaged
    exact congrArg Host.Outcome.next
      (runCmd_eq_okReply h (doMrMap_of_staged ha hspace hbuffer hwhole hlength hforming hfaultless hstaged))
  case unmap =>
    exact fun _ _ _ _ h ha hspace hdva hlen hend =>
      congrArg Host.Outcome.next (runCmd_eq_okReply h (doMrUnmap_of_range ha hspace hdva hlen hend))
  case sync => exact fun _ _ _ _ h ha hspace => congrArg Host.Outcome.next (runCmd_eq_acceptedReply h (doMrSync_of_space ha hspace))
  case syncDone =>
    rintro fn _ _ s hlit rfl rfl
    exact whileLit_of_lit hlit
  case fail => exact fun _ _ _ _ _ h hx hfail => congrArg Host.Outcome.next (runCmd_eq_okReply h (doMrFaultReply_of_failure hx hfail))
  case resume =>
    exact fun _ _ _ _ _ h hx hgo hpresent =>
      congrArg Host.Outcome.next (runCmd_eq_okReply h (doMrFaultReply_of_present hx hgo hpresent))
  case suspend =>
    exact fun _ _ _ _ _ _ h hx hgo hmissing hu =>
      congrArg Host.Outcome.next (runCmd_eq_okReply h (doMrFaultReply_of_missing hx hgo hmissing hu))
  case bar4Open =>
    rintro c s t a r _ h ha hspace hoffset hmode hkey hread hwrite rfl
    exact congrArg Host.Outcome.next (runCmd_eq_okReply h (doMrBar4Open_of_rights ha hspace hoffset hmode hkey hread hwrite))
  case bar4Close => exact fun _ _ _ _ h ha hspace => congrArg Host.Outcome.next (runCmd_eq_okReply h (doMrBar4Close_of_space ha hspace))
  case grant =>
    exact fun _ _ _ _ h ha hport hlen hend hroom =>
      congrArg Host.Outcome.next (runCmd_eq_okReply h (doMrSpurGrant_of_length ha hport hlen hend hroom))
  case revoke =>
    exact fun _ _ _ _ _ h ha hport hlen hg =>
      congrArg Host.Outcome.next (runCmd_eq_laterReply h (doMrSpurGrant_of_revoke ha hport hlen hg))
  case revokeDone => exact fun _ _ hlit => whileLit_of_lit hlit

end Sys2Proof.Machine
end

section
/-! Misses, accesses to BAR4 windows, and the release of units by the egress schedulers (chapters 4 and 7). -/

namespace Sys2Proof.Machine

variable {s : State} {fn offset len dva port : Nat} {fetched : List Byte}

/-! ### Misses (R107, R108, R114) -/

theorem execTranslationMissWalk_of_lit (x : StreamId) (v : W64) (hlit : lit s = true) :
    execTranslationMissWalk x v s = .next (takeSlot x s) :=
  whileLit_of_lit hlit

/-- The stream leaves its place in the line, and waits at the end of it where it waits for more. -/
theorem grantWaiting_of_waiting {x : StreamId} (hx : s.missWait.find? (fun x => (slotFor s x).isSome) = some x) :
    grantWaiting s =
      takeSlot x { s with missWait := (dropFirst (· == x) s.missWait).filter (· != x) ++ (dropFirst (· == x) s.missWait).filter (· == x) } := by
  simp only [grantWaiting, hx]

theorem execMissSlotGrant_of_lit (hlit : lit s = true) :
    execMissSlotGrant s =
      .next (s.missWait.foldl (fun t y => unstall y t) (grantWaiting { s with missSlots := s.missSlots.drop 1 })) :=
  whileLit_of_lit hlit

theorem execFqHeadReread_of_waiting {head : W32} {a : AddrSpace} (hlit : lit s = true) (ha : tabGet s.spaces fn = some a)
    (hwait : a.waiting.isEmpty = false) (hdma : dmaBarred s fn = false) : execFqHeadReread fn head s = .next (readFqHead fn head s) := by
  rw [execFqHeadReread, whileLit_of_lit hlit]
  simp only [ha, hwait, hdma, Bool.or_self, Bool.false_eq_true, if_false]

/-! ### BAR4 (R116, R117) -/

theorem execBar4Read_of_target (hlit : lit s = true) (htarget : bar4Target s fn offset len false = .ok dva) :
    execBar4Read fn offset len s = .next (emit (.bar4Data fn (readDva s fn dva len [])) (wakeDva fn dva len (hearHost s))) := by
  rw [execBar4Read, whileLit_of_lit hlit, htarget]

theorem execBar4Read_of_refused {e : Nat × Nat × Nat} (hlit : lit s = true) (htarget : bar4Target s fn offset len false = .error e) :
    execBar4Read fn offset len s = .next (bar4Fault fn offset false e (emit (.bar4Data fn (List.replicate len 0xFF)) (hearHost s))) := by
  rw [execBar4Read, whileLit_of_lit hlit, htarget]

theorem execBar4Write_of_refused {bytes : List Byte} {e : Nat × Nat × Nat} (hlit : lit s = true)
    (htarget : bar4Target s fn offset bytes.length true = .error e) :
    execBar4Write fn offset bytes s = .next (bar4Fault fn offset true e (hearHost s)) := by
  rw [execBar4Write, whileLit_of_lit hlit, htarget]

/-! ### Transmission (R179, R181, R183) -/

variable {u : State} {c : Cand}

/-- What the egress hierarchy of the port picks. -/
def picked (u : State) (port : Nat) : Option Cand := pickTc u port (backlog u port) ((candidates u port).filter (mayLeave u port))

/-- The queues of the three levels and the shapers of class and function are charged with the unit that is picked. -/
def charged (port : Nat) (c : Cand) (u : State) : State :=
  shaperTake (shaperKey 1 c.fn port) c.len (shaperTake (shaperKey 2 c.tc port) c.len (chargeQueues port c (followBacklog port c u)))

theorem execPacketTransmit_of_lit (port : Nat) (fetched : List Byte) (hlit : lit s = true) :
    execPacketTransmit port fetched s = .next (transmitOn port fetched (dueRefills s)) :=
  whileLit_of_lit hlit

theorem transmitOn_of_none (hpick : picked u port = none) : transmitOn port fetched u = u := by
  rw [picked] at hpick
  rw [transmitOn, hpick]

theorem transmitOn_of_frame {p : Pending} {frame : List Byte} (hpick : picked u port = some c) (hwhat : c.what = .frame p frame) :
    transmitOn port fetched u = followBacklog port c (sendFrame port p c.tc frame (charged port c u)) := by
  rw [picked] at hpick
  simp only [transmitOn, hpick, hwhat, charged]

theorem transmitOn_of_unit {x : EgressUnit} (hpick : picked u port = some c) (hwhat : c.what = .unit x) :
    transmitOn port fetched u = followBacklog port c (sendUnit x (charged port c u)) := by
  rw [picked] at hpick
  simp only [transmitOn, hpick, hwhat, charged]

theorem transmitOn_of_packet {n p : Nat} {x : TxPacket} {q : Qp} (hpick : picked u port = some c) (hwhat : c.what = .packet n x p)
    (hq : qpGet (charged port c u) n = some q) :
    transmitOn port fetched u = followBacklog port c (releasePacket n q x p fetched (charged port c u)) := by
  rw [picked] at hpick
  rw [charged] at hq
  simp only [transmitOn, hpick, hwhat, hq, charged]

/-- Settles O21: the rows are the functions above; a transmission is judged once the refills that have fallen due are taken. -/
theorem missesAndWindowsComplete : Obligations.MissesAndWindowsComplete := by
  unfold Obligations.MissesAndWindowsComplete
  refine ⟨?miss, ?grant, ?reread, ?read, ?readRefused, ?write, ?writeRefused, ?nothing, ?frame, ?unit, ?packet⟩
  case miss => exact fun x v _ hlit => execTranslationMissWalk_of_lit x v hlit
  case grant =>
    rintro x _ s hlit hx rfl
    exact (execMissSlotGrant_of_lit hlit).trans
      (congrArg (fun t => Host.Outcome.next (s.missWait.foldl (fun t y => unstall y t) t)) (grantWaiting_of_waiting hx))
  case reread => exact fun _ _ _ _ hlit ha hwait hdma => execFqHeadReread_of_waiting hlit ha hwait hdma
  case read => exact fun _ _ _ _ _ hlit htarget => execBar4Read_of_target hlit htarget
  case readRefused => exact fun _ _ _ _ _ hlit htarget => execBar4Read_of_refused hlit htarget
  case write => exact fun _ _ _ _ _ hlit htarget => execBar4Write_of_target hlit htarget
  case writeRefused => exact fun _ _ _ _ _ hlit htarget => execBar4Write_of_refused hlit htarget
  case nothing =>
    rintro port fetched _ s hlit rfl hpick
    exact (execPacketTransmit_of_lit port fetched hlit).trans (congrArg Host.Outcome.next (transmitOn_of_none hpick))
  case frame =>
    rintro port fetched _ _ c p frame s hlit rfl hpick rfl hwhat
    exact (execPacketTransmit_of_lit port fetched hlit).trans (congrArg Host.Outcome.next (transmitOn_of_frame hpick hwhat))
  case unit =>
    rintro port fetched _ _ c x s hlit rfl hpick rfl hwhat
    exact (execPacketTransmit_of_lit port fetched hlit).trans (congrArg Host.Outcome.next (transmitOn_of_unit hpick hwhat))
  case packet =>
    rintro port fetched _ _ c n x p q s hlit rfl hpick rfl hwhat hq
    exact (execPacketTransmit_of_lit port fetched hlit).trans (congrArg Host.Outcome.next (transmitOn_of_packet hpick hwhat hq))

end Sys2Proof.Machine
end

section
/-! The queue pair commands (chapter 5): what each comes to where the device reads it and its own checks pass, and the end of a reset or a
destruction once the last work of the queue pair is over. -/

namespace Sys2Proof.Machine

variable {c : Cmd} {s t u : State} {q : Qp}

/-! ### qp.create, qp.connect and qp.query -/

/-- The number is the choice of log entry 24. -/
theorem doQpCreate_of_room (hok : createOk c t = true) (hroom : tabFree t.qps 0 < 2 ^ 20) :
    doQpCreate c t =
      .done { t with qps := tabSet t.qps (tabFree t.qps 0) (newQp (newConf c) t.dev.now) } .ok (tabFree t.qps 0) 0 0 := by
  simp only [doQpCreate, hok, Nat.not_le.mpr hroom, Bool.not_true, Bool.false_eq_true, if_false]

/-- R161, R162: the queue pair is READY once both records of its connection are in the journal. -/
theorem doQpConnect_of_created (hq : usableQp t (namedOf c) (param c 40 4) = some q) (hok : connectOk c q = true) (hphase : q.phase = .created)
    (hkey : sendKeySpent q = false) (hjournal : journalConnect (param c 40 4) (connectedConf c q.conf) t = some u) :
    doQpConnect c t = cmdOk (enterReady (param c 40 4) (connectedConf c q.conf) u) := by
  simp only [doQpConnect, hq, hok, hphase, hkey, hjournal, Bool.not_true, Bool.false_eq_true, ne_eq, not_true_eq_false, if_false]

/-- A `qp.connect` that finds room in the journal is read from its ring (R17, log entry 26). -/
theorem runQpConnect_of_journal_room (hroom : connectWaits c s = false) : runQpConnect c s = runCmd specQpConnect doQpConnect c s :=
  if_neg (Bool.eq_false_iff.mp hroom)

theorem doQpQuery_of_usable (hq : usableQp t (namedOf c) (param c 0 4) = some q) :
    doQpQuery c t = .done t .ok (qpPhaseCode q.phase) (wireSeq q (nextToGo q).1).toNat (nextToGo q).2.toNat := by
  simp only [doQpQuery, hq]

/-! ### qp.reset and qp.destroy -/

theorem doQpReset_of_usable (hq : usableQp t (namedOf c) (param c 0 4) = some q) :
    doQpReset c t = .deferred (flushQp (param c 0 4) false t) (.qpReset (param c 0 4)) := by
  simp only [doQpReset, hq]

theorem doQpDestroy_of_usable (hq : usableQp t (namedOf c) (param c 0 4) = some q) :
    doQpDestroy c t = .deferred (flushQp (param c 0 4) true t) (.qpDestroy (param c 0 4)) := by
  simp only [doQpDestroy, hq]

/-- The context `x` of a queue pair with the settings `conf` once its reset is over: CREATED, unconnected and without sequence state
(Table 5-5). -/
def resetContext (conf : QpConf) (now : Nat) (x : Qp) : Qp :=
  { newQp { conf with connected := false } now with
    weight := x.weight, violations := x.violations, sealing := x.sealing, counted := x.counted }

theorem execQpResetDone_of_flushed {qp : Nat} (hlit : lit s = true) (hq : qpGet s qp = some q) (hending : q.ending = some false)
    (hopen : (qpOpen s qp).isEmpty = true) :
    execQpResetDone qp s =
      .next (finishCmds (fun d => if d = .qpReset qp then some (.ok, 0, 0, 0) else none)
        (qpMod qp (resetContext q.conf s.dev.now) (freeConnection qp s))) := by
  rw [execQpResetDone, whileLit_of_lit hlit]
  simp only [hq, hending, hopen, and_self, if_true]
  rfl

/-- A `qp.reset` that the destruction overtook is answered with it. -/
theorem execQpDestroyDone_of_flushed {qp : Nat} (hlit : lit s = true) (hq : qpGet s qp = some q) (hending : q.ending = some true)
    (hopen : (qpOpen s qp).isEmpty = true) :
    execQpDestroyDone qp s =
      .next (finishCmds (fun d => if d = .qpDestroy qp ∨ d = .qpReset qp then some (.ok, 0, 0, 0) else none) (removeQp qp s)) := by
  rw [execQpDestroyDone, whileLit_of_lit hlit]
  simp only [hq, hending, hopen, and_self, if_true]

/-- Settles O5: each command runs to its reply, and `QP_RESET_DONE` and `QP_DESTROY_DONE` answer once the queue pair has no work left (log entry
24 for the number of a new queue pair). -/
theorem queuePairCommandsComplete : Obligations.QueuePairCommandsComplete := by
  unfold Obligations.QueuePairCommandsComplete
  refine ⟨?create, ?connect, ?query, ?reset, ?resetDone, ?destroy, ?destroyDone⟩
  case create => exact fun _ _ _ h hok hroom => congrArg Host.Outcome.next (runCmd_eq_okReply h (doQpCreate_of_room hok hroom))
  case connect =>
    exact fun _ _ _ _ _ h hroom hq hok hphase hkey hjournal => congrArg Host.Outcome.next
      ((runQpConnect_of_journal_room hroom).trans (runCmd_eq_okReply h (doQpConnect_of_created hq hok hphase hkey hjournal)))
  case query => exact fun _ _ _ _ h hq => congrArg Host.Outcome.next (runCmd_eq_okReply h (doQpQuery_of_usable hq))
  case reset => exact fun _ _ _ _ h hq => congrArg Host.Outcome.next (runCmd_eq_acceptedReply h (doQpReset_of_usable hq))
  case resetDone => exact fun _ _ _ hlit hq hending hopen => execQpResetDone_of_flushed hlit hq hending hopen
  case destroy => exact fun _ _ _ _ h hq => congrArg Host.Outcome.next (runCmd_eq_acceptedReply h (doQpDestroy_of_usable hq))
  case destroyDone => exact fun _ _ _ hlit hq hending hopen => execQpDestroyDone_of_flushed hlit hq hending hopen

end Sys2Proof.Machine
end

section
/-! The packets of the queue pairs (chapter 6): what each comes to where its queue pair hears it. -/

namespace Sys2Proof.Machine

variable {s : State} {k : TxKind} {p : RxPacket} {n : Nat} {q : Qp}

/-! ### Requests (R150) -/

theorem whileLit_classify_of_new (hlit : lit s = true) (hnew : isNewPacket k p n q s) (dup fresh : RxPacket → Nat → Qp → State → State) :
    whileLit s (.next (classify k p dup fresh s)) =
      .next (fresh (widenFor q q.recv.e p) n q
        (noteArrival n (widenFor q q.recv.e p) (hear n (widenFor q q.recv.e p) s))) := by
  rw [whileLit_of_lit hlit, classify_newPacket hnew]

theorem whileLit_classify_of_old (hlit : lit s = true) (hold : isOldPacket k p n q s) (dup fresh : RxPacket → Nat → Qp → State → State) :
    whileLit s (.next (classify k p dup fresh s)) =
      .next (dup (widenFor q q.recv.e p) n q (dupAck n (widenFor q q.recv.e p) (hear n (widenFor q q.recv.e p) s))) := by
  rw [whileLit_of_lit hlit, classify_oldPacket hold]

/-! ### Responses (R151) -/

theorem whileLit_ownSpace_of_heard (hlit : lit s = true) (hheard : heardPacket k p n q q.send.cumAcked s) (hphase : q.phase = .ready)
    (take : RxPacket → Nat → Qp → State → State) :
    whileLit s (.next (ownSpace k p take s)) =
      .next (take (widenFor q q.send.cumAcked p) n q (hearAck n (widenFor q q.send.cumAcked p) s)) := by
  rw [whileLit_of_lit hlit, ownSpace_heard hheard hphase]

/-! ### ACK (R146, R153, R168) -/

variable {b : AckBody}

/-- A number of this side's space that an acknowledgement names (R144, log entry 70). -/
def ownNumber (q : Qp) (x : W32) : W32 := if q.conf.mode = .roce then widenPsn q.send.cumAcked x else x

def ackRanges (q : Qp) (b : AckBody) : List (W32 × W32) := b.sack.map fun r => (ownNumber q r.1, ownNumber q r.2)

/-- The packets in flight that the `ACK` is the first to acknowledge. -/
def newlyAcked (q : Qp) (p : RxPacket) (b : AckBody) : List TxPacket :=
  q.send.flight.filter fun x => !x.sacked && isAcked (ownNumber q p.hdr.seq) (ackRanges q b) x.seq

/-- The `ACK` is heard, and what the peer has retired is let go. -/
def ackHeard (n : Nat) (q : Qp) (p : RxPacket) (b : AckBody) (s : State) : State :=
  peerRetires n (if q.conf.mode = .roce then widenPsn q.recv.e b.ownRetired else b.ownRetired) (hearAck n p s)

/-- The round trip and the congestion that the `ACK` shows are taken (R153, R173). -/
def ackSampled (n : Nat) (q : Qp) (p : RxPacket) (b : AckBody) (s : State) : State :=
  sampleCc n q b (newlyAcked q p b).length
    (match roundTrip s.dev.now q b (newlyAcked q p b) with
     | some t => sampleRtt n q t (ackHeard n q p b s)
     | none => ackHeard n q p b s)

/-- The peer has lost its state (R168): from `cum` on no packet counts as acknowledged, and those that did are sent again. -/
def unsack (n : Nat) (q : Qp) (cum : W32) (s : State) : State :=
  resendWhere n (fun x => !seqBefore x.seq cum && q.send.flight.any fun y => y.seq == x.seq && y.sacked)
    (sendMod n (fun x => { x with flight := x.flight.map fun y => if seqBefore y.seq cum then y else { y with sacked := false } }) s)

theorem takeAck_of_ready (htarget : ackTarget .ack p (ackBytes b) (ackBodyOk b) s = some (n, q)) (hphase : q.phase = .ready) :
    takeAck p b s =
      applyCum n (ownNumber q p.hdr.seq) (ackRanges q b)
        (if b.stateLost then unsack n q (ownNumber q p.hdr.seq) (ackSampled n q p b s) else ackSampled n q p b s) := by
  simp only [takeAck, htarget, hphase, ne_eq, not_true_eq_false, if_false]
  rfl

theorem execPktAck_of_kept (hlit : lit s = true) (htarget : ackTarget .ack p (ackBytes b) (ackBodyOk b) s = some (n, q))
    (hphase : q.phase = .ready) (hkept : b.stateLost = false) :
    execPktAck p b s = .next (applyCum n (ownNumber q p.hdr.seq) (ackRanges q b) (ackSampled n q p b s)) := by
  rw [execPktAck, whileLit_of_lit hlit, takeAck_of_ready htarget hphase, if_neg (Bool.eq_false_iff.mp hkept)]

theorem execPktAck_of_lost (hlit : lit s = true) (htarget : ackTarget .ack p (ackBytes b) (ackBodyOk b) s = some (n, q))
    (hphase : q.phase = .ready) (hlost : b.stateLost = true) :
    execPktAck p b s =
      .next (applyCum n (ownNumber q p.hdr.seq) (ackRanges q b) (unsack n q (ownNumber q p.hdr.seq) (ackSampled n q p b s))) := by
  rw [execPktAck, whileLit_of_lit hlit, takeAck_of_ready htarget hphase, if_pos hlost]

/-! ### NAK and READ_REPAIR (R152, R156, R158) -/

theorem execPktNak_of_sent {b : NakBody} {q1 : Qp} {u : State} {r : NakReason} {m : TxMessage} (hlit : lit s = true)
    (htarget : ackTarget .nak p (nakBytes b) (nakBodyOk b) s = some (n, q)) (hphase : q.phase = .ready)
    (hsent : sentMessage (hearAck n p s) q (ownNumber q b.nakSeq) = some m) (hreason : nakOfCode b.reason.toNat = some r)
    (hu : u = applyCum n (ownNumber q p.hdr.seq) [] (peerRetires n b.ownRetired (hearAck n p s))) (hq : qpGet u n = some q1)
    (hopen : (messageOf q1 m.work).isSome = true) :
    execPktNak p b s = .next (takeReason n q1 r (ownNumber q b.nakSeq) m u) := by
  rw [ownNumber] at hsent hu
  rw [execPktNak, whileLit_of_lit hlit]
  simp only [takeNak, htarget, hphase, hsent, hreason, ← hu, hq, hopen, ownNumber, ne_eq, not_true_eq_false, if_false, if_true]

/-- The responses that a repair names. -/
def namedBy (b : RepairBody) (x : W32) : Bool := b.ranges.any fun r => seqUpTo r.1 x && seqBefore x r.2

theorem execPktReadRepair_of_readable {b : RepairBody} {w : RxPacket} (hlit : lit s = true)
    (htarget : ackTarget .readRepair p (repairBytes b) (repairBodyOk b) s = some (n, q)) (hphase : q.phase = .ready)
    (hrun : q.recv.suspended = false) (hw : w = widenFor q q.recv.e p)
    (hkey : keyCheck (hearAck n w s) q.conf.fn w.hdr.rkey rightRemoteRead w.hdr.msgDva.toNat (readLen w.hdr) = none)
    (hbar : readBarred (hearAck n w s) q w.hdr = none) :
    execPktReadRepair p b s = .next (serveRead n q w.hdr true (namedBy b) (hearAck n w s)) := by
  subst hw
  rw [execPktReadRepair, whileLit_of_lit hlit]
  simp only [takeRepair, htarget, hphase, hrun, hkey, hbar, ne_eq, not_true_eq_false, Bool.false_eq_true, if_false]
  rfl

/-- Settles O22: the seven requests are classified alike and the two responses are heard alike; a lemma above says what each acknowledgement
does. -/
theorem packetsComplete : Obligations.PacketsComplete := by
  unfold Obligations.PacketsComplete
  refine ⟨?writeNew, ?writeOld, ?writeImmNew, ?writeImmOld, ?readNew, ?readOld, ?sendNew, ?sendOld, ?faddNew, ?faddOld, ?cswapNew, ?cswapOld,
    ?flushNew, ?flushOld, ?readResp, ?atomicResp, ?ackKept, ?ackLost, ?nak, ?repair⟩
  case writeNew | writeImmNew | readNew | sendNew | flushNew =>
    rintro p _ n q s hlit hnew rfl
    exact whileLit_classify_of_new hlit hnew _ _
  case faddNew | cswapNew =>
    rintro p prior _ n q s hlit hnew rfl
    exact whileLit_classify_of_new hlit hnew _ _
  case writeOld | writeImmOld | readOld | sendOld | flushOld =>
    rintro p _ n q s hlit hold rfl
    exact whileLit_classify_of_old hlit hold _ _
  case faddOld | cswapOld =>
    rintro p prior _ n q s hlit hold rfl
    exact whileLit_classify_of_old hlit hold _ _
  case readResp | atomicResp =>
    rintro p _ n q s hlit hheard hphase rfl
    exact whileLit_ownSpace_of_heard hlit hheard hphase _
  case ackKept =>
    rintro p b n q _ _ _ _ _ s hlit htarget hphase rfl rfl rfl rfl rfl hkept
    exact execPktAck_of_kept hlit htarget hphase hkept
  case ackLost =>
    rintro p b n q _ _ _ _ _ s hlit htarget hphase rfl rfl rfl rfl rfl hlost
    exact execPktAck_of_lost hlit htarget hphase hlost
  case nak =>
    rintro p b n q q1 _ u r m s hlit htarget hphase rfl hsent hreason hu hq hopen
    exact execPktNak_of_sent hlit htarget hphase hsent hreason hu hq hopen
  case repair =>
    exact fun _ _ _ _ _ _ hlit htarget hphase hrun hw hkey hbar =>
      execPktReadRepair_of_readable hlit htarget hphase hrun hw hkey hbar

end Sys2Proof.Machine
end

section
/-! Journal records (Tables 6-8 to 6-13, 9-9 to 9-11, 10-7 and 10-8): the bits that packed fields fill, and the check over them. -/

namespace Sys2Proof.Machine

/-! ### Packed fields -/

/-- The fields lie in bits [`hi` - 1 : `lo`], in ascending order and without overlap. -/
def fieldsFit (lo hi : Nat) : List (Nat × Nat × Nat) → Prop
  | [] => lo ≤ hi
  | f :: rest => lo ≤ f.1 ∧ fieldsFit (f.1 + f.2.1) hi rest

variable {lo mid hi : Nat} {l m : List (Nat × Nat × Nat)}

theorem pack_cons (f : Nat × Nat × Nat) (l : List (Nat × Nat × Nat)) : pack (f :: l) = f.2.2 % 2 ^ f.2.1 * 2 ^ f.1 + pack l := by
  simp only [pack, List.map_cons, List.sum_cons]

theorem fieldsFit_append (hl : fieldsFit lo mid l) (hm : fieldsFit mid hi m) : fieldsFit lo hi (l ++ m) := by
  induction l generalizing lo with
  | nil =>
    cases m with
    | nil => exact le_trans hl hm
    | cons g rest => exact ⟨le_trans hl hm.1, hm.2⟩
  | cons f rest ih => exact ⟨hl.1, ih hl.2⟩

/-- The lowest field leaves room for one more at `lo`, which is why the sum cannot carry past `hi`. -/
theorem pack_add_le (h : fieldsFit lo hi l) : pack l + 2 ^ lo ≤ 2 ^ hi := by
  induction l generalizing lo with
  | nil => simpa only [pack, List.map_nil, List.sum_nil, Nat.zero_add] using Nat.pow_le_pow_right Nat.two_pos h
  | cons f rest ih =>
    obtain ⟨hlo, hrest⟩ := h
    have hfield : (f.2.2 % 2 ^ f.2.1 + 1) * 2 ^ f.1 ≤ 2 ^ f.2.1 * 2 ^ f.1 :=
      Nat.mul_le_mul_right _ (Nat.mod_lt _ (Nat.two_pow_pos _))
    calc pack (f :: rest) + 2 ^ lo
        ≤ pack (f :: rest) + 2 ^ f.1 := Nat.add_le_add_left (Nat.pow_le_pow_right Nat.two_pos hlo) _
      _ = pack rest + (f.2.2 % 2 ^ f.2.1 + 1) * 2 ^ f.1 := by rw [pack_cons]; ring
      _ ≤ pack rest + 2 ^ f.2.1 * 2 ^ f.1 := Nat.add_le_add_left hfield _
      _ = pack rest + 2 ^ (f.1 + f.2.1) := by rw [← pow_add, Nat.add_comm f.2.1]
      _ ≤ 2 ^ hi := ih hrest

theorem two_pow_dvd_pack (h : fieldsFit lo hi l) : 2 ^ lo ∣ pack l := by
  induction l generalizing lo with
  | nil => exact dvd_zero _
  | cons f rest ih =>
    obtain ⟨hlo, hrest⟩ := h
    rw [pack_cons]
    exact dvd_add (dvd_mul_of_dvd_right (pow_dvd_pow 2 hlo) _)
      ((pow_dvd_pow 2 (hlo.trans (Nat.le_add_right _ _))).trans (ih hrest))

/-! ### Records -/

/-- `v` is a record's contents: it leaves `CHECK` free, and bits [3:0] are `KIND` (R161). -/
def isRecord (kind v : Nat) : Prop := v < 2 ^ 496 ∧ v % 16 = kind % 16

theorem isRecord_pack {kind : Nat} (h : fieldsFit 4 496 l) : isRecord kind (pack ((0, 4, kind) :: l)) := by
  have hfit : fieldsFit 0 496 ((0, 4, kind) :: l) := ⟨le_rfl, h⟩
  refine ⟨(Nat.lt_add_of_pos_right (Nat.two_pow_pos 0)).trans_le (pack_add_le hfit), ?_⟩
  obtain ⟨rest, hrest⟩ := two_pow_dvd_pack h
  change (pack ((0, 4, kind) :: l)) % 2 ^ 4 = kind % 2 ^ 4
  rw [pack_cons, hrest, Nat.add_mul_mod_self_left, pow_zero, mul_one, Nat.mod_mod]

/-- What is left of a record whose subject is gone. -/
theorem isRecord_kind_alone {kind : Nat} (h : kind < 16) : isRecord kind kind := by
  have hpack : pack [(0, 4, kind)] = kind := by
    rw [pack_cons, pow_zero, mul_one]
    exact Nat.mod_eq_of_lt h
  have hrecord : isRecord kind (pack [(0, 4, kind)]) := isRecord_pack (by decide : 4 ≤ 496)
  rwa [hpack] at hrecord

variable (s : State) (rec n : Nat) (w : Work)

theorem fieldsFit_workBody : fieldsFit 168 496 (workBody w) := by
  unfold workBody
  extract_lets e
  split_ifs <;> simp only [fieldsFit] <;> decide

theorem isRecord_workRecord : isRecord 0x1 (workRecord w) :=
  isRecord_pack (fieldsFit_append (mid := 168) (by simp only [fieldsFit]; decide) (fieldsFit_workBody w))

theorem isRecord_collOpRecord : isRecord 0x8 (collOpRecord w) := isRecord_pack (by simp only [fieldsFit]; decide)

theorem isRecord_cacheReqRecord : isRecord 0xC (cacheReqRecord w) := isRecord_pack (by simp only [fieldsFit]; decide)

theorem isRecord_descRecord (kind : Nat) (body : BitVec 376) : isRecord kind (descRecord kind body) :=
  isRecord_pack (by simp only [fieldsFit]; decide)

theorem isRecord_atomicRecord (seq msg : W32) (prior : W64) : isRecord 0x2 (atomicRecord n seq msg prior) :=
  isRecord_pack (by simp only [fieldsFit]; decide)

theorem isRecord_connectRecord (c : QpConf) : isRecord 0x3 (connectRecord n c) := isRecord_pack (by simp only [fieldsFit]; decide)

theorem isRecord_progressRecord (p : Progress) : isRecord 0x4 (progressRecord n p) := isRecord_pack (by simp only [fieldsFit]; decide)

theorem isRecord_groupRecord (g : CollGroup) : isRecord 0xA (groupRecord n g) := isRecord_pack (by simp only [fieldsFit]; decide)

theorem isRecord_heldRecord (r : Reply) : isRecord 0xE (heldRecord n r) := isRecord_pack (by simp only [fieldsFit]; decide)

theorem isRecord_recordWord (x : JournalRec) : isRecord (recordKind x) (recordWord s rec x) := by
  cases x with
  | work w =>
    simp only [recordKind, recordWord]
    split_ifs
    · exact isRecord_collOpRecord w
    · exact isRecord_cacheReqRecord w
    · exact isRecord_workRecord w
  | desc kind body => exact isRecord_descRecord kind body
  | atomicResult n seq msg prior => exact isRecord_atomicRecord n seq msg prior
  | qpConnect n c => exact isRecord_connectRecord n c
  | qpProgress n p => exact isRecord_progressRecord n p
  | collGroup slot =>
    simp only [recordKind, recordWord]
    split
    · exact isRecord_groupRecord slot _
    · exact isRecord_kind_alone (by decide)
  | heldReply fn =>
    simp only [recordKind, recordWord]
    split
    · exact isRecord_heldRecord fn _
    · exact isRecord_kind_alone (by decide)

theorem recordWord_mod_kind (x : JournalRec) : recordWord s rec x % 16 = recordKind x % 16 := (isRecord_recordWord s rec x).2

/-! ### `CHECK` -/

/-- What lies above the bytes that are taken does not show in them. -/
theorem leBytes_add_mul {k n : Nat} (h : 8 * k ≤ n) (v c : Nat) : leBytes k (v + c * 2 ^ n) = leBytes k v := by
  refine List.map_congr_left fun i hi => BitVec.eq_of_toNat_eq ?_
  have hbyte : 8 * i + 8 ≤ n := by have := List.mem_range.mp hi; omega
  obtain ⟨d, hd⟩ : 2 ^ (8 * i) * 2 ^ 8 ∣ c * 2 ^ n := by
    rw [← pow_add]
    exact dvd_mul_of_dvd_right (pow_dvd_pow 2 hbyte) c
  rw [BitVec.toNat_ofNat, BitVec.toNat_ofNat, hd, mul_assoc, Nat.add_mul_div_left _ _ (Nat.two_pow_pos _), Nat.add_mul_mod_self_left]

theorem checkedRecord_mod {v : Nat} (h : v < 2 ^ 496) : checkedRecord v % 2 ^ 496 = v :=
  (Nat.add_mul_mod_self_right v _ _).trans (Nat.mod_eq_of_lt h)

theorem checkedRecord_div {v : Nat} (h : v < 2 ^ 496) : checkedRecord v / 2 ^ 496 = (crc16 (leBytes 62 v)).toNat := by
  rw [checkedRecord, Nat.add_mul_div_right _ _ (Nat.zero_lt_of_lt h), Nat.add_eq_right]
  exact Nat.div_eq_of_lt h

/-- The check covers the bytes below it alone. -/
theorem leBytes_checkedRecord (v : Nat) : leBytes 62 (checkedRecord v) = leBytes 62 v := leBytes_add_mul (by decide) v _

theorem journalImage_of_record {s : State} {rec : Nat} {x : JournalRec} (h : tabGet s.journal rec = some x) :
    journalImage s rec = some (checkedRecord (recordWord s rec x)) := by
  rw [journalImage, h, Option.map_some]

/-- Settles O60: a record's fields fit below bit 496 with `KIND` lowest (`isRecord_recordWord`), so that `CHECK` neither meets nor changes
them. -/
theorem journalRecordsCarryTheirCheck : Obligations.JournalRecordsCarryTheirCheck := by
  unfold Obligations.JournalRecordsCarryTheirCheck
  refine ⟨?check, ?work, ?desc, ?atomicResult, ?qpConnect, ?qpProgress, ?collGroup, ?heldReply⟩
  case check =>
    intro s rec x hx
    have hlow := (isRecord_recordWord s rec x).1
    exact ⟨_, journalImage_of_record hx, checkedRecord_mod hlow, by rw [leBytes_checkedRecord, checkedRecord_div hlow]⟩
  case work =>
    intro s rec w
    rw [recordWord_mod_kind, recordKind]
    split_ifs <;> rfl
  case desc => exact fun s rec kind body => recordWord_mod_kind s rec (.desc kind body)
  case atomicResult => exact fun s rec n seq msg prior => recordWord_mod_kind s rec (.atomicResult n seq msg prior)
  case qpConnect => exact fun s rec n c => recordWord_mod_kind s rec (.qpConnect n c)
  case qpProgress => exact fun s rec n p => recordWord_mod_kind s rec (.qpProgress n p)
  case collGroup => exact fun s rec slot => recordWord_mod_kind s rec (.collGroup slot)
  case heldReply => exact fun s rec fn => recordWord_mod_kind s rec (.heldReply fn)

end Sys2Proof.Machine
end

section
/-! The commands of admissions, shared receive queues and Ethernet addresses (chapters 5 and 7): what each comes to where the device reads it
and its own checks pass. -/

namespace Sys2Proof.Machine

variable {c : Cmd} {t : State} {q : Qp}

/-! ### QP_ADMIT, QP_RELEASE and QP_ADMIT_QUERY -/

/-- The admission of the flow `f` that `QP_ADMIT` records (R192). -/
def grantedAdmission (c : Cmd) (t : State) (f : Flow) : Admission :=
  { number := t.sched.nextAdmission, cls := f.cls, lossBound := f.lossBound, pathMask := BitVec.ofNat 16 (param c 6 2), rate := f.rate,
    burst := f.burst, msgMax := param c 16 4, netRtt := param c 20 4, bound := reportedBound t f (param c 20 4), withdrawn := false,
    links := sortedNats (f.routes.flatMap fun r => r.links), exits := sortedNats (f.routes.flatMap fun r => r.exits), ports := f.ports,
    latency := t.dev.profile == .latency }

/-- R192: every test of Table 7-8 passes, and no path of the flow ends at a spur port of a partner pair (R300, log entry 29). -/
theorem doQpAdmit_of_flow {f : Flow} (hq : usableQp t (namedOf c) (param c 0 4) = some q) (hok : admitOk t c q = true)
    (hflow : flowOf t (param c 0 4) q (param c 4 1) (param c 5 1) (param c 8 4) (param c 12 4) (param c 6 2) (t.dev.profile == .latency) = some f)
    (hjoin : mayJoin t f = true) (hpartner : partnerPath t q.conf.fn = false) :
    doQpAdmit c t =
      .done (grantAdmission (param c 0 4) (grantedAdmission c t f) t) .ok (reportedBound t f (param c 20 4)) t.sched.nextAdmission.toNat 0 := by
  simp only [doQpAdmit, hq, hok, hflow, hjoin, hpartner, Bool.not_true, Bool.false_eq_true, or_self, if_false]
  rfl

theorem doQpRelease_of_usable (hq : usableQp t (namedOf c) (param c 0 4) = some q) :
    doQpRelease c t = cmdOk (endAdmission (param c 0 4) t) := by
  simp only [doQpRelease, hq]

theorem doQpAdmitQuery_of_usable (hq : usableQp t (namedOf c) (param c 0 4) = some q) :
    doQpAdmitQuery c t =
      .done t .ok (match admitted q with | some a => 1 + 2 * a.cls | none => 0) q.violations
        (match admitted q with | some a => a.bound | none => 0) := by
  simp only [doQpAdmitQuery, hq]
  cases admitted q with
  | none => rfl
  | some a => rfl

/-! ### srq.create and srq.destroy -/

/-- The shared queue that `srq.create` makes (R129). -/
def createdSrq (c : Cmd) : Srq := { fn := namedOf c, limit := param c 0 4, vector := param c 4 2, armed := false, buffers := [] }

/-- The number is the choice of log entry 24. -/
theorem doSrqCreate_of_room (hvector : param c 4 2 < 2048) (hroom : tabFree t.srqs 0 < 65536) :
    doSrqCreate c t = .done { t with srqs := tabSet t.srqs (tabFree t.srqs 0) (createdSrq c) } .ok (tabFree t.srqs 0) 0 0 := by
  simp only [doSrqCreate, hvector, Nat.not_le.mpr hroom, decide_true, Bool.not_true, Bool.false_eq_true, if_false]
  rfl

/-- The function destroys the shared queue `n`, whose buffers still posted complete flushed (R127). -/
def withoutSrq (n : Nat) (t : State) : State :=
  { completeAll (srqOpen t n) .flushed t with srqs := tabErase (completeAll (srqOpen t n) .flushed t).srqs n }

theorem doSrqDestroy_of_unused (howns : ownsSrq t (namedOf c) (param c 0 2) = true)
    (hunused : (t.qps.any fun p => p.2.conf.useSrq && p.2.conf.srq == param c 0 2) = false) :
    doSrqDestroy c t = cmdOk (withoutSrq (param c 0 2) t) := by
  simp only [doSrqDestroy, howns, hunused, Bool.not_true, Bool.false_eq_true, if_false]
  rfl

/-! ### eht.port and eht.addr -/

/-- R127: the port changes only while no queue pair is READY. -/
theorem doEhtPort_of_range (hport : 1024 ≤ param c 0 2) (hready : (t.qps.any fun p => p.2.phase == .ready) = false) :
    doEhtPort c t = cmdOk (ethMod (fun e => { e with udpPort := BitVec.ofNat 16 (param c 0 2) }) t) := by
  simp only [doEhtPort, Nat.not_lt.mpr hport, hready, Bool.false_eq_true, if_false]

/-- The source address that `eht.addr` gives; `VLAN` 65535 stands for none. -/
def givenAddr (c : Cmd) : SrcAddr :=
  { kind := param c 1 1, vlan := if param c 2 2 = 65535 then none else some (param c 2 2), addr := BitVec.ofNat 128 (param c 4 16) }

theorem doEhtAddr_of_range (hslot : param c 0 1 < 4) (hkind : param c 1 1 ≤ 1) (hvlan : param c 2 2 ≤ 4095 ∨ param c 2 2 = 65535) :
    doEhtAddr c t = cmdOk (ethMod (fun e => { e with addrs := tabSet e.addrs (addrKey (namedOf c) (param c 0 1)) (givenAddr c) }) t) :=
  needParam_of_true (by simp [hslot, hkind, hvlan])

/-- Settles O6: each command runs to its reply (log entry 24 for the number of a new shared queue). -/
theorem admissionAndAddressCommandsComplete : Obligations.AdmissionAndAddressCommandsComplete := by
  unfold Obligations.AdmissionAndAddressCommandsComplete
  refine ⟨?admission, ?release, ?query, ?srqCreate, ?srqDestroy, ?port, ?addr⟩
  case admission =>
    rintro c s t q f _ h hq hok hflow hjoin hpartner rfl
    exact congrArg Host.Outcome.next (runCmd_eq_okReply h (doQpAdmit_of_flow hq hok hflow hjoin hpartner))
  case release => exact fun _ _ _ _ h hq => congrArg Host.Outcome.next (runCmd_eq_okReply h (doQpRelease_of_usable hq))
  case query => exact fun _ _ _ _ h hq => congrArg Host.Outcome.next (runCmd_eq_okReply h (doQpAdmitQuery_of_usable hq))
  case srqCreate =>
    exact fun _ _ _ h hvector hroom => congrArg Host.Outcome.next (runCmd_eq_okReply h (doSrqCreate_of_room hvector hroom))
  case srqDestroy =>
    rintro c s t _ h howns hunused rfl
    exact congrArg Host.Outcome.next (runCmd_eq_okReply h (doSrqDestroy_of_unused howns hunused))
  case port => exact fun _ _ _ h hport hready => congrArg Host.Outcome.next (runCmd_eq_okReply h (doEhtPort_of_range hport hready))
  case addr =>
    exact fun _ _ _ h hslot hkind hvlan => congrArg Host.Outcome.next (runCmd_eq_okReply h (doEhtAddr_of_range hslot hkind hvlan))

end Sys2Proof.Machine
end

section
/-! The commands of congestion classes, shares, weights, shapers and policers (chapter 7): what each comes to where the device reads it and
its own checks pass. -/

namespace Sys2Proof.Machine

variable {c : Cmd} {t : State} {key : Nat}

/-! ### Classes, shares and weights -/

/-- The congestion targets that `cc.class` gives a class (R186). -/
def givenClass (c : Cmd) : ClassCc := { targetFab := param c 4 4, targetEth := param c 8 4, rInitShift := some (param c 12 1) }

theorem doCcClass_of_range (hclass : param c 0 1 < 8) (hfabLow : 250 ≤ param c 4 4) (hfabHigh : param c 4 4 ≤ 1000000)
    (hethLow : 250 ≤ param c 8 4) (hethHigh : param c 8 4 ≤ 1000000) (hshift : param c 12 1 ≤ 10) :
    doCcClass c t = cmdOk (schedMod (fun y => { y with classes := tabSet y.classes (param c 0 1) (givenClass c) }) t) :=
  needParam_of_true (by simp [hclass, hfabLow, hfabHigh, hethLow, hethHigh, hshift])

/-- Table 7-6: the reply carries the share before the change. -/
theorem doQosShare_of_range (hlow : 1 ≤ param c 0 2) (hhigh : param c 0 2 ≤ 10000) :
    doQosShare c t = .done (fnMod (namedOf c) (fun f => { f with share := param c 0 2 }) t) .ok (fnShare t (namedOf c)) 0 0 :=
  needParam_of_true (decide_eq_true ⟨hlow, hhigh⟩)

/-- The four weights that `sched.tc` gives a port (R179). -/
def givenWeights (c : Cmd) : List Nat := (List.range 4).map fun i => param c (1 + i) 1

theorem doSchedTc_of_weights (hport : egressPortOk (param c 0 1) = true) (hweights : ((givenWeights c).all fun x => decide (1 ≤ x)) = true) :
    doSchedTc c t = cmdOk { t with sched := { t.sched with tcWeights := tabSet t.sched.tcWeights (param c 0 1) (givenWeights c) } } :=
  needParam_of_true (Bool.and_eq_true_iff.mpr ⟨hport, hweights⟩)

theorem doSchedQp_of_weight (howns : ownsQp t (namedOf c) (param c 0 4) = true) (hweight : 1 ≤ param c 4 1) :
    doSchedQp c t = cmdOk (qpMod (param c 0 4) (fun q => { q with weight := param c 4 1 }) t) :=
  needParam_of_true (Bool.and_eq_true_iff.mpr ⟨howns, decide_eq_true hweight⟩)

/-! ### Shapers and policers -/

/-- A shaper with a change that its next refill makes (R183); a new one starts without tokens (log entry 78). -/
def shaperChanging (key rate depth : Nat) (u : State) : Shaper :=
  { (tabGet u.sched.shapers key).getD { rate := 0, depth := 0, tokens := 0, change := none } with change := some (rate, depth) }

theorem doShaperSet_of_named (hkey : shaperNamed c (dueRefills t) = some key) (hdepth : 9216 ≤ param c 12 4)
    (hissuer : shaperNeedsPf0 c (dueRefills t) = false ∨ issuerOf c = 0) :
    doShaperSet c t =
      .later (schedMod (fun y => { y with shapers := tabSet y.shapers key (shaperChanging key (param c 8 4) (param c 12 4) (dueRefills t)) })
          (dueRefills t))
        (.shaperSet key (param c 8 4) (param c 12 4)) := by
  have hmay : ¬ (shaperNeedsPf0 c (dueRefills t) = true ∧ issuerOf c ≠ 0) := by
    rintro ⟨hneeds, hother⟩
    exact hissuer.elim (fun hfree => Bool.false_ne_true (hfree.symm.trans hneeds)) hother
  simp only [doShaperSet, hkey, Nat.not_lt.mpr hdepth, hmay, if_false]
  rfl

/-- A policer with a change that its next refill makes (R184); the buckets of a new one start full (log entry 78). -/
def policerChanging (c : Cmd) (key : Nat) (u : State) : Policer :=
  { (tabGet u.sched.policers key).getD
      { cir := 0, pir := 0, cbs := 0, pbs := 0, tc := param c 12 4, tp := param c 16 4, change := none } with
    change := some (param c 4 4, param c 8 4, param c 12 4, param c 16 4) }

theorem doPolicerSet_of_range (hport : param c 0 1 < 32) (hclass : param c 1 1 < 4) (hrates : param c 4 4 ≤ param c 8 4)
    (hcommitted : 9216 ≤ param c 12 4) (hpeak : 9216 ≤ param c 16 4) (hkey : key = policerKey (param c 0 1) (param c 1 1)) :
    doPolicerSet c t =
      .later (schedMod (fun y => { y with policers := tabSet y.policers key (policerChanging c key (dueRefills t)) }) (dueRefills t))
        (.policerSet key (param c 4 4) (param c 8 4) (param c 12 4) (param c 16 4)) := by
  subst hkey
  exact needParam_of_true (by simp [hport, hclass, hrates, hcommitted, hpeak])

/-- Settles O8: each command runs to its reply, which `shaper.set` and `policer.set` owe until the refill (log entry 78 for the tokens that a
new shaper and a new policer start with). -/
theorem schedulingCommandsComplete : Obligations.SchedulingCommandsComplete := by
  unfold Obligations.SchedulingCommandsComplete
  refine ⟨?ccClass, ?share, ?tc, ?qp, ?shaper, ?policer⟩
  case ccClass =>
    exact fun _ _ _ h hclass hfabLow hfabHigh hethLow hethHigh hshift => congrArg Host.Outcome.next
      (runCmd_eq_okReply h (doCcClass_of_range hclass hfabLow hfabHigh hethLow hethHigh hshift))
  case share => exact fun _ _ _ h hlow hhigh => congrArg Host.Outcome.next (runCmd_eq_okReply h (doQosShare_of_range hlow hhigh))
  case tc => exact fun _ _ _ h hport hweights => congrArg Host.Outcome.next (runCmd_eq_okReply h (doSchedTc_of_weights hport hweights))
  case qp => exact fun _ _ _ h howns hweight => congrArg Host.Outcome.next (runCmd_eq_okReply h (doSchedQp_of_weight howns hweight))
  case shaper =>
    rintro c s t key _ h rfl hkey hdepth hissuer
    exact congrArg Host.Outcome.next (runCmd_eq_laterReply h (doShaperSet_of_named hkey hdepth hissuer))
  case policer =>
    rintro c s t key _ h hport hclass hrates hcommitted hpeak hkey rfl
    exact congrArg Host.Outcome.next
      (runCmd_eq_laterReply h (doPolicerSet_of_range hport hclass hrates hcommitted hpeak hkey))

end Sys2Proof.Machine
end

section
/-! The commands of soundings and counters (chapters 7 and 13): what each comes to where the device reads it and its own checks pass. -/

namespace Sys2Proof.Machine

variable {c : Cmd} {t : State}

/-! ### snd.ring, snd.add and snd.remove -/

/-- The sounding ring that `snd.ring` gives the function, with nothing written (R188). -/
def givenSoundRing (c : Cmd) : SoundRing :=
  { base := BitVec.ofNat 64 (param c 0 8), header := BitVec.ofNat 64 (param c 8 8), log2 := param c 16 1, vector := param c 18 2, written := 0,
    head := 0, dropped := 0, signalledAt := none }

theorem doSndRing_of_place (hbase : param c 0 8 % 4096 = 0) (hheader : param c 8 8 % 64 = 0) (hsize : sizeOk (param c 16 1) = true)
    (hvector : param c 18 2 < 2048) :
    doSndRing c t = cmdOk (fnMod (namedOf c) (fun f => { f with sounding := some (givenSoundRing c) }) t) :=
  needParam_of_true (by simp [hbase, hheader, hsize, hvector])

/-- The soundings without the one that the command names. -/
def otherSoundings (c : Cmd) (t : State) : List Sounding :=
  t.sched.soundings.filter fun x => !isSounding (namedOf c) (param c 0 1) (param c 4 4) x

/-- The sounding that `snd.add` adds, due at the next multiple of its period (R189). -/
def addedSounding (c : Cmd) (t : State) : Sounding :=
  { fn := namedOf c, kind := param c 0 1, id := BitVec.ofNat 20 (param c 4 4), k := param c 1 1,
    nextAt := nextMultiple t.dev.now (1000 * 2 ^ param c 1 1) }

/-- R189: a sounding added again takes the place of the earlier one, which counts neither against the 4,096 nor in the load. -/
theorem doSndAdd_of_room (hkind : param c 0 1 ≤ 3) (hperiod : param c 1 1 ≤ 16) (hissuer : namedOf c = 0 ∨ param c 0 1 ≤ 1)
    (hnamed : queueNamed t (param c 0 1) (param c 4 4) = true) (howned : queueOwned t (namedOf c) (param c 0 1) (param c 4 4) = true)
    (hroom : (otherSoundings c t).length < 4096)
    (hload : ((otherSoundings c t).map fun x => (1 : Rat) / (2 ^ x.k : Nat)).sum + (1 : Rat) / (2 ^ param c 1 1 : Nat) ≤ 64) :
    doSndAdd c t = cmdOk (schedMod (fun y => { y with soundings := otherSoundings c t ++ [addedSounding c t] }) t) := by
  have hrange : ¬ (param c 0 1 > 3 ∨ param c 1 1 > 16) := not_or.mpr ⟨Nat.not_lt.mpr hkind, Nat.not_lt.mpr hperiod⟩
  have hmay : ¬ (!(namedOf c == 0) && decide (2 ≤ param c 0 1)) = true := by
    simp only [Bool.and_eq_true, Bool.not_eq_true', beq_eq_false_iff_ne, decide_eq_true_eq]
    omega
  have hfits : ¬ ((otherSoundings c t).length ≥ 4096 ∨
      64 < ((otherSoundings c t).map fun x => (1 : Rat) / (2 ^ x.k : Nat)).sum + (1 : Rat) / (2 ^ param c 1 1 : Nat)) :=
    not_or.mpr ⟨Nat.not_le.mpr hroom, not_lt.mpr hload⟩
  rw [otherSoundings] at hfits
  simp only [doSndAdd, hrange, hmay, hnamed, howned, hfits, Bool.not_true, Bool.false_eq_true, if_false]
  rfl

theorem doSndRemove_of_sounding (hany : (t.sched.soundings.any fun x => isSounding (namedOf c) (param c 0 1) (param c 4 4) x) = true) :
    doSndRemove c t = cmdOk { t with sched := { t.sched with soundings := otherSoundings c t } } :=
  needParam_of_true hany

/-! ### cnt.read -/

/-- R372: PF0 reads the block of the helm bus, and its crossings begin anew. -/
theorem doCntRead_of_helm (hblock : param c 0 2 = 0x0180) (hissuer : issuerOf c = 0) (hlen : 528 ≤ param c 16 4) :
    doCntRead c t =
      cmdOk (writeResult c (param c 8 8) 4224 (counterBits t.dev.now t.helm.halfCrossed t.helm.counters)
        { t with helm := { t.helm with halfCrossed := 0 } }) := by
  have hknown : (decide (0x0100 ≤ param c 0 2 ∧ param c 0 2 < 0x0120) || param c 0 2 == 0x0180) = true := by simp [hblock]
  simp only [doCntRead, hknown, Bool.not_true, hissuer, Nat.not_lt.mpr hlen, Bool.false_eq_true, ne_eq, not_true_eq_false, if_false]
  exact if_pos hblock

/-- R372: PF0 reads the block of a link that is configured, with the time its priorities are held up to now counted in. -/
theorem doCntRead_of_link {l : Link} (hlow : 0x0100 ≤ param c 0 2) (hhigh : param c 0 2 < 0x0120) (hissuer : issuerOf c = 0)
    (hlen : 528 ≤ param c 16 4) (hl : linkGet (countHeldNs (param c 0 2 - 0x0100) t) (param c 0 2 - 0x0100) = some l)
    (hconf : configured t (param c 0 2 - 0x0100) = true) :
    doCntRead c t =
      cmdOk (writeResult c (param c 8 8) 4224 (counterBits t.dev.now l.halfCrossed l.counters)
        (linkMod (param c 0 2 - 0x0100) (fun l => { l with halfCrossed := 0 }) (countHeldNs (param c 0 2 - 0x0100) t))) := by
  have hport : (decide (0x0100 ≤ param c 0 2 ∧ param c 0 2 < 0x0120)) = true := decide_eq_true ⟨hlow, hhigh⟩
  have hhelm : param c 0 2 ≠ 0x0180 := by omega
  simp only [doCntRead, hport, hhelm, hissuer, Nat.not_lt.mpr hlen, hl, hconf, Bool.true_or, Bool.not_true, Bool.false_eq_true, ne_eq,
    not_true_eq_false, if_false, if_true]

/-- Settles O9: each command runs to its reply, and `cnt.read` has two blocks, that of the helm bus and that of a link. -/
theorem soundingAndCounterCommandsComplete : Obligations.SoundingAndCounterCommandsComplete := by
  unfold Obligations.SoundingAndCounterCommandsComplete
  refine ⟨?ring, ?add, ?remove, ?readHelm, ?readLink⟩
  case ring =>
    exact fun _ _ _ h hbase hheader hsize hvector =>
      congrArg Host.Outcome.next (runCmd_eq_okReply h (doSndRing_of_place hbase hheader hsize hvector))
  case add =>
    rintro c s t _ h hkind hperiod hissuer hnamed howned rfl hroom hload
    exact congrArg Host.Outcome.next
      (runCmd_eq_okReply h (doSndAdd_of_room hkind hperiod hissuer hnamed howned hroom hload))
  case remove => exact fun _ _ _ h hany => congrArg Host.Outcome.next (runCmd_eq_okReply h (doSndRemove_of_sounding hany))
  case readHelm =>
    exact fun _ _ _ h hblock hissuer hlen => congrArg Host.Outcome.next (runCmd_eq_okReply h (doCntRead_of_helm hblock hissuer hlen))
  case readLink =>
    rintro c s t l _ h hlow hhigh hissuer hlen rfl hl hconf
    exact congrArg Host.Outcome.next (runCmd_eq_okReply h (doCntRead_of_link hlow hhigh hissuer hlen hl hconf))

end Sys2Proof.Machine
end

section
/-! The commands of the fabric, its request streams and its bearings (chapter 8): what each comes to where the device reads it and its own
checks pass. -/

namespace Sys2Proof.Machine

variable {c : Cmd} {t : State}

/-! ### fab.* -/

theorem doFabIdent_of_untrained (hident : param c 0 2 < 4096) (hnone : (trainedRing t).isEmpty = true) :
    doFabIdent c t = cmdOk (fabMod (fun x => { x with ident := some (param c 0 2) }) t) := by
  simp only [doFabIdent, Nat.not_le.mpr hident, hnone, Bool.not_true, Bool.false_eq_true, if_false]

/-- `fab.port.set` names a port for the role that it has. -/
abbrev keepsRole (c : Cmd) (t : State) : Prop := roleOf (param c 1 1) = ((portGet t (param c 0 1)).getD (newPort .disabled)).role

/-- A port that gets another role goes down first (R199). -/
def roleLeft (c : Cmd) (t : State) : State := if keepsRole c t then t else portDown (param c 0 1) t

/-- The port as it is set up before `fab.port.set`. -/
def portBefore (c : Cmd) (t : State) : FabPort := (portGet (roleLeft c t) (param c 0 1)).getD (newPort (roleOf (param c 1 1)))

/-- The port that `fab.port.set` makes: trainings that failed count on only in the same role (R199, R201). -/
def givenPort (c : Cmd) (t : State) : FabPort :=
  settlePilot { portBefore c t with
    role := roleOf (param c 1 1), pilot := param c 2 1 == 1, wakeMax := param c 4 4,
    attempts := if keepsRole c t then (portBefore c t).attempts else 0 }

theorem doFabPortSet_of_checked (hcheck : portSetFault c t = none) :
    doFabPortSet c t =
      cmdOk (settleClock (6 + param c 0 1 / 4)
        (fabMod (fun y => { y with ports := tabSet y.ports (param c 0 1) (givenPort c t) }) (roleLeft c t))) := by
  simp only [doFabPortSet, hcheck]
  rfl

theorem doFabPortQuery_of_port {x : FabPort} (hport : param c 0 1 < 16) (hx : x = (portGet t (param c 0 1)).getD (newPort .disabled)) :
    doFabPortQuery c t =
      .done t .ok
        (pack [(0, 3, roleCode x.role), (3, 3, if x.narrowed then 1 else x.lanes), (6, 1, flag x.active), (7, 1, flag x.isIdle),
               (8, 1, flag x.narrowed)])
        (pack [(0, 32, x.latNs), (32, 12, x.partnerDev), (44, 4, x.partnerPort)]) x.wakeNs := by
  subst hx
  exact needParam_of_true (decide_eq_true hport)

theorem doFabRingQuery_of_axis {r : RingInfo} (haxis : param c 0 1 < 2) (hr : r = ringInfo t (param c 0 1)) :
    doFabRingQuery c t =
      .done t .ok (pack [(0, 16, r.slots), (16, 1, flag r.folded), (17, 1, flag (guardedRing t (param c 0 1)))]) (lapPs t (param c 0 1))
        (pack [(0, 6, r.foldA), (8, 6, r.foldB)]) := by
  subst hr
  exact needParam_of_true (decide_eq_true haxis)

/-! ### spur.stream -/

/-- The stream that `spur.stream` binds (R226): entries accepted before keep their place in its capacity. -/
def boundStream (c : Cmd) (old : Option ReqStream) : ReqStream :=
  match old with
  | some q => { newStream (namedOf c) (param c 2 1) (param c 3 1 == 1) with outstanding := q.outstanding }
  | none => newStream (namedOf c) (param c 2 1) (param c 3 1 == 1)

/-- The port with its stream bound. -/
def withBoundStream (c : Cmd) (t : State) (x : FabPort) : FabPort :=
  { x with streams := tabSet x.streams (param c 1 1) (boundStream c (streamGet t (param c 0 1) (param c 1 1))) }

theorem doSpurStream_of_consumed {x : FabPort} (hport : param c 0 1 < 16) (hstream : param c 1 1 < 64)
    (hcap : 4 ≤ param c 2 1 ∧ param c 2 1 ≤ 16) (henable : param c 3 1 ≤ 1)
    (hconsumed : streamGet t (param c 0 1) (param c 1 1) = none ∨
      ∃ q, streamGet t (param c 0 1) (param c 1 1) = some q ∧ q.unconsumed = [])
    (hx : x = (portGet t (param c 0 1)).getD (newPort .disabled)) :
    doSpurStream c t =
      cmdOk (fabMod (fun y => { y with ports := tabSet y.ports (param c 0 1) (withBoundStream c t x) }) t) := by
  subst hx
  obtain hnew | ⟨q, hold, hempty⟩ := hconsumed
  · simp [doSpurStream, hport, hstream, hcap, henable, hnew, withBoundStream, boundStream]
  · simp [doSpurStream, hport, hstream, hcap, henable, hold, hempty, withBoundStream, boundStream]

/-! ### route.* -/

theorem withBearing_of_mode {m : BearingMode} (hbearing : param c 0 1 ≤ 1) (hmode : (bearingGet t (param c 0 1 == 1)).mode = m)
    (k : Bool → Bearing → CmdOut) :
    withBearing c m t k = k (param c 0 1 == 1) (bearingGet t (param c 0 1 == 1)) := by
  simp only [withBearing, Nat.not_lt.mpr hbearing, hmode, ne_eq, not_true_eq_false, if_false]

/-- The bearing with the entries that `route.write` brings, from the first that it names (R218). -/
def withEntries (c : Cmd) (x : Bearing) : Bearing :=
  { x with
    entries := (List.range (param c 4 2)).foldl
      (fun v i => tabSet v (param c 2 2 + i) (BitVec.ofNat 16 (param c (64 + 2 * i) 2))) x.entries }

theorem doRouteWrite_of_entries (hbearing : param c 0 1 ≤ 1) (hmode : (bearingGet t (param c 0 1 == 1)).mode = .idle)
    (hind : c.indirect = true) (hsome : 1 ≤ param c 4 2) (hrange : param c 2 2 + param c 4 2 ≤ 4096)
    (hlen : 64 + 2 * param c 4 2 ≤ c.length.toNat) :
    doRouteWrite c t = cmdOk (bearingMod (param c 0 1 == 1) (withEntries c) t) := by
  rw [doRouteWrite, withBearing_of_mode hbearing hmode]
  exact if_neg (by simp [hind, hsome, hrange, hlen])

/-- The bearing as `route.arm` arms it (R217). -/
def armed (c : Cmd) (x : Bearing) : Bearing :=
  { x with mode := .armed, generation := param c 4 4, linkUse := BitVec.ofNat 8 (param c 8 1), dateline := BitVec.ofNat 8 (param c 9 1),
           guarded := BitVec.ofNat 8 (param c 10 1) }

theorem doRouteArm_of_legal (hbearing : param c 0 1 ≤ 1) (hmode : (bearingGet t (param c 0 1 == 1)).mode = .idle)
    (hsome : 1 ≤ param c 4 4) (hgen : param c 4 4 < 2 ^ 24) (huse : param c 8 1 < 16) (hdateline : param c 9 1 < 16)
    (hguarded : param c 10 1 < 4) (hlegal : armOk t (bearingGet t (param c 0 1 == 1)) (param c 8 1) (param c 9 1) = true) :
    doRouteArm c t = cmdOk (bearingMod (param c 0 1 == 1) (armed c) t) := by
  rw [doRouteArm, withBearing_of_mode hbearing hmode]
  exact if_neg (by simp [-Nat.reducePow, hsome, hgen, huse, hdateline, hguarded, hlegal])

theorem doRouteDisarm_of_armed (hbearing : param c 0 1 ≤ 1) (hmode : (bearingGet t (param c 0 1 == 1)).mode = .armed) :
    doRouteDisarm c t = cmdOk (bearingMod (param c 0 1 == 1) (fun x => { x with mode := .idle }) t) :=
  withBearing_of_mode hbearing hmode _

/-- A `MARKER` of generation `g` waits for a slot (R219). -/
def markerWaits (g : Nat) (s : State) : Bool := s.fabric.flood.any fun w => w.flit.type == 0x01 && w.flit.chunkSeq.toNat == g

variable {b : Bool}

theorem doRouteCommit_of_gone (harmed : armedWith t (param c 0 4) = some b) (hgone : markerWaits (param c 0 4) (flipBearing b t) = false) :
    doRouteCommit c t = .done (flipBearing b t) .ok t.dev.now 0 0 := by
  simp only [doRouteCommit, harmed]
  exact if_neg (Bool.eq_false_iff.mp hgone)

/-- Table 8-9: the reply follows the markers. -/
theorem doRouteCommit_of_waits (harmed : armedWith t (param c 0 4) = some b) (hwaits : markerWaits (param c 0 4) (flipBearing b t) = true) :
    doRouteCommit c t = .later (flipBearing b t) (.routeCommit (param c 0 4) t.dev.now) := by
  simp only [doRouteCommit, harmed]
  exact if_pos hwaits

/-- R220: four laps of each ring, and at most 1 ms. -/
theorem doRouteDrain_of_range (hlow : max (4 * lapTenths t 0) (4 * lapTenths t 1) ≤ 10000 * param c 0 4) (hhigh : param c 0 4 ≤ 1000000) :
    doRouteDrain c t = cmdOk (fabMod (fun x => { x with drainNs := param c 0 4 }) t) :=
  needParam_of_true (Bool.and_eq_true_iff.mpr ⟨decide_eq_true hlow, decide_eq_true hhigh⟩)

/-- Settles O17: each command runs to its reply, which `route.commit` owes as long as a marker of its generation waits. -/
theorem fabricCommandsComplete : Obligations.FabricCommandsComplete := by
  unfold Obligations.FabricCommandsComplete
  refine ⟨?ident, ?portSet, ?portQuery, ?ringQuery, ?stream, ?write, ?arm, ?disarm, ?commit, ?commitLater, ?query, ?drain⟩
  case ident => exact fun _ _ _ h hident hnone => congrArg Host.Outcome.next (runCmd_eq_okReply h (doFabIdent_of_untrained hident hnone))
  case portSet =>
    rintro c s t _ _ _ h hcheck rfl rfl rfl
    exact congrArg Host.Outcome.next (runCmd_eq_okReply h (doFabPortSet_of_checked hcheck))
  case portQuery => exact fun _ _ _ _ h hport hx => congrArg Host.Outcome.next (runCmd_eq_okReply h (doFabPortQuery_of_port hport hx))
  case ringQuery => exact fun _ _ _ _ h haxis hr => congrArg Host.Outcome.next (runCmd_eq_okReply h (doFabRingQuery_of_axis haxis hr))
  case stream =>
    rintro c s t _ x h hport hstream hcap henable hconsumed rfl hx
    exact congrArg Host.Outcome.next (runCmd_eq_okReply h (doSpurStream_of_consumed hport hstream hcap henable hconsumed hx))
  case write =>
    exact fun _ _ _ h hbearing hmode hind hsome hrange hlen => congrArg Host.Outcome.next
      (runCmd_eq_okReply h (doRouteWrite_of_entries hbearing hmode hind hsome hrange hlen))
  case arm =>
    exact fun _ _ _ h hbearing hmode hsome hgen huse hdateline hguarded hlegal => congrArg Host.Outcome.next
      (runCmd_eq_okReply h (doRouteArm_of_legal hbearing hmode hsome hgen huse hdateline hguarded hlegal))
  case disarm =>
    exact fun _ _ _ h hbearing hmode => congrArg Host.Outcome.next (runCmd_eq_okReply h (doRouteDisarm_of_armed hbearing hmode))
  case commit =>
    exact fun _ _ _ _ h harmed hgone => congrArg Host.Outcome.next (runCmd_eq_okReply h (doRouteCommit_of_gone harmed hgone))
  case commitLater =>
    exact fun _ _ _ _ h harmed hwaits => congrArg Host.Outcome.next (runCmd_eq_laterReply h (doRouteCommit_of_waits harmed hwaits))
  case query => exact fun _ _ _ h => congrArg Host.Outcome.next (runCmd_eq_okReply h rfl)
  case drain => exact fun _ _ _ h hlow hhigh => congrArg Host.Outcome.next (runCmd_eq_okReply h (doRouteDrain_of_range hlow hhigh))

end Sys2Proof.Machine
end

section
/-! The flits of the torus, its bearings and the training of its ports (chapter 8): what each event does where its conditions hold. -/

namespace Sys2Proof.Machine

variable {s : State} {port slot k : Nat} {f : Flit}

/-! ### Slots and the reassembly store -/

theorem execRingFlitArrive_of_input (hlit : lit s = true) (hin : ringInput s port = some k) :
    execRingFlitArrive port slot f s = .next (ringArrive port k slot f s) := by
  rw [execRingFlitArrive, whileLit_of_lit hlit]
  simp only [hin]

/-- R211: the slot is full and free of claims, and this device claims no other in its direction. -/
theorem execSlotClaim_of_waiting {t : Nat} (hlit : lit s = true) (hin : ringInput s port = some k)
    (hwait : waitingSince s (outDir s (opposite k)) slot = some t) (hfull : f.type ≠ 0) (hfree : f.slotClaim = false)
    (hnone : tabGet s.fabric.claims (outDir s (opposite k)) = none) :
    execSlotClaim port slot f s = .next (ringArrive port k slot f (advanceTo (t + lapNs s (outDir s (opposite k))) s)) := by
  rw [execSlotClaim, whileLit_of_lit hlit]
  simp only [hin, hwait]
  simp only [hfull, hfree, hnone, Option.isSome_none, Bool.false_eq_true, or_self, if_false]

theorem execReassemblyTimeout_of_partial {src tag : Nat} {p : Partial} (hlit : lit s = true)
    (hp : tabGet s.fabric.store (src * 2 ^ 18 + tag) = some p) :
    execReassemblyTimeout src tag s =
      .next (dropFlit (fabMod (fun x => { x with store := tabErase x.store (src * 2 ^ 18 + tag) }) (advanceTo (p.firstAt + 100000) s))) := by
  rw [execReassemblyTimeout, whileLit_of_lit hlit]
  simp only [hp]

/-! ### Markers, ring status and bearings -/

theorem not_good_and_type {g : Bool} {n : BitVec 8} (hbad : g = false ∨ f.type ≠ n) : ¬ (g = true ∧ f.type = n) :=
  fun ⟨hgood, htype⟩ => hbad.elim (Bool.eq_false_iff.mp · hgood) (· htype)

theorem execFlitMarker_of_good (hlit : lit s = true) (hgood : ringFlitGood s port f = true) (htype : f.type = 0x01) :
    execFlitMarker port f s = .next (takeMarker port f.chunkSeq.toNat f (hearFlit port s)) := by
  rw [execFlitMarker, whileLit_of_lit hlit, if_pos ⟨hgood, htype⟩]

theorem execFlitMarker_of_bad (hlit : lit s = true) (hbad : ringFlitGood s port f = false ∨ f.type ≠ 0x01) :
    execFlitMarker port f s = .next (dropFlit s) := by
  rw [execFlitMarker, whileLit_of_lit hlit, if_neg (not_good_and_type hbad)]

theorem execFlitRingStatus_of_good (hlit : lit s = true) (hgood : ringFlitGood s port f = true) (htype : f.type = 0x02) :
    execFlitRingStatus port f s = .next (takeStatus port f (hearFlit port s)) := by
  rw [execFlitRingStatus, whileLit_of_lit hlit, if_pos ⟨hgood, htype⟩]

theorem execFlitRingStatus_of_bad (hlit : lit s = true) (hbad : ringFlitGood s port f = false ∨ f.type ≠ 0x02) :
    execFlitRingStatus port f s = .next (dropFlit s) := by
  rw [execFlitRingStatus, whileLit_of_lit hlit, if_neg (not_good_and_type hbad)]

theorem execBearingDrainEnd_of_drainingA (hlit : lit s = true) (ha : s.fabric.bearingA.mode = .draining) :
    execBearingDrainEnd s =
      .next (bearingMod false (fun x => { x with mode := .idle }) (advanceTo (s.fabric.bearingA.flippedAt + s.fabric.drainNs) s)) := by
  rw [execBearingDrainEnd, whileLit_of_lit hlit]
  exact if_pos ha

theorem execBearingDrainEnd_of_drainingB (hlit : lit s = true) (ha : s.fabric.bearingA.mode ≠ .draining)
    (hb : s.fabric.bearingB.mode = .draining) :
    execBearingDrainEnd s =
      .next (bearingMod true (fun x => { x with mode := .idle }) (advanceTo (s.fabric.bearingB.flippedAt + s.fabric.drainNs) s)) := by
  rw [execBearingDrainEnd, whileLit_of_lit hlit]
  exact (if_neg ha).trans (if_pos hb)

/-! ### The training and the loss of a port -/

variable {x : FabPort}

/-- The port carries, with what its training found out: the lanes, the partner, and the wake time that both ends need (R201, R202, R228). -/
def carrying (now : Nat) (role : PortRole) (t : TrainInfo) (y : FabPort) : FabPort :=
  { y with active := true, lanes := lanesUp role t.lanes, latNs := ceilDiv t.probeNs 2, partnerDev := t.partnerDev.toNat,
           partnerPort := t.partnerPort.toNat, partnerPilot := t.partnerPilot, wakeNs := max Config.wakeNs t.wakeNeeded,
           mayIdle := decide (max Config.wakeNs t.wakeNeeded ≤ y.wakeMax ∧ max Config.wakeNs t.wakeNeeded ≤ t.wakeTolerated), isIdle := false,
           narrowed := false, attempts := 0, lastFlit := now, heardAt := now }

/-- A ring port may complete its ring; a spur port sends the completions again that it holds (R224, R227; log entry 120). -/
theorem execFabricPortTrained_of_fits {t : TrainInfo} (hx : portGet s port = some x) (hrole : x.role ≠ .disabled) (hdown : x.active = false)
    (hlanes : lanesUp x.role t.lanes ≠ 0) (hfits : partnerFits s x t = true) (hlife : (lit s || s.dev.life == .restarting) = true) :
    execFabricPortTrained port t s =
      .next (if isRingRole x.role then judgePaths (formTrained (dirOf x.role / 2) (portMod port (carrying s.dev.now x.role t) s))
        else x.streams.foldl (fun v q => resendCompletions true (fun _ => true) port q.1 v) (portMod port (carrying s.dev.now x.role t) s)) := by
  simp only [execFabricPortTrained, hx, hrole, hdown, hlanes, hfits, hlife, Bool.not_true, Bool.false_eq_true, or_self, if_false]
  exact (apply_ite Host.Outcome.next _ _ _).symm

/-- A training that failed counts 10 ms later (R201). -/
def trainingCounted (port : Nat) (s : State) : State :=
  portMod port (fun y => { y with attempts := y.attempts + 1 }) (advanceTo (s.dev.now + 10000000) s)

/-- Exactly the third failure is reported (R201, log entry 78). -/
theorem execFabricTrainingRetry_of_down (hx : portGet s port = some x) (hrole : x.role ≠ .disabled) (hdown : x.active = false) :
    execFabricTrainingRetry port s =
      .next (if x.attempts + 1 = 3 then raiseEvent .trainingFailed 0 nodeSelf port 3 (trainingCounted port s) else trainingCounted port s) := by
  simp only [execFabricTrainingRetry, hx, hrole, hdown, Bool.false_eq_true, or_self, if_false]
  exact (apply_ite Host.Outcome.next _ _ _).symm

theorem execFabricPortLost_of_life (hlife : lit s = true ∨ s.dev.life = .restarting) :
    execFabricPortLost port s = .next (portDown port s) :=
  congrArg Host.Outcome.next (if_pos hlife)

/-- Settles O26: `exec` of each row is the row's own function, whose effect under the row's conditions is a lemma above (log entry 78 for the
report at the third failure, log entry 120 for the completions that a trained port sends again). -/
theorem fabricEventsComplete : Obligations.FabricEventsComplete := by
  unfold Obligations.FabricEventsComplete
  refine ⟨?arrive, ?claim, ?reassembly, ?marker, ?badMarker, ?status, ?badStatus, ?drainA, ?drainB, ?trained, ?retry, ?lost⟩
  case arrive => exact fun _ _ _ _ _ hlit hin => execRingFlitArrive_of_input hlit hin
  case claim => exact fun _ _ _ _ _ _ hlit hin hwait hfull hfree hnone => execSlotClaim_of_waiting hlit hin hwait hfull hfree hnone
  case reassembly => exact fun _ _ _ _ hlit hp => execReassemblyTimeout_of_partial hlit hp
  case marker => exact fun _ _ _ hlit hgood htype => execFlitMarker_of_good hlit hgood htype
  case badMarker => exact fun _ _ _ hlit hbad => execFlitMarker_of_bad hlit hbad
  case status => exact fun _ _ _ hlit hgood htype => execFlitRingStatus_of_good hlit hgood htype
  case badStatus => exact fun _ _ _ hlit hbad => execFlitRingStatus_of_bad hlit hbad
  case drainA => exact fun _ hlit ha => execBearingDrainEnd_of_drainingA hlit ha
  case drainB => exact fun _ hlit ha hb => execBearingDrainEnd_of_drainingB hlit ha hb
  case trained =>
    rintro port _ t x _ s hx hrole hdown hlanes hfits hlife rfl rfl
    exact execFabricPortTrained_of_fits hx hrole hdown hlanes hfits hlife
  case retry =>
    rintro port x _ s hx hrole hdown rfl
    exact execFabricTrainingRetry_of_down hx hrole hdown
  case lost => exact fun _ _ hlife => execFabricPortLost_of_life hlife

end Sys2Proof.Machine
end

section
/-! The frame of the parts that compute, and the commands of collective groups (chapter 9): what each comes to where the device reads it and
its own checks pass, and what a group that is being set up or torn down goes on to. -/

namespace Sys2Proof.Machine

variable {c : Cmd} {s t : State} {slot : Nat} {g : CollGroup}

/-! ### The frame -/

/-- Settles O52: `exec_samePart` for the collectives, the cache pools, the operators and the ramp limiter. -/
theorem computeFrame : Obligations.ComputeFrame := by
  unfold Obligations.ComputeFrame
  intro c s t hi ht
  exact ⟨exec_samePart hi ht _, exec_samePart hi ht _, exec_samePart hi ht _, exec_samePart hi ht _⟩

/-! ### coll.setup (R232, R255) -/

/-- What `coll.setup` checks before it reserves (R232). -/
structure SetupAllowed (c : Cmd) (t : State) : Prop where
  slot : param c 0 2 < 4096
  unused : groupGet t (param c 0 2) = none
  someMember : 1 ≤ param c 2 1
  members : param c 2 1 ≤ 16
  tc : param c 3 1 < 4
  ident : t.fabric.ident.isSome = true
  memberDevice : isMemberDevice (newGroup c t) (ownDev t) = true
  someFathoms : 16 ≤ param c 24 2
  fathoms : param c 24 2 ≤ 512
  flags : param c 26 1 < 2
  timeout : param c 28 4 ≤ 600000

/-- What the new group takes: fathoms where no request waits before it, or spill area (R255, R256). -/
def setupReservation (c : Cmd) (t : State) : Option (CollGroup × Collectives) :=
  reserve (!(t.coll.groups.any fun p => p.2.mode == .waiting)) (spillTotal t) (newGroup c t) t.coll

/-- The state with `g` as the group of the slot that the command names. -/
def placeGroup (c : Cmd) (g : CollGroup) (x : Collectives) (t : State) : State :=
  collMod (fun _ => { x with groups := tabSet x.groups (param c 0 2) g, nextOrder := x.nextOrder + 1 }) t

theorem doCollSetup_of_allowed (h : SetupAllowed c t) :
    doCollSetup c t =
      .deferred ((setupReservation c t).elim (placeGroup c (newGroup c t) t.coll t) fun p =>
        startExchange (param c 0 2) (placeGroup c p.1 p.2 t)) (.collSetup (param c 0 2)) := by
  have hunused : ¬ (groupGet t (param c 0 2)).isSome = true := Option.not_isSome_iff_eq_none.mpr h.unused
  rw [doCollSetup, needParam_of_true (decide_eq_true h.slot), if_neg hunused, needParam_of_true]
  · dsimp only [setupReservation]
    generalize reserve _ _ _ _ = res
    cases res <;> rfl
  · simp only [Bool.and_eq_true, decide_eq_true_eq]
    exact ⟨⟨⟨⟨⟨⟨⟨h.someMember, h.members⟩, h.tc⟩, h.ident⟩, h.memberDevice⟩, h.someFathoms, h.fathoms⟩, h.flags⟩, h.timeout⟩

theorem doCollSetup_of_reserved {p : CollGroup × Collectives} (h : SetupAllowed c t) (hres : setupReservation c t = some p) :
    doCollSetup c t = .deferred (startExchange (param c 0 2) (placeGroup c p.1 p.2 t)) (.collSetup (param c 0 2)) := by
  rw [doCollSetup_of_allowed h, hres, Option.elim_some]

theorem doCollSetup_of_full (h : SetupAllowed c t) (hres : setupReservation c t = none) :
    doCollSetup c t = .deferred (placeGroup c (newGroup c t) t.coll t) (.collSetup (param c 0 2)) := by
  rw [doCollSetup_of_allowed h, hres, Option.elim_none]

/-! ### A group on its way to READY (R234, R255, R257) -/

theorem execFathomReservationGrant_of_fits {p : CollGroup × Collectives} (hlit : lit s = true) (hold : oldestWaiting s = some (slot, g))
    (hres : reserve true (spillTotal s) g s.coll = some p) :
    execFathomReservationGrant s =
      .next (startExchange slot (collMod (fun _ => { p.2 with groups := tabSet p.2.groups slot p.1 }) s)) := by
  rw [execFathomReservationGrant, whileLit_of_lit hlit]
  simp only [hold, hres]

/-- The group as the records of its member devices make it READY (R234). -/
def readyGroup (g : CollGroup) : CollGroup := { g with devices := (readRecords g).1, mode := .ready }

/-- R17, R234: the records of all member devices are there and agree, and the journal has room for that of the group. -/
theorem execCollSetupReady_of_agreeing {records : List W64} {r : Nat} {u : State} (hlit : lit s = true) (hg : groupGet s slot = some g)
    (hmode : g.mode = .setup) (hall : (readRecords g).1.map Prod.fst = memberDevices g) (hrecords : g.records.map Prod.snd = records)
    (hagree : (readRecords g).2 = true) (hcount : memberCount (readyGroup g) ≤ 65536)
    (hjournal : journalPut slot (.collGroup slot) s = some (r, u)) :
    execCollSetupReady slot records s =
      .next (collGo slot (finishOn (.collSetup slot) .ok ((if g.spilled then 0 else g.fathoms) + 1024 * flag g.spilled)
        (rankBase (readyGroup g) (ownDev s) + 2 ^ 32 * memberCount (readyGroup g)) (memberDevices g).length
        (groupMod slot (fun _ => { readyGroup g with record := some r }) u))) := by
  have harrived : ¬ (g.mode ≠ .setup ∨ (readRecords g).1.map Prod.fst ≠ memberDevices g ∨ g.records.map Prod.snd ≠ records) := by
    simp only [hmode, hall, hrecords, ne_eq, not_true_eq_false, or_self, not_false_eq_true]
  have hvalid : ¬ ((!(readRecords g).2) = true ∨ 65536 < memberCount (readyGroup g)) := by
    simp only [hagree, Bool.not_true, Bool.false_eq_true, Nat.not_lt.mpr hcount, or_self, not_false_eq_true]
  rw [readyGroup] at hvalid
  rw [execCollSetupReady, whileLit_of_lit hlit]
  simp only [hg, harrived, hvalid, hjournal, if_false]
  rfl

/-- R257: the time runs while the group waits for fathoms and while its exchange is under way. -/
theorem execCollSetupTimeout_of_unready {at0 : Nat} (hlit : lit s = true) (hg : groupGet s slot = some g)
    (hmode : g.mode = .waiting ∨ g.mode = .setup) (hat : g.timeoutAt = some at0) :
    execCollSetupTimeout slot s = .next (failSetup slot .collNores (advanceTo at0 s)) := by
  rw [execCollSetupTimeout, whileLit_of_lit hlit]
  obtain hwaiting | hsetup := hmode
  · simp only [hg, hwaiting, hat]
  · simp only [hg, hsetup, hat]

/-! ### Teardown, query and abort (R271, R276) -/

theorem withGroup_of_owner (hg : groupGet t (param c 0 2) = some g) (howner : g.fn = namedOf c) (k : Nat → CollGroup → CmdOut) :
    withGroup c t k = k (param c 0 2) g := by
  simp only [withGroup, hg]
  exact if_pos howner

theorem doCollTeardown_of_standing (hg : groupGet t (param c 0 2) = some g) (howner : g.fn = namedOf c) (hstands : g.tearing = false) :
    doCollTeardown c t = .deferred (tearDown (param c 0 2) t) (.collTeardown (param c 0 2)) := by
  rw [doCollTeardown, withGroup_of_owner hg howner]
  exact if_neg (Bool.eq_false_iff.mp hstands)

theorem execCollTeardownDone_of_quiet (hlit : lit s = true) (hg : groupGet s slot = some g) (htearing : g.tearing = true)
    (hopen : contOpen s (.coll slot) = false) :
    execCollTeardownDone slot s = .next (finishOn (.collTeardown slot) .ok 0 0 0 (dropGroup slot s)) := by
  rw [execCollTeardownDone, whileLit_of_lit hlit]
  simp only [hg, htearing, hopen, Bool.not_true, Bool.false_eq_true, or_self, if_false]
  rfl

/-- A collective that is over, or whose group is not READY, is not aborted (R271). -/
theorem doCollAbort_of_over (hg : groupGet t (param c 0 2) = some g) (howner : g.fn = namedOf c)
    (hover : g.mode ≠ .ready ∨ seqEnded g (BitVec.ofNat 32 (param c 4 4)) = true) :
    doCollAbort c t = cmdOk t := by
  rw [doCollAbort, withGroup_of_owner hg howner]
  exact if_pos hover

theorem doCollAbort_of_running (hg : groupGet t (param c 0 2) = some g) (howner : g.fn = namedOf c) (hready : g.mode = .ready)
    (hruns : seqEnded g (BitVec.ofNat 32 (param c 4 4)) = false) :
    doCollAbort c t =
      cmdOk (collGo (param c 0 2) (startAbort (param c 0 2) (BitVec.ofNat 32 (param c 4 4)) .collAborted false t)) := by
  rw [doCollAbort, withGroup_of_owner hg howner]
  exact if_neg (not_or.mpr ⟨not_not.mpr hready, Bool.eq_false_iff.mp hruns⟩)

/-- Settles O12: each command runs to its reply, which `coll.setup` and `coll.teardown` owe until the group is READY or gone, and each event
acts where its group has come to it (log entry 38 for the legs of the exchange, inside `startExchange`). -/
theorem groupCommandsComplete : Obligations.GroupCommandsComplete := by
  unfold Obligations.GroupCommandsComplete
  refine ⟨?setup, ?setupWaits, ?grant, ?ready, ?timeout, ?teardown, ?teardownDone, ?query, ?abortOver, ?abort⟩
  case setup =>
    exact fun _ _ _ _ h hslot hunused hsome hmembers htc hident hdevice hlow hhigh hflags htime hres => congrArg Host.Outcome.next
      (runCmd_eq_acceptedReply h
        (doCollSetup_of_reserved ⟨hslot, hunused, hsome, hmembers, htc, hident, hdevice, hlow, hhigh, hflags, htime⟩ hres))
  case setupWaits =>
    exact fun _ _ _ h hslot hunused hsome hmembers htc hident hdevice hlow hhigh hflags htime hres => congrArg Host.Outcome.next
      (runCmd_eq_acceptedReply h
        (doCollSetup_of_full ⟨hslot, hunused, hsome, hmembers, htc, hident, hdevice, hlow, hhigh, hflags, htime⟩ hres))
  case grant => exact fun _ _ _ _ hlit hold hres => execFathomReservationGrant_of_fits hlit hold hres
  case ready =>
    rintro slot records g _ u r s hlit hg hmode hall hrecords hagree rfl hcount hjournal
    exact execCollSetupReady_of_agreeing hlit hg hmode hall hrecords hagree hcount hjournal
  case timeout => exact fun _ _ _ _ hlit hg hmode hat => execCollSetupTimeout_of_unready hlit hg hmode hat
  case teardown =>
    exact fun _ _ _ _ h hg howner hstands => congrArg Host.Outcome.next
      (runCmd_eq_acceptedReply h (doCollTeardown_of_standing hg howner hstands))
  case teardownDone => exact fun _ _ _ hlit hg htearing hopen => execCollTeardownDone_of_quiet hlit hg htearing hopen
  case query =>
    exact fun _ _ _ _ h hg howner => congrArg Host.Outcome.next (runCmd_eq_okReply h (withGroup_of_owner hg howner _))
  case abortOver =>
    exact fun _ _ _ _ h hg howner hover => congrArg Host.Outcome.next (runCmd_eq_okReply h (doCollAbort_of_over hg howner hover))
  case abort =>
    exact fun _ _ _ _ h hg howner hready hruns => congrArg Host.Outcome.next
      (runCmd_eq_okReply h (doCollAbort_of_running hg howner hready hruns))

end Sys2Proof.Machine
end

section
/-! The commands of the cache pools (Table 10-10): what each comes to where the device reads it and its own checks pass, and when the reply that
one of them owes is given. -/

namespace Sys2Proof.Machine

variable {c : Cmd} {s t : State} {pool user : Nat} {p : Pool}

/-! ### The pool and the user that a command names -/

theorem withPool_of_owner (hp : poolGet t (param c 0 1) = some p) (howner : p.fn = namedOf c) (k : Nat → Pool → CmdOut) :
    withPool c t k = k (param c 0 1) p := by
  simp only [withPool, hp]
  exact if_pos howner

theorem withUser_of_owner (hp : poolGet t (param c 0 1) = some p) (howner : p.fn = namedOf c) (huser : param c 2 2 < p.maxUsers)
    (k : Nat → Pool → Nat → CmdOut) : withUser c t k = k (param c 0 1) p (param c 2 2) := by
  rw [withUser, withPool_of_owner hp howner]
  exact if_pos huser

/-! ### kv.pool.create and kv.pool.destroy (R279, R305) -/

theorem doPoolCreate_of_free (hfree : poolGet t (param c 0 1) = none) (hgeometry : geometryOk (poolOfCmd c) = true)
    (hread : keyCheck t (poolOfCmd c).fn (poolOfCmd c).key rightLocalRead (poolOfCmd c).dva (poolBytes (poolOfCmd c)) = none)
    (hwrite : keyCheck t (poolOfCmd c).fn (poolOfCmd c).key rightLocalWrite (poolOfCmd c).dva (poolBytes (poolOfCmd c)) = none) :
    doPoolCreate c t =
      .done (cacheMod (fun x => { x with pools := tabSet x.pools (param c 0 1) (poolOfCmd c) }) t) .ok (poolBytes (poolOfCmd c)) 0 0 := by
  have hunused : ¬ (poolGet t (param c 0 1)).isSome = true := Option.not_isSome_iff_eq_none.mpr hfree
  simp only [doPoolCreate, if_neg hunused, needParam_of_true hgeometry, hread, hwrite]

theorem doPoolDestroy_of_standing (hp : poolGet t (param c 0 1) = some p) (howner : p.fn = namedOf c) (hstands : p.ending = false) :
    doPoolDestroy c t =
      .deferred (cacheMod (fun x => { x with pools := tabMod x.pools (param c 0 1) fun p => { p with ending := true } }) t)
        (.kvPoolDestroy (param c 0 1)) := by
  rw [doPoolDestroy, withPool_of_owner hp howner]
  exact if_neg (Bool.eq_false_iff.mp hstands)

theorem execKvPoolDestroyDone_of_quiet (hlit : lit s = true) (hp : poolGet s pool = some p) (hending : p.ending = true)
    (hquiet : (openRequests s pool).isEmpty = true) :
    execKvPoolDestroyDone pool s = .next (finishOn (.kvPoolDestroy pool) .ok 0 0 0 (dropPool pool s)) := by
  rw [execKvPoolDestroyDone, whileLit_of_lit hlit]
  simp only [hp, hending, hquiet, Bool.not_true, Bool.false_eq_true, or_self, if_false]
  rfl

/-! ### kv.seal (R284) -/

/-- The layers lie in the pool as soon as there is one and the last of them does. -/
theorem doSeal_of_inside (hp : poolGet t (param c 0 1) = some p) (howner : p.fn = namedOf c) (hsome : 1 ≤ param c 2 1)
    (hlayers : param c 1 1 + param c 2 1 ≤ p.layers) (huser : param c 4 2 < p.maxUsers) (htokens : param c 8 4 ≤ 64 * p.maxBlocks) :
    doSeal c t =
      .deferred t (.kvSeal (param c 0 1) (param c 4 2) (param c 1 1) (param c 2 1) (param c 8 4 / 64) 0) := by
  have hfirst : param c 1 1 < p.layers := Nat.lt_of_lt_of_le (Nat.lt_add_of_pos_right hsome) hlayers
  rw [doSeal, withPool_of_owner hp howner]
  refine needParam_of_true ?_
  simp only [Bool.and_eq_true, decide_eq_true_eq]
  exact ⟨⟨⟨hfirst, hsome, hlayers⟩, huser⟩, htokens⟩

/-- `count` layers from `first` on are sealed up to the block `goal`, one after the other: the state, how many blocks, and whether no page
stopped it (R284). -/
def sealLayers (pool : Nat) (p : Pool) (user first count goal : Nat) (s : State) : State × Nat × Bool :=
  ((List.range count).map fun i => first + i).foldl
    (fun acc l => if acc.2.2 then sealUpTo (p.maxBlocks + 1) pool p user l goal acc.1 acc.2.1 else acc) (s, 0, true)

theorem execKvSealDone_of_waiting {first count goal : Nat} {x : Pending} (hlit : lit s = true)
    (holdest : s.commands.find? (fun y => (sealJob pool user y.what).isSome) = some x)
    (hjob : sealJob pool user x.what = some (first, count, goal)) (hp : poolGet s pool = some p) :
    execKvSealDone pool user s =
      .next (answer x (if (sealLayers pool p user first count goal s).2.2 then .ok else .cacheMiss)
        (sealLayers pool p user first count goal s).2.1 0 0
        { (sealLayers pool p user first count goal s).1 with
          commands := (sealLayers pool p user first count goal s).1.commands.erase x }) := by
  rw [execKvSealDone, whileLit_of_lit hlit]
  simp only [holdest, hp, hjob]
  rfl

/-! ### kv.user.reset, kv.user.pin and kv.user.unpin (R285, R286, R305) -/

/-- The user's metadata word of each layer is zero, where the page that the metadata begins in is present (R305). -/
def clearMeta (p : Pool) (user : Nat) (t : State) : State :=
  (List.range p.layers).foldl
    (fun v l => if (poolMiss v p (metaAt p user) 4).isNone then poolWrite p (metaAt p user + 4 * l) (leBytes 4 0) v else v) t

theorem doUserReset_of_idle (hp : poolGet t (param c 0 1) = some p) (howner : p.fn = namedOf c) (huser : param c 2 2 < p.maxUsers)
    (hunpinned : (t.cache.pins.any fun x => x.pool == param c 0 1 && x.user == param c 2 2) = false)
    (hquiet : userOpen t (param c 0 1) (param c 2 2) false = false) :
    doUserReset c t =
      .done (cacheMod (fun x => { x with sealedBlocks := x.sealedBlocks.filter fun q => q.1 / 128 != param c 0 1 * 4096 + param c 2 2 })
        (clearMeta p (param c 2 2) t)) .ok 0 0 0 := by
  rw [doUserReset, withUser_of_owner hp howner huser]
  refine if_neg ?_
  simp only [hunpinned, hquiet, Bool.or_self, Bool.false_eq_true, not_false_eq_true]

/-- The pin has its place where the summaries fit the residency and the translations their table (R285). -/
theorem doUserPin_of_fits (hp : poolGet t (param c 0 1) = some p) (howner : p.fn = namedOf c) (huser : param c 2 2 < p.maxUsers)
    (hunpinned : (t.cache.pins.any fun x => x.pool == param c 0 1 && x.user == param c 2 2) = false)
    (hsummaries : pinsTake t pinSummary + pinSummary p ≤ residency t) (hpages : pinsTake t pinPages + pinPages p ≤ 1048576) :
    doUserPin c t =
      .deferred (cacheMod (fun x =>
        { x with pins := x.pins ++ [{ pool := param c 0 1, user := param c 2 2, ready := false, ending := false }] }) t)
        (.kvPin (param c 0 1) (param c 2 2)) := by
  have hfits : ¬ (residency t < pinsTake t pinSummary + pinSummary p ∨ 1048576 < pinsTake t pinPages + pinPages p) :=
    not_or.mpr ⟨Nat.not_lt.mpr hsummaries, Nat.not_lt.mpr hpages⟩
  rw [doUserPin, withUser_of_owner hp howner huser, if_neg (Bool.eq_false_iff.mp hunpinned), if_neg hfits]

theorem execKvUserPinDone_of_waiting (hlit : lit s = true) (hp : poolGet s pool = some p)
    (hwaits : (s.cache.pins.any fun x => x.pool == pool && x.user == user && !x.ready) = true) :
    execKvUserPinDone pool user s =
      .next (finishOn (.kvPin pool user) .ok 0 0 0
        (loadSummaries pool p user (pinMod pool user (fun x => { x with ready := true }) s))) := by
  rw [execKvUserPinDone, whileLit_of_lit hlit]
  simp only [hp]
  exact if_pos hwaits

theorem doUserUnpin_of_ready (hp : poolGet t (param c 0 1) = some p) (howner : p.fn = namedOf c) (huser : param c 2 2 < p.maxUsers)
    (hready : (t.cache.pins.any fun x => x.pool == param c 0 1 && x.user == param c 2 2 && x.ready && !x.ending) = true) :
    doUserUnpin c t =
      .deferred (pinMod (param c 0 1) (param c 2 2) (fun x => { x with ending := true }) t) (.kvUnpin (param c 0 1) (param c 2 2)) := by
  rw [doUserUnpin, withUser_of_owner hp howner huser]
  exact if_pos hready

theorem execKvUserUnpinDone_of_quiet (hlit : lit s = true) (hquiet : userOpen s pool user true = false) :
    execKvUserUnpinDone pool user s =
      .next (finishOn (.kvUnpin pool user) .ok 0 0 0 (dropPins (fun x => x.pool == pool && x.user == user && x.ending) s)) := by
  rw [execKvUserUnpinDone, whileLit_of_lit hlit]
  exact if_neg (Bool.eq_false_iff.mp hquiet)

/-! ### kv.partner (R292) -/

/-- What `kv.partner` asks of the ports `x` and `y` that it names (R292). -/
structure PartnersAllowed (c : Cmd) (t : State) (x y : FabPort) : Prop where
  left : portGet t (param c 0 1) = some x
  right : portGet t (param c 1 1) = some y
  apart : param c 0 1 ≠ param c 1 1
  leftSpur : x.role = .spur
  rightSpur : y.role = .spur
  leftActive : x.active = true
  rightActive : y.active = true
  facing : x.partnerDev = y.partnerDev
  action : param c 2 1 < 2
  leftIdle : admittedEndpoint t (param c 0 1) = false
  rightIdle : admittedEndpoint t (param c 1 1) = false

/-- The ports join where the parameter at byte 2 is 1; either way they part from the partners that they had (R292, R300). -/
theorem doPartner_of_allowed {x y : FabPort} (h : PartnersAllowed c t x y) :
    doPartner c t =
      .done (portMod (param c 1 1) (fun z => { z with partner := if param c 2 1 = 1 then some (param c 0 1) else none })
        (portMod (param c 0 1) (fun z => { z with partner := if param c 2 1 = 1 then some (param c 1 1) else none })
          (partPorts (param c 0 1) (param c 1 1) t))) .ok 0 0 0 := by
  have hidle : ¬ (admittedEndpoint t (param c 0 1) = true ∨ admittedEndpoint t (param c 1 1) = true) :=
    not_or.mpr ⟨Bool.eq_false_iff.mp h.leftIdle, Bool.eq_false_iff.mp h.rightIdle⟩
  simp only [doPartner, h.left, h.right]
  rw [needParam_of_true, if_neg hidle, cmdOk]
  simp only [Bool.and_eq_true, decide_eq_true_eq, beq_iff_eq]
  exact ⟨⟨⟨⟨h.apart, h.leftSpur⟩, h.rightSpur⟩, ⟨h.leftActive, h.rightActive⟩, h.facing⟩, h.action⟩

/-- Settles O13: each command runs to its reply, which `kv.pool.destroy`, `kv.seal`, `kv.user.pin` and `kv.user.unpin` owe until their `DONE`
event, and a lemma above says what each event does where its pool or user has come to it. -/
theorem poolCommandsComplete : Obligations.PoolCommandsComplete := by
  unfold Obligations.PoolCommandsComplete
  refine ⟨?create, ?destroy, ?destroyDone, ?query, ?sealing, ?sealDone, ?userReset, ?pin, ?pinDone, ?unpin, ?unpinDone, ?partner⟩
  case create =>
    exact fun _ _ _ h hfree hgeometry hread hwrite => congrArg Host.Outcome.next
      (runCmd_eq_okReply h (doPoolCreate_of_free hfree hgeometry hread hwrite))
  case destroy =>
    exact fun _ _ _ _ h hp howner hstands => congrArg Host.Outcome.next
      (runCmd_eq_acceptedReply h (doPoolDestroy_of_standing hp howner hstands))
  case destroyDone => exact fun _ _ _ hlit hp hending hquiet => execKvPoolDestroyDone_of_quiet hlit hp hending hquiet
  case query =>
    exact fun _ _ _ _ h hp howner => congrArg Host.Outcome.next (runCmd_eq_okReply h (withPool_of_owner hp howner _))
  case sealing =>
    exact fun _ _ _ _ h hp howner hsome hlayers huser htokens => congrArg Host.Outcome.next
      (runCmd_eq_acceptedReply h (doSeal_of_inside hp howner hsome hlayers huser htokens))
  case sealDone =>
    rintro pool user first count blocks x p _ s hlit holdest hjob hp rfl
    exact execKvSealDone_of_waiting hlit holdest hjob hp
  case userReset =>
    rintro c s t p _ h hp howner huser hunpinned hquiet rfl
    exact congrArg Host.Outcome.next (runCmd_eq_okReply h (doUserReset_of_idle hp howner huser hunpinned hquiet))
  case pin =>
    exact fun _ _ _ _ h hp howner huser hunpinned hsummaries hpages => congrArg Host.Outcome.next
      (runCmd_eq_acceptedReply h (doUserPin_of_fits hp howner huser hunpinned hsummaries hpages))
  case pinDone => exact fun _ _ _ _ hlit hp hwaits => execKvUserPinDone_of_waiting hlit hp hwaits
  case unpin =>
    exact fun _ _ _ _ h hp howner huser hready => congrArg Host.Outcome.next
      (runCmd_eq_acceptedReply h (doUserUnpin_of_ready hp howner huser hready))
  case unpinDone => exact fun _ _ _ hlit hquiet => execKvUserUnpinDone_of_quiet hlit hquiet
  case partner =>
    exact fun _ _ _ _ _ h hx hy hapart hxSpur hySpur hxActive hyActive hfacing haction hxIdle hyIdle => congrArg Host.Outcome.next
      (runCmd_eq_okReply h (doPartner_of_allowed
        ⟨hx, hy, hapart, hxSpur, hySpur, hxActive, hyActive, hfacing, haction, hxIdle, hyIdle⟩))

end Sys2Proof.Machine
end

section
/-! What every step keeps, from reset on: the invariant, and a trip; and the frames of the security module and of the power state (chapters 13
to 15 and 19). -/

namespace Sys2Proof.Machine

variable {q : List Instr} {n : Nat} {b : Bool} {k : Kept} {c : Instr} {s t : State}

/-! ### The invariant -/

theorem Keeps.inv (h : Keeps q n b k s) : Inv s := h.1.2.2.2

theorem Keeps.life_eq_tripped (h : Keeps q n true k s) : s.dev.life = .tripped := h.1.2.2.1 rfl

theorem inv_exec (hi : Inv s) (ht : exec c s = .next t) : Inv t := by
  have hkeeps : KeepsO s.pending 0 false Kept.nothing (exec c s) :=
    exec_keeps c (Kept.nothing_spares c) (fun _ _ _ _ _ => rfl) (fun _ _ => rfl) ((keeps_nothing_of_inv hi).of_time_le (Nat.zero_le _))
  exact (hkeeps.elim ht).inv

theorem inv_idle (hi : Inv s) : Inv (idle s) := by
  unfold idle
  split
  · exact hi
  · exact hi

/-- Settles O58: a step runs the command at the front, which `exec_keeps` covers, or idles; neither taking a command from the queue nor the
passing of time touches what `Inv` speaks of (log entry 57 for the bound of 16 frames). -/
theorem stepsKeepTheInvariant : Obligations.StepsKeepTheInvariant := by
  unfold Obligations.StepsKeepTheInvariant
  intro s t hi ht
  cases hpending : s.pending with
  | nil =>
    obtain rfl : idle s = t := Host.Outcome.next.inj ((stepRunsTheFrontCommand.2 s hpending).symm.trans ht)
    exact inv_idle hi
  | cons c rest =>
    have hrun : exec c { s with pending := rest } = .next t := by
      rw [step, hpending] at ht
      exact ht
    exact inv_exec (s := { s with pending := rest }) hi hrun

/-- Settles O40: no byte of the tarns is written, the test logic stands in reset, the helm bus holds nothing, no grant is in force, and the
fallback budget is 400 W and the thermal ceiling 800 W (log entry 57 for the bound of 16 frames). -/
theorem resetMeetsInvariant : Obligations.ResetMeetsInvariant := by
  unfold Obligations.ResetMeetsInvariant
  have htap : tapHeld State.reset.jtag := fun _ => ⟨rfl, rfl⟩
  have hhelm : helmBounded State.reset.helm := ⟨Nat.zero_le _, Nat.zero_le _⟩
  have hpower : powerBounded State.reset.power := ⟨fun h => absurd rfl h, by decide, by decide⟩
  exact ⟨rfl, htap, hhelm, hpower⟩

/-! ### The trip (R426) -/

/-- Settles O48: `exec_keeps` with the trip kept, which every command but the loss of a rail keeps. -/
theorem thermtripHolds : Obligations.ThermtripHolds := by
  unfold Obligations.ThermtripHolds
  intro c s t hi htrip hrail ht
  have hbase : Keeps s.pending 0 true Kept.nothing s := ⟨⟨rfl, Nat.zero_le _, fun _ => htrip, hi⟩, keptIn_nothing s⟩
  have hkeeps : KeepsO s.pending 0 true Kept.nothing (exec c s) :=
    exec_keeps c (Kept.nothing_spares c) (fun _ _ _ _ _ => rfl) (fun rail hc => absurd hc (hrail rail)) hbase
  exact (hkeeps.elim ht).life_eq_tripped

/-! ### Frames -/

/-- Settles O53: `exec_samePart` for the security module. -/
theorem securityFrame : Obligations.SecurityFrame := by
  unfold Obligations.SecurityFrame
  intro c s t hi ht
  exact exec_samePart hi ht _

/-- Settles O54: `exec_samePart` for the budgets, the sensors, the droops and the learned ceilings. -/
theorem powerFrame : Obligations.PowerFrame := by
  unfold Obligations.PowerFrame
  intro c s t hi ht
  exact ⟨exec_samePart hi ht _, exec_samePart hi ht _, exec_samePart hi ht _, exec_samePart hi ht _⟩

end Sys2Proof.Machine
end

section
/-! The places of tarn memory, what a patrol scrub leaves of it, its upkeep and its losses (chapter 12). -/

namespace Sys2Proof.Machine

variable {s u : State} {tarn channel bank row tpa x : Nat} {hit : ScrubHit}

/-! ### Places (R334, R335) -/

theorem tarnPlace_of_interleaved {a : Nat} (h : a < 0x3900000000) :
    tarnPlace a = (64 * (a / 256 % 4) + a / 1024 % 64, a / 65536 * 256 + a % 256) := if_pos h

theorem tarnPlace_of_reserved {t r : Nat} (hr : r < 0x1C0000000) :
    tarnPlace (0x3900000000 + 0x1C0000000 * t + r) = (64 * t + r / 256 % 64, 0x39000000 + r / 16384 * 256 + r % 256) := by
  have hnot : ¬ 0x3900000000 + 0x1C0000000 * t + r < 0x3900000000 := by omega
  have htarn : (0x3900000000 + 0x1C0000000 * t + r - 0x3900000000) / 0x1C0000000 = t := by omega
  have hoffset : (0x3900000000 + 0x1C0000000 * t + r - 0x3900000000) % 0x1C0000000 = r := by omega
  simp only [tarnPlace, if_neg hnot, htarn, hoffset]
  norm_num

/-- An address of the reserved areas is an offset in those of one tarn. -/
theorem exists_reserved {a : Nat} (h : 0x3900000000 ≤ a) : ∃ t r, r < 0x1C0000000 ∧ a = 0x3900000000 + 0x1C0000000 * t + r :=
  ⟨(a - 0x3900000000) / 0x1C0000000, (a - 0x3900000000) % 0x1C0000000, Nat.mod_lt _ (by norm_num), by omega⟩

/-- The interleaved area ends below offset 912 MiB of each channel, where the reserved areas begin. -/
theorem tarnPlace_ne_of_areas {a t r : Nat} (ha : a < 0x3900000000) (hr : r < 0x1C0000000) :
    tarnPlace a ≠ tarnPlace (0x3900000000 + 0x1C0000000 * t + r) := by
  rw [tarnPlace_of_interleaved ha, tarnPlace_of_reserved hr]
  intro h
  have hoffset := congrArg Prod.snd h
  dsimp only at hoffset
  omega

/-- An address of the interleaved area is a byte of one burst of one page. -/
theorem exists_burst {a : Nat} (h : a < 0x3900000000) :
    ∃ page g o, page < 0x390000 ∧ g < 256 ∧ o < 256 ∧ a = 65536 * page + 256 * g + o :=
  ⟨a / 65536, a / 256 % 256, a % 256, by omega, by omega, by omega, by omega⟩

/-- Burst `g` of a page lies in channel `g` / 4 of tarn `g` mod 4. -/
theorem tarnPlace_burst {page g o : Nat} (hpage : page < 0x390000) (hg : g < 256) (ho : o < 256) :
    tarnPlace (65536 * page + 256 * g + o) = (64 * (g % 4) + g / 4, 256 * page + o) := by
  rw [tarnPlace_of_interleaved (by omega)]
  refine Prod.ext ?_ ?_
  · dsimp only
    omega
  · dsimp only
    omega

theorem eq_of_interleaved_place {a b : Nat} (ha : a < 0x3900000000) (hb : b < 0x3900000000) (h : tarnPlace a = tarnPlace b) : a = b := by
  obtain ⟨page, g, o, hpage, hg, ho, rfl⟩ := exists_burst ha
  obtain ⟨page', g', o', hpage', hg', ho', rfl⟩ := exists_burst hb
  rw [tarnPlace_burst hpage hg ho, tarnPlace_burst hpage' hg' ho'] at h
  obtain ⟨hchannel, hoffset⟩ := Prod.mk.inj h
  omega

theorem eq_of_reserved_place {t r t' r' : Nat} (hr : r < 0x1C0000000) (hr' : r' < 0x1C0000000)
    (h : tarnPlace (0x3900000000 + 0x1C0000000 * t + r) = tarnPlace (0x3900000000 + 0x1C0000000 * t' + r')) : t = t' ∧ r = r' := by
  rw [tarnPlace_of_reserved hr, tarnPlace_of_reserved hr'] at h
  obtain ⟨hchannel, hoffset⟩ := Prod.mk.inj h
  omega

theorem tarnPlace_injective {a b : Nat} (h : tarnPlace a = tarnPlace b) : a = b := by
  obtain ha | ha := Nat.lt_or_ge a 0x3900000000
  · obtain hb | hb := Nat.lt_or_ge b 0x3900000000
    · exact eq_of_interleaved_place ha hb h
    · obtain ⟨t, r, hr, rfl⟩ := exists_reserved hb
      exact absurd h (tarnPlace_ne_of_areas ha hr)
  · obtain ⟨t, r, hr, rfl⟩ := exists_reserved ha
    obtain hb | hb := Nat.lt_or_ge b 0x3900000000
    · exact absurd h.symm (tarnPlace_ne_of_areas hb hr)
    · obtain ⟨t', r', hr', rfl⟩ := exists_reserved hb
      obtain ⟨rfl, rfl⟩ := eq_of_reserved_place hr hr' h
      rfl

/-- Settles O59: two interleaved addresses, two reserved ones, or one of each; the numbers of the bursts of a page are a permutation of its
channels. -/
theorem tarnBytesHaveOnePlace : Obligations.TarnBytesHaveOnePlace := by
  unfold Obligations.TarnBytesHaveOnePlace
  refine ⟨fun a b _ _ h => tarnPlace_injective h, fun page c hpage hc => ?_, fun t r _ hr => tarnPlace_of_reserved hr⟩
  refine ⟨4 * (c % 64) + c / 64, by omega, fun o ho => ?_, fun h hh hchannel => ?_⟩
  · rw [tarnPlace_burst hpage (by omega) ho]
    exact Prod.ext (by dsimp only; omega) rfl
  · rw [show 65536 * page + 256 * h = 65536 * page + 256 * h + 0 from rfl, tarnPlace_burst hpage hh (by norm_num)] at hchannel
    dsimp only at hchannel
    omega

/-! ### Patrol scrub (R339) -/

/-- The tarn memory is held, and no other part. -/
def Kept.ofMem (m : List Host.Cell) : Kept := { Kept.nothing with mem := some m }

theorem keeps_ofMem_of_inv (hi : Inv s) : Keeps s.pending 0 false (Kept.ofMem s.tarns.mem) s := by
  refine ⟨((keeps_nothing_of_inv hi).of_time_le (Nat.zero_le _)).1, fun _ hm => Option.some.inj hm, (keptIn_nothing s).2⟩

theorem Keeps.mem_eq {q : List Instr} {n : Nat} {b : Bool} {m : List Host.Cell} (h : Keeps q n b (Kept.ofMem m) s) : s.tarns.mem = m :=
  h.2.1 m rfl

/-- A row repair copies a row to another place, and no byte changes its address (R340). -/
theorem startRepair_mem (hi : Inv s) (place : Option (Nat × Nat)) : (startRepair channel place s).tarns.mem = s.tarns.mem :=
  (startRepair_keeps channel place s (keeps_ofMem_of_inv hi)).mem_eq

theorem inv_scrubWord (hi : Inv s) (before : List Corrected) : Inv (scrubWord tarn before s hit) :=
  (scrubWord_keeps tarn before s hit (keeps_nothing_of_inv hi) rfl).inv

/-- The tarn memory with the corrected word written back, unless a later write has overtaken it (R339). -/
def writtenBack (m : List Host.Cell) (hit : ScrubHit) : List Host.Cell :=
  if hit.overwritten then m else memWriteList m hit.tpa (slice hit.word 0 64)

theorem scrubWord_mem (hi : Inv s) (before : List Corrected) :
    (scrubWord tarn before s hit).tarns.mem = writtenBack s.tarns.mem hit := by
  cases hover : hit.overwritten with
  | true =>
    simp only [scrubWord, writtenBack, hover, if_true]
    split
    · exact startRepair_mem (by exact hi) _
    · rfl
  | false =>
    have hwf : Memory.wf (memWriteList s.tarns.mem hit.tpa (slice hit.word 0 64)) = true := memWriteList_wf _ _ hi.1
    simp only [scrubWord, writtenBack, hover, Bool.false_eq_true, if_false]
    split
    · exact startRepair_mem (by exact ⟨hwf, hi.2⟩) _
    · rfl

/-- The byte at `x` is none of those that the scrub writes back. -/
def outsideHit (x : Nat) (hit : ScrubHit) : Prop := hit.overwritten = false → x < hit.tpa ∨ hit.tpa + 64 ≤ x

theorem slice_length (l : List Byte) (off n : Nat) : (slice l off n).length = n := by
  simp only [slice, List.length_append, List.length_replicate, List.length_take]
  omega

theorem memRead_writtenBack {m : List Host.Cell} (hwf : Memory.wf m = true) (hout : outsideHit x hit) :
    memRead (writtenBack m hit) x = memRead m x := by
  unfold writtenBack
  split
  · rfl
  · refine memRead_memWriteList _ _ _ hwf ?_
    rw [slice_length]
    exact hout (Bool.eq_false_iff.mpr ‹_›)

theorem memRead_foldl_scrubWord (before : List Corrected) (l : List ScrubHit) (hi : Inv s) (hout : ∀ hit ∈ l, outsideHit x hit) :
    memRead (l.foldl (scrubWord tarn before) s).tarns.mem x = memRead s.tarns.mem x := by
  induction l generalizing s with
  | nil => rfl
  | cons hit l ih =>
    obtain ⟨hhit, hl⟩ := List.forall_mem_cons.mp hout
    rw [List.foldl_cons, ih (inv_scrubWord hi before) hl, scrubWord_mem hi, memRead_writtenBack hi.1 hhit]

/-- The words of a pass over `tarn` that stand where the tarn holds them: the others are none of its words. -/
def scrubbed (tarn : Nat) (s : State) (hit : ScrubHit) : Bool :=
  decide (hit.channel < 64 ∧ hit.bank < 32 ∧ hit.tpa + 64 ≤ 2 ^ 38) && hit.tpa % 64 == 0 &&
    granuleChannel s (hit.tpa / 256) == 64 * tarn + hit.channel

theorem execPatrolScrub_of_usable (corrected : List ScrubHit) (hlit : lit s = true) (htarn : tarn < 4)
    (husable : bit s.dev.inventory.tarns.toNat tarn = true) :
    execPatrolScrub tarn corrected s = .next ((corrected.filter (scrubbed tarn s)).foldl (scrubWord tarn s.tarns.scrubHits) s) := by
  rw [execPatrolScrub, whileLit_of_lit hlit, if_neg]
  · rfl
  · simp only [husable, Nat.not_le.mpr htarn, Bool.not_true, Bool.false_eq_true, or_self, not_false_eq_true]

/-- A tarn that is out of service is not scrubbed, and nothing is while the data path does not run. -/
theorem execPatrolScrub_of_unusable (corrected : List ScrubHit)
    (h : ¬ (lit s = true ∧ tarn < 4 ∧ bit s.dev.inventory.tarns.toNat tarn = true)) : execPatrolScrub tarn corrected s = .next s := by
  unfold execPatrolScrub whileLit
  split
  · rw [if_pos]
    by_contra hcontra
    obtain ⟨htarn, husable⟩ := not_or.mp hcontra
    exact h ⟨‹_›, Nat.not_le.mp htarn, by simpa using husable⟩
  · rfl

/-- Settles O57: a pass that runs is `scrubWord` for each word found, and `memRead_foldl_scrubWord` says what that leaves. -/
theorem scrubStoresOnlyItsWords : Obligations.ScrubStoresOnlyItsWords := by
  unfold Obligations.ScrubStoresOnlyItsWords
  intro tarn corrected s t x hi ht hout
  by_cases hruns : lit s = true ∧ tarn < 4 ∧ bit s.dev.inventory.tarns.toNat tarn = true
  · obtain ⟨hlit, htarn, husable⟩ := hruns
    obtain rfl := Host.Outcome.next.inj ((execPatrolScrub_of_usable corrected hlit htarn husable).symm.trans ht)
    exact memRead_foldl_scrubWord _ _ hi fun hit hmem => hout hit (List.mem_of_mem_filter hmem)
  · obtain rfl := Host.Outcome.next.inj ((execPatrolScrub_of_unusable corrected hruns).symm.trans ht)
    rfl

/-! ### Upkeep -/

/-- R339 (log entry 45 for the numbers of the stack sensors). -/
theorem execRefresh_of_usable (hlit : lit s = true) (htarn : tarn < 4) (husable : bit s.dev.inventory.tarns.toNat tarn = true) :
    execRefresh tarn s =
      .next (tarnMod (fun t =>
        { t with refreshMs := if ((s.thermal.readings.drop 16).take 8).any fun r => decide (85 * 16 < r) then 16 else 32 }) s) := by
  rw [execRefresh, whileLit_of_lit hlit, if_neg]
  simp only [husable, Nat.not_le.mpr htarn, Bool.not_true, Bool.false_eq_true, or_self, not_false_eq_true]

/-- R340: the copy that the event ends leaves the list of those under way. -/
def repairEnded (r : RowRepair) (bank row : Nat) (s : State) : State :=
  tarnMod (fun t => { t with repairs := t.repairs.erase r, scrubHits := t.scrubHits.filter (fun h => !(h.bank == bank && h.row == row)) }) s

theorem execRowRepairDone_of_copied {r : RowRepair} (hlit : lit s = true)
    (hfind : s.tarns.repairs.find?
      (fun r => r.channel == 64 * tarn + channel && (r.place == some (bank, row) || r.place.isNone)) = some r) :
    execRowRepairDone tarn channel bank row s =
      if 8 ≤ (tabGet s.tarns.spares (32 * (64 * tarn + channel) + bank)).getD 0 then
        .next (raiseEvent .bankNoSpare 0 nodeSelf (64 * tarn + channel) bank (repairEnded r (32 * (64 * tarn + channel) + bank) row s))
      else
        .next (tarnMod (fun t =>
          { t with spares := tabAdd t.spares (32 * (64 * tarn + channel) + bank) 1,
                   softRows := t.softRows ++ [(32 * (64 * tarn + channel) + bank, row)] })
          (repairEnded r (32 * (64 * tarn + channel) + bank) row s)) := by
  rw [execRowRepairDone, whileLit_of_lit hlit]
  simp only [hfind]
  rfl

/-- R166. -/
theorem execJournalRemirrored_of_present (hlit : lit s = true) (hpresent : bit s.tarns.tarnLost.toNat tarn = false) :
    execJournalRemirrored tarn channel s =
      .next (tarnMod (fun t =>
        { t with remirror := t.remirror.filter (· != 64 * tarn + channel),
                 unreadable := t.unreadable.filter fun u => !(u.1 == tarn && journalChannel u.2 == channel) }) s) := by
  rw [execJournalRemirrored, whileLit_of_lit hlit, if_neg (Bool.eq_false_iff.mp hpresent)]

/-- R347. -/
theorem execChannelPowerDown_of_idle (hlit : lit s = true) (hprofile : s.dev.profile = .efficiency) (hhold : holdActive s = false)
    (hnumber : tarn < 4 ∧ channel < 64) (husable : bit s.tarns.usable.toNat (64 * tarn + channel) = true)
    (hup : s.tarns.powerDown.contains (64 * tarn + channel) = false) :
    execChannelPowerDown tarn channel s =
      .next (tarnMod (fun t => { t with powerDown := t.powerDown ++ [64 * tarn + channel] })
        (advanceTo ((tabGet s.tarns.accessed (64 * tarn + channel)).getD 0 + 10000) s)) := by
  rw [execChannelPowerDown, whileLit_of_lit hlit]
  refine if_pos ?_
  simp only [hprofile, hhold, hnumber, husable, hup, beq_self_eq_true, and_self, decide_true, Bool.not_false, Bool.and_self]

/-- Settles O32: each event acts as a lemma above says where its tarn, its repair or its channel has come to it (log entry 45 for the
sensors). -/
theorem tarnEventsComplete : Obligations.TarnEventsComplete := by
  unfold Obligations.TarnEventsComplete
  refine ⟨?refresh, ?scrub, ?noSpare, ?spare, ?reformed, ?remirrored, ?powerDown⟩
  case refresh => exact fun _ _ hlit htarn husable => execRefresh_of_usable hlit htarn husable
  case scrub => exact fun _ corrected _ hlit htarn husable => execPatrolScrub_of_usable corrected hlit htarn husable
  case noSpare =>
    rintro tarn channel bank row _ r _ s hlit rfl hfind rfl hfull
    exact (execRowRepairDone_of_copied hlit hfind).trans (if_pos hfull)
  case spare =>
    rintro tarn channel bank row _ r _ s hlit rfl hfind rfl hroom
    exact (execRowRepairDone_of_copied hlit hfind).trans (if_neg (Nat.not_le.mpr hroom))
  case reformed => exact fun _ hlit => whileLit_of_lit hlit
  case remirrored => exact fun _ _ _ hlit hpresent => execJournalRemirrored_of_present hlit hpresent
  case powerDown =>
    rintro tarn channel _ s hlit hprofile hhold hnumber rfl husable hup
    exact execChannelPowerDown_of_idle hlit hprofile hhold hnumber husable hup

/-! ### Losses -/

/-- R338: the row of the word is repaired, and its page is lost (log entry 44 for the bank). -/
theorem execUncorrectableError_of_area (hlit : lit s = true) (hbelow : tpa < 0x3900000000) (harea : tpa < areaEnd s) :
    execUncorrectableError tpa s =
      .next (losePages (fun p => p == tpa / 65536) .rowLost
        (raiseEvent .rowLost 0 nodeSelf (granuleChannel s (tpa / 256)) ((Config.freeWord s.dev.fresh).toNat % 32)
          (takeFresh (startRepair (granuleChannel s (tpa / 256)) none s)))) := by
  have hexists : ¬ 2 ^ 38 ≤ tpa := by omega
  rw [execUncorrectableError, whileLit_of_lit hlit, if_neg hexists]
  simp only [if_pos hbelow, if_pos harea]

theorem execUncorrectableError_of_beyond (hlit : lit s = true) (hbelow : tpa < 0x3900000000) (hbeyond : areaEnd s ≤ tpa) :
    execUncorrectableError tpa s = .next s := by
  have hexists : ¬ 2 ^ 38 ≤ tpa := by omega
  rw [execUncorrectableError, whileLit_of_lit hlit, if_neg hexists]
  simp only [if_pos hbelow, if_neg (Nat.not_lt.mpr hbeyond)]

/-- Table 12-2, R338: the areas of a tarn above the interleaved one are its journal, its spill and its tables, in that order. -/
theorem execUncorrectableError_of_reserved (hlit : lit s = true) (habove : 0x3900000000 ≤ tpa) (hexists : tpa < 2 ^ 38)
    (hu : u = startRepair (granuleChannel s (tpa / 256)) none s) :
    execUncorrectableError tpa s =
      if (reservedOf tpa).2 < 0x80000000 then
        .next (loseRecords (tarnMod (fun t =>
          { t with unreadable := (t.unreadable.filter (· != ((reservedOf tpa).1, (reservedOf tpa).2 / 64))) ++
                     [((reservedOf tpa).1, (reservedOf tpa).2 / 64)] }) u))
      else if (reservedOf tpa).2 < 0x180000000 then .next (loseSpill u)
      else .next (wantRebuild u) := by
  subst hu
  rw [execUncorrectableError, whileLit_of_lit hlit, if_neg (Nat.not_le.mpr hexists)]
  simp only [if_neg (Nat.not_lt.mpr habove)]

/-- R341: what a lost channel leaves before its tarn is judged. -/
theorem execChannelLost_of_usable (hlit : lit s = true) (htarn : tarn < 4) (hservice : bit s.dev.inventory.tarns.toNat tarn = true)
    (hchannel : channel < 64) (husable : bit s.tarns.usable.toNat (64 * tarn + channel) = true)
    (hu : u = wantRebuild (loseSpill (loseRecords (tarnMod (fun t =>
      { t with usable := t.usable &&& ~~~ (BitVec.ofNat 256 (2 ^ (64 * tarn + channel))), remirror := t.remirror ++ [64 * tarn + channel],
               powerDown := t.powerDown.filter (· != 64 * tarn + channel) })
      (loseArea .channelLost (raiseEvent .channelLost 0 nodeSelf (64 * tarn + channel) 0 (flushCrossing (10 + tarn) s))))))) :
    execChannelLost tarn channel s = .next (if 8 < lostChannels u tarn then loseTarn tarn u else u) := by
  subst hu
  rw [execChannelLost, whileLit_of_lit hlit]
  dsimp only
  rw [if_neg]
  · exact (apply_ite Host.Outcome.next _ _ _).symm
  · simp only [hservice, husable, Nat.not_le.mpr htarn, Nat.not_le.mpr hchannel, Bool.not_true, Bool.false_eq_true, or_self, not_false_eq_true]

/-- R92. -/
theorem execTableRebuilt_of_due {fn : Nat} {host : List HostEntry} {a : AddrSpace} (hlit : lit s = true)
    (hspace : tabGet s.spaces fn = some a) (hdue : s.tarns.rebuild.contains fn = true) (hdma : dmaBarred s fn = false)
    (hu : u = tarnMod (fun t => { t with rebuild := t.rebuild.filter (· != fn) })
      (spaceMod fn (fun x => { x with pages := rebuiltPages s fn a host, epoch := x.epoch + 1 }) s)) :
    execTableRebuilt fn host s =
      .next (raiseEvent .tableRebuilt fn nodeSelf (a.epoch + 1).toNat 0
        (if segmentsOpen u fn (a.epoch + 1) then tarnMod (fun t => { t with freeing := t.freeing ++ [(fn, a.epoch + 1)] }) u
          else freeBacking fn ((unmappedBacking u fn).filter fun p => !(syncBacking u fn true ++ syncBacking u fn false).contains p) u)) := by
  subst hu
  rw [execTableRebuilt, whileLit_of_lit hlit]
  simp only [hspace]
  refine if_neg ?_
  simp only [hdue, hdma, Bool.not_true, Bool.or_self, Bool.false_eq_true, not_false_eq_true]

/-- R471. -/
theorem execTarnLost_of_usable (hlit : lit s = true) (htarn : tarn < 4) (husable : bit s.dev.inventory.tarns.toNat tarn = true) :
    execTarnLost tarn s = .next (loseTarn tarn s) := by
  rw [execTarnLost, whileLit_of_lit hlit, if_neg]
  simp only [husable, Nat.not_le.mpr htarn, Bool.not_true, Bool.false_eq_true, or_self, not_false_eq_true]

/-- Settles O33: the area of the address decides what an uncorrectable error loses (log entry 44 for the bank and the spill, which are free
values); a lost channel takes its tarn with it where more than 8 are lost. -/
theorem tarnLossesComplete : Obligations.TarnLossesComplete := by
  unfold Obligations.TarnLossesComplete
  refine ⟨?area, ?beyond, ?journal, ?spill, ?tables, ?channel, ?rebuilt, ?tarn⟩
  case area =>
    rintro tpa _ s hlit rfl hbelow harea
    exact execUncorrectableError_of_area hlit hbelow harea
  case beyond => exact fun _ _ _ hlit _ hbelow hbeyond => execUncorrectableError_of_beyond hlit hbelow hbeyond
  case journal =>
    rintro tpa _ u s hlit hu habove hexists rfl hjournal
    exact (execUncorrectableError_of_reserved hlit habove hexists hu).trans (if_pos hjournal)
  case spill =>
    rintro tpa _ u s hlit hu habove hexists rfl hlow hhigh
    exact (execUncorrectableError_of_reserved hlit habove hexists hu).trans ((if_neg (Nat.not_lt.mpr hlow)).trans (if_pos hhigh))
  case tables =>
    rintro tpa _ u s hlit hu habove hexists rfl hlow
    exact (execUncorrectableError_of_reserved hlit habove hexists hu).trans
      ((if_neg (by omega)).trans (if_neg (Nat.not_lt.mpr hlow)))
  case channel =>
    rintro tarn channel _ _ v s hlit htarn hservice hchannel rfl husable rfl hv
    exact execChannelLost_of_usable hlit htarn hservice hchannel husable hv
  case rebuilt =>
    rintro fn host a u _ s hlit hspace hdue hdma hu rfl
    exact execTableRebuilt_of_due hlit hspace hdue hdma hu
  case tarn => exact fun _ _ hlit htarn husable => execTarnLost_of_usable hlit htarn husable

end Sys2Proof.Machine
end

section
/-! The flits of the spurs, their streams and idle signalling (chapter 8), and the hold and the waves of the cache phase (chapter 10). -/

namespace Sys2Proof.Machine

variable {s u : State} {port tag n rec : Nat} {f : Flit} {x : FabPort}

/-! ### Flits (R225, R226, R291, R345) -/

/-- A flit that passes its checks is taken, and one that fails them is dropped. -/
theorem whileLit_ite_next {p : Prop} [Decidable p] (hlit : lit s = true) (a b : State) :
    whileLit s (if p then .next a else .next b) = .next (if p then a else b) :=
  (whileLit_of_lit hlit).trans (apply_ite Host.Outcome.next p a b).symm

theorem execKvQuery_of_spur (hlit : lit s = true) (hsound : flitSound f = true) (htype : f.type = 0x30)
    (hplane : bits f.chunkSeq.toNat 22 2 = 0) (hx : portGet s port = some x) (hspur : x.role = .spur) (hactive : x.active = true) :
    execKvQuery port f s = .next (takeKvQuery port f (hearFlit port s)) := by
  rw [execKvQuery, whileLit_of_lit hlit]
  refine if_pos ?_
  simp only [hsound, htype, hplane, hx, hspur, hactive, beq_self_eq_true, Bool.and_self]

/-! ### Accesses and streams that go unanswered (R225, R226) -/

theorem execSpurAccessTimeout_of_outbound {a b : SpurAccess} (hlit : lit s = true) (hx : portGet s port = some x)
    (ha : accessGet s port tag = some a) (hout : a.inbound = false)
    (hb : b = { a with sentAt := (advanceTo (a.sentAt + 12000) s).dev.now, data := if a.write then a.data else [] })
    (hu : u = accessMod port tag (fun _ => b) (advanceTo (a.sentAt + 12000) s)) :
    execSpurAccessTimeout port tag s = .next (if x.active then sendFlits port (spurFlits u tag b) u else u) := by
  subst hu hb
  rw [execSpurAccessTimeout, whileLit_of_lit hlit]
  simp only [hx, ha]
  exact if_neg (Bool.eq_false_iff.mp hout)

theorem execStreamResend_of_unconsumed {q : ReqStream} {a : Nat} {rest : List Nat} (hlit : lit s = true) (hx : portGet s port = some x)
    (hq : streamGet s port n = some q) (hsent : q.unconsumed.map Prod.snd = a :: rest) (hactive : x.active = true)
    (hu : u = advanceTo (rest.foldl min a + 12000) (serveStream port n s)) :
    execStreamResend port n s = .next (resendCompletions false (fun r => decide (r.2 + 12000 ≤ u.dev.now)) port n u) := by
  subst hu
  rw [execStreamResend, whileLit_of_lit hlit]
  simp only [hx, hq, hsent]
  exact if_pos hactive

theorem execStreamResend_of_consumed {q : ReqStream} (hlit : lit s = true) (hx : portGet s port = some x) (hq : streamGet s port n = some q)
    (hnone : q.unconsumed = []) : execStreamResend port n s = .next (serveStream port n s) := by
  rw [execStreamResend, whileLit_of_lit hlit]
  simp only [hx, hq, hnone, List.map_nil]

/-! ### The cache phase (R284, R291, R302, R303) -/

theorem execKvQueryFallback_of_waiting {fetched : List Byte} {r : AttnRun} {w : Work} (hlit : lit s = true)
    (hr : s.cache.runs.find? (fun r => r.work == rec) = some r) (hw : workGet s rec = some w) (hnone : r.query = none)
    (hgoes : isSuspended s (.attn r.pool rec) false = false) :
    execKvQueryFallback rec fetched s = .next (attnPump (readQuery rec (some fetched) (advanceTo (w.acceptedAt + 2000) s))) := by
  rw [execKvQueryFallback, whileLit_of_lit hlit]
  simp only [hr, hw, hnone, hgoes, Option.isSome_none, Bool.false_eq_true, or_self, if_false]

theorem execAppendSeal_of_next {d : SealDue} {p : Pool} (hlit : lit s = true) (hd : s.cache.seals.find? (fun d => d.work == rec) = some d)
    (hp : poolGet s d.pool = some p) (hopen : sealBarred s p d.user d.layer d.block = false)
    (hnext : sealedOf s d.pool d.user d.layer = d.block) :
    execAppendSeal rec s =
      .next (sealBlock d.pool p d.user d.layer d.block (cacheMod (fun c => { c with seals := c.seals.erase d }) s)) := by
  have hdue : (!sealBarred s p d.user d.layer d.block) = true ∧ sealedOf s d.pool d.user d.layer = d.block :=
    ⟨by rw [hopen]; rfl, hnext⟩
  rw [execAppendSeal, whileLit_of_lit hlit]
  simp only [hd, hp, if_pos hdue]

/-- Table 10-6: what ends the hold in each profile. -/
theorem execHoldRelease_of_hold (hlit : lit s = true) (hhold : s.cache.hold = true) :
    execHoldRelease s =
      .next (match s.dev.profile with
        | .latency => if s.cache.pins.isEmpty then endHold s else s
        | .balanced => endHold (advanceTo (s.cache.lastD0 + 100000) s)
        | .efficiency => endHold (advanceTo (s.cache.lastD0 + 10000) s)) := by
  have hheld : ¬ (!s.cache.hold) = true := by rw [hhold]; exact Bool.false_ne_true
  rw [execHoldRelease, whileLit_of_lit hlit, if_neg hheld]
  cases s.dev.profile with
  | latency => exact (apply_ite Host.Outcome.next _ _ _).symm
  | balanced => rfl
  | efficiency => rfl

/-- R303, R420: the next wave comes a period later, while units are left to start or to rest. -/
theorem execRampWave_of_due {t : Nat} (hlit : lit s = true) (hdue : s.ramp.nextWave = some t) (hdroop : s.droop.coreSince = none)
    (hu : u = doWave (advanceTo t s)) :
    execRampWave s =
      .next (rampMod (fun r =>
        { r with nextWave := if !u.ramp.starting.isEmpty || !u.ramp.resting.isEmpty then some (t + r.period) else none }) u) := by
  subst hu
  rw [execRampWave, whileLit_of_lit hlit]
  simp only [hdue, hdroop, Option.isSome_none, Bool.false_eq_true, if_false]

/-! ### Idle signalling and width (R228, R229) -/

theorem execSpurIdleEntry_of_quiet {t : Nat} (hlit : lit s = true) (hx : portGet s port = some x) (ht : idleEntry s.dev.profile = some t)
    (hspur : x.role = .spur) (hactive : x.active = true) (hmay : x.mayIdle = true) (hpilot : x.pilot = false) (hawake : x.isIdle = false)
    (hfree : admittedEndpoint s port = false) :
    execSpurIdleEntry port s =
      .next (settleClock (6 + port / 4) (portMod port (fun y => { y with isIdle := true }) (advanceTo (x.lastFlit + t) s))) := by
  rw [execSpurIdleEntry, whileLit_of_lit hlit]
  simp only [hx, ht]
  refine if_pos ?_
  simp only [hspur, hactive, hmay, hpilot, hawake, hfree, Bool.not_false, and_self]

theorem execSpurWake_of_idle (hlit : lit s = true) (hx : portGet s port = some x) (hidle : x.isIdle = true) :
    execSpurWake port s =
      .next (settleClock (6 + port / 4)
        (portMod port (fun y => { y with isIdle := false, lastFlit := (advanceTo (s.dev.now + x.wakeNs) s).dev.now })
          (advanceTo (s.dev.now + x.wakeNs) s))) := by
  rw [execSpurWake, whileLit_of_lit hlit]
  simp only [hx, hidle, if_true]

theorem execPilotNarrow_of_low {p : Nat} (hlit : lit s = true) (hx : portGet s port = some x) (hp : narrowPercent s.dev.profile = some p)
    (hwide : x.role = .spur ∧ x.active = true ∧ x.pilot = true ∧ x.partnerPilot = true ∧ x.lanes = 4 ∧ x.narrowed = false)
    (hfree : admittedEndpoint s port = false) (htx : loadLow s.dev.now p x.txLoad = true) (hrx : loadLow s.dev.now p x.rxLoad = true) :
    execPilotNarrow port s = .next (portMod port (fun y => { y with narrowed := true }) s) := by
  obtain ⟨hspur, hactive, hpilot, hpartner, hlanes, hnarrowed⟩ := hwide
  rw [execPilotNarrow, whileLit_of_lit hlit]
  simp only [hx, hp]
  refine if_pos ?_
  simp only [hspur, hactive, hpilot, hpartner, hlanes, hnarrowed, hfree, htx, hrx, Bool.not_false, and_self]

theorem execPilotWiden_of_narrowed (hlit : lit s = true) (hx : portGet s port = some x) (hnarrowed : x.narrowed = true) :
    execPilotWiden port s = .next (portMod port (fun y => { y with narrowed := false }) s) := by
  rw [execPilotWiden, whileLit_of_lit hlit]
  simp only [hx, hnarrowed, if_true]

/-- Settles O27: the spur flits are taken or dropped by one check, and a lemma above says what each other event does where its conditions
hold. -/
theorem spurEventsComplete : Obligations.SpurEventsComplete := by
  unfold Obligations.SpurEventsComplete
  refine ⟨?command, ?data, ?commit, ?request, ?completionAck, ?accessTimeout, ?resend, ?serve, ?query, ?fallback, ?appendSeal, ?hold, ?wave,
    ?idle, ?wake, ?narrow, ?widen⟩
  case command => exact fun _ _ _ hlit => whileLit_ite_next hlit _ _
  case data => exact fun _ _ _ hlit => whileLit_ite_next hlit _ _
  case commit => exact fun _ _ _ hlit => whileLit_ite_next hlit _ _
  case request => exact fun _ _ _ hlit => whileLit_ite_next hlit _ _
  case completionAck => exact fun _ _ _ hlit => whileLit_ite_next hlit _ _
  case accessTimeout =>
    exact fun _ _ _ _ _ _ _ hlit hx ha hout hb hu => execSpurAccessTimeout_of_outbound hlit hx ha hout hb hu
  case resend =>
    rintro port n a _ rest x q s hlit hx hq hsent rfl hactive
    exact execStreamResend_of_unconsumed hlit hx hq hsent hactive rfl
  case serve => exact fun _ _ _ _ _ hlit hx hq hnone => execStreamResend_of_consumed hlit hx hq hnone
  case query =>
    exact fun _ _ _ _ hlit hsound htype hplane hx hspur hactive => execKvQuery_of_spur hlit hsound htype hplane hx hspur hactive
  case fallback => exact fun _ _ _ _ _ hlit hr hw hnone hgoes => execKvQueryFallback_of_waiting hlit hr hw hnone hgoes
  case appendSeal => exact fun _ _ _ _ hlit hd hp hopen hnext => execAppendSeal_of_next hlit hd hp hopen hnext
  case hold => exact fun _ hlit hhold => execHoldRelease_of_hold hlit hhold
  case wave =>
    rintro t _ _ s hlit hdue hdroop rfl rfl
    exact execRampWave_of_due hlit hdue hdroop rfl
  case idle =>
    exact fun _ _ _ _ hlit hx ht hspur hactive hmay hpilot hawake hfree =>
      execSpurIdleEntry_of_quiet hlit hx ht hspur hactive hmay hpilot hawake hfree
  case wake => exact fun _ _ _ hlit hx hidle => execSpurWake_of_idle hlit hx hidle
  case narrow => exact fun _ _ _ _ hlit hx hp hwide hfree htx hrx => execPilotNarrow_of_low hlit hx hp hwide hfree htx hrx
  case widen => exact fun _ _ _ hlit hx hnarrowed => execPilotWiden_of_narrowed hlit hx hnarrowed

end Sys2Proof.Machine
end

section
/-! The commands of the Ethernet ports and of the helm bus (Table 13-8): what each comes to where the device reads it and its own checks
pass. -/

namespace Sys2Proof.Machine

variable {c : Cmd} {s t u : State} {l : Link}

/-! ### Ports and links (R348, R355, R359, R371) -/

theorem doCntNotify_of_vector (hvector : param c 0 2 < 2048 ∨ param c 0 2 = 0xFFFF) :
    doCntNotify c t =
      .done (ethMod (fun e => { e with cntVector := if param c 0 2 = 0xFFFF then none else some (param c 0 2) }) t) .ok 0 0 0 :=
  needParam_of_true (by simpa only [Bool.or_eq_true, decide_eq_true_eq, beq_iff_eq] using hvector)

/-- Table 13-8: the settings that `eth.port.set` takes. -/
structure PortSettings (c : Cmd) : Prop where
  port : param c 0 1 < 4
  mode : param c 1 1 ≤ 4
  medium : param c 2 1 ≤ 2
  prioDscp : param c 3 1 ≤ 1
  lpiEnable : param c 4 1 ≤ 1
  wakeMax : 2 ≤ param c 6 2 ∧ param c 6 2 ≤ 100
  macBase : param c 8 1 % 8 = 0

theorem doEthPortSet_of_unused (h : PortSettings c) (hunused : portInUse t (param c 0 1) = false) :
    doEthPortSet c t =
      .done (settleClock (2 + param c 0 1) (judgePaths (ethMod (fun e =>
        { e with ports := tabMod e.ports (param c 0 1) fun x =>
            { x with mode := param c 1 1, medium := param c 2 1, prioDscp := param c 3 1 == 1, lpiEnable := param c 4 1 == 1,
                     wakeMax := param c 6 2, macBase := BitVec.ofNat 48 (param c 8 6) } })
        ((List.range 8).foldl (fun u b => linkDown (8 * param c 0 1 + b) u) t)))) .ok 0 0 0 := by
  simp only [doEthPortSet, h.port, h.mode, h.medium, h.prioDscp, h.lpiEnable, h.wakeMax, h.macBase, hunused, and_self, decide_true,
    beq_self_eq_true, Bool.and_self, Bool.not_true, Bool.false_eq_true, if_false]
  rfl

theorem doEthPortQuery_of_link (hl : linkGet t (param c 0 1) = some l) :
    doEthPortQuery c t =
      .done t .ok (pack [(0, 1, flag l.up), (1, 1, flag l.txLpi), (2, 1, flag l.rxLpi), (3, 8, portMode t (param c 0 1 / 8))])
        (l.wakeNs.getD 0) l.changedAt := by
  simp only [doEthPortQuery, hl]

/-- R358, R359: the priorities that are no longer enabled resume and lift the pauses that they sent, and the thresholds are judged at once. -/
theorem doEthPfc_of_fits {lift : Nat} (hlink : configured t (param c 0 1) = true)
    (hfits : pfcFits (linkBuffer t (param c 0 1)) (param c 1 1) (param c 4 4) (param c 8 4) = true)
    (hlift : lift = prioMask (fun q =>
      !bit (param c 1 1) q && (match linkGet t (param c 0 1) with | some l => bit l.pausing.toNat q | none => false)))
    (hu : u = ((List.range 8).filter fun q => !bit (param c 1 1) q).foldl (fun v q => resumeTc (param c 0 1) q v) t) :
    doEthPfc c t =
      .done (judgePause (param c 0 1) (linkMod (param c 0 1) (fun l =>
        { l with pfcEnable := BitVec.ofNat 8 (param c 1 1), xoff := param c 4 4, headroom := param c 8 4,
                 pausing := l.pausing &&& BitVec.ofNat 8 (param c 1 1) })
        (sendPfc (param c 0 1) (if linkUp t (param c 0 1) then lift else 0) (fun _ => 0) u))) .ok 0 0 0 := by
  subst hu hlift
  exact needParam_of_true (by rw [hlink, hfits]; rfl)

theorem doEthMcast_of_list (hindirect : c.indirect = true) (hlink : configured t (param c 0 1) = true) (hcount : param c 1 1 ≤ 16) :
    doEthMcast c t = .done (linkMod (param c 0 1) (fun l => { l with mcast := macList c 8 (param c 1 1) }) t) .ok 0 0 0 :=
  needParam_of_true (by simp only [hindirect, hlink, hcount, decide_true, Bool.and_self])

/-! ### Frames (R360, R361) -/

theorem doEthFrames_of_remove (hbase : param c 0 8 = 0) :
    doEthFrames c t = .done (ethMod (fun e => { e with ring := none }) t) .ok 0 0 0 := if_pos hbase

/-- Table 13-8: the ring that `eth.frames` sets. -/
structure FrameRingSettings (c : Cmd) : Prop where
  some : param c 0 8 ≠ 0
  base : param c 0 8 % 4096 = 0
  header : param c 8 8 % 64 = 0
  buffers : param c 16 8 % 4096 = 0
  size : 4 ≤ param c 24 1 ∧ param c 24 1 ≤ 12
  flags : param c 25 1 ≤ 1
  vector : param c 26 2 < 2048

theorem doEthFrames_of_set (h : FrameRingSettings c) :
    doEthFrames c t =
      .done (ethMod (fun e =>
        { e with ring := some { base := BitVec.ofNat 64 (param c 0 8), header := BitVec.ofNat 64 (param c 8 8),
                                buf := BitVec.ofNat 64 (param c 16 8), log2 := param c 24 1, copyLldp := param c 25 1 == 1,
                                vector := param c 26 2, written := 0, head := 0, signalledAt := none, events := [] } }) t) .ok 0 0 0 := by
  rw [doEthFrames, if_neg h.some]
  refine needParam_of_true ?_
  simp only [h.base, h.header, h.buffers, h.size, h.flags, h.vector, and_self, decide_true, beq_self_eq_true, Bool.and_self]

/-- Table 13-8: the frame that `eth.frame.send` takes. -/
structure SendableFrame (c : Cmd) (t : State) : Prop where
  indirect : c.indirect = true
  link : configured t (param c 0 1) = true
  tc : param c 1 1 < 4
  length : 14 ≤ param c 2 2 ∧ param c 2 2 ≤ 9212
  notLldp : isLldp (paramBytes c 64 (param c 2 2)) = false

theorem doEthFrameSend_of_sendable (h : SendableFrame c t) :
    doEthFrameSend c t =
      if linkUp t (param c 0 1) then
        .later t (.frameSend (param c 0 1) (param c 1 1) t.dev.now (paramBytes c 64 (param c 2 2)))
      else cmdOk t := by
  refine needParam_of_true ?_
  simp only [h.indirect, h.link, h.tc, h.length, h.notLldp, and_self, decide_true, Bool.not_false, Bool.and_self]

/-- Settles O10: each command runs to its reply, which `eth.frame.send` owes until the frame has left, unless its link is down. -/
theorem ethernetCommandsComplete : Obligations.EthernetCommandsComplete := by
  unfold Obligations.EthernetCommandsComplete
  refine ⟨?notify, ?portSet, ?portQuery, ?pfc, ?framesRemove, ?framesSet, ?sendUp, ?sendDown, ?multicast⟩
  case notify => exact fun _ _ _ h hvector => congrArg Host.Outcome.next (runCmd_eq_okReply h (doCntNotify_of_vector hvector))
  case portSet =>
    exact fun _ _ _ h hport hmode hmedium hprio hlpi hwake hmac hunused => congrArg Host.Outcome.next
      (runCmd_eq_okReply h (doEthPortSet_of_unused ⟨hport, hmode, hmedium, hprio, hlpi, hwake, hmac⟩ hunused))
  case portQuery => exact fun _ _ _ _ h hl => congrArg Host.Outcome.next (runCmd_eq_okReply h (doEthPortQuery_of_link hl))
  case pfc =>
    exact fun _ _ _ _ _ h hlink hfits hlift hu => congrArg Host.Outcome.next
      (runCmd_eq_okReply h (doEthPfc_of_fits hlink hfits hlift hu))
  case framesRemove => exact fun _ _ _ h hbase => congrArg Host.Outcome.next (runCmd_eq_okReply h (doEthFrames_of_remove hbase))
  case framesSet =>
    exact fun _ _ _ h hsome hbase hheader hbuffers hsize hflags hvector => congrArg Host.Outcome.next
      (runCmd_eq_okReply h (doEthFrames_of_set ⟨hsome, hbase, hheader, hbuffers, hsize, hflags, hvector⟩))
  case sendUp =>
    exact fun _ _ _ h hindirect hlink htc hlength hnot hup => congrArg Host.Outcome.next
      (runCmd_eq_laterReply h ((doEthFrameSend_of_sendable ⟨hindirect, hlink, htc, hlength, hnot⟩).trans (if_pos hup)))
  case sendDown =>
    exact fun _ _ _ h hindirect hlink htc hlength hnot hdown => congrArg Host.Outcome.next
      (runCmd_eq_okReply h
        ((doEthFrameSend_of_sendable ⟨hindirect, hlink, htc, hlength, hnot⟩).trans (if_neg (Bool.eq_false_iff.mp hdown))))
  case multicast =>
    exact fun _ _ _ h hindirect hlink hcount => congrArg Host.Outcome.next (runCmd_eq_okReply h (doEthMcast_of_list hindirect hlink hcount))

/-! ### The helm bus (R369) -/

theorem doHelmSet_of_count (hcount : param c 0 1 ≤ 4) :
    doHelmSet c t = .done (helmMod (fun h => { h with allow := macList c 8 (param c 0 1) }) t) .ok 0 0 0 :=
  needParam_of_true (decide_eq_true hcount)

/-- Settles O11: each command runs to its reply (log entry 57 for the carrier, a free value). -/
theorem helmCommandsComplete : Obligations.HelmCommandsComplete := by
  unfold Obligations.HelmCommandsComplete
  refine ⟨?set, ?query⟩
  case set => exact fun _ _ _ h hcount => congrArg Host.Outcome.next (runCmd_eq_okReply h (doHelmSet_of_count hcount))
  case query => exact fun _ _ _ h => congrArg Host.Outcome.next (runCmd_eq_okReply h rfl)

end Sys2Proof.Machine
end

section
/-! The events of the Ethernet links and of the helm bus (chapter 13): what each does where its conditions hold. -/

namespace Sys2Proof.Machine

variable {s u : State} {link : Nat} {l : Link}

/-! ### Frames and pauses (R355, R358) -/

theorem execEthFrameRx_of_up (f : EthFrame) (head : Option W32) (hlit : lit s = true) (hup : linkUp s link = true) :
    execEthFrameRx link f head s = .next (takeFrame link f (match head with | some h => readFrHead h s | none => s)) :=
  (whileLit_of_lit hlit).trans (if_pos hup)

theorem execPfcFrameRx_of_up (enable : W8) (times : List W16) (hlit : lit s = true) (hup : linkUp s link = true) :
    execPfcFrameRx link enable times s = .next (takePfc link enable times (countRx link 64 1 false true s)) :=
  (whileLit_of_lit hlit).trans (if_pos hup)

/-- R358: after half the pause time the pauses still needed are sent again and the others are lifted. -/
theorem execPfcRefresh_of_pausing {held : Nat} {x : Link} (hlit : lit s = true) (hl : linkGet s link = some l) (hup : l.up = true)
    (hpausing : l.pausing ≠ 0)
    (hu : u = drainLink link
      (advanceTo (l.pauseSentAt + ceilDiv (65535 * 512) (2 * max 1 (linkRate (portMode s (link / 8))))) s))
    (hx : linkGet u link = some x)
    (hheld : held = prioMask (fun q =>
      bit x.pausing.toNat q && decide (x.xoff ≤ 2 * pauseCount (linkBuffer u link) q (x.occupancy.getD q 0)))) :
    execPfcRefresh link s =
      .next (linkMod link (fun y => { y with pausing := BitVec.ofNat 8 held, pauseSentAt := u.dev.now })
        (sendPfc link x.pausing.toNat (fun q => if bit held q then 0xFFFF else 0) u)) := by
  subst hheld hu
  rw [execPfcRefresh, whileLit_of_lit hlit]
  simp only [hl, hup, hpausing, hx, Bool.true_eq_false, or_self, if_false]

theorem execPfcPauseExpire_of_paused {tc : Nat} {t : Nat × Nat} (hlit : lit s = true) (hl : linkGet s link = some l)
    (ht : tabGet l.pausedUntil tc = some t) : execPfcPauseExpire link tc s = .next (resumeTc link tc (advanceTo t.2 s)) := by
  rw [execPfcPauseExpire, whileLit_of_lit hlit]
  simp only [hl, Option.bind_some, ht]

/-! ### Links (R352, R363, R364) -/

theorem execEthLinkUp_of_usable (hlife : lit s = true ∨ s.dev.life = .restarting) (hlink : configured s link = true)
    (hdown : linkUp s link = false) (hlanes : lanesUsable s link = true) :
    execEthLinkUp link s =
      .next (settleClock (2 + link / 8) (judgePaths (postLinkEvent link 1 (BitVec.ofNat 32 (portMode s (link / 8)))
        (linkMod link (fun l => { l with up := true, changedAt := s.dev.now, idleSince := s.dev.now, txLpi := false, rxLpi := false }) s)))) :=
  if_pos ⟨hlife, hlink, hdown, hlanes⟩

theorem execLldpSend_of_running (hlit : lit s = true) (hrunning : s.dev.life = .running)
    (hu : u = advanceTo (nextMultiple s.dev.ticks.lldp 30000000000)
      { s with dev := { s.dev with ticks := { s.dev.ticks with lldp := nextMultiple s.dev.ticks.lldp 30000000000 } } }) :
    execLldpSend s =
      .next ((u.eth.links.filter fun l => l.2.up).foldl (fun v l => countTx l.1 64 1 (emit (.lldp l.1) (wakeLink l.1 v))) u) := by
  subst hu
  rw [execLldpSend, whileLit_of_lit hlit]
  exact if_neg (not_not.mpr hrunning)

/-- R364: an idle link whose partner wakes in time, and which no admitted flow uses, enters low power. -/
theorem execLpiEntry_of_idle {t w : Nat} {p : EthPort} (hlit : lit s = true) (hl : linkGet s link = some l)
    (hp : tabGet s.eth.ports (link / 8) = some p) (ht : lpiAfter s = some t) (hw : l.wakeNs = some w)
    (hidle : l.up = true ∧ l.txLpi = false ∧ p.lpiEnable = true ∧ w ≤ 1000 * p.wakeMax ∧ linkAdmitted s link = false ∧
      (pendingFrame s link).isNone = true) :
    execLpiEntry link s =
      .next (settleClock (2 + link / 8)
        (linkMod link (fun y => { y with txLpi := true, txLpiAt := (advanceTo (l.idleSince + t) s).dev.now })
          (countLink link 56 1 (advanceTo (l.idleSince + t) s)))) := by
  rw [execLpiEntry, whileLit_of_lit hlit]
  simp only [hl, hp, ht, hw]
  exact if_pos hidle

/-! ### The helm bus (R367, R369) -/

/-- A frame of 64 to 1,518 bytes that the device takes waits while the device holds frames (log entries 57 and 112), and runs otherwise. -/
theorem execHelmCommand_of_taken {f : HelmFrame} (hlife : (lit s || s.dev.life == .romRecovery || helmHolds s) = true)
    (hlow : 64 ≤ f.length) (hhigh : f.length ≤ 1518) (hkind : f.kind = 1) (htakes : helmTakes f (countHelmRx f.length s) = true) :
    execHelmCommand f s =
      if helmHolds (countHelmRx f.length s) then
        .next (helmMod (fun h => { h with waiting := h.waiting ++ [f] }) (countHelmRx f.length s))
      else .next (runHelm f (countHelmRx f.length s)) := by
  simp only [execHelmCommand, hlife, hkind, htakes, Nat.not_lt.mpr hlow, Nat.not_lt.mpr hhigh, Bool.not_true, Bool.false_eq_true, ne_eq,
    not_true_eq_false, if_false]

/-- R367: a transmission that is under way backs off. -/
theorem execHelmBackoffExpiry_of_sending {collided late : Bool} {n : Nat} (hlife : (lit s || s.dev.life == .romRecovery) = true)
    (hsends : (s.out.any fun o => (helmFrameOf o).isSome) = true) (hn : n = max 1 s.helm.attempts)
    (hu : u = advanceTo (s.dev.now + 51200 * ((Config.freeWord s.dev.fresh).toNat % 2 ^ (min n 10))) (takeFresh s)) :
    execHelmBackoffExpiry collided late s =
      if late then .next (discardHelm 50 u)
      else if collided then
        if 16 ≤ n + 1 then .next (discardHelm 51 u) else .next (helmMod (fun h => { h with attempts := n + 1 }) u)
      else .next (countHelm (if n = 1 then 48 else 49) 1 (helmMod (fun h => { h with attempts := 0 }) u)) := by
  subst hu hn
  rw [execHelmBackoffExpiry, if_neg]
  rw [hlife, hsends]
  exact Bool.false_ne_true

/-- Settles O29: each event acts as a lemma above says (log entries 57 and 112 for the helm frames that wait, log entry 69 for the 64 bytes of
an LLDP frame). -/
theorem ethernetEventsComplete : Obligations.EthernetEventsComplete := by
  unfold Obligations.EthernetEventsComplete
  refine ⟨?frame, ?frameHead, ?pfcFrame, ?refresh, ?expire, ?down, ?up, ?deferredWrite, ?lldp, ?lpiEntry, ?lpiWake, ?helmRuns, ?helmWaits,
    ?late, ?collision, ?sent⟩
  case frame => exact fun _ f _ hlit hup => execEthFrameRx_of_up f none hlit hup
  case frameHead => exact fun _ f head _ hlit hup => execEthFrameRx_of_up f (some head) hlit hup
  case pfcFrame => exact fun _ enable times _ hlit hup => execPfcFrameRx_of_up enable times hlit hup
  case refresh =>
    exact fun _ _ _ _ _ _ hlit hl hup hpausing hu hx hheld => execPfcRefresh_of_pausing hlit hl hup hpausing hu hx hheld
  case expire => exact fun _ _ _ _ _ hlit hl ht => execPfcPauseExpire_of_paused hlit hl ht
  case down => exact fun _ _ hlit => whileLit_of_lit hlit
  case up => exact fun _ _ hlife hlink hdown hlanes => execEthLinkUp_of_usable hlife hlink hdown hlanes
  case deferredWrite => exact fun _ _ hlit => whileLit_of_lit hlit
  case lldp =>
    rintro _ _ s hlit hrunning rfl hu
    exact execLldpSend_of_running hlit hrunning hu
  case lpiEntry => exact fun _ _ _ _ _ _ hlit hl hp ht hw hidle => execLpiEntry_of_idle hlit hl hp ht hw hidle
  case lpiWake => exact fun _ _ hlit => whileLit_of_lit hlit
  case helmRuns =>
    exact fun _ _ hlife hlow hhigh hkind htakes hruns =>
      (execHelmCommand_of_taken hlife hlow hhigh hkind htakes).trans (if_neg (Bool.eq_false_iff.mp hruns))
  case helmWaits =>
    exact fun _ _ hlife hlow hhigh hkind htakes hholds =>
      (execHelmCommand_of_taken hlife hlow hhigh hkind htakes).trans (if_pos hholds)
  case late => exact fun _ _ _ _ hlife hsends hn hu => execHelmBackoffExpiry_of_sending hlife hsends hn hu
  case collision =>
    exact fun _ _ _ hlife hsends hn hu =>
      (execHelmBackoffExpiry_of_sending hlife hsends hn hu).trans (apply_ite Host.Outcome.next _ _ _).symm
  case sent => exact fun _ _ _ hlife hsends hn hu => execHelmBackoffExpiry_of_sending hlife hsends hn hu

end Sys2Proof.Machine
end

section
/-! The commands of the security module (Table 14-5): what each comes to where the device reads it and its own checks pass, and the
end of a commit, a self-test and an erasure. -/

namespace Sys2Proof.Machine

variable {sp : CmdSpec} {own : Cmd → State → CmdOut} {c : Cmd} {s t u v : State} {r0 r1 r2 : Nat}

/-! ### The error state, and verdicts (R42, R400) -/

theorem needBoundary_of_ok {k : CmdOut} (hok : t.sec.errorState = false) : needBoundary t k = k := if_neg (Bool.eq_false_iff.mp hok)

theorem ite_bnot {α : Type} (b : Bool) (x y : α) : (if (!b) = true then x else y) = if b = true then y else x := by
  cases b with
  | true => rfl
  | false => rfl

/-- A command whose own part ends with OK or with one failing status, by a verdict that is not the device's to know. -/
theorem runCmd_of_verdict {p : Prop} [Decidable p] {e : Status} (h : accepts sp c s t)
    (hown : own c t = if p then .done u .ok r0 r1 r2 else cmdFail v e) :
    runCmd sp own c s = if p then okReply sp c r0 r1 r2 u else replyNow sp.opcode c e true 0 0 0 v := by
  rw [runCmd_of_accepts h, hown]
  split
  · rfl
  · rfl

/-! ### Identity, attestation and accords (R379, R380, R395, R396) -/

theorem doSecIdentity_of_place (hplace : isHelm c = true ∨ 3200 ≤ param c 8 4) :
    doSecIdentity c t = .done (writeResult c (param c 0 8) 25600 identityBits t) .ok 3200 0 0 :=
  needParam_of_true (by simpa only [Bool.or_eq_true, decide_eq_true_eq] using hplace)

theorem doSecAttest_of_place (hok : t.sec.errorState = false) (hplace : 1536 ≤ param c 8 4) :
    doSecAttest c t =
      .done (writeResult c (param c 0 8) 12288
        (pack [(0, 2048, reportBits (param c 16 16) t),
               (2048, 10240, (Config.sign (drbgDraw t).1 (leBytes 256 (reportBits (param c 16 16) t))).toNat)])
        (drbgDraw t).2) .ok 1536 0 0 :=
  (needBoundary_of_ok hok).trans (needParam_of_true (decide_eq_true hplace))

/-- R380: a pair that fails its pairwise test is no offer, and the module enters the error state. -/
theorem doSecKemOffer_of_room {q : Nat × State} {blob : Nat} (hok : t.sec.errorState = false) (hplace : 6112 ≤ param c 8 4)
    (hroom : openOffers t < 16) (hq : q = drbgDraw (drbgDraw t).2)
    (hblob : blob = blobBits q.1 t.sec.nextOffer t.dev.now 0 (Config.kemKey (drbgDraw t).1)) :
    doSecKemOffer c t =
      if Config.kemPairOk (drbgDraw t).1 then
        .done (writeResult c (param c 0 8) 48896 blob (secMod (fun x =>
          { x with offers := tabSet x.offers t.sec.nextOffer
                     { openedAt := t.dev.now, draw := (drbgDraw t).1, digest := blobDigest (leBytes 6112 blob) },
                   nextOffer := t.sec.nextOffer + 1 }) q.2)) .ok t.sec.nextOffer 0 0
      else cmdFail (enterError (2 ^ testPairwise) (drbgDraw t).2) .cryptoSelftest := by
  rw [hblob, hq, doSecKemOffer, needBoundary_of_ok hok, needParam_of_true (decide_eq_true hplace), if_neg (Nat.not_le.mpr hroom)]
  exact ite_bnot _ _ _

theorem doSecKemAccept_of_room {blob : List Byte} {r q a : Nat × State} (hok : t.sec.errorState = false) (hindirect : c.indirect = true)
    (hlength : 6128 ≤ c.length.toNat) (hplace : 6112 ≤ param c 8 4) (hblob : blob = paramBytes c 16 6112)
    (hroom : t.sec.accords.length < 4096) (hr : r = drbgDraw t) (hq : q = drbgDraw r.2)
    (ha : a = newAccord (namedOf c) (blobSerial blob) (Config.kemSecret (blobKem blob) r.1) q.2) :
    doSecKemAccept c t =
      if blobOk blob then
        .done (writeResult c (param c 0 8) 48896
          (blobBits q.1 (ofLe (slice blob 3200 8)) t.dev.now (blobDigest blob).toNat (Config.kemCipher (blobKem blob) r.1)) a.2)
          .ok a.1 (blobSerial blob).toNat 0
      else cmdFail t .authFail := by
  rw [ha, hq, hr, hblob]
  have hparam : (c.indirect && decide (6128 ≤ c.length.toNat) && decide (6112 ≤ param c 8 4)) = true := by
    simp only [hindirect, hlength, hplace, decide_true, Bool.and_self]
  rw [doSecKemAccept]
  dsimp only
  rw [needBoundary_of_ok hok, needParam_of_true hparam, if_neg (Nat.not_le.mpr hroom)]
  exact ite_bnot _ _ _

/-- R380: the reply answers an offer that is open, and whose digest it carries. -/
theorem doSecKemFinish_of_offer {blob : List Byte} {o : Offer} {a : Nat × State} (hok : t.sec.errorState = false)
    (hindirect : c.indirect = true) (hlength : 6128 ≤ c.length.toNat) (hblob : blob = paramBytes c 16 6112)
    (ho : tabGet t.sec.offers (param c 0 8) = some o) (hopen : t.dev.now < o.openedAt + 60000000000)
    (hroom : t.sec.accords.length < 4096)
    (ha : a = newAccord (namedOf c) (blobSerial blob) (Config.kemOpen o.draw (blobKem blob))
      (secMod (fun x => { x with offers := tabErase x.offers (param c 0 8) }) t)) :
    doSecKemFinish c t =
      if blobOk blob = true ∧ ofLe (slice blob 3216 32) = o.digest.toNat then .done a.2 .ok a.1 (blobSerial blob).toNat 0
      else cmdFail t .authFail := by
  rw [ha, hblob]
  have hparam : (c.indirect && decide (6128 ≤ c.length.toNat)) = true := by
    simp only [hindirect, hlength, decide_true, Bool.and_self]
  have hoffer : ((tabGet t.sec.offers (param c 0 8)).filter fun o => decide (t.dev.now < o.openedAt + 60000000000)) = some o := by
    rw [ho, Option.filter_some, if_pos (decide_eq_true hopen)]
  rw [doSecKemFinish]
  dsimp only
  rw [needBoundary_of_ok hok, needParam_of_true hparam, hoffer]
  dsimp only
  rw [if_neg (Nat.not_le.mpr hroom)]
  by_cases hvalid : blobOk (paramBytes c 16 6112) = true ∧ ofLe (slice (paramBytes c 16 6112) 3216 32) = o.digest.toNat
  · rw [if_pos hvalid, if_neg]
    simp only [hvalid.1, hvalid.2, bne_self_eq_false, Bool.not_true, Bool.or_self, Bool.false_eq_true, not_false_eq_true]
  · rw [if_neg hvalid, if_pos]
    simpa only [Bool.or_eq_true, Bool.not_eq_true', bne_iff_ne, ne_eq, not_and_or, Bool.not_eq_true] using hvalid

theorem doSecAccordDrop_of_unused (hok : t.sec.errorState = false) (howner : ownAccord t (namedOf c) (param c 0 2) = true)
    (hunused : accordInUse t (param c 0 2) = false) :
    doSecAccordDrop c t = .done (secMod (fun x => { x with accords := tabErase x.accords (param c 0 2) }) t) .ok 0 0 0 :=
  (needBoundary_of_ok hok).trans ((needParam_of_true howner).trans (if_neg (Bool.eq_false_iff.mp hunused)))

/-! ### The officer (R375) -/

theorem doSecOfficer_of_first (hok : t.sec.errorState = false) (hindirect : c.indirect = true) (hlength : 1793 ≤ c.length.toNat)
    (hnone : t.sec.officer = none) :
    doSecOfficer c t = .done (secMod (fun x => { x with officer := some (paramBytes c 0 1793) }) t) .ok 0 0 0 := by
  rw [doSecOfficer, needBoundary_of_ok hok, needParam_of_true, hnone]
  · rfl
  · rw [hindirect, decide_eq_true hlength]
    rfl

theorem doSecLogin_of_challenge {r q : Nat × State} (hok : t.sec.errorState = false) (hstep : param c 0 1 = 0) (hr : r = drbgDraw t)
    (hq : q = drbgDraw r.2) :
    doSecLogin c t =
      .done (secMod (fun x => { x with challenge := some (Config.freeWord r.1, Config.freeWord q.1) }) q.2) .ok
        (Config.freeWord r.1).toNat (Config.freeWord q.1).toNat 0 := by
  rw [hq, hr, doSecLogin, needBoundary_of_ok hok, hstep]
  rfl

theorem doSecLogin_of_answer {key : List Byte} {a b : W64} (hok : t.sec.errorState = false) (hstep : param c 0 1 = 1)
    (hindirect : c.indirect = true) (hlength : 1296 ≤ c.length.toNat) (hkey : t.sec.officer = some key)
    (hchallenge : t.sec.challenge = some (a, b)) :
    doSecLogin c t =
      if Config.falconOk key (loginMessage a b) (paramBytes c 16 1280) then
        .done (secMod (fun x => { x with sessionAt := some t.dev.now, challenge := none }) t) .ok 0 0 0
      else cmdFail t .authFail := by
  rw [doSecLogin, needBoundary_of_ok hok, hstep]
  dsimp only
  rw [needParam_of_true, hkey, hchallenge]
  · rfl
  · rw [hindirect, decide_eq_true hlength]
    rfl

/-- Settles O15: each command runs to its reply; where a signature or a key pair decides, both verdicts are in `runCmd_of_verdict` (log entry
46 for the bit of the failing test). -/
theorem securityCommandsComplete : Obligations.SecurityCommandsComplete := by
  unfold Obligations.SecurityCommandsComplete
  refine ⟨?identity, ?attest, ?offer, ?accept, ?finish, ?drop, ?officer, ?challenge, ?answer⟩
  case identity => exact fun _ _ _ h hplace => congrArg Host.Outcome.next (runCmd_eq_okReply h (doSecIdentity_of_place hplace))
  case attest => exact fun _ _ _ h hok hplace => congrArg Host.Outcome.next (runCmd_eq_okReply h (doSecAttest_of_place hok hplace))
  case offer =>
    exact fun _ _ _ _ _ h hok hplace hroom hq hblob => congrArg Host.Outcome.next
      (runCmd_of_verdict h (doSecKemOffer_of_room hok hplace hroom hq hblob))
  case accept =>
    exact fun _ _ _ _ _ _ _ h hok hindirect hlength hplace hblob hroom hr hq ha => congrArg Host.Outcome.next
      (runCmd_of_verdict h (doSecKemAccept_of_room hok hindirect hlength hplace hblob hroom hr hq ha))
  case finish =>
    exact fun _ _ _ _ _ _ h hok hindirect hlength hblob ho hopen hroom ha => congrArg Host.Outcome.next
      (runCmd_of_verdict h (doSecKemFinish_of_offer hok hindirect hlength hblob ho hopen hroom ha))
  case drop =>
    exact fun _ _ _ h hok howner hunused => congrArg Host.Outcome.next (runCmd_eq_okReply h (doSecAccordDrop_of_unused hok howner hunused))
  case officer =>
    exact fun _ _ _ h hok hindirect hlength hnone => congrArg Host.Outcome.next
      (runCmd_eq_okReply h (doSecOfficer_of_first hok hindirect hlength hnone))
  case challenge =>
    exact fun _ _ _ _ _ h hok hstep hr hq => congrArg Host.Outcome.next (runCmd_eq_okReply h (doSecLogin_of_challenge hok hstep hr hq))
  case answer =>
    exact fun _ _ _ _ _ _ h hok hstep hindirect hlength hkey hchallenge => congrArg Host.Outcome.next
      (runCmd_of_verdict h (doSecLogin_of_answer hok hstep hindirect hlength hkey hchallenge))

/-! ### Sealing (R382, R383, R403) -/

variable {q : Qp} {z : QpSeal}

theorem doSecQpSeal_of_created (hok : t.sec.errorState = false) (hq : usableQp t (namedOf c) (param c 0 4) = some q)
    (howner : ownAccord t (namedOf c) (param c 4 2) = true) (hmode : q.conf.mode ≠ .roce) (hhigh : param c 6 1 ≤ 20)
    (hlow : q.conf.mtuLog2 ≤ param c 6 1) (hcreated : q.phase = .created) (hopen : q.sealing = none) :
    doSecQpSeal c t =
      .done (qpMod (param c 0 4) (fun x =>
        { x with sealing := some { accord := param c 4 2, unitLog2 := param c 6 1, phase := false, cur := newKey (BitVec.ofNat 32 (param c 8 4)),
                                   old := none, pendingSend := none, recvPhase := false, recvLabel := BitVec.ofNat 32 (param c 8 4),
                                   recvNext := none, acc := [], failedUnits := 0 } }) t) .ok 0 0 0 := by
  rw [doSecQpSeal]
  dsimp only
  rw [needBoundary_of_ok hok]
  simp only [hq, howner, hmode, hcreated, hopen, Nat.not_lt.mpr hhigh, Nat.not_lt.mpr hlow, Option.isSome_none, Bool.not_true,
    Bool.false_eq_true, ne_eq, not_true_eq_false, or_self, if_false]
  rfl

theorem doSecQpRekey_of_ready (hok : t.sec.errorState = false) (hq : usableQp t (namedOf c) (param c 0 4) = some q)
    (hz : q.sealing = some z) (hstep : param c 4 1 = 0) (hclosed : rekeyOpen z = false) :
    doSecQpRekey c t =
      .done (qpMod (param c 0 4) (fun x =>
        { x with sealing := some { z with recvNext := some (BitVec.ofNat 32 (param c 8 4)),
                                          pendingSend := some (BitVec.ofNat 32 (param c 8 4)) } }) t) .ok 0 0 0 := by
  rw [doSecQpRekey]
  dsimp only
  rw [needBoundary_of_ok hok]
  simp only [hq, Option.bind_some, hz, hstep, hclosed, Bool.false_eq_true, if_false]
  rfl

theorem doSecQpRekey_of_switch {l : W32} (hok : t.sec.errorState = false) (hq : usableQp t (namedOf c) (param c 0 4) = some q)
    (hz : q.sealing = some z) (hstep : param c 4 1 = 1) (hnext : z.pendingSend = some l) :
    doSecQpRekey c t =
      .done (qpMod (param c 0 4) (fun x =>
        { x with sealing := some { z with phase := !z.phase, cur := newKey l, old := some z.cur, pendingSend := none } }) t) .ok 0 0 0 := by
  rw [doSecQpRekey]
  dsimp only
  rw [needBoundary_of_ok hok]
  simp only [hq, Option.bind_some, hz, hstep, hnext]
  rfl

theorem doSecQpQuery_of_sealed (hok : t.sec.errorState = false) (hq : usableQp t (namedOf c) (param c 0 4) = some q)
    (hz : q.sealing = some z) :
    doSecQpQuery c t =
      .done t .ok z.cur.units z.cur.bytes (pack [(0, 1, flag z.phase), (1, 1, flag (rekeyOpen z)), (32, 32, z.failedUnits)]) := by
  rw [doSecQpQuery, needBoundary_of_ok hok]
  simp only [hq, Option.bind_some, hz]

/-! ### Firmware images (R397 to R399) -/

theorem doSecFwBegin_of_size (hok : t.sec.errorState = false) (hsize : 4096 ≤ param c 0 4 ∧ param c 0 4 ≤ 16777216) :
    doSecFwBegin c t = .done (secMod (fun x => { x with staging := some (param c 0 4, []) }) t) .ok 0 0 0 :=
  (needBoundary_of_ok hok).trans (needParam_of_true (decide_eq_true hsize))

theorem doSecFwChunk_of_next {size : Nat} {got : List Byte} (hok : t.sec.errorState = false) (hstaging : t.sec.staging = some (size, got))
    (hlow : 1 ≤ param c 4 2) (hhigh : param c 4 2 ≤ (if c.indirect then 65472 else 32)) (hnext : param c 0 4 = got.length)
    (hfits : got.length + param c 4 2 ≤ size) :
    doSecFwChunk c t =
      .done (secMod (fun x => { x with staging := some (size, got ++ paramBytes c 8 (param c 4 2)) }) t) .ok 0 0 0 := by
  rw [doSecFwChunk, needBoundary_of_ok hok, hstaging]
  refine needParam_of_true ?_
  simp only [hlow, hhigh, hnext, hfits, and_self, decide_true, beq_self_eq_true, Bool.and_self]

theorem doSecFwCommit_of_staged (hok : t.sec.errorState = false) (hstaging : t.sec.staging.isSome = true)
    (hfree : (t.commands.any fun p => p.what == .fwCommit) = false) : doSecFwCommit c t = .deferred t .fwCommit := by
  have hsome : ¬ t.sec.staging.isNone = true := by rw [← Option.not_isSome, hstaging]; exact Bool.false_ne_true
  exact (needBoundary_of_ok hok).trans ((if_neg hsome).trans (if_neg (Bool.eq_false_iff.mp hfree)))

theorem stagedImage_of_staging {size : Nat} {got : List Byte} (hstaging : s.sec.staging = some (size, got)) :
    stagedImage s =
      if got.length = size ∧ Config.imageOk got = true ∧ s.sec.minVersion.toNat ≤ (Config.imageVersion got).toNat then some got else none := by
  rw [stagedImage, hstaging]

/-- An image that is whole, verifies and is not older than the lowest version allowed is stored; another stays staged (R399, log entry 71). -/
theorem execSecFwCommitDone_of_staged {size : Nat} {got : List Byte} (hlife : lit s = true ∨ s.dev.life = .romRecovery)
    (hcommit : (s.commands.any fun p => p.what == .fwCommit) = true) (hstaging : s.sec.staging = some (size, got)) :
    execSecFwCommitDone s =
      .next (if got.length = size ∧ Config.imageOk got = true ∧ s.sec.minVersion.toNat ≤ (Config.imageVersion got).toNat then
          finishOn .fwCommit .ok (Config.imageVersion got).toNat 0 0
            (secMod (fun x => { x with stored := some got, storeTorn := false, staging := none }) s)
        else finishOn .fwCommit .authFail 0 0 0 s) := by
  have hruns : (lit s || s.dev.life == .romRecovery) = true := by simpa only [Bool.or_eq_true, beq_iff_eq] using hlife
  have hdue : ¬ (!(lit s || s.dev.life == .romRecovery) || !(s.commands.any fun p => p.what == .fwCommit)) = true := by
    rw [hruns, hcommit]
    exact Bool.false_ne_true
  rw [execSecFwCommitDone, if_neg hdue]
  dsimp only
  rw [stagedImage_of_staging hstaging]
  by_cases hvalid : got.length = size ∧ Config.imageOk got = true ∧ s.sec.minVersion.toNat ≤ (Config.imageVersion got).toNat
  · rw [if_pos hvalid, if_pos hvalid]
    rfl
  · rw [if_neg hvalid, if_neg hvalid]
    rfl

/-! ### Self-test and zeroizing (R400 to R402) -/

theorem execSecSelftestDone_of_waiting {failing : W64} (hlit : lit s = true)
    (hwaits : (s.commands.any fun p => p.what == .selftest) = true) :
    execSecSelftestDone failing s =
      .next (finishOn .selftest (if failing = 0 then .ok else .cryptoSelftest) failing.toNat 0 0
        (if failing = 0 then secMod (fun x => { x with errorState := false, failing := 0 }) s else enterError failing.toNat s)) := by
  rw [execSecSelftestDone, whileLit_of_lit hlit, if_neg]
  · rfl
  · rw [hwaits]
    exact Bool.false_ne_true

theorem execSecZeroizeDone_of_waiting (hlit : lit s = true) (hwaits : (s.commands.any fun p => p.what == .zeroize) = true) :
    execSecZeroizeDone s =
      .next (finishOn .zeroize .ok 0 0 0 (secMod (fun x =>
        { x with accords := [], offers := [], officer := none, sessionAt := none, challenge := none, seed := 0, staging := none })
        (((s.qps.filter fun p => p.2.sealing.isSome).map Prod.fst).foldl unsealQp s))) := by
  rw [execSecZeroizeDone, whileLit_of_lit hlit, if_neg]
  · rfl
  · rw [hwaits]
    exact Bool.false_ne_true

/-- Settles O16: each command runs to its reply, which `sec.fw.commit`, `sec.selftest` and `sec.zeroize` owe until their `DONE` event (log entry
71 for what a commit that fails keeps). -/
theorem sealingAndFirmwareCommandsComplete : Obligations.SealingAndFirmwareCommandsComplete := by
  unfold Obligations.SealingAndFirmwareCommandsComplete
  refine ⟨?sealing, ?rekeyReady, ?rekeySwitch, ?query, ?begin, ?chunk, ?commit, ?commitDone, ?selftest, ?selftestDone, ?zeroize, ?zeroizeDone⟩
  case sealing =>
    exact fun _ _ _ _ h hok hq howner hmode hhigh hlow hcreated hopen => congrArg Host.Outcome.next
      (runCmd_eq_okReply h (doSecQpSeal_of_created hok hq howner hmode hhigh hlow hcreated hopen))
  case rekeyReady =>
    exact fun _ _ _ _ _ h hok hq hz hstep hclosed => congrArg Host.Outcome.next
      (runCmd_eq_okReply h (doSecQpRekey_of_ready hok hq hz hstep hclosed))
  case rekeySwitch =>
    exact fun _ _ _ _ _ _ h hok hq hz hstep hnext => congrArg Host.Outcome.next
      (runCmd_eq_okReply h (doSecQpRekey_of_switch hok hq hz hstep hnext))
  case query =>
    exact fun _ _ _ _ _ h hok hq hz => congrArg Host.Outcome.next (runCmd_eq_okReply h (doSecQpQuery_of_sealed hok hq hz))
  case begin => exact fun _ _ _ h hok hsize => congrArg Host.Outcome.next (runCmd_eq_okReply h (doSecFwBegin_of_size hok hsize))
  case chunk =>
    exact fun _ _ _ _ _ h hok hstaging hlow hhigh hnext hfits => congrArg Host.Outcome.next
      (runCmd_eq_okReply h (doSecFwChunk_of_next hok hstaging hlow hhigh hnext hfits))
  case commit =>
    exact fun _ _ _ h hok hstaging hfree => congrArg Host.Outcome.next
      (runCmd_eq_acceptedReply h (doSecFwCommit_of_staged hok hstaging hfree))
  case commitDone => exact fun _ _ _ hlife hcommit hstaging => execSecFwCommitDone_of_staged hlife hcommit hstaging
  case selftest => exact fun _ _ _ h => congrArg Host.Outcome.next (runCmd_eq_acceptedReply h rfl)
  case selftestDone => exact fun _ _ hlit hwaits => execSecSelftestDone_of_waiting hlit hwaits
  case zeroize => exact fun _ _ _ h => congrArg Host.Outcome.next (runCmd_eq_acceptedReply h rfl)
  case zeroizeDone => exact fun _ hlit hwaits => execSecZeroizeDone_of_waiting hlit hwaits

end Sys2Proof.Machine
end

section
/-! The events of the security module (chapter 14): what each does where its conditions hold. -/

namespace Sys2Proof.Machine

variable {s u v : State} {q : Qp} {x : RxUnit} {qp unit : Nat} {own : Bool} {msg : W32}

/-! ### The generator and the lanes (R376, R377, R400) -/

theorem execMaskReseed_of_ok {lane : Nat} (hlit : lit s = true) (hok : s.sec.errorState = false) :
    execMaskReseed lane s =
      .next (secMod (fun x => { x with lanes := tabMod x.lanes lane fun y => { y with maskAt := s.dev.now } }) (drbgDraw s).2) := by
  rw [execMaskReseed, whileLit_of_lit hlit, if_neg (Bool.eq_false_iff.mp hok)]

theorem execLaneKat_of_lane {lane : Nat} {passed : Bool} {l : Lane} (hlit : lit s = true) (hl : tabGet s.sec.lanes lane = some l)
    (hu : u = secMod (fun x =>
      { x with lanes := tabMod x.lanes lane fun y => { y with katAt := (advanceTo (l.katAt + 100000000) s).dev.now } })
      (advanceTo (l.katAt + 100000000) s)) :
    execLaneKat lane passed s = .next (if passed then u else enterError (2 ^ testGcm) u) := by
  subst hu
  rw [execLaneKat, whileLit_of_lit hlit]
  simp only [hl]
  exact (apply_ite Host.Outcome.next _ _ _).symm

theorem execPeriodicSelftest_of_lit {failing : W64} (hlit : lit s = true)
    (hu : u = advanceTo (nextMultiple s.dev.ticks.selftest 86400000000000)
      { s with dev := { s.dev with ticks := { s.dev.ticks with selftest := nextMultiple s.dev.ticks.selftest 86400000000000 } } }) :
    execPeriodicSelftest failing s = .next (if failing = 0 then u else enterError failing.toNat u) := by
  subst hu
  rw [execPeriodicSelftest, whileLit_of_lit hlit]
  exact (apply_ite Host.Outcome.next _ _ _).symm

/-! ### Offers and the session (R375, R380) -/

theorem execOfferExpiry_of_offer {offer : W64} {o : Offer} (hlit : lit s = true) (ho : tabGet s.sec.offers offer.toNat = some o) :
    execOfferExpiry offer s =
      .next (secMod (fun x => { x with offers := tabErase x.offers offer.toNat }) (advanceTo (o.openedAt + 60000000000) s)) := by
  rw [execOfferExpiry, whileLit_of_lit hlit]
  simp only [ho]

theorem execOfficerSessionExpiry_of_session {t : Nat} (hlit : lit s = true) (ht : s.sec.sessionAt = some t) :
    execOfficerSessionExpiry s = .next (secMod (fun x => { x with sessionAt := none }) (advanceTo (t + 600000000000) s)) := by
  rw [execOfficerSessionExpiry, whileLit_of_lit hlit]
  simp only [ht]

/-! ### Zeros over a failed unit (R392, R393) -/

/-- What the commit of the zeros leaves, whatever becomes of the unit: it is counted and recorded, and its zeros are no longer on their way. -/
def zerosRecorded (qp : Nat) (q : Qp) (own : Bool) (msg : W32) (unit : Nat) (x : RxUnit) (s : State) : State :=
  postRecord q.conf.fn (.sealFailure true x.dva qp unit msg) (unitMod qp own msg unit (fun x => { x with zeroing := false })
    (qpMod qp (fun x => { x with sealing := x.sealing.map fun z => { z with failedUnits := z.failedUnits + 1 } }) s))

/-- The packets of the unit that came meanwhile are opened with its key and placed. -/
def unitPlaced (qp : Nat) (q : Qp) (x : RxUnit) (key : BitVec 288) (s : State) : State :=
  x.data.foldl (fun t d => placeAt q.conf.fn (x.dva + d.1) (gcmXor key x.ctr d.1 d.2) (unitCont qp x) t) s

theorem execUnitZerosCommitted_of_zeroing (hlit : lit s = true) (hq : qpGet s qp = some q) (hx : findUnit q own msg unit = some x)
    (hzeroing : x.zeroing = true) (hv : v = zerosRecorded qp q own msg unit x s) :
    execUnitZerosCommitted qp own msg unit s =
      if 3 ≤ x.fails then .next (endFailedMessage qp q x v)
      else
        match openKey v qp q x.phase, x.failed with
        | some key, false =>
          if x.len ≤ (x.data.map fun d => d.2.length).sum ∧ x.tag.isSome then
            .next (judgeUnit qp q.conf.fn q x (landUnit qp q x) (unitPlaced qp q x key v))
          else .next (unitPlaced qp q x key v)
        | _, _ => .next v := by
  have hdue : ¬ (!x.zeroing) = true := by rw [hzeroing]; exact Bool.false_ne_true
  subst hv
  rw [execUnitZerosCommitted, whileLit_of_lit hlit]
  simp only [hq, hx, if_neg hdue]
  rfl

/-- Settles O31: each event acts as a lemma above says; the third failure of a unit ends its message, and before that the unit is received
again, unless it has failed again meanwhile (log entry 46 for the bits of the tests). -/
theorem securityEventsComplete : Obligations.SecurityEventsComplete := by
  unfold Obligations.SecurityEventsComplete
  refine ⟨?reseed, ?mask, ?lane, ?periodic, ?offer, ?session, ?thirdFailure, ?again, ?failedAgain, ?health⟩
  case reseed =>
    rintro entropy _ s hlit rfl
    exact whileLit_of_lit hlit
  case mask => exact fun _ _ hlit hok => execMaskReseed_of_ok hlit hok
  case lane => exact fun _ _ _ _ _ hlit hl hu => execLaneKat_of_lane hlit hl hu
  case periodic =>
    rintro failing _ u s hlit rfl hu
    exact execPeriodicSelftest_of_lit hlit hu
  case offer => exact fun _ _ _ hlit ho => execOfferExpiry_of_offer hlit ho
  case session => exact fun _ _ hlit ht => execOfficerSessionExpiry_of_session hlit ht
  case thirdFailure =>
    exact fun _ _ _ _ _ _ _ _ hlit hq hx hzeroing hv hfails =>
      (execUnitZerosCommitted_of_zeroing hlit hq hx hzeroing hv).trans (if_pos hfails)
  case again =>
    rintro qp unit own msg q x v key _ s hlit hq hx hzeroing hv hfails hkey hgood rfl
    refine (execUnitZerosCommitted_of_zeroing hlit hq hx hzeroing hv).trans ?_
    rw [if_neg (Nat.not_le.mpr hfails), hkey, hgood]
    exact (apply_ite Host.Outcome.next _ _ _).symm
  case failedAgain =>
    rintro qp unit own msg q x v s hlit hq hx hzeroing hv hfails hfailed
    refine (execUnitZerosCommitted_of_zeroing hlit hq hx hzeroing hv).trans ?_
    rw [if_neg (Nat.not_le.mpr hfails), hfailed]
    cases openKey v qp q x.phase with
    | none => rfl
    | some key => rfl
  case health => exact fun _ _ hlit => whileLit_of_lit hlit

end Sys2Proof.Machine
end

section
/-! The power commands (Table 15-5), the events of power, temperature and droop (chapter 15), and the thermal ceiling. -/

namespace Sys2Proof.Machine

variable {c : Cmd} {s t u : State} {at0 : Nat}

/-! ### Commands (R406, R407, R415, R427) -/

/-- R406 (a `VALID_MS` of 0 is 30). -/
theorem doPwrGrant_of_following {ms : Nat} (hrange : 300 ≤ param c 0 2 ∧ param c 0 2 ≤ 800)
    (hms : ms = (if param c 2 2 = 0 then 30 else param c 2 2)) (hvalid : 10 ≤ ms ∧ ms ≤ 1000)
    (hfollows : grantFollows (BitVec.ofNat 32 (param c 4 4)) t.power.grantSeq = true) :
    doPwrGrant c t =
      .done (endExpiry (powerMod (fun p =>
        { p with grantW := param c 0 2, grantSeq := BitVec.ofNat 32 (param c 4 4), validUntil := some (t.dev.now + 1000000 * ms) }) t)) .ok
        (nextMultiple t.dev.now 1000) (budget t) t.power.meas.mean1ms := by
  subst hms
  refine needParam_of_true ?_
  rw [hfollows, Bool.and_true]
  exact decide_eq_true ⟨hrange.1, hrange.2, hvalid⟩

theorem doPwrFallback_of_range (hrange : 300 ≤ param c 0 2 ∧ param c 0 2 ≤ 760) :
    doPwrFallback c t = .done (powerMod (fun p => { p with fallback := param c 0 2 }) t) .ok t.power.fallback 0 0 :=
  needParam_of_true (decide_eq_true hrange)

theorem doPwrQuery_of_place (hplace : isHelm c = true ∨ param c 0 8 % 64 = 0 ∧ 256 ≤ param c 8 4) :
    doPwrQuery c t =
      .done (powerMod (fun p => { p with peak50 := 0 }) (writeResult c (param c 0 8) 2048 (powerRecord t) t)) .ok 256 0 0 :=
  needParam_of_true (by simpa only [Bool.or_eq_true, Bool.and_eq_true, beq_iff_eq, decide_eq_true_eq] using hplace)

theorem doPwrLearn_of_kind (hkind : param c 0 1 ≤ 2) :
    doPwrLearn c t = .done (ceilMod (fun x => { x with learn := x.learn ++ [param c 0 1] }) t) .ok 0 0 0 :=
  needParam_of_true (decide_eq_true hkind)

/-- Settles O14: each command runs to its reply. -/
theorem powerCommandsComplete : Obligations.PowerCommandsComplete := by
  unfold Obligations.PowerCommandsComplete
  refine ⟨?grant, ?fallback, ?query, ?learn⟩
  case grant =>
    exact fun _ _ _ _ h hrange hms hvalid hfollows => congrArg Host.Outcome.next
      (runCmd_eq_okReply h (doPwrGrant_of_following hrange hms hvalid hfollows))
  case fallback => exact fun _ _ _ h hrange => congrArg Host.Outcome.next (runCmd_eq_okReply h (doPwrFallback_of_range hrange))
  case query => exact fun _ _ _ h hplace => congrArg Host.Outcome.next (runCmd_eq_okReply h (doPwrQuery_of_place hplace))
  case learn => exact fun _ _ _ h hkind => congrArg Host.Outcome.next (runCmd_eq_okReply h (doPwrLearn_of_kind hkind))

/-! ### Enforcement and the sextant controller (R407, R409, R413) -/

/-- The measurements of a tick are taken at its boundary. -/
def measured (m : PowerMeas) (s : State) : State :=
  powerMod (fun p => { p with meas := m, peak50 := max p.peak50 m.mean50us })
    (advanceTo (nextMultiple s.dev.ticks.enforce 1000) (tickMod (fun x => { x with enforce := nextMultiple s.dev.ticks.enforce 1000 }) s))

theorem execEnforcementTick_of_lit {m : PowerMeas} (hlit : lit s = true) (hu : u = measured m s) :
    execEnforcementTick m s =
      .next (stepSetpoint (powerMod (fun p => { p with enforced := slopeLimited u p.enforced (wantedPower m u) }) u)) := by
  subst hu
  exact whileLit_of_lit hlit

theorem execSextantDivision_of_running {w : WindowMeas} {v x : State} (hrunning : s.dev.life = .running)
    (hu : u = divide w (ceilMod (fun c => { c with phaseMix := phaseShares w })
      (learnWindow w (advanceTo (nextMultiple s.dev.ticks.division 100000)
        (tickMod (fun x => { x with division := nextMultiple s.dev.ticks.division 100000 }) s)))))
    (hv : v = powerMod (fun p => { p with target := chooseSetpoint w u }) (droopMod (fun d => { d with pendingSetpoint := none }) u))
    (hx : x = (if v.dev.now < v.power.framedAt + 1000 then v else sendVid v)) :
    execSextantDivision w s = .next (setClock (chooseClock w.controlLoad x) x) := by
  subst hx hv hu
  exact if_neg (not_not.mpr hrunning)

theorem execGrantExpiry_of_grant (hlit : lit s = true) (ht : s.power.validUntil = some at0)
    (hu : u = powerMod (fun p => { p with validUntil := none }) (advanceTo at0 s)) :
    execGrantExpiry s = .next (setAlert 0 true (raiseEvent .grantExpired 0 nodeSelf u.power.grantSeq.toNat u.power.fallback u)) := by
  subst hu
  rw [execGrantExpiry, whileLit_of_lit hlit]
  simp only [ht]

/-! ### Temperature (R423, R424, R426) -/

theorem execSensorSample_of_readings {readings : List Int} (hlit : lit s = true) (hcount : readings.length = 48)
    (hu : u = thermalMod (fun x => { x with readings := readings }) (advanceTo (nextMultiple s.dev.ticks.sample 10000)
      (tickMod (fun x => { x with sample := nextMultiple s.dev.ticks.sample 10000 }) s))) :
    execSensorSample readings s =
      .next (judgeHeat (thermalMod (fun x => { x with windowMax := some (max (hottest u).1 (x.windowMax.getD (hottest u).1)) }) u)) := by
  subst hu
  rw [execSensorSample, whileLit_of_lit hlit]
  exact if_neg (not_not.mpr hcount)

theorem execThermtrip_of_hot {sensor : Nat} {reading : Int} (hsensor : sensor < 48) (hhot : 1840 ≤ reading) :
    execThermtrip sensor reading s =
      .next (thermalMod (fun t => { t with tripped := true })
        { s with dev := { s.dev with life := .tripped }, clocks := { s.clocks with stopped := BitVec.allOnes 18 } }) :=
  if_pos ⟨hsensor, hhot⟩

/-- The instant at which a thermal window ends. -/
def windowEnded (s : State) : State :=
  advanceTo (nextMultiple s.dev.ticks.thermal 100000) (tickMod (fun x => { x with thermal := nextMultiple s.dev.ticks.thermal 100000 }) s)

/-- The next window begins with the hottest reading that stands. -/
def windowBegun (u v : State) : State := thermalMod (fun x => { x with windowMax := some (hottest u).1 }) v

theorem execThermalWindow_of_unsampled (hlit : lit s = true) (hnone : s.thermal.windowMax = none) :
    execThermalWindow s = .next (windowBegun (windowEnded s) (windowEnded s)) := by
  rw [execThermalWindow, whileLit_of_lit hlit]
  simp only [hnone]
  rfl

section
variable {m : Int} (hlit : lit s = true) (hm : s.thermal.windowMax = some m)
include hlit hm

/-- R424: the ceiling falls at 100.0 degrees, which counts as a throttle where it is not at its lowest. -/
theorem execThermalWindow_of_hot (hu : u = windowEnded s) (hhot : 1600 ≤ m) :
    execThermalWindow s =
      .next (windowBegun u (if 300 < s.power.thermal then
          droopMod (fun d => { d with throttles := d.throttles + 1 }) (powerMod (fun p => { p with thermal := max 300 (s.power.thermal - 16) }) u)
        else powerMod (fun p => { p with thermal := max 300 (s.power.thermal - 16) }) u)) := by
  subst hu
  rw [execThermalWindow, whileLit_of_lit hlit]
  simp only [hm, if_pos hhot]
  rfl

theorem execThermalWindow_of_cool (hcool : m ≤ 1552) :
    execThermalWindow s =
      .next (windowBegun (windowEnded s) (powerMod (fun p => { p with thermal := min 800 (s.power.thermal + 4) }) (windowEnded s))) := by
  have hnot : ¬ 1600 ≤ m := by omega
  rw [execThermalWindow, whileLit_of_lit hlit]
  simp only [hm, if_neg hnot, if_pos hcool]
  rfl

theorem execThermalWindow_of_between (hlow : 1552 < m) (hhigh : m < 1600) :
    execThermalWindow s = .next (windowBegun (windowEnded s) (windowEnded s)) := by
  rw [execThermalWindow, whileLit_of_lit hlit]
  simp only [hm, if_neg (Int.not_le.mpr hhigh), if_neg (Int.not_le.mpr hlow)]
  rfl

end

/-- Settles O43: at the end of a window the ceiling falls, rises or stays by the three lemmas above, whose ranges of Tj are disjoint. -/
theorem thermalCeiling : Obligations.ThermalCeiling := by
  unfold Obligations.ThermalCeiling
  refine ⟨rfl, fun s m hlit hm => ?_⟩
  obtain hhot | hnotHot := le_or_gt 1600 m
  · refine ⟨_, execThermalWindow_of_hot hlit hm rfl hhot, fun _ => ?_, fun hcool => ?_, fun _ hhigh => ?_⟩
    · split
      · rfl
      · rfl
    · omega
    · omega
  · obtain hcool | hnotCool := le_or_gt m 1552
    · refine ⟨_, execThermalWindow_of_cool hlit hm hcool, fun hhot => ?_, fun _ => rfl, fun hlow _ => ?_⟩
      · omega
      · omega
    · refine ⟨_, execThermalWindow_of_between hlit hm hnotCool hnotHot, fun hhot => ?_, fun hcool => ?_, fun _ _ => rfl⟩
      · omega
      · omega

/-! ### Droop (R420 to R422) -/

theorem execDroopDetect_of_core {site mv : Nat} (hlit : lit s = true) (hsite : site ≤ 16) (hlow : 100 * mv ≤ 97 * s.power.setpoint)
    (hnone : s.droop.coreSince = none) :
    execDroopDetect .vddCore site mv s = .next (droopMod (fun d => { d with coreSince := some s.dev.now, coreLong := false }) s) :=
  (whileLit_of_lit hlit).trans (if_pos ⟨hsite, hlow, hnone⟩)

theorem execDroopDetect_of_island {site mv : Nat} (hlit : lit s = true) (hsite : site ≤ 17) (hlow : 100 * mv ≤ 97 * 750)
    (hnone : s.droop.islSince = none) :
    execDroopDetect .vddIsl site mv s = .next (droopMod (fun d => { d with islSince := some s.dev.now, islLong := false }) s) :=
  (whileLit_of_lit hlit).trans (if_pos ⟨hsite, hlow, hnone⟩)

theorem execDroopRecovery_of_core (hlit : lit s = true) (hopen : s.droop.coreSince.isSome = true) :
    execDroopRecovery .vddCore s =
      .next (droopMod (fun d =>
        { d with coreSince := none, coreLong := false, coreRecovered := some s.dev.now, events := d.events + 1 }) s) :=
  (whileLit_of_lit hlit).trans (if_pos hopen)

theorem execDroopRecovery_of_island (hlit : lit s = true) (hopen : s.droop.islSince.isSome = true) :
    execDroopRecovery .vddIsl s =
      .next (droopMod (fun d =>
        { d with islSince := none, islLong := false, islRecovered := some s.dev.now, events := d.events + 1 }) s) :=
  (whileLit_of_lit hlit).trans (if_pos hopen)

theorem execDroopLong_of_core (hlit : lit s = true) (hopen : s.droop.coreSince = some at0) (hshort : s.droop.coreLong = false)
    (hu : u = droopMod (fun d => { d with coreLong := true }) (advanceTo (at0 + 2000) s)) :
    execDroopLong .vddCore s = .next (raiseEvent .droopLong 0 nodeSelf 0 (u.dev.now - at0) u) := by
  subst hu
  rw [execDroopLong, whileLit_of_lit hlit]
  simp only [hopen, hshort, Bool.false_eq_true, if_false]

theorem execDroopLong_of_island (hlit : lit s = true) (hopen : s.droop.islSince = some at0) (hshort : s.droop.islLong = false)
    (hu : u = droopMod (fun d => { d with islLong := true }) (advanceTo (at0 + 2000) s)) :
    execDroopLong .vddIsl s = .next (raiseEvent .droopLong 0 nodeSelf 1 (u.dev.now - at0) u) := by
  subst hu
  rw [execDroopLong, whileLit_of_lit hlit]
  simp only [hopen, hshort, Bool.false_eq_true, if_false]

/-- The deferred change of the core setpoint, which goes out as a VID frame a microsecond after the last (log entry 61). -/
def setpointChanged (at0 : Nat) (s : State) : State :=
  sendVid (powerMod (fun p => { p with setpoint := s.droop.pendingSetpoint.getD p.setpoint })
    (droopMod (fun x => { x with pendingSetpoint := none, deferred := x.deferred + 1 }) (advanceTo (max at0 (s.power.framedAt + 1000)) s)))

/-- The deferred change of the island clock. -/
def clockChanged (at0 : Nat) (s : State) : State :=
  droopMod (fun x => { x with pendingClock := none, coreClock := s.droop.pendingClock.getD x.coreClock, deferred := x.deferred + 1 })
    (advanceTo at0 s)

/-- The instants at which the deferred changes of the setpoint and of the clock are due. -/
def setpointDue (s : State) : Option Nat := deferredDue s.droop.coreSince s.droop.coreRecovered s.droop.pendingSetpoint s.dev.now

def clockDue (s : State) : Option Nat := deferredDue s.droop.islSince s.droop.islRecovered s.droop.pendingClock s.dev.now

/-- R422: of the two deferred changes the earlier is taken, and the setpoint's where both are due at one instant. -/
theorem execDeferredFreqChange_of_setpoint {a : Nat} (hlit : lit s = true) (ha : setpointDue s = some a)
    (hfirst : ∀ b, clockDue s = some b → a ≤ b) : execDeferredFreqChange s = .next (setpointChanged a s) := by
  rw [execDeferredFreqChange, whileLit_of_lit hlit]
  dsimp only
  rw [show deferredDue s.droop.coreSince s.droop.coreRecovered s.droop.pendingSetpoint s.dev.now = some a from ha]
  cases hb : deferredDue s.droop.islSince s.droop.islRecovered s.droop.pendingClock s.dev.now with
  | none => rfl
  | some b => exact congrArg Host.Outcome.next (if_pos (hfirst b hb))

theorem execDeferredFreqChange_of_clock {b : Nat} (hlit : lit s = true) (hb : clockDue s = some b)
    (hfirst : ∀ a, setpointDue s = some a → b < a) : execDeferredFreqChange s = .next (clockChanged b s) := by
  rw [execDeferredFreqChange, whileLit_of_lit hlit]
  dsimp only
  rw [show deferredDue s.droop.islSince s.droop.islRecovered s.droop.pendingClock s.dev.now = some b from hb]
  cases ha : deferredDue s.droop.coreSince s.droop.coreRecovered s.droop.pendingSetpoint s.dev.now with
  | none => rfl
  | some a => exact congrArg Host.Outcome.next (if_neg (Nat.not_le.mpr (hfirst a ha)))

/-- Settles O30: each event acts as a lemma above says where it is due (log entry 45 for the unit of a reading, log entry 51 for the duration in
`DROOP_LONG`, log entry 61 for the spacing of VID frames). -/
theorem powerEventsComplete : Obligations.PowerEventsComplete := by
  unfold Obligations.PowerEventsComplete
  refine ⟨?tick, ?division, ?expiry, ?sample, ?trip, ?unsampled, ?hot, ?cool, ?between, ?detectCore, ?detectIsland, ?recoverCore,
    ?recoverIsland, ?longCore, ?longIsland, ?setpoint, ?clock, ?ageing⟩
  case tick =>
    rintro m _ u s hlit rfl hu
    exact execEnforcementTick_of_lit hlit hu
  case division =>
    rintro w _ u v x s hrunning rfl hu hv hx
    exact execSextantDivision_of_running hrunning hu hv hx
  case expiry => exact fun _ _ _ hlit ht hu => execGrantExpiry_of_grant hlit ht hu
  case sample =>
    rintro readings _ u s hlit hcount rfl hu
    exact execSensorSample_of_readings hlit hcount hu
  case trip => exact fun _ _ _ hsensor hhot => execThermtrip_of_hot hsensor hhot
  case unsampled =>
    rintro _ _ s hlit rfl rfl hnone
    exact execThermalWindow_of_unsampled hlit hnone
  case hot =>
    rintro _ u m s hlit rfl hu hm hhot
    exact execThermalWindow_of_hot hlit hm hu hhot
  case cool =>
    rintro _ _ m s hlit rfl rfl hm hcool
    exact execThermalWindow_of_cool hlit hm hcool
  case between =>
    rintro _ _ m s hlit rfl rfl hm hlow hhigh
    exact execThermalWindow_of_between hlit hm hlow hhigh
  case detectCore => exact fun _ _ _ hlit hsite hlow hnone => execDroopDetect_of_core hlit hsite hlow hnone
  case detectIsland => exact fun _ _ _ hlit hsite hlow hnone => execDroopDetect_of_island hlit hsite hlow hnone
  case recoverCore => exact fun _ hlit hopen => execDroopRecovery_of_core hlit hopen
  case recoverIsland => exact fun _ hlit hopen => execDroopRecovery_of_island hlit hopen
  case longCore => exact fun _ _ _ hlit hopen hshort hu => execDroopLong_of_core hlit hopen hshort hu
  case longIsland => exact fun _ _ _ hlit hopen hshort hu => execDroopLong_of_island hlit hopen hshort hu
  case setpoint =>
    rintro _ _ a _ s hlit rfl rfl ha hfirst rfl
    exact execDeferredFreqChange_of_setpoint hlit ha hfirst
  case clock =>
    rintro _ _ b s hlit rfl rfl hb hfirst
    exact execDeferredFreqChange_of_clock hlit hb hfirst
  case ageing =>
    rintro report _ s hlit rfl
    exact whileLit_of_lit hlit

end Sys2Proof.Machine
end

section
/-! The diagnostic and fault commands (Tables 17-9 and 18-6), and the events of the fault store (chapter 18): what each comes to where the device
reads it and its own checks pass, and where it is due. -/

namespace Sys2Proof.Machine

variable {c : Cmd} {s t u : State}

/-! ### diag.* (R465, R466) -/

theorem doDiagResults_of_aligned {l : List ResultRec} (haligned : param c 0 8 % 64 = 0) (hl : l = t.start.log.take (param c 8 4 / 32)) :
    doDiagResults c t =
      .done (if l.isEmpty then t else writeResult c (param c 0 8) (256 * l.length) (logBits l) t) .ok l.length t.start.found
        (pack [(0, 4, startKindCode t.start.kind), (4, 1, flag t.start.ran), (5, 1, flag t.start.clocks), (6, 1, flag t.start.supplies),
               (7, 1, flag t.start.fused), (16, 32, t.start.duration)]) := by
  subst hl
  exact needParam_of_true (beq_iff_eq.mpr haligned)

theorem doDiagSelftest_of_idle (hidle : (t.fns.all fun p => p.2.mode == .stopped || p.2.mode == .disabled) = true) :
    doDiagSelftest c t = .done (devMod (fun d => { d with resetDue := some (t.dev.now + 10000, .selftest) }) t) .ok 0 0 0 :=
  if_pos hidle

theorem doDiagLoopback_of_outOfService (hkind : param c 0 1 ≤ 1) (hport : param c 1 1 < (if param c 0 1 = 0 then 4 else 16))
    (hmode : param c 2 1 ≤ 2) (hlow : 1 ≤ param c 4 4) (hhigh : param c 4 4 ≤ 10000)
    (hout : outOfService t (param c 0 1) (param c 1 1) = true) :
    doDiagLoopback c t =
      .deferred (setLoop (param c 0 1) (param c 1 1) (some (t.dev.now + 1000000 * param c 4 4)) t)
        (.loopback (param c 0 1) (param c 1 1) (param c 2 1) (t.dev.now + 1000000 * param c 4 4)) :=
  (needParam_of_true (decide_eq_true ⟨hkind, hport, hmode, hlow, hhigh⟩)).trans (if_pos hout)

theorem execDiagLoopbackDone_of_run {bits_ worst : W64} {lane : W8} {p : Pending} {kind port mode ends : Nat} (hlit : lit s = true)
    (hfind : s.commands.find? (loopEndsFirst s) = some p) (hwhat : p.what = .loopback kind port mode ends) :
    execDiagLoopbackDone bits_ worst lane s =
      .next (answer p .ok bits_.toNat worst.toNat lane.toNat (logFarEnd kind port mode worst lane
        (setLoop kind port none (advanceTo ends { s with commands := s.commands.erase p })))) := by
  rw [execDiagLoopbackDone, whileLit_of_lit hlit]
  simp only [hfind, hwhat]

/-! ### fault.* (R470, R477) -/

theorem doFaultAck_of_record (hrecord : t.faults.unacked.contains (BitVec.ofNat 32 (param c 0 4), param c 4 1) = true) :
    doFaultAck c t =
      .done { t with faults := { t.faults with unacked := t.faults.unacked.erase (BitVec.ofNat 32 (param c 0 4), param c 4 1) } } .ok 0 0 0 :=
  needParam_of_true hrecord

/-- Settles O18: each command runs to its reply, which `diag.loopback` owes until its run ends (log entry 110 for the records that wait, inside
`unackedRecords`). -/
theorem diagnosticCommandsComplete : Obligations.DiagnosticCommandsComplete := by
  unfold Obligations.DiagnosticCommandsComplete
  refine ⟨?results, ?selftest, ?inventory, ?loopback, ?loopbackDone, ?query, ?ack⟩
  case results =>
    exact fun _ _ _ _ h haligned hl => congrArg Host.Outcome.next (runCmd_eq_okReply h (doDiagResults_of_aligned haligned hl))
  case selftest => exact fun _ _ _ h hidle => congrArg Host.Outcome.next (runCmd_eq_okReply h (doDiagSelftest_of_idle hidle))
  case inventory => exact fun _ _ _ h => congrArg Host.Outcome.next (runCmd_eq_okReply h rfl)
  case loopback =>
    exact fun _ _ _ h hkind hport hmode hlow hhigh hout => congrArg Host.Outcome.next
      (runCmd_eq_acceptedReply h (doDiagLoopback_of_outOfService hkind hport hmode hlow hhigh hout))
  case loopbackDone => exact fun _ _ _ _ _ _ _ _ _ hlit hfind hwhat => execDiagLoopbackDone_of_run hlit hfind hwhat
  case query =>
    rintro c s t _ _ h rfl rfl
    exact congrArg Host.Outcome.next (runCmd_eq_okReply h rfl)
  case ack => exact fun _ _ _ h hrecord => congrArg Host.Outcome.next (runCmd_eq_okReply h (doFaultAck_of_record hrecord))

/-! ### The fault store (R468, R473, R474) -/

theorem execFaultPendingWrite_of_waiting {fn : Nat} (head : W32) (hlit : lit s = true) (hwaits : (waiters s fn).isEmpty = false)
    (hdma : dmaBarred s fn = false) : execFaultPendingWrite fn head s = .next (readFqHead fn head s) := by
  rw [execFaultPendingWrite, whileLit_of_lit hlit, if_neg]
  simp only [hwaits, hdma, Bool.false_eq_true, or_self, not_false_eq_true]

/-- Settles O34: a record that waits is written once FQ_HEAD is read again; the boundaries act at their instants. -/
theorem faultEventsComplete : Obligations.FaultEventsComplete := by
  unfold Obligations.FaultEventsComplete
  refine ⟨?pendingWrite, ?boundary, ?closing⟩
  case pendingWrite => exact fun _ head _ hlit hwaits hdma => execFaultPendingWrite_of_waiting head hlit hwaits hdma
  case boundary =>
    rintro _ _ s hlit rfl rfl
    exact whileLit_of_lit hlit
  case closing =>
    rintro _ _ s hlit rfl rfl
    exact whileLit_of_lit hlit

end Sys2Proof.Machine
end

section
/-! Power-on, starts, device resets and losses (chapters 1, 17 and 19): what each event does where its conditions hold. -/

namespace Sys2Proof.Machine

variable {s : State} {straps : Straps} {selftest : List TestResult} {clocksOk suppliesOk imageOk : Bool} {crypto : W64}

/-! ### Starts and losses of power (R445, R446, R453, R454) -/

theorem execPowerOnRelease_of_inReset (hlife : s.dev.life = .inReset) :
    execPowerOnRelease straps selftest clocksOk suppliesOk s = .next (runTests .cold selftest clocksOk suppliesOk (coldState straps s)) :=
  if_pos hlife

theorem execRailOutOfTolerance_of_rail {rail : Nat} (hrail : rail < 9) :
    execRailOutOfTolerance rail s =
      .next (thermalMod (fun t => { t with tripped := false }) (devMod (fun d => { d with life := .inReset, resetDue := none }) s)) :=
  if_pos hrail

theorem execRefclkAbsentTimeout_of_starting (hlife : s.dev.life = .starting ∨ s.dev.life = .restarting) :
    execRefclkAbsentTimeout s =
      .next (setAlert 2 true (devMod (fun d => { d with life := .waitingRefs, refsPresent := false })
        (advanceTo (s.dev.lastLiveness + 1000000000) s))) := by
  have hstarting : isStarting s = true := by simpa only [isStarting, Bool.or_eq_true, beq_iff_eq] using hlife
  exact if_pos hstarting

theorem execStartComplete_of_starting (hlife : s.dev.life = .starting) :
    execStartComplete imageOk crypto s =
      .next (drainHelm (if s.start.kind = .cold then endStart imageOk crypto 430000 2000 id s else endStart imageOk crypto 428000 0 id s)) :=
  if_pos hlife

/-! ### Device resets (R449 to R451) -/

/-- A reset that is due takes effect once no placement is open. -/
theorem execDeviceResetTakesEffect_of_due {t : Nat} {kind : StartKind} (hdue : s.dev.resetDue = some (t, kind))
    (hlife : (lit s || s.dev.life == .romRecovery) = true) (hopen : placementsOpen s = false) :
    execDeviceResetTakesEffect straps selftest clocksOk suppliesOk s =
      .next (judgeStrap straps (runTests (if kind = .selftest then .selftest else .railsHeld) selftest clocksOk suppliesOk
        (if kind = .selftest then selftestState straps (stepToBoot 10 (advanceTo t s))
          else heldState straps (unreadCommands (stepToBoot 10 (advanceTo t s)))))) := by
  have htakes : ¬ (!(lit s || s.dev.life == .romRecovery) || placementsOpen s) = true := by
    rw [hlife, hopen]
    exact Bool.false_ne_true
  rw [execDeviceResetTakesEffect, hdue]
  exact if_neg htakes

theorem execRestartComplete_of_restarting (hlife : s.dev.life = .restarting) :
    execRestartComplete imageOk crypto s = .next (drainHelm (endStart imageOk crypto 309500 0 restartWork s)) :=
  if_pos hlife

/-! ### PPS edges (R490) -/

/-- An edge follows another within 100 ms. -/
def ppsNear (s : State) : Bool :=
  match s.dev.ppsEdgeAt with
  | some t => decide (s.dev.now < t + 100000000)
  | none => false

theorem execPpsEdge_of_wide {highNs : Nat} (hwide : 20 ≤ highNs) :
    execPpsEdge highNs s =
      .next { s with dev := (if ppsNear s then { s.dev with ppsCount := s.dev.ppsCount + 1, ppsEdgeAt := some s.dev.now }
                             else { s.dev with ppsCount := s.dev.ppsCount + 1, ppsEdgeAt := some s.dev.now,
                                               ppsPrev := s.dev.ppsLatest, ppsLatest := s.dev.now }) } :=
  if_neg (Nat.not_lt.mpr hwide)

theorem ppsNear_of_near {t : Nat} (hedge : s.dev.ppsEdgeAt = some t) (hnear : s.dev.now < t + 100000000) : ppsNear s = true := by
  rw [ppsNear, hedge]
  exact decide_eq_true hnear

theorem ppsNear_of_far (hfar : ∀ t, s.dev.ppsEdgeAt = some t → t + 100000000 ≤ s.dev.now) : ppsNear s = false := by
  unfold ppsNear
  split
  · exact decide_eq_false (Nat.not_lt.mpr (hfar _ ‹_›))
  · rfl

/-! ### A lost shoal (R304) -/

theorem execLossOfOneShoal_of_usable {shoal : Nat} (hlit : lit s = true) (hshoal : bit s.dev.inventory.shoals.toNat shoal = true) :
    execLossOfOneShoal shoal s = .next (retireShoal shoal s) :=
  (whileLit_of_lit hlit).trans (if_pos hshoal)

/-- Settles O36: each event acts as a lemma above says where the device is in the state that it speaks of (log entry 63 for the lengths of
starts, free values); `TRST_N_ASSERT` has no condition. -/
theorem lifecycleEventsComplete : Obligations.LifecycleEventsComplete := by
  unfold Obligations.LifecycleEventsComplete
  refine ⟨?powerOn, ?rail, ?refclk, ?start, ?reset, ?restart, ?pps, ?ppsNear, ?trst, ?shoal⟩
  case powerOn => exact fun _ _ _ _ _ hlife => execPowerOnRelease_of_inReset hlife
  case rail => exact fun _ _ hrail => execRailOutOfTolerance_of_rail hrail
  case refclk => exact fun _ hlife => execRefclkAbsentTimeout_of_starting hlife
  case start => exact fun _ _ _ hlife => execStartComplete_of_starting hlife
  case reset => exact fun _ _ _ _ _ _ _ hdue hlife hopen => execDeviceResetTakesEffect_of_due hdue hlife hopen
  case restart => exact fun _ _ _ hlife => execRestartComplete_of_restarting hlife
  case pps =>
    intro highNs s hwide hfar
    refine (execPpsEdge_of_wide hwide).trans ?_
    rw [ppsNear_of_far hfar]
    rfl
  case ppsNear =>
    intro highNs t s hwide hedge hnear
    refine (execPpsEdge_of_wide hwide).trans ?_
    rw [ppsNear_of_near hedge hnear]
    rfl
  case trst => exact fun _ => rfl
  case shoal => exact fun _ _ hlit hshoal => execLossOfOneShoal_of_usable hlit hshoal

end Sys2Proof.Machine
end

section
/-! The checks of the transport that run by themselves (chapters 6, 7 and 18): silences, epochs, admissions, refills, soundings and polls. -/

namespace Sys2Proof.Machine

variable {s u : State} {q : Qp} {n qp : Nat}

/-! ### Silences (R472) -/

theorem execPeerSilent_of_qp {t : Nat} (hlit : lit s = true) (hq : qpGet s n = some q) (hout : outstanding s q = true)
    (ht : q.send.outSince = some t) (hheard : q.send.silent = false) :
    execPeerSilent (.qp n) s =
      .next (reportSilence (max t (deviceHeard s q)) q.conf.fn (peerNode q) (sendMod n (fun x => { x with silent := true }) s)) := by
  rw [execPeerSilent, whileLit_of_lit hlit]
  simp only [hq, hout, ht, hheard, if_true, Option.map_some, Bool.false_eq_true, if_false]

theorem execPeerSilent_of_request {port t : Nat} {x : FabPort} {r : ReqStream} (hlit : lit s = true) (hx : portGet s port = some x)
    (hr : streamGet s port n = some r) (ht : r.outSince = some t) (hheard : r.silent = false) :
    execPeerSilent (.request port n) s =
      .next (reportSilence (max t x.heardAt) r.fn (nodeDevice x.partnerDev) (streamMod port n (fun y => { y with silent := true }) s)) := by
  rw [execPeerSilent, whileLit_of_lit hlit]
  simp only [hx, hr, ht, hheard, Bool.false_eq_true, if_false]

theorem execPeerSilent_of_coll {slot : Nat} {g : CollGroup} {o : Nat × Nat} (hlit : lit s = true) (hg : groupGet s slot = some g)
    (ho : oldestSent g = some o) :
    execPeerSilent (.coll slot) s =
      .next (reportSilence (max o.1 ((tabGet g.heard o.2).getD 0)) g.fn (nodeDevice o.2)
        (groupMod slot (fun x => { x with silent := x.silent ++ [o.2] }) s)) := by
  rw [execPeerSilent, whileLit_of_lit hlit]
  simp only [hg, ho]

/-! ### Rates and admissions (R32, R175, R196) -/

theorem execCcEpochEnd_of_ready (hlit : lit s = true) (hq : qpGet s qp = some q) (hready : q.phase = .ready) (hfree : admitted q = none)
    (hu : u = advanceTo (q.cc.epochAt + max ⌈q.send.srtt⌉.toNat (epochMin s)) s) :
    execCcEpochEnd qp s =
      .next (ccMod qp (fun c =>
        { c with rate := nextRate s q, target := ccTarget s q, epochAt := u.dev.now, samples := 0, qmin := none, ce := 0, settled := 0,
                 lossTimer := false, paths := nextPaths s q }) u) := by
  subst hu
  rw [execCcEpochEnd, whileLit_of_lit hlit]
  simp only [hq, hready, hfree, Option.isSome_none, ne_eq, not_true_eq_false, Bool.false_eq_true, or_self, if_false]

theorem execAdmissionRecheck_of_due {t : Nat} (hlit : lit s = true) (ht : s.sched.recheckAt = some t) :
    execAdmissionRecheck s = .next (recheckAll (schedMod (fun y => { y with recheckAt := none }) s)) := by
  rw [execAdmissionRecheck, whileLit_of_lit hlit]
  simp only [ht]

theorem execCopyAckDeadline_of_late {seq : W32} {a : Admission} {x : TxPacket} (hlit : lit s = true) (hq : qpGet s qp = some q)
    (ha : admitted q = some a) (hx : q.send.flight.find? (fun x => x.seq == seq && !x.sacked && !x.late) = some x)
    (heth : isFabric q = false) :
    execCopyAckDeadline qp seq s =
      .next (violate qp q a (sendMod qp (fun y =>
        { y with flight := y.flight.map fun z => if z.seq = seq then { z with late := true } else z })
        (advanceTo (x.sentAt + a.netRtt + 8000) s))) := by
  rw [execCopyAckDeadline, whileLit_of_lit hlit]
  simp only [hq, ha, hx]
  exact if_neg (Bool.eq_false_iff.mp heth)

/-! ### Soundings and polls (R163, R187) -/

/-- The read index of the sounding ring, where the sample comes with one. -/
def soundingHead (fn : Nat) (head : Option W32) (s : State) : State :=
  match head with
  | some h => fnMod fn (fun f => { f with sounding := f.sounding.map fun r => { r with head := h } }) s
  | none => s

theorem execSoundingSample_of_next {kind : Nat} {id : W20} {x : Sounding} (head : Option W32) (hlit : lit s = true)
    (hx : nextSounding s kind id = some x) :
    execSoundingSample kind id head s =
      .next (schedMod (fun y =>
        { y with soundings := y.soundings.map fun z => if z = x then { z with nextAt := z.nextAt + 1000 * 2 ^ z.k } else z })
        (writeSounding x.fn kind id.toNat (soundingHead x.fn head (dueRefills (advanceTo x.nextAt s))))) := by
  rw [execSoundingSample, whileLit_of_lit hlit]
  simp only [hx]
  rfl

theorem execCqHeadPoll_of_open {fn cq : Nat} {head : W32} (hlit : lit s = true) (hdma : dmaBarred s fn = false) :
    execCqHeadPoll fn cq head s = .next (readCqHead (pairKey fn cq) head s) :=
  (whileLit_of_lit hlit).trans (if_neg (Bool.eq_false_iff.mp hdma))

/-- Settles O24: each check acts as a lemma above says where it is due; the refills make up for every microsecond since the last. -/
theorem transportChecksComplete : Obligations.TransportChecksComplete := by
  unfold Obligations.TransportChecksComplete
  refine ⟨?silentQp, ?silentRequest, ?silentColl, ?epoch, ?recheck, ?copyAck, ?shapers, ?policers, ?sounding, ?soundingHead, ?poll⟩
  case silentQp => exact fun _ _ _ _ hlit hq hout ht hheard => execPeerSilent_of_qp hlit hq hout ht hheard
  case silentRequest => exact fun _ _ _ _ _ _ hlit hx hr ht hheard => execPeerSilent_of_request hlit hx hr ht hheard
  case silentColl => exact fun _ _ _ _ hlit hg ho => execPeerSilent_of_coll hlit hg ho
  case epoch => exact fun _ _ _ _ hlit hq hready hfree hu => execCcEpochEnd_of_ready hlit hq hready hfree hu
  case recheck => exact fun _ _ hlit ht => execAdmissionRecheck_of_due hlit ht
  case copyAck => exact fun _ _ _ _ _ _ hlit hq ha hx heth => execCopyAckDeadline_of_late hlit hq ha hx heth
  case shapers =>
    rintro _ _ _ s hlit rfl rfl rfl
    exact whileLit_of_lit hlit
  case policers =>
    rintro _ _ _ s hlit rfl rfl rfl
    exact whileLit_of_lit hlit
  case sounding => exact fun _ _ _ _ hlit hx => execSoundingSample_of_next none hlit hx
  case soundingHead => exact fun _ _ head _ _ hlit hx => execSoundingSample_of_next (some head) hlit hx
  case poll => exact fun _ _ _ _ hlit hdma => execCqHeadPoll_of_open hlit hdma

end Sys2Proof.Machine
end
